-- ==== Sys2Proof/Word.lean ====
section
/-!
DEFINITION. The bit-vector widths of the Zhevlin and the index types of its units (R3, R8).
-/

namespace Sys2Proof

/-- A register or payload word: 32 bits (R3, R352). -/
abbrev Word := BitVec 32

/-- A byte, as NV memory, host memory and two-wire transactions carry it. -/
abbrev Byte := BitVec 8

/-- A regulated rail, 0 to 7. -/
abbrev Rail := Fin 8
/-- A phase, PH00 to PH47. -/
abbrev Phase := Fin 48
/-- A sequencer index (R249). -/
abbrev SeqIdx := Fin 16
/-- A sequencer group. -/
abbrev Group := Fin 8
/-- A window comparator, W00 to W79 (R229). -/
abbrev Window := Fin 80
/-- A physical converter slice (R39). -/
abbrev SliceNo := Fin 17
/-- A service position (R20). -/
abbrev Pos := Fin 16
/-- A lane pair (R91). -/
abbrev PairNo := Fin 4
/-- A Pourn or a two-wire port. -/
abbrev Port := Fin 4
/-- A submission or completion ring (R355). -/
abbrev Ring := Fin 16

end Sys2Proof
end

