-- ==== Sys2Proof/Syntax.lean ====
section
/-!
DEFINITION. The commands of the Zhevlin: one constructor for each row of spec/opcode_table.json,
with what the outside supplies at that instant as its operands. A descriptor's row names the ring on
which the descriptor stands in execution (its fields are in the state, put there by
DESCRIPTOR_FETCH) and the data buffer read for it (R365).
-/

namespace Sys2Proof

/-- The masters that reach BAR0 (R340, R399): the host over PCIe and the two-wire target ports. -/
inductive Master where
  | host | tw0 | tw1 | tw3
  deriving DecidableEq, Repr

/-- How a register write arrives (R352): a full aligned word, with partial byte enables, or wider
than 32 bits. -/
inductive Width where
  | full | partialBytes | wide
  deriving DecidableEq, Repr

/-- What the error check of one NV word read reports (R417, R440). A word that is not named reads
clean at both margins. -/
inductive Ecc where
  | corrData | corrCheck | uncorr | weak
  deriving DecidableEq, Repr

/-- The words of one access that do not read clean, by word index (R11). -/
abbrev EccReport := List (Nat × Ecc)

/-- A host-memory request that ends in error (R374), by its kind. -/
inductive HostAccess where
  | fetch (q : Ring) | dataRead (q : Ring) | dataWrite (q : Ring)
  | completion (c : Ring) | doorbell | shadow (q : Ring) | cqShadow (c : Ring)
  deriving DecidableEq, Repr

/-- Causes of a host-interface block reset (R375, R381). -/
inductive HifCause where
  | faultReaction | flr | hotReset | linkDown | perstn
  deriving DecidableEq, Repr

/-- How the bus clear of R468 ran: the clocks it sent, and whether SDA read high after the STOP. -/
structure BusClear where
  clocks : Fin 10
  sdaHigh : Bool
  deriving DecidableEq, Repr

/-- How a controller attempt ends (R458). -/
inductive TwEnd where
  | done (read : List Byte)
  | addressNack (phase : BitVec 2)
  | dataNack (phase : BitVec 2) (byte : BitVec 9)
  deriving DecidableEq, Repr

/-- What a write transaction that another controller begins on a port's bus is to the port: one addressed to it, with
its whole bytes after the address, or one to another device, of which the port sees the START (R452, R457). -/
inductive TwSeen where
  | mine (bytes : List Byte)
  | other
  deriving DecidableEq, Repr

/-- Where a clock-low timeout strikes (R465): a controller's attempt at a byte of a phase (R462), or a
target's transaction after these full bytes. -/
inductive LowSeen where
  | controller (phase : BitVec 2) (byte : BitVec 9)
  | target (read : Bool) (bytes : List Byte)
  deriving DecidableEq, Repr

/-- The four sums of 8192 conversions that an absolute calibration takes at the test-DAC codes 128,
384, 640 and 896, in eighths of an LSB, and its reading of channel 0x63 (R47). -/
structure AbsCal where
  sum0 : Int
  sum1 : Int
  sum2 : Int
  sum3 : Int
  ref63 : Int
  deriving DecidableEq, Repr

/-- One conversion pair of a shadow window: the service slice's result, the steep slice's result and
the local slope of the signal (R48). -/
structure ShadowPair where
  service : Int
  steep : Int
  slope : Int
  deriving DecidableEq, Repr

/-- A shadow window of a slice outside service (R48). -/
structure ShadowWindow where
  slice : SliceNo
  pairs : List ShadowPair
  deriving DecidableEq, Repr

/-- The conversions of one slot that are flagged (R45): that of the slice in service at the slot's position, and
those that the slices in steep and in PITCHING make beside it (R52). -/
structure Flagged where
  service : Bool
  steep : Bool
  pitching : Bool
  deriving DecidableEq, Repr

/-- What a stage of a window's proof test saw (R238, R239). -/
inductive ProofSeen where
  | pass
  | fail (element : Fin 5)
  deriving DecidableEq, Repr

/-- Whose retry a delay or a count belongs to (R258, R259). -/
inductive RetryOf where
  | group (g : Group)
  | rail (i : SeqIdx)
  deriving DecidableEq, Repr

/-- A block, or a rail of the engine, at which a marker is applied (R23, R113). -/
inductive MarkerAt where
  | adc | engine | rail (r : Rail) | pwm | cmp | seq | prn | ldg | flt | nvm | tw
  /-- A block of PD_HIF or PD_FAB, which takes no marker (R323). -/
  | hif
  deriving DecidableEq, Repr

/-- What reaches a lane pair of a record that the converter array has sent (R21): the record as it was
sent, or with another channel or stamp in it. -/
inductive LaneSeen where
  | sent
  | garbled (chan : BitVec 7) (stamp : Word)
  deriving DecidableEq, Repr

/-- The headers with which the DUTY packets of one error sample arrive (R17); none for a packet that is lost on
its way, and none in the second place where there is one packet. -/
structure DutyHeaders where
  first : Option Word
  second : Option Word
  deriving DecidableEq, Repr

/-- A packet that arrives at a block, or is lost on its way to it: the port, rail of the sequencer, gauge or block of
PD_HIF or PD_FAB that receives it there (R323), and its header. -/
structure Arrival where
  unit : Fin 16
  hdr : Option Word
  deriving DecidableEq, Repr

/-- What the release of POR samples, and whether XREF is there (R450, R482, R508). -/
structure StartSeen where
  adsel : BitVec 2
  tmode : Bool
  xref : Bool
  deriving DecidableEq, Repr

/-- The outcomes of the self-test of step 8 (R484); a window that fails is given with the stage of R238 and the element
of R239 that it fails at. -/
structure SelfTest where
  pairFail : BitVec 4
  cals : List AbsCal
  windowFail : List (Window × Fin 9 × Fin 5)
  steepFail : BitVec 4
  heelFail : BitVec 8
  deriving DecidableEq, Repr

/-- The wake sources of R490. -/
inductive WakeSource where
  | alarm | alwaysOn | waken | tw0 | perstn
  deriving DecidableEq, Repr

/-- The writes to the PCI Express configuration space that the part's rules name (R350, R351, R354,
R378), and the link state that its partner sets. -/
inductive CfgWrite where
  | busMaster (on : Bool)
  | msixEnable (on : Bool)
  | functionMask (on : Bool)
  | powerState (d3hot : Bool)
  | link (speed : BitVec 2)
  deriving DecidableEq, Repr

/-- What happens at the test access port (R507): an instruction, TRSTN, or a scan of the data register, with the
levels that stand at the 90 balls of the VIO, AO and two-wire banks and the bits shifted in. -/
inductive TapOp where
  | instruction (code : BitVec 5)
  | trst
  | scan (levels : BitVec 90) (shifted : BitVec 90)
  deriving DecidableEq, Repr

/-- The commands, in the order of spec/opcode_table.json. -/
inductive Instr where
  | nop (q : Ring)
  | start (q : Ring)
  | sleep (q : Ring)
  | sleepEntry
  | sleepTimeout
  | domain (q : Ring)
  | pwrDcmd (m : Master) (v : Word)
  | adcSeqLoad (q : Ring) (buf : List Word)
  | adcInject (q : Ring)
  | calZero (q : Ring)
  | calFull (q : Ring)
  | calMeasurementDone
  | adcPathTest (q : Ring)
  | pathTestDone
  | sliceAdmit (q : Ring)
  | engBankLoad (q : Ring) (buf : List Word)
  | engBankSwap (q : Ring)
  | engLastLoad (q : Ring) (buf : List Word)
  | engAssign (q : Ring)
  | phasePlan (q : Ring) (buf : List Word)
  | phaseAdmit (q : Ring) (csHigh : Bool)
  | phaseAdmitOffsetDone (h : Phase)
  | phaseAdmitRampEnd (h : Phase)
  | prnSet (q : Ring) (buf : List Word)
  | cmpSet (q : Ring) (buf : List Word)
  | seqSet (q : Ring) (buf : List Word)
  | seqGroup (q : Ring)
  | seqGcmd (m : Master) (v : Word)
  | seqMargin (q : Ring)
  | seqMcmd (m : Master) (v : Word)
  | seqRelease (q : Ring)
  | ldgSet (q : Ring) (buf : List Word)
  | chargerDone (q : Ring)
  | captestArm (q : Ring)
  | captestDisarm (q : Ring)
  | fltAck (q : Ring)
  | fltMode (q : Ring)
  | fltInject (q : Ring)
  | fltSet (q : Ring) (buf : List Word)
  | nvRead (q : Ring)
  | nvWrite (q : Ring) (buf : List Byte)
  | recRead (q : Ring)
  | recCommit (q : Ring) (buf : List Byte)
  | cntInc (q : Ring)
  | cntRead (q : Ring) (ecc : EccReport)
  | twXfer (q : Ring) (buf : List Byte)
  | twClear (q : Ring)
  | imgWrite (q : Ring) (buf : List Byte)
  | ringSetStop (q : Ring)
  | ringSetStart (q : Ring)
  | descriptorFetch (q : Ring) (entries : List (List Byte))
  | completionPost (c : Ring)
  | cqCoalescingTimeout (c : Ring)
  | doorbellPoll (page : List Word)
  | kickWrite (off : Nat) (v : Word)
  | hostMemoryAccessFailed (a : HostAccess)
  | hifBlockReset (cause : HifCause)
  | adcCommit (m : Master) (v : Word)
  | engCommit (m : Master) (v : Word)
  | pwmCommit (m : Master) (v : Word)
  | cmpCommit (m : Master) (v : Word)
  | seqCommit (m : Master) (v : Word)
  | prnCommit (m : Master) (v : Word)
  | ldgCommit (m : Master) (v : Word)
  | fltCommit (m : Master) (v : Word)
  | nvmCommit (m : Master) (v : Word)
  | twCommit (m : Master) (v : Word)
  | engSwapBanks (m : Master) (v : Word)
  | engSwapLastTables (m : Master) (v : Word)
  | engBankWordWrite (m : Master) (off : Nat) (v : Word)
  | engLtldWrite (m : Master) (off : Nat) (v : Word)
  | hifSetupLock (m : Master) (v : Word)
  | tmrSet (m : Master) (v : Word)
  | tmrSetApply
  | fltFclr (m : Master) (v : Word)
  | fltPendClear (m : Master) (k : Fin 4) (v : Word)
  | cmpLatchClear (m : Master) (k : Fin 3) (v : Word)
  | shutoffClear (m : Master) (v : Word)
  | ringRegisterWrite (m : Master) (off : Nat) (v : Word)
  | registerWrite (m : Master) (off : Nat) (v : Word) (width : Width)
  | holdingRegisterRead (m : Master) (off : Nat)
  | twTargetWrite (p : Port) (seen : TwSeen)
  | twTargetRead (p : Port) (n : Nat)
  | twTargetInterrupted (p : Port) (read : Bool) (bytes : List Byte)
  | twClockLowTimeout (p : Port) (seen : LowSeen)
  | twWaitLimit (p : Port) (phase : BitVec 2) (byte : BitVec 9)
  | twArbitrationLost (p : Port) (bit : BitVec 4) (phase : BitVec 2) (byte : BitVec 9)
  | twBusFree (p : Port) (clear : BusClear)
  | twBusStuck (p : Port) (sda : Bool) (clear : BusClear)
  | twTransferEnd (p : Port) (e : TwEnd)
  | twBlockReset (p : Port) (sclLow : Bool) (clear : BusClear)
  | twResetPulseEnd (p : Port) (sclLow : Bool) (clear : BusClear)
  | tw0WakeMatch (address : BitVec 7) (inTime : Bool)
  | setpoint (p : Port) (frame : BitVec 64)
  | forecast (p : Port) (frame : BitVec 64)
  | state (p : Port) (frame : BitVec 64)
  | query (p : Port) (frame : BitVec 64)
  | heartbeat (p : Port) (frame : BitVec 64)
  | frameCheckFailed (p : Port) (frame : BitVec 64)
  | frameStall (p : Port) (clock : Nat)
  | heartbeatLost (p : Port)
  | prnPortReset (p : Port)
  | slewLimiterTick
  | conversionSlot (code : BitVec 12) (flagged : Flagged)
  | loopLaneSkip
  | errorSample (r : Rail) (hdr : Word) (seen : LaneSeen)
  | currentSample (h : Phase) (hdr : Word) (seen : LaneSeen)
  | sequenceResult (injected : Bool)
  | regularRoundStart
  | injectedTrigger
  | duty (r : Rail) (hdrs : DutyHeaders)
  | marker (at_ : MarkerAt) (pkt : Arrival)
  | steepAbsoluteCalibrationDone (sl : SliceNo) (cal : AbsCal)
  | shadowWindowEnd (w : ShadowWindow)
  | rotation
  | sliceFail (sl : SliceNo)
  | vbusStale (r : Rail)
  | forecastMissCheck (r : Rail)
  | forecastSuspendEnd (r : Rail)
  | checkpoint (p : PairNo) (hdrs : List (Option Word)) (badCrc : BitVec 8)
  | lockstepMismatch (p : PairNo) (cycle : Fin 22)
  | lanePairRestore (p : PairNo) (passed : Bool)
  | trackEnd (r : Rail)
  | carrierPeriodStart (h : Phase)
  | stageFault (h : Phase)
  | comparatorTransition (w : Window) (high : Bool) (notGood : Bool)
  | heelBlankExpiry (r : Rail)
  | heelOnTimeEnd (r : Rail) (h : Phase) (inTolerance : Bool)
  | heelTestPulse (r : Rail) (inTolerance : Bool)
  | heelStall (r : Rail) (ceiling : Bool)
  | adjudicationDone (r : Rail) (ballRemote ballLocal : Int)
  | proofCycleStart
  | proofTestStageEnd (seen : ProofSeen)
  | aoComparatorChange (k : Fin 3) (high : Bool) (notGood : Bool)
  | enPinChange (level : Bool)
  | onDelayEnd (i : SeqIdx)
  | rampTimeEnd (i : SeqIdx)
  | powerGoodChange (i : SeqIdx) (good : Bool)
  | powerGoodTimeout (i : SeqIdx)
  | discharged (i : SeqIdx)
  | dischargeTimeout (i : SeqIdx)
  | retryDelayEnd (who : RetryOf)
  | retryCountReset (who : RetryOf)
  | reactionTimeout
  | seqCoreMismatch
  | inputReturnQualified
  | inputLoss
  | ledgerUpdate
  | channelStale (gauge : Bool)
  | ldgGauBlockReset (gauge : Bool)
  | escalationTimeout
  | logEntryWrite
  | nvPageOperation (ecc : EccReport)
  | scrubInterval
  | nvBlockReset
  | vcc33Uvlo
  | xrefLoss
  | pllHoldExpiry
  | xrefReturn
  | pllLockLoss
  | supTherm (cause : Fin 8) (dom : Fin 14)
  | vcc33AoPor
  | vcc33Por
  | supplyResetLevel
  | porRelease (seen : StartSeen) (ecc : EccReport)
  | chipReset (seen : StartSeen) (ecc : EccReport)
  | selfTestDone (t : SelfTest)
  | startComplete
  | wake (src : WakeSource) (seen : StartSeen) (ecc : EccReport)
  | pllRelock
  | supplyReturn (seen : StartSeen) (ecc : EccReport)
  | pcieConfigurationWrite (w : CfgWrite)
  | msixTableWrite (vec : Fin 32) (dword : Fin 4) (v : Word)
  | pcieUncorrectableError
  | testAccessPortInstruction (op : TapOp)
  deriving DecidableEq, Repr

end Sys2Proof
end

