-- ==== Sys2Proof/Decode.lean ====
section
/-!
DEFINITION. The reading of a table word. Every row of spec/opcode_table.json is a command of the
block's outside (a descriptor, a register write, a frame, an event) and the table gives none of them
bits, so no word spells a command.
-/

namespace Sys2Proof

/-- The command that a word of the table's bits spells: none, since no row has bits. -/
def decodeTableWord (_nbits _w : Nat) : Option Instr := none

end Sys2Proof
end

