-- ==== Sys2Proof/Config.lean ====
section
/-!
DEFINITION. What the spec leaves open, as constants without a body: nothing in a proof can see what
they are, so a claim holds whatever they are (logs 6 and 7).
-/

namespace Sys2Proof.Config

/-- The bits of the n-th free value. -/
opaque freeValue : Nat → Word

/-- Whether the n-th rounding of an exact figure goes up to the next integer (log 7). -/
opaque roundsUp : Nat → Rat → Bool


/-- The skew estimate of R48 from a window's pairs, in steps of 0.5 ps. -/
opaque skewEstimate : List ShadowPair → Int

/-- The factory correction of channel 0x61 on a slice-corrected value (R43). -/
opaque dieTemperature : Int → Int

/-- Lortin's PCI-SIG vendor identifier (R350). -/
opaque vendorId : BitVec 16

/-- Lortin's JEP106 manufacturer code (R507). -/
opaque jep106 : BitVec 11

end Sys2Proof.Config
end

