-- ==== Sys2Proof/Machine/State.lean ====
section
/-!
DEFINITION. The state of the Zhevlin as plain data, and the state after reset. Each structure is one
block of the part; a shadowed register lives in `Regs` at its BAR0 offset, and every other register
is a field here or a view computed from fields (Machine/RegRead.lean).
-/

namespace Sys2Proof.Machine

/-! ## Outputs -/

/-- What the part sends out (log 8): MSI-X messages, host-memory writes and doorbell reads asked for,
register read data, Pourn responses and bytes on a two-wire bus. Newest first in `State.out`. -/
inductive Out where
  | msix (vec : Fin 32)
  | hostWrite (addr : BitVec 64) (bytes : List Byte)
  | doorbellRead
  | readData (m : Master) (v : Word)
  | prnResponse (p : Port) (frame : BitVec 64)
  | twBytes (p : Port) (bytes : List Byte)
  /-- A START or repeated START of the port's own with its address byte, and the clocks and STOP that it sends. -/
  | twStart (p : Port) (addr : BitVec 7) (read : Bool)
  | twClocks (p : Port) (n : Nat)
  | twStop (p : Port)
  | tapData (v : Word)
  /-- The boundary-scan register as it is shifted out. -/
  | tapScan (levels : BitVec 90)
  deriving DecidableEq, Repr

/-! ## Clocks, time and registers (01, 12) -/

/-- The clock root and the slot counter (R27 to R30, R37). -/
structure Clk where
  /-- CLK_STATUS.REFSEL: 0 XREF, 1 hold, 2 RC fallback. -/
  refsel : BitVec 2
  lock : Bool
  xrefOk : Bool
  lossc : BitVec 16
  /-- CK_FAB slots since the counter started; its low 32 bits are STAMP. -/
  slot : Nat
  /-- The count of the RC oscillator that clocks the heel loops' on-time generators, in 3.90625 ns: 16 to
  one of its periods of 62.5 ns. It runs whether or not the root PLL is locked (R12, R27). -/
  rc : Nat
  /-- The slot at which the carriers' common frame started (R139). -/
  frame0 : Nat
  deriving DecidableEq, Repr

/-- The timer block (R389 to R391) and its mirror in PD_AO (R481). -/
structure Tmr where
  now : BitVec 63
  coarse : Bool
  /-- TMR_SET's armed value. -/
  setPend : Option (BitVec 63)
  /-- The low word last written by each master. -/
  setLo : Vector Word 4
  setCnt : BitVec 16
  /-- The mirror in PD_AO of the time-stamp, none before the first start after the VCC33_AO POR, and the AO edges
  counted since it was taken. -/
  mirror : Option (BitVec 63)
  gap : Nat
  deriving DecidableEq, Repr

/-- A sparse register file over reset values: offsets strictly rising, no entry equal to its
register's reset value. -/
abbrev RegMap := List (Nat × Word)

/-- A read held for a 64-bit register (R70): the offset of its low word and the high word. -/
structure HeldRead where
  off : Nat
  copy : Word
  deriving DecidableEq, Repr

/-- The set-up register file (R387 to R397) and the rejection registers of HIF (R379, R383). -/
structure Regs where
  live : RegMap
  shadow : RegMap
  /-- The sets in force for a check: live, or accepted with the marker not yet applied (R393). -/
  acc : RegMap
  lock : Bool
  /-- The AUTOLOCK flag of the image loaded (R396). -/
  autolock : Bool
  errOff : BitVec 16
  errCode : BitVec 16
  errMaster : BitVec 4
  errCount : BitVec 16
  /-- FAB_RDSEL.LIVE of each master. -/
  rdsel : Vector Bool 4
  /-- The holding register of each master (R70, R401). -/
  hold : Vector (Option HeldRead) 4
  ssvid : BitVec 16
  ssid : BitVec 16
  deriving DecidableEq, Repr

/-! ## The fabric (01) -/

/-- Blocks that have a shadowed set and a COMMIT (R387). -/
inductive Blk where
  | adc | eng | pwm | cmp | seq | prn | tw | nvm | ldg | flt
  deriving DecidableEq, Repr

/-- MKIND of R22. -/
inductive MKind where
  | bankSwap | setup | phasePlan | slotPlan | lastTable
  deriving DecidableEq, Repr

/-- Who waits for a change (R393, R394): a register write, a descriptor, or nobody. -/
inductive Origin where
  | commit (b : Blk)
  | swapWrite
  | desc (q : Ring)
  | internal
  deriving DecidableEq, Repr

/-- What a marker changes where it is applied. -/
inductive Change where
  /-- These words of the block become live (R393). -/
  | words (b : Blk) (ws : List (Nat × Word))
  /-- Each rail of RAILS takes its inactive bank (R113). -/
  | swapBanks
  /-- Each rail of RAILS exchanges its last tables (R117). -/
  | swapTables
  /-- A rail moves to a pair (R129). -/
  | assign (r : Rail) (pr : PairNo)
  /-- A calibration of a channel (R77). -/
  | calibrate (chan : BitVec 7) (cofs cgain : BitVec 16)
  /-- The active set of a rail, by phase, and whether the rail is in the LIGHT state with it (R148,
  R154). -/
  | activeSet (r : Rail) (act : BitVec 48) (light : Bool)
  /-- The map of service positions to slices and the masked positions (R50, R53). -/
  | slotMap (map : Vector SliceNo 16) (mask : BitVec 16)
  deriving DecidableEq, Repr

/-- A change on its way (R22 to R26): it stands here from its acceptance until every block it
addresses has applied it. -/
structure Marker where
  kind : MKind
  tag : BitVec 16
  rails : BitVec 8
  origin : Origin
  /-- The block whose accepted set it carries, for the order of R393; none for the device's own. -/
  owner : Option Blk
  targets : List MarkerAt
  changes : List Change
  /-- The slot of BSTAMP, once issued; BSTAMP is its low 32 bits. -/
  bstamp : Option Nat
  /-- Places on the way to which the marker has been lost, the gap in SEQ not yet seen (R16). -/
  lost : List MarkerAt := []
  /-- Places whose block has been reset since the issue: BSTAMP is replaced by the stamp of the first
  record received there (R26). -/
  restamp : List MarkerAt := []
  deriving DecidableEq, Repr

/-- A marker that a place has received and whose descriptor has not ended (R16). -/
structure HeardMarker where
  at_ : MarkerAt
  src : BitVec 14
  seq : BitVec 10
  origin : Origin
  deriving DecidableEq, Repr

/-- The last SEQ that a receiver saw from a source and of a kind (R16). -/
structure SeqSeen where
  at_ : MarkerAt
  src : BitVec 14
  kind : BitVec 4
  seq : BitVec 10
  deriving DecidableEq, Repr

structure Fab where
  markers : List Marker
  lastSeq : List SeqSeen
  heard : List HeardMarker
  seqErr : Word
  deriving DecidableEq, Repr

/-! ## Fault collection (10) -/

/-- The access behind an event (R340). -/
structure Access where
  master : BitVec 4
  type : BitVec 4
  aspace : BitVec 2
  addr : BitVec 64
  deriving DecidableEq, Repr

/-- The first-error capture (R339). -/
structure Capture where
  event : BitVec 7
  src : Word
  code : BitVec 16
  access : Access
  time : BitVec 64
  deriving DecidableEq, Repr

/-- A queued fault-log entry (R341), but for its sequence number and CRC. -/
structure LogEntry where
  time : BitVec 64
  src : Word
  event : BitVec 7
  classA : Bool
  cls : BitVec 2
  escm : Bool
  step : BitVec 3
  first : Bool
  injected : Bool
  access : Access
  refsel : BitVec 2
  code : BitVec 16
  /-- [0] interrupt, [1] alert, [2] block reset, [3] chip reset, [4] ERRN. -/
  taken : BitVec 5
  deriving DecidableEq, Repr

/-- A rate window of R519: per event, cause and unit. -/
structure RateWindow where
  event : BitVec 7
  cause : BitVec 16
  unit : Nat
  opened : Nat
  deriving DecidableEq, Repr

structure Flt where
  /-- Held in logic on VCC33_AO (R328). -/
  classA : Bool
  prevA : Bool
  starting : Bool
  /-- Test mode set by FLT_MODE. -/
  test : Bool
  recov : Bool
  /-- The ladder's step, 0 to 4 (R337). -/
  step : Fin 5
  /-- The slot at which the escalation timer was started. -/
  escStart : Option Nat
  rstc : BitVec 2
  pend : BitVec 128
  /-- Sources raised again while pending, in the CK_PER tick againAt (R345). -/
  again : BitVec 128
  againAt : Nat
  /-- Sources that took the alert, ERRN and the ladder's interrupt. -/
  alertTook : BitVec 128
  errnTook : BitVec 128
  ladderInt : BitVec 128
  first : Option Capture
  logHead : Word
  drop : Word
  queue : List LogEntry
  windows : List RateWindow
  /-- The blocks that the pending sources with a block reset name, for step 3 of the ladder (R337). -/
  pendKeys : List (BitVec 7 × (BitVec 4 × BitVec 4 × BitVec 6))
  /-- Block resets asked for and not yet taken: subsystem, block and port (R330). -/
  brReq : List (BitVec 4 × BitVec 4 × BitVec 6)
  ltag : BitVec 16
  deriving DecidableEq, Repr

/-! ## Host interface and rings (11) -/

/-- A descriptor as fetched, its fields laid out by R362. -/
structure Desc where
  opcode : Byte
  flags : Byte
  tag : BitVec 16
  param : BitVec 64
  data : BitVec 64
  len : Word
  ext : List Byte
  /-- The reserved bytes are all 0. -/
  clean : Bool
  deriving DecidableEq, Repr

/-- A descriptor in execution. -/
structure Exec where
  desc : Desc
  /-- Its place in the order in which descriptors entered execution (R371). -/
  ord : Nat
  /-- It has passed its opcode's checks and waits for its end. -/
  decided : Bool
  /-- It has passed its point of no return (R376). -/
  acted : Bool
  deriving DecidableEq, Repr

/-- A fetched entry: the descriptor and the counts of entries submitted on every ring at the doorbell
read that first showed it (R373). -/
structure Fetched where
  desc : Desc
  seen : Vector Nat 16
  deriving DecidableEq, Repr

inductive RingState where
  | disabled | run | stopped | recover
  deriving DecidableEq, Repr

/-- A doorbell read that showed new entries: the count of entries it showed up to, and the counts of
all rings. -/
structure Shown where
  upTo : Nat
  all : Vector Nat 16
  deriving DecidableEq, Repr

structure Sq where
  base : BitVec 64
  en : Bool
  weight : BitVec 4
  cq : Ring
  size : BitVec 4
  state : RingState
  /-- A stop waits for the descriptor in execution (R370). -/
  stopping : Bool
  head : BitVec 12
  tail : BitVec 12
  /-- Entries submitted, fetched and completed since the start of the part. -/
  submitted : Nat
  fetchedN : Nat
  doneN : Nat
  shown : List Shown
  fetched : List Fetched
  exec : Option Exec
  /-- The descriptor completed and its completion not yet posted. -/
  posting : Bool
  fenceWait : Bool
  /-- TAGs of the last 64 completed descriptors, newest first. -/
  hist : List (BitVec 16)
  lastTag : BitVec 16
  /-- Entries left in this round of the weighted round robin. -/
  credit : Nat
  /-- The CQ and SIZE written with the clearing of EN: the ring's once it reads DISABLED (R5, R386). -/
  next : Option (Ring × BitVec 4)
  deriving DecidableEq, Repr

/-- A completion that waits to be posted (R363). -/
structure Completion where
  result : BitVec 64
  tag : BitVec 16
  status : BitVec 16
  sq : Ring
  /-- It answers a descriptor, and not the failed fetch of one (R374). -/
  ofDesc : Bool
  /-- Where its descriptor writes host data, and the bytes, which go out before the completion (R365). -/
  dataAt : Option (BitVec 64)
  data : List Byte
  deriving DecidableEq, Repr

structure Cq where
  base : BitVec 64
  en : Bool
  agt : BitVec 8
  agg : BitVec 8
  intn : Bool
  ien : Bool
  vec : BitVec 5
  size : BitVec 4
  state : RingState
  head : BitVec 12
  tail : BitVec 12
  p : Bool
  held : List Completion
  /-- Entries posted since the last message, and the slot of the first of them (R361). -/
  sinceMsg : Nat
  firstAt : Nat
  deriving DecidableEq, Repr

structure Hif where
  speed : BitVec 2
  up : Bool
  d3 : Bool
  bme : Bool
  msixEn : Bool
  funcMask : Bool
  /-- The MSI-X table: address low, address high, data, vector control. -/
  msixTable : Vector (Vector Word 4) 32
  pba : BitVec 32
  rcnt : BitVec 16
  lcause : BitVec 4
  /-- The first-error pointer and the header log of AER, once an uncorrectable error has been logged (R350). -/
  aer : Option (BitVec 5 × Vector Word 4)
  poll : BitVec 7
  dbAddr : BitVec 64
  shAddr : BitVec 64
  /-- A doorbell read is in flight, and a kick asked for one further (R353). -/
  dbInFlight : Bool
  dbAgain : Bool
  /-- The slot of the latest read of the doorbell page (R357). -/
  pollAt : Nat
  /-- A host-interface block reset is in progress (R376). -/
  recovering : Bool
  sq : Vector Sq 16
  cq : Vector Cq 16
  nextOrd : Nat
  deriving DecidableEq, Repr

/-! ## Converter array (02) -/

/-- Slice states of R39. -/
inductive SliceState where
  | service | steep | pitching | failed | off
  deriving DecidableEq, Repr

structure Slice where
  state : SliceState
  /-- OFS, a signed count; GAIN with 15 fraction bits; the sampling-time trim in 0.5 ps (R44, R90). -/
  ofs : BitVec 16
  gain : BitVec 16
  skew : BitVec 7
  age : BitVec 8
  /-- Successive windows within the limits of R49, to 4. -/
  good : Fin 5
  /-- The conversion monitor's flags of the last 64 conversions, newest at bit 0 (R52). -/
  mon : BitVec 64
  /-- The slot of the last absolute calibration, and whether it passed. -/
  calAt : Nat
  calOk : Bool
  deriving DecidableEq, Repr

/-- What the slice in STEEP or PITCHING is doing (R47 to R55). -/
structure Tour where
  slice : SliceNo
  calDone : Bool
  /-- Shadow windows done in this tour, to 16. -/
  windows : Fin 17
  /-- Tours of an admission that ended unconverged in a row. -/
  missed : Fin 4
  /-- The slot at which the present calibration or window began. -/
  startSlot : Nat
  /-- The position of the last window, where the slice stayed in steep after its tour (R51). -/
  lastOn : Option Pos
  /-- The position that it has been given by a marker not yet applied. -/
  claimed : Option Pos
  deriving DecidableEq, Repr

/-- A loop-lane request (R59): an error sample of a rail, or a current sample of a phase. -/
inductive LaneReq where
  | error (r : Rail) (k : Fin 8)
  | current (h : Phase) (j : Fin 2)
  deriving DecidableEq, Repr

/-- A request before it falls due: its target instant in interpolator steps and the phase whose
carrier it stands on. -/
structure LaneTarget where
  req : LaneReq
  carrier : Phase
  instant : Nat
  deriving DecidableEq, Repr

structure LaneDue where
  req : LaneReq
  due : Nat
  deriving DecidableEq, Repr

/-- Who takes a slot that the loop lane leaves free (R63). -/
inductive FreeUse where
  | injected | cal | ptest | regular | none
  deriving DecidableEq, Repr

/-- What one conversion gives: the slice-corrected value, VALUE, RANGE and STALE. -/
structure Conv where
  vs : Int
  value : Int
  range : Bool
  stale : Bool
  deriving DecidableEq, Repr

/-- A conversion of a free slot that is under way or not yet taken up: its record is formed in the slot
`built` (R38), and it can become stale before that (R46). -/
structure Taken where
  use : FreeUse
  /-- The entry of its sequence, or the place in `PathRun.n` that it counts for. -/
  item : Nat
  chan : BitVec 7
  slice : SliceNo
  pos : BitVec 4
  /-- The slot of its sampling instant. -/
  stamp : Nat
  /-- The test DAC stood behind the inputs of a path test (R80). -/
  tdac : Bool
  conv : Conv
  built : Nat
  deriving DecidableEq, Repr

structure RegSeq where
  /-- The entry that takes the next sample, and the samples that it has taken. -/
  cur : Fin 32
  n : Fin 9
  /-- A round still has samples to take. -/
  inRound : Bool
  /-- The slot at which the present or last round started. -/
  roundAt : Option Nat
  deriving DecidableEq, Repr

structure InjSeq where
  run : Bool
  /-- The entry that takes the next sample, one past the last once every sample is taken, and the samples that
  it has taken. -/
  cur : Fin 9
  n : Fin 9
  src : BitVec 3
  runs : BitVec 16
  /-- The descriptors that wait for the run (R68, R69). -/
  rings : List Ring
  /-- Triggers of the present slot: bit 0 window, 1 Pourn, 2 descriptor. -/
  trig : BitVec 3
  deriving DecidableEq, Repr

/-- A running CAL_ZERO or CAL_FULL (R75). -/
structure CalRun where
  ring : Ring
  full : Bool
  chan : BitVec 7
  k : BitVec 4
  target : BitVec 16
  n : Nat
  sum : Int
  min : Int
  max : Int
  /-- CAL_FULL's accepted COFS and CGAIN, once its record is being committed (R77). -/
  result : Option (BitVec 16 × BitVec 16)
  deriving DecidableEq, Repr

/-- A running ADC_PATH_TEST (R80). Its samples are counted and summed in four places: those of the channel and
of the neighbour at code A, then at code B. -/
structure PathRun where
  ring : Ring
  chan : BitVec 7
  inject : Bool
  a : BitVec 10
  b : BitVec 10
  nchan : BitVec 7
  k : BitVec 4
  /-- The test DAC holds code B. -/
  atB : Bool
  n : Vector Nat 4
  sums : Vector Int 4
  /-- The slot from which the present code has settled. -/
  settled : Nat
  /-- The slot at which it took the test DAC (R83). -/
  since : Nat
  deriving DecidableEq, Repr

structure PathResult where
  chan : BitVec 7
  inject : Bool
  verdict : BitVec 6
  meanA : BitVec 16
  meanB : BitVec 16
  nmeanA : BitVec 16
  nmeanB : BitVec 16
  deriving DecidableEq, Repr

structure ChanCal where
  cofs : BitVec 16
  cgain : BitVec 16
  deriving DecidableEq, Repr

structure Adc where
  slices : Vector Slice 17
  slotmap : Vector SliceNo 16
  mask : BitVec 16
  /-- The slice in STEEP, and the slice being pitched (R55). -/
  tour : Option Tour
  pitch : Option Tour
  /-- The slot of the last rotation (R50). -/
  rotAt : Nat
  /-- SLICE_ADMIT in execution (R55). -/
  admission : Option Ring
  targets : List LaneTarget
  due : List LaneDue
  /-- Error samples of each rail taken, modulo 8 (R62). -/
  errCount : Vector (Fin 8) 8
  reg : RegSeq
  inj : InjSeq
  /-- Conversions of free slots, oldest first. -/
  taken : List Taken
  cal : Option CalRun
  ptest : Option PathRun
  pt : PathResult
  regRes : Vector (BitVec 64) 32
  injRes : Vector (BitVec 64) 8
  /-- Result registers written since reset; the others read as R70 gives. -/
  regWritten : BitVec 32
  injWritten : BitVec 8
  /-- The last VALUE of each sequence channel and its slot, for the consumers of results. -/
  ccal : Vector ChanCal 104
  m0 : Vector (Option (BitVec 16)) 104
  llSkip : Word
  injDrop : Word
  ltag : BitVec 16
  deriving DecidableEq, Repr

/-! ## Control engine (03) -/

/-- ENG_RSTATr.MODE (R134). -/
inductive EngMode where
  | off | digital | heel | track
  deriving DecidableEq, Repr

/-- The boost band's states (R104). -/
inductive Boost where
  | armed | activeOn | activeOff | rearm
  deriving DecidableEq, Repr

/-- A forecast that the planner has taken (R119). Instants count quarter picoseconds: a slot is
15 625 of them and a unit of 16 ns is 64 000. -/
structure Forecast where
  dI : Int
  tAcc : Nat
  tStart : Int
  tF : Nat
  level : Int
  /-- The rail's summed phase current in mA when it was accepted (R122). -/
  sumAt : Int
  deriving DecidableEq, Repr

/-- A complete checkpoint copy of a rail (R125). Trims are in units of 2^12 duty units. -/
structure Ckpt where
  seq : Word
  time : BitVec 64
  bank : Bool
  table : Bool
  boost : Boost
  boostCount : Nat
  misses : Nat
  fcsusp : Bool
  integ : Int
  s11 : Int
  s12 : Int
  s21 : Int
  s22 : Int
  vbus : Int
  rvb : Int
  iLost : Int
  lastD : Int
  trims : List (Phase × Int)
  deriving DecidableEq, Repr

/-- A move of a rail to another pair, with the samples of its 64 that are left (R129): of an ENG_ASSIGN, or of an
ENG commit, whose own marker waits for them. It stands until that marker is applied. -/
structure Assign where
  ring : Option Ring
  pair : PairNo
  left : Nat
  deriving DecidableEq, Repr

structure EngRail where
  mode : EngMode
  /-- The sequencer has enabled regulation (R109). -/
  enabled : Bool
  /-- The slot at which it was enabled. -/
  enabledAt : Nat
  /-- The active bank: false A, true B. -/
  bank : Bool
  bankA : Vector Word 32
  bankB : Vector Word 32
  /-- Which copy of the last tables is live. -/
  table : Bool
  ripple0 : Vector Word 32
  ripple1 : Vector Word 32
  dead0 : Vector Word 32
  dead1 : Vector Word 32
  s11 : Int
  s12 : Int
  s21 : Int
  s22 : Int
  integ : Int
  ff : Int
  /-- The voltage from which rvb is formed, in µV, and whether it has been measured (R105). -/
  vbus : Int
  rvb : Int
  vbusMeasured : Bool
  vbusAt : Nat
  vbold : Bool
  boost : Boost
  boostCount : Nat
  bcnt : BitVec 16
  ovf : Bool
  /-- ref at the rail's previous error sample; none before the first (R100). -/
  refPrev : Option Int
  /-- The last Δref (R100). -/
  dref : Int
  /-- The latest fresh corrected error, and its slot. -/
  lastE : Option (Int × Nat)
  iLost : Int
  lastD : Int
  fcs : List Forecast
  fcAcc : BitVec 16
  fcMissc : BitVec 8
  fcClmp : BitVec 8
  fcConsec : Nat
  fcsusp : Bool
  /-- TRACK samples taken (R126). -/
  track : Nat
  assign : Option Assign
  ckA : Option Ckpt
  ckB : Option Ckpt
  /-- The sequence number of the next checkpoint; even numbers go to copy A. -/
  ckNext : Word
  deriving DecidableEq, Repr

structure Pair where
  recov : Bool
  failed : Bool
  /-- Slots of the mismatches of the last 10 s, newest first (R128). -/
  times : List Nat
  mismatches : BitVec 8
  /-- The time-stamp at the last checkpoint (R125). -/
  ckAt : Option (BitVec 63)
  /-- Sample packets refused since the last one in the books of R16: their entries have left the schedule. -/
  refused : Nat
  deriving DecidableEq, Repr

/-- A loop-lane conversion: the record that the schedule expects (R61), and the record that the
converter array has on its way (R18). -/
structure Expected where
  req : LaneReq
  chan : BitVec 7
  stamp : Nat
  /-- An error sample of the inactive path (R62). -/
  inactive : Bool
  /-- The slice that converts, at its service position. -/
  slice : SliceNo
  rec_ : BitVec 64
  /-- The slot in which the record is formed, and the first in which it can arrive (R21, R38). -/
  built : Nat
  arrives : Nat
  deriving DecidableEq, Repr

/-- One phase's on-time command (R17). -/
inductive Cmd where
  | time (steps : Nat) | mid | on
  deriving DecidableEq, Repr

/-- A DUTY packet on its way to the PWM subsystem (R17): its payload words, which begin at position 0 or,
in the second packet of a sample, at position 30. -/
structure DutyPkt where
  rail : Rail
  /-- The slot of the error sample. -/
  stamp : Nat
  second : Bool
  words : List Word
  /-- It has been lost, the gap in SEQ not yet seen (R16). -/
  lost : Bool
  deriving DecidableEq, Repr

structure Eng where
  pairs : Vector Pair 4
  rails : Vector EngRail 8
  sched : List Expected
  dutyQ : List DutyPkt
  wsel : BitVec 3
  ltag : BitVec 16
  deriving DecidableEq, Repr

/-! ## Phases and PWM (04) -/

/-- PWM_PHSTn.STATE (R167). -/
inductive PhState where
  | unused | active | idle | steep | racked | pitching
  deriving DecidableEq, Repr

/-- What a PWM ball drives (R136): high impedance, LOW, MID, or the pulses of `Phasor.pulse`, with LOW
between them, or with MID around the one pulse where the low comparator of the phase's window stands tripped (R156). -/
inductive Drive where
  | hiz | low | mid | pulses | pulsesMid
  deriving DecidableEq, Repr

/-- An on-pulse, in interpolator steps of 61.04 ps on the count of `Clk.rc` (64 to one of it), which runs
with the slot counter and, unlike it, without the root PLL too. -/
structure Pulse where
  onAt : Nat
  offAt : Nat
  /-- The off-time after which the phase turns on again, for as long as the boost band forces it on
  (R143); none for a single pulse. -/
  again : Option Nat
  deriving DecidableEq, Repr

structure Phasor where
  state : PhState
  ramp : Bool
  rkcause : BitVec 3
  subfor : Option Phase
  zofs : BitVec 16
  drive : Drive
  pulse : Option Pulse
  /-- The pulses before it that reach into the last 4 µs, each with the instant at which it was replaced
  or cut (R218). -/
  past : List (Pulse × Nat)
  /-- The on-time command in force (R141). -/
  cmd : Cmd
  /-- The start of the carrier's present period and that period's length, in interpolator steps. -/
  carrAt : Nat
  carrLen : Nat
  /-- The length of the period before it. -/
  prevLen : Nat
  /-- The carrier's offset from the common frame and its target, in interpolator steps (R149). -/
  offset : Nat
  target : Nat
  /-- The weight w of R155 in 64ths, and its change per period. -/
  weight : Nat
  wStep : Int
  /-- The latest fresh current VALUE. -/
  cur : Option Int
  iTgt : Int
  /-- The balance trim and its integral part (R107), and the current sign (R116). -/
  trim : Int
  trimI : Int
  sinking : Bool
  /-- The window trips of the last periods, newest at bit 0, and whether this period has one (R156). -/
  trips : BitVec 16
  tripped : Bool
  /-- Consecutive implausible samples (R157), and periods since the phase became active. -/
  implausible : Nat
  periods : Nat
  /-- It drives MID from the next start of its carrier period (rule 2 of R159). -/
  midNext : Bool
  /-- The offset samples of a PHASE_ADMIT, and whether a stage fault was seen during it (R162). -/
  zCount : Nat
  zSum : Int
  zFault : Bool
  deriving DecidableEq, Repr

/-- PWM_RSTATr.OPMODE. -/
inductive OpMode where
  | off | full | shed | light
  deriving DecidableEq, Repr

/-- One racked phase's part of i_lost (rules 5 and 7 of R159): its value in mA, the position that it held,
by its planned phase, the periods before it falls (none until the substitute's first on-pulse), and the
periods of its fall, in all and left. -/
structure Loss where
  start : Int
  pos : Phase
  wait : Option Nat
  dec : Nat
  left : Nat
  /-- It has been sent to the lane pair; one racked in HEEL or TRACK waits for the first DIGITAL head
  (R161). -/
  sent : Bool
  deriving DecidableEq, Repr

/-- A PHASE_ADMIT in progress (R162). -/
structure Admission where
  ring : Ring
  phase : Phase
  /-- Its 64-period ramp has begun. -/
  ramping : Bool
  deriving DecidableEq, Repr

structure PwmRail where
  opmode : OpMode
  /-- The phases that hold active positions, in force and once every marker under way is applied. -/
  act : BitVec 48
  actNext : BitVec 48
  /-- The position being shed and the periods left of its fall (R153). -/
  shedding : Option (Phase × Nat)
  dwell : Nat
  lightDwell : Nat
  /-- The LIGHT state as the latest marker gives it (R154). -/
  lightNext : Bool
  /-- I of the last periods, newest first (R152). -/
  iHist : List Int
  iAvg : Int
  loss : List Loss
  /-- The positions whose phase was racked in the present period of the reference carrier, by their planned
  phases (R161). -/
  rackedNow : List Phase
  admission : Option Admission
  /-- Positions added for a forecast stay until this slot (R153). -/
  fcHold : Nat
  deriving DecidableEq, Repr

structure Pwm where
  phases : Vector Phasor 48
  rails : Vector PwmRail 8
  ltag : BitVec 16
  deriving DecidableEq, Repr

/-! ## Pourn ports and the setpoint path (05) -/

/-- PRN_PSTATn.STATE. -/
inductive PortState where
  | disabled | unsync | live | lost
  deriving DecidableEq, Repr

/-- What the port keeps of the last consumed frame for a replay (R184). -/
structure LastFrame where
  content : BitVec 56
  seq : BitVec 6
  status : BitVec 5
  grant : BitVec 11
  rail : Rail
  deriving DecidableEq, Repr

structure PrnPort where
  state : PortState
  eseq : BitVec 6
  alert : BitVec 8
  pstate : BitVec 4
  /-- The STATE reservation in mJ, and the rail it is booked against. -/
  cost : BitVec 16
  costRail : Rail
  frames : BitVec 16
  crcerr : BitVec 8
  stalls : BitVec 8
  last : Option LastFrame
  /-- The response being clocked out. -/
  resp : Option (BitVec 32)
  deriving DecidableEq, Repr

structure PrnRail where
  /-- REF in units of 2^-16 codes (R256). -/
  ref : Nat
  tgt : BitVec 16
  gcls : BitVec 3
  notify : Bool
  seqown : Bool
  /-- The margin offset M in codes (R272). -/
  m : Int
  /-- MRG of R178. -/
  mrg : Bool
  /-- A SAFE action that waits for DIGITAL, with its port (R185). -/
  safe : Option Port
  deriving DecidableEq, Repr

structure Prn where
  ports : Vector PrnPort 4
  rails : Vector PrnRail 8
  ltag : BitVec 16
  deriving DecidableEq, Repr

/-! ## Feedback paths and heel loops (06) -/

/-- PWM_HSTATr.FBPATH. -/
inductive FbPath where
  | remote | local_ | comparator | none
  deriving DecidableEq, Repr

/-- The latest fresh error record of a path. -/
structure PathRec where
  value : Int
  range : Bool
  slot : Nat
  deriving DecidableEq, Repr

/-- The checks kept for one sense path of a rail (R209, R210, R213). -/
structure PathCheck where
  last : Option PathRec
  ranges : Nat
  /-- The dither sum and the records in it. -/
  dsum : Int
  dcount : Nat
  /-- Consecutive absolute results beyond the limit, and the sign and the number of the result at
  which the check last failed. -/
  absBad : Nat
  absFail : Option (Bool × Nat)
  absLast : Option (Int × Nat)
  absN : Nat
  /-- The sum and the number of its fresh error records in the interval of an adjudication's conversions at its
  ball (R212). -/
  ballSum : Int
  ballN : Nat
  deriving DecidableEq, Repr

structure FbRail where
  path : FbPath
  rlost : Bool
  llost : Bool
  blind : Bool
  hact : Bool
  adj : Bool
  /-- The slot at which the rail's adjudication took its steep window. -/
  adjAt : Nat
  hcause : BitVec 4
  lcause : BitVec 4
  hent : BitVec 16
  stale : Nat
  remote : PathCheck
  local_ : PathCheck
  /-- The dither register, the d in force and the heads run (R210). -/
  lfsr : BitVec 15
  d : Int
  heads : Nat
  /-- STAMPs of the latest active-path records with the d of their heads, newest first; 0 where the
  dither term was 0. -/
  recent : List (Nat × Int)
  /-- Consecutive inactive records whose disagreement exceeds the limit (R211). -/
  disagree : Nat
  /-- The position, by its ORDER, from which the heel set's rotation goes on, the instant of the last pulse
  begun, in interpolator steps of `Clk.rc`, and the phases whose pulse the on-time generator times (R217). -/
  next : Nat
  firedAt : Option Nat
  firing : List Phase
  /-- Successive measured pulses that failed (R222, R223). -/
  badPulses : Nat
  /-- Consecutive fresh records while the heel carries (R221). -/
  freshRun : Nat
  /-- The rail was in absolute overvoltage at the last check (R326). -/
  ovp : Bool
  /-- The time-stamp at the last test pulse (R222). -/
  testAt : Option (BitVec 63)
  deriving DecidableEq, Repr

/-! ## Window comparators (07) -/

structure Win where
  /-- Each comparator's side: true is not-good (R233). -/
  low : Bool
  high : Bool
  latch : Bool
  failed : Bool
  /-- The codes in force: for W48 to W63 the tracked ones (R231). -/
  lo : BitVec 10
  hi : BitVec 10
  deriving DecidableEq, Repr

/-- A proof test in progress (R238): the stages are 0 self-check, 1 load, 2 shadow, 3 take-over,
4 swap, 5 levels, 6 reconnection, 7 return shadow, 8 hand-back. -/
structure Proof where
  win : Window
  steep : Fin 4
  stage : Fin 9
  /-- The slot at which the stage began (R240). -/
  since : Nat
  deriving DecidableEq, Repr

/-- What a steep window is doing beside a proof test: nothing, standing in, or an adjudication. -/
inductive SteepUse where
  | free | standsIn (w : Window) | adjudicates (r : Rail)
  deriving DecidableEq, Repr

structure Cmp where
  win : Vector Win 80
  steep : Vector SteepUse 4
  proof : Option Proof
  /-- A proof cycle runs, and the windows it has not tested. -/
  cycle : Bool
  left : List Window
  /-- Adjudications that wait for a steep window, lowest rail first (R241). -/
  adjWait : List Rail
  /-- Event 0x58 has been raised in this proof cycle (R245). -/
  steepRaised : Bool
  /-- The always-on comparators' sides and the copy of CMP_AO0-2 in PD_AO (R243). -/
  aoLow : Vector Bool 3
  aoHigh : Vector Bool 3
  aoCfg : Vector Word 3
  ltag : BitVec 16
  deriving DecidableEq, Repr

/-! ## Sequencer (08) -/

/-- The rail states of R254. -/
inductive RailState where
  | off | wait | delay | ramp | pgwait | on | stop | discharge | hold | failed | blocked
  deriving DecidableEq, Repr

/-- Why a rail is kept from rising beside its group's request, and what it becomes once it is OFF:
nothing, a retry of its group (R258), a running retry of itself (R259), FAILED or BLOCKED. -/
inductive Held where
  | none | groupRetry | railRetry (of_ : SeqIdx) | toFailed | toBlocked
  deriving DecidableEq, Repr

structure SeqRail where
  state : RailState
  pgood : Bool
  retryc : Fin 8
  msel : BitVec 2
  lcause : BitVec 4
  xen : Bool
  held : Held
  /-- It is being taken down whatever its group's request (R258, R259). -/
  down : Bool
  /-- Its take-down is fault-driven and runs against RXTO (R261). -/
  faultDown : Bool
  /-- DISCODE replaces the low level of its window (R266). -/
  discode : Bool
  deriving DecidableEq, Repr

structure SeqGroup where
  req : Bool
  failed : Bool
  /-- A retry waits for the rails to be OFF or for RTYDLY (R258). -/
  retrying : Bool
  retryc : Fin 8
  deriving DecidableEq, Repr

structure Seq where
  rails : Vector SeqRail 16
  groups : Vector SeqGroup 8
  pfmem : BitVec 8
  pfs : Bool
  shutoff : Bool
  core : Bool
  retqual : Bool
  /-- The level of the EN ball. -/
  en : Bool
  /-- A SYSRST take-down is in progress: a chip reset follows once every rail is OFF (R259). -/
  sysrst : Bool
  ltag : BitVec 16
  deriving DecidableEq, Repr

/-! ## Grist ledger and cask gauge (09)

Energies are exact rationals in µJ, powers in mW, voltages in µV, currents in mA, states of charge as
fractions of 1. Registers show them rounded as the log says (log 7). -/

/-- LDG_STATUS.SRC (R293). -/
inductive Source where
  | input | stored | down | spent
  deriving DecidableEq, Repr

/-- What a booking of R288 belongs to. -/
inductive BookFor where
  | port (p : Port) | cal (chan : BitVec 7) | margin (r : Rail) | scrub
  deriving DecidableEq, Repr

structure Booking where
  for_ : BookFor
  mJ : Nat
  deriving DecidableEq, Repr

/-- A fresh result: its slot and its VALUE. -/
structure Sample where
  slot : Nat
  value : Int
  deriving DecidableEq, Repr

/-- What the blackout record gathers (R313). -/
structure Blackout where
  lossTime : BitVec 64
  drawn : Rat
  socrLoss : Rat
  trigger : BitVec 3
  lowest : Rat
  /-- The pack path has taken the bus. -/
  onPack : Bool
  cMeas : Option Rat
  pLoss : Rat
  rideLoss : Word
  deriving DecidableEq, Repr

/-- A fresh current result newer than the last VBUS result: of the pack or of the input, the slot of the fresh
result before it on its channel, its own and its VALUE (R281, R285). -/
structure HoldRes where
  pack : Bool
  prev : Option Nat
  slot : Nat
  value : Int
  deriving DecidableEq, Repr

/-- The hold-up measurement of R285: the crossing instants in slots, the conditions still met, and
the load power and the input current of the 10 ms before the crossing of CV1. -/
structure HoldUp where
  cv1At : Option Rat
  cv2At : Option Rat
  /-- The slot at which the ledger declared the input lost. -/
  lostAt : Option Nat
  clean : Bool
  power : Rat
  iLimit : Rat
  /-- Current results that the next VBUS result is still to place against the crossings. -/
  recent : List HoldRes
  deriving DecidableEq, Repr

structure Ldg where
  src : Source
  stale : Bool
  /-- A capacity test is armed, or runs (R296). -/
  capArmed : Bool
  trig : BitVec 3
  ride : Word
  pPlan : Rat
  tSd : Rat
  /-- The learned hold-up capacitance in units of 10 µF. -/
  cLearned : Option Rat
  nlrn : BitVec 16
  /-- Hold-up measurements rejected (R285). -/
  nrej : Nat
  nref : BitVec 16
  eIn : Rat
  ePk : Rat
  ePlan : Rat
  eRes : Rat
  /-- The pack term E_pk of the last update (R283, R315). -/
  ePack : Rat
  books : List Booking
  /-- P_b of the last 100 updates, newest first. -/
  pHist : List Rat
  /-- Means of VBUS of this and the last update, and of the input current of the last 10. -/
  vbus : Rat
  vbusPrev : Rat
  iinHist : List Rat
  vbusNew : List Sample
  iinNew : List Sample
  lastV : Option Sample
  lastI : Option Sample
  hold : HoldUp
  /-- The slot at which STORED was last entered (R294). -/
  storedAt : Nat
  blackout : Option Blackout
  lastReturn : BitVec 64
  /-- The last update is skipped because of a reset (R315). -/
  restarted : Bool
  /-- The time-stamp at the last update (R278). -/
  updAt : Option (BitVec 63)
  ltag : BitVec 16
  deriving DecidableEq, Repr

/-- A step of R301 that waits for its relaxation measurements (R302). -/
structure Relax where
  at_ : Nat
  level : Rat
  band : Rat
  dI : Rat
  vAfter : Rat
  d1 : Option Rat
  deriving DecidableEq, Repr

/-- The 200 µs means of R301: the start of the running window, its sums, and the last means of
current and voltage, newest first. -/
structure StepFind where
  start : Nat
  isum : Int
  icount : Nat
  vsum : Int
  vcount : Nat
  means : List (Rat × Rat)
  deriving DecidableEq, Repr

/-- A learning run (R310). -/
structure Learn where
  fullTime : BitVec 64
  /-- Charge counted, in mA·ms. -/
  charge : Rat
  chargeMs : Nat
  tempSum : Rat
  tempN : Nat
  deriving DecidableEq, Repr

structure Gau where
  /-- NS or QNOM has changed since the gauge record was committed: the record is another pack's (R319). -/
  newPack : Bool
  /-- SoC_e and SoC_q are to be taken from SoC_v at the first update (R312). -/
  fresh : Bool
  /-- SOCR is to take SoC_e once (R308). -/
  socrInit : Bool
  socq : Rat
  socv : Rat
  soce : Rat
  socr : Rat
  /-- U in 0.1 %. -/
  u : Rat
  restlessMs : Nat
  fullseen : Bool
  disagree : Bool
  norest : Bool
  stale : Bool
  tout : Bool
  vp : Rat
  r0 : Rat
  rp : Rat
  tau : Rat
  ql : Option Rat
  nql : BitVec 16
  vpk : Rat
  ipk : Rat
  tpk : Rat
  ocvEst : Rat
  restMs : Nat
  restTaken : Bool
  fullMs : Nat
  cutMs : Nat
  secMs : Nat
  recMs : Nat
  learn : Option Learn
  relax : List Relax
  find : StepFind
  vNew : List Sample
  iNew : List Sample
  tNew : List Sample
  lastV : Option Sample
  lastI : Option Sample
  lastT : Option Sample
  deriving DecidableEq, Repr

/-! ## NV store (13) -/

/-- What a request to the NV controller is for. -/
inductive NvWork where
  /-- NV_READ: the bytes wanted. -/
  | read (q : Ring) (addr len : Nat)
  /-- NV_WRITE. -/
  | write (q : Ring)
  /-- CNT_READ, where the array was busy when it was accepted. -/
  | cntRead (q : Ring) (n : Fin 64)
  /-- REC_READ: 0 not begun, 1 reading the winner, 2 reading the other copy. -/
  | recRead (q : Ring) (id : Fin 64) (stage : Fin 3)
  /-- A record commit: 0 not begun, 1 its words going out, 2 the read-back. -/
  | recCommit (id : Fin 64) (payload : List Byte) (stage : Fin 3) (slot : Fin 2) (seq : Nat)
  | counter (n : Fin 64)
  /-- IMG_WRITE: words going out, then the read-back. -/
  | image (q : Ring) (slot : Fin 2) (bytes : List Byte) (back : Bool)
  /-- A scrub batch with the pages left. -/
  | scrub (left : Nat)
  deriving DecidableEq, Repr

/-- A request: the words it has still to write in order, the pages it has still to read, what it has
read and the uncorrectable words it met. -/
structure NvReq where
  /-- 2 device, 3 descriptor, 4 scrubber (R425; the fault log has its own row). -/
  prec : Fin 5
  /-- The descriptor that waits for it. -/
  ring : Option Ring
  work : NvWork
  todo : List (Nat × List Byte)
  pages : List Nat
  got : List Byte
  lost : List Nat
  deriving DecidableEq, Repr

structure Nvm where
  mem : List Host.Cell
  /-- The words of the array that have been read as uncorrectable and not written since (R417). -/
  dead : List Nat
  /-- Every further access is refused until POR (R426). -/
  refuse : Bool
  queue : List NvReq
  /-- The slot of the winner of each record (R434). -/
  winner : Vector (Option (Fin 2)) 64
  /-- Copies that have raised event 0x7A since start, and ties (R433, R434). -/
  raised : List (Fin 64 × Fin 2)
  tied : List (Fin 64)
  corr : BitVec 16
  uncorr : BitVec 8
  weak : BitVec 8
  scrPasses : Nat
  scrNext : Fin 4096
  scrWeak : Word
  scrBad : Word
  scrPassTime : BitVec 64
  torn : BitVec 64
  /-- The image slot loaded at the last start or wake (R411). -/
  loaded : Option (Fin 2)
  ltag : BitVec 16
  deriving DecidableEq, Repr

/-! ## Two-wire ports (14) -/

/-- TW_PSTATn.STATE (R477). -/
inductive TwState where
  | off | idle | controller | target | waitbus | clear | quarantine | reset
  deriving DecidableEq, Repr

/-- What a controller port carries out (R456, R468): the descriptor's ring and, for a transfer, the
bytes it sends and its retries. -/
inductive TwJob where
  | xfer (q : Ring) (addr : BitVec 7) (retry : Nat) (send : List Byte) (rlen : Nat)
  | clear (q : Ring)
  deriving DecidableEq, Repr

structure TwPort where
  state : TwState
  busy : Bool
  lbit : BitVec 4
  lerr : BitVec 16
  arbl : BitVec 8
  nack : BitVec 8
  tmo : BitVec 8
  clr : BitVec 8
  lphase : BitVec 2
  lbyte : BitVec 9
  ptr : BitVec 16
  quar : Bool
  /-- Transfers and clears of the port, the first in progress (R468). -/
  jobs : List TwJob
  /-- Retries taken by the first, and the bit code of its latest arbitration loss. -/
  retries : Nat
  jobLoss : BitVec 4
  /-- The reset output XEN(RSTX) is driven low (R470). -/
  pulse : Bool
  /-- TW_PCFGn and the effective target address as the port took them, outside a transaction (R478). -/
  cfg : Word
  taddr : BitVec 7
  /-- The word last sampled by a read at its offset +0 (R401). -/
  sample : Option HeldRead
  deriving DecidableEq, Repr

structure Tw where
  ports : Vector TwPort 4
  /-- ADSEL1, ADSEL0 as sampled at the release of POR, kept in PD_AO. -/
  adsel : BitVec 2
  /-- The copy of TW0's address and enable in PD_AO (R478). -/
  aoAddr : BitVec 7
  aoEn : Bool
  /-- A waking transaction was not served (R472). -/
  wakeMissed : Bool
  /-- The ports whose quarantine a reset of the switched domains has ended (R469). -/
  quarWas : BitVec 4
  ltag : BitVec 16
  deriving DecidableEq, Repr

/-! ## Power, start, sleep and wake (15, 16) -/

/-- The place in the start, sleep and wake sequence (R482 to R491). -/
inductive PwrPhase where
  /-- Held in POR, or at step 1. -/
  | por
  /-- VDDA18 or VDD08 holds the switched domains in reset (R494). -/
  | supplyReset
  /-- Steps 2 to 8, up to the end of the self-test. -/
  | selfTest
  /-- Step 9, halted (R485). -/
  | halted
  /-- Step 9, waiting for EN or START. -/
  | waiting
  /-- Steps 10 and 11. -/
  | sequencing
  /-- After start-complete. -/
  | run
  /-- Asleep: only PD_AO runs. -/
  | asleep
  /-- Step 2a of a wake by TW0: PD_FAB and PD_TW are on, and the image is not loaded yet (R472, R482). -/
  | waking
  deriving DecidableEq, Repr

/-- A SLEEP in execution (R488). -/
structure SleepJob where
  ring : Ring
  wake : BitVec 5
  alarm : Word
  /-- A wake condition arose while the rails were falling (R490). -/
  kept : Bool
  deriving DecidableEq, Repr

structure Pwr where
  /-- Bit d: domain d of the R31 table is on; PD_AO is d = 0. -/
  on : BitVec 14
  /-- Domains commanded on whose supply has failed (R496, R224). -/
  lost : BitVec 14
  phase : PwrPhase
  /-- A START held in execution until the wait of step 9 (R485). -/
  startHeld : Option Ring
  sleep : Option SleepJob
  /-- EN is not acted on until the next wait of step 9 (R488). -/
  enIgnored : Bool
  /-- The wake sources armed and the alarm (R488). -/
  wake : BitVec 5
  alarm : Word
  /-- A wake condition to be taken as soon as step 6 of R488 ends (R490). -/
  wakeDue : Bool
  /-- A chip reset has been asked for as a reaction and not yet taken (R330, R259). -/
  resetDue : Bool
  /-- TMODE as sampled at the release of the VCC33 POR (R508). -/
  tmode : Bool
  /-- The flags that halted the start: PREVA and RSTC (R485). -/
  haltA : Bool
  haltR : Bool
  /-- The good side of the detectors of R495 that stand in no phase: the UVLO of VCC33, and the reset levels of VDDA18
  and VDD08 together. -/
  uvloGood : Bool
  coreGood : Bool
  /-- A start from a POR waits at step 1 for VDDA18 and VDD08 (R494). -/
  porWaits : Bool
  deriving DecidableEq, Repr

/-- The test access port (R507): the instruction register and the boundary-scan register, a bit for each ball of the
VIO, AO and two-wire banks. -/
structure Tap where
  ir : BitVec 5
  cells : BitVec 90
  deriving DecidableEq, Repr

/-! ## The whole -/

/-- The state of the part. -/
structure State where
  /-- The commands that wait, first in, first out (the model's own). -/
  pending : List Instr
  /-- The index of the next free value (the model's own, log 6). -/
  freeCount : Nat
  /-- Outputs, newest first (the model's own, log 8). -/
  out : List Out
  clk : Clk
  pwr : Pwr
  tmr : Tmr
  regs : Regs
  fab : Fab
  adc : Adc
  eng : Eng
  pwm : Pwm
  fb : Vector FbRail 8
  cmp : Cmp
  seq : Seq
  prn : Prn
  ldg : Ldg
  gau : Gau
  flt : Flt
  nvm : Nvm
  tw : Tw
  hif : Hif
  tap : Tap
  deriving DecidableEq, Repr

/-! ## Reset values -/

def Slice.reset : Slice :=
  { state := .off, ofs := 0, gain := 0x8000, skew := 0, age := 0, good := 0, mon := 0, calAt := 0,
    calOk := false }

def Adc.reset : Adc :=
  { slices := Vector.replicate 17 Slice.reset
    slotmap := Vector.ofFn fun p => ⟨p.val, by omega⟩
    mask := 0, tour := none, pitch := none, rotAt := 0, admission := none, targets := [], due := []
    errCount := Vector.replicate 8 0
    reg := { cur := 0, n := 0, inRound := false, roundAt := none }
    inj := { run := false, cur := 0, n := 0, src := 0, runs := 0, rings := [], trig := 0 }
    taken := [], cal := none, ptest := none
    pt := { chan := 0, inject := false, verdict := 0, meanA := 0, meanB := 0, nmeanA := 0, nmeanB := 0 }
    regRes := Vector.replicate 32 0, injRes := Vector.replicate 8 0, regWritten := 0, injWritten := 0
    ccal := Vector.replicate 104 { cofs := 0, cgain := 0x8000 }
    m0 := Vector.replicate 104 none
    llSkip := 0, injDrop := 0, ltag := 0 }

/-- The constant rvb that FFV 0 gives (R105). -/
def rvbConst : Int := 187649984

def EngRail.reset : EngRail :=
  { mode := .off, enabled := false, enabledAt := 0, bank := false
    bankA := Vector.replicate 32 0, bankB := Vector.replicate 32 0, table := false
    ripple0 := Vector.replicate 32 0, ripple1 := Vector.replicate 32 0
    dead0 := Vector.replicate 32 0, dead1 := Vector.replicate 32 0
    s11 := 0, s12 := 0, s21 := 0, s22 := 0, integ := 0, ff := 0
    vbus := 12000000, rvb := rvbConst, vbusMeasured := false, vbusAt := 0, vbold := false
    boost := .armed, boostCount := 0, bcnt := 0, ovf := false, refPrev := none, dref := 0, lastE := none
    iLost := 0, lastD := 0, fcs := [], fcAcc := 0, fcMissc := 0, fcClmp := 0, fcConsec := 0
    fcsusp := false, track := 0, assign := none, ckA := none, ckB := none, ckNext := 0 }

def Pair.reset : Pair := { recov := false, failed := false, times := [], mismatches := 0, ckAt := none, refused := 0 }

def Eng.reset : Eng :=
  { pairs := Vector.replicate 4 Pair.reset, rails := Vector.replicate 8 EngRail.reset, sched := []
    dutyQ := [], wsel := 0, ltag := 0 }

def Phasor.reset : Phasor :=
  { state := .unused, ramp := false, rkcause := 0, subfor := none, zofs := 0, drive := .hiz
    pulse := none, past := [], cmd := .time 0, carrAt := 0, carrLen := 0, prevLen := 0, offset := 0, target := 0, weight := 64
    wStep := 0, cur := none, iTgt := 0, trim := 0, trimI := 0, sinking := false, trips := 0
    tripped := false, implausible := 0, periods := 0, midNext := false, zCount := 0, zSum := 0
    zFault := false }

def PwmRail.reset : PwmRail :=
  { opmode := .off, act := 0, actNext := 0, shedding := none, dwell := 0, lightDwell := 0
    lightNext := false, iHist := [], iAvg := 0, loss := [], rackedNow := [], admission := none
    fcHold := 0 }

def Pwm.reset : Pwm :=
  { phases := Vector.replicate 48 Phasor.reset, rails := Vector.replicate 8 PwmRail.reset, ltag := 0 }

def PathCheck.reset : PathCheck :=
  { last := none, ranges := 0, dsum := 0, dcount := 0, absBad := 0, absFail := none, absLast := none
    absN := 0, ballSum := 0, ballN := 0 }

def FbRail.reset : FbRail :=
  { path := .remote, rlost := false, llost := false, blind := false, hact := false
    adj := false, adjAt := 0, hcause := 0, lcause := 0, hent := 0, stale := 0
    remote := PathCheck.reset, local_ := PathCheck.reset, lfsr := 0, d := 0, heads := 0, recent := []
    disagree := 0, next := 0, firedAt := none, firing := [], badPulses := 0, freshRun := 0, ovp := false, testAt := none }

/-- A window before its DACs have settled (R234), with the codes that CMP_THRn gives at reset; those
of the rail windows track a target of 0 (R231). -/
def Win.reset (n : Fin 80) : Win :=
  { low := true, high := true, latch := false, failed := false, lo := 0
    hi := if 48 ≤ n.val ∧ n.val < 64 then 0 else 1023 }

def Cmp.reset : Cmp :=
  { win := Vector.ofFn Win.reset, steep := Vector.replicate 4 .free, proof := none, cycle := false
    left := [], adjWait := [], steepRaised := false
    aoLow := Vector.replicate 3 true, aoHigh := Vector.replicate 3 true
    aoCfg := Vector.replicate 3 0x0BFF0800, ltag := 0 }

def SeqRail.reset : SeqRail :=
  { state := .off, pgood := false, retryc := 0, msel := 0, lcause := 0, xen := false, held := .none
    down := false, faultDown := false, discode := false }

def SeqGroup.reset : SeqGroup := { req := false, failed := false, retrying := false, retryc := 0 }

def Seq.reset : Seq :=
  { rails := Vector.replicate 16 SeqRail.reset, groups := Vector.replicate 8 SeqGroup.reset
    pfmem := 0, pfs := false, shutoff := false, core := false, retqual := false, en := false
    sysrst := false, ltag := 0 }

def PrnPort.reset : PrnPort :=
  { state := .disabled, eseq := 0, alert := 0, pstate := 0, cost := 0, costRail := 0, frames := 0
    crcerr := 0, stalls := 0, last := none, resp := none }

def PrnRail.reset : PrnRail :=
  { ref := 0, tgt := 0, gcls := 0, notify := false, seqown := false, m := 0, mrg := false, safe := none }

def Prn.reset : Prn :=
  { ports := Vector.replicate 4 PrnPort.reset, rails := Vector.replicate 8 PrnRail.reset, ltag := 0 }

def HoldUp.reset : HoldUp :=
  { cv1At := none, cv2At := none, lostAt := none, clean := true, power := 0, iLimit := 0, recent := [] }

def Ldg.reset : Ldg :=
  { src := .input, stale := false, capArmed := false, trig := 0, ride := 0xFFFFFFFF
    pPlan := 0, tSd := 0, cLearned := none, nlrn := 0, nrej := 0, nref := 0, eIn := 0, ePk := 0, ePlan := 0
    eRes := 0, ePack := 0, books := [], pHist := [], vbus := 0, vbusPrev := 0, iinHist := []
    vbusNew := [], iinNew := [], lastV := none, lastI := none, hold := HoldUp.reset, storedAt := 0
    blackout := none, lastReturn := 0, restarted := false, updAt := none, ltag := 0 }

def StepFind.reset : StepFind :=
  { start := 0, isum := 0, icount := 0, vsum := 0, vcount := 0, means := [] }

def Gau.reset : Gau :=
  { newPack := false, fresh := true, socrInit := true, socq := 0, socv := 0, soce := 0, socr := 0, u := 200
    restlessMs := 0, fullseen := false, disagree := false, norest := false, stale := false
    tout := false, vp := 0, r0 := 0, rp := 0, tau := 0, ql := none, nql := 0, vpk := 0, ipk := 0
    tpk := 0, ocvEst := 0, restMs := 0, restTaken := false, fullMs := 0, cutMs := 0, secMs := 0
    recMs := 0, learn := none, relax := [], find := StepFind.reset
    vNew := [], iNew := [], tNew := [], lastV := none, lastI := none, lastT := none }

def Flt.reset : Flt :=
  { classA := false, prevA := false, starting := true, test := false, recov := false, step := 0
    escStart := none, rstc := 0, pend := 0, again := 0, againAt := 0, alertTook := 0, errnTook := 0
    ladderInt := 0
    first := none, logHead := 0, drop := 0, queue := [], windows := [], pendKeys := [], brReq := [], ltag := 0 }

def Nvm.reset : Nvm :=
  { mem := [], dead := [], refuse := false, queue := [], winner := Vector.replicate 64 none, raised := []
    tied := [], corr := 0, uncorr := 0, weak := 0, scrPasses := 0, scrNext := 0, scrWeak := 0
    scrBad := 0, scrPassTime := 0, torn := 0, loaded := none, ltag := 0 }

def TwPort.reset : TwPort :=
  { state := .off, busy := false, lbit := 0xF, lerr := 0, arbl := 0, nack := 0, tmo := 0, clr := 0
    lphase := 0, lbyte := 0, ptr := 0, quar := false, jobs := [], retries := 0, jobLoss := 0xF
    pulse := false, cfg := 0x82364A4, taddr := 0, sample := none }

def Tw.reset : Tw :=
  { ports := #v[{ TwPort.reset with cfg := 0x82364A5 }, TwPort.reset, TwPort.reset, TwPort.reset], adsel := 0, aoAddr := 0x60, aoEn := true
    wakeMissed := false, quarWas := 0, ltag := 0 }

def Sq.reset : Sq :=
  { base := 0, en := false, weight := 1, cq := 0, size := 4, state := .disabled, stopping := false
    head := 0, tail := 0, submitted := 0, fetchedN := 0, doneN := 0, shown := [], fetched := []
    exec := none, posting := false, fenceWait := false, hist := [], lastTag := 0, credit := 0, next := none }

def Cq.reset : Cq :=
  { base := 0, en := false, agt := 0, agg := 1, intn := false, ien := false, vec := 1, size := 4
    state := .disabled, head := 0, tail := 0, p := true, held := [], sinceMsg := 0, firstAt := 0 }

/-- The MSI-X table after reset has every vector masked, as PCI Express gives it. -/
def Hif.reset : Hif :=
  { speed := 0, up := false, d3 := false, bme := false, msixEn := false, funcMask := false
    msixTable := Vector.replicate 32 (Vector.ofFn fun k => if k.val = 3 then 1 else 0), pba := 0
    rcnt := 0, lcause := 0, aer := none, poll := 8, dbAddr := 0, shAddr := 0, dbInFlight := false
    dbAgain := false, pollAt := 0, recovering := false, sq := Vector.replicate 16 Sq.reset, cq := Vector.replicate 16 Cq.reset
    nextOrd := 0 }

def Clk.reset : Clk :=
  { refsel := 0, lock := false, xrefOk := false, lossc := 0, slot := 0, rc := 0, frame0 := 0 }

def Tmr.reset : Tmr :=
  { now := 0, coarse := false, setPend := none, setLo := Vector.replicate 4 0, setCnt := 0
    mirror := none, gap := 0 }

def Regs.reset : Regs :=
  { live := [], shadow := [], acc := [], lock := false, autolock := false, errOff := 0, errCode := 0
    errMaster := 0, errCount := 0, rdsel := Vector.replicate 4 false, hold := Vector.replicate 4 none
    ssvid := 0, ssid := 0 }

def Fab.reset : Fab := { markers := [], lastSeq := [], heard := [], seqErr := 0 }

def Pwr.reset : Pwr :=
  { on := 1, lost := 0, phase := .por, startHeld := none, sleep := none, enIgnored := false, wake := 0
    alarm := 0, wakeDue := false, resetDue := false, tmode := false, haltA := false, haltR := false
    uvloGood := false, coreGood := false, porWaits := false }

/-- The machine right after reset: the VCC33_AO POR of R479, with only PD_AO on (R390) and the queue
empty. Registers stand at the values their tables give; what the tables leave out is named in log 2. -/
def State.reset : State :=
  { pending := [], freeCount := 0, out := [], clk := Clk.reset, pwr := Pwr.reset, tmr := Tmr.reset
    regs := Regs.reset, fab := Fab.reset, adc := Adc.reset, eng := Eng.reset, pwm := Pwm.reset
    fb := Vector.replicate 8 FbRail.reset, cmp := Cmp.reset, seq := Seq.reset, prn := Prn.reset
    ldg := Ldg.reset, gau := Gau.reset, flt := Flt.reset, nvm := Nvm.reset, tw := Tw.reset
    hif := Hif.reset, tap := { ir := 0b00001, cells := 0 } }

/-! ## Stops -/

/-- Reasons to fault. No command of this part faults: every row of the table has an effect, and a
command whose condition does not hold changes nothing. The one reason is kept for completeness of the
interface and is never raised. Safe. -/
inductive Fault where
  | none_
  deriving DecidableEq, Repr

/-- Reasons to refuse. -/
inductive Refusal where
  /-- The command has no meaning in the model yet; raised by the dispatcher alone. Safe. -/
  | notModelled (mnemonic : String)
  deriving DecidableEq, Repr

/-- The outcome of a step of this machine. -/
abbrev Res := Host.Outcome State Fault Refusal

end Sys2Proof.Machine
end

