-- ==== Sys2Proof/Machine/Bits.lean ====
section
/-!
DEFINITION. Bits, bytes, saturation, the part's two checksums, sparse register files and byte
memories.
-/

namespace Sys2Proof.Machine

/-! ## Fields of words -/

/-- Bits lo to lo + len − 1 of a word, as a number. -/
def bitsOf (w : Word) (lo len : Nat) : Nat := w.toNat / 2 ^ lo % 2 ^ len

/-- A number of `len` bits read as two's complement (R5). -/
def signed (len n : Nat) : Int := if n < 2 ^ (len - 1) then (n : Int) else (n : Int) - (2 ^ len : Nat)

/-- A signed field of a word. -/
def sbitsOf (w : Word) (lo len : Nat) : Int := signed len (bitsOf w lo len)

/-- A word built from fields (low bit, width, value); each value is cut to its width. -/
def packWord (fs : List (Nat × Nat × Nat)) : Word :=
  BitVec.ofNat 32 (fs.foldl (fun acc f => acc + f.2.2 % 2 ^ f.2.1 * 2 ^ f.1) 0)

/-- A number of one bit. -/
def bit (b : Bool) : Nat := if b then 1 else 0

/-- An integer as a two's complement word of n bits. -/
def toBits (n : Nat) (x : Int) : BitVec n := BitVec.ofInt n x

/-- x held between lo and hi. -/
def clampInt (lo hi x : Int) : Int := if x < lo then lo else if hi < x then hi else x

/-- A saturating count of n bits, one up. -/
def incSat {n : Nat} (x : BitVec n) : BitVec n := if x.toNat + 1 < 2 ^ n then x + 1 else x

/-- x saturated to a signed number of n bits. -/
def satBits (n : Nat) (x : Int) : Int := clampInt (-(2 ^ (n - 1) : Nat)) ((2 ^ (n - 1) : Nat) - 1) x

/-- The quotient rounded toward plus infinity, for a positive divisor. -/
def ceilDiv (a b : Nat) : Nat := (a + b - 1) / b

/-- The quotient rounded to the nearest integer, a half upward, for a positive divisor. -/
def roundDiv (a : Int) (b : Nat) : Int := (2 * a + b) / (2 * b : Nat)

/-- The quotient rounded to the nearest integer, a half away from zero, for a positive divisor. -/
def roundAway (a : Int) (b : Nat) : Int :=
  if 0 ≤ a then (2 * a + b) / (2 * b : Nat) else -((2 * (-a) + b) / (2 * b : Nat))

/-! ## Vectors -/

/-- v with entry i replaced by its image under f. -/
def vmod {α : Type} {n : Nat} (v : Vector α n) (i : Fin n) (f : α → α) : Vector α n :=
  v.set i.val (f v[i]) i.isLt

/-- v with entry i replaced. -/
def vput {α : Type} {n : Nat} (v : Vector α n) (i : Fin n) (x : α) : Vector α n :=
  v.set i.val x i.isLt

/-- The numbers below n, as indices. -/
def fins (n : Nat) : List (Fin n) := List.ofFn id

/-- A set of indices as a bit vector. -/
def maskOf (n : Nat) (p : Fin n → Bool) : BitVec n :=
  BitVec.ofNat n ((fins n).foldl (fun acc i => if p i then acc + 2 ^ i.val else acc) 0)

/-- Bit i of a bit vector. -/
def hasBit {n : Nat} (b : BitVec n) (i : Nat) : Bool := b.getLsbD i

/-- b with bit i set to v. -/
def putBit {n : Nat} (b : BitVec n) (i : Nat) (v : Bool) : BitVec n :=
  if v then b ||| BitVec.ofNat n (2 ^ i) else b &&& ~~~(BitVec.ofNat n (2 ^ i))

/-- The number of bits set. -/
def countBits {n : Nat} (b : BitVec n) : Nat := ((List.range n).filter (fun i => b.getLsbD i)).length

/-! ## Bytes (R3) -/

/-- The n low bytes of x, least significant first. -/
def leBytes : Nat → Nat → List Byte
  | 0, _ => []
  | n + 1, x => BitVec.ofNat 8 x :: leBytes n (x / 256)

/-- The number that bytes spell, least significant first. -/
def leNat : List Byte → Nat
  | [] => 0
  | b :: bs => b.toNat + 256 * leNat bs

/-- n bytes from place i of a list, zeros beyond its end. -/
def bytesAt (bs : List Byte) (i n : Nat) : List Byte :=
  let t := (bs.drop i).take n
  t ++ List.replicate (n - t.length) 0

/-- The little-endian number of n bytes at place i. -/
def natAt (bs : List Byte) (i n : Nat) : Nat := leNat (bytesAt bs i n)

/-- The n 32-bit little-endian words at the front of a list of bytes. -/
def wordsOf : Nat → List Byte → List Word
  | 0, _ => []
  | n + 1, bs => BitVec.ofNat 32 (natAt bs 0 4) :: wordsOf n (bs.drop 4)

/-! ## Checksums -/

/-- One bit of the CRC-8 of R177. -/
def crc8Bit (crc : BitVec 8) (b : Bool) : BitVec 8 :=
  if crc.getLsbD 7 != b then (crc <<< 1) ^^^ 0x07 else crc <<< 1

/-- The n low bits of x, the highest first. -/
def bitsHighFirst : Nat → Nat → List Bool
  | 0, _ => []
  | n + 1, x => Nat.testBit x n :: bitsHighFirst n x

/-- CRC-8 of bits in the order of transmission (R177). -/
def crc8 (bits : List Bool) : BitVec 8 := bits.foldl crc8Bit 0xFF

/-- CRC-8 over bytes in order, each from bit 7 (R341). -/
def crc8Bytes (bs : List Byte) : BitVec 8 := crc8 (bs.flatMap fun b => bitsHighFirst 8 b.toNat)

/-- One bit step of the CRC-32 of R404. -/
def crc32Step (c : BitVec 32) : BitVec 32 :=
  if c.getLsbD 0 then (c >>> 1) ^^^ 0xEDB88320 else c >>> 1

/-- One byte of the CRC-32 of R404. -/
def crc32Byte (c : BitVec 32) (b : Byte) : BitVec 32 :=
  (List.range 8).foldl (fun c _ => crc32Step c) (c ^^^ b.setWidth 32)

/-- CRC-32 of bytes in order (R404). -/
def crc32 (bs : List Byte) : BitVec 32 := bs.foldl crc32Byte 0xFFFFFFFF ^^^ 0xFFFFFFFF

/-! ## Byte memories

A memory is a list of cells with rising addresses and no zero byte: an unlisted byte reads 0 (log 3). -/

/-- The canonical form. -/
def Memory.wf : List Host.Cell → Bool
  | [] => true
  | [c] => c.2 != 0
  | c :: d :: cs => (c.2 != 0) && decide (c.1 < d.1) && Memory.wf (d :: cs)

/-- The byte at an address. -/
def readByte (m : List Host.Cell) (a : Nat) : Byte :=
  match m with
  | [] => 0
  | c :: cs => if c.1 = a then c.2 else readByte cs a

/-- The memory with one byte written. -/
def writeByte (m : List Host.Cell) (a : Nat) (b : Byte) : List Host.Cell :=
  match m with
  | [] => if b = 0 then [] else [(a, b)]
  | c :: cs =>
    if c.1 < a then c :: writeByte cs a b
    else if c.1 = a then (if b = 0 then cs else (a, b) :: cs)
    else if b = 0 then c :: cs else (a, b) :: c :: cs

/-- n bytes from an address. -/
def readBytes (m : List Host.Cell) (a n : Nat) : List Byte :=
  (List.range n).map fun k => readByte m (a + k)

/-- The memory with bytes written in order from an address. -/
def writeBytes (m : List Host.Cell) (a : Nat) (bs : List Byte) : List Host.Cell :=
  match bs with
  | [] => m
  | b :: bs => writeBytes (writeByte m a b) (a + 1) bs

/-! ## Sparse register files -/

/-- The word stored at an offset, if any. -/
def RegMap.find (m : RegMap) (off : Nat) : Option Word :=
  match m with
  | [] => none
  | e :: es => if e.1 = off then some e.2 else RegMap.find es off

/-- The file with one word stored, in rising order; a word equal to the reset value `d` is left out. -/
def RegMap.store (m : RegMap) (off : Nat) (d w : Word) : RegMap :=
  match m with
  | [] => if w = d then [] else [(off, w)]
  | e :: es =>
    if e.1 < off then e :: RegMap.store es off d w
    else if e.1 = off then (if w = d then es else (off, w) :: es)
    else if w = d then e :: es else (off, w) :: e :: es

end Sys2Proof.Machine
end

