-- ==== Sys2Proof/Machine/Layout.lean ====
section
/-!
DEFINITION. The shadowed registers of BAR0: which offsets are listed, which of their bits can be
written, what they hold after reset, which words each set carries (R367, R387, R405), and how the sets
are read. Writable bits are the RW fields of the register tables; the other bits of these registers
are reserved, but for FLT_RXn.CLASS.
-/

namespace Sys2Proof.Machine

/-- A run of registers of one layout: `count` words `stride` bytes apart. -/
structure Span where
  base : Nat
  stride : Nat
  count : Nat
  blk : Blk
  rw : Word
  reset : Word
  ro : Word

/-- Whether an offset is one of the span's words. -/
def Span.holds (p : Span) (off : Nat) : Bool :=
  decide (p.base ≤ off) && decide ((off - p.base) % p.stride = 0) &&
    decide ((off - p.base) / p.stride < p.count)

/-- A span without read-only fields. -/
def Span.mk' (blk : Blk) (base stride count : Nat) (rw reset : Word) : Span :=
  { base := base, stride := stride, count := count, blk := blk, rw := rw, reset := reset, ro := 0 }

/-- ADC (R64, R86 to R90). -/
def spansAdc : List Span :=
  [ .mk' .adc 0x3000 4 1 0xFFF 0x42, .mk' .adc 0x3020 4 8 0xFFFFFF 0x680402,
    .mk' .adc 0x3060 4 1 0x3FFFFF 0, .mk' .adc 0x3064 4 1 0xF 0, .mk' .adc 0x3068 4 1 0xFFF 0,
    .mk' .adc 0x3080 4 32 0x77F 0, .mk' .adc 0x3100 4 8 0x77F 0,
    .mk' .adc 0x3400 4 104 0xFFFFFFFF 0x7FFF8000 ]

/-- ENG (R134). -/
def spansEng : List Span :=
  [ .mk' .eng 0x4000 4 1 0xFF01 0x3401, .mk' .eng 0x4020 4 8 0x1FF8FFF 0x20806E ]

/-- PWM (R167) and the heel-loop words (R228). The eighth word of a rail block is reserved (R352). -/
def spansPwm : List Span :=
  [ .mk' .pwm 0x5000 4 1 0xFF0001 0x400001, .mk' .pwm 0x5100 4 48 0x1FFF 0x1800,
    .mk' .pwm 0x5300 32 8 0x3FFFEFFF 0x4000008, .mk' .pwm 0x5304 32 8 0xFFFFFFFF 0x2864FFFF,
    .mk' .pwm 0x5308 32 8 0xFFFFFFFF 0xC80096, .mk' .pwm 0x530C 32 8 0xFFFFFF0F 0x4004004,
    .mk' .pwm 0x5310 32 8 0x3FFFFFF 0, .mk' .pwm 0x5314 32 8 0xFFFFFFFF 0x38400810,
    .mk' .pwm 0x5318 32 8 0xFFFF 0, .mk' .pwm 0x531C 32 8 0 0,
    .mk' .pwm 0x5800 32 8 0x3FFFFFF1 0x1004080, .mk' .pwm 0x5804 32 8 0xFFFF 0x1E14,
    .mk' .pwm 0x5808 32 8 0xFFFFFFFF 0x4021440, .mk' .pwm 0x580C 32 8 0xFFFF 0 ]

/-- CMP (R247): absolute windows of the phases, rail windows, the other absolute windows, and the
reserved words. -/
def spansCmp : List Span :=
  [ .mk' .cmp 0x6000 4 1 0x3FF01 0x6401, .mk' .cmp 0x6100 4 48 0x33FF3FFF 0x13FF0800,
    .mk' .cmp 0x61C0 4 16 0x33FF3FFF 0x3C083C, .mk' .cmp 0x6200 4 12 0x33FF3FFF 0x3FF0800,
    .mk' .cmp 0x6230 4 4 0 0, .mk' .cmp 0x6400 4 3 0xFFFFBFFF 0xBFF0800 ]

/-- SEQ (R276). -/
def spansSeq : List Span :=
  [ .mk' .seq 0x7000 4 1 0x1FFFF7F 0x6414, .mk' .seq 0x7020 4 8 0xFF3F 0xA06,
    .mk' .seq 0x7100 32 16 0xFFFFC000 0x800000, .mk' .seq 0x7104 32 16 0x8F8F8F8F 0,
    .mk' .seq 0x7108 32 16 0xFFFFFFFF 0, .mk' .seq 0x710C 32 16 0xFFFF03FF 0x40,
    .mk' .seq 0x7110 32 16 0xFFFF83FF 0, .mk' .seq 0x7114 32 16 0xFFFF 0,
    .mk' .seq 0x7118 32 16 0 0, .mk' .seq 0x711C 32 16 0 0 ]

/-- PRN (R205). -/
def spansPrn : List Span :=
  [ .mk' .prn 0x8000 4 1 1 1, .mk' .prn 0x8010 4 4 0x7FFFFFF 0x4646400,
    .mk' .prn 0x8100 16 8 0xFFFF8 0x3C100, .mk' .prn 0x8104 16 8 0xFFFFFFFF 0,
    .mk' .prn 0x8108 16 8 0xFFFFFFFF 0, .mk' .prn 0x810C 16 8 0 0 ]

/-- TW (R477); TW0 alone is enabled at reset. -/
def spansTw : List Span :=
  [ .mk' .tw 0x9000 4 1 0xFFFFFF 0xF0E8E0, .mk' .tw 0x9010 4 1 0xFFFFFFFF 0x82364A5,
    .mk' .tw 0x9014 4 3 0xFFFFFFFF 0x82364A4 ]

/-- NVM (R445). -/
def spansNvm : List Span :=
  [ .mk' .nvm 0xA000 4 1 0x13 0x10, .mk' .nvm 0xA00C 4 1 0xFFFFFF 0x1003E8 ]

/-- LDG and GAU (R318). -/
def spansLdg : List Span :=
  [ .mk' .ldg 0xB000 4 1 0x3FFFF1 0x384140, .mk' .ldg 0xB010 4 4 0xFFFFFFFF 0,
    .mk' .ldg 0xB020 4 1 0xFFFFFFFF 8, .mk' .ldg 0xB024 4 1 0xFFFF03FF 0xFA,
    .mk' .ldg 0xB028 4 1 0xFFFFFFFF 0, .mk' .ldg 0xB02C 4 1 0xFFFF 0,
    .mk' .ldg 0xB100 4 1 0xFFFFFFFF 0x1E185280, .mk' .ldg 0xB104 4 1 0xFFFF 0,
    .mk' .ldg 0xB108 4 5 0xFFFFFFFF 0, .mk' .ldg 0xB11C 4 1 0xFFFFFFFF 0x12C2710,
    .mk' .ldg 0xB120 4 1 0xFFFFFFFF 0, .mk' .ldg 0xB140 4 16 0xFFFFFFFF 0,
    .mk' .ldg 0xB300 4 16 0xFFFFFFFF 0, .mk' .ldg 0xB400 4 64 0xFFFFFFFF 0 ]

/-- The class of an event in the codes of FLT_RXn.CLASS (R322): 1 B, 2 C, 3 D, 0 reserved. -/
def eventClass (e : Nat) : Nat :=
  if e < 0x30 then 2 else if e < 0x50 then 1 else
  match e with
  | 0x50 => 2 | 0x51 => 3 | 0x52 => 3 | 0x53 => 3 | 0x54 => 2 | 0x55 => 1
  | 0x56 => 2 | 0x57 => 3 | 0x58 => 2 | 0x59 => 1 | 0x5A => 3
  | 0x5B => 0 | 0x5C => 0 | 0x5D => 0 | 0x5E => 0 | 0x5F => 0
  | 0x60 => 1 | 0x61 => 2 | 0x62 => 2 | 0x63 => 3 | 0x64 => 1 | 0x65 => 2 | 0x66 => 1 | 0x67 => 2
  | 0x68 => 1 | 0x69 => 3 | 0x6A => 1 | 0x6B => 2 | 0x6C => 2 | 0x6D => 2 | 0x6E => 1 | 0x6F => 0
  | 0x78 => 3 | 0x79 => 1 | 0x7A => 2 | 0x7B => 2 | 0x7C => 2 | 0x7D => 1 | 0x7E => 2 | 0x7F => 1
  | _ => 2

/-- An event ID that is never raised (R324). -/
def reservedEvent (e : Nat) : Bool := eventClass e = 0

/-- The sources on which R322 allows a block reset. -/
def brstAllowed (e : Nat) : Bool :=
  e = 0x68 || e = 0x6A || e = 0x6B || e = 0x6D || (decide (0x70 ≤ e) && decide (e ≤ 0x77)) ||
    e = 0x79 || e = 0x7B || e = 0x7E

/-- The vector of an event's group (R520). -/
def eventVec (e : Nat) : Nat :=
  if e < 0x30 then 1 else if e < 0x40 then 2 else if e < 0x50 then 3 else if e < 0x56 then 4
  else if e < 0x60 then 5 else if e < 0x68 then 6 else if e < 0x70 then 7 else if e < 0x74 then 8
  else if e < 0x78 then 9 else if e < 0x7C then 10 else if e < 0x7E then 11 else 12

/-- Sources whose default reaction names the ERRN ball (R322). -/
def errnDefault (e : Nat) : Bool :=
  (decide (0x30 ≤ e) && decide (e ≤ 0x37)) || (decide (0x40 ≤ e) && decide (e ≤ 0x4F)) ||
    e = 0x66 || e = 0x7D

/-- Sources whose default reaction names a maskable interrupt (R322). -/
def intDefault (e : Nat) : Bool :=
  !(reservedEvent e || e = 0x51 || e = 0x52 || e = 0x63 || e = 0x68 || e = 0x78)

/-- FLT_RXn after reset (R322, R337, R520). -/
def fltRxReset (e : Nat) : Word :=
  if reservedEvent e then 0 else
    packWord [(30, 2, eventClass e), (28, 2, 4 - eventClass e - bit (eventClass e = 3)),
      (12, 1, bit (errnDefault e)), (9, 1, bit (e = 0x68)), (8, 1, bit (intDefault e)),
      (5, 1, bit (e = 0x6D)), (0, 5, eventVec e)]

/-- n words of FLT_RX from source e on. Their reset values are those of `fltRxReset`. -/
def Span.rx (e n : Nat) : Span :=
  { base := 0xC200 + 4 * e, stride := 4, count := n, blk := .flt, rw := 0x30001F3F, reset := 0,
    ro := 0xC0000000 }

/-- FLT (R348). Every bit of FLT_RXn and FLT_MASKm that belongs to a reserved ID is reserved (R324, R520). -/
def spansFlt : List Span :=
  [ .mk' .flt 0xC000 4 1 0x3FF0006 0x640000, .mk' .flt 0xC040 4 2 0xFFFFFFFF 0,
    .mk' .flt 0xC048 4 1 0x7FFFFFF 0, .mk' .flt 0xC04C 4 1 0xFFFF7FFF 0,
    .mk' .flt 0xC100 4 8 0x1FFFF 0xFFFF, .rx 0 0x5B, .mk' .flt 0xC36C 4 5 0 0, .rx 0x60 0xF,
    .mk' .flt 0xC3BC 4 1 0 0, .rx 0x70 0x10 ]

/-- The shadowed registers of a block. -/
def spansOf : Blk → List Span
  | .adc => spansAdc
  | .eng => spansEng
  | .pwm => spansPwm
  | .cmp => spansCmp
  | .seq => spansSeq
  | .prn => spansPrn
  | .tw => spansTw
  | .nvm => spansNvm
  | .ldg => spansLdg
  | .flt => spansFlt

/-- The block whose 4 KiB hold an offset (R387), where that block has a shadowed set. -/
def blkAt (off : Nat) : Option Blk :=
  match off / 0x1000 with
  | 0x3 => some .adc | 0x4 => some .eng | 0x5 => some .pwm | 0x6 => some .cmp | 0x7 => some .seq
  | 0x8 => some .prn | 0x9 => some .tw | 0xA => some .nvm | 0xB => some .ldg | 0xC => some .flt
  | _ => none

/-- The span of shadowed words that an offset lies in. -/
def spanAt (off : Nat) : Option Span :=
  match blkAt off with
  | some b => (spansOf b).find? (fun p => p.holds off)
  | none => none

/-- A shadowed register's value after reset. -/
def resetWord (off : Nat) : Word :=
  if 0xC200 ≤ off ∧ off < 0xC400 then fltRxReset ((off - 0xC200) / 4)
  else match spanAt off with
    | some p => p.reset
    | none => 0

/-- n offsets of consecutive words. -/
def words (base n : Nat) : List Nat := (List.range n).map (base + 4 * ·)

/-- The words of ADC_SEQ_LOAD (R367). -/
def seqLoadOffs : List Nat := words 0x3060 3 ++ words 0x3080 32 ++ words 0x3100 8 ++ words 0x3400 104

/-- The words of PHASE_PLAN (R146). -/
def phasePlanOffs : List Nat := words 0x5100 48 ++ words 0x5300 64 ++ words 0x3020 8

/-- A block's whole shadow set in ascending order, as its set descriptor and its image section carry
it (R367, R405, R446, R478). -/
def setOffs : Blk → List Nat
  | .adc => words 0x3000 1 ++ words 0x3020 8 ++ seqLoadOffs
  | .eng => words 0x4000 1 ++ words 0x4020 8
  | .pwm => words 0x5000 1 ++ words 0x5100 48 ++ words 0x5300 64 ++
      (List.range 8).flatMap (fun r => words (0x5800 + 0x20 * r) 4)
  | .cmp => words 0x6000 1 ++ words 0x6100 80 ++ words 0x6400 3
  | .seq => words 0x7000 1 ++ words 0x7020 8 ++ words 0x7100 128
  | .prn => words 0x8000 1 ++ words 0x8010 4 ++ words 0x8100 32
  | .tw => words 0x9000 1 ++ words 0x9010 4
  | .nvm => [0xA000, 0xA00C]
  | .ldg => words 0xB000 1 ++ words 0xB010 8 ++ words 0xB100 9 ++ words 0xB140 16 ++
      words 0xB300 16 ++ words 0xB400 64
  | .flt => words 0xC000 1 ++ words 0xC040 4 ++ words 0xC100 8 ++ words 0xC200 128

/-- The bits of a shadowed word that are reserved (R4). -/
def reservedBits (off : Nat) : Word :=
  match spanAt off with
  | some p => ~~~(p.rw ||| p.ro)
  | none => 0xFFFFFFFF

/-- What a write of v leaves in a shadowed register that holds old (R5): its read-only fields stay. -/
def writable (off : Nat) (old v : Word) : Word :=
  match spanAt off with
  | some p => (v &&& p.rw) ||| (old &&& p.ro)
  | none => old

/-- The blocks with a shadowed set, in the order of their pages. -/
abbrev allBlks : List Blk := [.adc, .eng, .pwm, .cmp, .seq, .prn, .tw, .nvm, .ldg, .flt]

/-! ## Reading a set -/

/-- A register's word in a sparse file. -/
def wordIn (m : RegMap) (off : Nat) : Word := (RegMap.find m off).getD (resetWord off)

/-- The file with a register's word set; its read-only fields keep their values (R321). -/
def setWord (m : RegMap) (off : Nat) (w : Word) : RegMap :=
  RegMap.store m off (resetWord off) (writable off (resetWord off) w)

/-- The file with several words set. -/
def setWords (m : RegMap) (ws : List (Nat × Word)) : RegMap :=
  ws.foldl (fun m e => setWord m e.1 e.2) m

/-- The file with the words of `offs` taken from another. -/
def copyWords (src dst : RegMap) (offs : List Nat) : RegMap :=
  offs.foldl (fun m off => setWord m off (wordIn src off)) dst

/-- Whether two files hold the same words at `offs`. -/
def sameWords (a b : RegMap) (offs : List Nat) : Bool := offs.all fun off => wordIn a off == wordIn b off

/-- A set-up as the checks and the blocks read it: a word for each offset. -/
structure Setup where
  get : Nat → Word

/-- Set-up read from a sparse file. -/
def Setup.of (m : RegMap) : Setup := ⟨wordIn m⟩

/-- The set-up in force. -/
def State.cfg (s : State) : Setup := Setup.of s.regs.live

/-- Set-up taken from a list of words where it names an offset, and from another set-up elsewhere. -/
def Setup.over (g : Setup) (ws : RegMap) : Setup :=
  ⟨fun off => (RegMap.find ws off).getD (g.get off)⟩

/-- A field of a register. -/
def Setup.fld (g : Setup) (off lo len : Nat) : Nat := bitsOf (g.get off) lo len

/-- A field of one bit. -/
def Setup.flag (g : Setup) (off lo : Nat) : Bool := bitsOf (g.get off) lo 1 = 1

/-- A signed field. -/
def Setup.sfld (g : Setup) (off lo len : Nat) : Int := signed len (g.fld off lo len)

end Sys2Proof.Machine
end

