-- ==== Sys2Proof/Machine/SetupFields.lean ====
section
/-!
DEFINITION. The fields of the shadowed registers, one accessor each, under the manual's names in lower
case. An accessor takes the number of its rail, phase, port, window, source or entry where the register
is one of several.
-/

namespace Sys2Proof.Machine.Setup

/-! ## ADC (R64, R86, R87, R88, R90) -/

/-- ROTPER, ms. -/
def rotper (g : Setup) : Nat := g.fld (0x3000) 2 10
/-- ROTEN. -/
def roten (g : Setup) : Bool := g.flag (0x3000) 1
/-- LPM. -/
def lpm (g : Setup) : Bool := g.flag (0x3000) 0
/-- LLEN. -/
def llen (g : Setup) (r : Nat) : Bool := g.flag (0x3020 + 4 * r) 23
/-- ABSDIV. -/
def absdiv (g : Setup) (r : Nat) : Bool := g.flag (0x3020 + 4 * r) 22
/-- XPATH. -/
def xpath (g : Setup) (r : Nat) : Bool := g.flag (0x3020 + 4 * r) 21
/-- PATH, the initial active path: true is local. -/
def path0 (g : Setup) (r : Nat) : Bool := g.flag (0x3020 + 4 * r) 20
/-- CURPOS, 1/256 period. -/
def curpos (g : Setup) (r : Nat) : Nat := g.fld (0x3020 + 4 * r) 12 8
/-- CURPP. -/
def curpp (g : Setup) (r : Nat) : Nat := g.fld (0x3020 + 4 * r) 10 2
/-- ERRPOS, 1/256 period. -/
def errpos (g : Setup) (r : Nat) : Nat := g.fld (0x3020 + 4 * r) 2 8
/-- ERRPP. -/
def errpp (g : Setup) (r : Nat) : Nat := g.fld (0x3020 + 4 * r) 0 2
/-- PACE, µs. -/
def pace (g : Setup) : Nat := g.fld (0x3060) 6 16
/-- LEN of the regular sequence. -/
def regLen (g : Setup) : Nat := g.fld (0x3060) 1 5
/-- EN of the regular sequence. -/
def regEn (g : Setup) : Bool := g.flag (0x3060) 0
/-- LEN of the injected sequence. -/
def injLen (g : Setup) : Nat := g.fld (0x3064) 1 3
/-- EN of the injected sequence. -/
def injEn (g : Setup) : Bool := g.flag (0x3064) 0
/-- PNM. -/
def pnm (g : Setup) : Nat := g.fld (0x3068) 8 4
/-- WEN. -/
def wen (g : Setup) : Bool := g.flag (0x3068) 7
/-- WIN. -/
def trigWin (g : Setup) : Nat := g.fld (0x3068) 0 7
/-- RCHK of an entry. -/
def regRchk (g : Setup) (n : Nat) : Bool := g.flag (0x3080 + 4 * n) 10
/-- AVG of an entry. -/
def regAvg (g : Setup) (n : Nat) : Nat := g.fld (0x3080 + 4 * n) 8 2
/-- CHAN of an entry. -/
def regChan (g : Setup) (n : Nat) : Nat := g.fld (0x3080 + 4 * n) 0 7
/-- RCHK of an entry. -/
def injRchk (g : Setup) (n : Nat) : Bool := g.flag (0x3100 + 4 * n) 10
/-- AVG of an entry. -/
def injAvg (g : Setup) (n : Nat) : Nat := g.fld (0x3100 + 4 * n) 8 2
/-- CHAN of an entry. -/
def injChan (g : Setup) (n : Nat) : Nat := g.fld (0x3100 + 4 * n) 0 7
/-- HI of a channel's range window. -/
def rangeHi (g : Setup) (c : Nat) : Int := g.sfld (0x3400 + 4 * c) 16 16
/-- LO of a channel's range window. -/
def rangeLo (g : Setup) (c : Nat) : Int := g.sfld (0x3400 + 4 * c) 0 16

/-! ## ENG (R134) -/

/-- MMLIM. -/
def mmlim (g : Setup) : Nat := g.fld (0x4000) 12 4
/-- FCMISS. -/
def fcmiss (g : Setup) : Nat := g.fld (0x4000) 8 4
/-- CKPEN. -/
def ckpen (g : Setup) : Bool := g.flag (0x4000) 0
/-- EN. -/
def engEn (g : Setup) (r : Nat) : Bool := g.flag (0x4020 + 4 * r) 24
/-- PAIR. -/
def pair (g : Setup) (r : Nat) : Nat := g.fld (0x4020 + 4 * r) 22 2
/-- FFV. -/
def ffv (g : Setup) (r : Nat) : Bool := g.flag (0x4020 + 4 * r) 21
/-- FFS. -/
def ffs (g : Setup) (r : Nat) : Bool := g.flag (0x4020 + 4 * r) 20
/-- FFF. -/
def fff (g : Setup) (r : Nat) : Bool := g.flag (0x4020 + 4 * r) 19
/-- FFD. -/
def ffd (g : Setup) (r : Nat) : Bool := g.flag (0x4020 + 4 * r) 18
/-- RIPEN. -/
def ripen (g : Setup) (r : Nat) : Bool := g.flag (0x4020 + 4 * r) 17
/-- BOOSTEN. -/
def boosten (g : Setup) (r : Nat) : Bool := g.flag (0x4020 + 4 * r) 16
/-- DITHEN. -/
def dithen (g : Setup) (r : Nat) : Bool := g.flag (0x4020 + 4 * r) 15
/-- VBMIN, 10 mV. -/
def vbmin (g : Setup) (r : Nat) : Nat := g.fld (0x4020 + 4 * r) 0 12

/-! ## PWM (R167) and the heel loops (R228) -/

/-- PZMAX, counts. -/
def pzmax (g : Setup) : Nat := g.fld (0x5000) 16 8
/-- RKPERSIST. -/
def rkpersist (g : Setup) : Bool := g.flag (0x5000) 0
/-- PLEN. -/
def plen (g : Setup) (h : Nat) : Bool := g.flag (0x5100 + 4 * h) 12
/-- STFEN. -/
def stfen (g : Setup) (h : Nat) : Bool := g.flag (0x5100 + 4 * h) 11
/-- ORDER. -/
def order (g : Setup) (h : Nat) : Nat := g.fld (0x5100 + 4 * h) 5 6
/-- ROLE: 0 UNUSED, 1 ACTIVE, 2 STEEP. -/
def role (g : Setup) (h : Nat) : Nat := g.fld (0x5100 + 4 * h) 3 2
/-- RAIL of a phase. -/
def phRail (g : Setup) (h : Nat) : Nat := g.fld (0x5100 + 4 * h) 0 3
/-- PERIOD, ticks. -/
def period (g : Setup) (r : Nat) : Nat := g.fld (0x5300 + 0x20 * r) 16 14
/-- MODE: 0 FULL, 1 SHED, 2 LIGHT. -/
def pwmMode (g : Setup) (r : Nat) : Nat := g.fld (0x5300 + 0x20 * r) 14 2
/-- DUAL. -/
def dual (g : Setup) (r : Nat) : Bool := g.flag (0x5300 + 0x20 * r) 13
/-- ROFS, 1/256 period. -/
def rofs (g : Setup) (r : Nat) : Nat := g.fld (0x5300 + 0x20 * r) 4 8
/-- ANGRATE. -/
def angrate (g : Setup) (r : Nat) : Nat := g.fld (0x5300 + 0x20 * r) 0 4
/-- TONMIN, ticks. -/
def tonmin (g : Setup) (r : Nat) : Nat := g.fld (0x5304 + 0x20 * r) 24 8
/-- TOFFMIN, ticks. -/
def toffmin (g : Setup) (r : Nat) : Nat := g.fld (0x5304 + 0x20 * r) 16 8
/-- TONMAX, ticks. -/
def tonmax (g : Setup) (r : Nat) : Nat := g.fld (0x5304 + 0x20 * r) 0 16
/-- IADD, counts. -/
def iadd (g : Setup) (r : Nat) : Nat := g.fld (0x5308 + 0x20 * r) 16 16
/-- ISHED, counts. -/
def ished (g : Setup) (r : Nat) : Nat := g.fld (0x5308 + 0x20 * r) 0 16
/-- SHDWELL, periods. -/
def shdwell (g : Setup) (r : Nat) : Nat := g.fld (0x530C + 0x20 * r) 20 12
/-- NMIN. -/
def nmin (g : Setup) (r : Nat) : Nat := g.fld (0x530C + 0x20 * r) 14 6
/-- NFLOOR. -/
def nfloor (g : Setup) (r : Nat) : Nat := g.fld (0x530C + 0x20 * r) 8 6
/-- IAVGX. -/
def iavgx (g : Setup) (r : Nat) : Nat := g.fld (0x530C + 0x20 * r) 0 4
/-- ZCTH, a window code. -/
def zcth (g : Setup) (r : Nat) : Nat := g.fld (0x5310 + 0x20 * r) 16 10
/-- ILIGHT, counts. -/
def ilight (g : Setup) (r : Nat) : Nat := g.fld (0x5310 + 0x20 * r) 0 16
/-- RKTRIP. -/
def rktrip (g : Setup) (r : Nat) : Nat := g.fld (0x5314 + 0x20 * r) 28 4
/-- RKWIN. -/
def rkwin (g : Setup) (r : Nat) : Nat := g.fld (0x5314 + 0x20 * r) 24 4
/-- PLAUS, 16 counts. -/
def plaus (g : Setup) (r : Nat) : Nat := g.fld (0x5314 + 0x20 * r) 16 8
/-- PLCNT. -/
def plcnt (g : Setup) (r : Nat) : Nat := g.fld (0x5314 + 0x20 * r) 8 8
/-- LOSSDEC, periods. -/
def lossdec (g : Setup) (r : Nat) : Nat := g.fld (0x5314 + 0x20 * r) 0 8
/-- ISCALE, mA per count with 8 fraction bits. -/
def iscale (g : Setup) (r : Nat) : Nat := g.fld (0x5318 + 0x20 * r) 0 16
/-- HTON, steps of 7.8125 ns. -/
def hton (g : Setup) (r : Nat) : Nat := g.fld (0x5800 + 0x20 * r) 20 10
/-- HBLANK, steps. -/
def hblank (g : Setup) (r : Nat) : Nat := g.fld (0x5800 + 0x20 * r) 12 8
/-- HOFF, steps. -/
def hoff (g : Setup) (r : Nat) : Nat := g.fld (0x5800 + 0x20 * r) 4 8
/-- HEN. -/
def hen (g : Setup) (r : Nat) : Bool := g.flag (0x5800 + 0x20 * r) 0
/-- HHI, 0.05 % of target. -/
def hhi (g : Setup) (r : Nat) : Nat := g.fld (0x5804 + 0x20 * r) 8 8
/-- HLO, 0.05 % of target. -/
def hlo (g : Setup) (r : Nat) : Nat := g.fld (0x5804 + 0x20 * r) 0 8
/-- BLIND. -/
def blind (g : Setup) (r : Nat) : Nat := g.fld (0x5808 + 0x20 * r) 24 8
/-- RGCNT. -/
def rgcnt (g : Setup) (r : Nat) : Nat := g.fld (0x5808 + 0x20 * r) 16 8
/-- PLIM, 0.05 % of target. -/
def plim (g : Setup) (r : Nat) : Nat := g.fld (0x5808 + 0x20 * r) 8 8
/-- DCMIN, 16 counts. -/
def dcmin (g : Setup) (r : Nat) : Nat := g.fld (0x5808 + 0x20 * r) 0 8
/-- RDROP, µΩ. -/
def rdrop (g : Setup) (r : Nat) : Nat := g.fld (0x580C + 0x20 * r) 0 16

/-! ## PRN (R205) -/

/-- PULLEN. -/
def pullen (g : Setup) : Bool := g.flag (0x8000) 0
/-- HPST. -/
def hpst (g : Setup) (p : Nat) : Nat := g.fld (0x8010 + 4 * p) 23 4
/-- FNOM, MHz. -/
def fnom (g : Setup) (p : Nat) : Nat := g.fld (0x8010 + 4 * p) 17 6
/-- HBTO, ms. -/
def hbto (g : Setup) (p : Nat) : Nat := g.fld (0x8010 + 4 * p) 9 8
/-- RAILS of a port. -/
def portRails (g : Setup) (p : Nat) : Nat := g.fld (0x8010 + 4 * p) 1 8
/-- EN of a port. -/
def portEn (g : Setup) (p : Nat) : Bool := g.flag (0x8010 + 4 * p) 0
/-- TBAND, 0.1 % of target. -/
def tband (g : Setup) (r : Nat) : Nat := g.fld (0x8100 + 0x10 * r) 13 7
/-- SAFECLS. -/
def safecls (g : Setup) (r : Nat) : Nat := g.fld (0x8100 + 0x10 * r) 10 3
/-- LOSSACT: true is SAFE. -/
def lossact (g : Setup) (r : Nat) : Bool := g.flag (0x8100 + 0x10 * r) 9
/-- SLEWCAP. -/
def slewcap (g : Setup) (r : Nat) : Nat := g.fld (0x8100 + 0x10 * r) 6 3
/-- OWNEN. -/
def ownen (g : Setup) (r : Nat) : Bool := g.flag (0x8100 + 0x10 * r) 5
/-- OWNER. -/
def owner (g : Setup) (r : Nat) : Nat := g.fld (0x8100 + 0x10 * r) 3 2
/-- VMAX. -/
def vmax (g : Setup) (r : Nat) : Nat := g.fld (0x8104 + 0x10 * r) 16 16
/-- VMIN. -/
def vmin (g : Setup) (r : Nat) : Nat := g.fld (0x8104 + 0x10 * r) 0 16
/-- VSAFE. -/
def vsafe (g : Setup) (r : Nat) : Nat := g.fld (0x8108 + 0x10 * r) 16 16
/-- VBOOT. -/
def vboot (g : Setup) (r : Nat) : Nat := g.fld (0x8108 + 0x10 * r) 0 16

/-! ## CMP (R247) -/

/-- PROOFPER, ms. -/
def proofper (g : Setup) : Nat := g.fld (0x6000) 8 10
/-- PROOFEN. -/
def proofen (g : Setup) : Bool := g.flag (0x6000) 0
/-- EVEN. -/
def even (g : Setup) (w : Nat) : Bool := g.flag (0x6100 + 4 * w) 29
/-- LMODE: true is PERIOD. -/
def lmode (g : Setup) (w : Nat) : Bool := g.flag (0x6100 + 4 * w) 28
/-- HI, or WHI of a rail window. -/
def thrHi (g : Setup) (w : Nat) : Nat := g.fld (0x6100 + 4 * w) 16 10
/-- HYS. -/
def thrHys (g : Setup) (w : Nat) : Nat := g.fld (0x6100 + 4 * w) 10 4
/-- LO, or WLO of a rail window. -/
def thrLo (g : Setup) (w : Nat) : Nat := g.fld (0x6100 + 4 * w) 0 10
/-- WAKE. -/
def aoWake (g : Setup) (k : Nat) : Nat := g.fld (0x6400 + 4 * k) 30 2
/-- FILT, AO ticks. -/
def aoFilt (g : Setup) (k : Nat) : Nat := g.fld (0x6400 + 4 * k) 26 4
/-- HI of an always-on comparator. -/
def aoHi (g : Setup) (k : Nat) : Nat := g.fld (0x6400 + 4 * k) 16 10
/-- EN of an always-on comparator. -/
def aoEn (g : Setup) (k : Nat) : Bool := g.flag (0x6400 + 4 * k) 15
/-- HYS of an always-on comparator. -/
def aoHys (g : Setup) (k : Nat) : Nat := g.fld (0x6400 + 4 * k) 10 4
/-- LO of an always-on comparator. -/
def aoLo (g : Setup) (k : Nat) : Nat := g.fld (0x6400 + 4 * k) 0 10

/-! ## SEQ (R276) -/

/-- AUTORET. -/
def autoret (g : Setup) : Bool := g.flag (0x7000) 24
/-- PFGRP. -/
def pfgrp (g : Setup) : Nat := g.fld (0x7000) 16 8
/-- RXTO, ms. -/
def rxto (g : Setup) : Nat := g.fld (0x7000) 8 8
/-- RETQ, ms. -/
def retq (g : Setup) : Nat := g.fld (0x7000) 0 7
/-- RTYDLY, ms. -/
def rtydly (g : Setup) (j : Nat) : Nat := g.fld (0x7020 + 4 * j) 8 8
/-- ENPIN. -/
def enpin (g : Setup) (j : Nat) : Bool := g.flag (0x7020 + 4 * j) 5
/-- ORDMODE. -/
def ordmode (g : Setup) (j : Nat) : Bool := g.flag (0x7020 + 4 * j) 4
/-- NRETRY. -/
def nretry (g : Setup) (j : Nat) : Nat := g.fld (0x7020 + 4 * j) 1 3
/-- POLICY: true is DEPENDANTS_ONLY. -/
def policy (g : Setup) (j : Nat) : Bool := g.flag (0x7020 + 4 * j) 0
/-- USE. -/
def use (g : Setup) (i : Nat) : Bool := g.flag (0x7100 + 0x20 * i) 31
/-- GROUP. -/
def group (g : Setup) (i : Nat) : Nat := g.fld (0x7100 + 0x20 * i) 28 3
/-- OFFPOS. -/
def offpos (g : Setup) (i : Nat) : Nat := g.fld (0x7100 + 0x20 * i) 24 4
/-- RUNRX. -/
def runrx (g : Setup) (i : Nat) : Nat := g.fld (0x7100 + 0x20 * i) 22 2
/-- RETRIES. -/
def retries (g : Setup) (i : Nat) : Nat := g.fld (0x7100 + 0x20 * i) 19 3
/-- XMODE. -/
def xmode (g : Setup) (i : Nat) : Bool := g.flag (0x7100 + 0x20 * i) 18
/-- ONU. -/
def onu (g : Setup) (i : Nat) : Bool := g.flag (0x7100 + 0x20 * i) 17
/-- RAMPU. -/
def rampu (g : Setup) (i : Nat) : Bool := g.flag (0x7100 + 0x20 * i) 16
/-- PGU. -/
def pgu (g : Setup) (i : Nat) : Bool := g.flag (0x7100 + 0x20 * i) 15
/-- DISU. -/
def disu (g : Setup) (i : Nat) : Bool := g.flag (0x7100 + 0x20 * i) 14
/-- RAMP. -/
def ramp (g : Setup) (i : Nat) : Nat := g.fld (0x7108 + 0x20 * i) 16 16
/-- ONDLY. -/
def ondly (g : Setup) (i : Nat) : Nat := g.fld (0x7108 + 0x20 * i) 0 16
/-- PGTO. -/
def pgto (g : Setup) (i : Nat) : Nat := g.fld (0x710C + 0x20 * i) 16 16
/-- GLITCH. -/
def glitch (g : Setup) (i : Nat) : Nat := g.fld (0x710C + 0x20 * i) 0 10
/-- DISTO. -/
def disto (g : Setup) (i : Nat) : Nat := g.fld (0x7110 + 0x20 * i) 16 16
/-- DACT: true is HOLD. -/
def dact (g : Setup) (i : Nat) : Bool := g.flag (0x7110 + 0x20 * i) 15
/-- DISCODE. -/
def discode (g : Setup) (i : Nat) : Nat := g.fld (0x7110 + 0x20 * i) 0 10
/-- MHI, 0.1 % of target. -/
def mhi (g : Setup) (i : Nat) : Nat := g.fld (0x7114 + 0x20 * i) 8 8
/-- MLO, 0.1 % of target. -/
def mlo (g : Setup) (i : Nat) : Nat := g.fld (0x7114 + 0x20 * i) 0 8
/-- The valid prerequisites of an index: the bytes of SEQ_RDEPi with bit 7. -/
def deps (g : Setup) (i : Nat) : List Nat :=
  ((List.range 4).filter fun k => g.flag (0x7104 + 0x20 * i) (8 * k + 7)).map
    fun k => g.fld (0x7104 + 0x20 * i) (8 * k) 4

/-! ## LDG and GAU (R318) -/

/-- PKEFF, 0.1 %. -/
def pkeff (g : Setup) : Nat := g.fld (0xB000) 12 10
/-- LOSSF, µs. -/
def lossf (g : Setup) : Nat := g.fld (0xB000) 4 8
/-- PFEN. -/
def pfen (g : Setup) : Bool := g.flag (0xB000) 0
/-- KVIN, µV per count with 8 fraction bits. -/
def kvin (g : Setup) : Nat := g.fld (0xB010) 0 32
/-- CNOM, 10 µF. -/
def cnom (g : Setup) : Nat := g.fld (0xB018) 16 16
/-- VHMIN, 10 mV. -/
def vhmin (g : Setup) : Nat := g.fld (0xB018) 0 16
/-- CV1, 10 mV. -/
def cv1 (g : Setup) : Nat := g.fld (0xB01C) 16 16
/-- CV2, 10 mV. -/
def cv2 (g : Setup) : Nat := g.fld (0xB01C) 0 16
/-- FLOOR, J. -/
def floorJ (g : Setup) : Nat := g.fld (0xB020) 16 16
/-- ENV, mJ. -/
def env (g : Setup) : Nat := g.fld (0xB020) 0 16
/-- RIDEMAX, s. -/
def ridemax (g : Setup) : Nat := g.fld (0xB024) 16 16
/-- SDMRG, 0.1 %. -/
def sdmrg (g : Setup) : Nat := g.fld (0xB024) 0 10
/-- COSTMRG, mJ. -/
def costmrg (g : Setup) : Nat := g.fld (0xB028) 16 16
/-- COSTCAL, mJ. -/
def costcal (g : Setup) : Nat := g.fld (0xB028) 0 16
/-- COSTSCR, mJ. -/
def costscr (g : Setup) : Nat := g.fld (0xB02C) 0 16
/-- REST, min. -/
def rest (g : Setup) : Nat := g.fld (0xB100) 24 8
/-- NRH, h. -/
def nrh (g : Setup) : Nat := g.fld (0xB100) 16 8
/-- DISLIM, %. -/
def dislim (g : Setup) : Nat := g.fld (0xB100) 12 4
/-- RATE, 0.1 %/min. -/
def rate (g : Setup) : Nat := g.fld (0xB100) 6 6
/-- CHEM: true is Li-ion. -/
def chem (g : Setup) : Bool := g.flag (0xB100) 5
/-- NS. -/
def ns (g : Setup) : Nat := g.fld (0xB100) 0 5
/-- QNOM, mAh. -/
def qnom (g : Setup) : Nat := g.fld (0xB104) 0 16
/-- VFULL, 0.1 mV. -/
def vfull (g : Setup) : Nat := g.fld (0xB108) 16 16
/-- VCUT, 0.1 mV. -/
def vcut (g : Setup) : Nat := g.fld (0xB108) 0 16
/-- ITAPER, mA. -/
def itaper (g : Setup) : Nat := g.fld (0xB10C) 16 16
/-- IREST, mA. -/
def irest (g : Setup) : Nat := g.fld (0xB10C) 0 16
/-- KPV, µV per count with 8 fraction bits. -/
def kpv (g : Setup) : Nat := g.fld (0xB110) 0 32
/-- RP0, 10 µΩ. -/
def rp0 (g : Setup) : Nat := g.fld (0xB118) 16 16
/-- R00, 10 µΩ. -/
def r00 (g : Setup) : Nat := g.fld (0xB118) 0 16
/-- TAU0, 100 ms. -/
def tau0 (g : Setup) : Nat := g.fld (0xB11C) 16 16
/-- TSTEP, ms. -/
def tstep (g : Setup) : Nat := g.fld (0xB11C) 0 16
/-- KIIN, mA per count, signed, with 8 fraction bits. -/
def kiin (g : Setup) : Int := g.sfld (0xB014) 0 32
/-- KPI, mA per count, signed, with 8 fraction bits. -/
def kpi (g : Setup) : Int := g.sfld (0xB114) 0 32
/-- TPTn, signed °C. -/
def tpt (g : Setup) (n : Nat) : Int := g.sfld 0xB120 (8 * n) 8
/-- VALUE of a thermistor entry. -/
def ttabValue (g : Setup) (n : Nat) : Int := g.sfld (0xB140 + 4 * n) 16 16
/-- TEMP of a thermistor entry, 0.1 °C. -/
def ttabTemp (g : Setup) (n : Nat) : Int := g.sfld (0xB140 + 4 * n) 0 16
/-- State-of-charge point n, 0.01 %. -/
def spt (g : Setup) (n : Nat) : Nat := g.fld (0xB300 + 4 * (n / 2)) (16 * (n % 2)) 16
/-- Entry n of the table of open-circuit voltages, 0.1 mV. -/
def ocv (g : Setup) (n : Nat) : Nat := g.fld (0xB400 + 4 * (n / 2)) (16 * (n % 2)) 16

/-! ## FLT (R348) -/

/-- ESCWIN, ms. -/
def escwin (g : Setup) : Nat := g.fld (0xC000) 16 10
/-- AHOLD. -/
def ahold (g : Setup) : Bool := g.flag (0xC000) 2
/-- TEST. -/
def testCfg (g : Setup) : Bool := g.flag (0xC000) 1
/-- The mask bit of an event. -/
def masked (g : Setup) (e : Nat) : Bool := g.flag (0xC040 + 4 * (e / 32)) (e % 32)
/-- OVEN. -/
def oven (g : Setup) (r : Nat) : Bool := g.flag (0xC100 + 4 * r) 16
/-- VABS, 62.5 µV. -/
def vabs (g : Setup) (r : Nat) : Nat := g.fld (0xC100 + 4 * r) 0 16
/-- ESCMAX. -/
def rxEscmax (g : Setup) (e : Nat) : Nat := g.fld (0xC200 + 4 * e) 28 2
/-- ERRN. -/
def rxErrn (g : Setup) (e : Nat) : Bool := g.flag (0xC200 + 4 * e) 12
/-- CRST. -/
def rxCrst (g : Setup) (e : Nat) : Bool := g.flag (0xC200 + 4 * e) 11
/-- BRST. -/
def rxBrst (g : Setup) (e : Nat) : Bool := g.flag (0xC200 + 4 * e) 10
/-- ALERT. -/
def rxAlert (g : Setup) (e : Nat) : Bool := g.flag (0xC200 + 4 * e) 9
/-- INT. -/
def rxInt (g : Setup) (e : Nat) : Bool := g.flag (0xC200 + 4 * e) 8
/-- INTN. -/
def rxIntn (g : Setup) (e : Nat) : Bool := g.flag (0xC200 + 4 * e) 5
/-- VEC. -/
def rxVec (g : Setup) (e : Nat) : Nat := g.fld (0xC200 + 4 * e) 0 5

/-! ## NVM (R445) and TW (R477) -/

/-- SCREN. -/
def scren (g : Setup) : Bool := g.flag (0xA000) 4
/-- BP. -/
def bp (g : Setup) : Nat := g.fld (0xA000) 0 2
/-- BATCH, pages. -/
def scrBatch (g : Setup) : Nat := g.fld (0xA00C) 16 8
/-- INTERVAL, ms. -/
def scrInterval (g : Setup) : Nat := g.fld (0xA00C) 0 16
/-- The base address of a target port: TA0, TA1 or TA3. -/
def ta (g : Setup) (p : Nat) : Nat := g.fld 0x9000 (if p = 0 then 0 else if p = 1 then 8 else 16) 7
/-- STR of a target port. -/
def str (g : Setup) (p : Nat) : Bool := g.flag 0x9000 (if p = 0 then 7 else if p = 1 then 15 else 23)
/-- RSTEN. -/
def rsten (g : Setup) (p : Nat) : Bool := g.flag (0x9010 + 4 * p) 31
/-- RSTX. -/
def rstx (g : Setup) (p : Nat) : Nat := g.fld (0x9010 + 4 * p) 28 3
/-- AUTOCLR. -/
def autoclr (g : Setup) (p : Nat) : Bool := g.flag (0x9010 + 4 * p) 27
/-- TOUT. -/
def tout (g : Setup) (p : Nat) : Nat := g.fld (0x9010 + 4 * p) 24 3
/-- STUCKT, ms. -/
def stuckt (g : Setup) (p : Nat) : Nat := g.fld (0x9010 + 4 * p) 16 8
/-- HANGTO, ms. -/
def hangto (g : Setup) (p : Nat) : Nat := g.fld (0x9010 + 4 * p) 8 8
/-- RSTW, ms. -/
def rstw (g : Setup) (p : Nat) : Nat := g.fld (0x9010 + 4 * p) 4 4
/-- SPEED. -/
def twSpeed (g : Setup) (p : Nat) : Nat := g.fld (0x9010 + 4 * p) 2 2
/-- TOEN. -/
def toen (g : Setup) (p : Nat) : Bool := g.flag (0x9010 + 4 * p) 1
/-- EN of a two-wire port. -/
def twEn (g : Setup) (p : Nat) : Bool := g.flag (0x9010 + 4 * p) 0

end Sys2Proof.Machine.Setup
end

