-- ==== Sys2Proof/Machine/Ops.lean ====
section
/-!
DEFINITION. The operations that the blocks share: time, free values, power domains, source
identifiers, Pourn alert causes, MSI-X messages, the end of a descriptor, and one update for each part
of the state.
-/

namespace Sys2Proof.Machine

/-! ## Updates of one part of the state -/

def State.upFlt (f : Flt → Flt) (s : State) : State := { s with flt := f s.flt }
def State.upSeq (f : Seq → Seq) (s : State) : State := { s with seq := f s.seq }
def State.upPrn (f : Prn → Prn) (s : State) : State := { s with prn := f s.prn }
def State.upEng (f : Eng → Eng) (s : State) : State := { s with eng := f s.eng }
def State.upPwm (f : Pwm → Pwm) (s : State) : State := { s with pwm := f s.pwm }
def State.upCmp (f : Cmp → Cmp) (s : State) : State := { s with cmp := f s.cmp }
def State.upAdc (f : Adc → Adc) (s : State) : State := { s with adc := f s.adc }
def State.upLdg (f : Ldg → Ldg) (s : State) : State := { s with ldg := f s.ldg }
def State.upGau (f : Gau → Gau) (s : State) : State := { s with gau := f s.gau }
def State.upNvm (f : Nvm → Nvm) (s : State) : State := { s with nvm := f s.nvm }
def State.upTw (f : Tw → Tw) (s : State) : State := { s with tw := f s.tw }
def State.upHif (f : Hif → Hif) (s : State) : State := { s with hif := f s.hif }
def State.upPwr (f : Pwr → Pwr) (s : State) : State := { s with pwr := f s.pwr }
def State.upClk (f : Clk → Clk) (s : State) : State := { s with clk := f s.clk }
def State.upTmr (f : Tmr → Tmr) (s : State) : State := { s with tmr := f s.tmr }
def State.upRegs (f : Regs → Regs) (s : State) : State := { s with regs := f s.regs }
def State.upFab (f : Fab → Fab) (s : State) : State := { s with fab := f s.fab }

def State.upSeqRail (i : SeqIdx) (f : SeqRail → SeqRail) (s : State) : State :=
  s.upSeq fun q => { q with rails := vmod q.rails i f }
def State.upGroup (j : Group) (f : SeqGroup → SeqGroup) (s : State) : State :=
  s.upSeq fun q => { q with groups := vmod q.groups j f }
def State.upPrnRail (r : Rail) (f : PrnRail → PrnRail) (s : State) : State :=
  s.upPrn fun p => { p with rails := vmod p.rails r f }
def State.upPort (p : Port) (f : PrnPort → PrnPort) (s : State) : State :=
  s.upPrn fun q => { q with ports := vmod q.ports p f }
def State.upEngRail (r : Rail) (f : EngRail → EngRail) (s : State) : State :=
  s.upEng fun e => { e with rails := vmod e.rails r f }
def State.upPair (p : PairNo) (f : Pair → Pair) (s : State) : State :=
  s.upEng fun e => { e with pairs := vmod e.pairs p f }
def State.upPhase (h : Phase) (f : Phasor → Phasor) (s : State) : State :=
  s.upPwm fun p => { p with phases := vmod p.phases h f }
def State.upPwmRail (r : Rail) (f : PwmRail → PwmRail) (s : State) : State :=
  s.upPwm fun p => { p with rails := vmod p.rails r f }
def State.upFb (r : Rail) (f : FbRail → FbRail) (s : State) : State := { s with fb := vmod s.fb r f }
def State.upWin (w : Window) (f : Win → Win) (s : State) : State :=
  s.upCmp fun c => { c with win := vmod c.win w f }
def State.upSlice (n : SliceNo) (f : Slice → Slice) (s : State) : State :=
  s.upAdc fun a => { a with slices := vmod a.slices n f }
def State.upTwPort (p : Port) (f : TwPort → TwPort) (s : State) : State :=
  s.upTw fun t => { t with ports := vmod t.ports p f }
def State.upSq (q : Ring) (f : Sq → Sq) (s : State) : State :=
  s.upHif fun h => { h with sq := vmod h.sq q f }
def State.upCq (c : Ring) (f : Cq → Cq) (s : State) : State :=
  s.upHif fun h => { h with cq := vmod h.cq c f }

/-- f applied for each member of a list, in order. -/
def State.each {α : Type} (xs : List α) (f : α → State → State) (s : State) : State :=
  xs.foldl (fun s x => f x s) s

/-! ## Outputs, free values and time -/

/-- s with one output sent. -/
def State.emit (o : Out) (s : State) : State := { s with out := o :: s.out }

/-- A free value and the state that has used it up (log 6). -/
def takeFree (s : State) : Word × State :=
  (Config.freeValue s.freeCount, { s with freeCount := s.freeCount + 1 })

/-- The STAMP of the present slot (R18). -/
def stampNow (s : State) : Word := BitVec.ofNat 32 s.clk.slot

/-- The present instant in interpolator steps of 61.04 ps: 64 to a slot (R27). -/
def stepNow (s : State) : Nat := s.clk.slot * 64

/-- The count of CK_PER ticks, for intervals (R27). -/
def perNow (s : State) : Nat := s.clk.slot / 4

/-- A time-stamp as records and captures carry it (R7): bit 63 is the coarse flag. -/
def timeNow (s : State) : BitVec 64 := BitVec.ofBool s.tmr.coarse ++ s.tmr.now

/-- The present instant in quarter picoseconds (R118). -/
def instantNow (s : State) : Nat := 15625 * s.clk.slot

/-- A rail's pending forecasts are cleared; one past its instant keeps its miss check (R123). -/
def clearForecasts (r : Rail) (s : State) : State :=
  s.upEngRail r fun e => { e with fcs := e.fcs.filter fun f => decide (f.tF ≤ instantNow s) }

/-- The slots of one millisecond. -/
def msSlots : Nat := 256000

/-- A multiple of 64 000 ticks of the time-stamp counter, at which nothing of this kind has been done yet. -/
def onGrid (s : State) (last : Option (BitVec 63)) : Bool :=
  s.tmr.now.toNat % 64000 = 0 && last != some s.tmr.now

/-! ## The test DAC (R83, R240) -/

/-- The absolute calibrations that have been without the test DAC since a slot go on: the pause does not count (R83). -/
def resumeCal (since : Nat) (s : State) : State :=
  let moved := fun (t : Tour) =>
    if t.calDone then t else { t with startSlot := t.startSlot + (s.clk.slot - max since t.startSlot) }
  s.upAdc fun a => { a with tour := a.tour.map moved, pitch := a.pitch.map moved }

/-! ## Power domains (R31) -/

def pdHif : Nat := 1
def pdFab : Nat := 2
def pdEngA : Nat := 3
def pdEngB : Nat := 4
def pdPwm : Nat := 5
def pdAdc0 : Nat := 6
def pdAdc1 : Nat := 7
def pdCmp : Nat := 8
def pdNvm : Nat := 9
def pdTw : Nat := 10
def pdPrn : Nat := 11
def pdGau : Nat := 12
def pdSeq : Nat := 13

/-- Domain d is on and its supply stands. -/
def domOn (s : State) (d : Nat) : Bool := hasBit s.pwr.on d && !hasBit s.pwr.lost d

/-- The domain of a lane pair (R91). -/
def pairDom (p : PairNo) : Nat := if p.val < 2 then pdEngA else pdEngB

/-! ## Source identifiers (R9) -/

/-- The identifier of a subsystem's unit, element and cell. -/
def srcId (subsys blk unit elem cell : Nat) : Word :=
  packWord [(26, 4, subsys), (22, 4, blk), (16, 6, unit), (12, 4, elem), (0, 12, cell)]

/-- The identifier of an NV word (R11); ELEM 1 names its check bits. -/
def nvSrc (w elem : Nat) : Word := srcId 0xA 0x0 (w / 4096) elem (w % 4096)

/-- No access behind an event (R340). -/
def noAccess : Access := { master := 0, type := 0, aspace := 0, addr := 0 }

/-- The code of a master in R340. -/
def masterCode : Master → Nat
  | .host => 1 | .tw0 => 2 | .tw1 => 3 | .tw3 => 5

/-- A master's place in the per-master registers. -/
def masterIdx : Master → Fin 4
  | .host => 0 | .tw0 => 1 | .tw1 => 2 | .tw3 => 3

/-! ## Error codes (R380) -/

def codeUnknown : Nat := 0x0101
def codeRange : Nat := 0x0102
def codeInconsistent : Nat := 0x0103
def codeBusy : Nat := 0x0104
def codeState : Nat := 0x0105
def codeEnergy : Nat := 0x0106
def codeProtected : Nat := 0x0107
def codeFlushed : Nat := 0x0108
def codeArbLost : Nat := 0x0109
def codeNack : Nat := 0x010A
def codeStuck : Nat := 0x010B
def codeTimeout : Nat := 0x010C
def codeBudget : Nat := 0x010D
def codeTie : Nat := 0x010E
def codeClamped : Nat := 0x010F
def codeSpread : Nat := 0x0110
def codeSlice : Nat := 0x0111
def codeEngine : Nat := 0x0112
def codePhase : Nat := 0x0113
def codeWindow : Nat := 0x0114
def codeOrder : Nat := 0x0115
def codeFrame : Nat := 0x0116
def codeHostMem : Nat := 0x0117
def codeTag : Nat := 0x0118
def codeNvBad : Nat := 0x0119
def codeImage : Nat := 0x011A

/-! ## Pourn alert causes (R201) -/

def alInlost : Nat := 0
def alInret : Nat := 1
def alShdn : Nat := 2
def alSpdone : Nat := 3
def alSpheld : Nat := 4
def alHblost : Nat := 5
def alMargin : Nat := 6
def alFcsusp : Nat := 7

/-- Set an alert cause on the ports that p names; a DISABLED port keeps none (R182). -/
def alertPorts (p : Port → Bool) (cause : Nat) (s : State) : State :=
  s.each ((fins 4).filter fun n => p n && s.prn.ports[n].state != .disabled) fun n => State.upPort n fun q =>
    { q with alert := putBit q.alert cause true }

/-- A port's RAILS includes rail r. -/
def portHas (s : State) (r : Rail) (n : Port) : Bool := Nat.testBit (s.cfg.portRails n.val) r.val

/-- A port is LIVE. -/
def portLive (s : State) (n : Port) : Bool := s.prn.ports[n].state == .live

/-- Port n owns rail r (R187). -/
def owns (s : State) (n : Port) (r : Rail) : Bool := s.cfg.ownen r.val && s.cfg.owner r.val = n.val

/-! ## Requests of the device to the NV controller (R425, R430, R439) -/

/-- The NV controller takes requests: it does not refuse them and its domain is on. -/
def nvOpen (s : State) : Bool := !s.nvm.refuse && domOn s pdNvm

/-- A request joins the controller's queue, where the controller takes it. -/
def nvAsk (r : NvReq) (s : State) : State :=
  if nvOpen s then s.upNvm fun n => { n with queue := n.queue ++ [r] } else s

/-- A request of the device with nothing read or written yet. -/
def nvReq (prec : Fin 5) (ring : Option Ring) (w : NvWork) : NvReq :=
  { prec := prec, ring := ring, work := w, todo := [], pages := [], got := [], lost := [] }

/-- The device commits a record. -/
def recordCommit (id : Fin 64) (payload : List Byte) (s : State) : State :=
  nvAsk (nvReq 2 none (.recCommit id payload 0 0 0)) s

/-- The device increments a counter. -/
def countUp (n : Fin 64) (s : State) : State := nvAsk (nvReq 2 none (.counter n)) s

/-! ## MSI-X messages (R354) -/

/-- The mask bit of a vector in the MSI-X table. -/
def vecMasked (s : State) (v : Fin 32) : Bool := hasBit (s.hif.msixTable[v])[3] 0

/-- Messages may leave for the vector: MSI-X is enabled and nothing masks it. -/
def vecOpen (s : State) (v : Fin 32) : Bool := s.hif.msixEn && !s.hif.funcMask && !vecMasked s v

/-- Memory requests may be issued (R351, R378). -/
def canIssue (s : State) : Bool := s.hif.up && s.hif.bme && !s.hif.d3

/-- One message on a vector: sent, held pending while the vector is not open, or not possible to send
(false). -/
def sendMsix (v : Fin 32) (s : State) : State × Bool :=
  if !vecOpen s v then (s.upHif fun h => { h with pba := putBit h.pba v.val true }, true)
  else if canIssue s then (s.emit (.msix v), true)
  else (s, false)

/-! ## Descriptors in execution (R371) -/

/-- The block that a descriptor's opcode addresses (R371). -/
def opBlock (opcode : Nat) (param : Nat) : Nat :=
  match opcode with
  | 0x10 => 0x3 | 0x11 => 0x3 | 0x12 => 0x3 | 0x13 => 0x3 | 0x14 => 0x3 | 0x15 => 0x3
  | 0x20 => 0x4 | 0x21 => 0x4 | 0x22 => 0x4 | 0x23 => 0x4
  | 0x28 => 0x5 | 0x29 => 0x5
  | 0x30 => 0x8 | 0x31 => 0x6
  | 0x38 => 0x7 | 0x39 => 0x7 | 0x3A => 0x7 | 0x3B => 0x7 | 0x01 => 0x7
  | 0x40 => 0xB | 0x41 => 0xB
  | 0x48 => 0xC | 0x49 => 0xC | 0x4A => 0xC | 0x4B => 0xC
  | 0x50 => 0xA | 0x51 => 0xA | 0x52 => 0xA | 0x53 => 0xA | 0x54 => 0xA | 0x55 => 0xA | 0x60 => 0xA
  | 0x58 => 0x90 + param % 4 | 0x59 => 0x90 + param % 4
  | 0x02 => 0x1 | 0x03 => 0x1
  | 0x70 => 0xE
  | _ => 0xFF

/-- A descriptor entered execution earlier, addresses the same block and is not yet decided. Descriptors
reach the NV store one at a time (R425, R426). -/
def blockedBy (s : State) (e : Exec) : Bool :=
  let b := opBlock e.desc.opcode.toNat e.desc.param.toNat
  b != 0xFF && (fins 16).any fun q =>
    match s.hif.sq[q].exec with
    | some f => decide (f.ord < e.ord) && (!f.decided || b == 0xA) &&
        opBlock f.desc.opcode.toNat f.desc.param.toNat == b
    | none => false

/-- The descriptor that ring q has in execution, when the ring engine runs, it is of this opcode and its
turn at its block has come. -/
def ready (s : State) (q : Ring) (opcode : Nat) : Option Desc :=
  match s.hif.sq[q].exec with
  | some e =>
    if domOn s pdFab = true ∧ domOn s pdHif = true ∧ e.desc.opcode.toNat = opcode ∧ e.decided = false ∧
        blockedBy s e = false then some e.desc
    else none
  | none => none

/-- A descriptor's PARAM field. -/
def Desc.pf (d : Desc) (lo len : Nat) : Nat := d.param.toNat / 2 ^ lo % 2 ^ len

/-- The last 64 completed TAGs with one more (R372). -/
def pushTag (h : List (BitVec 16)) (t : BitVec 16) : List (BitVec 16) := (t :: h).take 64

/-- Where a descriptor's opcode writes host data (R366). -/
def Desc.dataWritten (d : Desc) : Option (BitVec 64) :=
  match d.opcode.toNat with
  | 0x50 => some d.data
  | 0x52 => some d.data
  | 0x58 => if d.pf 48 9 = 0 then none else some (BitVec.ofNat 64 (natAt d.ext 0 8))
  | _ => none

/-- The descriptor in execution on ring q ends: its completion waits to be posted (R363), with a
RESULT only under 0x0000 and 0x010F, and before it the host data that the descriptor writes (R365). A repeated TAG
does not enter the history (R372). -/
def completeData (q : Ring) (status : Nat) (result : Nat) (data : List Byte) (s : State) : State :=
  match s.hif.sq[q].exec with
  | none => s
  | some e =>
    let res := if status = 0 ∨ status = codeClamped then BitVec.ofNat 64 result else 0
    let c : Completion :=
      { result := res, tag := e.desc.tag, status := BitVec.ofNat 16 status, sq := q, ofDesc := true,
        dataAt := e.desc.dataWritten, data := data }
    (s.upCq s.hif.sq[q].cq fun k => { k with held := k.held ++ [c] }).upSq q fun u =>
      { u with exec := none, posting := true, doneN := u.doneN + 1,
               hist := if status = codeTag then u.hist else pushTag u.hist e.desc.tag }

/-- The descriptor in execution on ring q ends without host data. -/
def complete (q : Ring) (status : Nat) (result : Nat) (s : State) : State := completeData q status result [] s

/-- The descriptor on ring q has passed its checks and waits for its end. -/
def decide_ (q : Ring) (s : State) : State :=
  s.upSq q fun u => { u with exec := u.exec.map fun e => { e with decided := true } }

/-- The descriptor on ring q has passed its point of no return (R376). -/
def act_ (q : Ring) (s : State) : State :=
  s.upSq q fun u => { u with exec := u.exec.map fun e => { e with decided := true, acted := true } }

end Sys2Proof.Machine
end

