-- ==== Sys2Proof/Machine/PhaseOps.lean ====
section
/-!
DEFINITION. The phase plan as the blocks read it: positions and who holds them, the active set,
carriers and their targets (R144 to R153, R522).
-/

namespace Sys2Proof.Machine

/-! ## Indices of rails (R249) -/

/-- The regulated rail of an index. -/
def regRail (i : SeqIdx) : Option Rail := if h : i.val < 8 then some ⟨i.val, h⟩ else none

/-- The index of a regulated rail. -/
def idxOf (r : Rail) : SeqIdx := ⟨r.val, by omega⟩

/-! ## The plan (R144, R145) -/

/-- The phases that the plan gives to rail r, UNUSED ones apart. -/
def planned (g : Setup) (r : Nat) : List Phase :=
  (fins 48).filter fun h => g.role h.val != 0 && g.phRail h.val == r

/-- The phase of rail r at place k of its order. -/
def phaseAt (g : Setup) (r k : Nat) : Option Phase := (planned g r).find? fun h => g.order h.val = k

/-- N_act: the phases of the rail whose role is ACTIVE. -/
def nActPlan (g : Setup) (r : Nat) : Nat := ((planned g r).filter fun h => g.role h.val = 1).length

/-- The phases of rail r in ORDER. -/
def inOrder (g : Setup) (r : Nat) : List Phase :=
  (List.range 48).filterMap fun k => phaseAt g r k

/-- The rail that the plan gives a phase. -/
def railOf (g : Setup) (h : Phase) : Rail := Fin.ofNat 8 (g.phRail h.val)

/-- The phase is out of service: racked, or being pitched. -/
def outOfService (p : Phasor) : Bool := p.state == .racked || p.state == .pitching

/-- The substitute of a phase, if it has one. -/
def substituteOf (s : State) (h : Phase) : Option Phase :=
  (fins 48).find? fun n => s.pwm.phases[n].subfor == some h

/-- Who holds position k of rail r: its planned phase, or that phase's substitute (R145). -/
def holder (s : State) (r k : Nat) : Option Phase :=
  match phaseAt s.cfg r k with
  | none => none
  | some h => if outOfService s.pwm.phases[h] then substituteOf s h else some h

/-- The phases of a set that are active on the positions of a rail, in ORDER: the planned phase, or the
substitute where that one is not active. -/
def activeIn (s : State) (r : Nat) (act : BitVec 48) : List Phase :=
  (List.range (nActPlan s.cfg r)).filterMap fun k => match phaseAt s.cfg r k with
    | none => none
    | some h => if hasBit act h.val && !outOfService s.pwm.phases[h] then some h
        else (substituteOf s h).filter fun n => hasBit act n.val

/-- The phases that hold positions, in ORDER. -/
def held (s : State) (r : Nat) : List Phase :=
  (List.range (nActPlan s.cfg r)).filterMap fun k => holder s r k

/-- The position at which DUTY packets carry a phase's command (R17, R145): the one that it holds. A
substitute beside the pitched phase that ramps in for it holds none, and stands at its own ORDER (log 50). -/
def dutyPlace (s : State) (h : Phase) : Nat :=
  match s.pwm.phases[h].subfor with
  | some n => if outOfService s.pwm.phases[n] then s.cfg.order n.val else s.cfg.order h.val
  | none => s.cfg.order h.val

/-- STEEP phases of the rail that are neither racked nor substituting, in ORDER. -/
def freeSteep (s : State) (r : Nat) : List Phase :=
  (inOrder s.cfg r).filter fun h =>
    s.cfg.role h.val = 2 && !outOfService s.pwm.phases[h] && s.pwm.phases[h].subfor == none

/-- The active phases of a rail, one to an active position, in ORDER. -/
def actives (s : State) (r : Rail) : List Phase := activeIn s r.val s.pwm.rails[r].act

/-- Phases that carry current on the rail: the active ones and, while a pitched phase ramps in, its
substitute (R162). -/
def carrying (s : State) (r : Rail) : List Phase :=
  (fins 48).filter fun h => hasBit s.pwm.rails[r].act h.val

/-- A set without a position's phase and, while a pitched phase ramps in, without the substitute beside it. -/
def dropPosition (s : State) (act : BitVec 48) (h : Phase) : BitVec 48 :=
  let b := putBit act h.val false
  match substituteOf s h with
  | some n => putBit b n.val false
  | none => b

/-- A set of phases as a bit vector. -/
def phaseSet (hs : List Phase) : BitVec 48 := hs.foldl (fun b h => putBit b h.val true) 0

/-- The lowest `n` held positions of the rail (R153). -/
def lowest (s : State) (r : Nat) (n : Nat) : BitVec 48 := phaseSet ((held s r).take n)

/-- The ORDER-0 phase of a rail names the unit of its events (R165). -/
def railUnit (s : State) (r : Rail) : Nat := ((phaseAt s.cfg r.val 0).map (·.val)).getD 0

/-- A rail that is off (R521): MODE reads OFF and, where it is used, its sequencer state is OFF, FAILED
or BLOCKED. -/
def railOff (s : State) (r : Rail) : Bool :=
  let q := s.seq.rails[(idxOf r)].state
  s.eng.rails[r].mode == .off &&
    (!s.cfg.use r.val || q == .off || q == .failed || q == .blocked)

/-! ## On-pulses in time (R142, R143, R218) -/

/-- The present instant of `Clk.rc` in interpolator steps. -/
def rcNow (s : State) : Nat := s.clk.rc * 64

/-- What takes a step of the slot counter's count to the same instant of `Clk.rc`. -/
def rcLead (s : State) : Nat := (s.clk.rc - s.clk.slot) * 64

/-- The single pulse that stands at an instant: of a train, the one begun last. -/
def Pulse.lastBy (u : Pulse) (t : Nat) : Pulse :=
  match u.again with
  | none => u
  | some off =>
    let k := (t - u.onAt) / (u.offAt - u.onAt + off)
    let d := k * (u.offAt - u.onAt + off)
    { onAt := u.onAt + d, offAt := u.offAt + d, again := none }

/-- Steps of on-time up to an instant. -/
def Pulse.onUpTo (u : Pulse) (t : Nat) : Nat :=
  let len := u.offAt - u.onAt
  let d := t - u.onAt
  match u.again with
  | none => min len d
  | some off => d / (len + off) * len + min len (d % (len + off))

/-- The instant, not after t, up to which the pulse has been on; 0 where it has not begun. -/
def Pulse.onBefore (u : Pulse) (t : Nat) : Nat := if t ≤ u.onAt then 0 else min t (u.lastBy t).offAt

/-- The pulse in force is over with, or cut, at `now`: it stands among the last ones while it reaches into the
last 4 µs. -/
def Phasor.retire (now : Nat) (p : Phasor) : Phasor :=
  let old := match p.pulse with
    | some u => if u.onAt < now then [(u, now)] else []
    | none => []
  { p with pulse := none, past := old ++ p.past.filter fun e => decide (now < e.2 + 65536) }

/-- A train of pulses is over: the one begun last stands as a single pulse, and the train before it among the
last ones. -/
def Phasor.single (now : Nat) (p : Phasor) : Phasor :=
  match p.pulse with
  | none => p
  | some u =>
    if u.again.isNone then p
    else
      let v := u.lastBy now
      { p with pulse := some v, past := (u, v.onAt) :: p.past }

/-- A pulse has begun between two instants. -/
def Phasor.firedSince (p : Phasor) (t now : Nat) : Bool :=
  (p.pulse.any fun u => u.onAt ≤ now && decide (t ≤ (u.lastBy now).onAt)) ||
    p.past.any fun e => decide (t ≤ (e.1.lastBy e.2).onAt)

/-- The phase drives a level from now on. -/
def Phasor.level (now : Nat) (d : Drive) (p : Phasor) : Phasor := { p.retire now with drive := d }

/-- Outside the pulse in force the phase drives LOW, or MID where its low limit has tripped, for the rest of the
period (R156). -/
def Phasor.between (now : Nat) (low : Bool) (p : Phasor) : Phasor :=
  if !low then { p with drive := .pulses }
  else if p.pulse.any fun u => decide (now < u.offAt) then { p with drive := .pulsesMid }
  else p.level now .mid

/-- The phase drives LOW but for this pulse. -/
def Phasor.fire (now : Nat) (u : Pulse) (p : Phasor) : Phasor :=
  { p.retire now with drive := .pulses, pulse := some u }

/-- The on-time of a phase between two instants, in steps. -/
def Phasor.onIn (p : Phasor) (a b : Nat) : Nat :=
  let one := fun (u : Pulse) (till : Nat) => u.onUpTo (min b till) - u.onUpTo (min a till)
  p.past.foldl (fun n e => n + one e.1 e.2) ((p.pulse.map fun u => one u b).getD 0)

/-- The last instant, not after t, at which the phase was on. -/
def Phasor.lastOn (p : Phasor) (t : Nat) : Nat :=
  p.past.foldl (fun n e => max n (e.1.onBefore (min t e.2))) ((p.pulse.map fun u => u.onBefore t).getD 0)

/-! ## Carriers (R139, R140, R149) -/

/-- The interpolator steps of one period. -/
def periodSteps (g : Setup) (r : Nat) : Nat := g.period r * 8

/-- The offset of the k-th of n active positions, in steps, rounded to the nearest (R149). -/
def targetOffset (g : Setup) (r k n : Nat) : Nat :=
  let p := periodSteps g r
  (2 * (g.rofs r * n + 256 * k) * p + 256 * n) / (512 * n) % p

/-- The latest start of a carrier with this offset at or before step t. -/
def carrierStart (frame0 p offset t : Nat) : Nat := t - (t + p - (frame0 * 64 + offset) % p) % p

/-- Every active carrier's target after a change of the active set (R149). A phase in `fresh` takes its
target at once (R150). -/
def retarget (r : Rail) (fresh : BitVec 48) (s : State) : State :=
  let as := actives s r
  let n := as.length
  let p := periodSteps s.cfg r.val
  s.each (as.zipIdx) fun e s =>
    let t := targetOffset s.cfg r.val e.2 n
    let take := fun (h : Phase) => State.upPhase h fun q =>
      if hasBit fresh h.val then
        { q with target := t, offset := t, carrAt := carrierStart s.clk.frame0 p t (stepNow s),
                 carrLen := p, prevLen := p }
      else { q with target := t }
    -- a substitute beside the pitched phase stays at the position
    match substituteOf s e.1 with
    | some n => if hasBit s.pwm.rails[r].act n.val then take n (take e.1 s) else take e.1 s
    | none => take e.1 s

/-- The reference carrier of a rail stands at ROFS, whatever the state of its phase (R140). -/
def anchorCarrier (r : Rail) (s : State) : State :=
  match phaseAt s.cfg r.val 0 with
  | none => s
  | some h =>
    let p := periodSteps s.cfg r.val
    let t := targetOffset s.cfg r.val 0 1
    s.upPhase h fun q =>
      { q with target := t, offset := t, carrAt := carrierStart s.clk.frame0 p t (stepNow s), carrLen := p,
               prevLen := p }

/-- The states that the plan and the active set give the phases of a rail (R144, R162, R167): a phase in service is
ACTIVE in the set, IDLE when it holds a position outside it, STEEP otherwise and while it waits to ramp in. Idle and
steep phases drive MID, but for those of the heel set while the heel loop carries the rail (R217); a newly active one
waits for its carrier. -/
def showStates (r : Rail) (s : State) : State :=
  let now := rcNow s
  let heel := if s.fb[r].hact then held s r.val else []
  s.each (planned s.cfg r.val) fun h s =>
    let act := hasBit s.pwm.rails[r].act h.val
    let holds := s.cfg.role h.val = 1 || s.pwm.phases[h].subfor.isSome
    s.upPhase h fun p =>
      if outOfService p then p
      else if act then
        if p.state == .active then p
        else { p with state := .active, periods := 0, implausible := 0, trips := 0, trim := 0,
                      trimI := 0, sinking := false, midNext := false, cmd := .mid }
      else
        let p := if heel.contains h then p else p.level now .mid
        { p with state := if holds && !p.ramp then .idle else .steep, trim := 0, trimI := 0,
                 weight := if p.ramp then p.weight else 64, wStep := if p.ramp then p.wStep else 0 }

/-- A phase stands in for nobody any more. -/
def freeSub (h : Phase) (s : State) : State :=
  match substituteOf s h with
  | some n => s.upPhase n fun p => { p with subfor := none, weight := 64, wStep := 0 }
  | none => s

/-- The substitutes that have left the active set beside a planned phase which is in service again (R162). -/
def freeSubs (r : Rail) (s : State) : State :=
  s.each (planned s.cfg r.val) fun h s =>
    match substituteOf s h with
    | some n => if outOfService s.pwm.phases[h] || hasBit s.pwm.rails[r].act n.val then s else freeSub h s
    | none => s

/-- A rail's active set becomes `act` (R148). -/
def setActive (r : Rail) (act : BitVec 48) (s : State) : State :=
  let old := s.pwm.rails[r].act
  let s := s.upPwmRail r fun w => { w with act := act, actNext := act }
  retarget r (act &&& ~~~old) (showStates r (freeSubs r s))

/-- Position k of the rail passes to its next free steep phase as substitute (rule 6 of R159, R522). -/
def substitute (r : Rail) (h : Phase) (s : State) : State :=
  match freeSteep s r.val with
  | [] => s
  | n :: _ => s.upPhase n fun p => { p with subfor := some h, weight := 64, wStep := 0 }

/-- Substitutes, in ORDER, for the racked phases among these positions that have none. -/
def substituteFor (r : Rail) (hs : List Phase) (s : State) : State :=
  s.each ((inOrder s.cfg r.val).filter fun h => s.cfg.role h.val = 1 && hs.contains h) fun h s =>
    if s.pwm.phases[h].state == .racked && substituteOf s h == none then substitute r h s else s

/-- Substitutes for the racked phases of a rail at its enable (R522). -/
def substituteAll (r : Rail) (s : State) : State := substituteFor r (fins 48) s

/-- The held phases of a rail that are not racked drive a level. -/
def driveHeld (r : Rail) (d : Drive) (s : State) : State :=
  s.each (held s r.val) fun h => State.upPhase h fun p =>
    if outOfService p then p else p.level (rcNow s) d

/-! ## The racked set (R159, R162, R164) -/

/-- A phase's bit in PWM_RKMASK: it clears when a pitching has measured a good offset (R162). -/
def rackedBit (p : Phasor) : Bool := outOfService p

/-- The phase-health record (R431). -/
def healthRecord (s : State) : List Byte :=
  (fins 48).map fun h =>
    let p := s.pwm.phases[h]
    if rackedBit p then BitVec.ofNat 8 (0x80 + p.rkcause.toNat) else 0

/-- The racked set has changed: it goes to its record under RKPERSIST (R164). -/
def saveHealth (s : State) : State :=
  if s.cfg.rkpersist then recordCommit 8 (healthRecord s) s else s

/-! ## Enable and disable -/

/-- The active set with which a rail starts: every held position in FULL, NMIN of them otherwise
(R151, rule 5 of R153). -/
def startSet (s : State) (r : Rail) : BitVec 48 :=
  if s.cfg.pwmMode r.val = 0 then phaseSet (held s r.val) else lowest s r.val (s.cfg.nmin r.val)

/-- The phase subsystem's part of a rail's enable. -/
def enablePhases (r : Rail) (s : State) : State :=
  let s := anchorCarrier r (substituteAll r s)
  let s := s.upPwmRail r fun w =>
    { w with opmode := if s.cfg.pwmMode r.val = 0 then .full else .shed, act := 0, actNext := 0,
             shedding := none, dwell := 0, lightDwell := 0, lightNext := false, iHist := [], iAvg := 0,
             loss := [], rackedNow := [], fcHold := 0 }
  setActive r (startSet s r) s

/-- A rail that is disabled while it pitches a phase: the phase takes its planned role, and PHASE_ADMIT
completes with 0x0000 (R163). -/
def disableAdmit (r : Rail) (s : State) : State :=
  match s.pwm.rails[r].admission with
  | none => s
  | some a =>
    let s := s.upPwmRail r fun w => { w with admission := none }
    let s := freeSub a.phase <| s.upPhase a.phase fun p =>
      { p with state := if s.cfg.role a.phase.val = 2 then .steep else .idle, ramp := false, weight := 64,
               wStep := 0 }
    complete a.ring 0 s.pwm.phases[a.phase].zofs.toNat (saveHealth s)

/-- The carrier of a phase that was racked in the second half of its period stops: it is at MID (R136, R159;
log 67). -/
def endHalf (r : Rail) (s : State) : State :=
  s.each (planned s.cfg r.val) fun h => State.upPhase h fun p =>
    if p.midNext then { p.level (rcNow s) .mid with midNext := false } else p

/-- The phase subsystem's part of a rail's disable (R265, R163): the held phases drive LOW. -/
def disablePhases (r : Rail) (s : State) : State :=
  let s := s.upPwmRail r fun w =>
    { w with opmode := .off, act := 0, actNext := 0, shedding := none, lightNext := false, loss := [],
             rackedNow := [] }
  driveHeld r .low (showStates r (disableAdmit r (endHalf r s)))

end Sys2Proof.Machine
end

