-- ==== Sys2Proof/Machine/Windows.lean ====
section
/-!
DEFINITION. The window comparators as their consumers see them (R229 to R242): the codes in force, the
window that holds the wires of another, and who has a steep window. Events are raised by the callers.
-/

namespace Sys2Proof.Machine

/-! ## The delivered reference and the rail windows -/

/-- The delivered reference in µV: (REF + M) × 62.5 µV, rounded half up once (R191). -/
def deliveredRef (s : State) (r : Rail) : Int :=
  let p := s.prn.rails[r]
  (((p.ref : Int) + p.m * 65536) * 125 + 65536) / 131072

/-- Eighths of a microvolt in one code of a rail's windows (R229): 1.171875 mV or 4.6875 mV. -/
def codeLsb (g : Setup) (r : Nat) : Int := if g.absdiv r then 37500 else 9375

/-- A level w × 0.05 % of target below it, rounded up (R231). -/
def lowCode (g : Setup) (r : Nat) (t : Int) (w : Nat) : BitVec 10 :=
  let n := t * (2000 - w) * 8
  let d := 2000 * codeLsb g r
  BitVec.ofNat 10 (clampInt 0 1023 (-((-n) / d))).toNat

/-- A level w × 0.05 % of target above it, rounded down (R231). -/
def highCode (g : Setup) (r : Nat) (t : Int) (w : Nat) : BitVec 10 :=
  BitVec.ofNat 10 (clampInt 0 1023 (t * (2000 + w) * 8 / (2000 * codeLsb g r))).toNat

/-- The window that reports a rail's power-good (R249). -/
def pgWindow (i : SeqIdx) : Window :=
  if i.val < 8 then Fin.ofNat 80 (48 + i.val) else Fin.ofNat 80 (56 + i.val)

/-! ## Which comparators drive a window's wires (R12, R238, R239) -/

/-- The window's live output: not-good while either comparator is (R233). -/
def Win.live (w : Win) : Bool := w.low || w.high

/-- The local window of a rail. -/
def localWin (r : Rail) : Window := ⟨56 + r.val, by omega⟩

/-- The window W76 + n. -/
def steepWin (n : Fin 4) : Window := ⟨76 + n.val, by omega⟩

/-- The source identifier of a window (R9, R10). -/
def winSrc (w : Nat) (elem cell : Nat) : Word :=
  if w < 48 then srcId 0x6 0x0 w elem cell else srcId 0x6 0x1 (w - 48) elem cell

/-- The steep window that stands in for a failed window. -/
def standIn (s : State) (w : Window) : Option (Fin 4) :=
  (fins 4).find? fun n => s.cmp.steep[n] == .standsIn w

/-- The window works, itself or through its stand-in (R222, R239). -/
def windowWorks (s : State) (w : Window) : Bool := !s.cmp.win[w].failed || (standIn s w).isSome

/-- The steep window that has w's inputs: in a proof test from its load on, or as the stand-in. -/
def steepOn (s : State) (w : Window) : Option (Fin 4) :=
  match s.cmp.proof with
  | some p => if p.win = w ∧ 2 ≤ p.stage.val then some p.steep else standIn s w
  | none => standIn s w

/-- The window whose comparators drive w's wires: a steep window from its take-over in w's proof test up to
the hand-back, or while it stands in for w. -/
def wireWindow (s : State) (w : Window) : Window :=
  match s.cmp.proof with
  | some p => if p.win = w ∧ 4 ≤ p.stage.val then steepWin p.steep else (standIn s w).elim w steepWin
  | none => (standIn s w).elim w steepWin

/-- The comparators that drive w's wires. -/
def wires (s : State) (w : Window) : Win := s.cmp.win[wireWindow s w]

/-- The window whose wires a window drives, if it drives any. -/
def drives (s : State) (w : Window) : Option Window := (fins 80).find? fun v => v.val < 76 && wireWindow s v = w

/-! ## Codes in force (R229 to R231) -/

/-- The codes in force of W48 + r and W56 + r from the delivered reference, with DISCODE (R266) and the heel
levels (R217) where they stand in. -/
def railCodes (s : State) (r : Rail) (heel : Bool) : BitVec 10 × BitVec 10 :=
  let g := s.cfg
  let t := deliveredRef s r
  if heel then
    if s.fb[r].hact then (lowCode g r.val t (g.hlo r.val), highCode g r.val t (g.hhi r.val))
    else (lowCode g r.val t (g.thrLo (56 + r.val)), highCode g r.val t (g.thrHi (56 + r.val)))
  else
    (if s.seq.rails[idxOf r].discode then BitVec.ofNat 10 (g.discode r.val)
      else lowCode g r.val t (g.thrLo (48 + r.val)), highCode g r.val t (g.thrHi (48 + r.val)))

/-- The codes in force of a phase's, an external rail's or a supply's window: ZCTH stands in for the low code
of a LIGHT phase (R151), DISCODE for that of an external rail's window (R266). -/
def fixedCodes (s : State) (w : Window) : BitVec 10 × BitVec 10 :=
  let g := s.cfg
  let lo :=
    if 64 ≤ w.val && w.val < 72 && s.seq.rails[(Fin.ofNat 16 (w.val - 56))].discode then
      g.discode (w.val - 56)
    else if h : w.val < 48 then
      let ph : Phase := ⟨w.val, h⟩
      let r := railOf g ph
      if s.pwm.rails[r].opmode == .light && s.pwm.phases[ph].state == .active then g.zcth r.val
      else g.thrLo w.val
    else g.thrLo w.val
  (BitVec.ofNat 10 lo, BitVec.ofNat 10 (g.thrHi w.val))

/-- A window, and the steep window that has its inputs, take codes; each comparator keeps its side (R234,
R238). -/
def putCodes (w : Window) (c : BitVec 10 × BitVec 10) (s : State) : State :=
  let put := fun (x : Win) => { x with lo := c.1, hi := c.2 }
  let s := s.upWin w put
  match steepOn s w with
  | some n => s.upWin (steepWin n) put
  | none => s

/-- The rail windows of rail r. -/
def refreshCodes (r : Rail) (s : State) : State :=
  putCodes (localWin r) (railCodes s r true) (putCodes ⟨48 + r.val, by omega⟩ (railCodes s r false) s)

/-- The phase windows of a rail (R151). -/
def refreshPhases (r : Rail) (s : State) : State :=
  s.each ((fins 48).filter fun h => s.cfg.phRail h.val == r.val) fun h s =>
    let w : Window := ⟨h.val, by omega⟩
    putCodes w (fixedCodes s w) s

/-- Every window's codes in force (R231, R234). -/
def refreshAll (s : State) : State :=
  let s := s.each (fins 8) refreshCodes
  s.each ((fins 80).filter fun w => w.val < 48 || (decide (64 ≤ w.val) && decide (w.val < 76))) fun w s =>
    putCodes w (fixedCodes s w) s

/-! ## Steep windows (R237 to R242) -/

/-- w is handed back: the latch state that the steep window held, and the sides that both see, are w's
again. -/
def handBack (p : Proof) (s : State) : State :=
  if p.stage.val < 4 then s
  else
    let x := s.cmp.win[steepWin p.steep]
    (s.upWin p.win fun w => { w with low := x.low, high := x.high, latch := x.latch }).upWin (steepWin p.steep) fun w =>
      { w with latch := false }

/-- A steep window that an adjudication may take at once: a free one, or that of a proof test which
yields (R241). -/
def freeSteepWindow (s : State) : Option (Fin 4) :=
  let works := fun (n : Fin 4) => !s.cmp.win[steepWin n].failed
  match (fins 4).find? fun n => works n && s.cmp.steep[n] == .free &&
      !(s.cmp.proof.any fun p => p.steep == n) with
  | some n => some n
  | none => (fins 4).find? fun n => works n && s.cmp.steep[n] == .free

/-- The stages of a proof test that need the test DAC: the self-check, the swap and the levels (R238, R240). -/
def Proof.usesDac (p : Proof) : Bool := p.stage.val = 0 || p.stage.val = 4 || p.stage.val = 5

/-- A proof test leaves a stage: where it had the test DAC the absolute calibration of a slice goes on (R240). A path
test that runs has the DAC itself. -/
def freeDac (p : Proof) (s : State) : State :=
  if p.usesDac && s.adc.ptest.isNone then resumeCal p.since s else s

/-- A waiting adjudication takes a steep window, if one is to be had; a proof test that holds it ends, its
window is handed back, and is tested in the next cycle (R241). -/
def takeSteep (r : Rail) (s : State) : State :=
  match freeSteepWindow s with
  | none => s
  | some n =>
    let yields := s.cmp.proof.filter fun p => p.steep == n
    let s := match yields with
      | some p => (freeDac p (handBack p s)).upCmp fun c => { c with proof := none }
      | none => s
    let fresh := fun (k : PathCheck) => { k with ballSum := 0, ballN := 0 }
    let s := s.upFb r fun f => { f with adjAt := s.clk.slot, remote := fresh f.remote, local_ := fresh f.local_ }
    s.upCmp fun c => { c with steep := vput c.steep n (.adjudicates r), adjWait := c.adjWait.filter (· != r) }

/-- A window that the cycle skips now (R237). -/
def proofSkips (s : State) (w : Window) : Bool :=
  let x := s.cmp.win[w]
  x.failed || (decide (w.val < 48) && s.cfg.role w.val = 0) ||
    (decide (48 ≤ w.val) && decide (w.val < 64) &&
      let r : Rail := Fin.ofNat 8 (w.val % 8)
      railOff s r || s.seq.rails[idxOf r].state == .discharge || s.seq.rails[idxOf r].state == .hold ||
        s.eng.rails[r].mode == .heel || [x.lo, x.hi].any fun c => c = 0 || c = 1023)

/-- The steep windows that neither have failed nor stand in. -/
def steepLeft (s : State) : List (Fin 4) := (fins 4).filter fun n =>
  !s.cmp.win[steepWin n].failed && match s.cmp.steep[n] with
    | .standsIn _ => false
    | _ => true

/-- The cycle's next test begins, where a window is left and a steep window is free. -/
def beginProof (s : State) : State :=
  if !s.cmp.cycle || s.cmp.proof.isSome || (steepLeft s).isEmpty then s
  else
    let left := s.cmp.left.dropWhile (proofSkips s)
    match left, (steepLeft s).find? fun n => s.cmp.steep[n] == .free with
    | [], _ => s.upCmp fun c => { c with cycle := false, left := [] }
    | w :: ws, some n => s.upCmp fun c =>
        { c with left := ws, proof := some { win := w, steep := n, stage := 0, since := s.clk.slot } }
    | _, none => s.upCmp fun c => { c with left := left }

/-- The steep windows that have come free serve the adjudications that wait, lowest rail first, and then
the proof cycle (R241). -/
def serveSteep (s : State) : State :=
  beginProof (State.each s.cmp.adjWait (fun r s => if (freeSteepWindow s).isSome then takeSteep r s else s) s)

/-- The rail's adjudication is over, or given up: its steep window comes free. -/
def freeAdjudication (r : Rail) (s : State) : State :=
  serveSteep <| (s.upFb r fun f => { f with adj := false, disagree := 0 }).upCmp fun c =>
    { c with adjWait := c.adjWait.filter (· != r),
             steep := c.steep.map fun u => if u = .adjudicates r then .free else u }

end Sys2Proof.Machine
end

