-- ==== Sys2Proof/Machine/SeqCore.lean ====
section
/-!
DEFINITION. The sequencer's state machine (R252 to R273): what a rail does of itself once its
conditions hold, the take-downs, the immediate shut-off, margins, and the enable and disable of a
regulated rail's loop. Events are raised by the callers.
-/

namespace Sys2Proof.Machine

/-! ## Indices, dependants and order (R249, R250, R264) -/

/-- A rail's group. -/
def groupOf (g : Setup) (i : SeqIdx) : Group := Fin.ofNat 8 (g.group i.val)

/-- The used rails. -/
def usedRails (g : Setup) : List SeqIdx := (fins 16).filter fun i => g.use i.val

/-- One step from a set of indices to those that name one of them as prerequisite. -/
def addDependants (g : Setup) (m : BitVec 16) : BitVec 16 :=
  (usedRails g).foldl (fun m i => if (g.deps i.val).any (fun p => hasBit m p) then putBit m i.val true
    else m) m

/-- Every dependant of an index, directly or through other rails (R250). -/
def dependants (g : Setup) (i : SeqIdx) : List SeqIdx :=
  let m := (List.range 16).foldl (fun m _ => addDependants g m) (BitVec.ofNat 16 (2 ^ i.val))
  (fins 16).filter fun j => hasBit m j.val && j != i

/-- The prerequisites of an index, directly or through other rails. -/
def prerequisites (g : Setup) (i : SeqIdx) : List SeqIdx :=
  (fins 16).filter fun j => (dependants g j).contains i

def railState (s : State) (i : SeqIdx) : RailState := s.seq.rails[i].state

/-- OFF, FAILED or BLOCKED. -/
def isDown (q : RailState) : Bool := q == .off || q == .failed || q == .blocked

/-- Down for the order of R264: a rail taken down that waits in WAIT while its group stays requested counts
too (R259). -/
def isFallen (s : State) (i : SeqIdx) : Bool :=
  let q := s.seq.rails[i]
  isDown q.state || (q.state == .wait && q.down)

/-- The rail's group is requested on. -/
def groupReq (s : State) (i : SeqIdx) : Bool := s.seq.groups[groupOf s.cfg i].req

/-- The rail is requested on (R252) and nothing keeps it down. -/
def wantOn (s : State) (i : SeqIdx) : Bool :=
  let q := s.seq.rails[i]
  s.cfg.use i.val && groupReq s i && q.held == .none && !q.down && !q.faultDown &&
    !(q.state == .failed || q.state == .blocked)

/-- The rail is requested on but for a take-down that has marked it (R259). -/
def staysRequested (s : State) (i : SeqIdx) : Bool :=
  s.cfg.use i.val && groupReq s i && s.seq.rails[i].held == .none

/-- Every prerequisite is ON. -/
def freeToRise (s : State) (i : SeqIdx) : Bool :=
  (s.cfg.deps i.val).all fun p => railState s (Fin.ofNat 16 p) == .on

/-- The rail is due to fall (R264). -/
def dueToFall (s : State) (i : SeqIdx) : Bool :=
  (dependants s.cfg i).all (fun j => !s.cfg.use j.val || isFallen s j) &&
    (!s.cfg.ordmode (groupOf s.cfg i).val ||
      (usedRails s.cfg).all fun j =>
        groupOf s.cfg j != groupOf s.cfg i || decide (s.cfg.offpos i.val ≤ s.cfg.offpos j.val) ||
          isFallen s j)

/-! ## Margins (R271 to R273) -/

/-- A booking of the ledger ends (R288). -/
def dropBook (f : BookFor) (s : State) : State :=
  s.upLdg fun l => { l with books := l.books.filter fun b => b.for_ != f }

/-- Selection NONE for a rail: MRG ends at once when M is already 0 (R272). -/
def marginNone (r : Rail) (s : State) : State :=
  let p := s.prn.rails[r]
  let s := if p.m = 0 then dropBook (.margin r) s else s
  let s := s.upSeqRail (idxOf r) fun q => { q with msel := 0 }
  if p.mrg && p.m = 0 then
    alertPorts (portHas s r) alMargin (s.upPrnRail r fun p => { p with mrg := false })
  else s

/-- A rail leaves ON: its margin ends (R273). -/
def leaveOn (i : SeqIdx) (s : State) : State :=
  match regRail i with
  | some r => if s.seq.rails[i].msel = 0 then s else marginNone r s
  | none => s

/-! ## The loop of a regulated rail -/

/-- The sequencer's enable of a rail's regulation (R109, R207, R253, R256). -/
def enableLoop (r : Rail) (s : State) : State :=
  let g := s.cfg
  let s := s.upEngRail r fun e =>
    { e with enabled := true, enabledAt := s.clk.slot, mode := .off, s11 := 0, s12 := 0, s21 := 0,
             s22 := 0, integ := 0, ff := 0, boost := .armed, boostCount := 0, refPrev := none, dref := 0,
             lastE := none, iLost := 0, fcs := [], track := 0 }
  let s := s.upFb r fun f =>
    { f with path := if g.path0 r.val then .local_ else .remote, rlost := false, llost := false,
             blind := false, hact := false, adj := false, stale := 0,
             remote := { PathCheck.reset with absLast := f.remote.absLast },
             local_ := { PathCheck.reset with absLast := f.local_.absLast },
             lfsr := BitVec.ofNat 15 (0x4000 + r.val), d := 0, heads := 0,
             recent := [], disagree := 0, firing := [], firedAt := none, hent := 0, badPulses := 0,
             freshRun := 0 }
  let s := s.upAdc fun a => { a with errCount := vput a.errCount r 0 }
  let s := s.upPrnRail r fun p =>
    { p with ref := 0, tgt := BitVec.ofNat 16 (g.vboot r.val), gcls := 0, notify := false,
             seqown := true, safe := none }
  enablePhases r s

/-- The end of a rail's regulation at DISCHARGE (R109, R265). A move of the rail to another pair that has not had its
64 samples stands, and goes on when the rail is enabled again (R129; log 24). -/
def disableLoop (r : Rail) (s : State) : State :=
  let s := s.upEngRail r fun e =>
    { e with enabled := false, mode := .off, fcs := [], track := 0, boost := .armed }
  let s := freeAdjudication r (s.upFb r fun f => { f with hact := false, firing := [] })
  refreshPhases r (refreshCodes r (disablePhases r s))

/-- Alert cause SHDN on the LIVE ports whose RAILS include the rail (R195). -/
def alertShdn (r : Rail) (s : State) : State :=
  alertPorts (fun n => portLive s n && portHas s r n) alShdn s

/-! ## The transitions of R254 -/

def setRailState (i : SeqIdx) (q : RailState) (s : State) : State :=
  s.upSeqRail i fun k => { k with state := q }

/-- The window of a rail's power-good takes the codes that follow from DISCODE (R249, R266). -/
def followDiscode (i : SeqIdx) (s : State) : State :=
  match regRail i with
  | some r => refreshCodes r s
  | none => putCodes (pgWindow i) (fixedCodes s (pgWindow i)) s

/-- Entry to DISCHARGE: a regulated rail stops regulating and its window takes DISCODE; an external
one is switched off (R265, R266). -/
def enterDischarge (i : SeqIdx) (s : State) : State :=
  let s := s.upSeqRail i fun k => { k with state := .discharge, discode := true, xen := false }
  match regRail i with
  | some r => disableLoop r (s.upPrnRail r fun p => { p with gcls := 0, notify := false, seqown := true, safe := none })
  | none => followDiscode i s

/-- Entry to STOP (R265): the sequencer takes the target. -/
def enterStop (i : SeqIdx) (r : Rail) (s : State) : State :=
  alertShdn r <| (setRailState i .stop s).upPrnRail r fun p =>
    { p with tgt := 0, gcls := 0, notify := false, seqown := true, safe := none }

/-- Entry to RAMP from DELAY (R254). -/
def enterRamp (i : SeqIdx) (s : State) : State :=
  let s := setRailState i .ramp s
  match regRail i with
  | some r => enableLoop r s
  | none => s.upSeqRail i fun k => { k with xen := true }

/-- A rail's take-down is over: its phases drive MID, and nothing is left of its target to own (R189, R254). -/
def restRail (r : Rail) (s : State) : State :=
  driveHeld r .mid (s.upPrnRail r fun p => { p with seqown := false })

/-- A rail reaches OFF: what it becomes (R258), and its take-down is over. -/
def reachOff (i : SeqIdx) (s : State) : State :=
  let s := match regRail i with
    | some r => restRail r s
    | none => s
  s.upSeqRail i fun k =>
    { k with state := .off, faultDown := false }

/-- A prerequisite of the rail, not requested on, is still to fall. -/
def fallsAbove (s : State) (i : SeqIdx) : Bool :=
  (prerequisites s.cfg i).any fun p => s.cfg.use p.val && !wantOn s p && !isFallen s p

/-- One transition of rail i, where a condition of R254 holds. -/
def railStep (i : SeqIdx) (s : State) : State :=
  let q := s.seq.rails[i]
  let want := wantOn s i
  match q.state with
  | .off =>
    if q.down then s.upSeqRail i fun k =>
      if staysRequested s i then { k with state := .wait } else { k with down := false }
    else match q.held with
      | .toFailed => s.upSeqRail i fun k => { k with state := .failed, held := .none }
      | .toBlocked => s.upSeqRail i fun k => { k with state := .blocked, held := .none }
      | _ => if q.faultDown then s.upSeqRail i fun k => { k with faultDown := false }
             else if want then setRailState i .wait s else s
  | .wait =>
    if q.down && staysRequested s i then
      if fallsAbove s i then (if q.faultDown then s.upSeqRail i fun k => { k with faultDown := false } else s)
      else s.upSeqRail i fun k => { k with down := false, faultDown := false }
    else if !want then setRailState i .off s
    else if freeToRise s i then
      followDiscode i (s.upSeqRail i fun k => { k with state := .delay, discode := false })
    else s
  | .delay =>
    if !want then setRailState i (if q.down && staysRequested s i then .wait else .off) s
    else if !freeToRise s i then setRailState i .wait s else s
  | .ramp =>
    if !want && dueToFall s i then
      match regRail i with
      | some r => enterStop i r s
      | none => enterDischarge i s
    else match regRail i with
      | some r =>
        if s.prn.rails[r].ref = s.prn.rails[r].tgt.toNat * 65536 then
          s.upSeqRail i fun k => { k with state := .pgwait, pgood := false }
        else s
      | none => s
  | .pgwait =>
    if !want && dueToFall s i then
      match regRail i with
      | some r => enterStop i r s
      | none => enterDischarge i s
    else s
  | .on =>
    if !want && dueToFall s i then
      match regRail i with
      | some r => enterStop i r (leaveOn i s)
      | none => enterDischarge i s
    else s
  | .stop =>
    if want then
      match regRail i with
      | some r => (setRailState i .ramp s).upPrnRail r fun p =>
          { p with tgt := BitVec.ofNat 16 (s.cfg.vboot r.val) }
      | none => s
    else match regRail i with
      | some r => if s.prn.rails[r].ref = 0 || s.fb[r].path == .none then enterDischarge i s else s
      | none => s
  | .discharge => s
  | .hold => s
  | .failed => if groupReq s i then s else setRailState i .off s
  | .blocked => if groupReq s i then s else setRailState i .off s

/-- Every used rail takes the transitions whose conditions hold, until none is left (R254). Rounds of
the sixteen rails in order of index; 64 rounds are more than any chain of transitions needs. -/
def settleRounds : Nat → State → State
  | 0, s => s
  | n + 1, s =>
    let t := s.each (usedRails s.cfg) railStep
    if t.seq = s.seq then t else settleRounds n t

/-- A port's reservation ends. -/
def dropReservation (p : Port) (s : State) : State :=
  dropBook (.port p) (s.upPort p fun q => { q with cost := 0 })

/-- Every rail of a port's RAILS is off (R198). -/
def railsAllOff (s : State) (p : Port) : Bool :=
  (fins 8).all fun r => !portHas s r p || railOff s r

/-- Reservations of ports whose rails are all off are released (R198). -/
def releaseIdle (s : State) : State :=
  s.each ((fins 4).filter fun p => s.prn.ports[p].cost != 0 && railsAllOff s p) dropReservation

/-- The sequencer at rest in the present conditions. -/
def settle (s : State) : State := releaseIdle (if domOn s pdSeq then settleRounds 64 s else s)

/-! ## Requests (R252, R253) -/

/-- What a rail keeps of its hold when group j is requested off: the retry of a rail in another group goes
on, and a dependant that waited for a retry of the group still falls before it (R259). -/
def endHold (g : Setup) (j : Group) (i : SeqIdx) (k : SeqRail) : SeqRail :=
  match k.held with
  | .railRetry p =>
    if groupOf g p != j then k
    else { k with held := .none, down := k.down || groupOf g i != j }
  | _ => if groupOf g i = j then { k with held := .none } else k

/-- A group is requested off: its retries end and FAILED and BLOCKED rails will leave (R254, R258). -/
def requestOff (j : Group) (s : State) : State :=
  if !s.seq.groups[j].req then s else
  let g := s.cfg
  let s := s.upGroup j fun k => { k with req := false, retrying := false, retryc := 0 }
  s.each (fins 16) fun i => State.upSeqRail i (endHold g j i)

/-- A group is requested on: a take-down of its rails turns (R267). -/
def requestOn (j : Group) (s : State) : State :=
  if s.seq.groups[j].req then s else
  let s := s.upGroup j fun k => { k with req := true, failed := false }
  s.each ((fins 16).filter fun i => groupOf s.cfg i = j) fun i => State.upSeqRail i fun k =>
    { k with down := false, faultDown := false }

/-! ## Take-downs (R258 to R262) -/

/-- What a rail is to become stays settled: FAILED or BLOCKED (R258). -/
def Held.lasts (h : Held) : Bool := h == .toFailed || h == .toBlocked

/-- The rail is to be taken down; `fault` marks a fault-driven take-down (R261). -/
def markDown (fault : Bool) (i : SeqIdx) (s : State) : State :=
  if isDown (railState s i) then s else
  s.upSeqRail i fun k => { k with down := true, faultDown := k.faultDown || fault }

/-- GROUP of R259: the group's request is cleared and its rails and their dependants fall. -/
def takeGroup (j : Group) (s : State) : State :=
  let rails := (usedRails s.cfg).filter fun i => groupOf s.cfg i = j
  let others := (usedRails s.cfg).filter fun i => groupOf s.cfg i != j &&
    rails.any fun p => (dependants s.cfg p).contains i
  let s := requestOff j s
  let s := s.each rails (markDown true)
  let s := s.each others fun i s =>
    -- a RETRY under way yields: the rail waits for its prerequisites with the others (R260)
    (markDown true i s).upSeqRail i fun k => match k.held with
      | .railRetry _ => { k with held := .none, down := true }
      | _ => k
  settle s

/-- RETRY of R259: the rail and its dependants fall and wait for the retry. -/
def takeRetry (i : SeqIdx) (s : State) : State :=
  settle <| s.each (i :: (dependants s.cfg i).filter fun j => s.cfg.use j.val) fun j s =>
    let s := if isDown (railState s j) then s
      else s.upSeqRail j fun k => { k with faultDown := true }
    if railState s j == .failed || railState s j == .blocked then s
    else s.upSeqRail j fun k => if k.held.lasts then k else { k with held := .railRetry i }

/-- SYSRST of R259: every rail falls, and a chip reset follows. -/
def takeSysrst (s : State) : State :=
  let s := s.each (fins 8) requestOff
  let s := s.each (usedRails s.cfg) (markDown true)
  settle (s.upSeq fun q => { q with sysrst := true })

/-- The strength of the reaction in progress on a rail (R260): 1 RETRY, 2 GROUP, 3 SYSRST. -/
def reactionOf (s : State) (i : SeqIdx) : Nat :=
  if s.seq.sysrst then 3
  else match s.seq.rails[i].held with
    | .railRetry _ => 1
    | _ => if s.seq.rails[i].faultDown then 2 else 0

/-- The immediate shut-off (R262). A rail in HOLD leaves it: no rail holds (R261). -/
def shutOff (s : State) : State :=
  let s := s.each (fins 8) fun j => State.upGroup j fun k => { k with req := false, retrying := false, retryc := 0 }
  let s := s.each (fins 16) fun i s =>
    let s := s.upSeqRail i fun k =>
      { k with held := .none, down := false, faultDown := false, xen := false }
    match railState s i with
    | .wait => setRailState i .off s
    | .delay => setRailState i .off s
    | .ramp => match regRail i with
      | some r => alertShdn r (enterDischarge i s)
      | none => enterDischarge i s
    | .pgwait => match regRail i with
      | some r => alertShdn r (enterDischarge i s)
      | none => enterDischarge i s
    | .on => match regRail i with
      | some r => alertShdn r (enterDischarge i (leaveOn i s))
      | none => enterDischarge i s
    | .stop => enterDischarge i s
    | .hold => reachOff i s
    | .failed => setRailState i .off s
    | .blocked => setRailState i .off s
    | _ => s
  s.upSeq fun q => { q with shutoff := true }

end Sys2Proof.Machine
end

