-- ==== Sys2Proof/Machine/Checks.lean ====
section
/-!
DEFINITION. The checks of whole set-ups: what a COMMIT, a set descriptor or an image is rejected for,
block by block (R71, R135, R146, R206, R248, R277, R319, R349, R446, R478). A check reads one set-up:
the carried set over the sets in force of the other blocks (R393). Within a block the codes come in the
order 0x0102, 0x0103, then the rest in the order of their rules (log 12).
-/

namespace Sys2Proof.Machine

/-- The code of the first condition that holds. -/
def firstBad : List (Bool × Nat) → Option Nat
  | [] => none
  | c :: cs => if c.1 then some c.2 else firstBad cs

/-- x lies outside lo to hi. -/
def outside (lo hi x : Nat) : Bool := decide (x < lo) || decide (hi < x)

def rails8 : List Nat := List.range 8

/-- Some rail meets p. -/
def anyRail (p : Nat → Bool) : Bool := rails8.any p

/-! ## Exact sums of fractions -/

/-- A sum of fractions as one fraction. -/
def sumFrac (xs : List (Nat × Nat)) : Nat × Nat :=
  xs.foldl (fun a x => (a.1 * x.2 + x.1 * a.2, a.2 * x.2)) (0, 1)

/-! ## The loop lane and the lane pairs (R57, R58, R93, R94) -/

/-- E_r. -/
def errPer (g : Setup) (r : Nat) : Nat := 2 ^ g.errpp r
/-- C_r. -/
def curPer (g : Setup) (r : Nat) : Nat := g.curpp r
/-- P_r. -/
def phasesOf (g : Setup) (r : Nat) : Nat := (planned g r).length

/-- L in MS/s, as a fraction (R57). -/
def laneLoad (g : Setup) : Nat × Nat :=
  sumFrac ((rails8.filter g.llen).map fun r =>
    (2048 * (errPer g r + curPer g r * phasesOf g r), g.period r))

/-- L exceeds the limit of R58. -/
def overLane (g : Setup) : Bool :=
  let l := laneLoad g
  decide ((if g.lpm then 48 else 192) * l.2 < l.1)

/-- ADC_LL_LOAD: L rounded up. -/
def laneLoadUp (g : Setup) : Nat := let l := laneLoad g; ceilDiv l.1 l.2

/-- The loop-lane rules of R71. -/
def loopLaneBad (g : Setup) : Bool :=
  anyRail (fun r => (phasesOf g r != 0) != g.llen r) ||
    (g.lpm && anyRail fun r => g.errpp r = 3)

/-- The rails that a pair serves (R91). -/
def railsOn (g : Setup) (p : Nat) : List Nat := rails8.filter fun r => g.engEn r && g.pair r == p

/-- The load of a pair in cycles per second, as a fraction (R93). -/
def pairLoad (g : Setup) (p : Nat) : Nat × Nat :=
  sumFrac ((railsOn g p).map fun r =>
    if g.llen r then
      (2048000000 * (16 * errPer g r + 4 * curPer g r * phasesOf g r) + 2000000 * g.period r, g.period r)
    else (2000000, 1))

/-- The byte of ENG_UTIL: the load in percent of the pair's 512 MHz, rounded up. -/
def pairPercent (g : Setup) (p : Nat) : Nat :=
  let l := pairLoad g p
  ceilDiv (l.1 * 100) (l.2 * 512000000)

/-- The target instants of a rail's error samples, in 2048ths of the period (R59). -/
def errInstants (g : Setup) (r : Nat) : List Nat :=
  (List.range (errPer g r)).map fun k =>
    (8 * (g.rofs r + g.errpos r) + k * (2048 / errPer g r)) % 2048

/-- Two instants lie less than 8 slots, that is 64 ticks, apart. -/
def tooClose (period a b : Nat) : Bool :=
  let d := (a + 2048 - b) % 2048
  decide (min d (2048 - d) * period < 64 * 2048)

/-- Some two members of a list, at different places, meet p. -/
def anyPair {α : Type} (p : α → α → Bool) : List α → Bool
  | [] => false
  | x :: xs => xs.any (p x) || anyPair p xs

/-- A pair breaks R93 or R94. -/
def pairBad (g : Setup) (p : Nat) : Bool :=
  let l := pairLoad g p
  let rs := (railsOn g p).filter g.llen
  decide (448000000 * l.2 < l.1) ||
    anyPair (fun a b => g.period a != g.period b || g.errpp a != g.errpp b) rs ||
    match rs with
    | [] => false
    | r :: _ => anyPair (tooClose (g.period r)) (rs.flatMap (errInstants g))

def engineBad (g : Setup) : Bool := (List.range 4).any (pairBad g)

/-! ## Rules that several blocks share -/

/-- R232 for a rail's window. -/
def windowBad (g : Setup) (r w : Nat) : Bool :=
  decide (2 * g.tband r < g.thrLo w) || decide (2 * g.tband r < g.thrHi w) ||
    decide (g.thrLo w ≤ g.hlo r) || decide (g.thrHi w ≤ g.hhi r)

/-- R232. -/
def bad232 (g : Setup) : Bool := anyRail fun r => windowBad g r (48 + r) || windowBad g r (56 + r)

/-- The second check of R220. -/
def bad220 (g : Setup) : Bool := anyRail fun r =>
  decide (2 * g.tband r < g.hlo r + 10) || decide (2 * g.tband r < g.hhi r + 10) ||
    decide (2 * g.tband r < g.plim r + 10)

/-- A channel stands in the regular sequence. -/
def inRegular (g : Setup) (c : Nat) : Bool := (List.range (g.regLen + 1)).any fun n => g.regChan n = c

/-- R279 fails. -/
def bad279 (g : Setup) : Bool :=
  let need := (if g.pfen then [0x58, 0x59] else []) ++ (if g.ns = 0 then [] else [0x5A, 0x5B, 0x5C])
  !need.isEmpty && (need.any (fun c => !inRegular g c) || decide (100 < g.pace))

/-- A phase in use has not LMODE 1 on its window (R236, R248). -/
def bad236 (g : Setup) : Bool := (List.range 48).any fun h => g.role h != 0 && !g.lmode h

/-- A used regulated rail that is not enabled at the engine or has no ACTIVE phase (R277). -/
def usedUnserved (g : Setup) : Bool :=
  (usedRails g).any fun i => decide (i.val < 8) && (!g.engEn i.val || nActPlan g i.val = 0)

/-- A time of SEQ_RONi, SEQ_RPGi or SEQ_RDISi in limiter ticks of 125 ns. -/
def limiterTicks (n : Nat) (ms : Bool) : Nat := if ms then n * 8000 else n * 8

/-- The sequencer step s_i (R256). -/
def seqStep (g : Setup) (i : Nat) : Nat :=
  max 1 (g.vboot i * 65536 / limiterTicks (g.ramp i) (g.rampu i))

/-- A sequencer step exceeds 160 × 2^16, or a margin leads VMAX beyond 65 535 codes (R277). -/
def beyondSteps (g : Setup) : Bool :=
  (usedRails g).any (fun i => decide (i.val < 8) && decide (160 * 65536 < seqStep g i.val)) ||
    anyRail fun r => decide (65535 * 1000 < g.vmax r * (1000 + g.mhi r))

/-- The least VABS that an enabled check may hold. -/
def vabsFloor (g : Setup) (r : Nat) : Nat :=
  ceilDiv (g.vmax r * (1000 + g.mhi r) * (1000 + g.tband r)) 1000000

/-- An absolute overvoltage check lies below what the rail may reach (R349). -/
def bad349 (g : Setup) : Bool := anyRail fun r => g.oven r && decide (g.vabs r < vabsFloor g r)

/-- The power-fail take-down is enabled without a level of the input's window (R319). -/
def badPfen (g : Setup) : Bool := g.pfen && g.thrLo 72 = 0

/-! ## ADC (R41, R58, R71, R86 to R88, R94, R279) -/

def checkAdc (g : Setup) : Option Nat :=
  firstBad [
    (outside 8 1000 g.rotper || decide (79 < g.trigWin) || anyRail (fun r => g.curpp r = 3) ||
      (List.range 32).any (fun n => decide (0x67 < g.regChan n)) ||
      (List.range 8).any (fun n => decide (0x67 < g.injChan n)), codeRange),
    (loopLaneBad g || (List.range 104).any (fun c => decide (g.rangeHi c < g.rangeLo c)) || bad279 g,
      codeInconsistent),
    (overLane g, codeBudget),
    (engineBad g, codeEngine)]

/-- The check of ADC_SEQ_LOAD, whose set leaves the loop lane as it is (R72, R367). -/
def checkSeqLoad (g : Setup) : Option Nat :=
  firstBad [
    (decide (79 < g.trigWin) || (List.range 32).any (fun n => decide (0x67 < g.regChan n)) ||
      (List.range 8).any (fun n => decide (0x67 < g.injChan n)), codeRange),
    ((List.range 104).any (fun c => decide (g.rangeHi c < g.rangeLo c)) || bad279 g, codeInconsistent)]

/-! ## ENG (R91, R94, R111, R134, R135) -/

/-- A level word of a bank (R97). -/
def level (b : Vector Word 32) (k : Fin 32) : Int := b[k].toInt

/-- The reserved bits of a bank word (R110). -/
def bankReserved (k : Nat) : Word :=
  if k = 17 ∨ k = 29 then 0xFFFF0000 else if k = 31 then 0xFFFFFFFF else 0

/-- A bank sets a reserved bit. -/
def bankReservedSet (b : Vector Word 32) : Bool := (fins 32).any fun k => (b[k] &&& bankReserved k.val) != 0

/-- The check of R111. -/
def bankCheck (b : Vector Word 32) : Option Nat :=
  let bper := bitsOf b[17] 0 8
  let brearm := bitsOf b[17] 8 8
  let leadmin := bitsOf b[22] 16 16
  let rampmax := bitsOf b[22] 0 16
  firstBad [
    (bankReservedSet b, codeRange),
    (!(decide (level b 14 < level b 13)) ||
      !(decide (0 ≤ level b 28) && decide (level b 28 < level b 27) &&
        decide (level b 27 ≤ 0x7F000000)) ||
      decide (level b 15 < 0) ||
      (decide (0 < level b 15) && !(decide (0 < level b 16) && decide (level b 16 < level b 15) &&
        decide (1 ≤ bper) && decide (1 ≤ brearm))) ||
      decide (level b 21 < 0) || decide (level b 23 < 0) || decide (level b 26 < 0) ||
      !(decide (1 ≤ leadmin) && decide (leadmin ≤ rampmax)), codeInconsistent)]

/-- The active bank of a rail. -/
def EngRail.active (e : EngRail) : Vector Word 32 := if e.bank then e.bankB else e.bankA

/-- The inactive bank of a rail. -/
def EngRail.inactive (e : EngRail) : Vector Word 32 := if e.bank then e.bankA else e.bankB

/-- The bank check over the enabled rails of a set-up. -/
def banksCheck (banks : Rail → Vector Word 32) (g : Setup) : Option Nat :=
  ((fins 8).filter fun r => g.engEn r.val).findSome? fun r => bankCheck (banks r)

/-- A set-up assigns an enabled rail to a pair whose domain is off (R91). -/
def pairOff (on : Nat → Bool) (g : Setup) : Bool :=
  anyRail fun r => g.engEn r && !on (if g.pair r < 2 then pdEngA else pdEngB)

def checkEng (banks : Rail → Vector Word 32) (on : Nat → Bool) (g : Setup) : Option Nat :=
  match firstBad [(g.mmlim = 0 || g.fcmiss = 0 || anyRail (fun r => decide (g.vbmin r < 110)),
      codeRange)] with
  | some c => some c
  | none =>
    match banksCheck banks g with
    | some c => some c
    | none => firstBad [(usedUnserved g, codeInconsistent), (pairOff on g, codeState), (engineBad g, codeEngine)]

/-! ## PWM (R146, R220) -/

/-- The roles of a rail's order are wrong (R144). -/
def orderBad (g : Setup) (r : Nat) : Bool :=
  let n := phasesOf g r
  let a := nActPlan g r
  (List.range n).any (fun k => (phaseAt g r k).isNone) ||
    (List.range a).any (fun k => (phaseAt g r k).any fun h => g.role h.val != 1) ||
    decide (4 < n - a) || (a = 0 && n != 0)

/-- The set-up of a rail differs between two set-ups in a way that needs the rail off (R146). -/
def plannedMoves (a b : Setup) (r : Nat) : Bool :=
  a.period r != b.period r || a.dual r != b.dual r || a.rofs r != b.rofs r ||
    (fins 48).any fun h =>
      let ina := a.role h.val != 0 && a.phRail h.val == r
      let inb := b.role h.val != 0 && b.phRail h.val == r
      ina != inb || (ina && (a.role h.val != b.role h.val || a.order h.val != b.order h.val))

/-- The plan of a rail differs between two set-ups in any word. -/
def planChanges (a b : Setup) (r : Nat) : Bool :=
  (words (0x5300 + 0x20 * r) 8 ++ words (0x5800 + 0x20 * r) 4 ++ words (0x3020 + 4 * r) 1).any
      (fun off => a.get off != b.get off) ||
    (fins 48).any fun h =>
      a.get (0x5100 + 4 * h.val) != b.get (0x5100 + 4 * h.val) &&
        (a.phRail h.val == r || b.phRail h.val == r)

def checkPwmBase (g : Setup) : Option Nat :=
  firstBad [
    ((List.range 48).any (fun h => g.role h = 3) ||
      anyRail (fun r => g.pwmMode r = 3 || outside 512 8192 (g.period r) || g.angrate r = 0 ||
        decide (g.tonmin r < 8) || decide (g.rkwin r < g.rktrip r) || g.rktrip r = 0 ||
        g.shdwell r = 0 || decide (8 < g.iavgx r) || g.plcnt r = 0 || g.lossdec r = 0 ||
        g.hton r = 0 || g.hblank r = 0 || g.hoff r = 0 || outside 1 200 (g.hlo r) ||
        outside 1 200 (g.hhi r) || g.blind r = 0 || g.rgcnt r = 0 || g.plim r = 0 || g.dcmin r = 0 ||
        g.curpp r = 3), codeRange),
    (anyRail (orderBad g), codeInconsistent),
    (anyRail (fun r => decide (g.tonmax r < g.tonmin r) ||
      decide (g.period r < 2 * (g.tonmin r + g.toffmin r))), codeInconsistent),
    (anyRail (fun r => (g.pwmMode r = 1 || g.pwmMode r = 2) &&
      (decide (g.iadd r ≤ g.ished r) || g.iscale r = 0 || g.nmin r = 0 ||
        decide (nActPlan g r < g.nmin r))), codeInconsistent),
    (anyRail (fun r => g.pwmMode r = 2 && (g.ilight r = 0 || decide (g.iadd r < 2 * g.ilight r))),
      codeInconsistent),
    (anyRail (fun r => decide (nActPlan g r < g.nfloor r)), codeInconsistent),
    (bad220 g || bad232 g || bad236 g || usedUnserved g, codeInconsistent),
    (loopLaneBad g, codeInconsistent),
    (overLane g, codeBudget),
    (engineBad g, codeEngine)]

def checkPwm (old : Setup) (off : Nat → Bool) (admits : Nat → Bool) (g : Setup) : Option Nat :=
  match checkPwmBase g with
  | some c => some c
  | none => firstBad [
      (anyRail (fun r => !off r && plannedMoves old g r), codeState),
      (anyRail (fun r => admits r && planChanges old g r), codeBusy)]

/-! ## CMP (R248) -/

/-- The windows whose codes refer to no other level (R229): W64 to W75. -/
def absWindows : List Nat := (List.range 12).map (64 + ·)

def checkCmp (g : Setup) : Option Nat :=
  firstBad [
    (outside 4 1000 g.proofper || (List.range 28).any (fun k => g.lmode (48 + k)) ||
      (List.range 16).any (fun k => g.thrLo (48 + k) = 0 || g.thrHi (48 + k) = 0), codeRange),
    (absWindows.any (fun w => decide (g.thrHi w ≤ g.thrLo w + 2 * g.thrHys w)) ||
      (List.range 3).any (fun k => g.aoEn k && decide (g.aoHi k ≤ g.aoLo k + 2 * g.aoHys k)) ||
      bad236 g || bad232 g || badPfen g, codeInconsistent)]

/-! ## SEQ (R256, R277, R471) -/

/-- The prerequisites of a rail hold a cycle through it. -/
def onCycle (g : Setup) (i : SeqIdx) : Bool :=
  let first := (usedRails g).foldl
    (fun m j => if (g.deps j.val).contains i.val then putBit m j.val true else m) (0 : BitVec 16)
  hasBit ((List.range 16).foldl (fun m _ => addDependants g m) first) i.val

/-- A controller port's reset output is not one (R471). -/
def bad471 (g : Setup) : Bool :=
  [2, 3].any (fun p => g.rsten p && !g.xmode (8 + g.rstx p)) ||
    (g.rsten 2 && g.rsten 3 && g.rstx 2 == g.rstx 3)

def checkSeqBase (g : Setup) : Option Nat :=
  let used := usedRails g
  firstBad [
    (outside 1 100 g.retq || g.rxto = 0 ||
      (List.range 16).any (fun i => decide (100 < g.mhi i) || decide (100 < g.mlo i) ||
        (decide (8 ≤ i) && (g.mhi i != 0 || g.mlo i != 0)) || (g.xmode i && (decide (i < 8) || g.use i))) ||
      used.any (fun i => (decide (i.val < 8) && g.ramp i.val = 0) || g.pgto i.val = 0), codeRange),
    (used.any (fun i => (g.deps i.val).any fun p => p == i.val || !g.use p) || used.any (onCycle g) ||
      used.any (fun p => (dependants g p).any fun d =>
        groupOf g d == groupOf g p && g.ordmode (groupOf g p).val &&
          decide (g.offpos p.val ≤ g.offpos d.val)) ||
      usedUnserved g || beyondSteps g || bad471 g || bad349 g, codeInconsistent)]

/-- A set-up changes what R277 fixes while a rail is not OFF. -/
def seqMoves (old g : Setup) (st : SeqIdx → RailState) : Bool :=
  let up := (fins 16).filter fun i => st i != .off
  up.any (fun i => (words (0x7100 + 0x20 * i.val) 5).any fun off => old.get off != g.get off) ||
    up.any fun i =>
      let j := groupOf old i
      old.enpin j.val != g.enpin j.val ||
        (fins 16).any fun k => (groupOf old k == j) != (groupOf g k == j) && (old.use k.val || g.use k.val)

def checkSeq (old : Setup) (st : SeqIdx → RailState) (g : Setup) : Option Nat :=
  match checkSeqBase g with
  | some c => some c
  | none => firstBad [(seqMoves old g st, codeState)]

/-! ## PRN (R206) -/

def checkPrn (target : Nat → Option Nat) (g : Setup) : Option Nat :=
  let inWin := fun r v => decide (g.vmin r ≤ v) && decide (v ≤ g.vmax r)
  firstBad [
    ((List.range 4).any (fun p => outside 1 50 (g.fnom p)) || anyRail (fun r => outside 5 100 (g.tband r)),
      codeRange),
    (anyRail (fun r => decide (g.vmax r < g.vmin r) || !inWin r (g.vboot r) || !inWin r (g.vsafe r) ||
        (g.ownen r && !(g.portEn (g.owner r) && Nat.testBit (g.portRails (g.owner r)) r)) ||
        (target r).any fun t => !inWin r t) ||
      bad220 g || bad232 g || beyondSteps g || bad349 g, codeInconsistent)]

/-! ## LDG and GAU (R298, R299, R319) -/

/-- A list rises strictly. -/
def rising (xs : List Int) : Bool := (xs.zip xs.tail).all fun e => decide (e.1 < e.2)

/-- The tables break R298 or R299. -/
def tablesBad (g : Setup) : Bool :=
  let pts := (List.range 32).map fun k => (g.spt k : Int)
  let vals := (List.range 16).map g.ttabValue
  !(g.spt 0 = 0 && g.spt 31 = 10000 && rising pts) || !rising ((List.range 4).map g.tpt) ||
    (List.range 4).any (fun t => (List.range 31).any fun k =>
      decide (g.ocv (32 * t + k + 1) < g.ocv (32 * t + k))) ||
    !(rising vals || rising vals.reverse)

/-- The words whose change needs the input supply (R319): NS, QNOM and the tables. -/
def gaugeMoves (old g : Setup) : Bool :=
  old.ns != g.ns ||
    (words 0xB104 1 ++ words 0xB120 1 ++ words 0xB140 16 ++ words 0xB300 16 ++ words 0xB400 64).any
      fun off => old.get off != g.get off

def checkLdg (old : Setup) (onInput : Bool) (g : Setup) : Option Nat :=
  firstBad [
    (outside 500 1000 g.pkeff || g.env = 0 || (g.ns != 0 && outside 4 16 g.ns) || outside 1 50 g.rate ||
      g.dislim = 0 || g.nrh = 0 || g.rest = 0 || outside 100 60000 g.tstep, codeRange),
    (decide (g.cv1 ≤ g.cv2) || decide (g.cv2 ≤ g.vhmin) || badPfen g ||
      (g.ns != 0 && (g.qnom = 0 || g.kpv = 0 || g.kpi = 0 || decide (g.vfull ≤ g.vcut) ||
        tablesBad g)) || bad279 g, codeInconsistent),
    (!onInput && gaugeMoves old g, codeState)]

/-! ## FLT (R349) -/

def checkFlt (g : Setup) : Option Nat :=
  let ids := List.range 128
  firstBad [
    (outside 1 1000 g.escwin ||
      ids.any (fun e => if reservedEvent e then (g.get (0xC200 + 4 * e) != 0) || g.masked e
        else g.rxVec e = 0), codeRange),
    (ids.any (fun e => g.rxBrst e && !brstAllowed e) || bad349 g, codeInconsistent)]

/-! ## NVM (R446) and TW (R450, R451, R471, R478) -/

def checkNvm (g : Setup) : Option Nat :=
  firstBad [(outside 10 60000 g.scrInterval || g.scrBatch = 0, codeRange)]

/-- The effective address of a target port (R450). -/
def effAddr (g : Setup) (adsel : BitVec 2) (p : Nat) : Nat :=
  if g.str p then g.ta p / 4 * 4 + adsel.toNat else g.ta p

def checkTw (on : Bool) (adsel : BitVec 2) (g : Setup) : Option Nat :=
  let eff := effAddr g adsel
  firstBad [
    ((List.range 4).any (fun p => g.twSpeed p = 3 || decide (5 < g.tout p) || g.stuckt p = 0 ||
        g.hangto p = 0 || g.rstw p = 0) || g.rsten 0 || g.rsten 1 ||
      [0, 1, 3].any (fun p => decide (eff p < 0x08) || decide (0x78 ≤ eff p)), codeRange),
    (anyPair (fun a b => eff a == eff b) ([0, 1, 3].filter g.twEn) ||
      [2, 3].any (fun p => g.twEn p && decide (g.hangto p ≤ g.stuckt p)) || bad471 g, codeInconsistent),
    (!on && (List.range 4).any g.twEn, codeState)]

/-! ## One check for each block -/

/-- The sets in force for a check (R393). -/
def State.accSetup (s : State) : Setup := Setup.of s.regs.acc

/-- A regulating rail's target in force (R206). -/
def targetOf (s : State) (r : Nat) : Option Nat :=
  let k := Fin.ofNat 8 r
  if s.eng.rails[k].enabled then some s.prn.rails[k].tgt.toNat else none

/-- The check of a block's commit against the state. -/
def checkBlk (s : State) (b : Blk) (g : Setup) : Option Nat :=
  match b with
  | .adc => checkAdc g
  | .eng => checkEng (fun r => s.eng.rails[r].active) (domOn s) g
  | .pwm => checkPwm s.accSetup (fun r => railOff s (Fin.ofNat 8 r))
      (fun r => s.pwm.rails[Fin.ofNat 8 r].admission.isSome) g
  | .cmp => checkCmp g
  | .seq => checkSeq s.accSetup (railState s) g
  | .prn => checkPrn (targetOf s) g
  | .tw => checkTw (domOn s pdTw) s.tw.adsel g
  | .nvm => checkNvm g
  | .ldg => checkLdg s.accSetup (s.ldg.src == .input) g
  | .flt => checkFlt g

/-- The carried words set a reserved bit (R4). -/
def reservedSet (ws : List (Nat × Word)) : Bool := ws.any fun e => (e.2 &&& reservedBits e.1) != 0

/-- The check of a set that a descriptor carries (R367). -/
def checkSet (s : State) (b : Blk) (ws : List (Nat × Word)) : Option Nat :=
  if reservedSet ws then some codeRange else checkBlk s b (s.accSetup.over ws)

/-- The check of a set that rules how rails are regulated: a class A condition refuses it (R327; log 27). -/
def checkRegulating (s : State) (b : Blk) (ws : List (Nat × Word)) : Option Nat :=
  if s.flt.classA then some codeState else checkSet s b ws

end Sys2Proof.Machine
end

