-- ==== Sys2Proof/Machine/Collect.lean ====
section
/-!
DEFINITION. The event collector: what a raise does (R320 to R345, R519), and the class A condition.
-/

namespace Sys2Proof.Machine

/-! ## Mode and pending sources (R336, R337) -/

/-- Escalation mode. -/
def escMode (s : State) : Bool :=
  s.flt.starting || s.cfg.testCfg || s.flt.test || s.flt.recov

/-- A class B or C source. -/
def onLadder (e : Nat) : Bool := eventClass e = 1 || eventClass e = 2

/-- The pending sources. -/
def pendingList (s : State) : List Nat := (List.range 128).filter fun e => hasBit s.flt.pend e

/-- Some class B or C source is pending. -/
def ladderBusy (s : State) : Bool := (pendingList s).any onLadder

/-- With no class B or C source pending the ladder returns to step 0 and RECOV clears (R336, R337). -/
def ladderRest (s : State) : State :=
  if ladderBusy s then s else s.upFlt fun f => { f with step := 0, escStart := none, recov := false }

/-- The sources raised again in the present CK_PER tick while pending: their bits stay set (R345). -/
def raisedAgain (s : State) : BitVec 128 := if s.flt.againAt = perNow s then s.flt.again else 0

/-- Pending bits are cleared, with what their sources held of the balls (R333, R345). -/
def clearPending (mask : BitVec 128) (s : State) : State :=
  let m := mask &&& ~~~(raisedAgain s)
  ladderRest <| s.upFlt fun f =>
    { f with pend := f.pend &&& ~~~m, alertTook := f.alertTook &&& ~~~m, errnTook := f.errnTook &&& ~~~m,
             ladderInt := f.ladderInt &&& ~~~m
             pendKeys := f.pendKeys.filter fun k => !hasBit m k.1.toNat }

/-- The capture is cleared (R339). -/
def clearCapture (s : State) : State := s.upFlt fun f => { f with first := none }

/-! ## Balls (R331, R333) -/

/-- INTN by the collector. -/
def intnFault (s : State) : Bool :=
  (pendingList s).any fun e => s.cfg.rxIntn e && !s.cfg.masked e &&
    (s.cfg.rxInt e || hasBit s.flt.ladderInt e)

/-- ALERTN. -/
def alertn (s : State) : Bool :=
  domOn s pdFab && (s.flt.classA || (s.flt.alertTook &&& s.flt.pend) != 0)

/-- ERRN. In sleep a class A condition holds it alone (R489). -/
def errn (s : State) : Bool := s.flt.classA || (domOn s pdFab && (s.flt.errnTook &&& s.flt.pend) != 0)

/-! ## Reactions (R330 to R332, R337) -/

/-- What a raise has done so far: the state, the reactions taken and the vectors whose message could
not be sent. -/
structure Taking where
  s : State
  taken : BitVec 5
  failed : List (Fin 32)

def Taking.note (t : Taking) (k : Nat) : Taking := { t with taken := putBit t.taken k true }

def Taking.send (t : Taking) (v : Fin 32) : Taking :=
  let r := sendMsix v t.s
  { t with s := r.1, failed := if r.2 then t.failed else v :: t.failed }

/-- The maskable interrupt of a source; `ladder` gives it one whatever INT holds (R337). -/
def takeInterrupt (e : Nat) (ladder : Bool) (t : Taking) : Taking :=
  let g := t.s.cfg
  if !(ladder || g.rxInt e) then t else
  let t := if ladder then { t with s := t.s.upFlt fun f => { f with ladderInt := putBit f.ladderInt e true } }
    else t
  if g.masked e then t
  else if g.rxIntn e then t.note 0
  else (t.note 0).send (Fin.ofNat 32 (g.rxVec e))

/-- The alert: vector 0 and the ALERTN ball. -/
def takeAlert (e : Nat) (t : Taking) : Taking :=
  (({ t with s := t.s.upFlt fun f => { f with alertTook := putBit f.alertTook e true } }).note 1).send 0

/-- The ERRN reaction. -/
def takeErrn (e : Nat) (t : Taking) : Taking :=
  ({ t with s := t.s.upFlt fun f => { f with errnTook := putBit f.errnTook e true } }).note 4

/-- The reset that a source asks for: of the whole host interface, of one port, or of a block (R330,
R334). -/
def resetKey (src : Word) : BitVec 4 × BitVec 4 × BitVec 6 :=
  let sub := bitsOf src 26 4
  if sub = 0 then (0, 0, 0)
  else if sub = 8 ∨ sub = 9 then (BitVec.ofNat 4 sub, 0, BitVec.ofNat 6 (bitsOf src 16 6))
  else (BitVec.ofNat 4 sub, BitVec.ofNat 4 (bitsOf src 22 4), 0)

/-- A pending source's block, kept where R322 allows its reset. -/
def noteKey (e : Nat) (src : Word) (s : State) : State :=
  if !brstAllowed e || s.flt.pendKeys.contains (BitVec.ofNat 7 e, resetKey src) then s
  else s.upFlt fun f => { f with pendKeys := f.pendKeys ++ [(BitVec.ofNat 7 e, resetKey src)] }

/-- A reset of a block is asked for, once while it stands. -/
def askReset (key : BitVec 4 × BitVec 4 × BitVec 6) (s : State) : State :=
  s.upFlt fun f => { f with recov := true,
                            brReq := if f.brReq.contains key then f.brReq else f.brReq ++ [key] }

/-- A block reset is asked for; it merges with one in progress (R332). -/
def askBlockReset (src : Word) (s : State) : State := askReset (resetKey src) s

/-- A chip reset is asked for, once, and not while class A holds (R327, R332, R335): the SYSRST
take-down begins, and RSTC counts it. -/
def askChipReset (s : State) : State :=
  if s.flt.classA || s.pwr.resetDue then s else
  let s := s.upFlt fun f => { f with recov := true, rstc := if f.rstc = 3 then 3 else f.rstc + 1 }
  takeSysrst (s.upPwr fun p => { p with resetDue := true })

/-- The reactions of normal service. -/
def reactNormal (e : Nat) (src : Word) (was : Bool) (t : Taking) : Taking :=
  let g := t.s.cfg
  let t := if was then t else takeInterrupt e false t
  let t := if !was && g.rxAlert e then takeAlert e t else t
  let t := if g.rxBrst e && brstAllowed e then
      ({ t with s := askBlockReset src t.s }).note 2 else t
  let t := if g.rxCrst e && !t.s.flt.classA then
      ({ t with s := askChipReset t.s }).note 3 else t
  if g.rxErrn e then takeErrn e t else t

/-- The reactions of escalation mode (R337). -/
def reactEscalated (e : Nat) (was : Bool) (t : Taking) : Taking :=
  let g := t.s.cfg
  let t := if g.rxErrn e then takeErrn e t else t
  if was then t
  else if !onLadder e then takeInterrupt e false t
  else if t.s.flt.step = 0 then
    takeInterrupt e true
      { t with s := t.s.upFlt fun f => { f with step := 1, escStart := some t.s.clk.slot } }
  else
    let t := if t.s.flt.step.val ≤ 3 then takeInterrupt e true t else t
    if 2 ≤ t.s.flt.step.val ∧ t.s.flt.step.val ≤ 3 ∧ 1 ≤ g.rxEscmax e then takeAlert e t else t

/-- The class-A record (R431). -/
def classARecord (time : BitVec 64) (src : Word) (e : Nat) (seq : Word) : List Byte :=
  leBytes 8 time.toNat ++ leBytes 4 src.toNat ++ leBytes 4 (e % 128) ++ leBytes 4 seq.toNat ++ leBytes 4 0

/-- What a class A condition does of its own (R327). -/
def actClassA (e : Nat) (src : Word) (t : Taking) : Taking :=
  let s := shutOff t.s
  let s := s.upFlt fun f => { f with classA := true }
  let s := recordCommit 12
    (classARecord (timeNow s) src e (s.flt.logHead + BitVec.ofNat 32 s.flt.queue.length)) s
  let s := countUp 3 s
  let t := ({ t with s := s }.note 4).note 1
  if s.hif.up then t.send 0 else t

/-- A saturating 32-bit count of what was not logged. -/
def countDrop (s : State) : State := s.upFlt fun f => { f with drop := incSat f.drop }

/-- The reaction to a raise under the mode in force (R320, R337): a class A condition acts first, and on
its own in escalation mode. -/
def react (e : Nat) (src : Word) (classA was esc : Bool) (t : Taking) : Taking :=
  if classA then
    let t := actClassA e src t
    if esc then t else reactNormal e src was t
  else if esc then reactEscalated e was t
  else reactNormal e src was t

/-- The raise is the one to capture: nothing stands, or what stands reached the collector in the same CK_PER tick
and has a higher ID (R339). -/
def takesCapture (e : Nat) (s : State) : Bool :=
  match s.flt.first with
  | none => true
  | some c => c.time == timeNow s && decide (e < c.event.toNat)

/-- What stands in the capture is displaced: the queued entries of this tick are no first captures. -/
def displaceCapture (f : Flt) (time : BitVec 64) : List LogEntry :=
  if f.first.isNone then f.queue
  else f.queue.map fun x => if x.time == time then { x with first := false } else x

/-- One raise (R320): the pending bit, the capture, the reaction and the log entry. The vectors whose
message could not be sent come with the state. Under class A a further class A condition is only logged
(R327). The collector lies in PD_FAB (R31): without it nothing is collected. -/
def raiseOne (e : Nat) (src : Word) (code : Nat) (acc : Access) (classA injected : Bool) (s : State) :
    State × List (Fin 32) :=
  if !domOn s pdFab then (s, []) else
  let was := hasBit s.flt.pend e
  let only := classA && s.flt.classA
  let isFirst := takesCapture e s && !only
  let time := timeNow s
  let refsel := s.clk.refsel
  let esc := escMode s
  let cap : Capture :=
    { event := BitVec.ofNat 7 e, src := src, code := BitVec.ofNat 16 code, access := acc, time := time }
  let marked := noteKey e src <| s.upFlt fun f =>
    { f with pend := putBit f.pend e true
             again := if was then putBit (raisedAgain s) e true else raisedAgain s
             againAt := perNow s
             first := if isFirst then some cap else f.first
             queue := if isFirst then displaceCapture f time else f.queue }
  let t : Taking := if only then { s := s, taken := 0, failed := [] }
    else react e src classA was esc { s := marked, taken := 0, failed := [] }
  let s := t.s
  let entry : LogEntry :=
    { time := time, src := src, event := BitVec.ofNat 7 e, classA := classA
      cls := if classA then 0 else BitVec.ofNat 2 (eventClass e)
      escm := esc, step := BitVec.ofNat 3 s.flt.step.val, first := isFirst, injected := injected
      access := acc, refsel := refsel, code := BitVec.ofNat 16 code, taken := t.taken }
  let s := if s.flt.queue.length < 32 then s.upFlt fun f => { f with queue := f.queue ++ [entry] }
    else countDrop s
  (s, t.failed)

/-- Event 0x6D for each message that could not be sent (R381). -/
def raiseUnsent (vs : List (Fin 32)) (s : State) : State :=
  s.each vs fun v s => (raiseOne 0x6D (srcId 0x0 0x3 v.val 0 0) 0 noAccess false false s).1

/-- A raise, with event 0x6D for each message that could not be sent (R381). -/
def raiseFull (e : Nat) (src : Word) (code : Nat) (acc : Access) (classA injected : Bool) (s : State) :
    State :=
  let r := raiseOne e src code acc classA injected s
  if e = 0x6D then r.1
  else raiseUnsent r.2 r.1

/-- A raise by a block on its own, with no access behind it. -/
def raise (e : Nat) (src : Word) (code : Nat) (s : State) : State :=
  raiseFull e src code noAccess false false s

/-- A class A condition (R325). -/
def raiseClassA (e : Nat) (src : Word) (s : State) : State := raiseFull e src 0 noAccess true false s

/-- A raise with the access behind it (R340). -/
def raiseAccess (e : Nat) (src : Word) (code : Nat) (acc : Access) (s : State) : State :=
  raiseFull e src code acc false false s

/-- The collector is there, and the window of R519 for a cause of an event and a unit is closed. -/
def windowClosed (e : Nat) (cause : Nat) (unit : Nat) (s : State) : Bool :=
  domOn s pdFab && s.flt.windows.all fun w =>
    !(w.event.toNat == e && w.cause.toNat == cause && w.unit == unit) ||
      decide (64000 ≤ perNow s - w.opened)

/-- The window opens. -/
def openWindow (e : Nat) (cause : Nat) (unit : Nat) (s : State) : State :=
  s.upFlt fun f =>
    { f with windows :=
        { event := BitVec.ofNat 7 e, cause := BitVec.ofNat 16 cause, unit := unit, opened := perNow s } ::
          f.windows.filter fun w =>
            !(w.event.toNat == e && w.cause.toNat == cause && w.unit == unit) &&
              decide (perNow s - w.opened < 64000) }

/-- A raise that its chapter limits to one per 1 ms (R519). -/
def raiseLimited (e : Nat) (cause : Nat) (unit : Nat) (src : Word) (code : Nat) (acc : Access)
    (s : State) : State :=
  if windowClosed e cause unit s then raiseFull e src code acc false false (openWindow e cause unit s)
  else s

/-- Event 0x7D of a supply or thermal monitor, cause 1 to 7 (R496). -/
def raiseMonitor (c : Nat) (s : State) : State :=
  raiseLimited 0x7D c (c - 1) (srcId 0x1 0x5 (c - 1) 0 c) 0 noAccess s

/-! ## Sequencer faults and events (R258, R259, R274) -/

/-- Event 0x40 + i with its cause and element. -/
def raiseSeq (i : SeqIdx) (cause elem : Nat) (s : State) : State :=
  let s := s.upSeqRail i fun k => { k with lcause := BitVec.ofNat 4 cause }
  raiseLimited (0x40 + i.val) cause i.val (srcId 0x7 0x0 i.val elem cause) 0 noAccess s

/-- A running fault of rail i with its cause (R259, R260): the event and the rail's reaction. `atLeast`
makes IGNORE and RETRY act as GROUP (R214). -/
def runningFault (i : SeqIdx) (cause elem : Nat) (atLeast : Bool) (s : State) : State :=
  if railState s i != .on then s else
  let s := raiseSeq i cause elem s
  let rx := s.cfg.runrx i.val
  let rx := if atLeast && rx < 2 then 2 else rx
  if rx < reactionOf s i || (rx = 1 && s.seq.rails[i].held == .railRetry i) then s
  else match rx with
    | 0 => s
    | 1 =>
      if s.seq.rails[i].retryc.val = s.cfg.retries i.val then
        let s := takeGroup (groupOf s.cfg i) s
        raiseSeq i 6 0 s
      else takeRetry i (s.upSeqRail i fun k => { k with retryc := k.retryc + 1 })
    | 2 => takeGroup (groupOf s.cfg i) s
    | _ => takeSysrst s

end Sys2Proof.Machine
end

