-- ==== Sys2Proof/Machine/Fabric.lean ====
section
/-!
DEFINITION. The fabric: the check of packet headers (R14 to R16), rejected register writes (R379), the
markers on their way (R22 to R26, R393, R394), and the acceptance of commits and set descriptors.
-/

namespace Sys2Proof.Machine

/-! ## Packet headers (R14 to R16) -/

/-- What the check of R16 finds: the packet is in order; this many before it are missing; it repeats an
earlier one; or it is refused for its kind or its length (R15). All but the first two are discarded. -/
inductive Heard where
  | inOrder | missing (n : Nat) | repeated | refused
  deriving DecidableEq, Repr

/-- The fields of a packet header (R14). -/
def hdrSrc (w : Word) : BitVec 14 := BitVec.ofNat 14 (bitsOf w 0 14)
def hdrKind (w : Word) : Nat := bitsOf w 14 4
def hdrLen (w : Word) : Nat := bitsOf w 18 4
def hdrSeq (w : Word) : BitVec 10 := BitVec.ofNat 10 (bitsOf w 22 10)

/-- The payload lengths that R15 gives a kind; a reserved kind has none. -/
def lenFits (kind len : Nat) : Bool :=
  match kind with
  | 0 => len = 2
  | 1 => len = 2
  | 4 => len = 2
  | 5 => decide (2 ≤ len)
  | k => decide (k ≤ 8) && decide (1 ≤ len)

/-- The check at a receiver of a packet of this kind, whose payload may have a length that `fits`. The spec
gives no first SEQ and no bound between a gap and a repeat: the first packet of a source and kind is in
order, up to 511 ahead of the one expected is a gap, and the rest is a repeat (log 45). A packet that R15
refuses, of another kind or with a length that its kind has not, leaves the count of SEQ as it was. -/
def hear (at_ : MarkerAt) (kind : Nat) (fits : Nat → Bool) (hdr : Word) (s : State) : State × Heard :=
  let count := fun (s : State) => s.upFab fun f => { f with seqErr := incSat f.seqErr }
  if hdrKind hdr ≠ kind ∨ lenFits kind (hdrLen hdr) = false ∨ fits (hdrLen hdr) = false then (s, .refused)
  else
    let mine := fun (e : SeqSeen) => e.at_ == at_ && e.src == hdrSrc hdr && e.kind.toNat == kind
    let seen : SeqSeen := { at_ := at_, src := hdrSrc hdr, kind := BitVec.ofNat 4 kind, seq := hdrSeq hdr }
    let note := fun (s : State) => s.upFab fun f =>
      { f with lastSeq := seen :: f.lastSeq.filter fun e => !mine e }
    match s.fab.lastSeq.find? mine with
    | none => (note s, .inOrder)
    | some e =>
      let ahead := (hdrSeq hdr - e.seq).toNat
      if ahead = 1 then (note s, .inOrder)
      else if ahead = 0 ∨ 512 ≤ ahead then (count s, .repeated)
      else (count (note s), .missing (ahead - 1))

/-- Any length that the packet's kind has. -/
def anyLen (_ : Nat) : Bool := true

/-- A receiver forgets the counts that it kept. -/
def forgetSeq (p : MarkerAt → Bool) (s : State) : State :=
  s.upFab fun f => { f with lastSeq := f.lastSeq.filter fun e => !p e.at_ }

/-- The blocks of PD_HIF and PD_FAB (R8, R31), as the receiving unit of a packet names them. -/
def hifBlock (unit : Fin 16) : Nat × Nat :=
  [(0x0, 0), (0x0, 1), (0x0, 2), (0x0, 3), (0x1, 0), (0x1, 1), (0x1, 2), (0x1, 3), (0x1, 4), (0x1, 5), (0x2, 0), (0x2, 1),
    (0xC, 0), (0xC, 1), (0xD, 0), (0xE, 0)].getD unit.val (0, 0)

/-- The fabric-integrity event of a receiver (R16, R323), with the rail, and the port, rail of the sequencer
or gauge that the receiving unit is. The collector counts its own in FLT_DROP. -/
def raiseFabric (at_ : MarkerAt) (r : Rail) (unit : Fin 16) (s : State) : State :=
  let port := unit.val % 4
  match at_ with
  | .adc => raise 0x55 (srcId 0x3 0x1 0 0 0) 0 s
  | .engine => raise 0x64 (srcId 0x4 (s.cfg.pair r.val) r.val 0 0) 0 s
  | .rail r => raise 0x64 (srcId 0x4 (s.cfg.pair r.val) r.val 0 0) 0 s
  | .pwm => raise (0x30 + r.val) (srcId 0x5 0x0 (railUnit s r) 0 2) 0 s
  | .cmp => raise 0x59 (srcId 0x6 0x0 0 0 0) 0 s
  | .seq => raiseSeq unit 8 0 s
  | .prn => raiseLimited (0x70 + port) 5 port (srcId 0x8 0x0 port 3 5) 0 noAccess s
  | .ldg => raiseLimited 0x7E 7 0 (srcId 0xB 0x0 0 0 7) 0 noAccess s
  | .flt => countDrop s
  | .nvm => raise 0x7B (srcId 0xA 0x0 0 0xF 0) codeFlushed s
  | .tw => raiseLimited (0x74 + port) 8 port (srcId 0x9 0x0 port 0xF 8) codeFlushed noAccess s
  | .hif =>
    let b := hifBlock unit
    if b.1 = 0xC then countDrop s else raise 0x6E (srcId b.1 b.2 0 0 0) 0 s

/-! ## Which pair serves a rail -/

/-- A lane pair runs: powered, neither in recovery nor FAILED. -/
def pairRuns (s : State) (p : PairNo) : Bool :=
  domOn s (pairDom p) && !s.eng.pairs[p].recov && !s.eng.pairs[p].failed

/-- The committed pair of a rail. -/
def pairOf (s : State) (r : Rail) : PairNo := Fin.ofNat 4 (s.cfg.pair r.val)

/-- The pair that works on the rail's records: its own or, while that one does not run, the one that it
is being moved to (R129). -/
def worksOn (s : State) (r : Rail) : Option PairNo :=
  if pairRuns s (pairOf s r) then some (pairOf s r)
  else match s.eng.rails[r].assign with
    | some a => if pairRuns s a.pair then some a.pair else none
    | none => none

/-- The receiver of a pair's loop-lane packets in the books of R16. -/
def pairSeat (p : PairNo) : MarkerAt := .rail ⟨p.val, by omega⟩

/-- The rails that a pair serves. -/
def railsServed (s : State) (p : PairNo) : List Rail :=
  (fins 8).filter fun r => s.cfg.engEn r.val && pairOf s r == p

/-! ## Rejected register writes (R379) -/

/-- A write is rejected: HIF_SETUP_ERR, its count and its master, and event 0x69 (R340, R381). -/
def rejectWrite (m : Master) (off code : Nat) (s : State) : State :=
  let s := s.upRegs fun g =>
    { g with errOff := BitVec.ofNat 16 off, errCode := BitVec.ofNat 16 code,
             errMaster := BitVec.ofNat 4 (masterCode m), errCount := incSat g.errCount }
  raiseAccess 0x69 (srcId 0x0 0x2 0 (off / 4096) (off % 4096)) code
    { master := BitVec.ofNat 4 (masterCode m), type := 2, aspace := 2, addr := BitVec.ofNat 64 off } s

/-- A register write acts through `f`, unless its master may not write (R399), the lock freezes the
register (R397) or its reserved bits are set (R4). A write reaches the register file only while its
domain is on; before the image is loaded it is rejected with 0x0104 (R472). The spec gives no order among these
codes and those of the register's own rules: this one is the model's (log 58). -/
def regWrite (m : Master) (off : Nat) (frozen : Bool) (v reserved : Word) (f : State → State)
    (s : State) : State :=
  if !domOn s pdFab then s
  else if m = .tw1 ∨ m = .tw3 then rejectWrite m off codeProtected s
  else if s.pwr.phase = .por ∨ s.pwr.phase = .supplyReset ∨ s.pwr.phase = .asleep ∨ s.pwr.phase = .waking then
    rejectWrite m off codeBusy s
  else if frozen && s.regs.lock then rejectWrite m off codeProtected s
  else if v &&& reserved ≠ 0 then rejectWrite m off codeRange s
  else f s

/-- The lock freezes the word at an offset: every one but HIF_SETUP_LOCK, FLT_FCLR and TMR_SET (R397). -/
def frozenAt (off : Nat) : Bool := !([0x0004, 0xC010, 0xD008, 0xD00C].contains (off / 4 * 4))

/-! ## Markers -/

/-- A rail is moved by the commit that the marker carries and has not been tracked for its 64 samples
(R129, R135). -/
def marksWait (s : State) (m : Marker) : Bool :=
  m.owner == some .eng && (fins 8).any fun r =>
    hasBit m.rails r.val && (s.eng.rails[r].assign.any fun a => a.ring.isNone && a.left != 0)

/-- The markers that stand in the stream: those issued, in the order of their issue (R25), and those that
wait for their issue, in the order of their acceptance. -/
structure Stream where
  issued : List Marker
  waiting : List Marker

/-- A marker issued before, for a place that is one of this marker's too, has a boundary beyond the one that this
marker would take now: a marker never overtakes another on the way to the same place (R25; log 33). -/
def overtakes (s : State) (m e : Marker) : Bool :=
  e.bstamp.any (fun b => decide (s.clk.slot + 16 < b)) && e.targets.any fun t => m.targets.contains t

/-- A marker may be issued: nothing of its own holds it (R129), it overtakes none (R25), and of the sets accepted
before it none of another block is still to be applied somewhere, and none at all still to be issued (R393). A
marker of the device itself waits for no set. -/
def mayIssue (s : State) (q : Stream) (m : Marker) : Bool :=
  !marksWait s m && !q.issued.any (overtakes s m) && (m.owner.isNone ||
    (q.issued.all (fun e => e.owner.isNone || e.owner == m.owner) && q.waiting.all (·.owner.isNone)))

/-- The next marker in the order of acceptance is issued or goes on waiting. BSTAMP lies 16 slots after the
issue, as R77, R113, R147 and R148 give it; the spec gives no figure for the other markers, and the model
takes the same one (log 47). -/
def issueNext (s : State) (q : Stream) (m : Marker) : Stream :=
  if mayIssue s q m then { q with issued := q.issued ++ [{ m with bstamp := some (s.clk.slot + 16) }] }
  else { q with waiting := q.waiting ++ [m] }

/-- Every marker that may be issued is issued. -/
def issueMarkers (s : State) : State :=
  let ms := s.fab.markers
  let q := (ms.filter fun m => m.bstamp.isNone).foldl (issueNext s)
    { issued := ms.filter fun m => m.bstamp.isSome, waiting := [] }
  s.upFab fun f => { f with markers := q.issued ++ q.waiting }

/-- Markers are accepted into the stream. -/
def pushMarkers (ms : List Marker) (s : State) : State :=
  issueMarkers (s.upFab fun f => { f with markers := f.markers ++ ms })

/-- A block has been reset: the markers under way to it keep their order, and their BSTAMP becomes the
stamp of the first record that it receives (R26). -/
def restampAt (p : MarkerAt → Bool) (s : State) : State :=
  s.upFab fun f => { f with markers := f.markers.map fun m =>
    if m.bstamp.isSome then
      { m with restamp := m.restamp ++ (m.targets.filter fun t => p t && !m.restamp.contains t) }
    else m }

/-- A record of this slot is the first that a block receives after its reset: the boundary of the markers for its
places (R26). -/
def restampBy (p : Marker → MarkerAt → Bool) (slot : Nat) (s : State) : State :=
  s.upFab fun f => { f with markers := f.markers.map fun m =>
    if (m.restamp.any (p m)) then
      { m with bstamp := some slot, restamp := m.restamp.filter fun t => !p m t }
    else m }

/-- A place is still to take a marker, or has missed it and does not know. -/
def Marker.standsAt (m : Marker) (t : MarkerAt) : Bool := m.targets.contains t || m.lost.contains t

/-- GO of a block: a commit of it is not yet applied everywhere (R393). -/
def goOf (s : State) (b : Blk) : Bool := s.fab.markers.any fun m => m.origin == .commit b

/-- SWPEND of a rail. -/
def swPend (s : State) (r : Rail) : Bool :=
  s.fab.markers.any fun m => m.kind == .bankSwap && m.standsAt (.rail r)

/-- LTPEND of a rail. -/
def ltPend (s : State) (r : Rail) : Bool :=
  s.fab.markers.any fun m => m.kind == .lastTable && m.standsAt (.rail r)

/-- A block's place in the stream of markers. -/
def blkTarget : Blk → MarkerAt
  | .adc => .adc | .eng => .engine | .pwm => .pwm | .cmp => .cmp | .seq => .seq | .prn => .prn
  | .tw => .tw | .nvm => .nvm | .ldg => .ldg | .flt => .flt

/-- The TAG of register writes, of the phase subsystem and of the converter array (R394). -/
def tagWrite : BitVec 16 := 0xFFFD
def tagPhases : BitVec 16 := 0xFFFE
def tagArray : BitVec 16 := 0xFFFF

/-- A marker to the targets with one change and no rails named. -/
def markerOf (kind : MKind) (tag : BitVec 16) (origin : Origin) (owner : Option Blk)
    (targets : List MarkerAt) (changes : List Change) : Marker :=
  { kind := kind, tag := tag, rails := 0, origin := origin, owner := owner, targets := targets,
    changes := changes, bstamp := none }

/-- The words of a set that take effect at a place: a rail's own register at the rail, the other words of
ENG at the engine, the phase plan at the PWM subsystem, all others at their block. -/
def wordsAt (at_ : MarkerAt) (b : Blk) (ws : List (Nat × Word)) : List (Nat × Word) :=
  let isRail := fun (e : Nat × Word) => decide (0x4020 ≤ e.1) && decide (e.1 < 0x4040)
  match b, at_ with
  | .eng, .rail r => ws.filter fun e => e.1 == 0x4020 + 4 * r.val
  | .eng, .engine => ws.filter fun e => !isRail e
  | .pwm, .engine => []
  | _, _ => ws

/-- The pair that receives a marker at a rail: the one that serves the rail or, for the marker that moves
the rail, the one that takes it over. -/
def markerPair (s : State) (r : Rail) (m : Marker) : PairNo :=
  let w := m.changes.findSome? fun c => match c with
    | .assign k p => if k = r then some p else none
    | .words .eng ws => (RegMap.find (wordsAt (.rail r) .eng ws) (0x4020 + 4 * r.val)).map fun w =>
        Fin.ofNat 4 (bitsOf w 22 2)
    | _ => none
  w.getD (pairOf s r)

/-- A marker is held while the pair that receives it is in recovery (R26, R114). -/
def markerHeld (s : State) (at_ : MarkerAt) (m : Marker) : Bool :=
  match at_ with
  | .rail r => s.eng.pairs[markerPair s r m].recov
  | _ => false

/-- MKQ: markers issued and held for blocks in reset (R26, R390). -/
def heldMarkers (s : State) : Nat :=
  (s.fab.markers.filter fun m => m.bstamp.isSome && m.targets.any fun t => markerHeld s t m).length

/-- The rails that an ENG set changes (R135). -/
def engChanged (s : State) (ws : List (Nat × Word)) : BitVec 8 :=
  maskOf 8 fun r => ws.any fun e => e.1 == 0x4020 + 4 * r.val && wordIn s.regs.live e.1 != e.2

/-- The markers through which a set of a block takes effect (R72, R135, R147, R206, R248, R277, R319,
R349, R446, R478). -/
def setMarkers (s : State) (b : Blk) (tag : BitVec 16) (origin : Origin) (ws : List (Nat × Word)) :
    List Marker :=
  match b with
  | .adc => [markerOf .slotPlan tag origin (some .adc) [.adc] [.words .adc ws]]
  | .pwm =>
    let lanes := ws.filter fun e => e.1 / 4096 = 3
    let plan := ws.filter fun e => e.1 / 4096 != 3
    [markerOf .slotPlan tag origin (some .pwm) [.adc] [.words .pwm lanes],
     markerOf .phasePlan tag origin (some .pwm) [.engine, .pwm] [.words .pwm plan]]
  | .eng =>
    let rails := engChanged s ws
    let named := ((fins 8).filter fun r => hasBit rails r.val).map MarkerAt.rail
    [{ markerOf .setup tag origin (some .eng) (named ++ [.engine]) [.words .eng ws] with rails := rails }]
  | b => [markerOf .setup tag origin (some b) [blkTarget b] [.words b ws]]

/-- A move of a rail to another pair begins: the new pair tracks the rail for 64 samples, out of its heel loop
where its own pair can no longer drive it (R127, R129). -/
def beginMove (r : Rail) (a : Assign) (s : State) : State :=
  s.upEngRail r fun e => { e with assign := some a, track := 0 }

/-- The rails that an ENG commit hands over to another pair are tracked first (R129, R135). -/
def beginMoves (s : State) (ws : List (Nat × Word)) : State :=
  s.each (fins 8) fun r s =>
    let w := (RegMap.find ws (0x4020 + 4 * r.val)).getD (s.cfg.get (0x4020 + 4 * r.val))
    if s.eng.rails[r].enabled && bitsOf w 22 2 != s.cfg.pair r.val then
      beginMove r { ring := none, pair := Fin.ofNat 4 (bitsOf w 22 2), left := 64 } s
    else s

/-- A set is accepted: it is the set in force for later checks, and its markers are on their way. -/
def acceptSet (b : Blk) (tag : BitVec 16) (origin : Origin) (ws : List (Nat × Word)) (s : State) : State :=
  let ms := setMarkers s b tag origin ws
  let s := s.upRegs fun g => { g with acc := setWords g.acc ws }
  let s := if b = .eng then beginMoves s ws else s
  pushMarkers ms s

/-- The words of a block's shadow set. -/
def shadowWords (s : State) (b : Blk) : List (Nat × Word) :=
  (setOffs b).map fun off => (off, wordIn s.regs.shadow off)

/-- A write of 1 to a block's COMMIT.GO (R393). -/
def commitGo (b : Blk) (m : Master) (off : Nat) (s : State) : State :=
  if sameWords s.regs.shadow s.regs.live (setOffs b) then s
  else
    let ws := shadowWords s b
    match checkBlk s b (s.accSetup.over ws) with
    | some c => rejectWrite m off c s
    | none => acceptSet b tagWrite (.commit b) ws s

/-- The offset of a block's COMMIT register (R387). -/
def commitOff : Blk → Nat
  | .adc => 0x3004 | .eng => 0x4004 | .pwm => 0x5004 | .cmp => 0x6004 | .seq => 0x7004 | .prn => 0x8004
  | .tw => 0x9004 | .nvm => 0xA004 | .ldg => 0xB004 | .flt => 0xC004

/-- A write to a block's COMMIT register: rejected with 0x0104 while GO reads 1 (R393). -/
def writeCommit (b : Blk) (m : Master) (v : Word) (s : State) : State :=
  regWrite m (commitOff b) true v 0xFFFFFFFE (fun s =>
    if goOf s b then rejectWrite m (commitOff b) codeBusy s
    else if hasBit v 0 then commitGo b m (commitOff b) s
    else s) s

/-- A set descriptor on ring q (R367): checked on its own content; when accepted the shadow registers
take the content at once and the live set takes it at the marker. -/
def runSet (b : Blk) (offs : List Nat) (check : State → List (Nat × Word) → Option Nat) (q : Ring)
    (buf : List Word) (d : Desc) (s : State) : State :=
  let ws := offs.zip buf
  if buf.length ≠ offs.length then complete q codeRange 0 s
  else match check s ws with
    | some c => complete q c 0 s
    | none =>
      let s := s.upRegs fun g => { g with shadow := setWords g.shadow ws }
      acceptSet b d.tag (.desc q) ws (act_ q s)

end Sys2Proof.Machine
end

