-- ==== Sys2Proof/Machine/Heel.lean ====
section
/-!
DEFINITION. What stands between a rail's faults and its regulation: the proof cycle's end for want of a
steep window (R242), racking (R156 to R165), the loss of a sense path (R207 to R214), and entry to and
return from the heel loop (R216 to R223).
-/

namespace Sys2Proof.Machine

/-! ## Steep windows and their event (R242, R245) -/

/-- Event 0x58, at most once in a proof cycle (R242, R245). -/
def raiseNoSteep (s : State) : State :=
  if s.cmp.steepRaised then s
  else raise 0x58 (srcId 0x6 0x1 28 0 0) 0 (s.upCmp fun c => { c with steepRaised := true })

/-- The cycle goes on; with no steep window left at all it stops (R242). -/
def nextProof (s : State) : State :=
  if s.cmp.cycle && s.cmp.proof.isNone && (steepLeft s).isEmpty then
    raiseNoSteep (s.upCmp fun c => { c with cycle := false, left := [] })
  else beginProof s

/-! ## Availability -/

/-- The heel loop of a rail is available (R222). -/
def heelAvail (s : State) (r : Rail) : Bool :=
  s.cfg.hen r.val && decide (s.fb[r].badPulses < 2) && windowWorks s (localWin r)

/-! ## Targets (R185, R188 to R193) -/

/-- The step of a slew class in codes per tick (R190). -/
def classStep (c : Nat) : Nat :=
  match c with
  | 0 => 1 | 1 => 2 | 2 => 5 | 3 => 10 | 4 => 20 | 5 => 40 | 6 => 80 | _ => 160

/-- A rail's target becomes a code at a class. A target that REF already stands at is reached at once
(R192). -/
def setTarget (r : Rail) (code : BitVec 16) (cls : Nat) (notify : Bool) (s : State) : State :=
  let s := s.upPrnRail r fun p =>
    { p with tgt := code, gcls := BitVec.ofNat 3 cls, notify := notify, safe := none }
  if notify && s.prn.rails[r].ref = code.toNat * 65536 then
    alertPorts (fun n => owns s n r) alSpdone (s.upPrnRail r fun p => { p with notify := false })
  else s

/-- The SAFE action of R185. -/
def applySafe (r : Rail) (s : State) : State :=
  setTarget r (BitVec.ofNat 16 (s.cfg.vsafe r.val)) (min (s.cfg.safecls r.val) (s.cfg.slewcap r.val))
    false s

/-! ## Racking (R156 to R165) -/

/-- ΔI and a rail's currents: (i − ZOFS) × ISCALE / 256, in mA (R152). -/
def phaseMilliamps (g : Setup) (r : Nat) (p : Phasor) : Int :=
  (p.cur.getD 0 - p.zofs.toInt) * (g.iscale r : Int) / 256

/-- The carrier's position lies below one half (R159). -/
def firstHalf (s : State) (h : Phase) : Bool :=
  decide (2 * (stepNow s - s.pwm.phases[h].carrAt) < periodSteps s.cfg (railOf s.cfg h).val)

/-- The marker of the phase subsystem that gives a rail a new active set (R148). -/
def sendActive (r : Rail) (act : BitVec 48) (s : State) : State :=
  let s := s.upPwmRail r fun w => { w with actNext := act }
  pushMarkers [{ markerOf .phasePlan tagPhases .internal none [.rail r, .pwm] [.activeSet r act s.pwm.rails[r].lightNext] with
                 rails := BitVec.ofNat 8 (2 ^ r.val) }] s

/-- The rail is driven by the heel loop or is being tracked. -/
def inHeel (s : State) (r : Rail) : Bool :=
  s.eng.rails[r].mode == .heel || s.eng.rails[r].mode == .track

/-- The value of a part of i_lost in its fall (rule 7 of R159). -/
def Loss.value (l : Loss) : Int := l.start * (l.left : Int) / (l.dec : Int)

/-- i_lost as the phase subsystem gives it to the lane pair: the sum over the phases racked (R161). -/
def lossSum (w : PwmRail) : Int := (w.loss.filter (·.sent)).foldl (fun a l => a + l.value) 0

/-- i_lost goes to the lane pair. The feed-forward term is formed anew by the caller (rule 5 of R159). -/
def sendLoss (r : Rail) (s : State) : State :=
  let v := lossSum s.pwm.rails[r]
  s.upEngRail r fun e => { e with iLost := v }

/-- The PHASE_ADMIT that runs for a phase ends with a code; an unsuccessful one leaves its substitute
at full share. -/
def endAdmit (r : Rail) (h : Phase) (code : Nat) (s : State) : State :=
  match s.pwm.rails[r].admission with
  | some a =>
    if a.phase = h then
      complete a.ring code 0 (s.upPwmRail r fun w => { w with admission := none })
    else s
  | none => s

/-- A phase's weight is fixed at w 64ths. -/
def setWeight (h : Phase) (w : Nat) (s : State) : State :=
  s.upPhase h fun p => { p with weight := w, wStep := 0 }

/-- The event of the held positions, when they have fallen below NFLOOR (R161). -/
def floorCheck (r : Rail) (before : Nat) (s : State) : State :=
  let n := (held s r.val).length
  if n < before && n < s.cfg.nfloor r.val && s.cfg.nfloor r.val ≤ before then
    runningFault (idxOf r) 4 0 false
      (raise (0x30 + r.val) (srcId 0x5 0x0 (railUnit s r) 0 1) 0 s)
  else s

/-- Substitutes for the positions racked in the present period, in ORDER: one that has not yet joined gives
way to a lower position (R161). -/
def assignSubstitutes (r : Rail) (s : State) : State :=
  let hs := s.pwm.rails[r].rackedNow
  let s := s.each hs fun h s => match substituteOf s h with
    | some n => if hasBit s.pwm.rails[r].act n.val then s else freeSub h s
    | none => s
  substituteFor r hs s

/-- What a part of i_lost waits for once its position has a substitute or none (rule 7 of R159). -/
def Loss.wants (l : Loss) (sub : Bool) : Loss :=
  { l with wait := if sub then none else some (l.wait.getD 2) }

/-- The position loses its phase for good: a substitute takes it, where there is one (rules 6 and 7 of
R159). -/
def losePosition (r : Rail) (pos : Phase) (s : State) : State :=
  let s := s.upPwmRail r fun w => { w with rackedNow := w.rackedNow ++ [pos] }
  let s := assignSubstitutes r s
  let hs := s.pwm.rails[r].rackedNow
  let sub := fun h => (substituteOf s h).isSome
  s.upPwmRail r fun w =>
    { w with loss := w.loss.map fun l => if hs.contains l.pos then l.wants (sub l.pos) else l }

/-- A phase racked in a pitching's ramp leaves its position to the other phase, which carries it at once: the
substitute at full share, the pitched phase from the next period on (R163). -/
def leaveToTwin (r : Rail) (pos n : Phase) (s : State) : State :=
  let s := if n = pos then s.upPhase n fun p => { p with wStep := 64 - p.weight } else setWeight n 64 s
  s.upPwmRail r fun w =>
    { w with loss := w.loss.map fun l => if l.pos = pos then { l with wait := some 0 } else l }

/-- The racked phase held an active position: i_lost, a substitute and the new active set (rules 5 to
7 of R159, R161). -/
def rackActive (r : Rail) (h : Phase) (mA : Int) (s : State) : State :=
  let heel := inHeel s r
  -- the position's planned phase, if it is another: the racked phase stood in for it
  let pos := (s.pwm.phases[h].subfor).getD h
  let twin := if pos = h then substituteOf s h
    else if outOfService s.pwm.phases[pos] then none else some pos
  let s := s.upPhase h fun p => { p with subfor := none }
  let dec := s.cfg.lossdec r.val
  let s := s.upPwmRail r fun w =>
    { w with loss := w.loss ++ [{ start := mA, pos := pos, wait := some 2, dec := dec, left := dec, sent := !heel }],
             shedding := w.shedding.filter fun e => e.1 != h }
  let s := match twin with
    | some n => leaveToTwin r pos n s
    | none => losePosition r pos s
  let s := if heel then s else sendLoss r s
  let drop := fun (b : BitVec 48) => putBit b h.val false
  let joined := phaseSet (s.pwm.rails[r].rackedNow.filterMap (substituteOf s))
  let light := s.pwm.rails[r].lightNext
  let next := if light then lowest s r.val 1 else drop s.pwm.rails[r].actNext ||| joined
  if heel then setActive r next s
  else
    let s := s.upPwmRail r fun w => { w with act := drop w.act, actNext := drop w.actNext }
    let s := if twin.isSome || (substituteOf s pos).isSome then s else retarget r 0 s
    if next = s.pwm.rails[r].actNext && !light then s else sendActive r next s

/-- A phase that is not active leaves every set under way; the substitute beside one that was to ramp in returns to
full share (R161, R163). -/
def rackWaiting (r : Rail) (h : Phase) (s : State) : State :=
  let s := match substituteOf s h with
    | some n => setWeight n 64 s
    | none => s
  s.upPwmRail r fun w => { w with actNext := putBit w.actNext h.val false }

/-- A phase is racked (R159), for cause 1 window, 2 plausibility or 3 stage fault; counter 4 counts it
(R439). -/
def rack (h : Phase) (cause : Nat) (s : State) : State :=
  let p := s.pwm.phases[h]
  if p.state == .racked || p.state == .unused then s else
  let r := railOf s.cfg h
  let before := (held s r.val).length
  let active := p.state == .active
  let mA := phaseMilliamps s.cfg r.val p
  let now := firstHalf s h || !active
  let t := rcNow s
  let s := s.upPhase h fun p =>
    let p := if now then p.level t .mid
      else
        let q := p.single t
        { q with pulse := q.pulse.filter fun u => decide (u.onAt ≤ t) }
    { p with state := .racked, rkcause := BitVec.ofNat 3 cause, ramp := false, weight := 64,
             wStep := 0, trim := 0, trimI := 0, midNext := !now }
  let s := if now then s.upFb r fun f => { f with firing := f.firing.filter (· != h) } else s
  let s := raise h.val (srcId 0x5 0x0 h.val (if cause = 3 then 3 else 1) cause) 0 s
  let s := saveHealth (countUp 4 s)
  let s := if active then rackActive r h mA s
    else rackWaiting r h (s.upPhase h fun p => { p with subfor := none })
  let s := endAdmit r h codePhase s
  floorCheck r before s

/-! ## The heel loop's pulses (R217 to R219) -/

/-- Interpolator steps of n steps of the on-time generator: 7.8125 ns, 128 of 61.04 ps (R219). -/
def heelSteps (n : Nat) : Nat := 128 * n

/-- D_heel (R218): the on-time of the heel set over the last 4 µs, per position, in 2^-31 of a period. -/
def heelDuty (s : State) (r : Rail) : Int :=
  let hs := held s r.val
  let now := rcNow s
  let on := hs.foldl (fun (a : Nat) h => a + s.pwm.phases[h].onIn (now - 65536) now) 0
  if hs.isEmpty then 0 else ((on * 2 ^ 31 / (hs.length * 65536) : Nat) : Int)

/-- A phase has been off for HOFF. -/
def restedFor (s : State) (r : Rail) (h : Phase) : Bool :=
  let t := s.pwm.phases[h].lastOn (rcNow s)
  t = 0 || decide (t + heelSteps (s.cfg.hoff r.val) ≤ rcNow s)

/-- The rail's window calls for a pulse: below the valley and not above the ceiling. -/
def valleyCalls (s : State) (r : Rail) : Bool :=
  let w := wires s (localWin r)
  s.fb[r].hact && w.low && !w.high

/-- The positions of the heel set, by their ORDER and from the next in rotation on, with their phases. -/
def rotation (s : State) (r : Rail) : List (Nat × Phase) :=
  let hs := (List.range (nActPlan s.cfg r.val)).filterMap fun k => (holder s r.val k).map fun h => (k, h)
  hs.filter (fun e => decide (s.fb[r].next ≤ e.1)) ++ hs.filter fun e => decide (e.1 < s.fb[r].next)

/-- The first on-pulse of a substitute ends the wait of its part of i_lost (rule 7 of R159). -/
def beginFall (r : Rail) (h : Phase) (s : State) : State :=
  let sub := s.pwm.phases[h].subfor
  s.upPwmRail r fun w =>
    { w with loss := w.loss.map fun l => if sub == some l.pos && l.wait.isNone then { l with wait := some 0 } else l }

/-- An on-pulse starts on the next position whose phase has rested, where the window calls for one. -/
def heelFire (r : Rail) (s : State) : State :=
  if !valleyCalls s r then s
  else match (rotation s r).find? fun e => !s.fb[r].firing.contains e.2 && restedFor s r e.2 with
    | none => s
    | some e =>
      let now := rcNow s
      let u : Pulse := { onAt := now, offAt := now + heelSteps (s.cfg.hton r.val), again := none }
      beginFall r e.2 <| (s.upPhase e.2 (·.fire now u)).upFb r fun f =>
        { f with next := e.1 + 1, firedAt := some now, firing := f.firing ++ [e.2] }

/-- A phase's pulse ends now: it drives LOW, or MID where its window's low comparator has tripped (R156,
R217). -/
def endPulse (h : Phase) (s : State) : State :=
  let low := (wires s ⟨h.val, by omega⟩).low
  s.upPhase h (·.level (rcNow s) (if low then .mid else .pulses))

/-- The on-time generator's pulse of a phase ends, whatever its width. -/
def heelEnd (r : Rail) (h : Phase) (s : State) : State :=
  if s.fb[r].firing.contains h then
    let now := rcNow s
    let s := s.upFb r fun b => { b with firing := b.firing.filter (· != h) }
    endPulse h (s.upPhase h fun p => { p with pulse := p.pulse.map fun u => { u with offAt := max u.onAt now } })
  else s

/-- The ceiling trips: every pulse in progress ends at once, a digital one that runs on too. -/
def ceilingTrips (r : Rail) (s : State) : State :=
  let now := rcNow s
  let s := s.each ((held s r.val).filter fun h =>
    s.pwm.phases[h].pulse.any fun u => decide (u.onAt ≤ now) && decide (now < u.offAt)) endPulse
  s.upFb r fun b => { b with firing := [] }

/-! ## Heel entry (R216, R217) -/

/-- What the phases do at heel entry (R217): a digital pulse ends at its off-edge or HTON after entry;
between pulses every held phase drives LOW, or MID where the low comparator of its window stands tripped (R156). -/
def heelPhases (r : Rail) (s : State) : State :=
  let now := rcNow s
  let limit := now + heelSteps (s.cfg.hton r.val)
  s.each (held s r.val) fun h => State.upPhase h fun p =>
    let q := p.single now
    let u := (q.pulse.filter fun u => decide (u.onAt ≤ now)).map fun u =>
      if now < u.offAt then { u with offAt := min u.offAt limit } else u
    { q with midNext := false, pulse := u }.between now (wires s ⟨h.val, by omega⟩).low

/-- Heel entry ends a pitching on the rail (R163); a phase that ramps in is racked again (R164), and where nobody
stands in for it the held positions can fall below NFLOOR (R161). Its descriptor ends with a code. -/
def stopPitching (code : Nat) (r : Rail) (s : State) : State :=
  match s.pwm.rails[r].admission with
  | none => s
  | some a =>
    let h := a.phase
    let was := rackedBit s.pwm.phases[h]
    let before := (held s r.val).length
    let s := s.upPhase h fun p => { p.level (rcNow s) .mid with state := .racked, ramp := false, weight := 64,
                                                                wStep := 0 }
    let s := if was then s else saveHealth s
    let s := match substituteOf s h with
      | some n => setWeight n 64 s
      | none => s
    let s := s.upPwmRail r fun w =>
      { w with act := putBit w.act h.val false, actNext := putBit w.actNext h.val false }
    floorCheck r before (endAdmit r h code s)

/-- The sequencer ramps a rail down (R195, R221). -/
def rampsDown (s : State) (r : Rail) : Bool :=
  s.prn.rails[r].seqown && s.seq.rails[idxOf r].state == .stop

/-- The setpoint path at heel entry (R193): the target becomes the REF that stands. The ramp of a take-down goes on
(R221). -/
def holdSetpoint (r : Rail) (s : State) : State :=
  let t := if rampsDown s r then s
    else s.upPrnRail r fun p => { p with tgt := BitVec.ofNat 16 (p.ref / 65536), notify := false }
  alertPorts (fun n => owns s n r) alSpheld t

/-- The rail passes to its heel loop (R216). -/
def heelEntry (r : Rail) (cause : Nat) (s : State) : State :=
  let s := (clearForecasts r s).upEngRail r fun e => { e with mode := .heel, track := 0 }
  let s := s.upFb r fun f =>
    { f with hact := true, hcause := BitVec.ofNat 4 cause, hent := f.hent + 1, freshRun := 0,
             firing := [], firedAt := none, path := if cause = 3 then .comparator else f.path }
  let s := stopPitching codeState r s
  let s := s.upPwmRail r fun w =>
    { w with opmode := if w.opmode == .light then .shed else w.opmode, lightNext := false,
             shedding := none, lightDwell := 0, dwell := 0, fcHold := 0 }
  let s := heelPhases r s
  let s := refreshPhases r (refreshCodes r (holdSetpoint r s))
  raise 0x67 (srcId 0x5 0x1 r.val 0 cause) 0 (heelFire r s)

/-- A rail that its heel loop carries passes to it again (R214, R216): one that is being tracked goes back to
HEEL, which it enters then (R193), and one that is in HEEL loses its return. -/
def heelAgain (r : Rail) (cause : Nat) (s : State) : State :=
  let s := if s.eng.rails[r].mode == .track then holdSetpoint r s else s
  let s := s.upEngRail r fun e => { e with mode := .heel, track := 0 }
  let s := s.upFb r fun f =>
    { f with hcause := BitVec.ofNat 4 cause, hent := f.hent + 1, freshRun := 0,
             path := if cause = 3 then .comparator else f.path }
  raise 0x67 (srcId 0x5 0x1 r.val 0 cause) 0 s

/-- A rail whose feedback moves to NONE: nothing regulates it any more (R214, R216). -/
def feedbackNone (r : Rail) (event : State → State) (s : State) : State :=
  let s := freeAdjudication r (s.upFb r fun f => { f with path := .none, hact := false, firing := [] })
  let s := (clearForecasts r s).upEngRail r fun e => { e with mode := .off, enabled := false, track := 0 }
  let s := stopPitching codeState r s
  let s := driveHeld r .mid s
  let s := refreshPhases r (refreshCodes r (event s))
  settle (runningFault (idxOf r) 4 0 true s)

/-- A rail that is regulating. -/
def regulating (s : State) (r : Rail) : Bool := s.eng.rails[r].mode != .off

/-- Causes 2 to 5 of R216. A rail in HEEL stays there: both paths lost end its return for good, and a domain
that turns off does while it is off (R221). -/
def passToHeel (r : Rail) (cause : Nat) (s : State) : State :=
  if !regulating s r then s
  else if s.eng.rails[r].mode == .track then heelAgain r cause s
  else if s.fb[r].hact then
    if cause = 3 then heelAgain r cause s
    else if cause = 5 && s.fb[r].hcause != 3 then s.upFb r fun f => { f with hcause := 5, freshRun := 0 }
    else s
  else if s.cfg.hen r.val then heelEntry r cause s
  else feedbackNone r (raise 0x66 (srcId 0x5 0x1 r.val 0 6) 0) s

/-- A heel loop that carries its rail has failed (R223). -/
def heelFailed (r : Rail) (elem cause : Nat) (s : State) : State :=
  feedbackNone r (raise 0x66 (srcId 0x5 0x1 r.val elem cause) 0) s

/-! ## Loss of a sense path (R209 to R214) -/

/-- The event of a lost path or a disagreement. -/
def raisePath (r : Rail) (elem cause : Nat) (s : State) : State :=
  raise (0x38 + r.val) (srcId 0x3 0x3 r.val elem cause) 0 s

/-- Both paths are lost (R214, R325). -/
def bothLost (r : Rail) (s : State) : State :=
  if !regulating s r then s
  else if !s.cfg.hen r.val then
    raiseClassA 0x66 (srcId 0x5 0x1 r.val 0 6) (s.upFb r fun f => { f with path := .none })
  else if !heelAvail s r then
    raiseClassA 0x66 (srcId 0x5 0x1 r.val 0 5) (s.upFb r fun f => { f with path := .none })
  else passToHeel r 3 s

/-- One path of a rail is marked lost, with its event. -/
def markLost (r : Rail) (remote : Bool) (cause : Nat) (s : State) : State :=
  let s := s.upFb r fun f =>
    if remote then { f with rlost := true, lcause := BitVec.ofNat 4 cause }
    else { f with llost := true, lcause := BitVec.ofNat 4 cause }
  raisePath r (if remote then 0 else 1) cause (freeAdjudication r s)

/-- What follows from the paths that are lost. -/
def switchPath (r : Rail) (s : State) : State :=
  let f := s.fb[r]
  if f.rlost && f.llost then bothLost r s
  else if f.rlost && f.path == .remote then s.upFb r fun f => { f with path := .local_ }
  else if f.llost && f.path == .local_ then s.upFb r fun f => { f with path := .remote }
  else s

/-- A path is lost (R214). -/
def losePath (r : Rail) (remote : Bool) (cause : Nat) (s : State) : State :=
  let f := s.fb[r]
  if (if remote then f.rlost else f.llost) then s else switchPath r (markLost r remote cause s)

/-- Both paths are lost together through the shared reference (R209, R213). -/
def loseReference (r : Rail) (cause : Nat) (s : State) : State :=
  let f := s.fb[r]
  if f.rlost && f.llost then s else
  let s := s.upFb r fun f => { f with rlost := true, llost := true, lcause := BitVec.ofNat 4 cause }
  bothLost r (raisePath r 2 cause (freeAdjudication r s))

/-- A rail with no owner regulates at VBOOT (R187): its target goes there as a SETPOINT at SLEWCAP would, once no
heel loop holds it (R193; log 61). -/
def followBoot (r : Rail) (s : State) : State :=
  let p := s.prn.rails[r]
  let boot := BitVec.ofNat 16 (s.cfg.vboot r.val)
  if s.cfg.ownen r.val || p.seqown || s.eng.rails[r].mode != .digital || p.tgt = boot then s
  else setTarget r boot (s.cfg.slewcap r.val) false s

/-! ## Return to the control law (R127, R154, R221) -/

/-- The number of positions that rule 1 of R153 gives, not below NMIN. -/
def ruleOne (s : State) (r : Rail) (iavg : Int) : Nat :=
  let g := s.cfg
  let held := (held s r.val).length
  let unit : Int := 100 * (g.iadd r.val : Int)
  let need := if iavg ≤ 0 ∨ unit = 0 then 0 else (-((-iavg) / unit)).toNat
  min held (max (g.nmin r.val) need)

/-- The rail begins to be tracked, unless both its paths are lost (R126, R221). -/
def enterTrack (r : Rail) (s : State) : State :=
  if s.fb[r].path == .comparator then s else s.upEngRail r fun e => { e with mode := .track, track := 0 }

end Sys2Proof.Machine
end

