-- ==== Sys2Proof/Machine/Engine.lean ====
section
/-!
DEFINITION. The lane pairs' arithmetic (R96 to R99), the control law (R100 to R108), forecasts (R118 to
R123), and the checks that ride on the error records (R208 to R213, R326).
-/

namespace Sys2Proof.Machine

/-! ## Arithmetic (R97, R98) -/

/-- A 32-bit signed value, and whether it had to be saturated (R99). -/
structure Sat where
  val : Int
  ovf : Bool
  deriving DecidableEq, Repr

/-- x saturated to 32 bits. -/
def sat32 (x : Int) : Sat := { val := satBits 32 x, ovf := satBits 32 x != x }

/-- C ⊗ x for a gain word (R98): the exact product, a rounded right shift and saturation. -/
def gain (w : Word) (x : Int) : Sat :=
  let c := sbitsOf w 5 27
  let s := bitsOf w 0 5
  sat32 (if s = 0 then x * c else (x * c + (2 ^ (s - 1) : Nat)) / (2 ^ s : Nat))

def Sat.add (a b : Sat) : Sat :=
  let c := sat32 (a.val + b.val)
  { val := c.val, ovf := a.ovf || b.ovf || c.ovf }

def Sat.sub (a b : Sat) : Sat :=
  let c := sat32 (a.val - b.val)
  { val := c.val, ovf := a.ovf || b.ovf || c.ovf }

def Sat.of (x : Int) : Sat := { val := x, ovf := false }

/-- A saturating sum in the order listed. -/
def Sat.sum (xs : List Sat) : Sat :=
  match xs with
  | [] => Sat.of 0
  | x :: xs => xs.foldl Sat.add x

/-- A term whose enable bit is 0 is taken as 0. -/
def Sat.when (c : Bool) (a : Sat) : Sat := if c then a else Sat.of 0

/-! ## Carrier positions (R100, R101) -/

/-- The full slot count of a STAMP, which lies at most 2^32 − 1 slots back. -/
def fullSlot (s : State) (stamp : Word) : Nat :=
  s.clk.slot - (s.clk.slot + 2 ^ 32 - stamp.toNat) % 2 ^ 32

/-- The position of a rail's reference carrier at a slot, in interpolator steps (R140). -/
def refSteps (s : State) (r slot : Nat) : Nat :=
  let p := periodSteps s.cfg r
  (slot * 64 + p - (s.clk.frame0 * 64 + targetOffset s.cfg r 0 1) % p) % p

/-- The 8-bit position of a rail's reference carrier at a slot. -/
def refPos (s : State) (r slot : Nat) : Nat := refSteps s r slot * 256 / periodSteps s.cfg r

/-- The 8-bit position of a phase's own carrier at a slot, measured on the nominal period (R59) and held
just below 1 while a period runs long. A slot before the present period lies in the period before it. -/
def phasePos (s : State) (h : Phase) (slot : Nat) : Nat :=
  let p := s.pwm.phases[h]
  let len := periodSteps s.cfg (railOf s.cfg h).val
  let d := if p.carrAt ≤ slot * 64 then slot * 64 - p.carrAt else p.prevLen - (p.carrAt - slot * 64)
  min 255 (d * 256 / len)

/-! ## The loop-lane arbiter and its replica (R59 to R62) -/

/-- The first slot whose sampling edge lies at or after an instant (R59, R73). -/
def dueSlot (g : Setup) (instant : Nat) : Nat :=
  if g.lpm then 4 * ceilDiv instant 256 else ceilDiv instant 64

/-- The service position of a slot (R37, R73). -/
def posOfSlot (g : Setup) (slot : Nat) : Pos := Fin.ofNat 16 (if g.lpm then slot / 4 else slot)

/-- The arbiter's order (R60): longest wait, error before current, lower rail, lower phase. -/
def laneKey (g : Setup) (d : LaneDue) : Nat :=
  match d.req with
  | .error r _ => d.due * 2048 + r.val * 64
  | .current h _ => d.due * 2048 + 1024 + (railOf g h).val * 64 + h.val

/-- A request in its place in that order. -/
def laneInsert (g : Setup) (d : LaneDue) : List LaneDue → List LaneDue
  | [] => [d]
  | e :: es => if laneKey g d < laneKey g e then d :: e :: es else e :: laneInsert g d es

/-- A position of n/d of a period in interpolator steps, rounded up, so that it falls due in the slot of the exact
instant. R59 does not say what a position of 1 or more is: the model takes it in the same period, less the
whole (log 55). -/
def targetStep (g : Setup) (r n d : Nat) : Nat := ceilDiv (n % d * periodSteps g r) d

/-- The target of error sample k and of current sample j in their carrier's period (R59). -/
def errTarget (g : Setup) (r k : Nat) : Nat :=
  targetStep g r (g.errpos r * errPer g r + 256 * k) (256 * errPer g r)
def curTarget (g : Setup) (r j : Nat) : Nat := targetStep g r (g.curpos r + 128 * j) 256

/-- The loop-lane targets of a period of h's carrier that starts at `start` (R59). -/
def laneTargets (s : State) (h : Phase) (start : Nat) : List LaneTarget :=
  let g := s.cfg
  let r := railOf g h
  if !g.llen r.val then [] else
  let errs := if g.order h.val = 0 && s.pwm.rails[r].opmode != .off then
      ((fins 8).filter fun k => k.val < errPer g r.val).map fun k =>
        { req := .error r k, carrier := h,
          instant := start + errTarget g r.val k.val }
    else []
  let curs := ((fins 2).filter fun j => j.val < curPer g r.val).map fun j =>
    { req := .current h j, carrier := h, instant := start + curTarget g r.val j.val }
  errs ++ curs

/-- The walk of a carrier toward its target (R150). -/
def walk (g : Setup) (r : Nat) (p : Phasor) : Phasor :=
  let per := periodSteps g r
  let most := per * g.angrate r / 1024
  let d := (p.target + per - p.offset) % per
  let p := { p with prevLen := p.carrLen }
  if d = 0 then { p with carrLen := per }
  else if 2 * d ≤ per then
    let k := min most d
    { p with carrLen := per + k, offset := (p.offset + k) % per }
  else
    let k := min most (per - d)
    { p with carrLen := per - k, offset := (p.offset + per - k) % per }

/-- A carrier runs, and its loop-lane requests with it: while its rail is enabled, or while its phase is pitched (R139,
R162; log 51). -/
def carrierRuns (s : State) (h : Phase) : Bool :=
  (s.cfg.role h.val != 0 && s.pwm.rails[railOf s.cfg h].opmode != .off) || s.pwm.phases[h].state == .pitching

/-- The targets of the carrier periods not yet begun, up to an instant, for at most n of them: each period is as long as
the carrier's walk makes it, and a target beyond its end falls due there (R59, R150). -/
def comingTargets (s : State) (h : Phase) (till : Nat) : Nat → Phasor → List LaneTarget
  | 0, _ => []
  | n + 1, p =>
    let start := p.carrAt + p.carrLen
    if till < start then []
    else
      let q := walk s.cfg (railOf s.cfg h).val { p with carrAt := start }
      (laneTargets s h start).map (fun t => { t with instant := min t.instant (start + q.carrLen) }) ++
        comingTargets s h till n q

/-- The targets known and to come up to an instant. The longest period is 16 of the shortest (R139). -/
def allTargets (s : State) (till : Nat) : List LaneTarget :=
  (s.adc.targets.map fun t =>
      let p := s.pwm.phases[t.carrier]
      { t with instant := min t.instant (p.carrAt + p.carrLen) }) ++
    ((fins 48).filter fun h => carrierRuns s h && s.pwm.phases[h].carrLen != 0).flatMap fun h =>
      comingTargets s h till 17 s.pwm.phases[h]

/-- The requests that wait or are to fall due up to an instant, in the arbiter's order. -/
def laneOrder (s : State) (till : Nat) : List LaneDue :=
  (s.adc.due ++ (allTargets s till).map fun t => (⟨t.req, dueSlot s.cfg t.instant⟩ : LaneDue)).foldl
    (fun xs d => laneInsert s.cfg d xs) []

/-- The slots for which a request may wait (R60, R73). -/
def laneLimit (g : Setup) : Nat := if g.lpm then 28 else 7

/-- The first slot from `slot` on that can take a request: one that carries a sample, at a position that
is not masked. -/
def openSlot (s : State) (slot : Nat) : Nat :=
  let step := if s.cfg.lpm then 4 else 1
  let first := if s.cfg.lpm then 4 * ceilDiv slot 4 else slot
  (((List.range 16).map fun k => first + step * k).find? fun t =>
    !hasBit s.adc.mask (posOfSlot s.cfg t).val).getD first

/-- The slot in which the arbiter will serve the first of these requests that meets `p`, the array being
free from `free` on. -/
def serveSlot (s : State) (p : LaneReq → Bool) : Nat → List LaneDue → Option Nat
  | _, [] => none
  | free, d :: ds =>
    let t := openSlot s (max free d.due)
    if d.due + laneLimit s.cfg < t then (if p d.req then none else serveSlot s p free ds)
    else if p d.req then some t
    else serveSlot s p (t + 1) ds

/-- The slot of the rail's next error-sample target after a slot (R59). -/
def nextTargetSlot (s : State) (r slot : Nat) : Nat :=
  let p := periodSteps s.cfg r
  let pos := refSteps s r slot
  let ahead := (List.range (errPer s.cfg r)).map fun k => (errTarget s.cfg r k + p - pos - 1) % p + 1
  dueSlot s.cfg (slot * 64 + ahead.foldl min p)

/-- The STAMP that the schedule of R61 expects of the rail's next error sample after a slot: that of a
conversion already made, and otherwise the slot in which the arbiter will serve the next request. -/
def nextSampleSlot (s : State) (r slot : Nat) : Nat :=
  let mine := fun (q : LaneReq) => match q with
    | .error k _ => k.val == r
    | _ => false
  match s.eng.sched.find? fun e => mine e.req && decide (slot < e.stamp) with
  | some e => e.stamp
  | none =>
    let t := nextTargetSlot s r slot
    let own : LaneDue := { req := .error (Fin.ofNat 8 r) 0, due := t }
    let xs := laneOrder s (64 * t + 64)
    let ys := if xs.any fun d => mine d.req then xs else laneInsert s.cfg own xs
    (serveSlot s mine s.clk.slot ys).getD t

/-! ## Banks and tables (R110, R115, R117) -/

def EngRail.word (e : EngRail) (k : Fin 32) : Word := e.active[k]

/-- Entry n of a packed table of signed 16-bit entries. -/
def tableEntry (t : Vector Word 32) (n : Nat) : Int :=
  sbitsOf t[Fin.ofNat 32 (n / 2)] (16 * (n % 2)) 16

def EngRail.ripple (e : EngRail) : Vector Word 32 := if e.table then e.ripple1 else e.ripple0
def EngRail.dead (e : EngRail) : Vector Word 32 := if e.table then e.dead1 else e.dead0

/-! ## Forecast terms (R120) -/

/-- The instant of a slot in quarter picoseconds. -/
def slotInstant (slot : Nat) : Int := 15625 * (slot : Int)

/-- vfc at a slot: the sum over the forecasts whose ramp runs then. -/
def vfcAt (e : EngRail) (slot : Nat) : Sat :=
  let t := slotInstant slot
  Sat.sum ((e.fcs.filter fun f => decide (f.tStart ≤ t) && decide (t < (f.tF : Int))).map fun f => Sat.of f.level)

/-! ## The head (R100, R104, R108) -/

/-- The boost band is active. -/
def Boost.isActive (b : Boost) : Bool := b == .activeOn || b == .activeOff

/-- The band's state as a head that sees e leaves it, and whether an active spell has just ended
(R104). -/
def boostHead (e : EngRail) (on : Bool) (x : Int) : Boost × Bool :=
  let thr := (e.word 15).toInt
  let rel := (e.word 16).toInt
  let bper := bitsOf (e.word 17) 0 8
  let brearm := bitsOf (e.word 17) 8 8
  if !on || thr ≤ 0 then (.armed, false)
  else
    let fresh : Boost := if x < -thr then .activeOn else if thr < x then .activeOff else .armed
    match e.boost with
    | .armed => (fresh, false)
    | .rearm => (if brearm ≤ e.boostCount && decide ((x.natAbs : Int) < rel) then .armed else .rearm, false)
    | b => if (x.natAbs : Int) < rel || bper ≤ e.boostCount then (.rearm, true) else (b, false)

/-- What a head computes. -/
structure Head where
  e : Int
  y1 : Int
  y2 : Int
  v : Int
  du : Int
  d : Int
  boost : Boost
  ended : Bool
  ovf : Bool
  deriving DecidableEq, Repr

/-- The head for an error value on the reference `ref` with the dither term `dith`. -/
def runHead (g : Setup) (r : Nat) (e : EngRail) (value : Int) (pos : Nat) (ref dith : Int) : Head :=
  let rip := Sat.when (g.ripen r) (gain (e.word 0) (tableEntry e.ripple (pos / 4)))
  let err := (Sat.of value).sub rip
  let y1 := Sat.sum [gain (e.word 1) err.val, Sat.of e.s11]
  let y2 := Sat.sum [gain (e.word 6) y1.val, Sat.of e.s21]
  let v := Sat.sum [Sat.of ref, Sat.of dith, Sat.of y2.val, Sat.of e.integ, Sat.of e.ff]
  let du := sat32 ((v.val * e.rvb + 2 ^ 19) / 2 ^ 20)
  let dmax := (e.word 27).toInt
  let dmin := (e.word 28).toInt
  let b := boostHead e (g.boosten r) err.val
  let d := match b.1 with
    | .activeOn => dmax
    | .activeOff => dmin
    | _ => clampInt dmin dmax du.val
  { e := err.val, y1 := y1.val, y2 := y2.val, v := v.val, du := du.val, d := d, boost := b.1,
    ended := b.2, ovf := err.ovf || y1.ovf || y2.ovf || v.ovf || du.ovf }

/-- The tail's new filter states, integrator and their saturation (R100). -/
def runTail (e : EngRail) (h : Head) : EngRail × Bool :=
  let s11 := ((gain (e.word 2) h.e).sub (gain (e.word 4) h.y1)).add (Sat.of e.s12)
  let s12 := (gain (e.word 3) h.e).sub (gain (e.word 5) h.y1)
  let s21 := ((gain (e.word 7) h.y1).sub (gain (e.word 9) h.y2)).add (Sat.of e.s22)
  let s22 := (gain (e.word 8) h.y1).sub (gain (e.word 10) h.y2)
  let aw := (Sat.of h.d).sub (Sat.of h.du)
  let int_ := Sat.sum [Sat.of e.integ, gain (e.word 11) h.e, gain (e.word 12) aw.val]
  let frozen := h.boost.isActive
  ({ e with s11 := s11.val, s12 := s12.val, s21 := s21.val, s22 := s22.val
            integ := if frozen then e.integ
              else clampInt (e.word 14).toInt (e.word 13).toInt int_.val },
   s11.ovf || s12.ovf || s21.ovf || s22.ovf || (!frozen && (aw.ovf || int_.ovf)))

/-- The feed-forward sum for the sample of a slot, and its saturation (R100, R106, R120). -/
def feedForward (g : Setup) (r : Nat) (e : EngRail) (slot : Nat) : Sat :=
  Sat.sum [Sat.when (g.ffs r) (gain (e.word 19) e.dref),
    Sat.when (g.fff r && !e.boost.isActive) (vfcAt e slot), gain (e.word 30) e.iLost]

/-- A duty as an on-time in interpolator steps (R141), at most 0xFFFD (R17). -/
def onTime (g : Setup) (r : Nat) (d : Int) : Nat :=
  min 0xFFFD ((2 * d * (periodSteps g r : Int) + 2 ^ 31) / 2 ^ 32).toNat

/-- The active set that the engine distributes to: that of a marker which it has applied and the PWM
subsystem not yet, and otherwise the set in force (R24). -/
def engActive (s : State) (r : Rail) : BitVec 48 :=
  let sets := s.fab.markers.filterMap fun m =>
    if m.targets.contains (.rail r) then none
    else m.changes.findSome? fun c => match c with
      | .activeSet r' act _ => if r' = r then some act else none
      | _ => none
  (sets.getLast?).getD s.pwm.rails[r].act

/-- A phase's command and the saturation of its sum (R99, R100, R108, R115, R116). -/
def phaseCmd (s : State) (r : Rail) (e : EngRail) (hd : Head) (slot : Nat) (h : Phase) : Cmd × Bool :=
  let g := s.cfg
  let p := s.pwm.phases[h]
  let sel := 32 * bit p.sinking + phasePos s h slot / 8
  let dt := if g.ffd r.val then tableEntry e.dead sel * 65536 else 0
  let sum := Sat.sum [Sat.of hd.d, Sat.of p.trim, Sat.of dt]
  let cmd := match hd.boost with
    | .activeOn => Cmd.on
    | .activeOff => Cmd.mid
    | _ => .time (onTime g r.val (clampInt (e.word 28).toInt (e.word 27).toInt sum.val))
  (cmd, sum.ovf)

/-! ## DUTY packets (R17) -/

/-- The 16 bits of a command. -/
def Cmd.code : Cmd → Nat
  | .time n => n
  | .mid => 0xFFFE
  | .on => 0xFFFF

/-- The command that 16 bits carry. -/
def cmdOf (n : Nat) : Cmd := if n = 0xFFFF then .on else if n = 0xFFFE then .mid else .time n

/-- The payload words that carry these commands by position, two to a word. -/
def dutyWords (codes : List (Nat × Nat)) (n : Nat) : List Word :=
  let at_ := fun (k : Nat) => ((codes.find? fun c => c.1 = k).map (·.2)).getD 0
  (List.range ((n + 1) / 2)).map fun k => packWord [(0, 16, at_ (2 * k)), (16, 16, at_ (2 * k + 1))]

/-- The DUTY packets of one error sample: one for up to 30 positions, and otherwise two. -/
def dutyPackets (s : State) (r : Rail) (slot : Nat) (cmds : List (Phase × Cmd)) : List DutyPkt :=
  let codes := cmds.map fun c => (dutyPlace s c.1, c.2.code)
  let n := codes.foldl (fun n c => max n (c.1 + 1)) (nActPlan s.cfg r.val)
  let ws := dutyWords codes n
  let pkt := fun (second : Bool) (ws : List Word) =>
    ({ rail := r, stamp := slot, second := second, words := ws, lost := false } : DutyPkt)
  if n ≤ 30 then [pkt false ws] else [pkt false (ws.take 15), pkt true (ws.drop 15)]

/-- The source of a lane pair's events for a rail. -/
def pairSrc (s : State) (r : Rail) (elem cell : Nat) : Word :=
  srcId 0x4 (s.cfg.pair r.val) r.val elem cell

/-- Saturation of R99: OVF, and event 0x61 the first time after a swap. -/
def noteOverflow (r : Rail) (ovf : Bool) (s : State) : State :=
  if ovf && !s.eng.rails[r].ovf then
    raise 0x61 (pairSrc s r 0 0) 0 (s.upEngRail r fun e => { e with ovf := true })
  else s

/-! ## Dither (R210) -/

/-- One draw. -/
def ditherDraw (x : BitVec 15) : BitVec 15 × Int :=
  let b := x.getLsbD 14 != x.getLsbD 13
  ((x <<< 1) ||| BitVec.ofNat 15 (bit b), if b then 1 else -1)

/-- The draw that a head begins with: at the first head and at every eighth after it, while DITHEN is 1. -/
def ditherHead (r : Rail) (s : State) : State :=
  let on := s.cfg.dithen r.val
  s.upFb r fun f =>
    if on && f.heads % 8 = 0 then
      let d := ditherDraw f.lfsr
      { f with lfsr := d.1, d := d.2, heads := f.heads + 1 }
    else { f with heads := f.heads + 1 }

/-! ## Heads on the record path -/

/-- The head of an active-path record, its DUTY message and its tail. `drive` is false in TRACK, where
the pair runs the law without driving the PWM (R126, R127). -/
def runLaw (r : Rail) (value : Int) (slot : Nat) (drive : Bool) (s : State) : State :=
  let g := s.cfg
  let s := ditherHead r s
  let e := s.eng.rails[r]
  let ref := deliveredRef s r
  let unit := ref / 2000
  let dith := if g.dithen r.val then s.fb[r].d * unit else 0
  let hd := runHead g r.val e value (refPos s r.val slot) ref dith
  let cmds := ((fins 48).filter fun h => hasBit (engActive s r) h.val).map fun h =>
    (h, phaseCmd s r e hd slot h)
  let ovf1 := hd.ovf || cmds.any fun c => c.2.2
  let tl := runTail e hd
  let e1 := { tl.1 with
    boost := hd.boost
    boostCount := if hd.boost = e.boost then e.boostCount else 0
    bcnt := if hd.ended then e.bcnt + 1 else e.bcnt
    dref := match e.refPrev with | some p => ref - p | none => 0
    refPrev := some ref
    lastE := some (hd.e, slot)
    lastD := hd.d }
  let ff := feedForward g r.val e1 (nextSampleSlot s r.val slot)
  let e2 := { e1 with ff := ff.val }
  let e3 := if drive then e2 else
    let dh := heelDuty s r
    let x := (dh * e2.vbus + 2 ^ 30) / 2 ^ 31 - ref - hd.y2 - e2.ff
    { e2 with integ := clampInt (e2.word 14).toInt (e2.word 13).toInt x, track := e2.track + 1 }
  let s := s.upEngRail r fun _ => e3
  let s := s.upFb r fun f =>
    { f with recent := ((slot, if g.dithen r.val && unit != 0 then f.d else 0) :: f.recent).take 8 }
  let s := if drive then
      s.upEng fun n =>
        { n with dutyQ := n.dutyQ ++ dutyPackets s r slot (cmds.map fun c => (c.1, c.2.1)) }
    else s
  noteOverflow r (ovf1 || tl.2 || ff.ovf) s

/-- The feed-forward update that a rack asks for (rule 5 of R159). -/
def updateFeedForward (r : Rail) (s : State) : State :=
  let e := s.eng.rails[r]
  let ff := feedForward s.cfg r.val e (nextSampleSlot s r.val s.clk.slot)
  noteOverflow r ff.ovf (s.upEngRail r fun e => { e with ff := ff.val })

/-- The rail returns to DIGITAL (R127): the bumpless state is the law's own, i_lost waits for this head no longer
(rule 5 of R159, R161), and the target is the one held, a SAFE action that has waited (R185) or, with no owner, VBOOT
(R187, R193). -/
def heelReturn (r : Rail) (s : State) : State :=
  let s := s.upEngRail r fun e => { e with mode := .digital, track := 0 }
  let s := s.upFb r fun f =>
    { f with hact := false, blind := false, firing := [], firedAt := none, freshRun := 0, stale := 0 }
  let act := if s.cfg.pwmMode r.val = 0 then phaseSet (held s r.val)
    else lowest s r.val (ruleOne s r s.pwm.rails[r].iAvg)
  let s := setActive r act s
  let before := s.eng.rails[r].iLost
  let s := sendLoss r <| s.upPwmRail r fun w => { w with loss := w.loss.map fun l => { l with sent := true } }
  let s := if s.eng.rails[r].iLost != before then updateFeedForward r s else s
  let waits := fun (n : Port) => s.cfg.ownen r.val && s.prn.ports[n].state == .lost
  let s := if s.prn.rails[r].safe.any waits then applySafe r s
    else followBoot r (s.upPrnRail r fun p => { p with safe := none })
  refreshPhases r (refreshCodes r s)

/-- A rack with the feed-forward update of its rail. -/
def rackPhase (h : Phase) (cause : Nat) (s : State) : State :=
  let r := railOf s.cfg h
  let t := rack h cause s
  if t.eng.rails[r].iLost != s.eng.rails[r].iLost then updateFeedForward r t else t

/-- While the heel loop carries the rail LIGHT is over, and while the boost band acts as well (R154). -/
def leaveLight (r : Rail) (extra : Int) (s : State) : State :=
  let w := s.pwm.rails[r]
  if w.lightNext then
    let n := ruleOne s r (w.iAvg + extra)
    sendActive r (lowest s r.val n) (s.upPwmRail r fun w =>
      { w with lightNext := false, dwell := 0, lightDwell := 0 })
  else s

/-! ## Absolute overvoltage (R326) -/

/-- A converted absolute result in 32 768ths of a microvolt: one count is 36.62109375 µV or four times
that. -/
def absScaled (g : Setup) (r : Nat) (v : Int) : Int := v * (if g.absdiv r then 4800000 else 1200000)

/-- A path's reading of the rail at or above VABS: through its latest fresh error record or its latest
fresh absolute result, no older than 1 ms. -/
def pathOver (s : State) (r : Rail) (c : PathCheck) : Bool :=
  let lim : Int := (s.cfg.vabs r.val : Int) * 62500
  let young := fun slot => decide (s.clk.slot - slot ≤ msSlots)
  (c.last.any fun p => young p.slot &&
      decide (lim ≤ deliveredRef s r * 1000 + p.value * 4578)) ||
    (c.absLast.any fun p => young p.2 && decide (lim * 32768 ≤ absScaled s.cfg r.val p.1 * 1000))

/-- The rail is in absolute overvoltage. -/
def overvolt (s : State) (r : Rail) : Bool :=
  s.cfg.oven r.val && !railOff s r && pathOver s r s.fb[r].remote && pathOver s r s.fb[r].local_

/-- The check of R326: the condition is raised where it begins. -/
def overvoltCheck (r : Rail) (s : State) : State :=
  let now := overvolt s r
  let t := s.upFb r fun f => { f with ovp := now }
  if now && !s.fb[r].ovp then raiseClassA (0x30 + r.val) (srcId 0x5 0x0 (railUnit s r) 0 3) t else t

/-! ## Checks on a fresh error record (R209 to R211) -/

/-- The check kept for a path. -/
def FbRail.check (f : FbRail) (remote : Bool) : PathCheck := if remote then f.remote else f.local_

def FbRail.upCheck (f : FbRail) (remote : Bool) (k : PathCheck → PathCheck) : FbRail :=
  if remote then { f with remote := k f.remote } else { f with local_ := k f.local_ }

/-- The path that a channel of a rail belongs to is the active one. -/
def onActive (f : FbRail) (remote : Bool) : Bool :=
  (remote && f.path == .remote) || (!remote && f.path == .local_)

/-- The range check (R209). The heel levels stand in W56 + r while the heel carries the rail, so that
the window reports no supervision then (R217). -/
def rangeCheck (r : Rail) (remote : Bool) (s : State) : State :=
  let f := s.fb[r]
  let me := f.check remote
  let other := f.check (!remote)
  let n := s.cfg.rgcnt r.val
  let inside := !f.hact && !(wires s (localWin r)).live
  if !inside || me.ranges < n then s
  else if !(other.last.any (·.range)) then losePath r remote 1 s
  else if n ≤ other.ranges then loseReference r 1 s
  else s

/-- The dither check (R210), which runs with DITHEN and XPATH at 1 (R225). -/
def ditherCheck (r : Rail) (remote : Bool) (value : Int) (slot : Nat) (s : State) : State :=
  if !s.cfg.dithen r.val || !s.cfg.xpath r.val then s else
  match (s.fb[r].recent.filter fun e => decide (e.1 < slot)) with
  | _ :: e :: _ =>
    if e.2 = 0 then s.upFb r fun f => f.upCheck remote fun c => { c with dsum := 0, dcount := 0 }
    else
      let c := s.fb[r].check remote
      let sum := c.dsum + value * e.2
      if c.dcount + 1 < 256 then
        s.upFb r fun f => f.upCheck remote fun c => { c with dsum := sum, dcount := c.dcount + 1 }
      else
        let s := s.upFb r fun f => f.upCheck remote fun c => { c with dsum := 0, dcount := 0 }
        if sum < 16 * (s.cfg.dcmin r.val : Int) then losePath r remote 2 s else s
  | _ => s

/-- The limit of R211 in thousandths of a microvolt. -/
def plausLimit (s : State) (r : Rail) : Int :=
  (s.cfg.plim r.val : Int) * (deliveredRef s r / 2000) * 1000

/-- A path's converter reading in nV: the delivered reference plus e (R212). -/
def pathNv (s : State) (r : Rail) (e : Int) : Int := deliveredRef s r * 1000 + e * 4578

/-- The slots of an adjudication's conversions at one ball: 16 of 10 comparisons, 100 ns apiece (R212). -/
def ballSlots : Nat := 4096

/-- A fresh record of a path joins the reading that an adjudication compares with its ball: the local pair comes
first, and then the remote one (R212). The reading, in nV, is the delivered reference of the record's own instant plus
e. -/
def joinBall (r : Rail) (remote : Bool) (value : Int) (slot : Nat) (s : State) : State :=
  let f := s.fb[r]
  let start := if remote then f.adjAt + ballSlots else f.adjAt
  if f.adj && decide (start ≤ slot) && decide (slot < start + ballSlots) then
    s.upFb r fun f => f.upCheck remote fun c => { c with ballSum := c.ballSum + pathNv s r value, ballN := c.ballN + 1 }
  else s

/-- An adjudication starts (R211, R241, R242). -/
def startAdjudication (r : Rail) (s : State) : State :=
  let s := s.upFb r fun f => { f with adj := true, disagree := 0 }
  match freeSteepWindow s with
  | some _ => takeSteep r s
  | none => raiseNoSteep (s.upCmp fun c =>
      { c with adjWait := (fins 8).filter fun k => k = r || c.adjWait.contains k })

/-- The plausibility check at a fresh inactive-path record (R211). -/
def disagreeCheck (r : Rail) (s : State) : State :=
  let f := s.fb[r]
  if f.rlost || f.llost || f.adj then s else
  match f.local_.last, f.remote.last with
  | some l, some m =>
    let d := (l.value - m.value) * 4578 - s.pwm.rails[r].iAvg * (s.cfg.rdrop r.val : Int)
    if plausLimit s r < (d.natAbs : Int) then
      if 4 ≤ f.disagree + 1 then startAdjudication r s
      else s.upFb r fun f => { f with disagree := f.disagree + 1 }
    else s.upFb r fun f => { f with disagree := 0 }
  | _, _ => s

/-! ## Stale records (R21, R95, R208) -/

/-- A stale error record of a rail, or one that is missing. -/
def staleError (r : Rail) (s : State) : State :=
  let m := s.eng.rails[r].mode
  let s := s.upFb r fun f => { f with freshRun := 0 }
  if m == .digital || m == .track then
    let n := s.fb[r].stale + 1
    let s := s.upFb r fun f => { f with stale := n }
    if s.cfg.blind r.val ≤ n && !s.fb[r].blind then passToHeel r 2 (s.upFb r fun f => { f with blind := true }) else s
  else s

end Sys2Proof.Machine
end

