-- ==== Sys2Proof/Machine/Phases.lean ====
section
/-!
DEFINITION. The phase subsystem's commands (04): DUTY packets, carrier periods with the SHED and LIGHT
rules, stage faults, phase plans and pitching.
-/

namespace Sys2Proof.Machine

/-! ## On-pulses (R141 to R143) -/

/-- The PWM subsystem drives the rail's phases from its commands: enabled, not by the heel loop, and not left
without feedback. -/
def pwmDriven (s : State) (r : Rail) : Bool :=
  s.pwm.rails[r].opmode != .off && !s.fb[r].hact && s.fb[r].path != .none

/-- TONMIN, TONMAX and TOFFMIN in interpolator steps. -/
def tonMin (s : State) (r : Rail) : Nat := s.cfg.tonmin r.val * 8
def tonMax (s : State) (r : Rail) : Nat := s.cfg.tonmax r.val * 8
def toffMin (s : State) (r : Rail) : Nat := s.cfg.toffmin r.val * 8

/-- An on-time under TONMIN and TONMAX. -/
def boundOn (s : State) (r : Rail) (n : Nat) : Nat := min (max n (tonMin s r)) (tonMax s r)

/-- The pulse of this on-time is one that LIGHT skips. -/
def lightSkips (s : State) (r : Rail) (n : Nat) : Bool :=
  decide (n < tonMin s r) && s.pwm.rails[r].opmode == .light

/-- The on-pulse of the phase's present carrier period for an on-time (R141, R143): an off-edge leaves TOFFMIN
before the next on-edge. -/
def pulseOf (s : State) (r : Rail) (h : Phasor) (n : Nat) : Pulse :=
  let start := h.carrAt + rcLead s
  let on := if s.cfg.dual r.val then start + periodSteps s.cfg r.val / 2 - n / 2 else start
  { onAt := on, offAt := min (on + n) (on + h.carrLen - toffMin s r), again := none }

/-- The pulses of a phase that the boost band forces on, from `a` on (R143). -/
def trainFrom (s : State) (r : Rail) (a : Nat) : Pulse :=
  { onAt := a, offAt := a + tonMax s r, again := some (toffMin s r) }

/-- The first step from `a` on at which the phase has been off for TOFFMIN. -/
def afterOff (s : State) (r : Rail) (p : Phasor) (a : Nat) : Nat :=
  if p.lastOn (rcNow s) = 0 then a else max a (p.lastOn (rcNow s) + toffMin s r)

/-- The next CK_PWM tick, of 8 interpolator steps. -/
def nextTick (s : State) : Nat := rcNow s + 8

/-- The pulse has begun and not ended. -/
def Pulse.inForce (u : Pulse) (now : Nat) : Bool := decide (u.onAt ≤ now) && decide (now < u.offAt)

/-- A phase is at MID for the rest of its period (R143, R156). -/
def Phasor.rests (p : Phasor) (now : Nat) : Bool :=
  (p.cmd != .mid && p.drive == .mid) || (p.drive == .pulsesMid && p.pulse.all fun u => decide (u.offAt ≤ now))

/-- A forced-on command reaches a phase (R143): a pulse in progress goes on to TONMAX, and another begins as
soon as TOFFMIN allows; with the low limit tripped MID follows the one pulse (R156). A phase whose first carrier
period has not begun waits for it (R148). -/
def forceOn (s : State) (r : Rail) (p : Phasor) : Phasor :=
  let now := rcNow s
  let a := match p.pulse with
    | some u => if u.inForce now then u.onAt else afterOff s r p (nextTick s)
    | none => afterOff s r p (nextTick s)
  if p.periods = 0 || p.rests now || (p.pulse.any (·.again.isSome)) then p
  else
    let q := if p.pulse.any (·.inForce now) then p else p.retire now
    if p.drive == .pulsesMid then { q with pulse := some { trainFrom s r a with again := none } }
    else { q with drive := .pulses, pulse := some (trainFrom s r a) }

/-- An on-time reaches a pulse in progress, which it no longer skips: off at the edge that the command gives, with the
limits of R143 counted from the pulse's own on-edge, or at the next tick where that has passed (R141; log 52). -/
def retime (s : State) (r : Rail) (n : Nat) (u : Pulse) (p : Phasor) : Phasor :=
  let v := pulseOf s r p (boundOn s r n)
  let b := if s.cfg.dual r.val then min (max v.offAt (u.onAt + tonMin s r)) (u.onAt + tonMax s r)
    else u.onAt + boundOn s r n
  { p with pulse := some { u with offAt := max (min b (v.onAt + p.carrLen - toffMin s r)) (nextTick s) } }

/-- An on-time reaches a phase before the pulse of its period (R141 to R143). -/
def replanPulse (s : State) (r : Rail) (n : Nat) (p : Phasor) : Phasor :=
  let v := pulseOf s r p (boundOn s r n)
  if lightSkips s r n then p.level (rcNow s) .mid
  else if nextTick s < v.offAt then
    { p.retire (rcNow s) with pulse := some { v with onAt := max v.onAt (nextTick s) } }
  else p.retire (rcNow s)

/-- A timed command reaches a phase (R142): it acts on the pulse in progress or due, and on the next period
otherwise. A phase at MID for the rest of its period stays there; one that the boost band held at MID has a
dual-edge pulse still due where none has begun in the period. -/
def loadTime (s : State) (r : Rail) (n : Nat) (q : Phasor) : Phasor :=
  let now := rcNow s
  let p := q.single now
  match p.pulse with
  | some u =>
    if now < u.onAt then replanPulse s r n p
    else if now < u.offAt then retime s r n u p
    else p
  | none =>
    if p.periods = 0 || p.rests now then p
    else if s.cfg.dual r.val && p.cmd == .mid && !p.firedSince (p.carrAt + rcLead s) now then
      replanPulse s r n { p with drive := .pulses }
    else { p with drive := .pulses }

/-- A command reaches a phase. -/
def loadCmd (s : State) (r : Rail) (c : Cmd) (p : Phasor) : Phasor :=
  match c with
  | .mid => { p.level (rcNow s) .mid with cmd := c }
  | .on => { forceOn s r p with cmd := c }
  | .time n => { loadTime s r n p with cmd := c }

/-! ## DUTY packets (R16, R17, R141) -/

/-- The 16 bits that packets carry for a position, if they carry it. -/
def codeAt (ps : List DutyPkt) (k : Nat) : Option Nat :=
  ps.findSome? fun p =>
    let i := if p.second then k - 30 else k
    if (p.second && decide (k < 30)) then none
    else (p.words[i / 2]?).map fun w => bitsOf w (16 * (i % 2)) 16

/-- DUTY packets load the compare registers of the active phases (R17, R141). -/
def loadDuty (r : Rail) (ps : List DutyPkt) (s : State) : State :=
  if !pwmDriven s r then s else
  s.each (fins 48) fun h s =>
    let p := s.pwm.phases[h]
    if hasBit s.pwm.rails[r].act h.val && p.state == .active && !p.midNext then
      match codeAt ps (dutyPlace s h) with
      | some n => s.upPhase h (loadCmd s r (cmdOf n))
      | none => s
    else s

/-- A marker stands before a packet in the DUTY stream: the engine has taken it and the PWM subsystem is
still to (R24). -/
def behindMarker (s : State) (d : DutyPkt) : Bool :=
  s.fab.markers.any fun m =>
    m.targets.contains .pwm && !m.targets.contains .engine && !m.targets.contains (.rail d.rail) &&
      (m.rails = 0 || hasBit m.rails d.rail.val) && m.bstamp.any fun b => decide (b ≤ d.stamp)

/-- The packets of the oldest sample of a rail that are on their way: its first, and its second where it has
one. -/
def nextDuty (s : State) (r : Rail) : List DutyPkt :=
  let mine := s.eng.dutyQ.filter fun d => d.rail = r && !d.lost
  match mine with
  | [] => []
  | d :: _ => mine.filter fun e => e.stamp = d.stamp

/-- A packet is no longer on its way. -/
def dropDuty (d : DutyPkt) (s : State) : State :=
  s.upEng fun e => { e with dutyQ := e.dutyQ.erase d }

/-- The gap in SEQ tells of n packets of a rail that went before: they are lost (R16). -/
def missDuty (r : Rail) : Nat → State → State
  | 0, s => s
  | n + 1, s => match s.eng.dutyQ.find? fun d => d.rail = r with
    | some d => missDuty r n (dropDuty d s)
    | none => s

/-- The header names this rail's packet: subsystem 0x4 and the unit of the rail (R14, R17). -/
def namesRail (hdr : Word) (r : Rail) : Bool :=
  bitsOf hdr 10 4 = 4 && bitsOf hdr 0 6 = r.val

/-- A packet on its way meets the check of R16: what the PWM subsystem takes of it. One that is lost stays
in the stream until the gap is seen. -/
def hearDuty (d : DutyPkt) (hdr : Option Word) (s : State) : State × List DutyPkt :=
  match hdr with
  | none => (s.upEng fun e => { e with dutyQ := e.dutyQ.map fun x => if x = d then { x with lost := true } else x }, [])
  | some w =>
    if !namesRail w d.rail then (s, [])
    else
      let h := hear .pwm 8 (fun len => decide (len = d.words.length)) w s
      match h.2 with
      | .inOrder => (dropDuty d h.1, [d])
      | .missing n => (missDuty d.rail n (raiseFabric .pwm d.rail 0 (dropDuty d h.1)), [d])
      | .repeated => (raiseFabric .pwm d.rail 0 h.1, [])
      | .refused => (raiseFabric .pwm d.rail 0 h.1, [])

/-- DUTY (R141): the packets of one error sample cross to the PWM subsystem in one slot, the second where the
rail has more than 30 positions (R17). They do not pass a marker that stands before them (R24). -/
def execDuty (r : Rail) (hdrs : DutyHeaders) (s : State) : Res :=
  .next <|
    match nextDuty s r with
    | [] => s
    | d :: ds =>
      if !domOn s pdPwm || behindMarker s d then s
      else
        let a := hearDuty d (if d.second then hdrs.second else hdrs.first) s
        let b := match ds with
          | e :: _ => hearDuty e hdrs.second a.1
          | [] => (a.1, [])
        loadDuty r (a.2 ++ b.2) b.1

/-! ## The rail's period (R152 to R155, R159) -/

/-- I, the sum over the active positions (R152). -/
def railCurrent (s : State) (r : Rail) : Int :=
  (carrying s r).foldl (fun a h => a + phaseMilliamps s.cfg r.val s.pwm.phases[h]) 0

/-- I and I_avg at a start of the reference carrier's period. -/
def averageCurrent (r : Rail) (s : State) : State :=
  let i := railCurrent s r
  let n := 2 ^ s.cfg.iavgx r.val
  s.upPwmRail r fun w =>
    let h := (i :: w.iHist).take n
    { w with iHist := h, iAvg := h.foldl (· + ·) 0 / (h.length : Int) }

/-- The targets i_tgt of the active phases (R155). -/
def shareTargets (r : Rail) (s : State) : State :=
  let hs := carrying s r
  let total := hs.foldl (fun (a : Int) h =>
    a + ((s.pwm.phases[h].cur.getD 0) - s.pwm.phases[h].zofs.toInt)) 0
  let ws := hs.foldl (fun (a : Nat) h => a + s.pwm.phases[h].weight) 0
  s.each hs fun h => State.upPhase h fun p =>
    { p with iTgt := if ws = 0 then 0 else total * (p.weight : Int) / (ws : Int) }

/-- A part of i_lost at a start of the rail's period: it waits, falls, or is over (rule 7 of R159). -/
def Loss.period (l : Loss) : Option Loss :=
  if !l.sent then some l
  else match l.wait with
    | none => some l
    | some (k + 1) => some { l with wait := some k }
    | some 0 => if l.left ≤ 1 then none else some { l with left := l.left - 1 }

/-- The fall of i_lost. -/
def lossPeriod (r : Rail) (s : State) : State :=
  if s.pwm.rails[r].loss.isEmpty then s
  else sendLoss r (s.upPwmRail r fun w => { w with loss := w.loss.filterMap Loss.period })

/-- A position is no longer being shed. -/
def stopShedding (r : Rail) (s : State) : State :=
  match s.pwm.rails[r].shedding with
  | some e => setWeight e.1 64 (s.upPwmRail r fun w => { w with shedding := none, dwell := 0 })
  | none => s.upPwmRail r fun w => { w with dwell := 0 }

/-- The held positions that a set leaves inactive, by the phases that hold them. -/
def inactiveHeld (s : State) (r : Rail) (act : BitVec 48) : List Phase :=
  (held s r.val).filter fun h =>
    !hasBit act h.val && !((substituteOf s h).any fun n => hasBit act n.val)

/-- Rule 1 of R153: the positions that the current calls for join at once. -/
def addPositions (r : Rail) (n m : Nat) (s : State) : State :=
  let act := s.pwm.rails[r].actNext
  if n < m then sendActive r (act ||| phaseSet ((inactiveHeld s r act).take (m - n))) s else s

/-- A step of the fall of a shed position's share: 8 periods, and then the marker by which it leaves (rule 3 of
R153). -/
def shedStep (r : Rail) (h : Phase) (left : Nat) (s : State) : State :=
  let s := setWeight h (8 * (left - 1)) s
  if left ≤ 1 then
    sendActive r (dropPosition s s.pwm.rails[r].actNext h)
      (s.upPwmRail r fun w => { w with shedding := none, dwell := 0 })
  else s.upPwmRail r fun w => { w with shedding := some (h, left - 1) }

/-- The shedding rule (R153), with the active set that every marker under way leads to. -/
def shedRule (r : Rail) (s : State) : State :=
  let g := s.cfg
  let w := s.pwm.rails[r]
  let act := activeIn s r.val w.actNext
  let n := act.length
  let heldN := (held s r.val).length
  let add : Int := 100 * (g.iadd r.val : Int)
  let shed : Int := 100 * (g.ished r.val : Int)
  if (n : Int) * add < w.iAvg then
    addPositions r n (min heldN (-((-w.iAvg) / add)).toNat) (stopShedding r s)
  else match w.shedding with
    | some e => shedStep r e.1 e.2 s
    | none =>
      if w.iAvg < ((n : Int) - 1) * shed && g.nmin r.val < n then
        if g.shdwell r.val ≤ w.dwell + 1 && w.fcHold ≤ s.clk.slot then
          match act.getLast? with
          | some h => s.upPwmRail r fun w => { w with dwell := 0, shedding := some (h, 8) }
          | none => s
        else s.upPwmRail r fun w => { w with dwell := w.dwell + 1 }
      else s.upPwmRail r fun w => { w with dwell := 0 }

/-- The entry into and the exit from the LIGHT state (R154). Like the shedding of a position, entry waits for t_f of a
forecast step, where the planner has asked for it (R119; log 20). -/
def lightRule (r : Rail) (s : State) : State :=
  let g := s.cfg
  let w := s.pwm.rails[r]
  let il : Int := 100 * (g.ilight r.val : Int)
  if w.lightNext then (if 2 * il < w.iAvg then leaveLight r 0 s else s)
  else if g.pwmMode r.val = 2 && w.iAvg < il then
    if g.shdwell r.val ≤ w.lightDwell + 1 && w.fcHold ≤ s.clk.slot then
      let s := stopShedding r (s.upPwmRail r fun w => { w with lightNext := true, lightDwell := 0 })
      sendActive r (lowest s r.val 1) s
    else s.upPwmRail r fun w => { w with lightDwell := w.lightDwell + 1 }
  else s.upPwmRail r fun w => { w with lightDwell := 0 }

/-- The boost band's count of periods, and its re-arming (R104). -/
def boostPeriod (r : Rail) (s : State) : State :=
  s.upEngRail r fun e =>
    let n := e.boostCount + 1
    let brearm := bitsOf (e.word 17) 8 8
    let rel := (e.word 16).toInt
    if e.boost == .rearm && brearm ≤ n && e.lastE.any (fun x => decide ((x.1.natAbs : Int) < rel)) then
      { e with boost := .armed, boostCount := 0 }
    else { e with boostCount := n }

/-- The modes at a start of the reference carrier's period (R153, R154). -/
def modeRules (r : Rail) (s : State) : State :=
  if s.fb[r].hact || s.cfg.pwmMode r.val = 0 then s
  else if s.pwm.rails[r].lightNext then lightRule r s
  else
    let t := lightRule r s
    if t.pwm.rails[r].lightNext then t else shedRule r t

/-- What a start of the reference carrier's period does for its rail. -/
def railPeriod (r : Rail) (s : State) : State :=
  let s := s.upPwmRail r fun w => { w with rackedNow := [] }
  shareTargets r (modeRules r (lossPeriod r (boostPeriod r (averageCurrent r s))))

/-! ## A carrier's period (R59, R149, R150, R156) -/

/-- The loop lane's part of a new period: requests whose period ended before their instant fall due at
its end (R59). -/
def renewTargets (h : Phase) (start : Nat) (s : State) : State :=
  let new := laneTargets s h start
  s.upAdc fun a =>
    { a with targets := (a.targets.map fun t =>
        if t.carrier = h then { t with instant := min t.instant start } else t) ++ new }

/-- The pulse that a new period brings to an active phase (R141 to R143). With the high comparator of its window
still tripped the pulse ends as it begins, and with the low one MID stands around it (R156; log 67). -/
def newPulse (s : State) (r : Rail) (low high : Bool) (q : Phasor) : Phasor :=
  let now := rcNow s
  let a := afterOff s r q (q.carrAt + rcLead s)
  match q.cmd with
  | .mid => q.level now .mid
  | .on =>
    if high then q.level now .pulses
    else if low then { q.fire now { trainFrom s r a with again := none } with drive := .pulsesMid }
    else if q.pulse.any (·.again.isSome) then q
    else q.fire now (trainFrom s r a)
  | .time n =>
    if lightSkips s r n then q.level now .mid
    else if high then q.level now .pulses
    else
      { (q.single now).fire now (pulseOf s r q (boundOn s r n)) with drive := if low then .pulsesMid else .pulses }

/-- The window's latch in PERIOD mode at a carrier start: it clears where the window is good (R236). -/
def clearPeriodLatch (h : Phase) (s : State) : State :=
  let w : Window := ⟨h.val, by omega⟩
  if s.cfg.lmode h.val && !(wires s w).live then
    s.upWin (wireWindow s w) fun x => { x with latch := false }
  else s

/-- Whether the window of a phase counts as tripped at this instant (R156). -/
def tripsNow (s : State) (r : Rail) (h : Phase) : Bool :=
  let w := wires s ⟨h.val, by omega⟩
  w.high || (w.low && !(s.pwm.rails[r].opmode == .light && hasBit s.pwm.rails[r].act h.val))

/-- The window trips of the last RKWIN periods (R156). -/
def countTrips (g : Setup) (r : Nat) (t : BitVec 16) : Nat :=
  ((List.range (g.rkwin r)).filter fun k => hasBit t k).length

/-- The start of the present period of h's carrier: where the period before it ends, or where the carrier's
place in the common frame gives it. -/
def periodStart (s : State) (h : Phase) : Nat :=
  let per := periodSteps s.cfg (railOf s.cfg h).val
  let p := s.pwm.phases[h]
  let due := p.carrAt + p.carrLen
  if p.carrLen ≠ 0 && due ≤ stepNow s + per && stepNow s ≤ due + per then due
  else carrierStart s.clk.frame0 per p.offset (stepNow s)

/-- A new period of h's carrier begins: its loop-lane requests and its length (R59, R150). -/
def newPeriod (h : Phase) (s : State) : State :=
  let start := periodStart s h
  (renewTargets h start s).upPhase h fun p => walk s.cfg (railOf s.cfg h).val { p with carrAt := start }

/-- What a phase drives from a start of its carrier period on (R141, R159). -/
def drivePeriod (s : State) (r : Rail) (low high : Bool) (p : Phasor) : Phasor :=
  let p := if p.state == .active then
      { p with weight := (clampInt 0 64 ((p.weight : Int) + p.wStep)).toNat, periods := p.periods + 1 }
    else p
  if p.midNext then { p.level (rcNow s) .mid with midNext := false }
  else if p.state == .active && pwmDriven s r then newPulse s r low high p
  else p

/-- A period in which a phase has an on-pulse, its first of them or not: a substitute's ends the wait of its part of
i_lost (rule 7 of R159). -/
def firstPulse (r : Rail) (h : Phase) (s : State) : State :=
  if s.pwm.phases[h].state == .active && s.pwm.phases[h].pulse.isSome then beginFall r h s else s

/-- A start of h's carrier period while its rail is enabled. -/
def carrierStarts (h : Phase) (s : State) : State :=
  let g := s.cfg
  let r := railOf g h
  let p := s.pwm.phases[h]
  let trips := (p.trips <<< 1) ||| BitVec.ofNat 16 (bit p.tripped)
  let s := newPeriod h s
  let w := wires s ⟨h.val, by omega⟩
  let s := s.upPhase h fun p => drivePeriod s r w.low w.high { p with trips := trips }
  let s := clearPeriodLatch h (firstPulse r h s)
  let s := s.upPhase h fun p => { p with tripped := tripsNow s r h }
  let s := if g.rktrip r.val ≤ countTrips g r.val trips then rackPhase h 1 s else s
  if g.order h.val = 0 then railPeriod r s else s

/-- CARRIER_PERIOD_START (R153). A phase without a running carrier has its latch cleared by the common
frame (R236); one that is pitched on a rail that is off has its current sampled on it (log 51). -/
def execCarrierPeriodStart (h : Phase) (s : State) : Res :=
  .next <|
    if !domOn s pdPwm then s
    else if s.cfg.role h.val != 0 && s.pwm.rails[railOf s.cfg h].opmode != .off then carrierStarts h s
    else if s.pwm.phases[h].state == .pitching then clearPeriodLatch h (newPeriod h s)
    else clearPeriodLatch h s

/-! ## Stage faults (R138, R158) -/

/-- STAGE_FAULT (R138). A phase whose offset is being measured keeps the fault for the end of its
samples (R162). -/
def execStageFault (h : Phase) (s : State) : Res :=
  .next <|
    if !domOn s pdPwm || !s.cfg.stfen h.val || s.cfg.role h.val = 0 then s
    else if s.pwm.phases[h].state == .pitching then s.upPhase h fun p => { p with zFault := true }
    else rackPhase h 3 s

/-! ## Phase plans (R146, R147) -/

/-- PHASE_PLAN (R146, R327). -/
def execPhasePlan (q : Ring) (buf : List Word) (s : State) : Res :=
  .next <| match ready s q 0x28 with
  | none => s
  | some d => runSet .pwm phasePlanOffs (fun s ws => checkRegulating s .pwm ws) q buf d s

/-- PWM_COMMIT (R146). -/
def execPwmCommit (m : Master) (v : Word) (s : State) : Res := .next (writeCommit .pwm m v s)

/-- A phase's state when a plan has taken effect: its planned role where that changed, but a racked phase stays
racked (R147). -/
def planPhase (s : State) (h : Phase) (q : Phasor) : Phasor :=
  let g := s.cfg
  let standsFor := fun (n : Phase) => g.role h.val = 2 && g.role n.val = 1 && g.phRail n.val = g.phRail h.val
  let p := { q with subfor := q.subfor.filter standsFor }
  if outOfService p then p
  else if g.role h.val = 0 then { p.level (rcNow s) .mid with state := .unused }
  else if p.state == .unused then
    { p.level (rcNow s) .mid with state := if g.role h.val = 2 then .steep else .idle }
  else p

/-- The modes that a plan gives the enabled rails (R147, R151). -/
def replanRail (r : Rail) (s : State) : State :=
  let w := s.pwm.rails[r]
  if w.opmode == .off then showStates r s
  else if s.fb[r].hact then
    s.upPwmRail r fun w => { w with opmode := if s.cfg.pwmMode r.val = 0 then .full else .shed }
  else if s.cfg.pwmMode r.val = 0 then
    setActive r (phaseSet (held s r.val)) (stopShedding r
      (s.upPwmRail r fun w => { w with opmode := .full, lightNext := false }))
  else if w.lightNext && s.cfg.pwmMode r.val = 1 then
    setActive r (lowest s r.val (ruleOne s r w.iAvg))
      (s.upPwmRail r fun w => { w with opmode := .shed, lightNext := false })
  else if w.opmode == .full then s.upPwmRail r fun w => { w with opmode := .shed }
  else s

/-- The phase subsystem takes a plan that has become live. -/
def replan (s : State) : State :=
  let s := s.each (fins 48) fun h s => s.upPhase h (planPhase s h)
  refreshAll (s.each (fins 8) replanRail)

/-- A marker's active set takes effect (R148), and with it the low level of the LIGHT phase's window (R151). Phases
racked in the meantime stay out. A marker issued before a plan took effect leaves a rail in the mode of that plan:
LIGHT is for MODE LIGHT, and in FULL no held position falls away. -/
def applyActive (r : Rail) (act : BitVec 48) (light : Bool) (s : State) : State :=
  let w := s.pwm.rails[r]
  if w.opmode == .off || s.fb[r].hact then s else
  let mode := s.cfg.pwmMode r.val
  let stays := if mode = 0 then w.act &&& phaseSet (held s r.val) else 0
  let ok := phaseSet ((fins 48).filter fun h => hasBit (act ||| stays) h.val && !outOfService s.pwm.phases[h])
  let s := setActive r ok s
  refreshPhases r <| s.upPwmRail r fun k =>
    { k with actNext := w.actNext,
             opmode := if light && mode = 2 then .light else if mode = 0 then .full else .shed }

/-! ## Pitching (R162, R163) -/

/-- PHASE_ADMIT (R162, R327). `csHigh` tells that CSnn stands at or above 1.15 V. -/
def execPhaseAdmit (q : Ring) (csHigh : Bool) (s : State) : Res :=
  .next <| match ready s q 0x29 with
  | none => s
  | some d =>
    let n := d.pf 0 6
    if h : n < 48 then
      let ph : Phase := ⟨n, h⟩
      let r := railOf s.cfg ph
      let p := s.pwm.phases[ph]
      let m := s.eng.rails[r].mode
      if s.flt.classA || p.state != .racked || m == .heel || m == .track then complete q codeState 0 s
      else if s.pwm.rails[r].admission.isSome then complete q codeBusy 0 s
      else if csHigh || !(m == .digital || railOff s r) then complete q codeState 0 s
      else
        let s := act_ q s
        let s := s.upPwmRail r fun w => { w with admission := some { ring := q, phase := ph, ramping := false } }
        s.upPhase ph fun p => { p.level (rcNow s) .mid with state := .pitching, zCount := 0, zSum := 0,
                                                            zFault := false }
    else complete q codeRange 0 s

/-- PHASE_ADMIT ends well: its RESULT is ZOFS. -/
def admitDone (r : Rail) (h : Phase) (s : State) : State :=
  match s.pwm.rails[r].admission with
  | some a => complete a.ring 0 s.pwm.phases[h].zofs.toNat
      (s.upPwmRail r fun w => { w with admission := none })
  | none => s

/-- The mean of the 256 offset samples, rounded half up (R75's rule for means). -/
def offsetMean (p : Phasor) : Int := (p.zSum + 128) / 256

/-- The active set with a phase that has come back to its position, if it is to be active at once: beside the
substitute that is active in its place; in FULL; as position 0, which is always active (R149); or as the one
position of the LIGHT state. -/
def admittedSet (s : State) (r : Rail) (h : Phase) : Option (BitVec 48) :=
  let next := s.pwm.rails[r].actNext
  let twin := (substituteOf s h).any fun n => hasBit next n.val
  if twin then some (putBit next h.val true)
  else if s.pwm.rails[r].lightNext then
    (if lowest s r.val 1 = next then none else some (lowest s r.val 1))
  else if s.cfg.pwmMode r.val = 0 || s.cfg.order h.val = 0 then some (putBit next h.val true)
  else none

/-- The pitched phase ramps in, and its substitute ramps out beside it; until its marker applies it is STEEP (R162). -/
def beginRamp (r : Rail) (h : Phase) (act : BitVec 48) (s : State) : State :=
  let s := s.upPhase h fun p => { p with state := .steep, weight := 0, wStep := 1, ramp := true }
  let s := match substituteOf s h with
    | some n => s.upPhase n fun p => { p with weight := 64, wStep := -1 }
    | none => s
  sendActive r act
    (s.upPwmRail r fun w => { w with admission := w.admission.map fun a => { a with ramping := true } })

/-- The phase has its offset and returns to its role (R162). -/
def offsetGood (r : Rail) (h : Phase) (z : Int) (s : State) : State :=
  let g := s.cfg
  let s := s.upPhase h fun p =>
    { p with state := if g.role h.val = 2 then .steep else .idle, zofs := toBits 16 z }
  let s := saveHealth s
  if g.role h.val = 2 || s.eng.rails[r].mode != .digital then admitDone r h (freeSub h s)
  else match admittedSet s r h with
    | some act => beginRamp r h act s
    | none => admitDone r h (freeSub h s)

/-- The offset is out of bounds, or a stage fault was seen (R162). -/
def offsetBad (r : Rail) (h : Phase) (s : State) : State :=
  let s := s.upPhase h fun p => { p.level (rcNow s) .mid with state := .racked }
  endAdmit r h codePhase (raise h.val (srcId 0x5 0x0 h.val 1 4) 0 s)

/-- PHASE_ADMIT_OFFSET_DONE (R162). -/
def execPhaseAdmitOffsetDone (h : Phase) (s : State) : Res :=
  let p := s.pwm.phases[h]
  let r := railOf s.cfg h
  let z := offsetMean p
  .next <|
    if p.state != .pitching || p.zCount < 256 then s
    else if p.zFault || (s.cfg.pzmax : Int) < (z.natAbs : Int) then offsetBad r h s
    else offsetGood r h z s

/-- A ramp has its 64 periods still before it, or part of them: its marker is under way, or the phase has not run
them (R162). One whose position has been shed meanwhile has none. -/
def rampRuns (s : State) (r : Rail) (h : Phase) : Bool :=
  let p := s.pwm.phases[h]
  if p.state == .active then decide (p.periods < 64)
  else hasBit s.pwm.rails[r].act h.val || hasBit s.pwm.rails[r].actNext h.val

/-- PHASE_ADMIT_RAMP_END (R162): after 64 periods of the ramp the substitute leaves at the next marker. -/
def execPhaseAdmitRampEnd (h : Phase) (s : State) : Res :=
  let r := railOf s.cfg h
  let p := s.pwm.phases[h]
  .next <|
    if !(s.pwm.rails[r].admission.any fun a => a.ramping && a.phase = h) || !p.ramp || rampRuns s r h then s
    else
      let s := s.upPhase h fun p =>
        { p with state := if p.state == .steep then .idle else p.state, ramp := false, weight := 64, wStep := 0 }
      let s := match substituteOf s h with
        | some n => sendActive r (putBit s.pwm.rails[r].actNext n.val false) s
        | none => s
      admitDone r h s

end Sys2Proof.Machine
end

