-- ==== Sys2Proof/Machine/EngineCmds.lean ====
section
/-!
DEFINITION. The control engine's commands (03): samples as the lane pairs receive them, forecasts after
their instant, checkpoints, lockstep recovery, and the loading and exchange of banks and last tables.
-/

namespace Sys2Proof.Machine

/-! ## The check of R21 -/

/-- The rail of a loop-lane request. -/
def reqRail (g : Setup) : LaneReq → Rail
  | .error r _ => r
  | .current h _ => railOf g h

/-- The age beyond which a record is stale (R21). -/
def maxAge (g : Setup) : Nat := if g.lpm then 39 else 12

/-- What a record says (R18). -/
def recStamp (rec : BitVec 64) : Word := rec.extractLsb' 32 32
def recChan (rec : BitVec 64) : Nat := (rec.extractLsb' 16 7).toNat
def recValue (rec : BitVec 64) : Int := (rec.extractLsb' 0 16).toInt
def recStale (rec : BitVec 64) : Bool := rec.getLsbD 30
def recRange (rec : BitVec 64) : Bool := rec.getLsbD 29

/-- The record as it reaches the lane pair. -/
def seenRecord (rec : BitVec 64) : LaneSeen → BitVec 64
  | .sent => rec
  | .garbled chan stamp => stamp ++ rec.extractLsb' 23 9 ++ chan ++ rec.extractLsb' 0 16

/-- The record agrees with the entry of the schedule that it answers, is not too old and not stale (R21). -/
def agrees (s : State) (e : Expected) (rec : BitVec 64) : Bool :=
  recChan rec == e.chan.toNat && recStamp rec == BitVec.ofNat 32 e.stamp &&
    decide (s.clk.slot - e.stamp ≤ maxAge s.cfg) && !recStale rec

/-- The schedule no longer expects an entry. -/
def dropExpected (e : Expected) (s : State) : State :=
  s.upEng fun n => { n with sched := n.sched.erase e }

/-- The lane pair that a schedule's entry is meant for. -/
def servesEntry (s : State) (p : PairNo) (e : Expected) : Bool := worksOn s (reqRail s.cfg e.req) == some p

/-- Records of a pair that a gap in SEQ shows to be missing: their slots are stale samples (R16). -/
def missRecords : List Expected → State → State
  | [], s => s
  | e :: es, s =>
    let s := dropExpected e s
    missRecords es (match e.req with
      | .error r _ => staleError r s
      | .current _ _ => s)

/-- The rail consumes samples, so that a marker for it acts at a boundary between them (R23, R114, R221). -/
def consumes (s : State) (r : Rail) : Bool :=
  s.eng.rails[r].mode == .digital || s.eng.rails[r].mode == .track

/-- A phase plan that the engine has taken and the PWM subsystem has not: the engine computes no duty command on the
new plan before it stands there (R24). -/
def planPassing (m : Marker) : Bool :=
  m.targets.contains .pwm && m.changes.any fun c => match c with
    | .words .pwm _ => true
    | _ => false

/-- A marker stands before a record of this slot in the stream of the rail's lane pair: one for the rail, one for
the whole engine, or a phase plan on its way through it (R23 to R25). A marker that another pair's recovery holds
does not. -/
def behindBoundary (s : State) (r : Rail) (slot : Nat) : Bool :=
  consumes s r && s.fab.markers.any fun m =>
    ((m.targets.contains (.rail r) && !markerHeld s (.rail r) m) || m.targets.contains .engine || planPassing m) &&
      m.bstamp.any fun b => decide (b ≤ slot)

/-- The first record that a lane pair receives after its reset gives the markers held for the pair's rails their
boundary (R26). -/
def restampPairBy (p : PairNo) (slot : Nat) (s : State) : State :=
  restampBy (fun m t => match t with
    | .rail k => markerPair s k m == p
    | _ => false) slot s

/-- The record of an entry has crossed the fabric to its pair and meets the check of R16 as one that n others of the
pair should have preceded. It is taken unless a marker of its stream stands before it. -/
def arrives (p : PairNo) (r : Rail) (mine : Expected → Bool) (n : Nat) (event : State → State) (s heard : State) :
    State × Option Expected :=
  let es := s.eng.sched.filter (servesEntry s p)
  match (es.drop n).find? mine with
  | none => (s, none)
  | some e =>
    if s.clk.slot < e.arrives then (s, none)
    else
      let t := restampPairBy p e.stamp heard
      if behindBoundary t r e.stamp then (restampPairBy p e.stamp s, none)
      else
        let t := event (t.upPair p fun k => { k with refused := 0 })
        (dropExpected e (missRecords (es.take n) t), some e)

/-- A sample packet with this header reaches a lane pair (R15, R16): the entry of the schedule that it answers, where
it is taken in. A packet that repeats an earlier one, and one refused for its kind or its length, are discarded, and
the slot is a stale sample; the refused one's entry leaves the schedule, and a gap in SEQ that it leaves behind counts
it no second time. -/
def hearSample (p : PairNo) (r : Rail) (mine : Expected → Bool) (hdr : Word) (stale : State → State) (s : State) :
    State × Option Expected :=
  let h := hear (pairSeat p) 0 anyLen hdr s
  let event := raiseFabric (.rail r) r 0
  match h.2 with
  | .inOrder => arrives p r mine 0 id s h.1
  | .missing n => arrives p r mine (n - s.eng.pairs[p].refused) event s h.1
  | .repeated => (stale (event h.1), none)
  | .refused =>
    match s.eng.sched.find? fun e => mine e && decide (e.arrives ≤ s.clk.slot) with
    | some e =>
      (stale (event (dropExpected e (s.upPair p fun k => { k with refused := k.refused + 1 }))), none)
    | none => (event s, none)

/-! ## A rail's state as a pair takes it over (R126, R127, R129) -/

/-- The newest complete copy of a rail's checkpoint. -/
def newestCkpt (e : EngRail) : Option Ckpt :=
  match e.ckA, e.ckB with
  | some a, some b => if (b.seq - a.seq).toNat < 2 ^ 31 && b.seq != a.seq then some b else some a
  | some a, none => some a
  | none, b => b

/-- A pair takes a rail's state from the newest complete checkpoint or, without one, as R109 gives it, with
event 0x62 (R126, R127). The checkpoint holds each phase's whole trim; the spec does not say what the integral part of
it goes on from, and the model takes the same sum (log 24). -/
def reloadRail (r : Rail) (s : State) : State :=
  match newestCkpt s.eng.rails[r] with
  | some c =>
    let s := s.upEngRail r fun e =>
      { e with boost := c.boost, boostCount := c.boostCount, fcConsec := c.misses, fcsusp := c.fcsusp,
               integ := c.integ, s11 := c.s11, s12 := c.s12, s21 := c.s21, s22 := c.s22, vbus := c.vbus
               rvb := c.rvb, iLost := c.iLost, lastD := c.lastD, refPrev := none }
    s.each c.trims fun t => State.upPhase t.1 fun p => { p with trim := t.2 * 4096, trimI := t.2 * 4096 }
  | none =>
    let s := s.upEngRail r fun e =>
      { e with boost := .armed, boostCount := 0, integ := 0, s11 := 0, s12 := 0, s21 := 0, s22 := 0,
               ff := 0, iLost := 0, refPrev := none }
    let s := s.each (held s r.val) fun h => State.upPhase h fun p => { p with trim := 0, trimI := 0 }
    raise 0x62 (srcId 0x4 0x4 r.val 0 0) 0 s

/-! ## Error samples (R100) -/

/-- A sample counts toward a move of the rail to another pair (R129). -/
def countMove (r : Rail) (s : State) : State :=
  match s.eng.rails[r].assign with
  | some a =>
    if a.left = 0 then s
    else
      let s := s.upEngRail r fun e => { e with assign := some { a with left := a.left - 1 } }
      if a.left = 1 then
        match a.ring with
        | some q =>
          let tag := ((s.hif.sq[q].exec).map fun e => e.desc.tag).getD 0
          pushMarkers [{ markerOf .setup tag (.desc q) none [.rail r] [.assign r a.pair] with
                         rails := BitVec.ofNat 8 (2 ^ r.val) }] s
        | none => issueMarkers s
      else s
  | none => s

/-- The cause of the heel entry allows the return (R221): blind; the root PLL, locked again; or a domain that
is on again, which the rule bars only while it is off. -/
def mayTrack (s : State) (r : Rail) : Bool :=
  let c := s.fb[r].hcause
  c = 2 || (c = 4 && s.clk.lock) || (c = 5 && pairRuns s (pairOf s r))

/-- A fresh record of the active path drives the rail's law in its mode. A rail in HEEL returns by TRACK after
16 of them (R221), and at once where another pair has begun to take it over from one that no longer runs
(R129). -/
def activeSample (r : Rail) (value : Int) (slot : Nat) (s : State) : State :=
  let e := s.eng.rails[r]
  let track := fun (s : State) => countMove r (runLaw r value slot false s)
  match e.mode with
  | .off =>
    if e.enabled then
      countMove r (runLaw r value slot true (s.upEngRail r fun e => { e with mode := .digital }))
    else s
  | .digital =>
    let t := countMove r (runLaw r value slot true s)
    if t.eng.rails[r].boost.isActive then leaveLight r 0 t else t
  | .track => track s
  | .heel =>
    if e.assign.isSome && !pairRuns s (pairOf s r) then track (enterTrack r (reloadRail r s))
    else
      let n := s.fb[r].freshRun + 1
      let s := s.upFb r fun f => { f with freshRun := n }
      if 16 ≤ n && mayTrack s r then enterTrack r s else s

/-- A fresh error record of a rail: its law and its checks. With both paths lost every record counts toward a
move of the rail to another pair. -/
def freshError (r : Rail) (rec : BitVec 64) (s : State) : State :=
  let remote := decide (recChan rec < 0x38)
  let slot := fullSlot s (recStamp rec)
  let value := recValue rec
  let active := onActive s.fb[r] remote
  let s := s.upFb r fun f =>
    { f.upCheck remote fun c =>
        { c with last := some { value := value, range := recRange rec, slot := slot },
                 ranges := if recRange rec then c.ranges + 1 else 0 } with
      stale := 0, blind := false }
  let s := joinBall r remote value slot s
  let before := s.fb[r].recent
  let s := if active then activeSample r value slot s
    else if s.fb[r].path == .comparator then countMove r s
    else s
  let after := s.fb[r].recent
  let s := if regulating s r then
      -- the dither check looks at the heads before this record's own
      let s := s.upFb r fun f => { f with recent := before }
      let s := ditherCheck r remote value slot s
      let s := s.upFb r fun f => { f with recent := after }
      let s := rangeCheck r remote s
      if active then s else disagreeCheck r s
    else s
  overvoltCheck r s

/-- ERROR_SAMPLE (R100): the record of rail r that is next on its way reaches its lane pair. -/
def execErrorSample (r : Rail) (hdr : Word) (seen : LaneSeen) (s : State) : Res :=
  let mine := fun (e : Expected) => match e.req with
    | .error k _ => k == r
    | .current _ _ => false
  .next <| match worksOn s r with
  | none => s
  | some p =>
    let h := hearSample p r mine hdr (staleError r) s
    match h.2 with
    | none => h.1
    | some e =>
      let rec_ := seenRecord e.rec_ seen
      if agrees s e rec_ then freshError r rec_ h.1 else staleError r h.1

/-! ## Current samples (R107, R116, R157, R162) -/

/-- The sign of a phase's current (R116). -/
def newSign (dthys : Int) (sinking : Bool) (i : Int) : Bool :=
  if sinking then !decide (dthys < i) else decide (i < -dthys)

/-- The balance trim at a fresh sample of an active phase (R107). -/
def trimUpdate (h : Phase) (i : Int) (s : State) : State :=
  let r := railOf s.cfg h
  let e := s.eng.rails[r]
  let p := s.pwm.phases[h]
  let lim := (e.word 26).toInt
  let d := satBits 32 (p.iTgt - i)
  let sum := Sat.sum [Sat.of p.trimI, gain (e.word 25) d]
  let ti := clampInt (-lim) lim sum.val
  let all := Sat.sum [gain (e.word 24) d, Sat.of ti]
  noteOverflow r (sum.ovf || all.ovf)
    (s.upPhase h fun p => { p with trimI := ti, trim := clampInt (-lim) lim all.val })

/-- The plausibility check of an active phase (R157). -/
def plausible (h : Phase) (i : Int) (s : State) : State :=
  let g := s.cfg
  let r := railOf g h
  let p := s.pwm.phases[h]
  if s.eng.rails[r].mode != .digital || !g.plen h.val || p.periods < 64 then s
  else if (g.plaus r.val * 16 : Int) < ((i - p.iTgt).natAbs : Int) then
    if g.plcnt r.val ≤ p.implausible + 1 then rackPhase h 2 s
    else s.upPhase h fun p => { p with implausible := p.implausible + 1 }
  else s.upPhase h fun p => { p with implausible := 0 }

/-- A fresh current record of a phase. -/
def freshCurrent (h : Phase) (value : Int) (s : State) : State :=
  let r := railOf s.cfg h
  let i := value - s.pwm.phases[h].zofs.toInt
  let hys : Int := bitsOf (s.eng.rails[r].word 29) 0 16
  let s := s.upPhase h fun p =>
    let p := { p with cur := some value, sinking := newSign hys p.sinking i }
    if p.state == .pitching && p.zCount < 256 then
      { p with zCount := p.zCount + 1, zSum := p.zSum + value }
    else p
  if s.pwm.phases[h].state == .active then plausible h i (trimUpdate h i s) else s

/-- CURRENT_SAMPLE (R107): the record of phase h that is next on its way reaches the lane pair of its rail. -/
def execCurrentSample (h : Phase) (hdr : Word) (seen : LaneSeen) (s : State) : Res :=
  let r := railOf s.cfg h
  let mine := fun (e : Expected) => match e.req with
    | .error _ _ => false
    | .current k _ => k == h
  .next <| match worksOn s r with
  | none => s
  | some p =>
    let k := hearSample p r mine hdr id s
    match k.2 with
    | none => k.1
    | some e =>
      let rec_ := seenRecord e.rec_ seen
      if agrees s e rec_ then freshCurrent h (recValue rec_) k.1 else k.1

/-! ## VBUS (R105) -/

/-- A fresh result of channel 0x58 reaches the rails with FFV 1. -/
def vbusResult (value : Int) (s : State) : State :=
  s.each (fins 8) fun r s =>
    if !s.cfg.ffv r.val then s else
    let x := gain (s.eng.rails[r].word 18) value
    let v := max x.val (s.cfg.vbmin r.val * 10000 : Nat)
    noteOverflow r x.ovf (s.upEngRail r fun e =>
      { e with vbus := v, rvb := 2 ^ 51 / v, vbusMeasured := true, vbusAt := s.clk.slot, vbold := false })

/-- VBUS_STALE (R105): 1 ms without a fresh result, counted from the latest one or from the rail's enable. -/
def execVbusStale (r : Rail) (s : State) : Res :=
  let e := s.eng.rails[r]
  .next <|
    if !s.cfg.ffv r.val || railOff s r || e.vbold || decide (s.clk.slot < max e.vbusAt e.enabledAt + msSlots) then s
    else raise 0x65 (pairSrc s r 0 0) 0 (s.upEngRail r fun e => { e with vbold := true })

/-- FFV 0 gives rvb its constant (R105, R127). -/
def followFfv (r : Rail) (s : State) : State :=
  if s.cfg.ffv r.val then s else s.upEngRail r fun e => { e with vbus := 12000000, rvb := rvbConst, vbold := false }

/-! ## Forecasts (R119 to R123) -/

/-- The pending forecasts of a rail: those before their t_f (R120). -/
def pendingFcs (s : State) (r : Rail) : List Forecast :=
  s.eng.rails[r].fcs.filter fun f => decide (instantNow s < f.tF)

/-- Two switching periods have passed since a forecast's t_f (R122). -/
def missDue (s : State) (r : Rail) (f : Forecast) : Bool :=
  decide (f.tF * 64 + 2 * periodSteps s.cfg r.val * 15625 ≤ instantNow s * 64)

/-- FORECAST_MISS_CHECK (R122), of the rail's oldest forecast that is due for it. -/
def execForecastMissCheck (r : Rail) (s : State) : Res :=
  .next <| match s.eng.rails[r].fcs.find? (missDue s r) with
  | none => s
  | some f =>
    let change := railCurrent s r - f.sumAt
    let s := s.upEngRail r fun e => { e with fcs := e.fcs.erase f }
    let hit := decide (0 < change * f.dI) && decide (f.dI.natAbs ≤ 2 * change.natAbs)
    if hit then s.upEngRail r fun e => { e with fcConsec := 0 }
    else
      let n := s.eng.rails[r].fcConsec + 1
      let s := s.upEngRail r fun e => { e with fcMissc := incSat e.fcMissc, fcConsec := n }
      let s := raise 0x63 (pairSrc s r 0 0) 0 s
      if s.cfg.fcmiss ≤ n && !s.eng.rails[r].fcsusp then
        alertPorts (fun p => owns s p r) alFcsusp
          (s.upEngRail r fun e => { e with fcsusp := true })
      else s

/-- FORECAST_SUSPEND_END (R122). -/
def execForecastSuspendEnd (r : Rail) (s : State) : Res :=
  .next (s.upEngRail r fun e => if e.fcsusp then { e with fcsusp := false, fcConsec := 0 } else e)

/-! ## Checkpoints (R125) -/

/-- What a checkpoint of a rail holds. -/
def checkpointOf (s : State) (r : Rail) : Ckpt :=
  let e := s.eng.rails[r]
  { seq := e.ckNext, time := timeNow s, bank := e.bank, table := e.table, boost := e.boost
    boostCount := min e.boostCount 255, misses := min e.fcConsec 15, fcsusp := e.fcsusp, integ := e.integ
    s11 := e.s11, s12 := e.s12, s21 := e.s21, s22 := e.s22, vbus := e.vbus, rvb := e.rvb
    iLost := e.iLost
    lastD := e.lastD
    trims := (held s r.val).map fun h => (h, satBits 16 (s.pwm.phases[h].trim / 4096)) }

/-- The lengths of the packets of a rail's checkpoint: 15 words, and the trims two to a word behind a sequence
number, at most 14 words of them in a packet, with a CRC behind the last. -/
def checkpointLens (s : State) (r : Rail) : List Nat :=
  let w := ((held s r.val).length + 1) / 2
  if w ≤ 13 then [15, w + 2] else [15, 15, w - 14 + 2]

/-- One rail's checkpoint: even sequence numbers go to copy A. Unless all its packets have come with a valid
CRC there is no complete copy there; a CRC that fails raises event 0x62. -/
def writeCheckpoint (r : Rail) (whole bad : Bool) (s : State) : State :=
  let c := checkpointOf s r
  let even := c.seq.toNat % 2 = 0
  let v := if bad || !whole then none else some c
  let s := s.upEngRail r fun e =>
    if even then { e with ckA := v, ckNext := e.ckNext + 1 } else { e with ckB := v, ckNext := e.ckNext + 1 }
  if bad then raise 0x62 (srcId 0x4 0x4 r.val (if even then 0 else 1) 0) 0 s else s

/-- The checkpoint store takes the packets of one checkpoint in stream order; all of them have come when none
is lost, repeated or refused (R16). -/
def hearCheckpoint (r : Rail) : List Nat → List (Option Word) → State → State × Bool
  | [], _, s => (s, true)
  | _ :: _, [], s => (s, false)
  | _ :: ns, none :: hs, s => ((hearCheckpoint r ns hs s).1, false)
  | n :: ns, some w :: hs, s =>
    let h := hear .engine 5 (fun len => decide (len = n)) w s
    let s := if h.2 == .inOrder then h.1 else raiseFabric .engine r 0 h.1
    let t := hearCheckpoint r ns hs s
    (t.1, t.2 && (h.2 == .inOrder || match h.2 with | .missing _ => true | _ => false))

/-- The checkpoints of a pair's rails, one after the other. -/
def takeCheckpoints (bad : BitVec 8) : List Rail → List (Option Word) → State → State
  | [], _, s => s
  | r :: rs, hs, s =>
    let ns := checkpointLens s r
    let t := hearCheckpoint r ns (hs.take ns.length) s
    takeCheckpoints bad rs (hs.drop ns.length) (writeCheckpoint r t.2 (hasBit bad r.val) t.1)

/-- CHECKPOINT (R125): the packets of a pair's rails that the sequencer has enabled (R109; log 24), at a multiple of
64 000 ticks, with their headers as they reach the checkpoint store in PD_ENGA; a lost one has none. -/
def execCheckpoint (p : PairNo) (hdrs : List (Option Word)) (badCrc : BitVec 8) (s : State) : Res :=
  .next <|
    if !s.cfg.ckpen || !pairRuns s p || !domOn s pdEngA || !onGrid s s.eng.pairs[p].ckAt then s
    else
      takeCheckpoints badCrc ((railsServed s p).filter fun r => s.eng.rails[r].enabled) hdrs
        (s.upPair p fun k => { k with ckAt := some s.tmr.now })

/-! ## Lockstep (R124, R126 to R130) -/

/-- The unit of a pair's events: the lowest rail served (R132). -/
def pairUnit (s : State) (p : PairNo) : Nat := ((railsServed s p).map (·.val)).headD 0

/-- A pair becomes FAILED (R128). -/
def pairFails (p : PairNo) (s : State) : State :=
  raise 0x60 (srcId 0x4 p.val (pairUnit s p) 0 0) 0
    (s.upPair p fun k => { k with recov := false, failed := true })

/-- A rail of a mismatched pair passes to its heel loop (R126, R216). -/
def lockstepRail (r : Rail) (s : State) : State :=
  if !regulating s r then s
  else if s.eng.rails[r].mode == .track then heelAgain r 1 s
  else if s.fb[r].hact then
    let keep := s.fb[r].hcause = 3 || s.fb[r].hcause = 5
    s.upFb r fun f => { f with hcause := if keep then f.hcause else 1, freshRun := 0 }
  else heelEntry r 1 s

/-- The slots of 10 s. -/
def tenSeconds : Nat := 2560000000

/-- A lane pair's outputs are blocked and its receivers reset (R126). -/
def blockPair (p : PairNo) (s : State) : State :=
  let mine := fun r => pairOf s r == p
  let s := s.upEng fun e =>
    { e with dutyQ := e.dutyQ.filter fun m => !mine m.rail,
             sched := e.sched.filter fun x => !mine (reqRail s.cfg x.req) }
  forgetSeq (fun a => a == pairSeat p) s

/-- LOCKSTEP_MISMATCH (R126). A rail of the pair that its heel loop cannot take makes it class A
(R130). -/
def execLockstepMismatch (p : PairNo) (cycle : Fin 22) (s : State) : Res :=
  .next <|
    if !pairRuns s p then s
    else
      let rs := railsServed s p
      let grave := rs.any fun r => regulating s r && !heelAvail s r
      let times := (s.clk.slot :: s.eng.pairs[p].times).filter fun t =>
        decide (s.clk.slot - t < tenSeconds)
      let s := s.upPair p fun k =>
        { k with recov := true, times := times, mismatches := incSat k.mismatches }
      let s := blockPair p s
      let src := srcId 0x4 p.val (pairUnit s p) 2 cycle.val
      let s := if grave then raiseClassA 0x60 src s
        else State.each rs lockstepRail (raise 0x60 src 0 s)
      if s.cfg.mmlim ≤ times.length then pairFails p s else s

/-- A rail's state as its pair reloads it after its reset, and its return by TRACK (R126, R127). -/
def restoreRail (r : Rail) (s : State) : State :=
  let s := reloadRail r s
  if s.eng.rails[r].mode == .heel && s.fb[r].hcause = 1 then enterTrack r s else s

/-- The markers under way to a pair: those for its rails, and those by which it takes a rail over. -/
def restampPair (p : PairNo) (s : State) : State :=
  s.upFab fun f => { f with markers := f.markers.map fun m =>
    let mine := fun (t : MarkerAt) => match t with
      | .rail r => markerPair s r m == p && !m.restamp.contains t
      | _ => false
    if m.bstamp.isSome then { m with restamp := m.restamp ++ m.targets.filter mine } else m }

/-- LANE_PAIR_RESTORE (R126, R128): the self-test has ended. The markers that the fabric held take their
boundary from the first record after it (R26). -/
def execLanePairRestore (p : PairNo) (passed : Bool) (s : State) : Res :=
  .next <|
    if !s.eng.pairs[p].recov || !domOn s (pairDom p) then s
    else if !passed then pairFails p s
    else
      let s := s.upPair p fun k => { k with recov := false }
      let s := s.each ((railsServed s p).filter fun r => s.eng.rails[r].enabled) restoreRail
      restampPair p s

/-- TRACK_END (R127). -/
def execTrackEnd (r : Rail) (s : State) : Res :=
  .next <|
    if s.eng.rails[r].mode == .track && decide (64 ≤ s.eng.rails[r].track) &&
        s.eng.rails[r].assign.isNone then heelReturn r s
    else s

/-! ## Banks and tables (R112, R113, R117) -/

/-- The first n words of a list as a vector. -/
def toVec (n : Nat) (ws : List Word) : Vector Word n := Vector.ofFn fun k => ws.getD k.val 0

/-- Words into a rail's inactive bank. -/
def putBank (r : Rail) (ws : List Word) (s : State) : State :=
  s.upEngRail r fun e =>
    if e.bank then { e with bankA := toVec 32 ws } else { e with bankB := toVec 32 ws }

/-- ENG_BANK_LOAD (R112). -/
def execEngBankLoad (q : Ring) (buf : List Word) (s : State) : Res :=
  .next <| match ready s q 0x20 with
  | none => s
  | some d =>
    let r : Rail := Fin.ofNat 8 (d.pf 0 3)
    if buf.length ≠ 32 then complete q codeRange 0 s
    else if swPend s r then complete q codeBusy 0 s
    else complete q 0 0 (putBank r buf s)

/-- ENG_LAST_LOAD (R117). -/
def execEngLastLoad (q : Ring) (buf : List Word) (s : State) : Res :=
  .next <| match ready s q 0x22 with
  | none => s
  | some d =>
    let r : Rail := Fin.ofNat 8 (d.pf 0 3)
    if buf.length ≠ 64 then complete q codeRange 0 s
    else if ltPend s r then complete q codeBusy 0 s
    else complete q 0 0 (s.upEngRail r fun e =>
      let rip := toVec 32 (buf.take 32)
      let dt := toVec 32 (buf.drop 32)
      if e.table then { e with ripple0 := rip, dead0 := dt } else { e with ripple1 := rip, dead1 := dt })

/-- The rails of a mask. -/
def maskRails (m : Nat) : List Rail := (fins 8).filter fun r => Nat.testBit m r.val

/-- The check of a swap request: banks of the rails `b`, tables of the rails `t` (R113, R117). -/
def swapCheck (s : State) (b t : List Rail) : Option Nat :=
  if b.any (swPend s) || t.any (ltPend s) then some codeBusy
  else b.findSome? fun r => bankCheck s.eng.rails[r].inactive

/-- The markers of a swap request, the bank swap first (R368). -/
def swapMarkers (tag : BitVec 16) (o : Origin) (b t : Nat) : List Marker :=
  let mk : MKind → Nat → Change → List Marker := fun k m c =>
    if m = 0 then []
    else [{ markerOf k tag o none ((maskRails m).map .rail) [c] with rails := BitVec.ofNat 8 m }]
  mk .bankSwap b .swapBanks ++ mk .lastTable t .swapTables

/-- ENG_BANK_SWAP (R113, R327, R368). -/
def execEngBankSwap (q : Ring) (s : State) : Res :=
  .next <| match ready s q 0x21 with
  | none => s
  | some d =>
    let rails := d.pf 0 8
    let b := if d.pf 8 1 = 1 then rails else 0
    let t := if d.pf 9 1 = 1 then rails else 0
    if b = 0 ∧ t = 0 then complete q codeRange 0 s
    else if s.flt.classA then complete q codeState 0 s
    else match swapCheck s (maskRails b) (maskRails t) with
      | some c => complete q c 0 s
      | none => pushMarkers (swapMarkers d.tag (.desc q) b t) (act_ q s)

/-- A write of ENG_SWAP (R113, R117): both masks are checked before either marker is issued, RAILS
first. -/
def writeSwap (m : Master) (v : Word) (s : State) : State :=
  regWrite m 0x4010 true v 0xFFFF0000 (fun s =>
    let b := bitsOf v 0 8
    let t := bitsOf v 8 8
    match swapCheck s (maskRails b) (maskRails t) with
    | some c => rejectWrite m 0x4010 c s
    | none => pushMarkers (swapMarkers tagWrite .swapWrite b t) s) s

/-- ENG_SWAP_BANKS (R113): the write of ENG_SWAP. -/
def execEngSwapBanks (m : Master) (v : Word) (s : State) : Res := .next (writeSwap m v s)

/-- ENG_SWAP_LAST_TABLES (R117): the write of ENG_SWAP. -/
def execEngSwapLastTables (m : Master) (v : Word) (s : State) : Res := .next (writeSwap m v s)

/-- The offset of a bank word. -/
def isBankOff (off : Nat) : Bool := decide (0x4400 ≤ off) && decide (off < 0x4C00)

/-- A register write to a word of ENG_BKA or ENG_BKB (R4, R112). -/
def writeBankWord (m : Master) (off : Nat) (v : Word) (s : State) : State :=
  regWrite m off true v (bankReserved (off % 0x80 / 4)) (fun s =>
    let r : Rail := Fin.ofNat 8 (off % 0x400 / 0x80)
    let k : Fin 32 := Fin.ofNat 32 (off % 0x80 / 4)
    let isB := decide (0x4800 ≤ off)
    if s.eng.rails[r].bank == isB then rejectWrite m off codeState s
    else if swPend s r then rejectWrite m off codeBusy s
    else s.upEngRail r fun e =>
      if isB then { e with bankB := vput e.bankB k v } else { e with bankA := vput e.bankA k v }) s

/-- ENG_BANK_WORD_WRITE (R112). -/
def execEngBankWordWrite (m : Master) (off : Nat) (v : Word) (s : State) : Res :=
  .next (if isBankOff off && off % 4 = 0 then writeBankWord m off v s else s)

/-- The offset of a word of the load-copy window. -/
def isLtldOff (off : Nat) : Bool := decide (0x4C00 ≤ off) && decide (off < 0x4D00)

/-- A register write into a load copy of rail ENG_WSEL.RAIL (R117). -/
def writeLtld (m : Master) (off : Nat) (v : Word) (s : State) : State :=
  regWrite m off true v 0 (fun s =>
    let r : Rail := Fin.ofNat 8 s.eng.wsel.toNat
    let k : Fin 32 := Fin.ofNat 32 (off % 0x80 / 4)
    if ltPend s r then rejectWrite m off codeBusy s
    else s.upEngRail r fun e =>
      match decide (off < 0x4C80), e.table with
      | true, true => { e with ripple0 := vput e.ripple0 k v }
      | true, false => { e with ripple1 := vput e.ripple1 k v }
      | false, true => { e with dead0 := vput e.dead0 k v }
      | false, false => { e with dead1 := vput e.dead1 k v }) s

/-- ENG_LTLD_WRITE (R117). -/
def execEngLtldWrite (m : Master) (off : Nat) (v : Word) (s : State) : Res :=
  .next (if isLtldOff off && off % 4 = 0 then writeLtld m off v s else s)

/-- ENG_COMMIT (R135). -/
def execEngCommit (m : Master) (v : Word) (s : State) : Res := .next (writeCommit .eng m v s)

/-! ## ENG_ASSIGN (R129) -/

/-- ENG_RAILr with another PAIR. -/
def withPair (w : Word) (p : PairNo) : Word :=
  (w &&& ~~~(0xC00000 : Word)) ||| BitVec.ofNat 32 (p.val * 0x400000)

/-- ENG_ASSIGN (R129, R327). A rail that does not regulate has nothing to be tracked and moves by its marker
at once. -/
def execEngAssign (q : Ring) (s : State) : Res :=
  .next <| match ready s q 0x23 with
  | none => s
  | some d =>
    let r : Rail := Fin.ofNat 8 (d.pf 0 3)
    let p : PairNo := Fin.ofNat 4 (d.pf 4 2)
    let off := 0x4020 + 4 * r.val
    let w := withPair (s.accSetup.get off) p
    let g := s.accSetup.over [(off, w)]
    if s.flt.classA then complete q codeState 0 s
    else if s.eng.rails[r].assign.isSome then complete q codeBusy 0 s
    else if pairOff (domOn s) g || s.eng.pairs[p].failed then complete q codeState 0 s
    else if engineBad g then complete q codeEngine 0 s
    else
      let s := s.upRegs fun k => { k with acc := setWord k.acc off w }
      let go := s.eng.rails[r].enabled
      let s := act_ q (beginMove r { ring := some q, pair := p, left := if go then 64 else 0 } s)
      if go then s
      else pushMarkers [{ markerOf .setup d.tag (.desc q) none [.rail r] [.assign r p] with
                          rails := BitVec.ofNat 8 (2 ^ r.val) }] s

end Sys2Proof.Machine
end

