-- ==== Sys2Proof/Machine/Admit.lean ====
section
/-!
DEFINITION. The ledger's admission of energy-costed work (R287 to R292). Energies are in µJ, costs in mJ.
-/

namespace Sys2Proof.Machine

/-- E_wip: the bookings (R288). -/
def eWip (s : State) : Rat := ((s.ldg.books.foldl (fun (a : Nat) b => a + b.mJ) 0 * 1000 : Nat) : Rat)

/-- E_free (R289). -/
def eFree (s : State) : Rat := s.ldg.ePlan - s.ldg.eRes - eWip s

/-- OPTREF (R291). -/
def optref (s : State) : Bool :=
  decide (eFree s < 0) || s.gau.disagree || s.ldg.src == .down || s.ldg.src == .spent

/-- Work of a cost may be admitted (R289, R292); `pourn` marks a STATE request. -/
def mayAdmit (s : State) (mJ : Nat) (pourn : Bool) : Bool :=
  !domOn s pdGau ||
    (!optref s && (s.ldg.src == .input || pourn) && decide (((mJ * 1000 : Nat) : Rat) ≤ eFree s))

/-- A refusal counts in LDG_NREF. -/
def countRefusal (s : State) : State := s.upLdg fun l => { l with nref := l.nref + 1 }

/-- A booking, in front of the older ones; a ledger that is off books nothing (R292). -/
def book (f : BookFor) (mJ : Nat) (s : State) : State :=
  if !domOn s pdGau then s else s.upLdg fun l => { l with books := { for_ := f, mJ := mJ } :: l.books }

/-- The newest booking for a piece of work ends. -/
def dropNewest (f : BookFor) (s : State) : State :=
  s.upLdg fun l => { l with books := l.books.eraseP fun b => b.for_ == f }

/-- The newest booking for a piece of work replaces the older ones. -/
def keepNewest (f : BookFor) (s : State) : State :=
  s.upLdg fun l =>
    { l with books := match l.books.find? fun b => b.for_ == f with
        | some b => b :: l.books.filter fun c => c.for_ != f
        | none => l.books }

end Sys2Proof.Machine
end

