-- ==== Sys2Proof/Machine/Records.lean ====
section
/-!
DEFINITION. Reading the NV store: the events of its error check (R417), the record slots, the choice of
a record's winner (R429 to R434), and the eyelet counters' cells (R437, R438).
-/

namespace Sys2Proof.Machine

/-! ## The error check (R417) -/

/-- The access behind an event of an array word (R340). -/
def nvAccess (master type addr : Nat) : Access :=
  { master := BitVec.ofNat 4 master, type := BitVec.ofNat 4 type, aspace := 3,
    addr := BitVec.ofNat 64 addr }

/-- What the report says of a word. -/
def eccOf (ecc : EccReport) (w : Nat) : Option Ecc := (ecc.find? fun e => e.1 = w).map (·.2)

/-- A word of the report does not read at all. -/
def lostWord (ecc : EccReport) (w : Nat) : Bool := eccOf ecc w == some .uncorr

/-- Some word of n from word w does not read. -/
def lostWords (ecc : EccReport) (w n : Nat) : Bool := (List.range n).any fun k => lostWord ecc (w + k)

/-- What the error check will say of the array's words: what a command reports of its reads, and the words known to
be uncorrectable, which nothing has rewritten (R417). -/
def Nvm.report (n : Nvm) (ecc : EccReport) : EccReport :=
  ecc ++ (n.dead.filter fun w => (eccOf ecc w).isNone).map fun w => (w, .uncorr)

/-- Bytes are written to the array: their words read again (R415). -/
def Nvm.put (a : Nat) (bs : List Byte) (n : Nvm) : Nvm :=
  { n with mem := writeBytes n.mem a bs
           dead := n.dead.filter fun w => !(decide (a / 8 ≤ w) && decide (8 * w < a + bs.length)) }

/-- The array keeps its contents while everything else of PD_NVM is lost (R33). -/
def Nvm.cold (n : Nvm) : Nvm := { Nvm.reset with mem := n.mem, dead := n.dead }

/-- One read of a word with what its check reports; a corrected word is rewritten with the data it
gave, an uncorrectable one stays what it is. -/
def seeWord (master : Nat) (w : Nat) (e : Ecc) (s : State) : State :=
  match e with
  | .corrData => raiseAccess 0x78 (nvSrc w 0) 0 (nvAccess master 1 (8 * w))
      (s.upNvm fun n => { n with corr := incSat n.corr })
  | .corrCheck => raiseAccess 0x78 (nvSrc w 1) 0 (nvAccess master 1 (8 * w))
      (s.upNvm fun n => { n with corr := incSat n.corr })
  | .uncorr => raiseAccess 0x79 (nvSrc w 0) codeNvBad (nvAccess master 1 (8 * w))
      (s.upNvm fun n => { n with uncorr := incSat n.uncorr, dead := if n.dead.contains w then n.dead else w :: n.dead })
  | .weak => s

/-- The reads of n words from word w of a large region, in the order of the report. -/
def seeRegion (master : Nat) (ecc : EccReport) (w n : Nat) (s : State) : State :=
  s.each (ecc.filter fun e => decide (w ≤ e.1) && decide (e.1 < w + n)) fun e => seeWord master e.1 e.2

/-- The reads of n words from word w, in order. -/
def seeWords (master : Nat) (ecc : EccReport) (w n : Nat) (s : State) : State :=
  s.each (List.range n) fun k s =>
    match eccOf ecc (w + k) with
    | some e => seeWord master (w + k) e s
    | none => s

/-! ## Records (R429 to R434) -/

def recAddr (n : Nat) (k : Nat) : Nat :=
  if n < 8 then 0x9000 + 512 * n + 256 * k else 0xA000 + 128 * (n - 8) + 64 * k
def recSize (n : Nat) : Nat := if n < 8 then 256 else 64
def recMax (n : Nat) : Nat := if n < 8 then 240 else 48

/-- A record ID that the device keeps for itself (R430). -/
def deviceRecord (n : Nat) : Bool := decide (n < 2) || (decide (8 ≤ n) && decide (n < 16))

/-- What a slot of a record shows: no committed copy, a valid one, or one that is committed and
invalid, with its cause of event 0x7A. -/
inductive CopySeen where
  | absent
  | good (seq : Nat) (payload : List Byte)
  | bad (cause : Nat)
  deriving DecidableEq, Repr

/-- n rounded up to a multiple of 8. -/
def up8 (n : Nat) : Nat := ceilDiv n 8 * 8

/-- The check of R433. -/
def copySeen (mem : List Host.Cell) (ecc : EccReport) (n k : Nat) : CopySeen :=
  let a := recAddr n k
  let size := recSize n
  let bs := readBytes mem a size
  let len := natAt bs 2 2
  if lostWord ecc ((a + size) / 8 - 1) then .bad 3
  else if natAt bs (size - 4) 1 ≠ 0xA5 then .absent
  else if lostWord ecc (a / 8) then .bad 3
  else if natAt bs 0 1 ≠ n ∨ recMax n < len then .bad 2
  else if lostWords ecc (a / 8 + 1) (up8 len / 8) then .bad 3
  else if (crc32 (bs.take (8 + up8 len))).toNat ≠ natAt bs (size - 8) 4 then .bad 2
  else .good (natAt bs 4 4) ((bs.drop 8).take len)

/-- s1 is newer than s2 (R408). -/
def newerSeq (s1 s2 : Nat) : Bool :=
  let d := (s1 + 2 ^ 32 - s2) % 2 ^ 32
  decide (1 ≤ d) && decide (d < 2 ^ 31)

/-- The winner of two copies, and whether different copies tie (R434). -/
def pickWinner : CopySeen → CopySeen → Option (Fin 2) × Bool
  | .good s0 p0, .good s1 p1 =>
    if newerSeq s1 s0 then (some 1, false)
    else if newerSeq s0 s1 then (some 0, false)
    else (some 0, p0 != p1)
  | .good _ _, _ => (some 0, false)
  | _, .good _ _ => (some 1, false)
  | _, _ => (none, false)

/-- A copy found invalid raises event 0x7A once per start (R433). -/
def noteCopy (n : Fin 64) (k : Fin 2) (c : CopySeen) (s : State) : State :=
  match c with
  | .bad cause =>
    if s.nvm.raised.contains (n, k) then s
    else raise 0x7A (srcId 0xA 0x1 n.val k.val cause) (if cause = 3 then codeNvBad else 0)
      (s.upNvm fun m => { m with raised := (n, k) :: m.raised })
  | _ => s

/-- The scan of one record (R434). -/
def scanRecord (ecc : EccReport) (n : Fin 64) (s : State) : State :=
  let s := seeWords 0 ecc (recAddr n.val 0 / 8) (recSize n.val / 4) s
  let c0 := copySeen s.nvm.mem ecc n.val 0
  let c1 := copySeen s.nvm.mem ecc n.val 1
  let s := noteCopy n 1 c1 (noteCopy n 0 c0 s)
  let w := pickWinner c0 c1
  let s := s.upNvm fun m => { m with winner := vput m.winner n w.1 }
  if w.2 && !s.nvm.tied.contains n then
    raise 0x7A (srcId 0xA 0x1 n.val 0 1) codeTie (s.upNvm fun m => { m with tied := n :: m.tied })
  else s

/-- The record manager's scan of the store (R434). -/
def scanRecords (ecc : EccReport) (s : State) : State := s.each (fins 64) (scanRecord ecc)

/-- A record's winning copy as a read finds it, and whether a copy failed on an uncorrectable word. The
other copy is used when the winner has failed since (R434). -/
structure RecFound where
  s : State
  value : Option (Nat × List Byte)
  lost : Bool

/-- The read of a record (R434, R436). -/
def recLook (ecc : EccReport) (n : Fin 64) (s : State) : RecFound :=
  match s.nvm.winner[n] with
  | none =>
    { s := s, value := none,
      lost := (fins 2).any fun k => copySeen s.nvm.mem ecc n.val k.val == .bad 3 }
  | some k =>
    match copySeen s.nvm.mem ecc n.val k.val with
    | .good seq p => { s := s, value := some (seq, p), lost := false }
    | c =>
      let s := noteCopy n k c s
      let o : Fin 2 := if k = 0 then 1 else 0
      let d := copySeen s.nvm.mem ecc n.val o.val
      let s := noteCopy n o d s
      match d with
      | .good seq p =>
        { s := s.upNvm fun m => { m with winner := vput m.winner n (some o) },
          value := some (seq, p), lost := false }
      | _ => { s := s, value := none, lost := c == .bad 3 || d == .bad 3 }

/-! ## Eyelet counters (R437, R438) -/

def counterAddr (n : Nat) : Nat := 0xC000 + 64 * n

/-- The check of a cell's value. -/
def cellCheck (v : Nat) : Nat :=
  (List.range 7).foldl (fun c k => Nat.xor c (v / 16 ^ k % 16)) 0xA

/-- The cell that holds v. -/
def cellWord (v : Nat) : Nat := cellCheck v * 2 ^ 28 + v

/-- A counter's valid cells: the value of each, by index. -/
def cellsOf (mem : List Host.Cell) (ecc : EccReport) (n : Nat) : List (Nat × Nat) :=
  (List.range 16).filterMap fun k =>
    let w := leNat (readBytes mem (counterAddr n + 4 * k) 4)
    let v := w % 2 ^ 28
    if lostWord ecc (counterAddr n / 8 + k / 2) || w / 2 ^ 28 != cellCheck v then none else some (k, v)

/-- The cell of the highest value: none for a counter without a valid cell. -/
def topCell (cs : List (Nat × Nat)) : Option (Nat × Nat) :=
  cs.foldl (fun best c => match best with
    | some b => if b.2 < c.2 then some c else some b
    | none => some c) none

/-- The cell that an increment writes: the one after the cell of the highest value (R438). -/
def nextCell (top : Option (Nat × Nat)) : Nat :=
  match top with
  | some c => (c.1 + 1) % 16
  | none => 0

/-- A counter's value. -/
def counterValue (mem : List Host.Cell) (ecc : EccReport) (n : Nat) : Nat :=
  ((topCell (cellsOf mem ecc n)).map (·.2)).getD 0

end Sys2Proof.Machine
end

