-- ==== Sys2Proof/Machine/EnergyRec.lean ====
section
/-!
DEFINITION. The records of the grist ledger and the cask gauge (R313) and the end of a power-fail
take-down (R293).
-/

namespace Sys2Proof.Machine

/-- An exact figure as a register or a record shows it: itself when whole, otherwise one of its two
neighbours (log 7); `n` is the place that shows it. -/
def shown (n : Nat) (x : Rat) : Int :=
  if (x.floor : Rat) = x then x.floor
  else if Config.roundsUp n x then x.floor + 1 else x.floor

/-- The n low bytes of an integer, least significant first. -/
def leInt (n : Nat) (x : Int) : List Byte := leBytes n (x % (2 ^ (8 * n) : Nat)).toNat

/-- C in force, in units of 10 µF (R284). -/
def holdC (s : State) : Rat := s.ldg.cLearned.getD ((s.cfg.cnom : Nat) : Rat)

/-- Q_L, mAh (R297). -/
def packQ (s : State) : Rat := s.gau.ql.getD ((s.cfg.qnom : Nat) : Rat)

/-- GAU_STATUS.NRHRS. -/
def nrhrs (s : State) : Nat := min 65535 (s.gau.restlessMs / 3600000)

/-- The gauge record. -/
def gaugeRecord (s : State) : List Byte :=
  let u := s.gau
  leBytes 8 (timeNow s).toNat ++ leInt 2 (shown 0x900 (u.soce * 10000)) ++ leInt 2 (shown 0x901 u.u) ++
    leBytes 2 (bit u.fullseen + 2 * bit u.norest) ++ leBytes 2 (nrhrs s) ++
    leInt 4 (shown 0x902 (packQ s)) ++ leInt 4 (shown 0x903 u.r0) ++ leInt 4 (shown 0x904 u.rp) ++
    leInt 4 (shown 0x905 u.tau) ++ leInt 4 (shown 0x906 (holdC s)) ++
    leBytes 8 s.ldg.lastReturn.toNat ++ leBytes 4 0

/-- Event 0x7E: block 0x0 is the ledger, 0x1 the gauge (R316). -/
def raiseEnergy (blk elem cause hi : Nat) (s : State) : State :=
  raiseLimited 0x7E cause blk (srcId 0xB blk 0 elem (16 * hi + cause)) 0 noAccess s

/-- The two blocks commit a record; a commit that the NV controller does not take has failed (R313). -/
def energyCommit (id : Fin 64) (payload : List Byte) (s : State) : State :=
  if nvOpen s then recordCommit id payload s else raiseEnergy 0 3 5 0 s

/-- The gauge and ledger commit their record. -/
def commitGauge (s : State) : State :=
  (energyCommit 9 (gaugeRecord s) s).upGau fun u => { u with newPack := false }

/-- The blackout record. -/
def blackoutRecord (b : Blackout) (outcome : Nat) (s : State) : List Byte :=
  leBytes 8 b.lossTime.toNat ++ leBytes 8 (timeNow s).toNat ++ leInt 8 (shown 0x910 b.drawn) ++
    leInt 2 (shown 0x911 (b.socrLoss * 10000)) ++ leInt 2 (shown 0x912 (s.gau.socr * 10000)) ++
    leBytes 1 outcome ++ leBytes 1 b.trigger.toNat ++ leInt 2 (shown 0x913 (b.lowest / 10000)) ++
    leInt 4 (shown 0x914 (b.cMeas.getD 0)) ++ leInt 4 (shown 0x915 b.pLoss) ++
    leBytes 4 b.rideLoss.toNat ++ leBytes 4 0

/-- The blackout record closes, and a capacity test ends with it (R293, R296). -/
def closeBlackout (outcome : Nat) (s : State) : State :=
  match s.ldg.blackout with
  | none => s
  | some b =>
    let s := energyCommit 11 (blackoutRecord b outcome s) s
    s.upLdg fun l => { l with blackout := none, capArmed := false }

/-- Every rail of the groups in PFGRP is OFF, FAILED or BLOCKED. -/
def powerFailDone (s : State) : Bool :=
  (usedRails s.cfg).all fun i =>
    !Nat.testBit s.cfg.pfgrp (groupOf s.cfg i).val || isDown (railState s i)

/-- DOWN ends once every group in PFGRP is OFF (R293). -/
def spentIfDone (s : State) : State :=
  if s.ldg.src == .down && powerFailDone s && domOn s pdGau then
    let s := commitGauge s
    let s := closeBlackout (if s.ldg.capArmed then 4 else 3) s
    countUp 1 (s.upLdg fun l => { l with src := .spent, ride := 0 })
  else s

end Sys2Proof.Machine
end

