-- ==== Sys2Proof/Machine/Gauge.lean ====
section
/-!
DEFINITION. The cask gauge (R297 to R312): its tables, its model of the pack, the states of charge and
the learning of capacity. Voltages are in µV, currents in mA, resistances in µΩ, times in ms, states of
charge are fractions of 1.
-/

namespace Sys2Proof.Machine

/-- a / b, and a free value where b is 0 and the manual states no quotient (log 6). -/
def divFree (a b : Rat) (s : State) : State × Rat :=
  if b = 0 then let f := takeFree s; (f.2, (f.1.toInt : Rat)) else (s, a / b)

def absRat (x : Rat) : Rat := if x < 0 then -x else x
def clampRat (lo hi x : Rat) : Rat := if x < lo then lo else if hi < x then hi else x

/-- The mean of some samples' VALUE. -/
def meanValue (xs : List Sample) : Option Rat :=
  if xs.isEmpty then none
  else some (((xs.foldl (fun (a : Int) x => a + x.value) 0 : Int) : Rat) / ((xs.length : Nat) : Rat))

/-- A quantity of R280 from a mean VALUE and its scale. -/
def scaled (k : Int) (x : Rat) : Rat := x * (k : Rat) / 256

/-- 2^96, the unit of the fixed-point logarithm. -/
def lnUnit : Nat := 2 ^ 96

/-- The sum over odd k from k on of z^k / k, with p = z^k and the square of z, in units of 2^-96. -/
def atanhSum : Nat → Nat → Nat → Nat → Nat
  | 0, _, _, _ => 0
  | n + 1, k, p, z2 => p / k + atanhSum n (k + 2) (p * z2 / lnUnit) z2

/-- -ln of a ratio p / q with q / 2 < p ≤ q, in units of 2^-96: twice the inverse hyperbolic tangent of
(q - p) / (q + p), which is at most 1/3. -/
def negLnUnit (p q : Nat) : Nat :=
  let z := (q - p) * lnUnit / (q + p)
  2 * atanhSum 40 1 z (z * z / lnUnit)

/-- -ln x for 0 < x < 1 (R302), to within 2^-80 (log 62): x is brought up to (1/2, 1] by a power of two. -/
def negLn (x : Rat) : Rat :=
  let p := x.num.toNat
  let k := Nat.log2 (x.den / p)
  ((negLnUnit (p * 2 ^ k) x.den + k * negLnUnit 1 2 : Nat) : Rat) / ((lnUnit : Nat) : Rat)

/-! ## Tables (R298, R299) -/

/-- A point of the row in force: state of charge and cell voltage. -/
abbrev OcvPoint := Rat × Rat

/-- The cell voltages at one of the four temperatures. -/
def ocvRow (g : Setup) (t : Nat) : List OcvPoint :=
  (List.range 32).map fun k =>
    (((g.spt k : Nat) : Rat) / 10000, ((g.ocv (32 * t + k) : Nat) : Rat) * 100)

/-- Two rows at a point between them. -/
def mixRows (w : Rat) (a b : List OcvPoint) : List OcvPoint :=
  (a.zip b).map fun e => (e.1.1, e.1.2 + (e.2.2 - e.1.2) * w)

/-- The row in force at a pack temperature in 0.1 °C. -/
def rowAt (g : Setup) (t : Rat) : List OcvPoint :=
  let at_ := fun (k : Nat) => ((10 * g.tpt k : Int) : Rat)
  if t ≤ at_ 0 then ocvRow g 0
  else match [0, 1, 2].find? fun k => decide (t < at_ (k + 1)) with
    | some k => mixRows ((t - at_ k) / (at_ (k + 1) - at_ k)) (ocvRow g k) (ocvRow g (k + 1))
    | none => ocvRow g 3

/-- The lowest state of charge at which the row reaches v; none where it never does. -/
def lowestAt (v : Rat) : List OcvPoint → Option Rat
  | [] => none
  | [p] => if v ≤ p.2 then some p.1 else none
  | p :: q :: ps =>
    if v ≤ p.2 then some p.1
    else if v ≤ q.2 then some (p.1 + (v - p.2) / (q.2 - p.2) * (q.1 - p.1))
    else lowestAt v (q :: ps)

/-- The highest state of charge at which the row is not above v; none where it is above throughout. -/
def highestAt (v : Rat) : List OcvPoint → Option Rat
  | [] => none
  | [p] => if p.2 ≤ v then some p.1 else none
  | p :: q :: ps =>
    if q.2 ≤ v then highestAt v (q :: ps)
    else if p.2 ≤ v then some (p.1 + (v - p.2) / (q.2 - p.2) * (q.1 - p.1))
    else none

/-- The inverse lookup of R298: the midpoint of a flat segment; beyond the row its ends. -/
def inverseAt (v : Rat) (row : List OcvPoint) : Rat :=
  match lowestAt v row, highestAt v row with
  | some a, some b => (a + b) / 2
  | none, _ => 1
  | _, none => 0

/-- The width of the segment at which an inverse lookup reads. -/
def segmentWidth (v : Rat) (row : List OcvPoint) : Rat :=
  let x := inverseAt v row
  match lowestAt v row, highestAt v row with
  | some a, some b =>
    if a < b then b - a
    else match (row.zip row.tail).find? fun e => decide (e.1.1 ≤ x) && decide (x ≤ e.2.1) with
      | some e => e.2.1 - e.1.1
      | none => 0
  | _, _ => match row.zip row.tail with
    | [] => 0
    | e :: es => if x = 0 then e.2.1 - e.1.1 else match (e :: es).getLast? with
      | some l => l.2.1 - l.1.1
      | none => 0

/-- The integral of (row − drop) from a to b by trapezoids (R307), in µV. -/
def rowIntegral (row : List OcvPoint) (drop a b : Rat) : Rat :=
  (row.zip row.tail).foldl (fun (acc : Rat) e =>
    let p := e.1
    let q := e.2
    let lo := max p.1 a
    let hi := min q.1 b
    if lo < hi then
      let f := fun (x : Rat) => p.2 + (x - p.1) / (q.1 - p.1) * (q.2 - p.2) - drop
      acc + (f lo + f hi) / 2 * (hi - lo)
    else acc) 0

/-- The thermistor table's entries in the order of rising VALUE. -/
def ttab (g : Setup) : List (Rat × Rat) :=
  let xs := (List.range 16).map fun n => ((g.ttabValue n : Rat), (g.ttabTemp n : Rat))
  if g.ttabValue 0 < g.ttabValue 15 then xs else xs.reverse

/-- The pack temperature in 0.1 °C, and whether the VALUE lies outside the table (R299). -/
def packTemp (g : Setup) (x : Rat) : Rat × Bool :=
  let xs := ttab g
  match (xs.zip xs.tail).find? fun e => decide (e.1.1 ≤ x) && decide (x ≤ e.2.1) with
  | some e => (e.1.2 + (x - e.1.1) / (e.2.1 - e.1.1) * (e.2.2 - e.1.2), false)
  | none => match xs.head?, xs.getLast? with
    | some a, some b => (if x < a.1 then a.2 else b.2, true)
    | _, _ => (0, true)

/-! ## Anchors, full and learning (R304, R305, R309, R310, R311) -/

/-- The learning run is disqualified, with its reason (R310, R311). -/
def disqualify (reason : Nat) (s : State) : State :=
  if s.gau.learn.isNone then s
  else
    let s := s.upGau fun u => { u with learn := none }
    if s.ldg.capArmed then raiseEnergy 1 2 11 reason s else s

/-- An anchor sets SoC_q and SoC_e and ends a disagreement. -/
def anchor (x : Rat) (s : State) : State :=
  s.upGau fun u => { u with socq := x, soce := x, disagree := false }

/-- Full is detected (R305, R306, R310). -/
def fullDetected (s : State) : State :=
  (anchor 1 s).upGau fun u =>
    { u with fullseen := true, u := 10,
             learn := some { fullTime := timeNow s, charge := 0, chargeMs := 0, tempSum := 0, tempN := 0 } }

/-- A rest reading (R304, R306). -/
def restReading (v : Rat) (row : List OcvPoint) (s : State) : State :=
  let s := anchor s.gau.socv s
  s.upGau fun u =>
    { u with u := max 10 (segmentWidth v row * 1000 / 2), restlessMs := 0, norest := false,
             restTaken := true }

/-- The capacity record (R313). -/
def capacityRecord (l : Learn) (counted q : Rat) (rejected : Bool) (s : State) : List Byte :=
  leBytes 8 l.fullTime.toNat ++ leBytes 8 (timeNow s).toNat ++ leInt 4 (shown 0x920 counted) ++
    leInt 4 (shown 0x921 q) ++ leInt 2 (shown 0x922 (s.gau.socv * 10000)) ++
    leInt 2 (shown 0x923 (if l.tempN = 0 then 0 else l.tempSum / ((l.tempN : Nat) : Rat))) ++
    leBytes 1 (bit rejected + 2 * bit s.ldg.capArmed + 4 * bit s.cfg.chem) ++ leBytes 3 0

/-- The learning run completes at empty (R310, R311). -/
def learnDone (l : Learn) (s : State) : State :=
  let counted := l.charge / 3600000
  let v := s.gau.socv
  let q := if v ≤ 1 / 10 then counted / (1 - v) else counted
  let nom : Rat := ((s.cfg.qnom : Nat) : Rat)
  let good := decide (nom / 2 ≤ q) && decide (q ≤ nom * 11 / 10)
  let s := energyCommit 10 (capacityRecord l counted q (!good) s) s
  let s := s.upGau fun u => { u with learn := none }
  if good then
    raiseEnergy 1 2 10 0 <| commitGauge <| countUp 2 <|
      s.upGau fun u => { u with ql := some q, nql := u.nql + 1 }
  else raiseEnergy 1 2 11 0 s

/-! ## Start (R300, R312) -/

/-- The gauge starts without a record: its impedance from the set-up, its states of charge from SoC_v at
the first update. SOCR is set only at a start of the part. A board without a pack has no pack voltage or
current. -/
def gaugeNew (s : State) : State :=
  let pack := fun (x : Rat) => if s.cfg.ns = 0 then 0 else x
  s.upGau fun u =>
    { Gau.reset with
      socr := u.socr, socrInit := u.socrInit, socv := u.socv, vpk := pack u.vpk, ipk := pack u.ipk, tpk := u.tpk,
      r0 := ((s.cfg.r00 * 10 : Nat) : Rat), rp := ((s.cfg.rp0 * 10 : Nat) : Rat),
      tau := ((s.cfg.tau0 * 100 : Nat) : Rat), ql := none, nql := u.nql }

/-- The gauge starts from its record's payload. -/
def gaugeFrom (p : List Byte) (s : State) : State :=
  let n := fun (i k : Nat) => ((natAt p i k : Nat) : Rat)
  (gaugeNew s).upGau fun u =>
    { u with fresh := false, soce := n 8 2 / 10000, socq := n 8 2 / 10000,
             u := n 10 2 + 20, ql := some (n 16 4), r0 := n 20 4, rp := n 24 4, tau := n 28 4 }

/-- The gauge loads its record and starts (R312, R315). -/
def gaugeStart (ecc : EccReport) (s : State) : State :=
  let f := recLook ecc 9 s
  match f.value with
  | some v => gaugeFrom v.2 f.s
  | none => gaugeNew f.s

/-- At a start or a wake the ledger takes C and the last return from the same record (R312, R313). Where the set-up has
given the gauge another pack while it was off, it starts as without a record (R319). -/
def gaugeBoot (ecc : EccReport) (s : State) : State :=
  if s.gau.newPack then (gaugeNew s).upGau fun u => { u with newPack := true } else
  let s := gaugeStart ecc s
  match (recLook ecc 9 s).value with
  | some v => s.upLdg fun l =>
      { l with cLearned := some ((natAt v.2 32 4 : Nat) : Rat), lastReturn := BitVec.ofNat 64 (natAt v.2 36 8) }
  | none => s

/-! ## Impedance (R301, R302) -/

/-- x moved by a quarter of the difference to a measurement between 0.25 and 4 times of it. -/
def quarterMove (x m : Rat) : Rat := if x / 4 ≤ m ∧ m ≤ 4 * x then x + (m - x) / 4 else x

/-- One relaxation of R302 at a mean whose window starts at `start`. -/
def relaxOne (start : Nat) (i v : Rat) (s : State) (x : Relax) : State :=
  let t := s.cfg.tstep * msSlots
  let drop := if 0 ≤ x.dI then x.vAfter - v else v - x.vAfter
  let keep := fun (y : Relax) => s.upGau fun u => { u with relax := u.relax ++ [y] }
  if x.band < absRat (i - x.level) then s
  else if start < x.at_ + t then keep x
  else if start < x.at_ + 2 * t then keep { x with d1 := some (x.d1.getD drop) }
  else match x.d1 with
    | none => s
    | some d1 =>
      if d1 ≠ 0 ∧ 1 < drop / d1 ∧ drop / d1 < 2 then
        let y := drop / d1 - 1
        let tauM := ((s.cfg.tstep : Nat) : Rat) / negLn y
        let rpM := d1 / ((1 - y) * absRat x.dI) * 1000
        s.upGau fun u => { u with tau := quarterMove u.tau tauM, rp := quarterMove u.rp rpM }
      else s

/-- The relaxations under way at a mean. -/
def relaxMean (start : Nat) (i v : Rat) (s : State) : State :=
  s.gau.relax.foldl (relaxOne start i v) (s.upGau fun u => { u with relax := [] })

/-- A step of R301 confirmed by the newest of three means. -/
def stepMeans (start : Nat) (s : State) : State :=
  match s.gau.find.means with
  | (i0, _) :: (i1, v1) :: (i2, v2) :: _ =>
    let d := i1 - i2
    if 500 ≤ absRat d ∧ absRat (i0 - i1) ≤ absRat d / 10 then
      s.upGau fun u =>
        { u with r0 := quarterMove u.r0 ((v2 - v1) / d * 1000)
                 relax := u.relax ++ [{ at_ := start - 51200, level := i1, band := absRat d / 10, dI := d,
                                        vAfter := v1, d1 := none }] }
    else s
  | _ => s

/-- A window of 200 µs ends. -/
def closeMean (at_ : Nat) (s : State) : State :=
  let w := s.gau.find
  let clear := fun (u : Gau) (ms : List (Rat × Rat)) =>
    { u with find :=
        { start := w.start + 51200 * ((at_ - w.start) / 51200), isum := 0, icount := 0, vsum := 0,
          vcount := 0, means := ms } }
  if w.icount = 0 ∨ w.vcount = 0 ∨ 2 * 51200 ≤ at_ - w.start then s.upGau fun u => clear u []
  else
    let i := scaled s.cfg.kpi ((w.isum : Rat) / ((w.icount : Nat) : Rat))
    let v := scaled (s.cfg.kpv : Nat) ((w.vsum : Rat) / ((w.vcount : Nat) : Rat))
    let s := s.upGau fun u => clear u (((i, v) :: w.means).take 3)
    relaxMean w.start i v (stepMeans w.start s)

/-- A fresh result takes part in the step detection; one that follows a gap of more than 100 µs begins
anew (R281). -/
def findStep (last : Option Sample) (at_ : Nat) (s : State) : State :=
  let gap := match last with
    | some x => decide (x.slot + 25600 < at_)
    | none => true
  if gap then s.upGau fun u => { u with find := { StepFind.reset with start := at_ } }
  else if s.gau.find.start + 51200 ≤ at_ then closeMean at_ s
  else s

/-- No fresh result of a channel for 10 ms. -/
def tooOld (x : Option Sample) (s : State) : Bool :=
  match x with
  | some x => decide (x.slot + 10 * msSlots ≤ s.clk.slot)
  | none => true

/-- Some channel of the gauge is stale. -/
def gaugeOld (s : State) : Bool :=
  tooOld s.gau.lastV s || tooOld s.gau.lastI s || tooOld s.gau.lastT s

/-- STALE clears with the next fresh result. -/
def gaugeFresh (s : State) : State := s.upGau fun u => { u with stale := u.stale && gaugeOld s }

/-- A fresh pack voltage. -/
def feedPackV (x : Sample) (s : State) : State :=
  let s := findStep s.gau.lastV x.slot s
  gaugeFresh <| s.upGau fun u =>
    { u with vNew := u.vNew ++ [x], lastV := some x,
             find := { u.find with vsum := u.find.vsum + x.value, vcount := u.find.vcount + 1 } }

/-- A fresh pack current. -/
def feedPackI (x : Sample) (s : State) : State :=
  let s := findStep s.gau.lastI x.slot s
  gaugeFresh <| s.upGau fun u =>
    { u with iNew := u.iNew ++ [x], lastI := some x,
             find := { u.find with isum := u.find.isum + x.value, icount := u.find.icount + 1 } }

/-- A fresh pack temperature. -/
def feedPackT (x : Sample) (s : State) : State :=
  gaugeFresh <| s.upGau fun u => { u with tNew := u.tNew ++ [x], lastT := some x }

/-! ## The update (R278, R300 to R310) -/

/-- The means of the update. While a channel is stale the last ones hold (R281). -/
def gaugeMeans (s : State) : State :=
  if s.gau.stale then s.upGau fun u => { u with vNew := [], iNew := [], tNew := [] } else
  let g := s.cfg
  let u := s.gau
  let vpk := match meanValue u.vNew with
    | some x => scaled (g.kpv : Nat) x
    | none => u.vpk
  let ipk := match meanValue u.iNew with
    | some x => scaled g.kpi x
    | none => u.ipk
  let t := (meanValue u.tNew).map (packTemp g)
  let tout := match t with
    | some e => e.2
    | none => u.tout
  let began := tout && !u.tout
  let s := s.upGau fun u =>
    { u with vpk := vpk, ipk := ipk, tpk := (t.map (·.1)).getD u.tpk, tout := tout, vNew := [], iNew := [],
             tNew := [] }
  if began then raiseEnergy 1 0 12 0 (disqualify 4 s) else s

/-- The compensated voltage, V + I × R0 (R305). -/
def compensated (s : State) : Rat := s.gau.vpk + s.gau.ipk * s.gau.r0 / 1000

/-- NS × VCUT in µV. -/
def cutoff (s : State) : Rat := ((s.cfg.ns * s.cfg.vcut * 100 : Nat) : Rat)

/-- The model (R300). -/
def gaugeModel (s : State) : State :=
  let u := s.gau
  let f := divFree (u.ipk * u.rp / 1000 - u.vp) u.tau s
  let vp := u.vp + f.2
  let ocv := (u.vpk + u.ipk * u.r0 / 1000 + vp) / ((s.cfg.ns : Nat) : Rat)
  f.1.upGau fun u => { u with vp := vp, ocvEst := ocv }

/-- Rest and full (R304, R305). -/
def gaugeAnchors (row : List OcvPoint) (s : State) : State :=
  let g := s.cfg
  let s := s.upGau fun u =>
    if absRat u.ipk < ((g.irest : Nat) : Rat) then { u with restMs := u.restMs + 1 }
    else { u with restMs := 0, restTaken := false }
  let s := if g.rest * 60000 ≤ s.gau.restMs && !s.gau.restTaken then restReading s.gau.ocvEst row s else s
  let near := decide (((g.vfull * 100 : Nat) : Rat) ≤ s.gau.ocvEst) && decide (s.gau.ipk < 0) &&
    decide (-s.gau.ipk < ((g.itaper : Nat) : Rat))
  let s := s.upGau fun u => { u with fullMs := if near then u.fullMs + 1 else 0 }
  if s.gau.fullMs = 60000 then fullDetected s else s

/-- The hours without rest and U (R306). -/
def gaugeHours (s : State) : State :=
  let s := s.upGau fun u => { u with restlessMs := u.restlessMs + 1 }
  if s.gau.restlessMs % 3600000 ≠ 0 then s
  else
    let s := s.upGau fun u => { u with u := max u.u (min 200 (u.u + 5)) }
    if s.cfg.nrh ≤ nrhrs s && !s.gau.norest then
      raiseEnergy 1 0 9 0 (s.upGau fun u => { u with norest := true })
    else s

/-- The learning run's count, its disqualification by charging and its end (R310). -/
def gaugeLearn (s : State) : State :=
  let s := s.upGau fun u => { u with cutMs := if compensated s ≤ cutoff s then u.cutMs + 1 else 0 }
  match s.gau.learn with
  | none => s
  | some l =>
    let i := s.gau.ipk
    let l := { l with charge := if 0 < i then l.charge + i else l.charge
                      chargeMs := if ((s.cfg.itaper : Nat) : Rat) < -i then l.chargeMs + 1 else 0
                      tempSum := l.tempSum + s.gau.tpk
                      tempN := l.tempN + 1 }
    let s := s.upGau fun u => { u with learn := some l }
    if l.chargeMs = 10000 then disqualify 1 s
    else if 10 ≤ s.gau.cutMs then learnDone l s
    else s

/-- The disagreement of R309. -/
def gaugeDisagree (s : State) : State :=
  let u := s.gau
  let lim : Rat := ((s.cfg.dislim : Nat) : Rat) / 100
  if u.disagree then
    if u.socv ≤ u.socq + lim then s.upGau fun u => { u with disagree := false } else s
  else if u.socq ≤ 1 / 100 ∧ 1 / 100 + lim ≤ u.socv then
    raiseEnergy 1 0 8 0 (disqualify 3 (s.upGau fun u => { u with disagree := true }))
  else s

/-- SOCR (R308). -/
def gaugeReported (change : Rat) (s : State) : State :=
  s.upGau fun u =>
    let r := if u.socrInit then u.soce
      else
        let x := u.socr + change
        let step : Rat := ((s.cfg.rate : Nat) : Rat) / 60000000
        if x < u.soce then min u.soce (x + step) else max u.soce (x - step)
    let r := clampRat 0 1 r
    { u with socrInit := false, socr := if u.disagree then max (1 / 100) r else r }

/-- The energy of R307 at a state of charge, in µJ, with i_plan given. -/
def packEnergy (g : Setup) (row : List OcvPoint) (q r0 rp iPlan x : Rat) : Rat :=
  let ns : Rat := ((g.ns : Nat) : Rat)
  let drop := iPlan * (r0 + rp) / 1000 / ns
  let cut := (lowestAt (((g.vcut * 100 : Nat) : Rat) + drop) row).getD 1
  if x ≤ cut then 0
  else q * (36 / 10) * ns * rowIntegral row drop cut x * ((g.pkeff : Nat) : Rat) / 1000

/-- E_pk (R307, R309). -/
def gaugeEnergy (row : List OcvPoint) (s : State) : State :=
  let g := s.cfg
  let u := s.gau
  let f := divFree (s.ldg.pPlan * 1000 * 1000000)
    (((g.pkeff * g.ns : Nat) : Rat) * u.ocvEst) s
  let e := packEnergy g row (packQ s) u.r0 u.rp f.2
  let pk := if u.disagree then e u.socv else min (e u.socq) (e u.socv)
  f.1.upLdg fun l => { l with ePack := pk }

/-- One update of the gauge (R278). A board without a pack has no gauge to update (R297). -/
def gaugeUpdate (s : State) : State :=
  if s.cfg.ns = 0 then
    (s.upGau fun u => { u with vNew := [], iNew := [], tNew := [] }).upLdg fun l => { l with ePack := 0 }
  else
    let s := gaugeMeans s
    let row := rowAt s.cfg s.gau.tpk
    let s := gaugeModel s
    let v := inverseAt s.gau.ocvEst row
    let s := s.upGau fun u =>
      { u with socv := v, socq := if u.fresh then v else u.socq, soce := if u.fresh then v else u.soce,
               u := if u.fresh then 200 else u.u, fresh := false }
    let f := divFree (-s.gau.ipk) (packQ s * 3600000) s
    let s := f.1.upGau fun u =>
      { u with socq := clampRat 0 1 (u.socq + f.2), soce := clampRat 0 1 (u.soce + f.2),
               secMs := u.secMs + 1 }
    let s := if s.gau.secMs < 1000 then s
      else s.upGau fun u =>
        let h : Rat := ((nrhrs s : Nat) : Rat)
        { u with secMs := 0, soce := u.soce + (u.socv - u.soce) / (600 * (1 + h / 8)) }
    gaugeEnergy row <| gaugeReported f.2 <| gaugeDisagree <| gaugeLearn <| gaugeHours <|
      gaugeAnchors row s

end Sys2Proof.Machine
end

