-- ==== Sys2Proof/Machine/HeelCmds.lean ====
section
/-!
DEFINITION. The heel loop's pulses and its monitor as commands (R216 to R223).
-/

namespace Sys2Proof.Machine

/-! ## Pulses (R217) -/

/-- HBLANK has passed since the last pulse of the heel set began. -/
def blankOver (s : State) (r : Rail) : Bool :=
  s.fb[r].firedAt.all fun t => decide (t + heelSteps (s.cfg.hblank r.val) ≤ rcNow s)

/-- HEEL_BLANK_EXPIRY (R217): the valley still tripped, a further pulse starts. -/
def execHeelBlankExpiry (r : Rail) (s : State) : Res := .next (if blankOver s r then heelFire r s else s)

/-! ## The monitor (R222, R223) -/

/-- One measured pulse of a generator; the monitor measures while the PLL is locked. -/
def measure (r : Rail) (ok : Bool) (s : State) : State :=
  if !s.clk.lock then s
  else s.upFb r fun f => { f with badPulses := if ok then 0 else f.badPulses + 1 }

/-- HEEL_ON_TIME_END (R217, R222): a pulse of phase h ends; two failed measurements in a row fail the
loop. -/
def execHeelOnTimeEnd (r : Rail) (h : Phase) (inTolerance : Bool) (s : State) : Res :=
  .next <|
    if !s.fb[r].hact || !s.fb[r].firing.contains h then s
    else
      let s := measure r inTolerance (heelEnd r h s)
      if 2 ≤ s.fb[r].badPulses then heelFailed r 2 2 s else s

/-- Event 0x66 when a heel loop that does not carry its rail has just become unavailable (R222). -/
def heelChange (before : Bool) (r : Rail) (elem cause : Nat) (s : State) : State :=
  if before && !heelAvail s r then raise 0x66 (srcId 0x5 0x1 r.val elem cause) 0 s else s

/-- HEEL_TEST_PULSE (R222), at a multiple of 64 000 ticks. -/
def execHeelTestPulse (r : Rail) (inTolerance : Bool) (s : State) : Res :=
  .next <|
    if !domOn s pdPwm || !s.cfg.hen r.val || s.fb[r].hact || !onGrid s s.fb[r].testAt then s
    else
      let t := s.upFb r fun f => { f with testAt := some s.tmr.now }
      heelChange (heelAvail s r) r 0 1 (measure r inTolerance t)

/-- HEEL_STALL (R223): the valley, or the ceiling while no pulse fires, has stayed tripped for 20 µs. -/
def execHeelStall (r : Rail) (ceiling : Bool) (s : State) : Res :=
  let w := wires s (localWin r)
  .next <|
    if !s.fb[r].hact then s
    else if ceiling then
      if w.high && s.fb[r].firing.isEmpty then heelFailed r 1 4 s else s
    else if w.low then heelFailed r 1 3 s else s

end Sys2Proof.Machine
end

