-- ==== Sys2Proof/Machine/Tick.lean ====
section
/-!
DEFINITION. The passing of time: the end of a CK_FAB slot (R27), the edges of the 32.768 kHz clock (R481) and, while
no switched domain is on, the time from one such edge to the next.
-/

namespace Sys2Proof.Machine

/-- The AO edges up to a count of the RC oscillator: one in 7812.5 (R27; log 1). -/
def aoEdges (rc : Nat) : Nat := rc * 2 / 15625

/-- The count at which the next AO edge falls. -/
def nextEdge (rc : Nat) : Nat := ((aoEdges rc + 1) * 15625 + 1) / 2

/-- An AO edge: PD_AO takes the time-stamp's count while PD_FAB runs, and counts the edges while it does not
(R481). -/
def aoEdge (s : State) : State :=
  if !domOn s 0 then s
  else if domOn s pdFab then s.upTmr fun t => { t with mirror := some t.now, gap := 0 }
  else s.upTmr fun t => { t with gap := t.gap + 1 }

/-- The CK_PER ticks of the time-stamp in the next n slots: one in four slots while the root PLL is locked, and 4 at
each tick of the 16 MHz RC oscillator while it is not (R481). -/
def stampTicks (n : Nat) (s : State) : Nat :=
  if s.clk.lock then (s.clk.slot + n) / 4 - s.clk.slot / 4 else 4 * ((s.clk.rc + n) / 16 - s.clk.rc / 16)

/-- n slots pass, none of which holds an AO edge before its end. The RC oscillator of the heel loops lies in PD_AO and
runs on without the root PLL and without PD_FAB (R12, R31; log 49); the slot counter stops without the PLL, and the
time-stamp with PD_FAB. -/
def passSlots (n : Nat) (s : State) : State :=
  let t := s.upClk fun c => { c with rc := c.rc + n, slot := if domOn s pdFab && c.lock then c.slot + n else c.slot }
  let t := if domOn s pdFab then t.upTmr fun t => { t with now := t.now + BitVec.ofNat 63 (stampTicks n s) } else t
  if aoEdges (s.clk.rc + n) = aoEdges s.clk.rc then t else aoEdge t

/-- The end of a slot. -/
def endSlot (s : State) : State := passSlots 1 s

/-- The slots up to the next AO edge pass. -/
def waitEdge (s : State) : State := passSlots (nextEdge s.clk.rc - s.clk.rc) s

/-- Only PD_AO is on. -/
def onlyAo (s : State) : Bool := s.pwr.phase == .por || s.pwr.phase == .supplyReset || s.pwr.phase == .asleep

/-- A step on an empty queue: one slot passes, or the time up to the next AO edge while only PD_AO is on (log 1). -/
def idleSlot (s : State) : State := if onlyAo s then waitEdge s else endSlot s

end Sys2Proof.Machine
end

