-- ==== Sys2Proof/Machine/Sampling.lean ====
section
/-!
DEFINITION. The converter array's commands (02): slots and the loop lane, slices and their steep
rotation, system calibration and the input-path test.
-/

namespace Sys2Proof.Machine

/-! ## Channels and VALUE (R19, R40 to R46) -/

def bipolar (c : Nat) : Bool := c < 0x40 || c = 0x59 || c = 0x5B

/-- The span of a channel (R19). -/
def spanLo (c : Nat) : Int := if bipolar c then -16384 else 0
def spanHi (c : Nat) : Int := if bipolar c then 16376 else 32760

/-- The domain of a slice (R31). -/
def sliceDom (n : SliceNo) : Nat := if n.val < 9 then pdAdc0 else pdAdc1

/-- The slot planner and the mismatch correction run: they lie in PD_ADC1 (R31). -/
def plannerOn (s : State) : Bool := domOn s pdFab && s.clk.lock && domOn s pdAdc1

/-- A slice's correction of a conversion code (R44). On channel 0x61 the factory correction maps the sensor to
absolute temperature (R43). -/
def sliceValue (a : Slice) (c : Nat) (code : BitVec 12) : Int :=
  let r : Int := if bipolar c then 8 * ((code.toNat : Int) - 2048) else 8 * (code.toNat : Int)
  let vs := ((r - a.ofs.toInt) * (a.gain.toNat : Int) + 2 ^ 14) / 2 ^ 15
  if c = 0x61 then Config.dieTemperature vs else vs

/-- The channel's correction (R44). -/
def channelValue (k : ChanCal) (vs : Int) : Int :=
  ((vs - k.cofs.toInt) * (k.cgain.toNat : Int) + 2 ^ 14) / 2 ^ 15

/-- A channel of the rail-error front ends (R40). -/
def errorChannel (c : Nat) : Bool := decide (0x30 ≤ c) && decide (c < 0x40)

/-- A conversion by a slice is not fresh (R46): flagged, by a failed slice, or without its domain or, on a
rail-error channel, that of the front ends (R18, R31). -/
def staleConv (s : State) (n : SliceNo) (c : Nat) (flagged : Bool) : Bool :=
  flagged || s.adc.slices[n].state != .service || !domOn s (sliceDom n) || (errorChannel c && !domOn s pdAdc0)

/-- A conversion of a channel by a slice (R44 to R46). -/
def convert (s : State) (n : SliceNo) (c : Nat) (code : BitVec 12) (flagged : Bool) : Conv :=
  let stale := staleConv s n c flagged
  let vs := sliceValue s.adc.slices[n] c code
  let v := channelValue s.adc.ccal[Fin.ofNat 104 c] vs
  let sat := clampInt (spanLo c) (spanHi c) v
  let shows := if stale then 0 else sat
  let range := code = 0xFFF || (code = 0 && bipolar c) || sat != v ||
    decide (shows < s.cfg.rangeLo c) || decide (s.cfg.rangeHi c < shows)
  if stale then { vs := 0, value := 0, range := range, stale := true }
  else { vs := vs, value := sat, range := range, stale := false }

/-- A sample record (R18). -/
def packRecord (stamp : Word) (tdac stale range inj : Bool) (slice : Nat) (chan : Nat) (value : Int) :
    BitVec 64 :=
  stamp ++ packWord [(31, 1, bit tdac), (30, 1, bit stale), (29, 1, bit range), (28, 1, bit inj),
    (24, 4, slice), (16, 7, chan), (0, 16, (toBits 16 value).toNat)]

/-- A path test runs: every record that is taken carries TDAC (R80; log 59). -/
def tdacOn (s : State) : Bool := s.adc.ptest.isSome

/-- A record with STALE set and VALUE 0 (R46; log 60). -/
def staleRecord (rec : BitVec 64) : BitVec 64 :=
  rec.extractLsb' 31 33 ++ 1#1 ++ rec.extractLsb' 16 14 ++ 0#16

/-- What is left of a conversion that becomes stale. -/
def Conv.lost (c : Conv) : Conv := { c with vs := 0, value := 0, stale := true }

/-- Conversions whose records are still being formed become stale, by their slices and channels (R46). -/
def staleUnbuilt (p : SliceNo → Nat → Bool) (s : State) : State :=
  let s := s.upEng fun e => { e with sched := e.sched.map fun x =>
    if s.clk.slot < x.built && (p x.slice x.chan.toNat) then { x with rec_ := staleRecord x.rec_ } else x }
  s.upAdc fun a => { a with taken := a.taken.map fun x =>
    if s.clk.slot < x.built && (p x.slice x.chan.toNat) then { x with conv := x.conv.lost } else x }

/-! ## The slot (R37, R38, R60, R62, R73) -/

/-- The present slot carries a sample. -/
def sampleSlot (s : State) : Bool := !s.cfg.lpm || s.clk.slot % 4 = 0

/-- The service position of the present slot. -/
def slotPos (s : State) : Pos := posOfSlot s.cfg s.clk.slot

/-- Requests fall due in the first slot whose sampling edge lies at or after their target instant (R59). -/
def fallDue (s : State) : State :=
  let due := fun (t : LaneTarget) => decide (dueSlot s.cfg t.instant ≤ s.clk.slot)
  s.upAdc fun a =>
    { a with targets := a.targets.filter fun t => !due t,
             due := a.due ++ (a.targets.filter due).map fun t => { req := t.req, due := dueSlot s.cfg t.instant } }

/-- A request has waited for its 7 slots and is to be skipped (R60). -/
def laneLate (s : State) (d : LaneDue) : Bool := decide (d.due + laneLimit s.cfg < s.clk.slot)

/-- The first of the due requests that meet `p`, in the arbiter's order (R60). -/
def pickLane (s : State) (p : LaneDue → Bool) : Option LaneDue :=
  ((s.adc.due.filter p).foldl (fun xs d => laneInsert s.cfg d xs) []).head?

/-- The channel of an error sample, and whether it is taken on the inactive path (R62). -/
def errorChan (s : State) (r : Rail) : Nat × Bool :=
  let f := s.fb[r]
  let local_ := match f.path with
    | .remote => false
    | .local_ => true
    | _ => s.cfg.path0 r.val
  let inactive := s.cfg.xpath r.val && s.adc.errCount[r] = 7 && !f.rlost && !f.llost
  (if local_ != inactive then 0x38 + r.val else 0x30 + r.val, inactive)

/-- The request no longer waits. -/
def removeDue (d : LaneDue) (s : State) : State := s.upAdc fun a => { a with due := a.due.erase d }

/-- The next error sample of the rail (R62). -/
def countError (r : Rail) (s : State) : State :=
  s.upAdc fun a => { a with errCount := vmod a.errCount r (· + 1) }

/-- The slots from the sampling instant to the build of the record, and to its first arrival at the lane pair
(R13, R21, R38, R73). -/
def buildSlots (g : Setup) : Nat := if g.lpm then 36 else 9
def arriveSlots (g : Setup) : Nat := if g.lpm then 38 else 11

/-- The channel that a request has converted now, and whether on the inactive path. -/
def reqChan (s : State) : LaneReq → Nat × Bool
  | .error r _ => errorChan s r
  | .current h _ => (h.val, false)

/-- The loop-lane conversion of a request in this slot: its record, and what the schedule expects (R18, R61). -/
def laneConversion (s : State) (d : LaneDue) (n : SliceNo) (pos : Pos) (code : BitVec 12) (flagged : Bool) :
    Expected :=
  let c := reqChan s d.req
  let v := convert s n c.1 code flagged
  { req := d.req, chan := BitVec.ofNat 7 c.1, stamp := s.clk.slot, inactive := c.2, slice := n
    rec_ := packRecord (stampNow s) (tdacOn s) v.stale v.range false pos.val c.1 v.value
    built := s.clk.slot + buildSlots s.cfg, arrives := s.clk.slot + arriveSlots s.cfg }

/-- A request is served in this slot. The record goes to the lane pair that works on the rail; while none does,
nobody takes it (R126). -/
def serveLane (d : LaneDue) (n : SliceNo) (pos : Pos) (code : BitVec 12) (flagged : Bool) (s : State) : State :=
  let x := laneConversion s d n pos code flagged
  let s := removeDue d s
  let s := match d.req with
    | .error r _ => countError r s
    | .current _ _ => s
  if (worksOn s (reqRail s.cfg d.req)).isSome then s.upEng fun e => { e with sched := e.sched ++ [x] } else s

/-! ## Sequences (R63 to R69) -/

/-- The samples that an entry averages (R64). -/
def regNeed (g : Setup) (i : Nat) : Nat := 2 ^ g.regAvg i
def injNeed (g : Setup) (i : Nat) : Nat := 2 ^ g.injAvg i

/-- A regular entry that must finish before the injected run may start (R67). -/
def regFinishing (s : State) : Bool :=
  s.adc.reg.inRound && s.adc.reg.n != 0 && s.adc.inj.cur = 0 && s.adc.inj.n = 0

/-- The conversions under way for a use and one of its items. -/
def underWay (s : State) (u : FreeUse) (item : Nat) : Nat :=
  s.adc.taken.countP fun x => x.use == u && x.item == item

/-- A calibration still takes samples (R75). -/
def calTakes (s : State) (k : CalRun) : Bool :=
  k.result.isNone && decide (k.n + underWay s .cal 0 < 2 ^ k.k.toNat)

/-- The place of a path test that takes the next sample: the channel, then the neighbour, once the code has
settled (R80). -/
def pathPlace (s : State) (p : PathRun) : Option (Fin 4) :=
  let at_ : List (Fin 4) := if p.atB then [2, 3] else [0, 1]
  if s.clk.slot < p.settled then none
  else at_.find? fun i => decide (p.n[i] + underWay s .ptest i.val < 2 ^ p.k.toNat)

/-- Who takes a slot that the loop lane leaves free (R63). While an injected run waits for its last results the
slot goes to nobody (log 66). -/
def freeUse (s : State) : FreeUse :=
  let a := s.adc
  if a.inj.run then
    if regFinishing s then .regular
    else if a.inj.cur.val ≤ s.cfg.injLen then .injected else .none
  else if a.cal.any (calTakes s) then .cal
  else if a.ptest.any (fun p => (pathPlace s p).isSome) then .ptest
  else if a.reg.inRound then .regular
  else .none

/-- A free slot's conversion of a channel, for an item of its use (R38). -/
def takeSample (u : FreeUse) (item c : Nat) (n : SliceNo) (pos : Pos) (code : BitVec 12) (flagged : Bool)
    (s : State) : State :=
  let x : Taken :=
    { use := u, item := item, chan := BitVec.ofNat 7 c, slice := n, pos := BitVec.ofNat 4 pos.val
      stamp := s.clk.slot, tdac := tdacOn s, conv := convert s n c code flagged
      built := s.clk.slot + buildSlots s.cfg }
  s.upAdc fun a => { a with taken := a.taken ++ [x] }

/-- The regular sequence goes on by one sample (R65, R66). -/
def countRegular (s : State) : State :=
  let q := s.adc.reg
  let last := decide (s.cfg.regLen ≤ q.cur.val)
  let next : RegSeq :=
    if q.n.val + 1 < regNeed s.cfg q.cur.val then { q with n := q.n + 1 }
    else { q with n := 0, cur := if last then 0 else q.cur + 1, inRound := !last }
  s.upAdc fun a => { a with reg := next }

/-- The injected sequence goes on by one sample (R65, R67). -/
def countInjected (s : State) : State :=
  let q := s.adc.inj
  let next : InjSeq :=
    if q.n.val + 1 < injNeed s.cfg q.cur.val then { q with n := q.n + 1 } else { q with n := 0, cur := q.cur + 1 }
  s.upAdc fun a => { a with inj := next }

/-- The channel of a path test at a place. -/
def pathChan (p : PathRun) (i : Fin 4) : Nat := if i.val % 2 = 0 then p.chan.toNat else p.nchan.toNat

/-- A free slot's conversion. -/
def freeSlot (u : FreeUse) (n : SliceNo) (pos : Pos) (code : BitVec 12) (flagged : Bool) (s : State) : State :=
  match u with
  | .injected =>
    let i := s.adc.inj.cur.val
    countInjected (takeSample .injected i (s.cfg.injChan i) n pos code flagged s)
  | .regular =>
    let i := s.adc.reg.cur.val
    countRegular (takeSample .regular i (s.cfg.regChan i) n pos code flagged s)
  | .cal => match s.adc.cal with
    | some k => takeSample .cal 0 k.chan.toNat n pos code flagged s
    | none => s
  | .ptest => match s.adc.ptest.bind fun p => (pathPlace s p).map fun i => (i, pathChan p i) with
    | some x => takeSample .ptest x.1.val x.2 n pos code flagged s
    | none => s
  | .none => s

/-- The 512 slots of 2 µs for which a test-DAC code settles (R80). -/
def settleSlots : Nat := 512

/-- A measurement joins a calibration; a stale one is taken again (log 56). -/
def joinCal (k : CalRun) (x : Taken) : CalRun :=
  let v := x.conv.vs
  if x.conv.stale then k
  else { k with n := k.n + 1, sum := k.sum + v, min := if k.n = 0 then v else min k.min v,
                max := if k.n = 0 then v else max k.max v }

/-- A sample joins a path test, which goes on to code B once it has all of code A; a stale one is taken again
(R80; log 56). -/
def joinPath (slot : Nat) (p : PathRun) (x : Taken) : PathRun :=
  let i := Fin.ofNat 4 x.item
  let need := 2 ^ p.k.toNat
  let q := { p with n := vmod p.n i (· + 1), sums := vmod p.sums i (· + x.conv.value) }
  if x.conv.stale then p
  else if !p.atB && decide (need ≤ q.n[0]) && decide (need ≤ q.n[1]) then
    { q with atB := true, settled := slot + settleSlots }
  else q

/-- A path test has its samples. -/
def PathRun.full (p : PathRun) : Bool :=
  p.atB && decide (2 ^ p.k.toNat ≤ p.n[2]) && decide (2 ^ p.k.toNat ≤ p.n[3])

/-- The samples of a calibration and of a path test whose records have been formed join them. -/
def land (s : State) : State :=
  let formed := fun (u : FreeUse) (x : Taken) => x.use == u && decide (x.built ≤ s.clk.slot)
  let of_ := fun (u : FreeUse) => s.adc.taken.filter (formed u)
  s.upAdc fun a =>
    { a with
      taken := a.taken.filter fun x => !formed .cal x && !formed .ptest x
      cal := a.cal.map fun k => (of_ .cal).foldl joinCal k
      ptest := a.ptest.map fun p => (of_ .ptest).foldl (joinPath s.clk.slot) p }

/-- The conversions under way for a use are given up. -/
def dropTaken (u : FreeUse) (s : State) : State :=
  s.upAdc fun a => { a with taken := a.taken.filter fun x => x.use != u }

/-- The last samples of the entries that have all theirs, of the samples of one sequence (n of them at most). -/
def lastTaken (need : Nat → Nat) : Nat → List Taken → List Taken
  | 0, _ => []
  | _, [] => []
  | n + 1, x :: xs =>
    let ys := (x :: xs).take (need x.item)
    if ys.length < need x.item then []
    else ys.getLast?.toList ++ lastTaken need n ((x :: xs).drop (need x.item))

/-- The results under way, each by its last sample. -/
def resultsUnderWay (s : State) : List Taken :=
  let of_ := fun (u : FreeUse) => s.adc.taken.filter fun x => x.use == u
  let n := s.adc.taken.length
  lastTaken (regNeed s.cfg) n (of_ .regular) ++ lastTaken (injNeed s.cfg) n (of_ .injected)

/-- The ledger or the gauge consumes the results of a channel (R279). -/
def energyChannel (c : Nat) : Bool := decide (0x58 ≤ c) && decide (c ≤ 0x5C)

/-! ## The slices' conversions (R48, R50, R52) -/

/-- The conversion monitor's history (R52). -/
def monitor (n : SliceNo) (flagged : Bool) (s : State) : State :=
  s.upSlice n fun a => { a with mon := (a.mon <<< 1) ||| BitVec.ofNat 64 (bit flagged) }

/-- The unmasked position whose slice has gone longest since its absolute calibration (R50); of equals the
lowest (log 54). -/
def oldestPos (s : State) : Option Pos :=
  ((fins 16).filter fun p => !hasBit s.adc.mask p.val).foldl (fun best p => match best with
    | none => some p
    | some b =>
      if s.adc.slices[s.adc.slotmap[p]].calAt < s.adc.slices[s.adc.slotmap[b]].calAt then some p
      else best) none

/-- The service position that a slice in STEEP or PITCHING shadows: 0 to 15 in its tour (R48), and then the one
that it is about to take (R51; log 54). -/
def shadowPos (s : State) (t : Tour) : Option Pos :=
  match t.claimed with
  | some p => some p
  | none => if t.windows.val < 16 then some (Fin.ofNat 16 t.windows.val) else oldestPos s

/-- A slice outside service converts in the slots of the position that it shadows, at the same sampling edge
(R48); while it calibrates itself, in those of position 0 (log 54). -/
def shadowMonitor (t : Option Tour) (pos : Pos) (flagged : Bool) (s : State) : State :=
  match t with
  | some t => if shadowPos s t == some pos then monitor t.slice flagged s else s
  | none => s

/-- A marker for the converter array has reached its boundary and is not yet applied there (R22, R23). -/
def arrayMarkerDue (s : State) : Bool :=
  s.fab.markers.any fun m => m.targets.contains .adc && m.bstamp.any fun b => decide (b ≤ s.clk.slot)

/-- The conversion of a slot at a position that is in service. A slot that neither the loop lane nor another use
claims makes no conversion, and nothing of it reaches the slice's conversion monitor: R37 names no channel for it
(log 66). -/
def convertSlot (n : SliceNo) (pos : Pos) (code : BitVec 12) (flagged : Bool) (s : State) : State :=
  match pickLane s fun d => !laneLate s d with
  | some d => monitor n flagged (serveLane d n pos code flagged s)
  | none =>
    let u := freeUse s
    if u = .none then s else monitor n flagged (freeSlot u n pos code flagged s)

/-- CONVERSION_SLOT (R38): the slot's conversions, each with the flag of its slice's conversion monitor, and the
end of the slot. A slot at or after the BSTAMP of a marker for the array is converted under its change: the
marker goes first (R23). -/
def execConversionSlot (code : BitVec 12) (flagged : Flagged) (s : State) : Res :=
  .next <|
    if !plannerOn s || !sampleSlot s then endSlot s
    else if arrayMarkerDue s then s
    else
      let s := fallDue (land s)
      let pos := slotPos s
      let s := shadowMonitor s.adc.pitch pos flagged.pitching (shadowMonitor s.adc.tour pos flagged.steep s)
      endSlot (if hasBit s.adc.mask pos.val then s else convertSlot s.adc.slotmap[pos] pos code flagged.service s)

/-- LOOP_LANE_SKIP (R60): a request that was not served within 7 slots of falling due is skipped. -/
def execLoopLaneSkip (s : State) : Res :=
  .next <|
    let s := fallDue s
    match pickLane s (laneLate s) with
    | none => s
    | some d =>
      let s := removeDue d (s.upAdc fun a => { a with llSkip := incSat a.llSkip })
      let s := raise 0x51 (srcId 0x3 0x1 0 0 0) 0 s
      match d.req with
      | .error r _ => staleError r (countError r s)
      | .current _ _ => s

/-- REGULAR_ROUND_START (R66): PACE µs after the previous round started at the earliest. -/
def execRegularRoundStart (s : State) : Res :=
  .next <|
    let r := s.adc.reg
    let due := match r.roundAt with
      | some t => decide (t + 256 * s.cfg.pace ≤ s.clk.slot)
      | none => true
    if s.cfg.regEn && !r.inRound && due && plannerOn s then
      s.upAdc fun a => { a with reg := { cur := 0, n := 0, inRound := true, roundAt := some s.clk.slot } }
    else s

/-- Triggers that find a run in progress are dropped (R68, R69). -/
def dropTriggers (n : Nat) (s : State) : State :=
  (List.range n).foldl (fun s _ =>
    raise 0x52 (srcId 0x3 0x1 0 0 0) 0 (s.upAdc fun a => { a with injDrop := incSat a.injDrop })) s

/-- INJECTED_TRIGGER (R67, R68): the triggers that have arrived start one run, or are dropped. -/
def execInjectedTrigger (s : State) : Res :=
  .next <|
    let j := s.adc.inj
    if j.trig = 0 then s
    else if !s.cfg.injEn then s.upAdc fun a => { a with inj := { a.inj with trig := 0 } }
    else if j.run then
      dropTriggers (countBits j.trig) (s.upAdc fun a => { a with inj := { a.inj with trig := 0 } })
    else s.upAdc fun a =>
      { a with inj := { a.inj with run := true, cur := 0, n := 0, src := j.trig,
                                   runs := j.runs + 1, trig := 0 } }

/-- A trigger of the injected sequence arrives: bit 0 window, 1 Pourn, 2 descriptor. -/
def triggerInjected (k : Nat) (s : State) : State :=
  if s.cfg.injEn then s.upAdc fun a => { a with inj := { a.inj with trig := putBit a.inj.trig k true } }
  else s

/-- ADC_INJECT (R68, R69). One that comes while no run is in progress is a trigger, and those of one slot start one
run: a trigger of another ring that still waits for its INJECTED_TRIGGER does not turn it away. -/
def execAdcInject (q : Ring) (s : State) : Res :=
  .next <| match ready s q 0x11 with
  | none => s
  | some _ =>
    if !s.cfg.injEn then complete q codeState 0 s
    else if s.adc.inj.run then complete q codeBusy 0 (dropTriggers 1 s)
    else triggerInjected 2 (act_ q (s.upAdc fun a => { a with inj := { a.inj with rings := a.inj.rings ++ [q] } }))

/-! ## Slot-plan set-up (R71, R72) -/

/-- ADC_COMMIT (R71). -/
def execAdcCommit (m : Master) (v : Word) (s : State) : Res := .next (writeCommit .adc m v s)

/-- ADC_SEQ_LOAD (R72). -/
def execAdcSeqLoad (q : Ring) (buf : List Word) (s : State) : Res :=
  .next <| match ready s q 0x10 with
  | none => s
  | some d =>
    runSet .adc seqLoadOffs (fun s ws =>
      if reservedSet ws then some codeRange else checkSeqLoad (s.accSetup.over ws)) q buf d s

/-- The loop lane's requests under a slot plan that has become live (R72): each running carrier's targets of its
present period, but for those that have passed, and of the requests that wait those which the plan still has. -/
def replanLane (s : State) : State :=
  let running := (fins 48).filter fun h =>
    s.cfg.role h.val != 0 && s.pwm.rails[railOf s.cfg h].opmode != .off && s.pwm.phases[h].carrLen != 0
  let all := running.flatMap fun h => laneTargets s h s.pwm.phases[h].carrAt
  let due := s.adc.due.filter fun d => all.any fun t => t.req == d.req
  let ahead := all.filter fun t => decide (s.clk.slot ≤ dueSlot s.cfg t.instant) && !due.any fun d => d.req == t.req
  s.upAdc fun a => { a with targets := ahead, due := due }

/-- Both sequences restart at entry 0 and an injected run ends without further results (R72). -/
def restartSequences (s : State) : State :=
  let s := dropTaken .injected (dropTaken .regular (s.adc.inj.rings.foldl (fun s q => complete q codeFlushed 0 s) s))
  s.upAdc fun a =>
    { a with inj := { a.inj with run := false, cur := 0, n := 0, rings := [], trig := 0 },
             reg := { cur := 0, n := 0, inRound := s.cfg.regEn, roundAt := some s.clk.slot } }

/-! ## Slices (R39, R47 to R56) -/

/-- The source of a slice's events. -/
def sliceSrc (n : SliceNo) : Word := srcId 0x3 0x0 n.val 0 0

/-- The map and the masked positions that every marker under way leads to. -/
def nextMap (s : State) : Vector SliceNo 16 × BitVec 16 :=
  ((s.fab.markers.filterMap fun m => m.changes.findSome? fun c => match c with
    | .slotMap map mask => some (map, mask)
    | _ => none).getLast?).getD (s.adc.slotmap, s.adc.mask)

/-- The first slot of a position that comes at least 16 slots from now (R50). -/
def boundaryFor (s : State) (p : Pos) : Nat :=
  let t := s.clk.slot + 16
  if s.cfg.lpm then
    let u := ceilDiv t 4
    4 * (u + (p.val + 16 - u % 16) % 16)
  else t + (p.val + 16 - t % 16) % 16

/-- The slice in steep is given a position by a slot-plan marker (R50, R53). -/
def claim (p : Pos) (s : State) : State :=
  match s.adc.tour with
  | none => s
  | some t =>
    let m := nextMap s
    let map := vput m.1 p t.slice
    let mask := putBit m.2 p.val false
    let s := s.upAdc fun a => { a with tour := some { t with claimed := some p } }
    pushMarkers [{ markerOf .slotPlan tagArray .internal none [.adc] [.slotMap map mask] with
                   bstamp := some (boundaryFor s p) }] s

/-- A tour of a slice, from its absolute calibration on. -/
def newTour (s : State) (n : SliceNo) : Tour :=
  { slice := n, calDone := false, windows := 0, missed := 0, startSlot := s.clk.slot, lastOn := none,
    claimed := none }

/-- The slice in STEEP that can still take a position. -/
def steepFree (s : State) : Option Tour :=
  match s.adc.tour with
  | some t => if s.adc.slices[t.slice].state == .steep && t.claimed.isNone then some t else none
  | none => none

/-- A slice stands in STEEP, called to a position or not. -/
def steepIn (s : State) : Bool := s.adc.tour.any fun t => s.adc.slices[t.slice].state == .steep

/-- A position whose slice is not in service. -/
def unserved (s : State) (p : Pos) : Bool := s.adc.slices[s.adc.slotmap[p]].state != .service

/-- The lowest position that is masked or waits for a slice. -/
def lowestUnserved (s : State) : Option Pos := (fins 16).find? fun p => hasBit s.adc.mask p.val || unserved s p

/-- Without a slice in STEEP every position whose slice is not in service is masked (R54). -/
def maskUnserved (s : State) : State :=
  s.upAdc fun a => { a with mask := a.mask ||| maskOf 16 fun p => unserved s p }

/-- A slice in STEEP takes a masked position, or one whose slice has failed (R53, R55). -/
def claimMasked (s : State) : State :=
  match steepFree s, lowestUnserved s with
  | some _, some p => claim p s
  | _, _ => s

/-- SLICE_ADMIT ends. -/
def endSliceAdmit (code : Nat) (s : State) : State :=
  match s.adc.admission with
  | some q => complete q code 0 (s.upAdc fun a => { a with admission := none })
  | none => s

/-- A service slice fails: the slice in steep takes its position or, where there is none, the position is masked
(R53, R54). While the slice in steep is on its way to a position already, the records of the failed one stay stale:
its own position, or one that the slice displaced by the rotation takes next (log 66). -/
def replaceSlice (n : SliceNo) (s : State) : State :=
  match (fins 16).find? fun p => s.adc.slotmap[p] = n with
  | none => s
  | some p =>
    match steepFree s with
    | some _ => claim p s
    | none => if steepIn s then s else s.upAdc fun a => { a with mask := putBit a.mask p.val true }

/-- The slice in steep fails: no position changes, and those that waited for a slice are masked (R54). -/
def steepLost (s : State) : State := maskUnserved (s.upAdc fun a => { a with tour := none })

/-- A slice is declared failed (R53, R54, R55). -/
def sliceFails (n : SliceNo) (s : State) : State :=
  let was := s.adc.slices[n].state
  let s := s.upSlice n fun a => { a with state := .failed, mon := 0, good := 0 }
  let s := staleUnbuilt (fun sl _ => sl == n) (raise 0x50 (sliceSrc n) 0 s)
  match was with
  | .service => replaceSlice n s
  | .steep => steepLost s
  | .pitching => endSliceAdmit codeSlice (s.upAdc fun a => { a with pitch := none })
  | .failed => s
  | .off => s

/-- SLICE_FAIL (R52): 4 of the last 64 conversions are flagged. -/
def execSliceFail (sl : SliceNo) (s : State) : Res :=
  let a := s.adc.slices[sl]
  .next <|
    if 4 ≤ countBits a.mon && (a.state == .service || a.state == .steep || a.state == .pitching) then
      sliceFails sl s
    else s

/-- SLICE_ADMIT (R55). The conversion monitor of a slice that begins PITCHING starts without a history: the spec does
not say which 64 conversions count after a failure (log 66). -/
def execSliceAdmit (q : Ring) (s : State) : Res :=
  .next <| match ready s q 0x15 with
  | none => s
  | some d =>
    if h : d.pf 0 5 < 17 then
      let n : SliceNo := ⟨d.pf 0 5, h⟩
      match s.adc.slices[n].state with
      | .service => complete q 0 0 s
      | .steep => complete q 0 0 s
      | .pitching => complete q codeBusy 0 s
      | .off => complete q codeState 0 s
      | .failed =>
        if !domOn s (sliceDom n) || s.adc.pitch.isSome then complete q codeState 0 s
        else
          let s := act_ q (s.upSlice n fun a => { a with state := .pitching, good := 0, mon := 0 })
          s.upAdc fun a => { a with admission := some q, pitch := some (newTour s n) }
    else complete q codeRange 0 s

/-- The test-DAC codes of R47 and the VALUE of each. -/
def calCodes : List Int := [128 * 32, 384 * 32, 640 * 32, 896 * 32]

/-- The size of a rational. -/
def ratAbs (x : Rat) : Rat := if x < 0 then -x else x

/-- The least-squares line through the four points, as intercept and slope of result over VALUE, and
its worst residual. -/
def fitLine (c : AbsCal) : Rat × Rat × Rat :=
  let ys : List Rat := [c.sum0, c.sum1, c.sum2, c.sum3].map fun (x : Int) => (x : Rat) / 8192
  let xs : List Rat := calCodes.map fun (x : Int) => (x : Rat)
  let mx : Rat := xs.foldl (· + ·) 0 / 4
  let my : Rat := ys.foldl (· + ·) 0 / 4
  let sxy : Rat := ((xs.zip ys).map fun p => (p.1 - mx) * (p.2 - my)).foldl (· + ·) 0
  let sxx : Rat := (xs.map fun x => (x - mx) * (x - mx)).foldl (· + ·) 0
  let b := sxy / sxx
  let a := my - b * mx
  let worst := ((xs.zip ys).map fun p => ratAbs (p.2 - (a + b * p.1))).foldl max 0
  (a, b, worst)

/-- A rational rounded to the nearest integer, a half upward. -/
def roundRat (x : Rat) : Int := (x + 1 / 2).floor

/-- What channel 0x63 reads with the corrections of a fit, from the slice's uncorrected result (R44, R47). -/
def ref63 (k : ChanCal) (ofs gain : BitVec 16) (raw : Int) : Int :=
  channelValue k (((raw - ofs.toInt) * (gain.toNat : Int) + 2 ^ 14) / 2 ^ 15)

/-- The absolute calibration's corrections, where it passes (R47): the fit is checked against channel 0x63 as it
reads with them. A fit that does not rise fails too, and OFS and GAIN keep 16 bits of the fit (log 53). -/
def absResult (k : ChanCal) (c : AbsCal) : Option (BitVec 16 × BitVec 16) :=
  let f := fitLine c
  let ofs := toBits 16 (roundRat f.1)
  let gain := toBits 16 (roundRat (32768 / f.2.1))
  if 16 < f.2.2 || f.2.1 ≤ 0 || 32 < (ref63 k ofs gain c.ref63 - 16380).natAbs then none else some (ofs, gain)

/-- n conversions of one slice, in slots (R37, R73). -/
def sliceSlots (g : Setup) (n : Nat) : Nat := n * if g.lpm then 64 else 16

/-- The work of a slice outside service, by slice: the tour in STEEP or the one being pitched. -/
def tourOf (s : State) (sl : SliceNo) : Option Tour :=
  (s.adc.tour.filter fun t => t.slice == sl).or (s.adc.pitch.filter fun t => t.slice == sl)

/-- A slice's tour goes on. -/
def putTour (t : Tour) (s : State) : State :=
  s.upAdc fun a =>
    { a with tour := a.tour.map fun x => if x.slice = t.slice then t else x,
             pitch := a.pitch.map fun x => if x.slice = t.slice then t else x }

/-- The test DAC belongs to a path test, or to the stages of a window's proof test that need it (R83, R240). -/
def dacTaken (s : State) : Bool := s.adc.ptest.isSome || s.cmp.proof.any (·.usesDac)

/-- STEEP_ABSOLUTE_CALIBRATION_DONE (R47, R74), once the conversions can have been made (log 54). -/
def execSteepAbsoluteCalibrationDone (sl : SliceNo) (cal : AbsCal) (s : State) : Res :=
  .next <| match tourOf s sl with
  | none => s
  | some t =>
    if t.calDone || t.claimed.isSome || dacTaken s || !plannerOn s ||
        decide (s.clk.slot < t.startSlot + sliceSlots s.cfg 32768) then s
    else match absResult s.adc.ccal[0x63] cal with
      | none => sliceFails sl s
      | some r =>
        let s := s.upSlice sl fun a =>
          { a with ofs := r.1, gain := r.2, calAt := s.clk.slot, calOk := true }
        putTour { t with calDone := true, startSlot := s.clk.slot } s

/-! ## Shadow windows (R48, R49) -/

/-- The estimates of a window: offset in VALUE counts, gain in LSB of GAIN and skew in trim steps,
where they are formed. -/
structure Estimate where
  ofs : Rat
  gain : Option Rat
  skew : Option Int

def ratMean (xs : List Rat) : Rat := xs.foldl (· + ·) 0 / (xs.length : Rat)

/-- The estimates of R48 from a window's pairs; `own` is 1 where the service slice is estimated, −1
where the pitching slice is. -/
def estimate (own : Int) (ps : List ShadowPair) : Estimate :=
  let d : List Rat := ps.map fun p => (own : Rat) * ((p.service - p.steep : Int) : Rat)
  let x : List Rat := ps.map fun p => (p.steep : Rat)
  let steeps := ps.map (·.steep)
  let lo := steeps.foldl min (steeps.headD 0)
  let hi := steeps.foldl max (steeps.headD 0)
  let md := ratMean d
  let mx := ratMean x
  let sxx : Rat := (x.map fun a => (a - mx) * (a - mx)).foldl (· + ·) 0
  let sxy : Rat := ((x.zip d).map fun p => (p.1 - mx) * (p.2 - md)).foldl (· + ·) 0
  let slope := ratMean (ps.map fun p => ((p.slope.natAbs : Int) : Rat))
  { ofs := md, gain := if 4096 ≤ hi - lo then some (sxy / sxx * 32768) else none,
    skew := if 64 < slope then some (own * Config.skewEstimate ps) else none }

/-- A quarter of an estimate, within the window's limit (step 4 of R48). R48 does not say how the quarter becomes a
whole correction: the model takes the nearest, a half upward (log 54). -/
def quarter (x : Rat) (lim : Int) : Int := clampInt (-lim) lim (roundRat (x / 4))

/-- An estimate, or the trim it calls for, lies beyond the limits of R49. -/
def beyond (a : Slice) (e : Estimate) : Bool :=
  decide (512 < ratAbs e.ofs) || e.gain.any (fun g => decide (3 * 32768 < 100 * ratAbs g)) ||
    e.skew.any (fun k => decide (32 < (a.skew.toInt + k).natAbs))

/-- The window counts toward convergence (R49). -/
def within (e : Estimate) : Bool :=
  decide (ratAbs e.ofs ≤ 2) && e.gain.all (fun g => decide (ratAbs g ≤ 2)) &&
    e.skew.all (fun k => decide (k.natAbs ≤ 2))

/-- A slice's corrections after a window (R48). -/
def correct (a : Slice) (e : Estimate) : Slice :=
  let gain := (a.gain.toNat : Int) - (e.gain.map (quarter · 4)).getD 0
  { a with ofs := toBits 16 (a.ofs.toInt + quarter e.ofs 8), gain := toBits 16 gain
           skew := match e.skew with
             | some k => toBits 7 (clampInt (-32) 32 (a.skew.toInt + quarter (k : Rat) 1))
             | none => a.skew
           age := if e.skew.isSome then 0 else incSat a.age
           good := if within e then (if a.good.val < 4 then a.good + 1 else 4) else 0 }

/-- A pitching slice at the end of a tour (R55). One that has not converged shadows the positions for another
tour on the calibration that it has (log 54). -/
def pitchTour (t : Tour) (s : State) : State :=
  if 4 ≤ s.adc.slices[t.slice].good.val then
    let s := s.upSlice t.slice fun a => { a with state := .steep }
    let s := s.upAdc fun a => { a with pitch := none, tour := some { t with missed := 0 } }
    claimMasked (endSliceAdmit 0 s)
  else if t.missed.val + 1 < 3 then putTour { t with windows := 0, missed := t.missed + 1 } s
  else sliceFails t.slice s

/-- What a window shows of a slice: its corrections and its convergence, or its failure (R48, R49). -/
def judge (n : SliceNo) (e : Estimate) (s : State) : State :=
  if beyond s.adc.slices[n] e then sliceFails n s else s.upSlice n fun a => correct a e

/-- A window of the slice in steep, on the slice that serves the position. -/
def steepWindow (t : Tour) (pos : Pos) (pairs : List ShadowPair) (s : State) : State :=
  let n := s.adc.slotmap[pos]
  let s := putTour { t with windows := if t.windows.val < 16 then t.windows + 1 else 16, startSlot := s.clk.slot,
                            lastOn := if t.windows.val < 16 then none else some pos } s
  if pairs.isEmpty || s.adc.slices[n].state != .service || hasBit s.adc.mask pos.val then s
  else judge n (estimate 1 pairs) s

/-- A window of the slice that is being pitched, on itself. -/
def pitchWindow (t : Tour) (pairs : List ShadowPair) (s : State) : State :=
  let t := { t with windows := t.windows + 1, startSlot := s.clk.slot }
  let s := putTour t s
  let s := if pairs.isEmpty then s else judge t.slice (estimate (-1) pairs) s
  if t.windows.val = 16 && s.adc.slices[t.slice].state == .pitching then pitchTour t s else s

/-- SHADOW_WINDOW_END (R48, R51, R74), once its conversions can have been made (log 54). -/
def execShadowWindowEnd (w : ShadowWindow) (s : State) : Res :=
  .next <| match tourOf s w.slice with
  | none => s
  | some t =>
    if !t.calDone || t.claimed.isSome || !plannerOn s ||
        decide (s.clk.slot < t.startSlot + sliceSlots s.cfg 4096) then s
    else if s.adc.slices[w.slice].state == .pitching then pitchWindow t w.pairs s
    else match shadowPos s t with
      | some pos => steepWindow t pos w.pairs s
      | none => s

/-- The end of the rotation period (R50, R74): ROTPER ms after the last rotation (log 54). -/
def rotationDue (s : State) : Bool := decide (s.adc.rotAt + s.cfg.rotper * msSlots ≤ s.clk.slot)

/-- ROTATION (R50, R51): the slice in steep has done its tour, and its last window on the position that it
takes. -/
def execRotation (s : State) : Res :=
  .next <| match steepFree s with
  | none => s
  | some t =>
    if !s.cfg.roten || t.windows.val < 16 || !s.adc.slices[t.slice].calOk || s.adc.ptest.isSome ||
        !rotationDue s || !plannerOn s then s
    else match oldestPos s with
      | some p =>
        if t.lastOn == some p then claim p (s.upAdc fun a => { a with rotAt := s.clk.slot }) else s
      | none => s

/-- A new map of positions to slices takes effect (R50, R51, R53): the slice that leaves steep serves,
and a displaced slice that works begins a tour. -/
def applyMap (map : Vector SliceNo 16) (mask : BitVec 16) (s : State) : State :=
  match s.adc.tour with
  | none => s
  | some t =>
    match t.claimed with
    | none => s
    | some p =>
      let out := s.adc.slotmap[p]
      let s := s.upSlice t.slice fun a => { a with state := .service, good := 0 }
      let s := s.upAdc fun a =>
        { a with slotmap := vput a.slotmap p (map[p]), mask := putBit a.mask p.val (hasBit mask p.val) }
      if out != t.slice && s.adc.slices[out].state == .service then
        let s := s.upSlice out fun a => { a with state := .steep, good := 0 }
        claimMasked (s.upAdc fun a => { a with tour := some (newTour s out) })
      else maskUnserved (s.upAdc fun a => { a with tour := none })

/-! ## System calibration (R75 to R79) -/

/-- A channel in the committed loop lane of a rail that is not off (R79, R83). Both error channels of a rail are,
with XPATH 0 too, where only the active path is sampled (log 57); a phase's current channel is while the plan
samples it (R87). -/
def inLiveLane (s : State) (c : Nat) : Bool :=
  (fins 8).any fun r => s.cfg.llen r.val && !railOff s r &&
    (c = 0x30 + r.val || c = 0x38 + r.val ||
      (decide (0 < curPer s.cfg r.val) &&
        (fins 48).any fun h => h.val = c && s.cfg.role c != 0 && railOf s.cfg h = r))

def newCal (q : Ring) (full : Bool) (d : Desc) : CalRun :=
  { ring := q, full := full, chan := BitVec.ofNat 7 (d.pf 0 7), k := BitVec.ofNat 4 (d.pf 8 4)
    target := BitVec.ofNat 16 (d.pf 16 16), n := 0, sum := 0, min := 0, max := 0, result := none }

/-- CAL_ZERO (R75, R79). -/
def execCalZero (q : Ring) (s : State) : Res :=
  .next <| match ready s q 0x12 with
  | none => s
  | some d =>
    let c := d.pf 0 7
    if 0x67 < c then complete q codeRange 0 s
    else if 0x61 ≤ c ∧ c ≤ 0x63 then complete q codeProtected 0 s
    else if inLiveLane s c then complete q codeState 0 s
    else if s.adc.cal.isSome then complete q codeBusy 0 s
    else if !mayAdmit s s.cfg.costcal false then complete q codeEnergy 0 (countRefusal s)
    else book (.cal (BitVec.ofNat 7 c)) s.cfg.costcal (act_ q (s.upAdc fun a =>
      { a with cal := some (newCal q false d) }))

/-- CAL_FULL (R76, R79). -/
def execCalFull (q : Ring) (s : State) : Res :=
  .next <| match ready s q 0x13 with
  | none => s
  | some d =>
    let c := d.pf 0 7
    if 0x67 < c then complete q codeRange 0 s
    else if s.adc.m0[Fin.ofNat 104 c] = none then complete q codeState 0 s
    else if inLiveLane s c then complete q codeState 0 s
    else if s.adc.cal.isSome then complete q codeBusy 0 s
    else act_ q (s.upAdc fun a => { a with cal := some (newCal q true d) })

/-- The calibration ends with a code. -/
def endCal (k : CalRun) (code result : Nat) (s : State) : State :=
  complete k.ring code result (dropTaken .cal (s.upAdc fun a => { a with cal := none }))

/-- CGAIN of R76: the quotient rounded to the nearest integer. -/
def calGain (t d : Int) : Int :=
  ((t.natAbs * 32768 + d.natAbs / 2) / d.natAbs : Nat)

/-- The channel-calibration record with new values of one channel (R78). -/
def calRecord (s : State) (c : Nat) (cofs cgain : BitVec 16) : Fin 64 × List Byte :=
  let from_ := if c < 0x3C then 0 else 0x3C
  let n := if c < 0x3C then 60 else 44
  (if c < 0x3C then 0 else 1, (List.range n).flatMap fun k =>
    let e := if from_ + k = c then { cofs := cofs, cgain := cgain }
      else s.adc.ccal[Fin.ofNat 104 (from_ + k)]
    leBytes 2 e.cofs.toNat ++ leBytes 2 e.cgain.toNat)

/-- CAL_FULL's decision (R76, R77) over the pending zero: its record is committed first. A target of 0 has no sign,
and so not that of m1 − m0: it ends with 0x0103 (log 66). -/
def decideFrom (k : CalRun) (m0 m1 : Int) (s : State) : State :=
  let t := k.target.toInt
  let d := m1 - m0
  if d.natAbs < 4096 || t * d ≤ 0 then endCal k codeInconsistent 0 s
  else
    let cg := calGain t d
    if 4096 < m0.natAbs || cg < 0x7000 || 0x9000 < cg then endCal k codeRange 0 s
    else if !nvOpen s then endCal k codeState 0 s
    else
      let cofs := toBits 16 m0
      let cgain := toBits 16 cg
      let r := calRecord s k.chan.toNat cofs cgain
      let s := s.upAdc fun a => { a with cal := some { k with result := some (cofs, cgain) } }
      nvAsk (nvReq 2 (some k.ring) (.recCommit r.1 r.2 0 0 0)) s

/-- CAL_FULL's decision, where its channel has a pending zero (R75, R76). -/
def decideFull (k : CalRun) (m1 : Int) (s : State) : State :=
  match s.adc.m0[Fin.ofNat 104 k.chan.toNat] with
  | some m0 => decideFrom k m0.toInt m1 s
  | none => endCal k codeState 0 s

/-- CAL_MEASUREMENT_DONE (R75, R76). A mean that 16 bits do not hold keeps its low 16 bits in m0 and RESULT: R75
gives no width for it (log 66). -/
def execCalMeasurementDone (s : State) : Res :=
  let s := land s
  .next <| match s.adc.cal with
  | none => s
  | some k =>
    if k.n < 2 ^ k.k.toNat || k.result.isSome then s
    else
      let mean := (k.sum + 2 ^ k.k.toNat / 2) / 2 ^ k.k.toNat
      let wide := decide (256 < k.max - k.min)
      if k.full then (if wide then endCal k codeSpread 0 s else decideFull k mean s)
      else if wide then dropNewest (.cal k.chan) (endCal k codeSpread 0 s)
      else
        let s := keepNewest (.cal k.chan) s
        let s := s.upAdc fun a =>
          { a with m0 := vput a.m0 (Fin.ofNat 104 k.chan.toNat) (some (toBits 16 mean)) }
        endCal k 0 (toBits 16 mean).toNat s

/-- The record of a CAL_FULL has been committed: its values are applied by a marker (R77). -/
def calCommitted (q : Ring) (s : State) : State :=
  match s.adc.cal with
  | some k =>
    match k.result with
    | some r =>
      if k.ring = q then
        let tag := ((s.hif.sq[q].exec).map fun e => e.desc.tag).getD 0
        pushMarkers [markerOf .setup tag (.desc q) none [.adc] [.calibrate k.chan r.1 r.2]] s
      else s
    | none => s
  | none => s

/-- The record of a CAL_FULL could not be committed (R77). -/
def calRefused (q : Ring) (code : Nat) (s : State) : State :=
  match s.adc.cal with
  | some k => if k.ring = q then endCal k code 0 s else s
  | none => s

/-- A calibration takes effect (R77): the pending zero is used up. -/
def applyCal (c : BitVec 7) (cofs cgain : BitVec 16) (s : State) : State :=
  let i := Fin.ofNat 104 c.toNat
  dropBook (.cal c) <| s.upAdc fun a =>
    { a with ccal := vput a.ccal i { cofs := cofs, cgain := cgain }, m0 := vput a.m0 i none, cal := none }

/-! ## The input-path test (R80 to R83) -/

/-- The expected VALUE at a test-DAC code (R81). -/
def expectedAt (g : Setup) (c : Nat) (d : Nat) : Int :=
  if c < 0x30 then ((d : Int) - 512) * 32
  else if c < 0x40 then ((d : Int) - 512) * 256
  else if c = 0x59 ∨ c = 0x5B then ((d : Int) - 512) * 128
  else if c < 0x50 ∧ g.absdiv (c % 8) then 8 * (d : Int)
  else 32 * (d : Int)

/-- A test on a channel is not possible (R81). -/
def pathRefused (c n a b : Nat) : Bool :=
  0x67 < c || 0x67 < n || c = 0x61 || decide (0x63 ≤ c) ||
    (decide (0x30 ≤ c) && decide (c < 0x40) && (outside 480 544 a || outside 480 544 b))

/-- The current channel of a racked phase (R83). -/
def rackedChan (s : State) (c : Nat) : Bool :=
  if h : c < 48 then s.pwm.phases[(⟨c, h⟩ : Phase)].state == .racked else false

/-- The pending zero of a channel is discarded, and its booking with it; that of a CAL_ZERO which runs on the
channel stays (R75, R288). -/
def dropZero (c : BitVec 7) (s : State) : State :=
  let f : BookFor := .cal c
  let s := s.upAdc fun k => { k with m0 := vput k.m0 (Fin.ofNat 104 c.toNat) none }
  if s.adc.cal.any fun k => !k.full && k.chan = c then keepNewest f s else dropBook f s

/-- ADC_PATH_TEST (R80 to R83). It waits for a position that the slice in steep has been given and not yet
taken (log 59). -/
def execAdcPathTest (q : Ring) (s : State) : Res :=
  .next <| match ready s q 0x14 with
  | none => s
  | some d =>
    let c := d.pf 0 7
    let a := d.pf 8 10
    let b := d.pf 18 10
    let n := d.pf 28 7
    if pathRefused c n a b then complete q codeRange 0 s
    else if inLiveLane s c && !rackedChan s c then complete q codeState 0 s
    else if s.adc.ptest.isSome then complete q codeBusy 0 s
    else if s.adc.tour.any (·.claimed.isSome) then s
    else
      let run : PathRun :=
        { ring := q, chan := BitVec.ofNat 7 c, inject := d.pf 7 1 = 1, a := BitVec.ofNat 10 a
          b := BitVec.ofNat 10 b, nchan := BitVec.ofNat 7 n, k := BitVec.ofNat 4 (d.pf 36 4), atB := false
          n := Vector.replicate 4 0, sums := Vector.replicate 4 0, settled := s.clk.slot + settleSlots
          since := s.clk.slot }
      let s := match s.cmp.proof with
        | some p => freeDac p s
        | none => s
      (act_ q (dropZero run.chan s)).upAdc fun k => { k with ptest := some run }

/-- The verdict (R82) for the step ratio k; bits in the order PASS, OPEN, PARTIAL, GAIN, OFFSET, MUX. -/
def verdict (inject : Bool) (k : Rat) (offset mux : Bool) : BitVec 6 :=
  let open_ := inject && decide (9 / 10 ≤ k)
  let part := inject && decide (12 / 100 < k) && decide (k < 9 / 10)
  let gain := !inject && (decide (k < 99 / 100) || decide (101 / 100 < k))
  let off := !inject && offset
  let mx := !inject && (decide (k < 1 / 2) || mux)
  let pass := !(open_ || part || gain || off || mx)
  BitVec.ofNat 6 (bit pass + 2 * bit open_ + 4 * bit part + 8 * bit gain + 16 * bit off + 32 * bit mx)

/-- The path test gives the test DAC back: the absolute calibrations that it has paused go on (R83), or wait for a
proof test that has waited for it (R240). -/
def endPath (p : PathRun) (s : State) : State :=
  let s := (resumeCal p.since s).upCmp fun c => { c with proof := c.proof.map fun t => { t with since := s.clk.slot } }
  dropTaken .ptest (s.upAdc fun a => { a with ptest := none })

/-- A descriptor that the converter array carries out has been ended from outside: what it was doing stops
(R16). -/
def dropArrayWork (q : Ring) (s : State) : State :=
  let s := match s.adc.cal with
    | some k =>
      if k.ring = q then
        let t := dropTaken .cal (s.upAdc fun a => { a with cal := none })
        if k.full then t else dropNewest (.cal k.chan) t
      else s
    | none => s
  let s := match s.adc.ptest with
    | some p => if p.ring = q then endPath p s else s
    | none => s
  s.upAdc fun a =>
    { a with admission := a.admission.filter (· != q), inj := { a.inj with rings := a.inj.rings.filter (· != q) } }

/-- PATH_TEST_DONE (R82). With equal codes the expected step is 0 and the ratio is free (log 6). The means are
rounded half up, and the neighbour's step counts by its size (log 56). -/
def execPathTestDone (s : State) : Res :=
  let s := land s
  .next <| match s.adc.ptest with
  | none => s
  | some p =>
    if !p.full then s
    else
      let half : Int := 2 ^ p.k.toNat / 2
      let mean := fun (i : Fin 4) => (p.sums[i] + half) / (2 ^ p.k.toNat : Int)
      let ea := expectedAt s.cfg p.chan.toNat p.a.toNat
      let step := expectedAt s.cfg p.chan.toNat p.b.toNat - ea
      let f := takeFree s
      let k : Rat := if step = 0 then (f.1.toInt : Rat) else ((mean 2 - mean 0 : Int) : Rat) / (step : Rat)
      let s := if step = 0 then f.2 else s
      let v := verdict p.inject k (decide (64 < (mean 0 - ea).natAbs))
        (decide (step.natAbs ≤ 2 * (mean 3 - mean 1).natAbs))
      let w := fun (i : Fin 4) => toBits 16 (mean i)
      let res : PathResult :=
        { chan := p.chan, inject := p.inject, verdict := v, meanA := w 0, meanB := w 2, nmeanA := w 1,
          nmeanB := w 3 }
      let s := endPath p (s.upAdc fun a => { a with pt := res })
      let s := if hasBit v 0 then s else raise 0x54 (srcId 0x3 0x4 0 0 0) 0 s
      complete p.ring 0 ((w 0).toNat + (w 2).toNat * 65536 + v.toNat * 2 ^ 32) s

end Sys2Proof.Machine
end

