-- ==== Sys2Proof/Machine/Pourn.lean ====
section
/-!
DEFINITION. The Pourn ports and the setpoint path (05): frames and their responses, the forecast planner
of R119, the heartbeat, and the slew limiter.
-/

namespace Sys2Proof.Machine

/-! ## The frame (R175 to R177) -/

/-- A field of a frame. -/
def frm (f : BitVec 64) (lo len : Nat) : Nat := f.toNat / 2 ^ lo % 2 ^ len

def frmType (f : BitVec 64) : Nat := frm f 60 4
def frmRail (f : BitVec 64) : Rail := Fin.ofNat 8 (frm f 57 3)
def frmSeq (f : BitVec 64) : Nat := frm f 51 6
def frmPri (f : BitVec 64) : Bool := frm f 50 1 = 1
def frmSync (f : BitVec 64) : Bool := frm f 49 1 = 1
def frmNotify (f : BitVec 64) : Bool := frm f 48 1 = 1
/-- Bits [63:8], which the CRC covers. -/
def frmBody (f : BitVec 64) : BitVec 56 := f.extractLsb' 8 56
/-- A field of the payload: payload bit 0 is frame bit 8. -/
def frmPay (f : BitVec 64) (lo len : Nat) : Nat := frm f (lo + 8) len

/-- The CRC of a request (R177). -/
def frmGood (f : BitVec 64) : Bool := crc8 (bitsHighFirst 56 (frm f 8 56)) == f.extractLsb' 0 8

def tySetpoint : Nat := 1
def tyForecast : Nat := 2
def tyState : Nat := 3
def tyQuery : Nat := 4
def tyHeartbeat : Nat := 5

/-- Reserved payload bits are 0 (R176). -/
def payloadClean (f : BitVec 64) : Bool :=
  let n := match frmType f with
    | 1 => 21 | 2 => 8 | 3 => 20 | 4 => 36 | _ => 40
  frmPay f 0 n = 0

/-- Checks 3 and 4 of R186. -/
def formCheck (f : BitVec 64) : Option Nat :=
  let t := frmType f
  if t = 0 || 5 < t then some codeUnknown
  else if !payloadClean f || (frmSync f && t != tyHeartbeat) || (frmNotify f && t != tySetpoint) ||
      (t = tyHeartbeat && frmRail f != 0) ||
      (t = tyForecast && (frmPay f 24 16 = 0 || frmPay f 8 16 = 0)) ||
      (t = tyQuery && decide (5 < frmPay f 36 4)) then some codeRange
  else none

/-! ## Responses (R178 to R181) -/

/-- An outcome of a request: its error code and its GRANT. -/
structure Answer where
  code : Nat
  grant : Nat
  deriving DecidableEq, Repr

/-- STATUS of an error code (R179). -/
def statusOf (code : Nat) : Nat := if code = 0 then 0 else code - 0x100

/-- The response of port p, from the present MRG and AP. -/
def responseWord (s : State) (p : Port) (r : Rail) (seq status grant : Nat) : BitVec 32 :=
  let w := packWord [(26, 6, seq), (21, 5, status), (20, 1, bit s.prn.rails[r].mrg),
    (19, 1, bit (s.prn.ports[p].alert != 0)), (8, 11, grant)]
  w ||| (crc8 (bitsHighFirst 24 (w.toNat / 256))).setWidth 32

/-- The port answers. -/
def respond (p : Port) (r : Rail) (seq status grant : Nat) (s : State) : State :=
  let w := responseWord s p r seq status grant
  (s.upPort p fun q => { q with resp := some w }).emit (.prnResponse p (w.setWidth 64))

/-- The event of port p (R202). -/
def raisePort (p : Port) (cause elem high : Nat) (s : State) : State :=
  raiseLimited (0x70 + p.val) cause p.val (srcId 0x8 0x0 p.val elem (cause + 16 * (high % 256))) 0
    noAccess s

/-- A rejection of a request with PRI 1 raises the event (R175). -/
def reject (p : Port) (f : BitVec 64) (code : Nat) (s : State) : State :=
  let s := if frmPri f then raisePort p 4 2 (code % 256) s else s
  respond p (frmRail f) (frmSeq f) (statusOf code) 0 s

/-! ## Receiving a frame (R182 to R186) -/

/-- The port is there and not DISABLED. -/
def portOpen (s : State) (p : Port) : Bool := domOn s pdPrn && s.prn.ports[p].state != .disabled

/-- A frame with the expected SEQ is consumed and answered (R183). -/
def consume (p : Port) (f : BitVec 64) (a : Answer) (s : State) : State :=
  let ok := a.code = 0 || a.code = codeClamped
  let g := if ok then a.grant else 0
  let s := s.upPort p fun q =>
    { q with eseq := BitVec.ofNat 6 (frmSeq f + 1), frames := q.frames + 1
             last := some { content := frmBody f, seq := BitVec.ofNat 6 (frmSeq f),
                            status := BitVec.ofNat 5 (statusOf a.code), grant := BitVec.ofNat 11 g,
                            rail := frmRail f } }
  if ok then respond p (frmRail f) (frmSeq f) (statusOf a.code) g s else reject p f a.code s

/-- A frame that passed its CRC, on a port that is open: the sequence of R182 to R184, then `act` for a
frame with the expected SEQ. -/
def sequenced (p : Port) (f : BitVec 64) (act : State → State × Answer) (s : State) : State :=
  let q := s.prn.ports[p]
  if q.state != .live then reject p f codeOrder s
  else match q.last with
    | some l =>
      if l.seq.toNat = frmSeq f && l.content = frmBody f then
        respond p (frmRail f) (frmSeq f) l.status.toNat l.grant.toNat s
      else if q.eseq.toNat = frmSeq f then let t := act s; consume p f t.2 t.1
      else reject p f codeOrder s
    | none =>
      if q.eseq.toNat = frmSeq f then let t := act s; consume p f t.2 t.1
      else reject p f codeOrder s

/-- A frame of one type reaches port p: checks 1 to 5 of R186 in order, then the type's own. -/
def receive (type : Nat) (owned : Bool) (p : Port) (f : BitVec 64) (act : State → State × Answer)
    (s : State) : State :=
  if !portOpen s p || !frmGood f || frmType f != type then s
  else sequenced p f (fun s =>
    match formCheck f with
    | some c => (s, { code := c, grant := 0 })
    | none =>
      if !portHas s (frmRail f) p || (owned && !owns s p (frmRail f)) then
        (s, { code := codeProtected, grant := 0 })
      else act s) s

/-! ## SETPOINT (R188 to R192) -/

/-- TIME for N ticks of 125 ns (R181). -/
def timeField (n : Nat) : Nat :=
  if n ≤ 63 then n
  else if ceilDiv n 16 ≤ 63 then 64 + ceilDiv n 16
  else if ceilDiv n 256 ≤ 63 then 128 + ceilDiv n 256
  else 192 + min 63 (ceilDiv n 4096)

/-- N of R192: from REF, in units of 2^-16 codes, to the target in codes. -/
def rampTicks (target ref cls : Nat) : Nat :=
  ceilDiv ((target * 65536 : Int) - (ref : Int)).natAbs (classStep cls * 65536)

def actSetpoint (f : BitVec 64) (s : State) : State × Answer :=
  let r := frmRail f
  let code := frmPay f 24 16
  let slew := frmPay f 21 3
  if s.eng.rails[r].mode != .digital || s.prn.rails[r].seqown then (s, ⟨codeState, 0⟩)
  else if code < s.cfg.vmin r.val ∨ s.cfg.vmax r.val < code then (s, ⟨codeWindow, 0⟩)
  else
    let cls := min slew (s.cfg.slewcap r.val)
    let n := rampTicks code s.prn.rails[r].ref cls
    (setTarget r (BitVec.ofNat 16 code) cls (frmNotify f) s,
      ⟨if cls < slew then codeClamped else 0, cls * 256 + timeField n⟩)

/-- SETPOINT (R188). -/
def execSetpoint (p : Port) (frame : BitVec 64) (s : State) : Res :=
  .next (receive tySetpoint true p frame (actSetpoint frame) s)

/-! ## FORECAST (R118 to R123, R197) -/

/-- The engine ignores a forecast of the rail (R118). -/
def ignoresForecast (s : State) (r : Rail) : Bool :=
  !s.cfg.fff r.val || s.eng.rails[r].mode != .digital || s.prn.rails[r].seqown ||
    s.eng.rails[r].fcsusp

/-- The largest g with KFC ⊗ g ≤ limit, for a positive multiplier (R98, R119). -/
def largestUnder (kfc : Word) (limit : Int) : Int :=
  let c := sbitsOf kfc 5 27
  let n := bitsOf kfc 0 5
  let half : Int := if n = 0 then 0 else 2 ^ (n - 1)
  ((limit + 1) * 2 ^ n - half - 1) / c

/-- The times and the level that the planner finds (R119), and whether the product that gives the level saturated
(R99). -/
structure Plan where
  short : Bool
  tr : Int
  level : Int
  ovf : Bool
  deriving DecidableEq, Repr

/-- The planner's ramp: `dI` is the clamped step, `n` the phases, `tj` the join allowance. -/
def planRamp (e : EngRail) (dI : Int) (lead n tj : Nat) (free : Int) : Plan :=
  let par := e.word 22
  let short1 := decide (lead < bitsOf par 16 16) || decide ((lead : Int) - tj < 8)
  let tr : Nat := if short1 then lead else min (lead - tj) (bitsOf par 0 16)
  let size := dI.natAbs
  let g0 : Int := if n * tr = 0 then free else (size * 65536 / (n * tr) : Nat)
  let g1 := min g0 (2 ^ 31 - 1)
  let lim := (e.word 23).toInt
  let tooMuch := decide (lim < (gain (e.word 20) g1).val)
  let g2 := if tooMuch then largestUnder (e.word 20) lim else g1
  let v := gain (e.word 20) g2
  { short := short1 || decide (g1 < g0) || tooMuch, tr := tr, level := if dI < 0 then -v.val else v.val
    ovf := v.ovf }

/-- The join allowance: two periods in units of 16 ns, rounded up. -/
def joinUnits (g : Setup) (r : Nat) : Nat := ceilDiv (2000 * g.period r) 32768

/-- The phases active on a rail now. -/
def activeCount (s : State) (r : Rail) : Nat := (actives s r).length

/-- A rail sheds no position before a slot (R119, R153). -/
def holdPositions (r : Rail) (slot : Nat) (s : State) : State :=
  s.upPwmRail r fun w => { w with fcHold := max w.fcHold slot }

/-- Positions join for a positive step by rule 1 of R153 with I_avg + ΔI; the number of positions that
then run. Those added stay until t_f and SHDWELL periods more. -/
def joinFor (r : Rail) (dI : Int) (tF : Nat) (s : State) : State × Nat :=
  let w := s.pwm.rails[r]
  let want := ruleOne s r (w.iAvg + dI)
  let hold := ceilDiv tF 15625 + ceilDiv (s.cfg.shdwell r.val * periodSteps s.cfg r.val) 64
  if w.lightNext then (holdPositions r hold (leaveLight r dI s), want)
  else
    let n := (activeIn s r.val w.actNext).length
    if n < want then (holdPositions r hold (addPositions r n want (stopShedding r s)), want) else (s, n)

/-- The planner takes a forecast (R119). With no active phase its ramp has no stated slope: the model
takes a free value (log 6); nor has one over no time. The step that the miss check of R122 compares is the one under
FCLIM, on which the planner works; R122 does not say which (log 20). -/
def planForecast (r : Rail) (step : Int) (lead : Nat) (s : State) : State × Answer :=
  let e := s.eng.rails[r]
  let lim := (e.word 21).toInt
  let dI := clampInt (-lim) lim step
  let clamped := dI != step
  let tF := instantNow s + 64000 * lead
  let before := railCurrent s r
  let joins := decide (0 < dI) && s.cfg.pwmMode r.val != 0
  let j := if joins then joinFor r dI tF s
    else (if dI < 0 then holdPositions r (ceilDiv tF 15625) s else s, activeCount s r)
  let f := takeFree j.1
  let s := if j.2 = 0 ∨ lead = 0 then f.2 else j.1
  let pl := planRamp e dI lead j.2 (if joins then joinUnits s.cfg r.val else 0) f.1.toNat
  let short := pl.short
  let fc : Forecast :=
    { dI := dI, tAcc := instantNow s, tStart := (tF : Int) - 64000 * pl.tr, tF := tF, level := pl.level,
      sumAt := before }
  let bad := clamped || short
  let s := noteOverflow r pl.ovf <| s.upEngRail r fun e =>
    { e with fcs := e.fcs ++ [fc], fcAcc := e.fcAcc + 1,
             fcClmp := if bad then incSat e.fcClmp else e.fcClmp }
  (s, ⟨if bad then codeClamped else 0, 1024 * bit clamped + 512 * bit short + 8 * (j.2 % 64)⟩)

def actForecast (p : Port) (f : BitVec 64) (s : State) : State × Answer :=
  let r := frmRail f
  let step := 500 * signed 16 (frmPay f 24 16)
  if 2 ≤ (pendingFcs s r).length then (s, ⟨codeBusy, 0⟩)
  else
    let s := if Nat.testBit s.cfg.pnm p.val then triggerInjected 1 s else s
    if ignoresForecast s r then (s, ⟨0, 8 * (activeCount s r % 64) + 4⟩)
    else planForecast r step (frmPay f 8 16) s

/-- FORECAST (R197). -/
def execForecast (p : Port) (frame : BitVec 64) (s : State) : Res :=
  .next (receive tyForecast true p frame (actForecast p frame) s)

/-! ## STATE (R198, R199) -/

def actState (p : Port) (f : BitVec 64) (s : State) : State × Answer :=
  let st := frmPay f 36 4
  let cost := frmPay f 20 16
  let now := s.prn.ports[p].cost.toNat
  if s.ldg.src != .input && decide (s.cfg.hpst p.val ≤ st) then (s, ⟨codeEnergy, 0⟩)
  else if now < cost && !mayAdmit s (cost - now) true then (countRefusal s, ⟨codeEnergy, 0⟩)
  else
    let s := s.upPort p fun q =>
      { q with pstate := BitVec.ofNat 4 st, cost := BitVec.ofNat 16 cost, costRail := frmRail f }
    let s := dropBook (.port p) s
    let s := if cost = 0 then s else book (.port p) cost s
    (releaseIdle s, ⟨0, 128 * st⟩)

/-- STATE (R198). -/
def execState (p : Port) (frame : BitVec 64) (s : State) : Res :=
  .next (receive tyState false p frame (actState p frame) s)

/-! ## QUERY (R200) -/

/-- The latest fresh error record of the rail's active path, or of the other path where no path is
active. -/
def latestError (s : State) (r : Rail) : Option Int :=
  let f := s.fb[r]
  let of_ := fun (c : PathCheck) => c.last.map (·.value)
  match f.path with
  | .remote => of_ f.remote
  | .local_ => of_ f.local_
  | _ => (of_ f.remote).or (of_ f.local_)

/-- An error in VALUE counts of 4.578 µV, in nV. -/
def errorNv (e : Int) : Int := 4578 * e

/-- VOLT from a reading of the rail in nV. -/
def voltItem (nv : Int) : Nat := (clampInt 0 0x7FF (roundDiv nv 2000000)).toNat

/-- VERR from an error in nV. -/
def verrItem (nv : Int) : Nat := (clampInt (-1024) 1023 (roundDiv nv 62500) % 2048).toNat

/-- CUR from I_avg in mA. -/
def curItem (i : Int) : Nat :=
  let i := i.toNat
  if i < 512000 then min 0x3FF ((i + 250) / 500) else 0x400 + min 0x3FF ((i + 4000) / 8000)

/-- RIDE from a ride time in ms. -/
def rideItem (s : State) : Nat :=
  let t := s.ldg.ride.toNat
  if s.ldg.src == .input then 0x7FF
  else if t ≤ 0x1FF then t
  else if t / 100 ≤ 0x1FF then 0x200 + t / 100
  else 0x400 + min 0x1FF (t / 10000)

/-- The error that VOLT and VERR report. Before any fresh record the spec states none: a free value (log 6). -/
def queryError (r : Rail) (s : State) : State × Int :=
  match latestError s r with
  | some e => (s, e)
  | none => let f := takeFree s; (f.2, signed 16 (f.1.toNat % 65536))

def actQuery (p : Port) (f : BitVec 64) (s : State) : State × Answer :=
  let r := frmRail f
  match frmPay f 36 4 with
  | 0 => let e := queryError r s; (e.1, ⟨0, voltItem (1000 * deliveredRef s r + errorNv e.2)⟩)
  | 1 => let e := queryError r s; (e.1, ⟨0, verrItem (errorNv e.2)⟩)
  | 2 => (s, ⟨0, curItem s.pwm.rails[r].iAvg⟩)
  | 3 => (s, ⟨0, rideItem s⟩)
  | 4 => (s.upPort p fun q => { q with alert := 0 }, ⟨0, s.prn.ports[p].alert.toNat⟩)
  | _ => (s, ⟨0, 128 * s.prn.ports[p].pstate.toNat⟩)

/-- QUERY (R200). -/
def execQuery (p : Port) (frame : BitVec 64) (s : State) : Res :=
  .next (receive tyQuery false p frame (actQuery p frame) s)

/-! ## HEARTBEAT, failed checks and stalls (R173, R182 to R186) -/

/-- A HEARTBEAT with SYNC 1 that passes the checks: the port is LIVE and its sequence follows SEQ
(R182). -/
def synchronise (p : Port) (f : BitVec 64) (s : State) : State :=
  let lost := s.prn.ports[p].state == .lost
  let s := s.upPort p fun q => { q with state := .live }
  let s := if lost then alertPorts (· == p) alHblost s else s
  -- SAFE actions still waiting fall with the end of LOST (R185)
  let s := s.each (fins 8) fun r s =>
    if s.prn.rails[r].safe = some p then s.upPrnRail r fun k => { k with safe := none } else s
  consume p f ⟨0, 0⟩ s

/-- HEARTBEAT (R182). -/
def execHeartbeat (p : Port) (frame : BitVec 64) (s : State) : Res :=
  .next <|
    if !portOpen s p || !frmGood frame || frmType frame != tyHeartbeat then s
    else
      let replay := s.prn.ports[p].state == .live && s.prn.ports[p].last.any fun l =>
        l.seq.toNat = frmSeq frame && l.content = frmBody frame
      if frmSync frame && (formCheck frame).isNone && !replay then synchronise p frame s
      else sequenced p frame (fun s => (s, ⟨(formCheck frame).getD 0, 0⟩)) s

/-- FRAME_CHECK_FAILED (R186, checks 1 and 3): a CRC that fails consumes nothing; a reserved TYPE is
answered in its place in the sequence. -/
def execFrameCheckFailed (p : Port) (frame : BitVec 64) (s : State) : Res :=
  .next <|
    if !portOpen s p then s
    else if !frmGood frame then
      let s := s.upPort p fun q => { q with crcerr := incSat q.crcerr }
      respond p (frmRail frame) (frmSeq frame) (statusOf codeFrame) 0 (raisePort p 3 0 0 s)
    else if formCheck frame = some codeUnknown then
      sequenced p frame (fun s => (s, ⟨codeUnknown, 0⟩)) s
    else s

/-- FRAME_STALL (R173): from clock 65 on the response is abandoned. -/
def execFrameStall (p : Port) (clock : Nat) (s : State) : Res :=
  .next <|
    if !portOpen s p || clock = 0 || 105 < clock then s
    else
      let s := s.upPort p fun q =>
        { q with stalls := incSat q.stalls, resp := if 65 ≤ clock then none else q.resp }
      raisePort p 2 0 (min clock 255) s

/-- The loss action for an owned rail (R185). Like a SETPOINT it does not reach a target that the
sequencer owns. -/
def lossAction (p : Port) (r : Rail) (s : State) : State :=
  if !regulating s r || !owns s p r then s
  else
    let s := clearForecasts r s
    if !s.cfg.lossact r.val || s.prn.rails[r].seqown then s
    else if inHeel s r then s.upPrnRail r fun k => { k with safe := some p }
    else applySafe r s

/-- HEARTBEAT_LOST (R185). -/
def execHeartbeatLost (p : Port) (s : State) : Res :=
  .next <|
    if !portLive s p || s.cfg.hbto p.val = 0 then s
    else
      let s := s.upPort p fun q => { q with state := .lost }
      State.each (fins 8) (lossAction p) (raisePort p 1 1 0 s)

/-- A block reset that has been asked for is taken. -/
def takeReset (key : BitVec 4 × BitVec 4 × BitVec 6) (s : State) : State :=
  s.upFlt fun f => { f with brReq := f.brReq.filter (· != key) }

/-- A block reset is asked for. -/
def resetAsked (key : BitVec 4 × BitVec 4 × BitVec 6) (s : State) : Bool := s.flt.brReq.contains key

/-- PRN_PORT_RESET (R203). -/
def execPrnPortReset (p : Port) (s : State) : Res :=
  let key := resetKey (srcId 0x8 0 p.val 0 0)
  .next <|
    if !resetAsked key s then s
    else (restampAt (· == .prn) (takeReset key s)).upPort p fun q =>
      { q with state := if q.state == .disabled then .disabled else .unsync, eseq := 0, last := none,
               resp := none }

/-! ## The slew limiter (R191, R192, R256, R272) -/

/-- x moved toward `aim` by at most `step`. -/
def approach (x aim step : Int) : Int :=
  if x < aim then min aim (x + step) else max aim (x - step)

/-- One tick of REF. -/
def tickRef (r : Rail) (s : State) : State :=
  let p := s.prn.rails[r]
  let step := if p.seqown then seqStep s.cfg r.val else classStep p.gcls.toNat * 65536
  let ref := (approach p.ref (p.tgt.toNat * 65536 : Nat) step).toNat
  let s := s.upPrnRail r fun p => { p with ref := ref }
  if p.notify && ref = p.tgt.toNat * 65536 then
    alertPorts (fun n => owns s n r) alSpdone (s.upPrnRail r fun p => { p with notify := false })
  else s

/-- The aim of the margin offset (R272). -/
def marginAim (s : State) (r : Rail) : Int :=
  let ref := s.prn.rails[r].ref / 65536
  match s.seq.rails[idxOf r].msel.toNat with
  | 1 => ((ref * s.cfg.mhi r.val + 500) / 1000 : Nat)
  | 2 => -((ref * s.cfg.mlo r.val + 500) / 1000 : Nat)
  | _ => 0

/-- One tick of the margin offset; under NONE the margin ends when M reaches 0 (R272, R288). -/
def tickMargin (r : Rail) (s : State) : State :=
  let p := s.prn.rails[r]
  let m := approach p.m (marginAim s r) (classStep (s.cfg.slewcap r.val))
  let s := s.upPrnRail r fun p => { p with m := m }
  if p.mrg && m = 0 && s.seq.rails[idxOf r].msel = 0 then
    alertPorts (portHas s r) alMargin
      (dropBook (.margin r) (s.upPrnRail r fun p => { p with mrg := false }))
  else s

/-- SLEW_LIMITER_TICK (R191): it ticks in the slots whose counter bits [4:0] are 0. -/
def execSlewLimiterTick (s : State) : Res :=
  .next <|
    if !domOn s pdFab || s.clk.slot % 32 ≠ 0 then s
    else settle <| s.each (fins 8) fun r s => refreshCodes r (tickMargin r (tickRef r s))

/-! ## Set-up (R206) -/

/-- PRN_SET (R206, R327). -/
def execPrnSet (q : Ring) (buf : List Word) (s : State) : Res :=
  .next <| match ready s q 0x30 with
  | none => s
  | some d => runSet .prn (setOffs .prn) (fun s ws => checkRegulating s .prn ws) q buf d s

/-- PRN_COMMIT (R206). -/
def execPrnCommit (m : Master) (v : Word) (s : State) : Res := .next (writeCommit .prn m v s)

/-- A port becomes DISABLED (R182). -/
def disablePort (p : Port) (s : State) : State :=
  dropReservation p <| s.upPort p fun q =>
    { q with state := .disabled, alert := 0, resp := none, last := none, eseq := 0 }

/-- The target of a rail that a new PRN set moves: VBOOT while the sequencer brings the rail up, unless the heel loop
holds it (R193), and VBOOT where the rail has no owner (R187, R189, R254). -/
def bootTarget (r : Rail) (s : State) : State :=
  let q := railState s (idxOf r)
  if s.prn.rails[r].seqown && !inHeel s r && (q == .ramp || q == .pgwait) then
    s.upPrnRail r fun p => { p with tgt := BitVec.ofNat 16 (s.cfg.vboot r.val) }
  else followBoot r s

/-- Every port follows its EN and its domain (R182). -/
def followPorts (s : State) : State :=
  s.each (fins 4) fun p s =>
    let on := s.cfg.portEn p.val && domOn s pdPrn && domOn s pdFab
    if on && s.prn.ports[p].state == .disabled then s.upPort p fun q => { q with state := .unsync }
    else if !on && s.prn.ports[p].state != .disabled then disablePort p s
    else s

end Sys2Proof.Machine
end

