-- ==== Sys2Proof/Machine/Comparators.lean ====
section
/-!
DEFINITION. The window comparators (07): transitions and what hangs on them, the proof cycle,
adjudications, the always-on comparators and the set-up.
-/

namespace Sys2Proof.Machine

/-! ## Phase windows (R156) -/

/-- A phase is between its edges. -/
def inPulse (s : State) (h : Phase) : Bool :=
  s.pwm.phases[h].pulse.any fun u =>
    let v := u.lastBy (rcNow s)
    decide (v.onAt ≤ rcNow s) && decide (rcNow s < v.offAt)

/-- An on-pulse ends at once, and the phase drives LOW; one that the boost band forces on turns on again after
TOFFMIN (R143, R156). -/
def cutPulse (h : Phase) (s : State) : State :=
  let r := railOf s.cfg h
  let now := rcNow s
  if !inPulse s h then s
  else s.upPhase h fun p =>
    if p.pulse.any (·.again.isSome) then p.fire now (trainFrom s r (now + toffMin s r)) else p.level now .pulses

/-- The high threshold ends an on-pulse at once, and the exit of LIGHT hangs on it (R154, R156). -/
def highTrip (h : Phase) (s : State) : State :=
  let r := railOf s.cfg h
  let s := s.upFb r fun b => { b with firing := b.firing.filter (· != h) }
  let s := (cutPulse h s).upPhase h fun p => { p with tripped := true }
  if s.pwm.rails[r].opmode == .light && hasBit s.pwm.rails[r].act h.val then leaveLight r 0 s else s

/-- The low threshold ends a LOW interval: MID for the rest of the period, from the end of a pulse in progress. That of
the LIGHT phase trips by design and does not count (R156). -/
def lowTrip (h : Phase) (s : State) : State :=
  let w := s.pwm.rails[railOf s.cfg h]
  let counts := !(w.opmode == .light && hasBit w.act h.val)
  let low := !inPulse s h
  let now := rcNow s
  s.upPhase h fun p =>
    let p := { p with tripped := p.tripped || counts }
    match p.drive with
    | .low => p.level now .mid
    | .pulses => if low then p.level now .mid else { p.single now with drive := .pulsesMid }
    | _ => p

/-- The low comparator turns good while a pulse is in progress: the LOW interval after the pulse has nothing to end it
(R156; log 67). -/
def lowClears (h : Phase) (s : State) : State :=
  if inPulse s h then
    s.upPhase h fun p => { p with drive := if p.drive == .pulsesMid then .pulses else p.drive }
  else s

/-! ## COMPARATOR_TRANSITION (R233 to R236) -/

/-- The latch of window v, which comparators of window w drive, is set: event 0x57 where EVEN asks for it. -/
def latchTrip (v : Window) (high : Bool) (s : State) : State :=
  if s.cfg.even v.val then raiseLimited 0x57 0 v.val (winSrc v.val (bit high) 0) 0 noAccess s else s

/-- The wires of a window that has turned (R12): the phase limits, the heel loop, and the count of the
input's return. -/
def windowWires (w : Window) (high notGood : Bool) (s : State) : State :=
  if h : w.val < 48 then
    if !notGood then (if high then s else lowClears ⟨w.val, h⟩ s)
    else if high then highTrip ⟨w.val, h⟩ s else lowTrip ⟨w.val, h⟩ s
  else if 56 ≤ w.val ∧ w.val < 64 then
    let r : Rail := Fin.ofNat 8 (w.val - 56)
    if !s.fb[r].hact then s
    else if high && notGood then ceilingTrips r s
    else if high != notGood then heelFire r s
    else s
  else if w.val = 72 then
    s.upSeq fun q => { q with retqual := !(wires s w).live && s.ldg.src != .input }
  else s

/-- Window v turns to its not-good side: the injected sequence (R67). -/
def windowTrigger (v : Window) (s : State) : State :=
  if s.cfg.wen && s.cfg.trigWin = v.val then triggerInjected 0 s else s

/-- The windows of VCC33 and of the die temperature are two of the monitors of R496. -/
def windowMonitor (v : Window) (s : State) : State :=
  if v.val = 74 then raiseMonitor 1 s else if v.val = 75 then raiseMonitor 6 s else s

/-- What follows on the wires of window v, where window w drives them (R236, R238, R239). -/
def onWires (v : Window) (high notGood turned : Bool) (s : State) : State :=
  let s := if turned then windowMonitor v (windowTrigger v (latchTrip v high s)) else s
  windowWires v high notGood s

/-- COMPARATOR_TRANSITION (R233): a comparator of window w turns. Its window's latch is set at the transition to
not-good; the wires that it drives, if any, are those of the window whose inputs it has. -/
def execComparatorTransition (w : Window) (high notGood : Bool) (s : State) : Res :=
  .next <|
    let x := s.cmp.win[w]
    if !domOn s pdCmp || (if high then x.high else x.low) == notGood then s
    else
      let turned := notGood && !x.live
      let s := s.upWin w fun x =>
        let y := if high then { x with high := notGood } else { x with low := notGood }
        { y with latch := y.latch || turned }
      let s := if turned && decide (76 ≤ w.val) then windowTrigger w s else s
      match drives s w with
      | some v => onWires v high notGood turned s
      | none => s

/-! ## The proof cycle (R237 to R242) -/

/-- A proof cycle begins with the windows W00 to W75 in order. -/
def beginCycle (s : State) : State :=
  nextProof (s.upCmp fun c =>
    { c with cycle := true, left := (fins 80).filter fun w => w.val < 76, steepRaised := false })

/-- PROOF_CYCLE_START (R237). -/
def execProofCycleStart (s : State) : Res :=
  .next (if !domOn s pdCmp || !s.cfg.proofen || s.cmp.cycle then s else beginCycle s)

/-- A steep window that fails its self-check is never used again; the test is retried with another
(R239). -/
def steepFails (p : Proof) (s : State) : State :=
  let s := s.upWin (steepWin p.steep) fun x => { x with failed := true }
  let s := raise 0x56 (winSrc (76 + p.steep.val) 0 1) 0 s
  nextProof ((freeDac p s).upCmp fun c => { c with proof := none, left := p.win :: c.left })

/-- The steep window of a proof test takes w's levels, and its sides: both see the same input (R238). -/
def loadSteep (p : Proof) (s : State) : State :=
  let x := s.cmp.win[p.win]
  s.upWin (steepWin p.steep) fun y => { y with lo := x.lo, hi := x.hi, low := x.low, high := x.high }

/-- w's latch state passes to the steep window (R238). -/
def passLatch (p : Proof) (s : State) : State :=
  let x := s.cmp.win[p.win]
  s.upWin (steepWin p.steep) fun y => { y with latch := x.latch }

/-- Both live outputs agree. -/
def outputsAgree (p : Proof) (s : State) : Bool :=
  s.cmp.win[p.win].live == s.cmp.win[steepWin p.steep].live

/-- A window has failed its test: the steep window keeps its inputs and wires from now on (R239). -/
def windowFails (p : Proof) (elem cell : Nat) (s : State) : State :=
  let s := if p.stage.val < 2 then loadSteep p s else s
  let s := if p.stage.val < 4 then passLatch p s else s
  let s := s.upWin p.win fun x => { x with failed := true }
  let s := (freeDac p s).upCmp fun c => { c with steep := vput c.steep p.steep (.standsIn p.win), proof := none }
  nextProof (raise 0x56 (winSrc p.win.val elem cell) 0 s)

/-- A failure that a stage can find: its element and its CELL (R239, R245). -/
def stageFailure (stage : Fin 9) (elem : Fin 5) : Option (Nat × Nat) :=
  match stage.val with
  | 2 => some (0, 2)
  | 4 => if elem.val ≤ 1 then some (elem.val, 3) else none
  | 5 => if 2 ≤ elem.val then some (elem.val, 4) else none
  | 7 => some (0, 5)
  | _ => none

/-- What a passed stage leaves in the two windows (R238): w under the test DAC turns not-good in the swap, and
good at the last of the levels; at its reconnection it sees the steep window's input again. -/
def stageLeaves (p : Proof) (s : State) : State :=
  match p.stage.val with
  | 1 => loadSteep p s
  | 3 => passLatch p s
  | 4 => s.upWin p.win fun x => { x with low := true, high := true, latch := true }
  | 5 => s.upWin p.win fun x => { x with low := false, high := false, latch := true }
  | 6 =>
    let y := s.cmp.win[steepWin p.steep]
    s.upWin p.win fun x => { x with low := y.low, high := y.high }
  | 8 => handBack p s
  | _ => s

/-- The stage that a proof test passes to, or its end. -/
def stagePassed (p : Proof) (s : State) : State :=
  let s := freeDac p (stageLeaves p s)
  if p.stage.val = 8 then nextProof (s.upCmp fun c => { c with proof := none })
  else s.upCmp fun c => { c with proof := some { p with stage := p.stage + 1, since := s.clk.slot } }

/-- A period of the phase's carrier starts in this slot; without a running carrier its place in the common frame
gives the start, as for its latch (R236; log 17). -/
def periodStarts (s : State) (h : Phase) : Bool :=
  let r := railOf s.cfg h
  let p := s.pwm.phases[h]
  let t := if s.pwm.rails[r].opmode != .off then p.carrAt
    else carrierStart s.clk.frame0 (periodSteps s.cfg r.val) p.offset (stepNow s)
  decide (t < stepNow s + 64) && decide (stepNow s < t + 64)

/-- The steep window takes over, and hands back: for the window of a phase at a start of its carrier period, and for
the others where both outputs agree (R238). -/
def changesHands (p : Proof) (s : State) : Bool :=
  if h : p.win.val < 48 then periodStarts s ⟨p.win.val, h⟩ else outputsAgree p s

/-- A stage cannot end yet: it waits for the test DAC (R240), or for the tick of a hand-over (R238). -/
def stageWaits (p : Proof) (s : State) : Bool :=
  ((p.stage.val = 0 || p.stage.val = 4) && s.adc.ptest.isSome) ||
    ((p.stage.val = 3 || p.stage.val = 8) && !changesHands p s)

/-- PROOF_TEST_STAGE_END (R238, R239). -/
def execProofTestStageEnd (seen : ProofSeen) (s : State) : Res :=
  .next <| match s.cmp.proof with
  | none => s
  | some p =>
    if stageWaits p s then s
    else match seen with
    | .pass => stagePassed p s
    | .fail e =>
      if p.stage.val = 0 then steepFails p s
      else match stageFailure p.stage e with
        | some f => windowFails p f.1 f.2 s
        | none => s

/-! ## Adjudication (R212) -/

/-- The path's mean reading in nV over the interval of the ball's conversions; the latest record's where none fell
into it (log 17). -/
def ballReading (s : State) (r : Rail) (c : PathCheck) : Rat :=
  if c.ballN = 0 then ((pathNv s r ((c.last.map (·.value)).getD 0) : Int) : Rat) else (c.ballSum : Rat) / (c.ballN : Rat)

/-- The difference in nV between a ball measurement, in sixteenths of a threshold code, and the path's
converter reading. -/
def ballError (s : State) (r : Rail) (c : PathCheck) (ball : Int) : Rat :=
  ((ball * codeLsb s.cfg r.val * 1000 : Int) : Rat) / 128 - ballReading s r c

/-- A path has a front-end fault. -/
def frontFault (s : State) (r : Rail) (d : Rat) : Bool :=
  let a := ratAbs d
  decide (((plausLimit s r : Int) : Rat) < 2 * a) && decide (((codeLsb s.cfg r.val * 250 : Int) : Rat) ≤ a)

/-- ADJUDICATION_DONE (R212): the averages of the sixteen conversions at each ball. -/
def execAdjudicationDone (r : Rail) (ballRemote ballLocal : Int) (s : State) : Res :=
  .next <|
    if !(fins 4).any (fun n => s.cmp.steep[n] == .adjudicates r) ||
        decide (s.clk.slot < s.fb[r].adjAt + 2 * ballSlots) then s
    else
      let m := frontFault s r (ballError s r s.fb[r].remote ballRemote)
      let l := frontFault s r (ballError s r s.fb[r].local_ ballLocal)
      let path := s.fb[r].path
      let s := freeAdjudication r s
      let s := if m then markLost r true 3 s else s
      let s := if l then markLost r false 3 s else s
      if m || l then switchPath r s
      else raisePath r (if path == .local_ then 1 else 0) 5 s

/-! ## Always-on comparators (R243, R244) -/

/-- An always-on comparator is not-good. -/
def aoLive (s : State) (k : Fin 3) : Bool := s.cmp.aoLow[k] || s.cmp.aoHigh[k]

/-- WAKE selects a transition to this side. -/
def aoWakes (s : State) (k : Fin 3) (notGood : Bool) : Bool :=
  match bitsOf s.cmp.aoCfg[k] 30 2 with
  | 1 => notGood
  | 2 => !notGood
  | 3 => true
  | _ => false

/-- AO_COMPARATOR_CHANGE (R243, R244): a side has held for FILT ticks. -/
def execAoComparatorChange (k : Fin 3) (high notGood : Bool) (s : State) : Res :=
  .next <|
    let before := aoLive s k
    let now := if high then s.cmp.aoHigh[k] else s.cmp.aoLow[k]
    if now == notGood || !hasBit s.cmp.aoCfg[k] 15 then s
    else
      let s := s.upCmp fun c =>
        if high then { c with aoHigh := vput c.aoHigh k notGood }
        else { c with aoLow := vput c.aoLow k notGood }
      let after := aoLive s k
      if before == after then s
      else if s.pwr.phase == .asleep then
        if aoWakes s k after && hasBit s.pwr.wake 1 then s.upPwr fun p => { p with wakeDue := true } else s
      else
        -- a wake condition that arises while the rails fall is kept (R490)
        let s := if aoWakes s k after then s.upPwr fun p =>
            { p with sleep := p.sleep.map fun j => if hasBit j.wake 1 then { j with kept := true } else j }
          else s
        if after && domOn s pdFab then raise 0x5A (srcId 0x6 0x2 k.val 0 0) 0 s else s

/-! ## Set-up (R236, R248) -/

/-- CMP_SET (R248, R327). -/
def execCmpSet (q : Ring) (buf : List Word) (s : State) : Res :=
  .next <| match ready s q 0x31 with
  | none => s
  | some d => runSet .cmp (setOffs .cmp) (fun s ws => checkRegulating s .cmp ws) q buf d s

/-- CMP_COMMIT (R248). -/
def execCmpCommit (m : Master) (v : Word) (s : State) : Res := .next (writeCommit .cmp m v s)

/-- The comparators behind a window's bit in the CMP registers: those that drive its wires, and a steep window's
own (log 65). -/
def shownWindow (s : State) (w : Window) : Window := if w.val < 76 then wireWindow s w else w

/-- A write to CMP_LATCHk (R236): a latch whose output is still not-good stays set. -/
def writeLatch (m : Master) (k : Fin 3) (v : Word) (s : State) : State :=
  regWrite m (0x6020 + 4 * k.val) true v (if k.val = 2 then 0xFFFF0000 else 0) (fun s =>
    s.each ((fins 80).filter fun w => w.val / 32 = k.val && hasBit v (w.val % 32)) fun w =>
      State.upWin (shownWindow s w) fun x => { x with latch := x.latch && x.live }) s

/-- CMP_LATCH_CLEAR (R236). -/
def execCmpLatchClear (m : Master) (k : Fin 3) (v : Word) (s : State) : Res := .next (writeLatch m k v s)

end Sys2Proof.Machine
end

