-- ==== Sys2Proof/Machine/Sequencer.lean ====
section
/-!
DEFINITION. The sequencer's commands (08): requests, the ends of its intervals, power-good, discharge,
retries, margins and the core's faults.
-/

namespace Sys2Proof.Machine

/-- The sequencer comes to rest, the windows take the codes that follow, and a power-fail take-down that
is over is booked (R254, R266, R293). -/
def seqRest (s : State) : State := spentIfDone (refreshAll (settle s))

/-! ## Requests (R252, R253) -/

/-- An on request of a group is open: no shut-off, no class A condition, and not held off by a
power-fail take-down. -/
def mayRequestOn (s : State) (j : Group) : Bool :=
  !s.seq.shutoff && !s.flt.classA && !hasBit s.seq.pfmem j.val

/-- The checks of a group request (R253). -/
def groupCheck (s : State) (on off : BitVec 8) : Option Nat :=
  let pins := maskOf 8 fun j => s.cfg.enpin j.val
  firstBad [
    (on &&& off != 0, codeInconsistent),
    ((on ||| off) &&& pins != 0, codeState),
    (on != 0 && (s.seq.shutoff || s.flt.classA), codeState),
    (on &&& s.seq.pfmem != 0, codeEnergy)]

/-- An accepted group request takes effect. -/
def applyRequests (on off : BitVec 8) (s : State) : State :=
  let s := s.each ((fins 8).filter fun j => hasBit off j.val) requestOff
  let s := s.each ((fins 8).filter fun j => hasBit on j.val) requestOn
  seqRest s

/-- SEQ_GROUP (R253). -/
def execSeqGroup (q : Ring) (s : State) : Res :=
  .next <| match ready s q 0x39 with
  | none => s
  | some d =>
    let on := BitVec.ofNat 8 (d.pf 0 8)
    let off := BitVec.ofNat 8 (d.pf 8 8)
    match groupCheck s on off with
    | some c => complete q c 0 s
    | none => complete q 0 0 (applyRequests on off s)

/-- A write of SEQ_GCMD. -/
def writeGcmd (m : Master) (v : Word) (s : State) : State :=
  regWrite m 0x7010 true v 0xFFFF0000 (fun s =>
    let on := BitVec.ofNat 8 (bitsOf v 0 8)
    let off := BitVec.ofNat 8 (bitsOf v 8 8)
    match groupCheck s on off with
    | some c => rejectWrite m 0x7010 c s
    | none => applyRequests on off s) s

/-- SEQ_GCMD (R253). -/
def execSeqGcmd (m : Master) (v : Word) (s : State) : Res := .next (writeGcmd m v s)

/-- Groups that follow EN take its level (R252). -/
def followEn (which : Group → Bool) (s : State) : State :=
  s.each ((fins 8).filter which) fun j s =>
    if s.seq.en then (if mayRequestOn s j then requestOn j s else s) else requestOff j s

/-- The groups that follow the EN ball. -/
def enGroups (s : State) (j : Group) : Bool := s.cfg.enpin j.val

/-- START requests on every group with ENPIN 0 that holds a used rail (R252). -/
def startGroups (s : State) : State :=
  s.each ((fins 8).filter fun j => !s.cfg.enpin j.val &&
      (usedRails s.cfg).any fun i => groupOf s.cfg i = j) fun j s =>
    if mayRequestOn s j then requestOn j s else s

/-- The wait of step 9 ends (R485). -/
def endWait (s : State) : State :=
  if s.pwr.phase == .waiting then s.upPwr fun p => { p with phase := .sequencing } else s

/-- A START acts (R252, R485). -/
def actStart (q : Ring) (s : State) : State :=
  if s.seq.shutoff || s.flt.classA then complete q codeState 0 s
  else complete q 0 0 (seqRest (endWait (startGroups s)))

/-- The wait of step 9 begins (R485): a START held in execution acts, and EN is taken at its level. -/
def beginWait (s : State) : State :=
  let s := s.upPwr fun p => { p with phase := .waiting, enIgnored := false }
  let s := match s.pwr.startHeld with
    | some q => actStart q (s.upPwr fun p => { p with startHeld := none })
    | none => s
  let s := if s.seq.en then endWait s else s
  seqRest (followEn (enGroups s) s)

/-- START (R252, R369, R485). -/
def execStart (q : Ring) (s : State) : Res :=
  .next <| match ready s q 0x01 with
  | none => s
  | some _ =>
    match s.pwr.phase with
    | .halted => complete q codeState 0 s
    | .waiting => actStart q s
    | .sequencing => actStart q s
    | .run => actStart q s
    | _ =>
      if s.pwr.startHeld.isSome then s
      else if s.seq.shutoff || s.flt.classA then complete q codeState 0 s
      else s.upPwr fun p => { p with startHeld := some q }

/-- EN_PIN_CHANGE (R252): the level of EN after its synchronisation. It is acted on from the wait of step
9 on. -/
def execEnPinChange (level : Bool) (s : State) : Res :=
  .next <|
    let s := s.upSeq fun q => { q with en := level }
    if !domOn s pdSeq || s.pwr.enIgnored then s
    else match s.pwr.phase with
      | .waiting => seqRest (followEn (enGroups s) (if level then endWait s else s))
      | .sequencing => seqRest (followEn (enGroups s) s)
      | .run => seqRest (followEn (enGroups s) s)
      | _ => s

/-! ## Coming up (R254 to R258) -/

/-- ON_DELAY_END (R254, R255). -/
def execOnDelayEnd (i : SeqIdx) (s : State) : Res :=
  .next <|
    if domOn s pdSeq && railState s i == .delay && wantOn s i && freeToRise s i then
      seqRest (enterRamp i s)
    else s

/-- RAMP_TIME_END (R254): an external rail's blanking has elapsed. -/
def execRampTimeEnd (i : SeqIdx) (s : State) : Res :=
  .next <|
    if domOn s pdSeq && railState s i == .ramp && (regRail i).isNone then
      seqRest (s.upSeqRail i fun k => { k with state := .pgwait, pgood := false })
    else s

/-- A rail in PGWAIT is good: ON, and the target of a regulated rail passes to its owner (R189). -/
def enterOn (i : SeqIdx) (s : State) : State :=
  let s := s.upSeqRail i fun k => { k with state := .on, pgood := true }
  match regRail i with
  | some r => s.upPrnRail r fun p => { p with seqown := false, gcls := 0, notify := false }
  | none => s

/-- POWER_GOOD_CHANGE (R257): the filtered output of the rail's window has changed. -/
def execPowerGoodChange (i : SeqIdx) (good : Bool) (s : State) : Res :=
  .next <|
    if !domOn s pdSeq || !s.cfg.use i.val || (wires s (pgWindow i)).live == good ||
        s.seq.rails[i].pgood == good then s
    else if railState s i == .pgwait && good then seqRest (enterOn i s)
    else
      let s := s.upSeqRail i fun k => { k with pgood := good }
      if good then s else seqRest (runningFault i 2 1 false s)

/-- The dependants of a group's rails that stand in other groups. -/
def outerDependants (s : State) (j : Group) : List SeqIdx :=
  let rails := (usedRails s.cfg).filter fun i => groupOf s.cfg i = j
  (usedRails s.cfg).filter fun i => groupOf s.cfg i != j && rails.any fun p => (dependants s.cfg p).contains i

/-- RETRY_ALL with a retry left: the group falls, waits and rises again (R258). -/
def groupRetry (j : Group) (s : State) : State :=
  let outer := outerDependants s j
  let s := s.upGroup j fun k => { k with retrying := true }
  let s := s.each ((usedRails s.cfg).filter fun i => groupOf s.cfg i = j) fun i => State.upSeqRail i fun k =>
    if k.held.lasts then k else { k with held := .groupRetry }
  s.each outer (markDown false)

/-- RETRY_ALL with no retry left: the group fails (R258). -/
def groupFails (i : SeqIdx) (j : Group) (s : State) : State :=
  let outer := outerDependants s j
  let s := requestOff j s
  let s := s.upGroup j fun k => { k with failed := true }
  raiseSeq i 5 0 (s.each outer (markDown false))

/-- DEPENDANTS_ONLY (R258): the rail fails and its dependants are blocked. -/
def railFails (i : SeqIdx) (s : State) : State :=
  let s := s.upSeqRail i fun k => { k with held := .toFailed }
  s.each ((dependants s.cfg i).filter fun d => s.cfg.use d.val) fun d => State.upSeqRail d fun k =>
    if k.held == .toFailed then k else { k with held := .toBlocked }

/-- POWER_GOOD_TIMEOUT (R258). -/
def execPowerGoodTimeout (i : SeqIdx) (s : State) : Res :=
  .next <|
    if !domOn s pdSeq || railState s i != .pgwait then s
    else
      let j := groupOf s.cfg i
      let s := raiseSeq i 1 1 s
      seqRest <|
        if s.cfg.policy j.val then railFails i s
        else if s.cfg.nretry j.val ≤ s.seq.groups[j].retryc.val then groupFails i j s
        else groupRetry j s

/-! ## Going down (R254, R266) -/

/-- DISCHARGED (R266): the low comparator of the rail's window has held below DISCODE. -/
def execDischarged (i : SeqIdx) (s : State) : Res :=
  .next <|
    if domOn s pdSeq && (railState s i == .discharge || railState s i == .hold) &&
        (wires s (pgWindow i)).low then seqRest (reachOff i s)
    else s

/-- DISCHARGE_TIMEOUT (R254, R262). -/
def execDischargeTimeout (i : SeqIdx) (s : State) : Res :=
  .next <|
    if !domOn s pdSeq || railState s i != .discharge then s
    else
      let s := raiseSeq i 3 2 s
      if s.cfg.dact i.val && !s.seq.shutoff then
        let s := match regRail i with
          | some r => driveHeld r .mid s
          | none => s
        seqRest (setRailState i .hold s)
      else seqRest (reachOff i s)

/-- SEQ_RELEASE (R277, R369). -/
def execSeqRelease (q : Ring) (s : State) : Res :=
  .next <| match ready s q 0x3B with
  | none => s
  | some d =>
    let i : SeqIdx := Fin.ofNat 16 (d.pf 0 4)
    if railState s i != .hold then complete q codeState 0 s
    else complete q 0 0 (seqRest (reachOff i s))

/-! ## Retries (R258, R259) -/

/-- The rails that wait for the running retry of rail i. -/
def retryWaiters (s : State) (i : SeqIdx) : List SeqIdx :=
  (fins 16).filter fun k => s.seq.rails[k].held == .railRetry i

/-- RETRY_DELAY_END (R258, R259): RTYDLY has passed since the last rail reached OFF. -/
def execRetryDelayEnd (who : RetryOf) (s : State) : Res :=
  .next <|
    if !domOn s pdSeq then s
    else match who with
    | .group j =>
      let rails := (usedRails s.cfg).filter fun i => groupOf s.cfg i = j
      if s.seq.groups[j].retrying && rails.all fun i => isDown (railState s i) then
        let s := s.upGroup j fun k => { k with retrying := false, retryc := k.retryc + 1 }
        seqRest <| s.each rails fun i => State.upSeqRail i fun k =>
          if k.held == .groupRetry then { k with held := .none } else k
      else s
    | .rail i =>
      let ws := retryWaiters s i
      if !ws.isEmpty && ws.all fun k => isDown (railState s k) then
        seqRest <| s.each ws fun k => State.upSeqRail k fun x => { x with held := .none }
      else s

/-- RETRY_COUNT_RESET (R258, R259): ON without a break for 1 s. -/
def execRetryCountReset (who : RetryOf) (s : State) : Res :=
  .next <| match who with
  | .group j =>
    let rails := (usedRails s.cfg).filter fun i => groupOf s.cfg i = j
    if !rails.isEmpty && rails.all fun i => railState s i == .on then
      s.upGroup j fun k => { k with retryc := 0 }
    else s
  | .rail i => if railState s i == .on then s.upSeqRail i fun k => { k with retryc := 0 } else s

/-- REACTION_TIMEOUT (R261). -/
def execReactionTimeout (s : State) : Res :=
  .next <|
    let late := (usedRails s.cfg).filter fun i =>
      s.seq.rails[i].faultDown && !isDown (railState s i)
    if !domOn s pdSeq || late.isEmpty then s
    else seqRest (shutOff (s.each late fun i => raiseSeq i 7 0))

/-- SEQ_CORE_MISMATCH (R263): the shut-off, and the reset of the core; every rail is then OFF and the
set-up is kept. -/
def execSeqCoreMismatch (s : State) : Res :=
  .next <|
    if !domOn s pdSeq then s
    else
      let s := restampAt (· == .seq) (shutOff s)
      let s := s.each (fins 8) restRail
      let s := s.upSeq fun q =>
        { q with core := true, retqual := false, pfs := false, pfmem := 0
                 groups := Vector.replicate 8 SeqGroup.reset
                 rails := q.rails.map fun k => { SeqRail.reset with discode := k.discode, lcause := k.lcause } }
      seqRest (raiseSeq 0 0xF 0xF s)

/-- A write to SEQ_STATUS (R262): SHUTOFF is written 1 to clear once every rail is OFF; its other fields
are read-only. -/
def writeSeqStatus (m : Master) (v : Word) (s : State) : State :=
  regWrite m 0x7008 true v 0xFFF00000 (fun s =>
    if !hasBit v 16 then s
    else if s.flt.classA || (fins 16).any fun i => railState s i != .off then
      rejectWrite m 0x7008 codeState s
    else s.upSeq fun q => { q with shutoff := false }) s

/-- SHUTOFF_CLEAR (R262). -/
def execShutoffClear (m : Master) (v : Word) (s : State) : Res := .next (writeSeqStatus m v s)

/-! ## Margins (R271 to R273) -/

/-- The rails of a margin request. -/
def marginRails (m : Nat) : List Rail := maskRails m

/-- The checks of a margin selection (R271); a refusal of the ledger is counted by the caller. -/
def marginCheck (s : State) (rails : List Rail) (sel : Nat) : Option Nat :=
  if sel = 0 then none
  else if s.flt.classA || rails.any fun r => railState s (idxOf r) != .on then some codeState
  else
    let cost := s.cfg.costmrg * (rails.filter fun r => !s.prn.rails[r].mrg).length
    if mayAdmit s cost false then none else some codeEnergy

/-- A selection takes effect on one rail (R272, R288). -/
def selectMargin (sel : Nat) (r : Rail) (s : State) : State :=
  if sel = 0 then marginNone r s
  else
    let s := if s.prn.rails[r].mrg then s else book (.margin r) s.cfg.costmrg s
    let s := s.upSeqRail (idxOf r) fun k => { k with msel := BitVec.ofNat 2 sel }
    alertPorts (portHas s r) alMargin (s.upPrnRail r fun p => { p with mrg := true })

/-- A refusal of the ledger counts. -/
def noteRefusal (code : Nat) (s : State) : State := if code = codeEnergy then countRefusal s else s

/-- SEQ_MARGIN (R271). -/
def execSeqMargin (q : Ring) (s : State) : Res :=
  .next <| match ready s q 0x3A with
  | none => s
  | some d =>
    let rails := marginRails (d.pf 0 8)
    let sel := d.pf 8 2
    if sel = 3 then complete q codeRange 0 s
    else match marginCheck s rails sel with
      | some c => complete q c 0 (noteRefusal c s)
      | none => complete q 0 0 (s.each rails (selectMargin sel))

/-- A write of SEQ_MCMD. -/
def writeMcmd (m : Master) (v : Word) (s : State) : State :=
  regWrite m 0x7014 true v 0xFFFFFC00 (fun s =>
    let rails := marginRails (bitsOf v 0 8)
    let sel := bitsOf v 8 2
    if sel = 3 then rejectWrite m 0x7014 codeRange s
    else match marginCheck s rails sel with
      | some c => rejectWrite m 0x7014 c (noteRefusal c s)
      | none => s.each rails (selectMargin sel)) s

/-- SEQ_MCMD (R271). -/
def execSeqMcmd (m : Master) (v : Word) (s : State) : Res := .next (writeMcmd m v s)

/-! ## Set-up (R277) -/

/-- SEQ_SET (R277, R327). -/
def execSeqSet (q : Ring) (buf : List Word) (s : State) : Res :=
  .next <| match ready s q 0x38 with
  | none => s
  | some d => runSet .seq (setOffs .seq) (fun s ws => checkRegulating s .seq ws) q buf d s

/-- SEQ_COMMIT (R277). -/
def execSeqCommit (m : Master) (v : Word) (s : State) : Res := .next (writeCommit .seq m v s)

/-! ## The power-fail take-down and the input's return (R268 to R270) -/

/-- The take-down that the ledger asks for (R268): the groups of PFGRP fall in order, and the others are left as
they are. -/
def powerFail (s : State) : State :=
  let groups := (fins 8).filter fun j => Nat.testBit s.cfg.pfgrp j.val
  let held := groups.filter fun j => s.seq.groups[j].req
  let rails := (usedRails s.cfg).filter fun i => groups.contains (groupOf s.cfg i)
  let s := s.each held requestOff
  let s := s.upSeq fun q => { q with pfmem := maskOf 8 (fun j => groups.contains j), pfs := true }
  seqRest (s.each rails (markDown true))

/-- The input has returned (R270): the groups of PFMEM are requested on again while the take-down runs,
and after it where AUTORET is set. -/
def inputReturns (s : State) : State :=
  let mem := s.seq.pfmem
  let again := s.seq.pfs && (!powerFailDone s || s.cfg.autoret)
  let s := s.upSeq fun q => { q with pfs := false, pfmem := 0, retqual := false }
  seqRest <|
    if again && !s.seq.shutoff && !s.flt.classA then
      s.each ((fins 8).filter fun j => hasBit mem j.val) requestOn
    else s

end Sys2Proof.Machine
end

