-- ==== Sys2Proof/Machine/Energy.lean ====
section
/-!
DEFINITION. The grist ledger (R278 to R296): the hold-up measurement, the millisecond update, the loss and
the return of the input, and the commands of the ledger and the gauge. Energies are in µJ, powers in mW,
voltages in µV, currents in mA.
-/

namespace Sys2Proof.Machine

/-! ## The hold-up measurement (R285) -/

/-- Some channel of the ledger is stale. -/
def ledgerOld (s : State) : Bool := tooOld s.ldg.lastV s || tooOld s.ldg.lastI s

def ledgerFresh (s : State) : State := s.upLdg fun l => { l with stale := l.stale && ledgerOld s }

/-- The mean of a list of figures, 0 of none. -/
def meanRat (xs : List Rat) : Rat :=
  if xs.isEmpty then 0 else xs.foldl (fun (a : Rat) x => a + x) 0 / ((xs.length : Nat) : Rat)

/-- A measurement is formed and judged. -/
def takeHoldUp (power dt : Rat) (s : State) : State :=
  let g := s.cfg
  let a : Rat := ((g.cv1 : Nat) : Rat)
  let b : Rat := ((g.cv2 : Nat) : Rat)
  let c := power * dt / (128 * (a + b) * (a - b))
  let nom : Rat := ((g.cnom : Nat) : Rat)
  let s := s.upLdg fun l => { l with blackout := l.blackout.map fun k => { k with cMeas := some c } }
  if c < nom / 2 ∨ 2 * nom < c then raiseEnergy 0 2 4 0 (s.upLdg fun l => { l with nrej := l.nrej + 1 })
  else commitGauge <| s.upLdg fun l =>
    { l with nlrn := l.nlrn + 1
             cLearned := match l.cLearned with
               | none => some c
               | some old => some (old + (c - old) / 4) }

/-- A channel has given a result at or after an instant, so that no interval of it that reaches before the
instant is still open; one that has given none has no interval. -/
def reaches (last : Option Sample) (t : Rat) : Bool := last.all fun x => decide (t ≤ ((x.slot : Nat) : Rat))

/-- The measurement is taken once both crossings and the loss are known, and the current results that close the
intervals in hand at the crossing of CV2 (R281, R285). -/
def tryHoldUp (s : State) : State :=
  let h := s.ldg.hold
  match h.cv1At, h.cv2At, h.lostAt with
  | some a, some b, some t =>
    if !reaches s.ldg.lastI b || !reaches s.gau.lastI b then s
    else
      let s := s.upLdg fun l => { l with hold := { HoldUp.reset with lostAt := some t } }
      if h.clean ∧ 12800 ≤ b - a ∧ absRat (((t : Nat) : Rat) - a) ≤ ((10 * msSlots : Nat) : Rat) then
        takeHoldUp h.power (b - a) s
      else s
  | _, _, _ => s

/-- Two successive fresh results lie more than 100 µs apart (R281). -/
def farApart (last : Option Nat) (at_ : Nat) : Bool := last.any fun x => decide (x + 25600 < at_)

/-- The instant, in slots, at which the line between two results falls through a level. -/
def crossing (x y : Sample) (vx vy level : Rat) : Rat :=
  ((x.slot : Nat) : Rat) + (vx - level) / (vx - vy) * (((y.slot - x.slot : Nat) : Nat) : Rat)

/-- A current result breaks the measurement: between the crossings it is not below its limit, or it closes a gap
of more than 100 µs that reaches between them (R281, R285). -/
def spoils (s : State) (h : HoldUp) (e : HoldRes) : Bool :=
  let at_ : Rat := ((e.slot : Nat) : Rat)
  let before := h.cv2At.all fun b => decide (at_ ≤ b)
  match h.cv1At with
  | none => false
  | some a =>
    let above := if e.pack then decide (500 ≤ scaled s.cfg.kpi (e.value : Rat))
      else decide (h.iLimit ≤ scaled s.cfg.kiin (e.value : Rat))
    (before && decide (a ≤ at_) && above) ||
      (farApart e.prev e.slot && decide (a < at_) &&
        h.cv2At.all fun b => e.prev.all fun x => decide (((x : Nat) : Rat) < b))

/-- The current results in hand are held against the crossings known. -/
def placeResults (s : State) : State :=
  let h := s.ldg.hold
  s.upLdg fun l => { l with hold := { h with clean := h.clean && !(h.recent.any (spoils s h)), recent := [] } }

/-- VBUS falls through the learning levels between two results (R285). -/
def placeCrossings (x y : Sample) (vx vy : Rat) (s : State) : State :=
  let g := s.cfg
  let falls := fun (level : Nat) => decide (((level * 10000 : Nat) : Rat) < vx) && decide (vy ≤ ((level * 10000 : Nat) : Rat))
  let at_ := fun (level : Nat) => crossing x y vx vy ((level * 10000 : Nat) : Rat)
  let s := if falls g.cv1 then
      s.upLdg fun l =>
        { l with hold :=
            { cv1At := some (at_ g.cv1), cv2At := none, lostAt := l.hold.lostAt, clean := true
              power := meanRat (l.pHist.take 10), iLimit := meanRat l.iinHist / 50, recent := l.hold.recent } }
    else s
  if falls g.cv2 && s.ldg.hold.cv1At.isSome && s.ldg.hold.cv2At.isNone then
    s.upLdg fun l => { l with hold := { l.hold with cv2At := some (at_ g.cv2) } }
  else s

/-- A gap of more than 100 µs between VBUS results spoils a measurement that lies in it (R281). -/
def voltageGap (s : State) : State :=
  if s.ldg.hold.cv1At.isSome && s.ldg.hold.cv2At.isNone then
    s.upLdg fun l => { l with hold := { l.hold with clean := false } }
  else s

/-- A fresh VBUS result. -/
def feedVbus (y : Sample) (s : State) : State :=
  let volts := fun (x : Sample) => scaled (s.cfg.kvin : Nat) (x.value : Rat)
  let s := match s.ldg.lastV with
    | none => s
    | some x => if farApart (some x.slot) y.slot then voltageGap s else placeCrossings x y (volts x) (volts y) s
  let s := (placeResults s).upLdg fun l =>
    { l with vbusNew := l.vbusNew ++ [y], lastV := some y
             blackout := l.blackout.map fun k =>
               if k.onPack then k else { k with lowest := min k.lowest (volts y) } }
  tryHoldUp (ledgerFresh s)

/-- A fresh current result waits for the next VBUS result; one that comes after the crossing of CV2 is placed at
once. -/
def holdResult (e : HoldRes) (s : State) : State :=
  let s := s.upLdg fun l => { l with hold := { l.hold with recent := l.hold.recent ++ [e] } }
  if s.ldg.hold.cv2At.isSome then tryHoldUp (placeResults s) else s

/-- A fresh input-current result. -/
def feedIin (x : Sample) (s : State) : State :=
  let e : HoldRes := { pack := false, prev := s.ldg.lastI.map (·.slot), slot := x.slot, value := x.value }
  holdResult e <| ledgerFresh <| s.upLdg fun l => { l with iinNew := l.iinNew ++ [x], lastI := some x }

/-- A fresh pack-current result, as the hold-up measurement, the blackout record and the gauge take it: at 500 mA
the pack path carries the bus (log 63). -/
def feedPackCurrent (x : Sample) (s : State) : State :=
  let e : HoldRes := { pack := true, prev := s.gau.lastI.map (·.slot), slot := x.slot, value := x.value }
  let carries := decide (500 ≤ scaled s.cfg.kpi (x.value : Rat))
  let s := feedPackI x s
  holdResult e <| s.upLdg fun l =>
    { l with blackout := l.blackout.map fun k => { k with onPack := k.onPack || carries } }

/-- A fresh result of one of the channels of R279. -/
def feedEnergy (chan : Nat) (x : Sample) (s : State) : State :=
  if !domOn s pdGau then s
  else match chan with
    | 0x58 => feedVbus x s
    | 0x59 => feedIin x s
    | 0x5A => feedPackV x s
    | 0x5B => feedPackCurrent x s
    | 0x5C => feedPackT x s
    | _ => s

/-! ## The update (R278, R283 to R287, R294, R295) -/

/-- The ledger's means. While a channel is stale the last ones hold (R281). -/
def ledgerMeans (s : State) : State :=
  let g := s.cfg
  s.upLdg fun l =>
    { l with
      vbusPrev := l.vbus
      vbus := match if l.stale then none else meanValue l.vbusNew with
        | some x => scaled (g.kvin : Nat) x
        | none => l.vbus
      iinHist := match if l.stale then none else meanValue l.iinNew with
        | some x => (scaled g.kiin x :: l.iinHist).take 10
        | none => (l.iinHist.headD 0 :: l.iinHist).take 10
      vbusNew := [], iinNew := [] }

/-- P_b (R286). -/
def loadPower (s : State) : Rat :=
  let l := s.ldg
  let pack := s.gau.vpk * s.gau.ipk / 1000000
  match l.src with
  | .input => l.vbus * l.iinHist.headD 0 / 1000000 + min 0 pack
  | _ => max 0 pack * ((s.cfg.pkeff : Nat) : Rat) / 1000 -
      holdC s * l.vbus * (l.vbus - l.vbusPrev) / 100000000000

/-- E_cap (R284). -/
def holdEnergy (s : State) : Rat :=
  let lo : Rat := ((s.cfg.vhmin * 10000 : Nat) : Rat)
  let v := min s.ldg.vbus ((s.cfg.cv2 * 10000 : Nat) : Rat)
  if v ≤ lo then 0 else holdC s * (v * v - lo * lo) / 200000000000

/-- T_sd in CK_SET ticks of 125 ns (R287). -/
def shutTicks (s : State) : Nat :=
  ((usedRails s.cfg).filter fun i => Nat.testBit s.cfg.pfgrp (groupOf s.cfg i).val).foldl
    (fun n i =>
      let soft := match regRail i with
        | some r => ceilDiv s.prn.rails[r].ref (seqStep s.cfg r.val)
        | none => 0
      n + soft + limiterTicks (s.cfg.disto i.val) (s.cfg.disu i.val)) 0

/-- The shut-down plan in whole µs, as LDG_TSD shows it. -/
def shutMicros (s : State) : Nat := ceilDiv (shutTicks s) 8

/-- E_res (R287, R296). -/
def reserve (s : State) : Rat :=
  let g := s.cfg
  s.ldg.pPlan * s.ldg.tSd / 1000 * ((1000 + g.sdmrg : Nat) : Rat) / 1000 + ((g.env * 1000 : Nat) : Rat) +
    if s.ldg.capArmed then 0 else ((g.floorJ * 1000000 : Nat) : Rat)

/-- The time in STORED, in ms (R294). -/
def storedTime (s : State) : Rat := ((s.clk.slot - s.ldg.storedAt : Nat) : Rat) / ((msSlots : Nat) : Rat)

/-- The ride time in ms (R295). A planning power of 0, and a time that 32 bits do not hold, leave the
value open (log 6). -/
def rideTime (s : State) : State × Word :=
  let l := s.ldg
  let free := max 0 (l.ePlan - l.eRes)
  let f := divFree free l.pPlan s
  let t := if s.cfg.ridemax = 0 then f.2 else min f.2 (max 0 (((s.cfg.ridemax * 1000 : Nat) : Rat) - storedTime s))
  let t := max 0 t.floor
  if t < 2 ^ 32 then (f.1, BitVec.ofInt 32 t) else let g := takeFree f.1; (g.2, g.1)

/-- LDG_RIDE follows the figures (R295). -/
def showRide (s : State) : State :=
  match s.ldg.src with
  | .input => s.upLdg fun l => { l with ride := 0xFFFFFFFF }
  | .stored => let f := rideTime s; f.1.upLdg fun l => { l with ride := f.2 }
  | _ => s.upLdg fun l => { l with ride := 0 }

/-- The ledger's figures (R283, R286, R287). While a channel is stale, and in the update after a reset,
energy is counted at the last planning power (R281, R315). -/
def ledgerFigures (s : State) : State :=
  let l := s.ldg
  let held := l.stale || l.restarted
  let pb := loadPower s
  let hist := if held then l.pHist else (pb :: l.pHist).take 100
  let plan := if held then l.pPlan else max pb (meanRat hist)
  let onInput := l.src == .input
  let fromIn := if held then (if onInput then l.pPlan else 0)
    else l.vbus * l.iinHist.headD 0 / 1000000
  let fromPack := if s.gau.stale && !onInput then l.pPlan else s.gau.vpk * s.gau.ipk / 1000000
  let drawn := if held then l.pPlan else pb
  let s := s.upLdg fun l =>
    { l with
      pHist := hist, pPlan := plan, eIn := l.eIn + fromIn, ePk := l.ePk + fromPack
      blackout := if onInput then l.blackout
        else l.blackout.map fun b => { b with drawn := b.drawn + drawn }
      restarted := false, tSd := ((shutMicros s : Nat) : Rat) }
  let s := s.upLdg fun l => { l with ePlan := l.ePack + holdEnergy s }
  showRide (releaseIdle (s.upLdg fun l => { l with eRes := reserve s }))

/-- The trigger of R294 that fires, 0 for none. -/
def trigger (s : State) : Nat :=
  let l := s.ldg
  if l.src != .stored || !s.cfg.pfen then 0
  else if l.ePlan ≤ l.eRes then 1
  else if s.cfg.ns ≠ 0 && decide (10 ≤ s.gau.cutMs) then 2
  else if s.cfg.ridemax ≠ 0 && decide (((s.cfg.ridemax * 1000 : Nat) : Rat) ≤ storedTime s) then 3
  else 0

/-- The triggers of R294: the power-fail take-down is asked for. -/
def checkTriggers (s : State) : State :=
  let t := trigger s
  if t = 0 then s
  else
    let s := s.upLdg fun l =>
      { l with src := .down, trig := BitVec.ofNat 3 t, ride := 0
               blackout := l.blackout.map fun b => { b with trigger := BitVec.ofNat 3 t } }
    powerFail (raiseEnergy 0 1 3 t s)

/-- The gauge record's ten minutes (R313). -/
def recordTimer (s : State) : State :=
  if s.gau.recMs + 1 < 600000 then s.upGau fun u => { u with recMs := u.recMs + 1 }
  else commitGauge (s.upGau fun u => { u with recMs := 0 })

/-- LEDGER_UPDATE (R278): at each multiple of 64 000 ticks of the time-stamp counter. -/
def execLedgerUpdate (s : State) : Res :=
  .next <|
    if !domOn s pdGau || !onGrid s s.ldg.updAt then s
    else (recordTimer (spentIfDone (checkTriggers (ledgerFigures (gaugeUpdate (ledgerMeans s)))))).upLdg fun l =>
      { l with updAt := some s.tmr.now }

/-! ## The input (R293, R269, R270) -/

/-- INPUT_LOSS (R293): W72 has been not-good for LOSSF µs. -/
def execInputLoss (s : State) : Res :=
  .next <|
    if !domOn s pdGau || s.ldg.src != .input || !(wires s (72 : Window)).live then s
    else
      let f := rideTime (s.upLdg fun l => { l with storedAt := s.clk.slot })
      let first := match s.ldg.lastV with
        | some x => scaled (s.cfg.kvin : Nat) (x.value : Rat)
        | none => s.ldg.vbus
      let s := f.1.upLdg fun l =>
        { l with
          src := .stored, ride := f.2, hold := { l.hold with lostAt := some s.clk.slot }
          blackout := some
            { lossTime := timeNow s, drawn := 0, socrLoss := s.gau.socr, trigger := 0, lowest := first
              onPack := false, cMeas := none, pLoss := l.pPlan, rideLoss := f.2 } }
      let s := alertPorts (portLive s) alInlost s
      tryHoldUp (countUp 0 (raiseEnergy 0 0 1 0 s))

/-- INPUT_RETURN_QUALIFIED (R270, R293). -/
def execInputReturnQualified (s : State) : Res :=
  .next <|
    if !domOn s pdGau || s.ldg.src == .input || (wires s (72 : Window)).live then s
    else
      let s := match s.ldg.src with
        | .stored => closeBlackout 1 s
        | .down => closeBlackout 2 s
        | _ => s.upLdg fun l => { l with lastReturn := timeNow s }
      let s := s.upLdg fun l =>
        { l with src := .input, ride := 0xFFFFFFFF, hold := HoldUp.reset }
      inputReturns (alertPorts (portLive s) alInret (raiseEnergy 0 0 2 0 s))

/-! ## Stale channels and resets (R281, R315) -/

/-- CHANNEL_STALE (R281): a channel of the ledger or of the gauge has given no fresh result for 10 ms. -/
def execChannelStale (gauge : Bool) (s : State) : Res :=
  .next <|
    if !domOn s pdGau then s
    else if gauge then
      if s.cfg.ns = 0 || s.gau.stale || !gaugeOld s then s
      else disqualify 2 (raiseEnergy 1 0 6 0 (s.upGau fun u => { u with stale := true }))
    else if s.ldg.stale || !ledgerOld s then s
    else disqualify 2 (raiseEnergy 0 0 6 0 (s.upLdg fun l => { l with stale := true }))

/-- LDG_GAU_BLOCK_RESET (R315). -/
def execLdgGauBlockReset (gauge : Bool) (s : State) : Res :=
  let key := resetKey (srcId 0xB (bit gauge) 0 0 0)
  .next <|
    if !resetAsked key s then s
    else
      let s := restampAt (· == .ldg) (takeReset key s)
      if gauge then
        let s := disqualify 0 s
        if nvOpen s then gaugeStart (s.nvm.report []) s else gaugeNew s
      else s.upLdg fun l =>
        { l with vbusNew := [], iinNew := [], iinHist := [], lastV := none, lastI := none, stale := false
                 hold := { HoldUp.reset with lostAt := l.hold.lostAt }, restarted := true }

/-! ## Descriptors and the commit (R296, R319) -/

/-- The LDG_CMD descriptor in turn on ring q, when it carries this code. -/
def ldgCmd (s : State) (q : Ring) (code : Nat) : Option Desc :=
  (ready s q 0x41).filter fun d => d.pf 0 8 = code

/-- CHARGER_DONE (R296): only while the pack charges at less than ITAPER. -/
def execChargerDone (q : Ring) (s : State) : Res :=
  .next <| match ldgCmd s q 1 with
  | none => s
  | some _ =>
    let i := s.gau.ipk
    if s.cfg.ns ≠ 0 ∧ i < 0 ∧ -i < ((s.cfg.itaper : Nat) : Rat) then complete q 0 0 (fullDetected s)
    else complete q codeState 0 s

/-- CAPTEST_ARM (R296). -/
def execCaptestArm (q : Ring) (s : State) : Res :=
  .next <| match ldgCmd s q 2 with
  | none => s
  | some _ =>
    if s.ldg.src == .input && s.gau.fullseen && s.cfg.pfen then
      complete q 0 0 (s.upLdg fun l => { l with capArmed := true })
    else complete q codeState 0 s

/-- CAPTEST_DISARM (R296). -/
def execCaptestDisarm (q : Ring) (s : State) : Res :=
  .next <| match ldgCmd s q 3 with
  | none => s
  | some _ => complete q 0 0 (s.upLdg fun l => { l with capArmed := false })

/-- LDG_SET (R319, R367). -/
def execLdgSet (q : Ring) (buf : List Word) (s : State) : Res :=
  .next <| match ready s q 0x40 with
  | none => s
  | some d => runSet .ldg (setOffs .ldg) (fun s ws => checkSet s .ldg ws) q buf d s

/-- LDG_COMMIT (R319). -/
def execLdgCommit (m : Master) (v : Word) (s : State) : Res := .next (writeCommit .ldg m v s)

end Sys2Proof.Machine
end

