-- ==== Sys2Proof/Machine/Faults.lean ====
section
/-!
DEFINITION. The fault collector's commands (R320 to R349): acknowledgement, test mode, injection, the
escalation ladder and the fault log.
-/

namespace Sys2Proof.Machine

/-! ## Acknowledgement (R345, R329, R335) -/

/-- The unacknowledged class-A record halts the start (R329). -/
def haltsByA (s : State) : Bool := s.cfg.ahold && s.flt.prevA

/-- Three reaction resets halt the start (R335). -/
def haltsByRstc (s : State) : Bool := s.flt.rstc = 3

/-- The start halts before it waits for EN or START (R329, R335). -/
def startHalts (s : State) : Bool := haltsByA s || haltsByRstc s

/-- A start that halted goes on once every flag that halted it is cleared (R329, R485). -/
def goOnStart (s : State) : State :=
  if s.pwr.phase != .halted || (s.pwr.haltA && s.flt.prevA) || (s.pwr.haltR && haltsByRstc s) then s
  else beginWait (s.upPwr fun p => { p with haltA := false, haltR := false })

/-- Outside escalation mode the ladder has no timer (R338). -/
def leaveEscalation (s : State) : State :=
  if escMode s then s else s.upFlt fun f => { f with escStart := none }

/-- The class-A record as the next commit of it finds it: the newest one that waits, or the winning copy. -/
def classANow (s : State) : State × Option (List Byte) :=
  let waits := s.nvm.queue.filterMap fun r => match r.work with
    | .recCommit 12 p _ _ _ => some p
    | _ => none
  match waits.getLast? with
  | some p => (s, some p)
  | none =>
    let f := recLook (s.nvm.report []) 12 s
    (f.s, f.value.map (·.2))

/-- The class-A record is marked acknowledged (R329, R431), where the controller takes requests (R426). -/
def ackRecord (s : State) : State :=
  let s := s.upFlt fun f => { f with prevA := false }
  if !nvOpen s then s else
  let f := classANow s
  match f.2 with
  | some v =>
    let b := natAt v 13 1
    recordCommit 12 (v.take 13 ++ leBytes 1 (if b % 2 = 1 then b else b + 1) ++ v.drop 14) f.1
  | none => f.1

/-- FLT_ACK (R345). -/
def execFltAck (q : Ring) (s : State) : Res :=
  .next <| match ready s q 0x48 with
  | none => s
  | some d =>
    let s := clearPending (BitVec.ofNat 128 (natAt d.ext 0 16)) s
    let s := if d.pf 0 1 = 1 then clearCapture s else s
    let s := if d.pf 1 1 = 1 then ackRecord s else s
    let s := if d.pf 2 1 = 1 then s.upFlt fun f => { f with rstc := 0 } else s
    goOnStart (complete q 0 0 (leaveEscalation s))

/-- FLT_MODE (R346). -/
def execFltMode (q : Ring) (s : State) : Res :=
  .next <| match ready s q 0x49 with
  | none => s
  | some d => complete q 0 0 (leaveEscalation (s.upFlt fun f => { f with test := d.pf 0 1 = 1 }))

/-- FLT_INJECT (R346). -/
def execFltInject (q : Ring) (s : State) : Res :=
  .next <| match ready s q 0x4A with
  | none => s
  | some d =>
    let e := d.pf 0 7
    if reservedEvent e then complete q codeRange 0 s
    else complete q 0 0
      (raiseFull e (BitVec.ofNat 32 (d.pf 32 32)) (d.pf 16 16) noAccess false true s)

/-- FLT_SET (R349, R367). -/
def execFltSet (q : Ring) (buf : List Word) (s : State) : Res :=
  .next <| match ready s q 0x4B with
  | none => s
  | some d => runSet .flt (setOffs .flt) (fun s ws => checkSet s .flt ws) q buf d s

/-- FLT_COMMIT (R349). -/
def execFltCommit (m : Master) (v : Word) (s : State) : Res := .next (writeCommit .flt m v s)

/-- A write of FLT_FCLR, which the lock does not freeze (R339). -/
def writeFclr (m : Master) (v : Word) (s : State) : State :=
  regWrite m 0xC010 false v 0xFFFFFFFE (fun s => if hasBit v 0 then clearCapture s else s) s

/-- FLT_FCLR (R339). -/
def execFltFclr (m : Master) (v : Word) (s : State) : Res := .next (writeFclr m v s)

/-- A write of FLT_PENDk (R345). -/
def writePend (m : Master) (k : Fin 4) (v : Word) (s : State) : State :=
  regWrite m (0xC030 + 4 * k.val) true v 0 (fun s =>
    leaveEscalation (clearPending (BitVec.ofNat 128 (v.toNat * 2 ^ (32 * k.val))) s)) s

/-- FLT_PEND_CLEAR (R345). -/
def execFltPendClear (m : Master) (k : Fin 4) (v : Word) (s : State) : Res := .next (writePend m k v s)

/-! ## The ladder (R337) -/

/-- The pending class B and C sources that the ladder may take to this step. -/
def ladderAt (s : State) (least : Nat) : List Nat :=
  (pendingList s).filter fun e => onLadder e && decide (least ≤ s.cfg.rxEscmax e)

/-- A step of the ladder with its timer started anew. -/
def ladderStep (n : Fin 5) (s : State) : State :=
  s.upFlt fun f => { f with step := n, escStart := some s.clk.slot }

/-- STEP 1 to STEP 2: the alert of every source. -/
def ladderAlerts (s : State) : State :=
  let t := (ladderAt s 1).foldl (fun t e => takeAlert e t)
    ({ s := ladderStep 2 s, taken := 0, failed := [] } : Taking)
  raiseUnsent t.failed t.s

/-- STEP 2 to STEP 3: the block reset of every source that has one. -/
def ladderResets (s : State) : State :=
  let keys := s.flt.pendKeys.filter fun k => (ladderAt s 2).contains k.1.toNat
  (ladderStep 3 s).each keys fun k => askReset k.2

/-- STEP 3 to STEP 4: the chip reset, or STEP 3 without a timer. -/
def ladderChipReset (s : State) : State :=
  if (ladderAt s 3).isEmpty then s.upFlt fun f => { f with escStart := none }
  else askChipReset (s.upFlt fun f => { f with step := 4, escStart := none })

/-- ESCALATION_TIMEOUT (R337): ESCWIN ms have passed since the timer was started. -/
def execEscalationTimeout (s : State) : Res :=
  .next <| match s.flt.escStart with
  | none => s
  | some t =>
    if !domOn s pdFab || !escMode s || decide (s.clk.slot < t + s.cfg.escwin * msSlots) then s
    else match s.flt.step with
      | 1 => ladderAlerts s
      | 2 => ladderResets s
      | 3 => ladderChipReset s
      | _ => s

/-! ## The fault log (R341 to R343) -/

/-- A log entry's 32 bytes. -/
def entryBytes (e : LogEntry) (seq : Word) : List Byte :=
  let body := leBytes 8 e.time.toNat ++ leBytes 4 e.src.toNat ++ leBytes 4 seq.toNat ++
    leBytes 8 e.access.addr.toNat ++ leBytes 1 (e.event.toNat + 128 * bit e.classA) ++
    leBytes 1 (e.cls.toNat + 4 * bit e.escm + 8 * e.step.toNat + 64 * bit e.first + 128 * bit e.injected) ++
    leBytes 1 (e.access.master.toNat + 16 * e.access.type.toNat) ++
    leBytes 1 (e.access.aspace.toNat + 4 * e.refsel.toNat) ++ leBytes 2 e.code.toNat ++
    leBytes 1 e.taken.toNat
  body ++ [crc8Bytes body]

def logAddr (seq : Word) : Nat := 0xD000 + 32 * (seq.toNat % 1024)

/-- The oldest entry of the queue is written, or is counted when the controller refuses it. -/
def writeEntry (s : State) : State :=
  match s.flt.queue with
  | [] => s
  | e :: es =>
    let s := s.upFlt fun f => { f with queue := es }
    if s.nvm.refuse then countDrop s
    else
      let h := s.flt.logHead
      let s := s.upNvm fun n => n.put (logAddr h) (entryBytes e h)
      s.upFlt fun f => { f with logHead := h + 1 }

/-- LOG_ENTRY_WRITE (R343). -/
def execLogEntryWrite (s : State) : Res :=
  .next (if domOn s pdFab && domOn s pdNvm then writeEntry s else s)

/-- Every queued entry is written (R344). -/
def flushLog (s : State) : State :=
  if domOn s pdNvm then (List.range 32).foldl (fun s _ => writeEntry s) s else s

/-- An entry of the log counts when its CRC holds, which an uncorrectable word makes it fail (R342, R343). -/
def logEntryAt (mem : List Host.Cell) (ecc : EccReport) (k : Nat) : Option Nat :=
  let bs := readBytes mem (0xD000 + 32 * k) 32
  if lostWords ecc (0xD000 / 8 + 4 * k) 4 then none
  else if crc8Bytes (bs.take 31) = BitVec.ofNat 8 (natAt bs 31 1) then some (natAt bs 12 4) else none

/-- FLT_LOGHEAD from the scan of the log (R342). -/
def scanLog (mem : List Host.Cell) (ecc : EccReport) : Word :=
  BitVec.ofNat 32 ((List.range 1024).foldl (fun n k =>
    match logEntryAt mem ecc k with
    | some q => max n (q + 1)
    | none => n) 0)

end Sys2Proof.Machine
end

