-- ==== Sys2Proof/Machine/Image.lean ====
section
/-!
DEFINITION. The Etyhan image (R402 to R410): its header, its sections, its checks, the choice of the slot
and the load.
-/

namespace Sys2Proof.Machine

/-- A section: its TYPE and its payload. -/
structure Section_ where
  type : Nat
  payload : List Byte

/-- An image as its header and its sections read. -/
structure Image where
  length : Nat
  seq : Nat
  autolock : Bool
  ssvid : Nat
  ssid : Nat
  sections : List Section_

/-- What the check of an image finds: the image, or the cause of R410 with the index of the failing
section. -/
inductive ImageSeen where
  | good (i : Image)
  | bad (cause index : Nat)

/-! ## Structure (R403 to R406) -/

/-- The block of a set section. -/
def sectionBlk (t : Nat) : Option Blk :=
  match t with
  | 0x10 => some .adc | 0x20 => some .eng | 0x30 => some .pwm | 0x40 => some .prn | 0x50 => some .cmp
  | 0x60 => some .seq | 0x70 => some .ldg | 0x80 => some .flt | 0x90 => some .tw | 0xA0 => some .nvm
  | _ => none

def isBankSection (t : Nat) : Bool := t = 0x21 || t = 0x22
def isUserSection (t : Nat) : Bool := decide (0x7F00 ≤ t) && decide (t ≤ 0x7FFF)

/-- A section's LEN is right for its TYPE, which R405 lists. -/
def sectionFits (t len : Nat) : Bool :=
  match sectionBlk t with
  | some b => len = 4 * (setOffs b).length
  | none => (isBankSection t && len = 260) || isUserSection t

/-- The rail of a bank or table section. -/
def sectionRail (c : Section_) : Nat := natAt c.payload 0 1 % 8

/-- Two sections may not stand in one image (R406). -/
def sameSection (a b : Section_) : Bool :=
  a.type == b.type && !isUserSection a.type && (!isBankSection a.type || sectionRail a == sectionRail b)

/-- The sections of an image, or the index of the one that breaks the structure. -/
def parseSections : Nat → Nat → List Section_ → List Byte → Except Nat (List Section_)
  | 0, k, acc, bs => if bs.isEmpty then .ok acc else .error k
  | n + 1, k, acc, bs =>
    let t := natAt bs 0 2
    let len := natAt bs 2 2
    let c : Section_ := { type := t, payload := (bs.drop 4).take len }
    if bs.length < 4 + len ∨ len % 4 ≠ 0 then .error k
    else if !sectionFits t len || acc.any (sameSection c) then .error k
    else parseSections n (k + 1) (acc ++ [c]) (bs.drop (4 + len))

/-! ## Content (R407) -/

/-- The words that a set section carries. -/
def sectionWords (c : Section_) : List (Nat × Word) :=
  match sectionBlk c.type with
  | some b => (setOffs b).zip (wordsOf (setOffs b).length c.payload)
  | none => []

/-- The words of all sections. -/
def imageWords (cs : List Section_) : List (Nat × Word) := cs.flatMap sectionWords

/-- The bank A that an image gives a rail; a rail without a section keeps its reset content. -/
def imageBank (cs : List Section_) (b : Bool) (r : Rail) : Vector Word 32 :=
  match cs.find? fun c => c.type = 0x21 && sectionRail c = r.val with
  | some c => toVec 32 (wordsOf 32 (c.payload.drop (if b then 132 else 4)))
  | none => Vector.replicate 32 0

/-- A block's check over an image taken as one set, before any rail is enabled. -/
def checkImageBlk (cs : List Section_) (adsel : BitVec 2) (g : Setup) (b : Blk) : Option Nat :=
  match b with
  | .adc => checkAdc g
  | .eng => checkEng (imageBank cs false) (fun _ => true) g
  | .pwm => checkPwmBase g
  | .cmp => checkCmp g
  | .seq => checkSeqBase g
  | .prn => checkPrn (fun _ => none) g
  | .tw => checkTw true adsel g
  | .nvm => checkNvm g
  | .ldg => checkLdg g true g
  | .flt => checkFlt g

/-- A bank or table section names its rail with a reserved bit set, or carries a reserved word or bit of a bank that is
not 0 (R110, R405). -/
def bankSectionBad (c : Section_) : Bool :=
  natAt c.payload 0 4 != sectionRail c ||
    (c.type = 0x21 && [4, 132].any fun n => bankReservedSet (toVec 32 (wordsOf 32 (c.payload.drop n))))

/-- A section fails the content check. -/
def sectionBad (cs : List Section_) (adsel : BitVec 2) (g : Setup) (c : Section_) : Bool :=
  match sectionBlk c.type with
  | some b => reservedSet (sectionWords c) || (checkImageBlk cs adsel g b).isSome
  | none => isBankSection c.type && bankSectionBad c

/-- The set-up that an image gives: its sections over the reset values. -/
def imageRegs (cs : List Section_) : RegMap := setWords [] (imageWords cs)

/-- The whole check of an image's bytes from its slot (R408, R410); a byte string without MAGIC is no
image. -/
def imageSeen (adsel : BitVec 2) (bs : List Byte) : ImageSeen :=
  let len := natAt bs 8 4
  if natAt bs 4 2 ≠ 0x0100 ∨ natAt bs 6 2 ≠ 32 then .bad 1 0
  else if outside 32 16384 len || len % 4 ≠ 0 || bs.length < len then .bad 2 0
  else if (crc32 (bs.take 28 ++ (bs.take len).drop 32)).toNat ≠ natAt bs 28 4 then .bad 3 0
  else if natAt bs 16 4 ≠ 0x48085A43 then .bad 4 0
  else match parseSections (natAt bs 22 2) 0 [] ((bs.take len).drop 32) with
    | .error k => .bad 5 k
    | .ok cs =>
      let g := Setup.of (imageRegs cs)
      match (cs.zipIdx).find? fun e => sectionBad cs adsel g e.1 with
      | some e => .bad 6 e.2
      | none => .good
          { length := len, seq := natAt bs 12 4, autolock := natAt bs 20 2 % 2 = 1
            ssvid := natAt bs 24 2, ssid := natAt bs 26 2, sections := cs }

/-- The MAGIC of R403. -/
def magic : Nat := 0x4C56485A

/-! ## Slots (R402, R408 to R410) -/

def slotAddr (k : Nat) : Nat := 0x1000 + 0x4000 * k

/-- A slot as the loader reads it: none without a MAGIC. A word that does not read leaves the CRC
unmatched. -/
def slotSeen (mem : List Host.Cell) (ecc : EccReport) (adsel : BitVec 2) (k : Nat) : Option ImageSeen :=
  let a := slotAddr k
  if natAt (readBytes mem a 4) 0 4 ≠ magic || lostWord ecc (a / 8) then none
  else
    let len := leNat (readBytes mem (a + 8) 4)
    let n := if outside 32 16384 len then 32 else len
    match imageSeen adsel (readBytes mem a n) with
    | .bad c i => if c ≤ 2 then some (.bad c i)
      else if lostWords ecc (a / 8) (ceilDiv n 8) then some (.bad 3 0) else some (.bad c i)
    | .good i => if lostWords ecc (a / 8) (ceilDiv n 8) then some (.bad 3 0) else some (.good i)

/-- The image that a slot holds, when it is valid. -/
def validImage : Option ImageSeen → Option Image
  | some (.good i) => some i
  | _ => none

def raiseImage (unit cause index code : Nat) (s : State) : State :=
  raise 0x7F (srcId 0xE 0x0 unit 0 (16 * index + cause)) code s

/-- The event of an invalid slot. -/
def noteSlot (k : Nat) (x : Option ImageSeen) (s : State) : State :=
  match x with
  | some (.bad c i) => raiseImage k c i 0 s
  | _ => s

/-- A rail's load of its banks and tables from an image: bank A is active, the load copies start at 0. -/
def loadBanks (cs : List Section_) (r : Rail) (e : EngRail) : EngRail :=
  let tables := (cs.find? fun c => c.type = 0x22 && sectionRail c = r.val).map (·.payload)
  let part := fun (at_ : Nat) => match tables with
    | some p => toVec 32 (wordsOf 32 (p.drop at_))
    | none => Vector.replicate 32 0
  { e with bank := false, bankA := imageBank cs false r, bankB := imageBank cs true r
           table := false, ripple0 := part 4, dead0 := part 132
           ripple1 := Vector.replicate 32 0, dead1 := Vector.replicate 32 0 }

/-- PD_AO copies the always-on comparators' set-up (R243). -/
def copyAo (s : State) : State :=
  s.upCmp fun c => { c with aoCfg := Vector.ofFn fun k => s.cfg.get (0x6400 + 4 * k.val) }

/-- All sections of an image become live and shadow together (R407). -/
def loadImage (slot : Fin 2) (i : Image) (s : State) : State :=
  let m := imageRegs i.sections
  let s := s.upRegs fun g =>
    { g with live := m, shadow := m, acc := m, autolock := i.autolock
             ssvid := BitVec.ofNat 16 i.ssvid, ssid := BitVec.ofNat 16 i.ssid }
  let s := s.upEng fun e =>
    { e with rails := Vector.ofFn fun r => loadBanks i.sections r e.rails[r] }
  let s := if i.sections.any fun c => c.type = 0x50 then copyAo s else s
  s.upNvm fun n => { n with loaded := some slot }

/-- The choice and the load of an image (R408, R409). -/
def loadSlots (ecc : EccReport) (s : State) : State :=
  let see := fun k => slotSeen s.nvm.mem ecc s.tw.adsel k
  let a := see 0
  let b := see 1
  let s := seeWords 0 ecc (slotAddr 0 / 8) 2048 s
  let s := seeWords 0 ecc (slotAddr 1 / 8) 2048 s
  let s := noteSlot 1 b (noteSlot 0 a s)
  match validImage a, validImage b with
  | some x, some y =>
    if newerSeq y.seq x.seq then loadImage 1 y s
    else
      let same := readBytes s.nvm.mem (slotAddr 0) x.length == readBytes s.nvm.mem (slotAddr 1) y.length
      let s := if newerSeq x.seq y.seq || same then s else raiseImage 0 7 0 codeTie s
      loadImage 0 x s
  | some x, none => loadImage 0 x s
  | none, some y => loadImage 1 y s
  | none, none => raiseImage 0 8 0 0 (s.upNvm fun n => { n with loaded := none })

end Sys2Proof.Machine
end

