-- ==== Sys2Proof/Machine/NvStore.lean ====
section
/-!
DEFINITION. The NV controller (R414 to R446, R411, R412): its descriptors, its page operations, the
scrubber, the power failure and the block reset.
-/

namespace Sys2Proof.Machine

/-! ## Requests -/

/-- A request of a descriptor joins the queue and the descriptor waits for it. -/
def nvDescriptor (q : Ring) (r : NvReq) (s : State) : State := decide_ q (nvAsk r s)

/-- The controller takes no request (R426) or its domain is off. -/
def nvShut (s : State) : Bool := !nvOpen s

/-- The range that BP protects starts here; the array ends at 0x4_0000 (R420). -/
def protectedFrom (bp : Nat) : Nat :=
  match bp with
  | 0 => 0x40000 | 1 => 0x30000 | 2 => 0x20000 | _ => 0x1000

/-- The first byte of n from address a that BP protects (R421). -/
def firstProtected (s : State) (a n : Nat) : Option Nat :=
  let p := protectedFrom s.cfg.bp
  if n = 0 ∨ a + n ≤ p then none else some (max a p)

/-- A write that BP refuses: event 0x7B and code 0x0107 (R421, R443). -/
def refuseProtected (q : Ring) (a : Nat) (s : State) : State :=
  complete q codeProtected 0 (raiseAccess 0x7B (nvSrc (a / 8) 0) codeProtected (nvAccess 1 5 a) s)

/-- Bytes as the words of the array that they fill, in address order. -/
def wordRuns : Nat → Nat → List Byte → List (Nat × List Byte)
  | 0, _, _ => []
  | n + 1, a, bs =>
    if bs.isEmpty then []
    else
      let k := 8 - a % 8
      (a, bs.take k) :: wordRuns n (a + k) (bs.drop k)

/-- All of a list of bytes, as words. -/
def allRuns (a : Nat) (bs : List Byte) : List (Nat × List Byte) := wordRuns (bs.length + 1) a bs

/-- NV_READ (R423). -/
def execNvRead (q : Ring) (s : State) : Res :=
  .next <| match ready s q 0x50 with
  | none => s
  | some d =>
    let a := d.pf 0 18
    let n := d.len.toNat
    if 0x40000 < a + n then complete q codeRange 0 s
    else if nvShut s then complete q codeState 0 s
    else nvDescriptor q (nvReq 3 (some q) (.read q a n)) s

/-- NV_WRITE (R418, R421, R423, R424). -/
def execNvWrite (q : Ring) (buf : List Byte) (s : State) : Res :=
  .next <| match ready s q 0x51 with
  | none => s
  | some d =>
    let a := d.pf 0 18
    let n := d.len.toNat
    if 0x40000 < a + n || buf.length ≠ n then complete q codeRange 0 s
    else if a < 0x15000 then complete q codeProtected 0 s
    else if nvShut s then complete q codeState 0 s
    else match firstProtected s a n with
      | some p => refuseProtected q p s
      | none => nvDescriptor q { nvReq 3 (some q) (.write q) with todo := allRuns a buf } s

/-- REC_READ (R436). -/
def execRecRead (q : Ring) (s : State) : Res :=
  .next <| match ready s q 0x52 with
  | none => s
  | some d =>
    if nvShut s then complete q codeState 0 s
    else nvDescriptor q (nvReq 3 (some q) (.recRead q (Fin.ofNat 64 (d.pf 0 6)) 0)) s

/-- The slot that a commit of record n writes and the SEQ that it gives (R435). -/
def commitPlace (n : Fin 64) (s : State) : Fin 2 × Nat :=
  let x := recLook (s.nvm.report []) n s
  match x.s.nvm.winner[n], x.value with
  | some k, some v => (if k = 0 then 1 else 0, (v.1 + 1) % 2 ^ 32)
  | _, _ => (1, 1)

/-- REC_COMMIT (R421, R430, R436). -/
def execRecCommit (q : Ring) (buf : List Byte) (s : State) : Res :=
  .next <| match ready s q 0x53 with
  | none => s
  | some d =>
    let n := Fin.ofNat 64 (d.pf 0 6)
    if buf.length ≠ d.len.toNat || decide (recMax n.val < buf.length) then complete q codeRange 0 s
    else if deviceRecord n.val then complete q codeProtected 0 s
    else if nvShut s then complete q codeState 0 s
    else match firstProtected s (recAddr n.val (commitPlace n s).1.val) (recSize n.val) with
      | some p => refuseProtected q p s
      | none => nvDescriptor q (nvReq 3 (some q) (.recCommit n buf 0 0 0)) s

/-- The first byte of the word that an increment of a counter is to write. -/
def incrementAddr (n : Fin 64) (ecc : EccReport) (s : State) : Nat :=
  (counterAddr n.val + 4 * nextCell (topCell (cellsOf s.nvm.mem ecc n.val))) / 8 * 8

/-- CNT_INC (R421, R438, R439). -/
def execCntInc (q : Ring) (s : State) : Res :=
  .next <| match ready s q 0x54 with
  | none => s
  | some d =>
    let n := Fin.ofNat 64 (d.pf 0 6)
    if n.val < 16 then complete q codeProtected 0 s
    else if nvShut s then complete q codeState 0 s
    else
      let ecc := s.nvm.report []
      let full := decide (counterValue s.nvm.mem ecc n.val = 0x0FFFFFFF)
      match firstProtected s (incrementAddr n ecc s) 8 with
      | some p => if full then nvDescriptor q (nvReq 3 (some q) (.counter n)) s else refuseProtected q p s
      | none => nvDescriptor q (nvReq 3 (some q) (.counter n)) s

/-- A counter is read and reported (R438). -/
def readCounter (q : Ring) (n : Nat) (ecc : EccReport) (s : State) : State :=
  let s := seeWords 1 ecc (counterAddr n / 8) 8 s
  complete q 0 (counterValue s.nvm.mem ecc n) s

/-- CNT_READ (R438): at once where nothing waits for the array, and in its turn otherwise (R425). -/
def execCntRead (q : Ring) (ecc : EccReport) (s : State) : Res :=
  .next <| match ready s q 0x55 with
  | none => s
  | some d =>
    let n := d.pf 0 6
    if nvShut s then complete q codeState 0 s
    else if s.nvm.queue.isEmpty && s.flt.queue.isEmpty then readCounter q n (s.nvm.report ecc) s
    else nvDescriptor q (nvReq 3 (some q) (.cntRead q (Fin.ofNat 64 n))) s

/-- An IMG_WRITE is under way. -/
def imageRunning (s : State) : Bool := s.nvm.queue.any fun r => match r.work with
  | .image .. => true
  | _ => false

/-- The order of the words of an image write (R412). -/
def imageRuns (a : Nat) (bs : List Byte) : List (Nat × List Byte) :=
  [(a, List.replicate 8 0)] ++ allRuns (a + 8) (bs.drop 8) ++
    [(a, List.replicate 4 0 ++ (bs.drop 4).take 4), (a, bs.take 8)]

/-- The SEQ is newer than that of every valid slot (R411). -/
def newestSeq (s : State) (seq : Nat) : Bool := [0, 1].all fun k =>
  match validImage (slotSeen s.nvm.mem (s.nvm.report []) s.tw.adsel k) with
  | some i => newerSeq seq i.seq
  | none => true

/-- What an IMG_WRITE's own rules answer, in the order of R411; none where it may write. -/
def imageRefusal (s : State) (slot : Fin 2) (len : Nat) (bs : List Byte) : Option Nat :=
  if s.nvm.loaded = some slot then some codeState
  else if imageRunning s then some codeBusy
  else if natAt bs 0 4 ≠ magic || natAt bs 8 4 ≠ len || bs.length ≠ len then some codeImage
  else match imageSeen s.tw.adsel bs with
    | .bad _ _ => some codeImage
    | .good i => if newestSeq s i.seq then none else some codeInconsistent

/-- The IMG_WRITE in execution on ring q: one that finds another running does not wait (R411). -/
def imageCommand (s : State) (q : Ring) : Option Desc :=
  match s.hif.sq[q].exec with
  | some e => if e.desc.opcode = 0x60 ∧ e.decided = false ∧ (imageRunning s ∨ blockedBy s e = false) then
      some e.desc else none
  | none => none

/-- IMG_WRITE (R411, R412). -/
def execImgWrite (q : Ring) (buf : List Byte) (s : State) : Res :=
  .next <| match imageCommand s q with
  | none => s
  | some d =>
    let slot : Fin 2 := Fin.ofNat 2 (d.pf 0 1)
    match imageRefusal s slot d.len.toNat buf with
    | some c => complete q c 0 s
    | none =>
      let a := slotAddr slot.val
      if nvShut s then complete q codeState 0 s
      else match firstProtected s a buf.length with
        | some p => refuseProtected q p s
        | none =>
          nvDescriptor q { nvReq 3 (some q) (.image q slot buf false) with todo := imageRuns a buf } s

/-! ## Page operations (R425) -/

/-- The waiting request of highest precedence, the oldest of its kind, and the others. -/
def pickReq (rs : List NvReq) : Option (NvReq × List NvReq) :=
  match [2, 3, 4].findSome? fun p => rs.find? fun r => r.prec.val = p with
  | some r => some (r, rs.erase r)
  | none => none

/-- The request goes on at its next page. -/
def requeue (r : NvReq) (s : State) : State := s.upNvm fun n => { n with queue := r :: n.queue }

/-- The words of a request's next page are written. -/
def writePage (r : NvReq) (s : State) : State × NvReq :=
  match r.todo with
  | [] => (s, r)
  | w :: _ =>
    let now := r.todo.takeWhile fun e => e.1 / 64 = w.1 / 64
    let s := s.upNvm fun n => now.foldl (fun m e => m.put e.1 e.2) n
    let s := match r.ring with
      | some q => act_ q s
      | none => s
    (s, { r with todo := r.todo.drop now.length })

/-- A request's next page is read. -/
def readPage (ecc : EccReport) (r : NvReq) (s : State) : State × NvReq :=
  match r.pages with
  | [] => (s, r)
  | p :: ps =>
    let lost := ((List.range 8).map (p / 8 + ·)).filter (lostWord ecc)
    (seeWords (if r.ring.isSome then 1 else 0) ecc (p / 8) 8 s, { r with pages := ps, lost := r.lost ++ lost })

/-- The uncorrectable words that a request has met, as a report. -/
def NvReq.ecc (r : NvReq) : EccReport := r.lost.map fun w => (w, .uncorr)

/-- The pages of n bytes from address a. -/
def pagesOf (a n : Nat) : List Nat := (List.range (ceilDiv n 64)).map fun k => a + 64 * k

/-- One page of an NV_READ: uncorrectable words read as 0 (R423). -/
def stepRead (q : Ring) (a len : Nat) (ecc : EccReport) (r : NvReq) (s : State) : State :=
  let at_ := a + r.got.length
  let n := min (len - r.got.length) (64 - at_ % 64)
  let words := (List.range (n / 8)).map fun k => at_ / 8 + k
  let bytes := words.flatMap fun w =>
    if lostWord ecc w then List.replicate 8 (0 : Byte) else readBytes s.nvm.mem (8 * w) 8
  let s := seeWords 1 ecc (at_ / 8) (n / 8) s
  let r := { r with got := r.got ++ bytes, lost := r.lost ++ words.filter (lostWord ecc) }
  if r.got.length < len then requeue r s
  else
    completeData q (if r.lost.isEmpty then 0 else codeNvBad) 0 r.got s

/-- The other slot of a record. -/
def otherSlot (k : Fin 2) : Fin 2 := if k = 0 then 1 else 0

/-- A record has been found: its payload goes to host memory (R436). -/
def giveRecord (q : Ring) (seq : Nat) (p : List Byte) (s : State) : State :=
  completeData q 0 (p.length + seq * 2 ^ 32) (p ++ List.replicate (240 - p.length) 0) s

/-- One page of a REC_READ (R434, R436): the winning copy first, then the other. -/
def stepRecRead (q : Ring) (id : Fin 64) (stage : Fin 3) (ecc : EccReport) (r : NvReq) (s : State) : State :=
  let first : Fin 2 := (s.nvm.winner[id]).getD 0
  let slotPages := fun (k : Fin 2) => pagesOf (recAddr id.val k.val) (recSize id.val)
  let r := if stage = 0 then { r with work := .recRead q id 1, pages := slotPages first } else r
  let stage : Fin 3 := if stage = 0 then 1 else stage
  let k := if stage = 1 then first else otherSlot first
  let x := readPage ecc r s
  let s := x.1
  let r := x.2
  if !r.pages.isEmpty then requeue r s
  else
    let c := copySeen s.nvm.mem r.ecc id.val k.val
    let s := noteCopy id k c s
    match c with
    | .good seq p =>
      giveRecord q seq p (s.upNvm fun n => { n with winner := vput n.winner id (some k) })
    | _ =>
      if stage = 1 then
        requeue { r with work := .recRead q id 2, pages := slotPages (otherSlot first) } s
      else
        let lost := [first, otherSlot first].any fun k => copySeen s.nvm.mem r.ecc id.val k.val == .bad 3
        complete q (if lost then codeNvBad else codeState) 0 s

/-- The words of a commit in their order (R435). -/
def commitRuns (id : Fin 64) (slot : Fin 2) (seq : Nat) (p : List Byte) : List (Nat × List Byte) :=
  let a := recAddr id.val slot.val
  let size := recSize id.val
  let body := leBytes 1 id.val ++ leBytes 1 0 ++ leBytes 2 p.length ++ leBytes 4 seq ++ p ++
    List.replicate (up8 p.length - p.length) 0
  let trailer := leBytes 4 (crc32 body).toNat ++ leBytes 4 0xA5
  [(a + size - 8, List.replicate 8 0)] ++ allRuns a body ++ [(a + size - 8, trailer)]

/-- A commit has ended: the descriptor, the calibration or the block that asked for it hears of it. -/
def commitEnds (id : Fin 64) (ring : Option Ring) (ok : Bool) (seq : Nat) (s : State) : State :=
  match ring with
  | some q =>
    if id.val < 2 then (if ok then calCommitted q s else calRefused q codeNvBad s)
    else complete q (if ok then 0 else codeNvBad) seq s
  | none =>
    if !ok && decide (9 ≤ id.val) && decide (id.val ≤ 11) then raiseEnergy 0 3 5 0 s else s

/-- One page of a record commit (R435). -/
def stepCommit (id : Fin 64) (payload : List Byte) (stage : Fin 3) (slot : Fin 2) (seq : Nat)
    (ecc : EccReport) (r : NvReq) (s : State) : State :=
  let place := commitPlace id s
  let slot := if stage = 0 then place.1 else slot
  let seq := if stage = 0 then place.2 else seq
  let r := if stage = 0 then
      { r with work := .recCommit id payload 1 slot seq, todo := commitRuns id slot seq payload }
    else r
  let s := if stage = 0 then (recLook (s.nvm.report []) id s).s else s
  if stage.val < 2 then
    let x := writePage r s
    if !x.2.todo.isEmpty then requeue x.2 x.1
    else
      let s := x.1.upNvm fun n => { n with winner := vput n.winner id (some slot) }
      requeue { x.2 with work := .recCommit id payload 2 slot seq,
                         pages := pagesOf (recAddr id.val slot.val) (recSize id.val) } s
  else
    let x := readPage ecc r s
    if !x.2.pages.isEmpty then requeue x.2 x.1
    else match copySeen x.1.nvm.mem x.2.ecc id.val slot.val with
      | .good _ _ => commitEnds id r.ring true seq x.1
      | c =>
        let o := otherSlot slot
        let w := match copySeen x.1.nvm.mem (x.1.nvm.report []) id.val o.val with
          | .good _ _ => some o
          | _ => none
        let s := (noteCopy id slot c x.1).upNvm fun n => { n with winner := vput n.winner id w }
        commitEnds id r.ring false seq (raise 0x7B (srcId 0xA 0x1 id.val slot.val 4) codeNvBad s)

/-- An increment of a counter (R437, R438). -/
def stepCounter (n : Fin 64) (ecc : EccReport) (r : NvReq) (s : State) : State :=
  let a := counterAddr n.val
  let s := seeWords (if r.ring.isSome then 1 else 0) ecc (a / 8) 8 s
  let top := topCell (cellsOf s.nvm.mem ecc n.val)
  let v := (top.map (·.2)).getD 0
  let answer := fun (c v : Nat) (s : State) => match r.ring with
    | some q => complete q c v s
    | none => s
  if v = 0x0FFFFFFF then answer codeClamped v s
  else match r.ring, firstProtected s (incrementAddr n ecc s) 8 with
  | some q, some p => refuseProtected q p s
  | _, _ =>
    let k := nextCell top
    let put := fun (k w : Nat) (m : Nvm) => m.put (a + 4 * k) (leBytes 4 w)
    let s := s.upNvm fun m =>
      put k (cellWord (v + 1)) (if lostWord ecc (a / 8 + k / 2) then put (k / 2 * 2 + (1 - k % 2)) 0 m else m)
    answer 0 (v + 1) s

/-- One page of an IMG_WRITE (R412). -/
def stepImage (q : Ring) (slot : Fin 2) (bytes : List Byte) (back : Bool) (ecc : EccReport) (r : NvReq)
    (s : State) : State :=
  if !back then
    let x := writePage r s
    if !x.2.todo.isEmpty then requeue x.2 x.1
    else requeue { x.2 with work := .image q slot bytes true,
                            pages := pagesOf (slotAddr slot.val) bytes.length } x.1
  else
    let x := readPage ecc r s
    let s := x.1
    if !x.2.pages.isEmpty then requeue x.2 s
    else if !x.2.lost.isEmpty then complete q codeNvBad 0 s
    else
      let bs := readBytes s.nvm.mem (slotAddr slot.val) bytes.length
      if (crc32 (bs.take 28 ++ bs.drop 32)).toNat ≠ natAt bs 28 4 then complete q codeImage 0 s
      else complete q 0 (natAt bs 12 4) (countUp 5 s)

/-- A scrubbed word (R440). -/
def scrubWord (ecc : EccReport) (w : Nat) (s : State) : State :=
  let weak := fun (s : State) => s.upNvm fun n => { n with weak := incSat n.weak, scrWeak := n.scrWeak + 1 }
  match eccOf ecc w with
  | none => s
  | some .weak => weak s
  | some .uncorr => seeWord 0xC w .uncorr (s.upNvm fun n => { n with scrBad := n.scrBad + 1 })
  | some e => weak (seeWord 0xC w e s)

/-- The scrub-state record (R431). -/
def scrubRecord (n : Nvm) : List Byte :=
  leBytes 2 n.scrNext.val ++ leBytes 2 0 ++ leBytes 4 n.scrPasses ++ leBytes 4 n.scrWeak.toNat ++
    leBytes 4 n.scrBad.toNat ++ leBytes 8 n.scrPassTime.toNat

/-- One page of a scrub batch (R440, R441). -/
def stepScrub (left : Nat) (ecc : EccReport) (r : NvReq) (s : State) : State :=
  let s := s.each (List.range 8) fun k => scrubWord ecc (8 * s.nvm.scrNext.val + k)
  let wraps := decide (s.nvm.scrNext.val = 4095)
  let s := s.upNvm fun n =>
    { n with scrNext := n.scrNext + 1, scrPasses := if wraps then n.scrPasses + 1 else n.scrPasses
             scrPassTime := if wraps then timeNow s else n.scrPassTime }
  if 1 < left then requeue { r with work := .scrub (left - 1) } s
  else recordCommit 13 (scrubRecord s.nvm) (dropBook .scrub s)

/-- One page operation of a request. -/
def pageOperation (ecc : EccReport) (r : NvReq) (s : State) : State :=
  match r.work with
  | .read q a len => stepRead q a len ecc r s
  | .write q =>
    let x := writePage r s
    if x.2.todo.isEmpty then complete q 0 0 x.1 else requeue x.2 x.1
  | .cntRead q n => readCounter q n.val ecc s
  | .recRead q id stage => stepRecRead q id stage ecc r s
  | .recCommit id p stage slot seq => stepCommit id p stage slot seq ecc r s
  | .counter n => stepCounter n ecc r s
  | .image q slot bytes back => stepImage q slot bytes back ecc r s
  | .scrub left => stepScrub left ecc r s

/-- NV_PAGE_OPERATION (R425). The fault log, which comes before every other request, has its own row. -/
def execNvPageOperation (ecc : EccReport) (s : State) : Res :=
  .next <|
    if nvShut s || !s.flt.queue.isEmpty then s
    else match pickReq s.nvm.queue with
      | none => s
      | some x => pageOperation (s.nvm.report ecc) x.1 (s.upNvm fun n => { n with queue := x.2 })

/-! ## The scrubber (R440, R441) -/

/-- SCRUB_INTERVAL (R440): the scrubber asks for a batch. -/
def execScrubInterval (s : State) : Res :=
  .next <|
    let running := s.nvm.queue.any fun r => match r.work with
      | .scrub _ => true
      | _ => false
    if nvShut s || !s.cfg.scren || running then s
    else if mayAdmit s s.cfg.costscr false then
      nvAsk (nvReq 4 none (.scrub s.cfg.scrBatch)) (book .scrub s.cfg.costscr s)
    else countRefusal s

/-! ## Block reset and power failure (R442, R426, R427) -/

/-- What a block reset makes of a waiting request. -/
def resetReq (s : State) (r : NvReq) : Option NvReq :=
  match r.work with
  | .scrub _ => none
  | .read .. => some { r with got := [], lost := [] }
  | _ => match r.ring with
    | some q => if r.prec = 2 || (s.hif.sq[q].exec.any (·.acted)) then some r else none
    | none => some r

/-- NV_BLOCK_RESET (R442). -/
def execNvBlockReset (s : State) : Res :=
  let keys := [resetKey (srcId 0xA 0x0 0 0 0), resetKey (srcId 0xA 0x1 0 0 0)]
  .next <|
    if !keys.any (fun k => resetAsked k s) then s
    else
      let s := restampAt (· == .nvm) (s.each keys takeReset)
      let gone := s.nvm.queue.filter fun r => (resetReq s r).isNone
      let s := s.upNvm fun n => { n with queue := n.queue.filterMap (resetReq s) }
      let s := s.each gone fun r s => match r.ring with
        | some q => complete q codeFlushed 0 s
        | none => s
      let s := dropBook .scrub s
      if nvShut s then s else scanRecords (s.nvm.report []) s

/-- The words that a request has still to write; a record commit that has not begun has all of its words. -/
def wordsLeft (s : State) (r : NvReq) : List (Nat × List Byte) :=
  match r.work with
  | .recCommit id p 0 _ _ =>
    let place := commitPlace id s
    commitRuns id place.1 place.2 p
  | _ => r.todo

/-- A descriptor's write that still has words to go, and those words (R426). -/
def unfinished (s : State) : Option (List (Nat × List Byte)) :=
  (s.nvm.queue.filter (·.prec.val = 3)).findSome? fun r =>
    if (wordsLeft s r).isEmpty then none else some (wordsLeft s r)

/-- The write journal word (R427). -/
def journalWord (next last : Nat) : Nat := 2 ^ 63 + 1 * 2 ^ 36 + last / 8 * 8 * 2 ^ 18 + next

/-- A commit of the device that the controller no longer carries out: the calibration or the block that asked for it
hears of it (R77, R313). -/
def killCommit (code : Nat) (r : NvReq) (s : State) : State :=
  match r.work, r.ring with
  | .recCommit id _ _ _ _, some q => if id.val < 2 then calRefused q code s else s
  | .recCommit id _ _ _ _, none => if decide (9 ≤ id.val) && decide (id.val ≤ 11) then raiseEnergy 0 3 5 0 s else s
  | _, _ => s

/-- The commits of the device that wait are given up. -/
def killCommits (code : Nat) (s : State) : State :=
  let mine := fun (r : NvReq) => r.prec.val = 2 && match r.work with
    | .recCommit .. => true
    | _ => false
  let gone := s.nvm.queue.filter mine
  s.upNvm (fun n => { n with queue := n.queue.filter fun r => !mine r }) |>.each gone (killCommit code)

/-- VCC33_UVLO (R426): the controller writes its journal where it must, and refuses every access. -/
def execVcc33Uvlo (s : State) : Res :=
  let s := s.upPwr fun p => { p with uvloGood := false }
  .next <|
    if nvShut s then s
    else
      let s := match unfinished s with
        | some ws =>
          let next := (ws.headD (0, [])).1 / 8 * 8
          let last := (ws.getLastD (0, [])).1 / 8 * 8
          s.upNvm (·.put 0xBC00 (leBytes 8 (journalWord next last)))
        | none => s
      killCommits codeState (s.upNvm fun n => { n with refuse := true })

/-- The words that the array's next page operation would write: a log entry's, or those of the request at the head. -/
def nextWords (s : State) : List (Nat × List Byte) :=
  match s.flt.queue with
  | e :: _ => allRuns (logAddr s.flt.logHead) (entryBytes e s.flt.logHead)
  | [] => match pickReq s.nvm.queue with
    | none => []
    | some x =>
      let ws : List (Nat × List Byte) := match x.1.work with
        | .counter n =>
          let top := topCell (cellsOf s.nvm.mem (s.nvm.report []) n.val)
          let v : Nat := (top.map fun c => c.2).getD 0
          if v = 0x0FFFFFFF then []
          else [(counterAddr n.val + 4 * nextCell top, leBytes 4 (cellWord (v + 1)))]
        | _ => wordsLeft s x.1
      ws.takeWhile fun w => w.1 / 64 = (ws.headD (0, [])).1 / 64

/-- VCC33 falls below the array's write level without the 0.9 µs of the hold-up rule: of the page operation that may have
been in flight the words that had begun read new, and the later ones old (R415, R428). How many they are is open: a
free value (log 68). -/
def cutPage (s : State) : State :=
  if !nvOpen s then s
  else
    let ws := nextWords s
    if ws.isEmpty then s
    else
      let f := takeFree s
      f.2.upNvm fun n =>
        (ws.take (f.1.toNat % (ws.length + 1))).foldl (fun (m : Nvm) (w : Nat × List Byte) => m.put w.1 w.2) n

/-- NVM_COMMIT (R446). -/
def execNvmCommit (m : Master) (v : Word) (s : State) : Res := .next (writeCommit .nvm m v s)

end Sys2Proof.Machine
end

