-- ==== Sys2Proof/Machine/Rings.lean ====
section
/-!
DEFINITION. The submission and completion rings (R355 to R378, R384 to R386): doorbells, fetching, the
checks of a descriptor, execution, completions, host-memory failures and the host-interface block reset.
-/

namespace Sys2Proof.Machine

/-! ## Geometry (R355, R356) -/

def ringSize (size : BitVec 4) : Nat := 2 ^ size.toNat

/-- An index one further round its ring. -/
def nextIdx (size : BitVec 4) (i : BitVec 12) : BitVec 12 :=
  BitVec.ofNat 12 ((i.toNat + 1) % ringSize size)

/-- A completion ring is full (R360). -/
def cqFull (c : Cq) : Bool := nextIdx c.size c.tail == c.head

/-- The host address of entry k of a ring. -/
def entryAddr (base : BitVec 64) (bytes k : Nat) : BitVec 64 := base + BitVec.ofNat 64 (bytes * k)

/-- The index of the next entry to fetch. -/
def fetchIdx (u : Sq) : Nat :=
  (u.tail.toNat + 16 * ringSize u.size - (u.submitted - u.fetchedN)) % ringSize u.size

/-- Some submission ring is enabled. -/
def anySq (s : State) : Bool := (fins 16).any fun q => s.hif.sq[q].state != .disabled

/-- The ring engine runs: its domains are on. -/
def ringsOn (s : State) : Bool := domOn s pdFab && domOn s pdHif

/-! ## The checks of a descriptor (R362, R364, R366) -/

/-- A field of PARAM lies in lo to hi. -/
def Desc.within (d : Desc) (at_ len lo hi : Nat) : Bool :=
  decide (lo ≤ d.pf at_ len) && decide (d.pf at_ len ≤ hi)

/-- The bits of PARAM that an opcode names; none for an unknown opcode. -/
def paramMask (op : Nat) : Option (BitVec 64) :=
  match op with
  | 0x00 => some 0 | 0x01 => some 0 | 0x02 => some 0xFFFFFFFF0000001F | 0x03 => some 0x10F
  | 0x10 => some 0 | 0x11 => some 0 | 0x12 => some 0xF7F | 0x13 => some 0xFFFF0F7F
  | 0x14 => some 0xF7FFFFFFFF | 0x15 => some 0x1F
  | 0x20 => some 0x7 | 0x21 => some 0x3FF | 0x22 => some 0x7 | 0x23 => some 0x37
  | 0x28 => some 0 | 0x29 => some 0x3F | 0x30 => some 0 | 0x31 => some 0
  | 0x38 => some 0 | 0x39 => some 0xFFFF | 0x3A => some 0x3FF | 0x3B => some 0xF
  | 0x40 => some 0 | 0x41 => some 0xFF
  | 0x48 => some 0x7 | 0x49 => some 0x1 | 0x4A => some 0xFFFFFFFFFFFF007F | 0x4B => some 0
  | 0x50 => some 0x3FFFF | 0x51 => some 0x3FFFF | 0x52 => some 0x3F | 0x53 => some 0x3F
  | 0x54 => some 0x3F | 0x55 => some 0x3F
  | 0x58 => some 0x1FF01FF00077F03 | 0x59 => some 0x3
  | 0x60 => some 0x1 | 0x70 => some 0xFFFF7FFFFF1F
  | _ => none

/-- PARAM fields within range. -/
def Desc.fieldsOk (d : Desc) : Bool :=
  let chan := d.within 0 7 0 0x67
  match d.opcode.toNat with
  | 0x03 => d.within 0 4 0 13
  | 0x12 => chan && d.within 8 4 6 12
  | 0x13 => chan && d.within 8 4 6 12
  | 0x14 => chan && d.within 28 7 0 0x67 && d.within 36 4 4 12
  | 0x15 => d.within 0 5 0 16
  | 0x29 => d.within 0 6 0 47
  | 0x3A => d.within 8 2 0 2
  | 0x41 => d.within 0 8 1 3
  | 0x50 => d.pf 0 3 = 0
  | 0x51 => d.pf 0 3 = 0
  | 0x58 => d.within 0 2 2 3 && d.within 32 9 0 256 && d.within 48 9 0 256
  | 0x59 => d.within 0 2 2 3
  | 0x70 => d.within 0 4 1 15 && (d.pf 4 1 = 0 || (d.within 8 4 4 12 && d.within 12 4 4 12 && d.within 20 4 1 15 &&
      d.within 24 5 1 31 && d.within 32 8 1 255))
  | _ => true

/-- What LEN must be. -/
def Desc.lenOk (d : Desc) : Bool :=
  let n := d.len.toNat
  let nv := decide (8 ≤ n) && decide (n ≤ 4096) && n % 8 = 0
  match d.opcode.toNat with
  | 0x10 => n = 588 | 0x20 => n = 128 | 0x22 => n = 256 | 0x28 => n = 480
  | 0x30 => n = 148 | 0x31 => n = 336 | 0x38 => n = 548 | 0x40 => n = 456 | 0x4B => n = 564
  | 0x50 => nv | 0x51 => nv | 0x52 => n = 240 | 0x53 => decide (n ≤ 240)
  | 0x58 => n = d.pf 32 9
  | 0x60 => decide (32 ≤ n) && decide (n ≤ 16384)
  | _ => n = 0

/-- DATA: 8-byte aligned; 0 where the opcode has no buffer, and not 0 where one is needed; for RING_SET
START the base of the ring. -/
def Desc.dataOk (d : Desc) : Bool :=
  let a := d.data.toNat
  match d.opcode.toNat with
  | 0x70 => if d.pf 4 1 = 1 then a % 4096 = 0 && a ≠ 0 else a % 8 = 0
  | 0x53 => a % 8 = 0 && (d.len = 0 || a ≠ 0)
  | 0x58 => a % 8 = 0 && (d.len = 0 || a ≠ 0)
  | _ => if d.len = 0 then a = 0 else a % 8 = 0 && a ≠ 0

/-- EXT: 0 beyond what the opcode names. -/
def Desc.extOk (d : Desc) : Bool :=
  let rest := fun (n : Nat) => (d.ext.drop n).all (· == 0)
  let a := natAt d.ext 0 8
  match d.opcode.toNat with
  | 0x48 => rest 16
  | 0x58 => rest 8 && a % 8 = 0
  | 0x70 => rest 8 && (d.pf 4 1 = 0 || a % 4096 = 0)
  | _ => rest 0

/-- The checks of R364 that come before the opcode's own rules, in order. -/
def entryCheck (u : Sq) (d : Desc) : Option Nat :=
  match paramMask d.opcode.toNat with
  | none => some codeUnknown
  | some m =>
    firstBad [
      (!d.clean || decide (0xFFFD ≤ d.tag.toNat) || (d.param &&& ~~~m) != 0 || !d.fieldsOk || !d.dataOk ||
        !d.lenOk || !d.extOk, codeRange),
      (u.hist.contains d.tag, codeTag)]

/-- A descriptor from the 64 bytes of its entry (R362). -/
def parseDesc (bs : List Byte) : Desc :=
  { opcode := BitVec.ofNat 8 (natAt bs 0 1), flags := BitVec.ofNat 8 (natAt bs 1 1)
    tag := BitVec.ofNat 16 (natAt bs 2 2), param := BitVec.ofNat 64 (natAt bs 8 8)
    data := BitVec.ofNat 64 (natAt bs 16 8), len := BitVec.ofNat 32 (natAt bs 24 4)
    ext := bytesAt bs 32 32
    clean := natAt bs 1 1 < 2 && natAt bs 4 4 = 0 && natAt bs 28 4 = 0 }

/-! ## Entering execution (R371, R373) -/

/-- Every descriptor that a fenced one waits for has completed (R373). -/
def fencePassed (s : State) (q : Ring) (f : Fetched) : Bool :=
  (fins 16).all fun k => k == q || decide (f.seen[k] ≤ s.hif.sq[k].doneN)

/-- A data buffer is read for the descriptor when it enters execution (R365). -/
def Desc.readsBuffer (d : Desc) : Bool := d.len != 0 && d.opcode != 0x50 && d.opcode != 0x52

/-- The next descriptor of a ring may enter execution; one with a data buffer needs the request for it (R351,
R365). -/
def mayEnter (s : State) (q : Ring) : Bool :=
  let u := s.hif.sq[q]
  !s.hif.recovering && u.state != .disabled && !u.stopping && u.exec.isNone && !u.posting && !cqFull s.hif.cq[u.cq] &&
    match u.fetched with
    | [] => false
    | f :: _ => (canIssue s || !f.desc.readsBuffer) && (!hasBit f.desc.flags 0 || fencePassed s q f)

/-- The first descriptor fetched of a ring enters execution and is checked. -/
def enter (q : Ring) (s : State) : State :=
  match s.hif.sq[q].fetched with
  | [] => s
  | f :: fs =>
    let bad := entryCheck s.hif.sq[q] f.desc
    let x : Exec := { desc := f.desc, ord := s.hif.nextOrd, decided := false, acted := false }
    let s := s.upSq q fun u => { u with fetched := fs, exec := some x, credit := u.credit - 1 }
    let s := s.upHif fun h => { h with nextOrd := h.nextOrd + 1 }
    match bad with
    | some c => complete q c 0 s
    | none => s

/-- The ring whose turn it is: SQ0 first, the others by weighted round robin. -/
def nextRing (s : State) : Option Ring :=
  if mayEnter s 0 then some 0
  else (fins 16).find? fun q => q != 0 && mayEnter s q && decide (0 < s.hif.sq[q].credit)

/-- A new round of the weighted round robin. -/
def refill (s : State) : State :=
  s.upHif fun h => { h with sq := h.sq.map fun u => { u with credit := u.weight.toNat } }

/-- Descriptors enter execution until no ring has one that may. -/
def enterTurns : Nat → State → State
  | 0, s => s
  | n + 1, s =>
    match nextRing s with
    | some q => enterTurns n (enter q s)
    | none => match nextRing (refill s) with
      | some q => enterTurns n (enter q (refill s))
      | none => s

/-- A fence waits at the front of a ring (R373). -/
def fenceWaits (s : State) (u : Sq) (q : Ring) : Bool :=
  u.exec.isNone && match u.fetched with
    | f :: _ => hasBit f.desc.flags 0 && !fencePassed s q f
    | [] => false

/-- Descriptors enter execution, and FENCEW shows what waits. -/
def enterRings (s : State) : State :=
  let s := if ringsOn s then enterTurns 64 s else s
  s.upHif fun h =>
    { h with sq := Vector.ofFn fun q => { h.sq[q] with fenceWait := fenceWaits s h.sq[q] q } }

/-! ## Stopping and starting rings (R370) -/

/-- A completion without an execution, for an entry that was only fetched. -/
def flushOne (q : Ring) (f : Fetched) (s : State) : State :=
  let c : Completion :=
    { result := 0, tag := f.desc.tag, status := BitVec.ofNat 16 codeFlushed, sq := q, ofDesc := true,
      dataAt := none, data := [] }
  (s.upCq s.hif.sq[q].cq fun k => { k with held := k.held ++ [c] }).upSq q fun u =>
    { u with posting := true, doneN := u.doneN + 1, hist := pushTag u.hist f.desc.tag }

/-- Every fetched entry of a ring that is not in execution completes with 0x0108. -/
def flushFetched (q : Ring) (s : State) : State :=
  let fs := s.hif.sq[q].fetched
  (s.upSq q fun u => { u with fetched := [], fenceWait := false }).each fs (flushOne q)

/-- The RING_SET that waits for ring r to read DISABLED. -/
def stopWaits (s : State) (r : Ring) : Bool :=
  match s.hif.sq[(0 : Ring)].exec with
  | some e => e.decided && e.desc.opcode == 0x70 && e.desc.pf 0 4 == r.val
  | none => false

/-- A stopping ring whose last completion has been posted reads DISABLED. -/
def finishStop (r : Ring) (s : State) : State :=
  let u := s.hif.sq[r]
  if u.stopping && u.exec.isNone && !u.posting then
    let s := s.upSq r fun u =>
      { u with state := .disabled, en := false, stopping := false, head := 0, tail := 0, shown := []
               fetchedN := u.submitted, doneN := u.submitted, fenceWait := false
               cq := (u.next.map (·.1)).getD u.cq, size := (u.next.map (·.2)).getD u.size, next := none }
    if stopWaits s r then complete 0 0 0 s else s
  else s

/-- A ring stops. -/
def stopRing (r : Ring) (s : State) : State :=
  if s.hif.sq[r].state == .disabled then s
  else
    let s := s.upSq r fun u => { u with stopping := true, en := false }
    -- the flushed entries follow the descriptor in execution
    if s.hif.sq[r].exec.isSome then s else finishStop r (flushFetched r s)

/-- A submission ring is enabled: its head and tail and its tag history start anew. -/
def enableSq (r : Ring) (s : State) : State :=
  s.upSq r fun u =>
    { u with en := true, state := .run, stopping := false, head := 0, tail := 0, fetchedN := u.submitted
             doneN := u.submitted, shown := [], fetched := [], hist := [], posting := false
             fenceWait := false, credit := u.weight.toNat }

/-- A completion ring is enabled. -/
def enableCq (c : Ring) (s : State) : State :=
  s.upCq c fun k => { k with en := true, state := .run, head := 0, tail := 0, p := true, sinceMsg := 0 }

/-- RING_SET STOP in execution on ring q (R370). -/
def execRingSetStop (q : Ring) (s : State) : Res :=
  .next <| match (ready s q 0x70).filter fun d => d.pf 4 1 = 0 with
  | none => s
  | some d =>
    let r : Ring := Fin.ofNat 16 (d.pf 0 4)
    if q ≠ 0 then complete q codeState 0 s
    else if s.hif.sq[r].state == .disabled then complete q 0 0 s
    else stopRing r (act_ q s)

/-- The completion ring's fields of a RING_SET. -/
def cqFields (d : Desc) (k : Cq) : Cq :=
  { k with base := BitVec.ofNat 64 (natAt d.ext 0 8), size := BitVec.ofNat 4 (d.pf 12 4)
           vec := BitVec.ofNat 5 (d.pf 24 5), ien := d.pf 29 1 = 1, intn := d.pf 30 1 = 1
           agg := BitVec.ofNat 8 (d.pf 32 8), agt := BitVec.ofNat 8 (d.pf 40 8) }

/-- RING_SET START in execution on ring q (R370). -/
def execRingSetStart (q : Ring) (s : State) : Res :=
  .next <| match (ready s q 0x70).filter fun d => d.pf 4 1 = 1 with
  | none => s
  | some d =>
    let r : Ring := Fin.ofNat 16 (d.pf 0 4)
    let c : Ring := Fin.ofNat 16 (d.pf 16 4)
    let used := c == 0 || (fins 16).any fun k => k != r && s.hif.sq[k].state != .disabled && s.hif.sq[k].cq == c
    if q ≠ 0 then complete q codeState 0 s
    else if s.hif.sq[r].state != .disabled then complete q codeState 0 s
    else if used && !(s.hif.cq[c].state != .disabled && cqFields d s.hif.cq[c] == s.hif.cq[c]) then
      complete q codeInconsistent 0 s
    else
      let s := if used then s else enableCq c (s.upCq c (cqFields d))
      let s := enableSq r (s.upSq r fun u =>
        { u with base := d.data, size := BitVec.ofNat 4 (d.pf 8 4), cq := c,
                 weight := BitVec.ofNat 4 (d.pf 20 4) })
      complete q 0 0 s

/-- NOP (R366). -/
def execNop (q : Ring) (s : State) : Res :=
  .next <| match ready s q 0x00 with
  | none => s
  | some _ => complete q 0 0 s

/-! ## Doorbells and fetching (R353, R356 to R358) -/

/-- A read of the doorbell page is asked for. -/
def askDoorbell (s : State) : State :=
  if !anySq s || !canIssue s || !ringsOn s then s
  else if s.hif.dbInFlight then s.upHif fun h => { h with dbAgain := true }
  else (s.upHif fun h => { h with dbInFlight := true }).emit .doorbellRead

/-- The host address of the shadow word of a submission ring and of a completion ring (R359). -/
def sqShadowAddr (s : State) (q : Ring) : BitVec 64 := s.hif.shAddr + BitVec.ofNat 64 (4 * q.val)
def cqShadowAddr (s : State) (c : Ring) : BitVec 64 := s.hif.shAddr + BitVec.ofNat 64 (64 + 4 * c.val)

/-- The shadow word of a submission ring is written (R359). -/
def shadowSq (q : Ring) (s : State) : State :=
  let u := s.hif.sq[q]
  s.emit (.hostWrite (sqShadowAddr s q) (leBytes 4 (u.head.toNat + u.lastTag.toNat * 65536)))

/-- The shadow word of a completion ring is written (R359). -/
def shadowCq (c : Ring) (s : State) : State :=
  let k := s.hif.cq[c]
  s.emit (.hostWrite (cqShadowAddr s c) (leBytes 4 (k.tail.toNat + bit k.p * 4096)))

/-- The shadow words of a submission ring and a completion ring are written (R359). -/
def writeShadow (q c : Ring) (s : State) : State := shadowCq c (shadowSq q s)

/-- A read of the doorbell page returns: one is in flight for a kick, or POLL µs have passed since the last
(R357). -/
def doorbellDue (s : State) : Bool :=
  s.hif.dbInFlight || decide (s.hif.pollAt + 256 * s.hif.poll.toNat ≤ s.clk.slot)

/-- The doorbell read in flight has ended; a kick that came meanwhile starts one further (R353). -/
def doorbellEnds (s : State) : State :=
  let s := s.upHif fun h => { h with pollAt := s.clk.slot }
  if s.hif.dbAgain && canIssue s then
    (s.upHif fun h => { h with dbInFlight := true, dbAgain := false }).emit .doorbellRead
  else s.upHif fun h => { h with dbInFlight := false, dbAgain := false }

/-- An index of a doorbell word in range (R358). -/
def doorbellIdx (w : Word) (size : BitVec 4) : Option (BitVec 12) :=
  if w.toNat < ringSize size then some (BitVec.ofNat 12 w.toNat) else none

/-- Event 0x6B (R358, R381). -/
def raiseRing (q : Ring) (elem : Nat) (w : Word) (s : State) : State :=
  raiseLimited 0x6B elem q.val (srcId 0x0 0x1 q.val elem (bitsOf w 0 12)) 0 noAccess s

/-- The tails of the submission rings from a page. -/
def takeTail (page : List Word) (q : Ring) (s : State) : State :=
  let u := s.hif.sq[q]
  let w := page.getD q.val 0
  if u.state == .disabled || u.stopping then s
  else match doorbellIdx w u.size with
    | none => raiseRing q 0 w s
    | some t => s.upSq q fun u =>
        { u with tail := t
                 submitted := u.submitted + (t.toNat + ringSize u.size - u.tail.toNat) % ringSize u.size }

/-- The heads of the completion rings from a page. -/
def takeHead (page : List Word) (c : Ring) (s : State) : State :=
  let k := s.hif.cq[c]
  let w := page.getD (16 + c.val) 0
  if k.state == .disabled then s
  else match doorbellIdx w k.size with
    | none => raiseRing c 1 w s
    | some t => s.upCq c fun k => { k with head := t }

/-- Each ring that shows new entries notes what the read showed of all rings (R373). -/
def noteShown (s : State) : State :=
  let all : Vector Nat 16 := Vector.ofFn fun q => s.hif.sq[q].submitted
  s.upHif fun h => { h with sq := h.sq.map fun u =>
    if u.fetchedN < u.submitted && !(u.shown.any fun e => e.upTo == u.submitted) then
      { u with shown := u.shown ++ [{ upTo := u.submitted, all := all }] }
    else u }

/-- KICK_WRITE (R353): a write to BAR2; the reserved words ignore it. -/
def execKickWrite (off : Nat) (_v : Word) (s : State) : Res :=
  .next (if off < 0x800 then askDoorbell s else s)

/-- The entries of a ring that may be fetched now: up to 4 ahead (R371). -/
def fetchRoom (s : State) (q : Ring) : Nat :=
  let u := s.hif.sq[q]
  if u.state != .run || u.stopping || !canIssue s || !ringsOn s then 0
  else min (4 - u.fetched.length) (u.submitted - u.fetchedN)

/-- One entry is fetched. -/
def fetchOne (q : Ring) (bs : List Byte) (s : State) : State :=
  s.upSq q fun u =>
    let all := match u.shown.find? fun e => decide (u.fetchedN < e.upTo) with
      | some e => e.all
      | none => Vector.replicate 16 0
    { u with fetched := u.fetched ++ [{ desc := parseDesc bs, seen := all }], fetchedN := u.fetchedN + 1
             shown := u.shown.filter fun e => decide (u.fetchedN + 1 < e.upTo) }

/-! ## Completions (R359 to R361, R363) -/

/-- A completion message of a ring, or event 0x6D where it cannot be sent (R361, R381). -/
def completionMessage (c : Ring) (s : State) : State :=
  let v : Fin 32 := Fin.ofNat 32 s.hif.cq[c].vec.toNat
  let r := sendMsix v (s.upCq c fun k => { k with sinceMsg := 0 })
  if r.2 then r.1 else raiseUnsent [v] r.1

/-- What an entry posted does for the ring's interrupt (R361). -/
def countPosted (c : Ring) (s : State) : State :=
  let k := s.hif.cq[c]
  if !k.ien || k.intn then s
  else
    let s := s.upCq c fun k =>
      { k with sinceMsg := k.sinceMsg + 1, firstAt := if k.sinceMsg = 0 then s.clk.slot else k.firstAt }
    if k.agg.toNat ≤ k.sinceMsg + 1 then completionMessage c s else s

/-- The 16 bytes of a completion (R363). -/
def completionBytes (x : Completion) (head : BitVec 12) (p : Bool) : List Byte :=
  leBytes 8 x.result.toNat ++ leBytes 2 x.tag.toNat ++ leBytes 2 x.status.toNat ++
    leBytes 2 head.toNat ++ leBytes 1 x.sq.val ++ leBytes 1 (bit p)

/-- A completion is posted, behind the host data of its descriptor (R365). -/
def postOne (c : Ring) (x : Completion) (rest : List Completion) (s : State) : State :=
  let q := x.sq
  let s := s.upSq q fun u =>
    if x.ofDesc && !(u.state == .disabled) then
      { u with head := nextIdx u.size u.head, lastTag := x.tag
               posting := rest.any fun y => y.sq == q && y.ofDesc }
    else u
  let k := s.hif.cq[c]
  let s := match x.dataAt with
    | some a => if x.data.isEmpty then s else s.emit (.hostWrite a x.data)
    | none => s
  let s := s.emit (.hostWrite (entryAddr k.base 16 k.tail.toNat)
    (completionBytes x s.hif.sq[q].head k.p))
  let t := nextIdx k.size k.tail
  let s := s.upCq c fun k =>
    { k with held := rest, tail := t, p := if t = 0 then !k.p else k.p }
  countPosted c (writeShadow q c s)

/-- A stopping ring flushes what it had fetched once its descriptor in execution is done. -/
def afterPost (q : Ring) (s : State) : State :=
  let u := s.hif.sq[q]
  if u.stopping && u.exec.isNone then
    if u.fetched.isEmpty then finishStop q s else flushFetched q s
  else s

/-- The ring engine can post to a completion ring. -/
def mayPost (s : State) (c : Ring) : Bool :=
  s.hif.cq[c].state == .run && !cqFull s.hif.cq[c] && canIssue s && ringsOn s

/-- Completions that wait are posted while their ring takes them. -/
def postHeld (c : Ring) (s : State) : State :=
  s.each s.hif.cq[c].held fun x s =>
    if mayPost s c then postOne c x (s.hif.cq[c].held.drop 1) s else s

/-- The shadow words of every enabled ring are written, where the link allows (R376). -/
def shadowAll (s : State) : State :=
  if !canIssue s then s
  else
    let s := s.each ((fins 16).filter fun q => s.hif.sq[q].state != .disabled) shadowSq
    s.each ((fins 16).filter fun c => s.hif.cq[c].state != .disabled) shadowCq

/-- Steps 3 to 8 of R376, once no descriptor is in execution: what had been fetched completes with 0x0108 behind
it, completions are posted in ring order where they can be, the shadow words are written, and the rings resume with
the completions still held and a read of the doorbell page. -/
def recoverRings (s : State) : State :=
  let s := (s.each (fins 16) flushFetched).each (fins 16) postHeld
  let s := (shadowAll s).upHif fun h =>
    { h with
      recovering := false
      sq := h.sq.map fun u => { u with state := if u.state = .disabled then .disabled else .run }
      cq := h.cq.map fun k => { k with state := if k.state = .disabled then .disabled else .run
                                       sinceMsg := 0 } }
  let s := (s.each (fins 16) postHeld).each (fins 16) finishStop
  raise 0x6C (srcId 0x0 0x1 0 0 s.hif.lcause.toNat) 0 (askDoorbell s)

/-- A host-interface block reset in progress ends once every descriptor in execution has ended (R376). -/
def ringsResume (s : State) : State :=
  if s.hif.recovering && ringsOn s && (fins 16).all fun q => s.hif.sq[q].exec.isNone then recoverRings s else s

/-- DOORBELL_POLL (R357): a read of the doorbell page returns. -/
def execDoorbellPoll (page : List Word) (s : State) : Res :=
  .next <|
    let s := ringsResume s
    if !anySq s || !canIssue s || !ringsOn s || s.hif.recovering || !doorbellDue s then s
    else
      let s := s.each (fins 16) (takeTail page)
      let s := s.each (fins 16) (takeHead page)
      enterRings (noteShown (doorbellEnds s))

/-- DESCRIPTOR_FETCH (R371): the next entries of ring q arrive from host memory. -/
def execDescriptorFetch (q : Ring) (entries : List (List Byte)) (s : State) : Res :=
  .next <|
    let s := ringsResume s
    enterRings (s.each (entries.take (fetchRoom s q)) (fetchOne q))

/-- COMPLETION_POST (R360). -/
def execCompletionPost (c : Ring) (s : State) : Res :=
  let s := ringsResume s
  .next <| match s.hif.cq[c].held with
  | [] => s
  | x :: rest => if mayPost s c then enterRings (afterPost x.sq (postOne c x rest s)) else s

/-- CQ_COALESCING_TIMEOUT (R361): AGT µs have passed since the first entry after the last message. -/
def execCqCoalescingTimeout (c : Ring) (s : State) : Res :=
  .next <|
    let k := s.hif.cq[c]
    if k.state == .run && k.ien && !k.intn && k.agt != 0 && k.sinceMsg != 0 && ringsOn s &&
        decide (k.firstAt + 256 * k.agt.toNat ≤ s.clk.slot) then
      completionMessage c s
    else s

/-- INTN by the completion rings (R354): a ring holds an entry that the host has not consumed. -/
def intnRings (s : State) : Bool := (fins 16).any fun c =>
  let k := s.hif.cq[c]
  k.state != .disabled && k.ien && k.intn && k.head != k.tail

/-! ## Host-memory failures (R374) -/

/-- Event 0x6A. -/
def raiseHostMem (unit elem type : Nat) (addr : BitVec 64) (s : State) : State :=
  raiseAccess 0x6A (srcId 0x0 0x1 unit elem 0) codeHostMem
    { master := 0xB, type := BitVec.ofNat 4 type, aspace := 1, addr := addr } s

/-- A descriptor fetch has failed. -/
def fetchFails (q : Ring) (s : State) : State :=
  let u := s.hif.sq[q]
  if u.state != .run || u.submitted = u.fetchedN then s
  else
    let a := entryAddr u.base 64 (fetchIdx u)
    let c : Completion :=
      { result := a, tag := 0xFFFF, status := BitVec.ofNat 16 codeHostMem, sq := q, ofDesc := false,
        dataAt := none, data := [] }
    let s := raiseHostMem q.val 0 3 a s
    (s.upCq u.cq fun k => { k with held := k.held ++ [c] }).upSq q fun u => { u with state := .stopped }

/-- The read of a descriptor's data buffer has failed. -/
def dataReadFails (q : Ring) (s : State) : State :=
  match s.hif.sq[q].exec with
  | some e =>
    if e.decided || e.desc.len = 0 || e.desc.opcode == 0x50 || e.desc.opcode == 0x52 then s
    else complete q codeHostMem 0 (raiseHostMem q.val 1 1 e.desc.data s)
  | none => s

/-- The write of a descriptor's host data has failed: its completion, not yet posted, carries it. -/
def dataWriteFails (q : Ring) (s : State) : State :=
  let c := s.hif.sq[q].cq
  match s.hif.cq[c].held.find? fun x => x.sq == q && x.dataAt.isSome with
  | none => s
  | some x =>
    let s := raiseHostMem q.val 2 2 (x.dataAt.getD 0) s
    s.upCq c fun k =>
      { k with held := k.held.map fun y =>
          if y == x then
            { y with status := BitVec.ofNat 16 codeHostMem, result := 0, dataAt := none, data := [] }
          else y }

/-- HOST_MEMORY_ACCESS_FAILED (R374). -/
def execHostMemoryAccessFailed (a : HostAccess) (s : State) : Res :=
  .next <|
    if !canIssue s || !ringsOn s then s
    else match a with
      | .fetch q => fetchFails q s
      | .dataRead q => dataReadFails q s
      | .dataWrite q => dataWriteFails q s
      | .completion c =>
        let k := s.hif.cq[c]
        if !mayPost s c || k.held.isEmpty then s
        else (raiseHostMem c.val 3 4 (entryAddr k.base 16 k.tail.toNat) s).upCq c fun k =>
          { k with state := .stopped }
      | .doorbell =>
        if !anySq s || s.hif.recovering || !doorbellDue s then s else doorbellEnds (raiseHostMem 0 1 1 s.hif.dbAddr s)
      | .shadow q =>
        raiseHostMem q.val 4 2 (sqShadowAddr s q) s
      | .cqShadow c => raiseHostMem c.val 4 2 (cqShadowAddr s c) s

/-! ## Messages, the configuration space and the link (R350, R351, R354, R378) -/

/-- Messages that wait leave once their vectors are open. -/
def sendPending (s : State) : State :=
  s.each ((fins 32).filter fun v => hasBit s.hif.pba v.val) fun v s =>
    if vecOpen s v && canIssue s then
      (s.upHif fun h => { h with pba := putBit h.pba v.val false }).emit (.msix v)
    else s

/-- The link's partner sets the link's speed; the loss of a link that was up raises event 0x68 (R381). -/
def setLink (speed : BitVec 2) (s : State) : State :=
  let lost := s.hif.up && speed == 0
  let s := s.upHif fun h => { h with speed := speed, up := speed != 0 }
  if lost then raise 0x68 (srcId 0x0 0x0 0 0 1) 0 s else s

/-- PCIE_CONFIGURATION_WRITE (R350, R351, R354). A descriptor that waited for requests to be possible enters
execution. -/
def execPcieConfigurationWrite (w : CfgWrite) (s : State) : Res :=
  .next <|
    if !domOn s pdHif then s
    else enterRings <| sendPending <| match w with
      | .busMaster on => s.upHif fun h => { h with bme := on }
      | .msixEnable on => s.upHif fun h => { h with msixEn := on }
      | .functionMask on => s.upHif fun h => { h with funcMask := on }
      | .powerState d3 => s.upHif fun h => { h with d3 := d3 }
      | .link speed => setLink speed s

/-- MSIX_TABLE_WRITE (R352, R354). -/
def execMsixTableWrite (vec : Fin 32) (dword : Fin 4) (v : Word) (s : State) : Res :=
  .next <|
    if !domOn s pdHif then s
    else sendPending (s.upHif fun h =>
      { h with msixTable := vmod h.msixTable vec fun e => vput e dword v })

/-- The first uncorrectable error since the configuration was reset is noted in the first-error pointer and the header
log; the command does not tell their contents (R350; log 6). -/
def logAer (s : State) : State :=
  if s.hif.aer.isSome then s
  else
    let p := takeFree s
    let a := takeFree p.2
    let b := takeFree a.2
    let c := takeFree b.2
    let d := takeFree c.2
    d.2.upHif fun h => { h with aer := some (p.1.setWidth 5, #v[a.1, b.1, c.1, d.1]) }

/-- PCIE_UNCORRECTABLE_ERROR (R350, R381). -/
def execPcieUncorrectableError (s : State) : Res :=
  .next (if ringsOn s then raise 0x68 (srcId 0x0 0x0 0 0 2) 0 (logAer s) else s)

/-! ## The host-interface block reset (R375 to R378) -/

/-- The code of a reset's cause (R381). -/
def hifCode : HifCause → Nat
  | .faultReaction => 1 | .flr => 2 | .hotReset => 3 | .linkDown => 3 | .perstn => 4

/-- What the reset does to the PCIe configuration (R378). -/
def resetConfig (cause : HifCause) (h : Hif) : Hif :=
  let down := fun (h : Hif) => { h with up := false, speed := 0 }
  let conf := fun (h : Hif) =>
    { h with bme := false, d3 := false, msixEn := false, funcMask := false, pba := 0
             msixTable := Hif.reset.msixTable, aer := none }
  match cause with
  | .faultReaction => h
  | .flr => conf h
  | .hotReset => conf (down h)
  | .linkDown => conf (down h)
  | .perstn => conf (down h)

/-- The event of the link (R381): its loss is reported once. -/
def linkEvent (cause : HifCause) (wasUp : Bool) (s : State) : State :=
  match cause with
  | .linkDown => if wasUp then raise 0x68 (srcId 0x0 0x0 0 0 1) 0 s else s
  | .perstn => raise 0x68 (srcId 0x0 0x0 0 0 3) 0 s
  | _ => s

/-- The ring of a two-wire job. -/
def TwJob.ring : TwJob → Ring
  | .xfer q _ _ _ _ => q
  | .clear q => q

/-- A port without the jobs of a ring. -/
def TwPort.dropJobs (q : Ring) (p : TwPort) : TwPort :=
  let left := p.jobs.filter fun j => j.ring != q
  let state := match p.state with
    | .waitbus => if left.isEmpty then .idle else .waitbus
    | .controller => if (p.jobs.head?.any fun j => j.ring == q) then (if left.isEmpty then .idle else .waitbus) else .controller
    | k => k
  { p with jobs := left, state := state }

/-- What waits for a descriptor's turn at the NV store, at the start, and at the two-wire ports is dropped. -/
def dropWaiting (q : Ring) (s : State) : State :=
  let s := s.upNvm fun n => { n with queue := n.queue.filter fun r => r.ring != some q }
  let s := s.upPwr fun p => { p with startHeld := p.startHeld.filter (· != q) }
  s.upTw fun t => { t with ports := t.ports.map (TwPort.dropJobs q) }

/-- A descriptor in execution that has not acted is abandoned with what waits for it (R376). -/
def abandon (q : Ring) (s : State) : State :=
  match s.hif.sq[q].exec with
  | none => s
  | some e =>
    if e.acted then s
    else complete q codeFlushed 0 (dropWaiting q s)

/-- Steps 1 to 3 of R376, as far as they wait for nothing: every ring recovers, and no descriptor that has not
acted stays in execution. -/
def hifReset (s : State) : State :=
  let s := s.upHif fun h =>
    { h with
      recovering := true, dbInFlight := false, dbAgain := false, rcnt := h.rcnt + 1
      sq := h.sq.map fun u => { u with state := if u.state = .disabled then .disabled else .recover } }
  s.each (fins 16) abandon

/-- HIF_BLOCK_RESET (R375, R376). Descriptors that have passed their point of no return run on, and the reset
waits for them; one that arrives meanwhile merges into it. -/
def execHifBlockReset (cause : HifCause) (s : State) : Res :=
  .next <|
    if !ringsOn s || (cause = .faultReaction && !resetAsked (0, 0, 0) s) then s
    else
      let s := linkEvent cause s.hif.up ((takeReset (0, 0, 0) s).upHif fun h =>
        { resetConfig cause h with lcause := BitVec.ofNat 4 (hifCode cause) })
      ringsResume (if s.hif.recovering then s else hifReset s)

/-! ## Ring registers (R385, R386) -/

/-- The low and the high word of a 64-bit value. -/
def setLow (x : BitVec 64) (w : Word) : BitVec 64 := (x >>> 32).setWidth 32 ++ w
def setHigh (x : BitVec 64) (w : Word) : BitVec 64 := w ++ x.setWidth 32

/-- A field of SQCFG or of CQCFG lies out of range (R379, R385). -/
def sqCfgBad (v : Word) : Bool := outside 4 12 (bitsOf v 0 4) || bitsOf v 8 4 = 0
def cqCfgBad (v : Word) : Bool := outside 4 12 (bitsOf v 0 4) || bitsOf v 4 5 = 0 || bitsOf v 12 8 = 0

/-- The fields of CQCFG but EN. -/
def putCqCfg (v : Word) (k : Cq) : Cq :=
  { k with agt := BitVec.ofNat 8 (bitsOf v 20 8), agg := BitVec.ofNat 8 (bitsOf v 12 8)
           intn := hasBit v 10, ien := hasBit v 9, vec := BitVec.ofNat 5 (bitsOf v 4 5)
           size := BitVec.ofNat 4 (bitsOf v 0 4) }

/-- A write of SQCFG. One that clears EN of an enabled ring stops it, and its CQ and SIZE are the ring's once it reads
DISABLED (R5, R386). -/
def writeSqCfg (m : Master) (off : Nat) (q : Ring) (v : Word) (s : State) : State :=
  let en := hasBit v 12
  let u := s.hif.sq[q]
  if u.state != .disabled then
    if en then rejectWrite m off codeState s
    else if sqCfgBad v then rejectWrite m off codeRange s
    else stopRing q (s.upSq q fun u =>
      { u with weight := BitVec.ofNat 4 (bitsOf v 8 4)
               next := some (Fin.ofNat 16 (bitsOf v 4 4), BitVec.ofNat 4 (bitsOf v 0 4)) })
  else
    let c : Ring := Fin.ofNat 16 (bitsOf v 4 4)
    if en && s.hif.cq[c].state == .disabled then rejectWrite m off codeInconsistent s
    else if sqCfgBad v then rejectWrite m off codeRange s
    else
      let s := s.upSq q fun u =>
        { u with weight := BitVec.ofNat 4 (bitsOf v 8 4), cq := c, size := BitVec.ofNat 4 (bitsOf v 0 4) }
      if en then enableSq q s else s

/-- A write of CQCFG. -/
def writeCqCfg (m : Master) (off : Nat) (c : Ring) (v : Word) (s : State) : State :=
  let en := hasBit v 11
  let k := s.hif.cq[c]
  if k.state != .disabled then
    if en || (fins 16).any fun q => s.hif.sq[q].state != .disabled && s.hif.sq[q].cq == c then
      rejectWrite m off codeState s
    else if cqCfgBad v then rejectWrite m off codeRange s
    else s.upCq c fun k => { putCqCfg v k with en := false, state := .disabled }
  else if cqCfgBad v then rejectWrite m off codeRange s
  else
    let s := s.upCq c (putCqCfg v)
    if en then enableCq c s else s

/-- A write of a page address: its low word must keep bits [7:0] at 0, and no submission ring may be
enabled. -/
def writePage64 (m : Master) (off : Nat) (align : Word) (busy high : Bool) (v : Word)
    (put : State → State) (s : State) : State :=
  if busy then rejectWrite m off codeState s
  else if !high && (v &&& align) != 0 then rejectWrite m off codeRange s
  else put s

/-- The register of the RING block at an offset takes a write (R386); the status words are read-only. -/
def putRing (m : Master) (off : Nat) (v : Word) (s : State) : State :=
  let half := fun (x : BitVec 64) => if off % 8 = 0 then setLow x v else setHigh x v
  let high := decide (off % 8 = 4)
  if off = 0xE000 then
    if outside 1 64 (bitsOf v 0 7) then rejectWrite m off codeRange s
    else s.upHif fun h => { h with poll := BitVec.ofNat 7 (bitsOf v 0 7) }
  else if off = 0xE008 ∨ off = 0xE00C then
    writePage64 m off 0xFF (anySq s) high v (fun s => s.upHif fun h => { h with dbAddr := half h.dbAddr }) s
  else if off = 0xE010 ∨ off = 0xE014 then
    writePage64 m off 0xFF (anySq s) high v (fun s => s.upHif fun h => { h with shAddr := half h.shAddr }) s
  else if 0xE100 ≤ off ∧ off < 0xE200 then
    let q : Ring := Fin.ofNat 16 ((off - 0xE100) / 16)
    match off % 16 with
    | 8 => writeSqCfg m off q v s
    | 12 => s
    | _ => writePage64 m off 0xFFF (s.hif.sq[q].state != .disabled) high v
        (fun s => s.upSq q fun u => { u with base := half u.base }) s
  else
    let c : Ring := Fin.ofNat 16 ((off - 0xE200) / 16)
    match off % 16 with
    | 8 => writeCqCfg m off c v s
    | 12 => s
    | _ => writePage64 m off 0xFFF (s.hif.cq[c].state != .disabled) high v
        (fun s => s.upCq c fun k => { k with base := half k.base }) s

/-- An offset of the RING block that R384 lists. -/
def isRingOff (off : Nat) : Bool :=
  off % 4 = 0 && (off = 0xE000 || (decide (0xE008 ≤ off) && decide (off < 0xE018)) ||
    (decide (0xE100 ≤ off) && decide (off < 0xE300)))

/-- The reserved bits of a RING register (R4). -/
def ringReserved (off : Nat) : Word :=
  if off = 0xE000 then 0xFFFFFF80
  else if off < 0xE100 then 0
  else match off % 16 with
    | 8 => if off < 0xE200 then 0xFFFFE000 else 0xF0000000
    | 12 => if off < 0xE200 then 0x3C000000 else 0x3C000000
    | _ => 0

/-- A write of a RING register. -/
def writeRing (m : Master) (off : Nat) (v : Word) (s : State) : State :=
  if isRingOff off then regWrite m off true v (ringReserved off) (putRing m off v) s
  else regWrite m off true v 0 (rejectWrite m off codeRange) s

/-- RING_REGISTER_WRITE (R386). -/
def execRingRegisterWrite (m : Master) (off : Nat) (v : Word) (s : State) : Res :=
  .next (if 0xE000 ≤ off ∧ off < 0xF000 then enterRings (writeRing m off v s) else s)

end Sys2Proof.Machine
end

