-- ==== Sys2Proof/Machine/TwPorts.lean ====
section
/-!
DEFINITION. The two-wire ports (14): what a port does when its set-up changes, when a job of its ends,
when its bus is stuck, and the bus clear of R468.
-/

namespace Sys2Proof.Machine

/-! ## A port and its set-up in force -/

/-- EN, AUTOCLR, TOEN and RSTEN of the set-up that the port has taken (R477, R478). -/
def TwPort.en (t : TwPort) : Bool := hasBit t.cfg 0
def TwPort.autoclr (t : TwPort) : Bool := hasBit t.cfg 27
def TwPort.toen (t : TwPort) : Bool := hasBit t.cfg 1
def TwPort.rsten (t : TwPort) : Bool := hasBit t.cfg 31

/-- RSTX of the set-up that the port has taken (R477). -/
def TwPort.rstx (t : TwPort) : Nat := bitsOf t.cfg 28 3

/-- XENk as its ball stands: the sequencer's enable or, for an index with XMODE 1, the reset output of a port, high
but for the pulses of R470 (R251, R471). -/
def xenBall (s : State) (k : Fin 8) : Bool :=
  let i : SeqIdx := Fin.ofNat 16 (8 + k.val)
  domOn s pdSeq && if s.cfg.xmode i.val then
      !(fins 4).any fun p => s.tw.ports[p].pulse && s.tw.ports[p].rstx = k.val
    else s.seq.rails[i].xen

/-- The port is within a transaction of its own, or within its reset. -/
def TwPort.inside (t : TwPort) : Bool :=
  t.state == .controller || t.state == .target || t.state == .clear || t.state == .reset

/-- Event 0x74 + n with its cause (R475). `high` is CELL[7:4]. -/
def raiseTw (p : Port) (cause elem high code : Nat) (s : State) : State :=
  raiseLimited (0x74 + p.val) cause p.val (srcId 0x9 0x0 p.val elem (16 * high + cause)) code noAccess s

/-! ## Jobs (R456, R468) -/

def TwJob.isClear : TwJob → Bool
  | .xfer _ _ _ _ _ => false
  | .clear _ => true

/-- A two-wire job ends with a code. -/
def endTwJob (code : Nat) (s : State) (j : TwJob) : State := complete j.ring code 0 s

/-- The jobs of a port that p names end with a code. -/
def endTwJobs (n : Port) (code : Nat) (p : TwJob → Bool) (s : State) : State :=
  let s1 := (s.tw.ports[n].jobs.filter p).foldl (endTwJob code) s
  s1.upTwPort n fun t => { t with jobs := t.jobs.filter fun j => !p j, retries := 0, jobLoss := 0xF }

/-- The state in which a port rests: disabled, quarantined, waiting for its bus, or idle. -/
def TwPort.rest (t : TwPort) : TwState :=
  if !t.en then .off
  else if t.quar then .quarantine
  else if t.jobs.isEmpty then .idle
  else .waitbus

def twRest (p : Port) (s : State) : State := s.upTwPort p fun t => { t with state := t.rest }

/-- A port takes its committed set-up at its first moment outside a transaction (R478). A port that it
disables ends what waits. -/
def followTw (p : Port) (s : State) : State :=
  if !domOn s pdTw || s.tw.ports[p].inside then s
  else
    let s := s.upTwPort p fun t =>
      { t with cfg := s.cfg.get (0x9010 + 4 * p.val)
               taddr := if p.val = 2 then 0 else BitVec.ofNat 7 (effAddr s.cfg s.tw.adsel p.val) }
    let s := if s.tw.ports[p].en then s
      else (endTwJobs p codeState (fun _ => true) s).upTwPort p fun t => { t with busy := false }
    twRest p s

/-- The copy in PD_AO of TW0's address and enable (R478), and every port, follow the set-up. -/
def followTwAll (s : State) : State :=
  let g := s.cfg
  let s := s.upTw fun t =>
    { t with aoAddr := BitVec.ofNat 7 (effAddr g t.adsel 0), aoEn := g.twEn 0 }
  s.each (fins 4) followTw

/-- The first job of a port has ended: the next one's turn comes. -/
def nextTwJob (p : Port) (s : State) : State :=
  let s := s.upTwPort p fun t => { t with jobs := t.jobs.tail, retries := 0, jobLoss := 0xF }
  followTw p (twRest p s)

/-- The first job of a port fails: its event, its code in LERR and its completion (R458, R475). -/
def failTwJob (p : Port) (code : Nat) (s : State) : State :=
  let s := s.upTwPort p fun t => { t with lerr := BitVec.ofNat 16 code }
  match s.tw.ports[p].jobs with
  | [] => s
  | j :: _ => nextTwJob p (endTwJob code s j)

/-! ## A stuck bus (R467 to R469) -/

/-- The place of a failure is recorded (R458, R462). -/
def noteTwPlace (p : Port) (phase : BitVec 2) (byte : BitVec 9) (s : State) : State :=
  s.upTwPort p fun t => { t with lphase := phase, lbyte := byte }

/-- The phase with which a transfer begins: the read address where it writes nothing and reads (R456). -/
def firstPhase (send rlen : Nat) : BitVec 2 := if send = 0 ∧ rlen ≠ 0 then 2 else 0

/-- A transfer that stands first fails before its attempt has begun (R458). -/
def noteUnbegun (p : Port) (s : State) : State :=
  match s.tw.ports[p].jobs with
  | .xfer _ _ _ send rlen :: _ => noteTwPlace p (firstPhase send.length rlen) 0 s
  | _ => s

/-- A controller port is quarantined: event with cause 4, and every transfer ends with 0x010B. -/
def quarantine (p : Port) (s : State) : State :=
  let s := (noteUnbegun p s).upTwPort p fun t =>
    { t with quar := true, lerr := BitVec.ofNat 16 codeStuck, state := .quarantine }
  endTwJobs p codeStuck (fun j => !j.isClear) (raiseTw p 4 5 0 codeStuck s)

/-- The steps of a bus clear have run (R468): it has succeeded, and ends a quarantine, or the port is
quarantined. -/
def busCleared (p : Port) (c : BusClear) (s : State) : State :=
  let s := ((s.emit (.twClocks p c.clocks.val)).emit (.twStop p)).upTwPort p fun t => { t with clr := incSat t.clr }
  if c.sdaHigh then
    if s.tw.ports[p].quar then raiseTw p 5 5 0 0 (s.upTwPort p fun t => { t with quar := false }) else s
  else quarantine p s

/-- Step 4 of the block reset (R470): the lines are tested, and the bus clear runs whatever AUTOCLR
holds. -/
def testLines (p : Port) (sclLow : Bool) (c : BusClear) (s : State) : State :=
  followTw p (twRest p (if sclLow then quarantine p s else busCleared p c s))

end Sys2Proof.Machine
end

