-- ==== Sys2Proof/Machine/Domains.lean ====
section
/-!
DEFINITION. The power domains that the host switches (R31 to R33, R369) and what a domain loses with its
supply.
-/

namespace Sys2Proof.Machine

/-! ## Use (R32) -/

/-- A set-up uses a domain that the host may switch. -/
def setupUses (g : Setup) (d : Nat) : Bool :=
  if d = pdEngB then anyRail fun r => g.engEn r && decide (2 ≤ g.pair r)
  else if d = pdPrn then (List.range 4).any g.portEn
  else if d = pdTw then (List.range 4).any g.twEn
  else if d = pdGau then g.pfen || decide (g.ns ≠ 0) || decide (g.pfgrp ≠ 0)
  else false

/-- The committed set-up uses a domain: the live one, or the one with the sets accepted so far. -/
def domInUse (s : State) (d : Nat) : Bool := setupUses s.cfg d || setupUses s.accSetup d

/-- A domain that DOMAIN may name. -/
def hostDomain (d : Nat) : Bool := d = pdEngB || d = pdPrn || d = pdTw || d = pdGau

/-! ## What is lost (R33) -/

/-- The state of the Pourn ports. -/
def losePrn (s : State) : State :=
  let s := s.each (fins 4) disablePort
  let s := s.upPrn fun p => { p with ports := Vector.replicate 4 PrnPort.reset }
  forgetSeq (fun a => a == .prn) s

/-- The state of the two-wire ports; the jobs in progress and those that wait are flushed. -/
def loseTw (s : State) : State :=
  let jobs := (fins 4).flatMap fun p => s.tw.ports[p].jobs
  let s := jobs.foldl (endTwJob codeFlushed) s
  let s := s.upTw fun t => { t with ports := Tw.reset.ports }
  forgetSeq (fun a => a == .tw) s

/-- The state of the ledger and the gauge (R292, R310). -/
def loseGau (s : State) : State :=
  let s := disqualify 0 s
  let s := (s.upLdg fun _ => Ldg.reset).upGau fun u => { Gau.reset with newPack := u.newPack }
  forgetSeq (fun a => a == .ldg) s

/-- What a lane pair holds of a rail is lost with it (R91): all but the banks, tables and selections of the
mirror, where the checkpoint store still stands, its checkpoints (R125), and the place of the rail's regulation
and of a move of it. -/
def EngRail.lost (mirror : Bool) (k : EngRail) : EngRail :=
  let e := { EngRail.reset with mode := k.mode, enabled := k.enabled, enabledAt := k.enabledAt, assign := k.assign
                                ckA := k.ckA, ckB := k.ckB, ckNext := k.ckNext }
  if mirror then
    { e with bank := k.bank, bankA := k.bankA, bankB := k.bankB, table := k.table, ripple0 := k.ripple0
             ripple1 := k.ripple1, dead0 := k.dead0, dead1 := k.dead1 }
  else e

/-- The balance trims of a phase are its lane pair's (R91). -/
def Phasor.noTrim (p : Phasor) : Phasor := { p with trim := 0, trimI := 0, sinking := false, cur := none }

/-- The state of the two lane pairs of a domain (R33, R91). A FAILED pair stays FAILED (R128). -/
def losePairs (ps : List PairNo) (s : State) : State :=
  let mirror := domOn s pdEngA
  s.each ps fun p s =>
    let s := blockPair p s
    let s := s.upPair p fun k => { Pair.reset with failed := k.failed }
    let mine := fun (r : Rail) => pairOf s r == p
    let s := s.each ((fins 8).filter mine) fun r => State.upEngRail r (EngRail.lost mirror)
    s.each ((fins 48).filter fun h => mine (railOf s.cfg h)) fun h => State.upPhase h Phasor.noTrim

/-- What a domain holds, when the host switches it off. -/
def loseDomain (d : Nat) (s : State) : State :=
  if d = pdEngB then losePairs [2, 3] s
  else if d = pdPrn then losePrn s
  else if d = pdTw then loseTw s
  else if d = pdGau then loseGau s
  else s

/-! ## Switching (R32) -/

/-- A domain comes on with its state as after a start. -/
def raiseDomain (d : Nat) (s : State) : State :=
  let s := s.upPwr fun p => { p with on := putBit p.on d true }
  if d = pdPrn then followPorts s
  else if d = pdTw then followTwAll s
  else if d = pdGau then gaugeBoot (s.nvm.report []) s
  else s

/-- A domain goes off. -/
def dropDomain (d : Nat) (s : State) : State :=
  (loseDomain d s).upPwr fun p => { p with on := putBit p.on d false, lost := putBit p.lost d false }

/-- The code with which a request is refused (R32, R369). -/
def domainCheck (s : State) (d : Nat) (on : Bool) : Option Nat :=
  if 14 ≤ d then some codeRange
  else if !hostDomain d then some codeState
  else if !on && hasBit s.pwr.on d && domInUse s d then some codeState
  else none

/-- The switch of a domain that may be switched. -/
def switchDomain (d : Nat) (on : Bool) (s : State) : State :=
  if hasBit s.pwr.on d == on then s
  else if on then raiseDomain d s else dropDomain d s

/-- DOMAIN (R32, R369). -/
def execDomain (q : Ring) (s : State) : Res :=
  .next <| match ready s q 0x03 with
  | none => s
  | some d =>
    let dom := d.pf 0 4
    let on := d.pf 8 1 = 1
    match domainCheck s dom on with
    | some c => complete q c 0 s
    | none => complete q 0 0 (switchDomain dom on s)

/-- A write of PWR_DCMD, which acts as DOMAIN (R390). -/
def writeDcmd (m : Master) (v : Word) (s : State) : State :=
  regWrite m 0x1008 true v 0xFFFFFEF0 (fun s =>
    let dom := bitsOf v 0 4
    let on := hasBit v 8
    match domainCheck s dom on with
    | some c => rejectWrite m 0x1008 c s
    | none => switchDomain dom on s) s

/-- PWR_DCMD (R32). -/
def execPwrDcmd (m : Master) (v : Word) (s : State) : Res := .next (writeDcmd m v s)

end Sys2Proof.Machine
end

