-- ==== Sys2Proof/Machine/RegRead.lean ====
section
/-!
DEFINITION. What the registers of BAR0 show: a view of the state for each register that is not shadowed
(R86 to R90, R134, R167, R205, R228, R247, R276, R318, R348, R383, R385, R390, R445, R477), and the read
of a register with its holding register (R70, R392).
-/

namespace Sys2Proof.Machine

/-! ## Helpers -/

/-- n·stride + base names an entry below count: its number. -/
def entryOf (off base stride count : Nat) : Option Nat :=
  if base ≤ off ∧ (off - base) % stride = 0 ∧ (off - base) / stride < count then
    some ((off - base) / stride)
  else none

/-- A word of bits. -/
def flagsWord (fs : List Bool) : Word :=
  BitVec.ofNat 32 (fs.zipIdx.foldl (fun a e => if e.1 then a + 2 ^ e.2 else a) 0)

/-- A signed or exact figure in a word. -/
def intWord (x : Int) : Word := toBits 32 x

/-- The low word and the high word of a 64-bit register. -/
def lowOf (x : BitVec 64) : Word := x.extractLsb' 0 32
def highOf (x : BitVec 64) : Word := x.extractLsb' 32 32

/-! ## HIF, CLK/PWR, FAB and TMR (R383, R390) -/

def viewHif (s : State) (off : Nat) : Word :=
  match off with
  | 0x0000 => 0x48085A43
  | 0x0004 => flagsWord [s.regs.lock]
  | 0x0008 => packWord [(16, 16, s.regs.errOff.toNat), (0, 16, s.regs.errCode.toNat)]
  | 0x000C => packWord [(16, 4, s.regs.errMaster.toNat), (0, 16, s.regs.errCount.toNat)]
  | 0x0010 => packWord [(10, 1, bit s.hif.bme), (9, 1, bit s.hif.d3), (8, 1, bit s.hif.up),
      (0, 2, s.hif.speed.toNat)]
  | 0x0014 => packWord [(16, 4, s.hif.lcause.toNat), (0, 16, s.hif.rcnt.toNat)]
  | _ => 0

def viewClk (s : State) (off : Nat) : Word :=
  match off with
  | 0x1000 => packWord [(16, 16, s.clk.lossc.toNat), (3, 1, bit s.clk.xrefOk), (2, 1, bit s.clk.lock),
      (0, 2, s.clk.refsel.toNat)]
  | 0x1004 => s.pwr.on.setWidth 32
  | _ => 0

def viewFab (s : State) (m : Master) (off : Nat) : Word :=
  match off with
  | 0x2000 => flagsWord [s.regs.rdsel[masterIdx m]]
  | 0x2004 => BitVec.ofNat 32 (min 255 (heldMarkers s))
  | 0x2008 => s.fab.seqErr
  | _ => 0

def viewTmr (s : State) (off : Nat) : Word :=
  match off with
  | 0xD010 => packWord [(16, 16, s.tmr.setCnt.toNat), (0, 1, bit s.tmr.setPend.isSome)]
  | _ => 0

/-! ## ADC (R86 to R90) -/

/-- The codes of R39. -/
def sliceCode : SliceState → Nat
  | .service => 0 | .steep => 1 | .pitching => 2 | .failed => 3 | .off => 4

/-- A slice converges (R49). -/
def converged (a : Slice) : Bool := 4 ≤ a.good.val

def slotmapByte (s : State) (p : Pos) : Nat :=
  s.adc.slotmap[p].val + 32 * bit (hasBit s.adc.mask p.val)

def viewAdc (s : State) (off : Nat) : Word :=
  match off with
  | 0x3008 =>
    packWord [(24, 5, countBits s.adc.mask), (20, 4, (((fins 16).find? fun p => hasBit s.adc.mask p.val).map (·.val)).getD 0),
      (19, 1, bit (s.adc.mask != 0)), (18, 1, bit (s.adc.slices.toList.any fun a => a.state == .steep)),
      (17, 1, bit s.cfg.lpm), (0, 16, s.adc.ltag.toNat)]
  | 0x300C => BitVec.ofNat 32 (laneLoadUp s.cfg % 512)
  | 0x3010 => s.adc.injDrop
  | 0x3014 => s.adc.llSkip
  | 0x306C => packWord [(4, 16, s.adc.inj.runs.toNat), (1, 3, s.adc.inj.src.toNat),
      (0, 1, bit s.adc.inj.run)]
  | 0x3800 => packWord [(16, 16, s.adc.pt.meanB.toNat), (0, 16, s.adc.pt.meanA.toNat)]
  | 0x3804 => packWord [(16, 16, s.adc.pt.nmeanB.toNat), (0, 16, s.adc.pt.nmeanA.toNat)]
  | 0x3808 => packWord [(8, 6, s.adc.pt.verdict.toNat), (7, 1, bit s.adc.pt.inject),
      (0, 7, s.adc.pt.chan.toNat)]
  | _ =>
    match entryOf off 0x3040 4 4 with
    | some m => packWord ((List.range 4).map fun k => (8 * k, 8, slotmapByte s (Fin.ofNat 16 (4 * m + k))))
    | none => match entryOf off 0x3050 4 3 with
    | some m => packWord (((List.range 8).filter fun k => 8 * m + k < 17).map fun k =>
        (4 * k, 4, sliceCode s.adc.slices[Fin.ofNat 17 (8 * m + k)].state))
    | none => match entryOf off 0x3600 4 34 with
    | some k =>
      let a := s.adc.slices[Fin.ofNat 17 (k / 2)]
      if k % 2 = 0 then packWord [(16, 16, a.gain.toNat), (0, 16, a.ofs.toNat)]
      else packWord [(8, 8, a.age.toNat), (7, 1, bit (converged a)), (0, 7, a.skew.toNat)]
    | none => match entryOf off 0x3700 4 104 with
    | some c =>
      let k := s.adc.ccal[Fin.ofNat 104 c]
      packWord [(16, 16, k.cgain.toNat), (0, 16, k.cofs.toNat)]
    | none => 0

/-- A result register; one never written shows STALE and its entry's channel (R70). -/
def regResult (s : State) (n : Fin 32) : BitVec 64 :=
  if hasBit s.adc.regWritten n.val then s.adc.regRes[n]
  else packRecord 0 false true false false 0 (s.cfg.regChan n.val) 0

def injResult (s : State) (n : Fin 8) : BitVec 64 :=
  if hasBit s.adc.injWritten n.val then s.adc.injRes[n]
  else packRecord 0 false true false false 0 (s.cfg.injChan n.val) 0

/-! ## ENG (R134) -/

def modeCode : EngMode → Nat
  | .off => 0 | .digital => 1 | .heel => 2 | .track => 3

def boolBits (n : Nat) (p : Nat → Bool) : Nat :=
  (List.range n).foldl (fun a k => if p k then a + 2 ^ k else a) 0

def engStat (s : State) (r : Rail) : Word :=
  let e := s.eng.rails[r]
  packWord [(30, 2, modeCode e.mode), (29, 1, bit e.bank), (28, 1, bit (swPend s r)),
    (27, 1, bit (ltPend s r)), (26, 1, bit e.boost.isActive), (25, 1, bit (e.boost == .activeOff)),
    (24, 1, bit e.ovf), (23, 1, bit e.vbold), (22, 1, bit e.fcsusp),
    (20, 2, (pendingFcs s r).length), (0, 16, e.bcnt.toNat)]

/-- The last-table windows of rail ENG_WSEL.RAIL: the load copies or the live ones. -/
def tableWord (s : State) (live : Bool) (k : Nat) : Word :=
  let e := s.eng.rails[Fin.ofNat 8 s.eng.wsel.toNat]
  let one := e.table != !live
  let t := if k < 32 then (if one then e.ripple1 else e.ripple0)
    else (if one then e.dead1 else e.dead0)
  t[Fin.ofNat 32 k]

def viewEng (s : State) (off : Nat) : Word :=
  match off with
  | 0x4008 =>
    packWord [(28, 4, boolBits 4 fun p => s.eng.pairs[Fin.ofNat 4 p].recov),
      (24, 4, boolBits 4 fun p => s.eng.pairs[Fin.ofNat 4 p].failed),
      (20, 4, boolBits 4 fun p => domOn s (pairDom (Fin.ofNat 4 p))), (0, 16, s.eng.ltag.toNat)]
  | 0x400C => packWord ((List.range 4).map fun p => (8 * p, 8, pairPercent s.cfg p))
  | 0x4014 => s.eng.wsel.setWidth 32
  | 0x4018 => ((newestCkpt s.eng.rails[Fin.ofNat 8 s.eng.wsel.toNat]).map (·.seq)).getD 0
  | 0x401C => packWord ((List.range 4).map fun p => (8 * p, 8, s.eng.pairs[Fin.ofNat 4 p].mismatches.toNat))
  | _ =>
    match entryOf off 0x4040 4 8 with
    | some r => engStat s (Fin.ofNat 8 r)
    | none => match entryOf off 0x4060 4 8 with
    | some r =>
      let e := s.eng.rails[Fin.ofNat 8 r]
      packWord [(16, 16, e.fcAcc.toNat), (8, 8, e.fcMissc.toNat), (0, 8, e.fcClmp.toNat)]
    | none => match entryOf off 0x4400 4 512 with
    | some k =>
      let e := s.eng.rails[Fin.ofNat 8 (k % 256 / 32)]
      let b := if k < 256 then e.bankA else e.bankB
      -- reserved bits read as 0 (R4)
      b[Fin.ofNat 32 k] &&& ~~~bankReserved (k % 32)
    | none => match entryOf off 0x4C00 4 64 with
    | some k => tableWord s false k
    | none => match entryOf off 0x4D00 4 64 with
    | some k => tableWord s true k
    | none => 0

/-! ## PWM (R167, R228) -/

def phCode : PhState → Nat
  | .unused => 0 | .active => 1 | .idle => 2 | .steep => 3 | .racked => 4 | .pitching => 5

def opCode : OpMode → Nat
  | .off => 0 | .full => 1 | .shed => 2 | .light => 3

def fbCode : FbPath → Nat
  | .remote => 0 | .local_ => 1 | .comparator => 2 | .none => 3

/-- A carrier of the rail's active phases is walking (R150): it is to walk on, or the period that it lengthens or
shortens is still running. -/
def respacing (s : State) (r : Rail) : Bool :=
  (actives s r).any fun h =>
    s.pwm.phases[h].offset != s.pwm.phases[h].target || s.pwm.phases[h].carrLen != periodSteps s.cfg r.val

def pwmStat (s : State) (r : Rail) : Word :=
  let w := s.pwm.rails[r]
  packWord [(30, 2, opCode w.opmode), (24, 6, (actives s r).length), (21, 3, min 7 (freeSteep s r.val).length),
    (20, 1, bit (respacing s r)), (19, 1, bit w.admission.isSome)]

def heelStat (s : State) (r : Rail) : Word :=
  let f := s.fb[r]
  packWord [(30, 2, fbCode f.path), (29, 1, bit f.rlost), (28, 1, bit f.llost), (27, 1, bit f.blind),
    (26, 1, bit f.hact), (25, 1, bit (heelAvail s r)), (24, 1, bit f.adj), (20, 4, f.hcause.toNat),
    (16, 4, f.lcause.toNat), (0, 16, f.hent.toNat)]

/-- A phase's bit of PWM_RKMASK: it is RACKED, or PITCHING and not yet pitched (R162). -/
def racked (s : State) (h : Nat) : Bool := rackedBit s.pwm.phases[Fin.ofNat 48 h]

def viewPwm (s : State) (off : Nat) : Word :=
  match off with
  | 0x5008 => s.pwm.ltag.setWidth 32
  | 0x5010 => flagsWord ((List.range 32).map (racked s))
  | 0x5014 => flagsWord ((List.range 16).map fun k => racked s (32 + k))
  | _ =>
    match entryOf off 0x5200 4 48 with
    | some h =>
      let p := s.pwm.phases[Fin.ofNat 48 h]
      packWord [(28, 4, phCode p.state), (27, 1, bit p.ramp), (24, 3, p.rkcause.toNat),
        (18, 6, (p.subfor.map (·.val)).getD 63), (0, 16, p.zofs.toNat)]
    | none => match entryOf off 0x5400 8 8 with
    | some r => pwmStat s (Fin.ofNat 8 r)
    | none => match entryOf off 0x5404 8 8 with
    | some r => intWord s.pwm.rails[Fin.ofNat 8 r].iAvg
    | none => match entryOf off 0x5810 0x20 8 with
    | some r => heelStat s (Fin.ofNat 8 r)
    | none => match entryOf off 0x5814 0x20 8 with
    | some r => if s.fb[(Fin.ofNat 8 r : Rail)].hact then intWord (heelDuty s (Fin.ofNat 8 r)) else 0
    | none => 0

/-! ## PRN (R205) -/

def portCode : PortState → Nat
  | .disabled => 0 | .unsync => 1 | .live => 2 | .lost => 3

/-- Ticks left in the ramp; 16 bits hold no more than 65 535. -/
def ticksLeft (s : State) (r : Rail) : Nat :=
  let p := s.prn.rails[r]
  if p.seqown then
    min 65535 (ceilDiv ((p.tgt.toNat * 65536 : Nat) - (p.ref : Int)).natAbs (seqStep s.cfg r.val))
  else min 65535 (rampTicks p.tgt.toNat p.ref p.gcls.toNat)

def viewPrn (s : State) (off : Nat) : Word :=
  match off with
  | 0x8008 => s.prn.ltag.setWidth 32
  | _ =>
    match entryOf off 0x8020 4 4 with
    | some n =>
      let p := s.prn.ports[Fin.ofNat 4 n]
      packWord [(30, 2, portCode p.state), (24, 6, p.eseq.toNat), (16, 8, p.alert.toNat),
        (12, 4, p.pstate.toNat)]
    | none => match entryOf off 0x8030 4 4 with
    | some n =>
      let p := s.prn.ports[Fin.ofNat 4 n]
      packWord [(16, 16, p.frames.toNat), (8, 8, p.crcerr.toNat), (0, 8, p.stalls.toNat)]
    | none => match entryOf off 0x8040 4 4 with
    | some n => s.prn.ports[Fin.ofNat 4 n].cost.setWidth 32
    | none => match entryOf off 0x8200 8 8 with
    | some r =>
      let p := s.prn.rails[Fin.ofNat 8 r]
      packWord [(16, 16, p.ref / 65536), (0, 16, p.tgt.toNat)]
    | none => match entryOf off 0x8204 8 8 with
    | some r =>
      let p := s.prn.rails[Fin.ofNat 8 r]
      packWord [(20, 1, bit p.seqown), (19, 1, bit p.notify),
        (16, 3, if p.seqown then 0 else p.gcls.toNat), (0, 16, ticksLeft s (Fin.ofNat 8 r))]
    | none => 0

/-! ## CMP (R247) -/

/-- A word of the windows 32m to 32m + 31 as the comparators that drive their wires have them (R238, R239). -/
def shownWord (s : State) (m : Nat) (p : Win → Bool) : Word :=
  flagsWord ((List.range 32).map fun k =>
    decide (32 * m + k < 80) && p s.cmp.win[shownWindow s (Fin.ofNat 80 (32 * m + k))])

/-- A word of the windows 32m to 32m + 31. -/
def winWord (s : State) (m : Nat) (p : Win → Bool) : Word :=
  flagsWord ((List.range 32).map fun k => decide (32 * m + k < 80) && p s.cmp.win[Fin.ofNat 80 (32 * m + k)])

/-- A steep window is in use or has failed. -/
def steepUsed (s : State) (n : Fin 4) : Bool :=
  s.cmp.win[steepWin n].failed || s.cmp.steep[n] != .free || s.cmp.proof.any fun p => p.steep == n

/-- The byte of CMP_SUBST of a steep window. -/
def substByte (s : State) (n : Nat) : Nat :=
  match s.cmp.steep[Fin.ofNat 4 n] with
  | .standsIn w => 128 + w.val
  | _ => 0

def viewCmp (s : State) (off : Nat) : Word :=
  match off with
  | 0x6008 =>
    packWord [(31, 1, bit s.cmp.proof.isSome), (24, 7, (s.cmp.proof.map (·.win.val)).getD 0),
      (20, 4, boolBits 4 fun n => steepUsed s (Fin.ofNat 4 n)), (0, 16, s.cmp.ltag.toNat)]
  | 0x6040 => packWord ((List.range 4).map fun n => (8 * n, 8, substByte s n))
  | 0x640C => flagsWord ((fins 3).map (aoLive s))
  | _ =>
    match entryOf off 0x6010 4 3 with
    | some m => shownWord s m Win.live
    | none => match entryOf off 0x6020 4 3 with
    | some m => shownWord s m (·.latch)
    | none => match entryOf off 0x6030 4 3 with
    | some m => winWord s m (·.failed)
    | none => match entryOf off 0x6300 4 16 with
    | some k =>
      let w := s.cmp.win[Fin.ofNat 80 (48 + k)]
      packWord [(16, 10, w.hi.toNat), (0, 10, w.lo.toNat)]
    | none => 0

/-! ## SEQ (R276) -/

/-- The codes of R254. -/
def railCode : RailState → Nat
  | .off => 0 | .wait => 1 | .delay => 2 | .ramp => 3 | .pgwait => 4 | .on => 5 | .stop => 6
  | .discharge => 7 | .hold => 8 | .failed => 9 | .blocked => 10

/-- A group's state: FAILED, RETRY, then by its request and the states of its used rails. -/
def groupCode (s : State) (j : Group) : Nat :=
  let g := s.seq.groups[j]
  let rs := (usedRails s.cfg).filter fun i => groupOf s.cfg i == j
  if g.failed then 5
  else if g.retrying then 4
  else if g.req then (if rs.all fun i => railState s i == .on then 2 else 1)
  else if rs.all fun i => isDown (railState s i) then 0
  else 3

/-- A rail is requested on (R252). -/
def requested (s : State) (i : SeqIdx) : Bool :=
  s.cfg.use i.val && groupReq s i && !(railState s i == .failed || railState s i == .blocked)

def viewSeq (s : State) (off : Nat) : Word :=
  match off with
  | 0x7008 =>
    packWord [(19, 1, bit s.seq.core), (18, 1, bit s.seq.retqual), (17, 1, bit s.seq.pfs),
      (16, 1, bit s.seq.shutoff), (0, 16, s.seq.ltag.toNat)]
  | 0x700C => packWord [(8, 8, s.seq.pfmem.toNat), (0, 8, boolBits 8 fun j => s.seq.groups[Fin.ofNat 8 j].req)]
  | _ =>
    match entryOf off 0x7040 4 8 with
    | some j =>
      packWord [(28, 4, groupCode s (Fin.ofNat 8 j)), (25, 3, s.seq.groups[Fin.ofNat 8 j].retryc.val)]
    | none => match entryOf off 0x7300 4 16 with
    | some i =>
      let k := s.seq.rails[Fin.ofNat 16 i]
      packWord [(28, 4, railCode k.state), (27, 1, bit k.pgood), (24, 3, k.retryc.val),
        (22, 2, k.msel.toNat), (21, 1, bit (requested s (Fin.ofNat 16 i))), (16, 4, k.lcause.toNat)]
    | none => 0

/-! ## TW and NVM (R477, R445) -/

def twCode : TwState → Nat
  | .off => 0 | .idle => 1 | .controller => 2 | .target => 3 | .waitbus => 4 | .clear => 5
  | .quarantine => 6 | .reset => 7

def viewTw (s : State) (off : Nat) : Word :=
  match off with
  | 0x9008 =>
    packWord [(26, 2, s.tw.adsel.toNat), (20, 4, boolBits 4 fun n => s.tw.ports[Fin.ofNat 4 n].quar),
      (0, 16, s.tw.ltag.toNat)]
  | _ =>
    match entryOf off 0x9020 4 4 with
    | some n =>
      let p := s.tw.ports[Fin.ofNat 4 n]
      packWord [(29, 3, twCode p.state), (22, 7, p.taddr.toNat),
        (21, 1, bit p.busy), (17, 4, p.lbit.toNat), (0, 16, p.lerr.toNat)]
    | none => match entryOf off 0x9030 4 4 with
    | some n =>
      let p := s.tw.ports[Fin.ofNat 4 n]
      packWord [(24, 8, p.arbl.toNat), (16, 8, p.nack.toNat), (8, 8, p.tmo.toNat), (0, 8, p.clr.toNat)]
    | none => match entryOf off 0x9040 4 4 with
    | some n =>
      let p := s.tw.ports[Fin.ofNat 4 n]
      packWord [(25, 2, p.lphase.toNat), (16, 9, p.lbyte.toNat), (0, 16, p.ptr.toNat)]
    | none => 0

/-- A scrub batch is running. -/
def scrubbing (s : State) : Bool := s.nvm.queue.any fun r => match r.work with
  | .scrub _ => true
  | _ => false

def viewNvm (s : State) (off : Nat) : Word :=
  match off with
  | 0xA008 => packWord [(16, 1, bit (scrubbing s)), (0, 16, s.nvm.ltag.toNat)]
  | 0xA010 => packWord [(12, 20, s.nvm.scrPasses), (0, 12, s.nvm.scrNext.val)]
  | 0xA014 => packWord [(16, 16, s.nvm.corr.toNat), (8, 8, s.nvm.uncorr.toNat), (0, 8, s.nvm.weak.toNat)]
  | _ => 0

/-! ## LDG and GAU (R318) -/

def srcCode : Source → Nat
  | .input => 0 | .stored => 1 | .down => 2 | .spent => 3

/-- An exact figure as the register at an offset shows it. -/
def shownAt (off : Nat) (x : Rat) (n : Nat) : Nat := (shown off x % (2 ^ n : Nat)).toNat

def viewLdg (s : State) (off : Nat) : Word :=
  let l := s.ldg
  let u := s.gau
  match off with
  | 0xB008 =>
    packWord [(30, 2, srcCode l.src), (29, 1, bit (optref s)), (28, 1, bit l.stale),
      (27, 1, bit l.capArmed), (24, 3, l.trig.toNat), (0, 16, l.ltag.toNat)]
  | 0xB00C => l.ride
  | 0xB030 => BitVec.ofNat 32 (shownAt off l.pPlan 32)
  | 0xB034 => BitVec.ofInt 32 l.tSd.ceil
  | 0xB038 => packWord [(16, 16, shownAt off (holdC s) 16), (0, 16, l.nlrn.toNat)]
  | 0xB03C => l.nref.setWidth 32
  | 0xB180 => packWord [(16, 16, shownAt off (u.soce * 10000) 16), (0, 16, shownAt (off + 1) (u.socr * 10000) 16)]
  | 0xB184 => packWord [(16, 16, shownAt off (u.socv * 10000) 16), (0, 16, shownAt (off + 1) (u.socq * 10000) 16)]
  | 0xB188 =>
    packWord [(24, 8, shownAt off (min 255 u.u) 8), (8, 16, nrhrs s), (7, 1, bit u.fullseen),
      (6, 1, bit u.learn.isSome), (5, 1, bit u.disagree), (4, 1, bit u.norest), (3, 1, bit u.stale),
      (2, 1, bit u.tout)]
  | 0xB18C => BitVec.ofNat 32 (shownAt off (u.vpk / 1000) 32)
  | 0xB190 => BitVec.ofNat 32 (shownAt off u.ipk 32)
  | 0xB194 => BitVec.ofNat 32 (shownAt off u.tpk 16)
  | 0xB198 => BitVec.ofNat 32 (shownAt off u.r0 32)
  | 0xB19C => BitVec.ofNat 32 (shownAt off u.rp 32)
  | 0xB1A0 => BitVec.ofNat 32 (shownAt off u.tau 32)
  | 0xB1A4 => packWord [(16, 16, u.nql.toNat), (0, 16, shownAt off (packQ s) 16)]
  | _ => 0

/-! ## FLT (R348) -/

/-- Whole milliseconds left on the escalation timer. -/
def escLeft (s : State) : Nat :=
  match s.flt.escStart with
  | some t => (t + s.cfg.escwin * msSlots - s.clk.slot) / msSlots
  | none => 0

def viewFlt (s : State) (off : Nat) : Word :=
  match off with
  | 0xC008 =>
    packWord [(31, 1, bit s.flt.classA), (30, 1, bit s.flt.prevA), (29, 1, bit (escMode s)),
      (26, 3, s.flt.step.val), (25, 1, bit s.flt.recov), (24, 1, bit s.flt.starting),
      (22, 2, s.flt.rstc.toNat), (0, 16, s.flt.ltag.toNat)]
  | 0xC00C => BitVec.ofNat 32 (escLeft s)
  | 0xC014 => s.flt.logHead
  | 0xC018 => s.flt.drop
  | 0xC090 => (s.flt.first.map (·.src)).getD 0
  | 0xC094 => ((s.flt.first.map fun (c : Capture) => c.access.master).getD 0).setWidth 32
  | 0xC098 =>
    match s.flt.first with
    | some c => packWord [(31, 1, 1), (24, 7, c.event.toNat), (20, 4, c.access.type.toNat),
        (18, 2, c.access.aspace.toNat), (0, 16, c.code.toNat)]
    | none => 0
  | _ =>
    match entryOf off 0xC030 4 4 with
    | some m => s.flt.pend.extractLsb' (32 * m) 32
    | none => 0

/-! ## RING (R385) -/

def ringCode : RingState → Nat
  | .disabled => 0 | .run => 1 | .stopped => 2 | .recover => 3

def viewRing (s : State) (off : Nat) : Word :=
  if off = 0xE000 then s.hif.poll.setWidth 32
  else match entryOf off 0xE108 16 16, entryOf off 0xE10C 16 16, entryOf off 0xE208 16 16,
      entryOf off 0xE20C 16 16 with
  | some n, _, _, _ =>
    let u := s.hif.sq[Fin.ofNat 16 n]
    packWord [(12, 1, bit u.en), (8, 4, u.weight.toNat), (4, 4, ((u.next.map (·.1)).getD u.cq).val),
      (0, 4, ((u.next.map (·.2)).getD u.size).toNat)]
  | _, some n, _, _ =>
    let u := s.hif.sq[Fin.ofNat 16 n]
    packWord [(30, 2, ringCode u.state), (25, 1, bit u.exec.isSome), (24, 1, bit u.fenceWait),
      (12, 12, u.tail.toNat), (0, 12, u.head.toNat)]
  | _, _, some n, _ =>
    let k := s.hif.cq[Fin.ofNat 16 n]
    packWord [(20, 8, k.agt.toNat), (12, 8, k.agg.toNat), (11, 1, bit k.en),
      (10, 1, bit k.intn), (9, 1, bit k.ien), (4, 5, k.vec.toNat), (0, 4, k.size.toNat)]
  | _, _, _, some n =>
    let k := s.hif.cq[Fin.ofNat 16 n]
    packWord [(30, 2, ringCode k.state), (25, 1, bit (cqFull k)), (13, 12, k.head.toNat),
      (12, 1, bit k.p), (0, 12, k.tail.toNat)]
  | _, _, _, _ => 0

/-! ## 64-bit registers (R70) -/

/-- The value of the 64-bit register whose low word stands at an offset; none where there is no such
register. -/
def wideView (s : State) (off : Nat) : Option (BitVec 64) :=
  match off with
  | 0xA018 => some s.nvm.torn
  | 0xB040 => some (BitVec.ofInt 64 (shown off s.ldg.eIn))
  | 0xB048 => some (BitVec.ofInt 64 (shown off s.ldg.ePk))
  | 0xB050 => some (BitVec.ofInt 64 (shown off s.ldg.ePlan))
  | 0xB058 => some (BitVec.ofInt 64 (shown off s.ldg.eRes))
  | 0xB060 => some (BitVec.ofInt 64 (shown off (eWip s)))
  | 0xC080 => some ((s.flt.first.map fun (c : Capture) => c.access.addr).getD 0)
  | 0xC088 => some ((s.flt.first.map (·.time)).getD 0)
  | 0xD000 => some (timeNow s)
  | 0xD008 => some 0
  | 0xE008 => some s.hif.dbAddr
  | 0xE010 => some s.hif.shAddr
  | _ =>
    match entryOf off 0x3200 8 32 with
    | some n => some (regResult s (Fin.ofNat 32 n))
    | none => match entryOf off 0x3300 8 8 with
    | some n => some (injResult s (Fin.ofNat 8 n))
    | none => match entryOf off 0xE100 16 16 with
    | some n => some s.hif.sq[Fin.ofNat 16 n].base
    | none => match entryOf off 0xE200 16 16 with
    | some n => some s.hif.cq[Fin.ofNat 16 n].base
    | none => none

/-! ## Reads -/

/-- The word that a register of one word shows. -/
def viewWord (s : State) (m : Master) (off : Nat) : Word :=
  match off / 0x1000 with
  | 0x0 => viewHif s off
  | 0x1 => viewClk s off
  | 0x2 => viewFab s m off
  | 0x3 => viewAdc s off
  | 0x4 => viewEng s off
  | 0x5 => viewPwm s off
  | 0x6 => viewCmp s off
  | 0x7 => viewSeq s off
  | 0x8 => viewPrn s off
  | 0x9 => viewTw s off
  | 0xA => viewNvm s off
  | 0xB => viewLdg s off
  | 0xC => viewFlt s off
  | 0xD => viewTmr s off
  | 0xE => viewRing s off
  | _ => 0

/-- A block's GO bit stands at an offset. -/
def goAt (off : Nat) : Option Blk := allBlks.find? fun b => commitOff b = off

/-- The value of a BAR0 word for a master: a shadowed register's shadow or live value (R392), a GO bit, a
half of a 64-bit register, or a view. -/
def regValue (s : State) (m : Master) (off : Nat) : Word :=
  match spanAt off with
  | some _ => wordIn (if s.regs.rdsel[masterIdx m] then s.regs.live else s.regs.shadow) off
  | none => match goAt off with
  | some b => flagsWord [goOf s b]
  | none => match wideView s off with
  | some x => lowOf x
  | none => match (if 4 ≤ off then wideView s (off - 4) else none) with
  | some x => highOf x
  | none => viewWord s m off

/-- A read by a master (R70): a low-word read of a 64-bit register copies the high word; a high-word read
takes the copy of the same register and uses it up. -/
def readReg (m : Master) (off : Nat) (s : State) : State × Word :=
  let i := masterIdx m
  match wideView s off with
  | some x =>
    (s.upRegs fun g => { g with hold := vput g.hold i (some { off := off, copy := highOf x }) }, lowOf x)
  | none =>
    match s.regs.hold[i] with
    | some h =>
      if h.off + 4 = off then (s.upRegs fun g => { g with hold := vput g.hold i none }, h.copy)
      else (s, regValue s m off)
    | none => (s, regValue s m off)

/-! ## BAR2 and the configuration space (R350, R352) -/

/-- A word of BAR2: the MSI-X table and the Pending Bit Array; the kick region and the reserved words read 0
(R352). -/
def readBar2 (s : State) (off : Nat) : Word :=
  if 0x800 ≤ off ∧ off < 0xA00 then
    (s.hif.msixTable[(Fin.ofNat 32 ((off - 0x800) / 16))])[(Fin.ofNat 4 (off % 16 / 4))]
  else if off = 0xC00 then s.hif.pba else 0

/-- The Device Serial Number, from the factory region (R350, R419). -/
def deviceSerial (s : State) : BitVec 64 := BitVec.ofNat 64 (natAt (readBytes s.nvm.mem 0 8) 0 8)

/-- The first-error pointer and the header log of AER (R350). -/
def aerLog (s : State) : BitVec 5 × Vector Word 4 := s.hif.aer.getD (0, Vector.replicate 4 0)

/-- A word of the configuration space whose content R350 gives, at its place in the header of PCI Express, and the
places that the model gives the capabilities' words (log 70). -/
def readConfig (s : State) (off : Nat) : Option Word :=
  match off with
  | 0x00 => some (packWord [(16, 16, 0x4808), (0, 16, Config.vendorId.toNat)])
  | 0x08 => some 0x118000C1
  | 0x20 => some 0
  | 0x24 => some 0
  | 0x2C => some (packWord [(16, 16, s.regs.ssid.toNat), (0, 16, s.regs.ssvid.toNat)])
  | 0x30 => some 0
  | 0x104 => some (lowOf (deviceSerial s))
  | 0x108 => some (highOf (deviceSerial s))
  | 0x118 => some ((aerLog s).1.setWidth 32)
  | 0x11C => some (aerLog s).2[0]
  | 0x120 => some (aerLog s).2[1]
  | 0x124 => some (aerLog s).2[2]
  | 0x128 => some (aerLog s).2[3]
  | _ => none

/-- A read by the host of BAR2 or of the configuration space (log 70). What R350 says nothing of is a free value. -/
def readBeyond (off : Nat) (s : State) : State :=
  if off < 0x11000 then s.emit (.readData .host (readBar2 s (off - 0x10000)))
  else match readConfig s (off - 0x11000) with
    | some w => s.emit (.readData .host w)
    | none =>
      let f := takeFree s
      f.2.emit (.readData .host f.1)

/-- HOLDING_REGISTER_READ (R70, R352): a read of the word at an offset of BAR0; the host's offsets from 0x10000 on are
those of BAR2 and, from 0x11000 on, of the configuration space (log 70). -/
def execHoldingRegisterRead (m : Master) (off : Nat) (s : State) : Res :=
  .next <|
    if off % 4 ≠ 0 then s
    else if 0x10000 ≤ off then
      if m = .host ∧ off < 0x12000 ∧ domOn s pdHif then readBeyond off s else s
    else if !domOn s pdFab then s
    else
      let r := readReg m off s
      r.1.emit (.readData m r.2)

end Sys2Proof.Machine
end

