-- ==== Sys2Proof/Machine/Registers.lean ====
section
/-!
DEFINITION. Writes to the registers of BAR0 (R4, R5, R352, R379, R388, R392, R396, R397): which offsets
are listed, the write of any register, the set-up lock and the setting of the time.
-/

namespace Sys2Proof.Machine

/-! ## Read-only registers -/

/-- The reserved bits of a listed register that is neither shadowed nor written by a rule of its own; none
where the offset is not listed. A write to it changes nothing (R5). -/
def readOnly (off : Nat) : Option Word :=
  let spans : List (Nat × Nat × Nat × Word) :=
    [ -- HIF, CLK/PWR, FAB, TMR (R383, R390)
      (0x0000, 4, 1, 0), (0x0008, 4, 1, 0), (0x000C, 4, 1, 0xFFF00000), (0x0010, 4, 1, 0xFFFFF8FC),
      (0x0014, 4, 1, 0xFFF00000), (0x1000, 4, 1, 0xFFF0), (0x1004, 4, 1, 0xFFFFC000),
      (0x2004, 4, 1, 0xFFFFFF00), (0x2008, 4, 1, 0), (0xD000, 4, 2, 0), (0xD010, 4, 1, 0xFFFE),
      -- ADC (R18, R86 to R90)
      (0x3008, 4, 1, 0xE0010000), (0x300C, 4, 1, 0xFFFFFE00), (0x3010, 4, 2, 0),
      (0x3040, 4, 4, 0xC0C0C0C0), (0x3050, 4, 2, 0), (0x3058, 4, 1, 0xFFFFFFF0),
      (0x306C, 4, 1, 0xFFF00000), (0x3200, 8, 32, 0x800000), (0x3204, 8, 32, 0),
      (0x3300, 8, 8, 0x800000), (0x3304, 8, 8, 0), (0x3600, 8, 17, 0), (0x3604, 8, 17, 0xFFFF0000),
      (0x3800, 4, 2, 0), (0x3808, 4, 1, 0xFFFFC000), (0x3700, 4, 104, 0),
      -- ENG (R134)
      (0x4008, 4, 1, 0xF0000), (0x400C, 4, 1, 0), (0x4018, 4, 2, 0), (0x4040, 4, 8, 0xF0000),
      (0x4060, 4, 8, 0), (0x4D00, 4, 64, 0),
      -- PWM (R167, R228)
      (0x5008, 4, 1, 0xFFFF0000), (0x5010, 4, 1, 0), (0x5014, 4, 1, 0xFFFF0000),
      (0x5200, 4, 48, 0x30000), (0x5400, 8, 8, 0x7FFFF), (0x5404, 8, 8, 0), (0x5810, 0x20, 8, 0),
      (0x5814, 0x20, 8, 0), (0x5818, 0x20, 8, 0xFFFFFFFF), (0x581C, 0x20, 8, 0xFFFFFFFF),
      -- CMP (R247)
      (0x6008, 4, 1, 0xF0000), (0x6010, 4, 2, 0), (0x6018, 4, 1, 0xFFFF0000), (0x6030, 4, 2, 0),
      (0x6038, 4, 1, 0xFFFF0000), (0x6040, 4, 1, 0), (0x6300, 4, 16, 0xFC00FC00),
      (0x640C, 4, 1, 0xFFFFFFF8),
      -- SEQ (R276)
      (0x700C, 4, 1, 0xFFFF0000), (0x7040, 4, 8, 0x1FFFFFF), (0x7300, 4, 16, 0x10FFFF),
      -- PRN (R205)
      (0x8008, 4, 1, 0xFFFF0000), (0x8020, 4, 4, 0xFFF), (0x8030, 4, 4, 0), (0x8040, 4, 4, 0xFFFF0000),
      (0x8200, 8, 8, 0), (0x8204, 8, 8, 0xFFE00000),
      -- TW and NVM (R477, R445)
      (0x9008, 4, 1, 0xF30F0000), (0x9020, 4, 4, 0x10000), (0x9030, 4, 4, 0), (0x9040, 4, 4, 0xF8000000),
      (0xA008, 4, 1, 0xFFFE0000), (0xA010, 4, 3, 0), (0xA01C, 4, 1, 0x7FFFFFF0),
      -- LDG and GAU (R318)
      (0xB008, 4, 1, 0xFF0000), (0xB00C, 4, 1, 0), (0xB030, 4, 3, 0), (0xB03C, 4, 1, 0xFFFF0000),
      (0xB040, 4, 10, 0), (0xB180, 4, 2, 0), (0xB188, 4, 1, 3), (0xB18C, 4, 2, 0),
      (0xB194, 4, 1, 0xFFFF0000), (0xB198, 4, 4, 0),
      -- FLT (R348)
      (0xC008, 4, 1, 0x3F0000), (0xC00C, 4, 1, 0xFFFFFC00), (0xC014, 4, 2, 0), (0xC080, 4, 5, 0),
      (0xC094, 4, 1, 0xFFFFFFF0), (0xC098, 4, 1, 0x30000) ]
  (spans.find? fun p => (entryOf off p.1 p.2.1 p.2.2.1).isSome).map fun p => p.2.2.2

/-! ## Registers that act at once -/

/-- A shadowed register takes its writable bits into the shadow set, unless a commit of its block is on
its way (R392, R393). -/
def writeShadowed (b : Blk) (m : Master) (off : Nat) (v : Word) (s : State) : State :=
  regWrite m off true v (reservedBits off) (fun s =>
    if goOf s b then rejectWrite m off codeBusy s
    else s.upRegs fun g =>
      { g with shadow := setWord g.shadow off (writable off (wordIn g.shadow off) v) }) s

/-- FAB_RDSEL of the writing master. -/
def writeRdsel (m : Master) (v : Word) (s : State) : State :=
  regWrite m 0x2000 true v 0xFFFFFFFE (fun s =>
    s.upRegs fun g => { g with rdsel := vput g.rdsel (masterIdx m) (hasBit v 0) }) s

/-- ENG_WSEL (R134). -/
def writeWsel (m : Master) (v : Word) (s : State) : State :=
  regWrite m 0x4014 true v 0xFFFFFFF8 (fun s =>
    s.upEng fun e => { e with wsel := v.setWidth 3 }) s

/-! ## The set-up lock (R396, R383) -/

/-- LOCK becomes 1: the live set of every block is copied into its shadow set. -/
def setLock (s : State) : State :=
  if s.regs.lock then s else s.upRegs fun g => { g with lock := true, shadow := g.live }

/-- A write of HIF_SETUP_LOCK. -/
def writeLock (m : Master) (v : Word) (s : State) : State :=
  regWrite m 0x0004 false v 0xFFFFFFFE (fun s =>
    if hasBit v 0 then setLock s
    else if s.regs.lock then rejectWrite m 0x0004 codeProtected s
    else s) s

/-- HIF_SETUP_LOCK (R396). -/
def execHifSetupLock (m : Master) (v : Word) (s : State) : Res := .next (writeLock m v s)

/-! ## The time (R390, R391) -/

/-- A write of the low word of TMR_SET. -/
def writeTimeLow (m : Master) (v : Word) (s : State) : State :=
  regWrite m 0xD008 false v 0 (fun s =>
    s.upTmr fun t => { t with setLo := vput t.setLo (masterIdx m) v }) s

/-- A write of the high word of TMR_SET arms a set. -/
def writeTimeHigh (m : Master) (v : Word) (s : State) : State :=
  regWrite m 0xD00C false v 0x80000000 (fun s =>
    let t := v.toNat * 2 ^ 32 + (s.tmr.setLo[masterIdx m]).toNat
    if t % 64000 ≠ 0 then rejectWrite m 0xD00C codeRange s
    else s.upTmr fun k => { k with setPend := some (BitVec.ofNat 63 t) }) s

/-- TMR_SET (R391). -/
def execTmrSet (m : Master) (v : Word) (s : State) : Res := .next (writeTimeHigh m v s)

/-- TMR_SET_APPLY (R391): at a multiple of 64 000 ticks of the old count. -/
def execTmrSetApply (s : State) : Res :=
  .next <| match s.tmr.setPend with
  | none => s
  | some t =>
    if !domOn s pdFab || s.tmr.now.toNat % 64000 ≠ 0 then s
    else
      -- an update or a checkpoint of this boundary stands done under the new count, and none other does
      let done := fun (at_ : Option (BitVec 63)) => if at_ = some s.tmr.now then some t else none
      let s := s.upLdg fun l => { l with updAt := done l.updAt }
      let s := s.upEng fun e => { e with pairs := e.pairs.map fun p => { p with ckAt := done p.ckAt } }
      s.upTmr fun k => { k with now := t, coarse := false, setPend := none, setCnt := k.setCnt + 1 }

/-! ## Any register -/

/-- A write of a word to a listed or unlisted offset of BAR0. -/
def writeReg (m : Master) (off : Nat) (v : Word) (s : State) : State :=
  if 0xF000 ≤ off then regWrite m off true v 0 (rejectWrite m off codeProtected) s
  else if off / 0x1000 = 0xE then enterRings (writeRing m off v s)
  else match goAt off with
  | some b => writeCommit b m v s
  | none => match spanAt off with
  | some p => writeShadowed p.blk m off v s
  | none => match off with
  | 0x0004 => writeLock m v s
  | 0x1008 => writeDcmd m v s
  | 0x2000 => writeRdsel m v s
  | 0x4010 => writeSwap m v s
  | 0x4014 => writeWsel m v s
  | 0x6020 => writeLatch m 0 v s
  | 0x6024 => writeLatch m 1 v s
  | 0x6028 => writeLatch m 2 v s
  | 0x7008 => writeSeqStatus m v s
  | 0x7010 => writeGcmd m v s
  | 0x7014 => writeMcmd m v s
  | 0xC010 => writeFclr m v s
  | 0xC030 => writePend m 0 v s
  | 0xC034 => writePend m 1 v s
  | 0xC038 => writePend m 2 v s
  | 0xC03C => writePend m 3 v s
  | 0xD008 => writeTimeLow m v s
  | 0xD00C => writeTimeHigh m v s
  | _ =>
    if off % 4 = 0 && isBankOff off then writeBankWord m off v s
    else if off % 4 = 0 && isLtldOff off then writeLtld m off v s
    else match readOnly off with
    | some r => regWrite m off true v r id s
    | none => regWrite m off true v 0 (rejectWrite m off codeRange) s

/-- REGISTER_WRITE (R352, R379, R392): a write that is not a full aligned word is rejected. -/
def execRegisterWrite (m : Master) (off : Nat) (v : Word) (width : Width) (s : State) : Res :=
  .next <|
    if 0x10000 ≤ off then s
    else if width = .full && off % 4 = 0 then writeReg m off v s
    else regWrite m off (frozenAt off) v 0
      (rejectWrite m off (if 0xF000 ≤ off then codeProtected else codeRange)) s

end Sys2Proof.Machine
end

