-- ==== Sys2Proof/Machine/TwoWire.lean ====
section
/-!
DEFINITION. The commands of the two-wire ports (14): controller transfers, bus clears, register access
through a target port, the block reset of a port, and the match in sleep.
-/

namespace Sys2Proof.Machine

/-! ## Controller jobs (R456, R468, R469) -/

/-- A port can run a controller's job. -/
def twReady (s : State) (p : Port) : Bool := domOn s pdTw && s.tw.ports[p].state != .off

/-- A job joins the port's queue. -/
def addTwJob (p : Port) (j : TwJob) (s : State) : State :=
  (decide_ j.ring s).upTwPort p fun t =>
    { t with jobs := t.jobs ++ [j], state := if t.state = .idle then .waitbus else t.state }

/-- TW_XFER (R456, R458, R469). -/
def execTwXfer (q : Ring) (buf : List Byte) (s : State) : Res :=
  .next <| match ready s q 0x58 with
  | none => s
  | some d =>
    let p : Port := Fin.ofNat 4 (d.pf 0 2)
    if buf.length ≠ d.pf 32 9 then complete q codeRange 0 s
    else if !twReady s p then complete q codeState 0 s
    else if s.tw.ports[p].quar then
      complete q codeStuck 0 ((noteTwPlace p (firstPhase buf.length (d.pf 48 9)) 0 s).upTwPort p fun t =>
        { t with lerr := BitVec.ofNat 16 codeStuck })
    else addTwJob p (.xfer q (BitVec.ofNat 7 (d.pf 8 7)) (d.pf 16 3) buf (d.pf 48 9)) s

/-- TW_CLEAR (R468, R469). -/
def execTwClear (q : Ring) (s : State) : Res :=
  .next <| match ready s q 0x59 with
  | none => s
  | some d =>
    let p : Port := Fin.ofNat 4 (d.pf 0 2)
    if !twReady s p then complete q codeState 0 s else addTwJob p (.clear q) s

/-- TW_COMMIT (R393, R478). -/
def execTwCommit (m : Master) (v : Word) (s : State) : Res := .next (writeCommit .tw m v s)

/-- The first job of a port, a TW_CLEAR, runs (R468). -/
def runTwClear (p : Port) (q : Ring) (c : BusClear) (s : State) : State :=
  let s := busCleared p c (act_ q s)
  nextTwJob p (complete q (if c.sdaHigh then 0 else codeStuck) c.clocks.val s)

/-- The port waits for its bus: it has a job that has not begun its attempt, or a clear. -/
def twWaits (t : TwPort) : Bool := t.state == .waitbus || (t.state == .quarantine && !t.jobs.isEmpty)

/-- The first START of an attempt, with its address byte (R456). -/
def startAttempt (p : Port) (addr : BitVec 7) (send : List Byte) (rlen : Nat) (s : State) : State :=
  (s.emit (.twStart p addr (firstPhase send.length rlen == 2))).upTwPort p fun t =>
    { t with state := .controller, busy := true }

/-- What an attempt has sent after its first address byte, when it ends within a byte of a phase (R456, R462): the
data bytes up to that one, and the repeated START with the address byte of the read. -/
def sendAttempt (p : Port) (addr : BitVec 7) (send : List Byte) (rlen : Nat) (phase : BitVec 2) (byte : Nat)
    (s : State) : State :=
  let out := if phase = 0 then [] else if phase = 1 then send.take byte else send
  let s := if out.isEmpty then s else s.emit (.twBytes p out)
  if 2 ≤ phase.toNat ∧ firstPhase send.length rlen = 0 then s.emit (.twStart p addr true) else s

/-- The attempt of the first job of a port has sent what it has sent, and a STOP where it ends in one. -/
def endAttempt (p : Port) (phase : BitVec 2) (byte : Nat) (stop : Bool) (s : State) : State :=
  match s.tw.ports[p].jobs with
  | .xfer _ addr _ send rlen :: _ =>
    let s := sendAttempt p addr send rlen phase byte s
    if stop then s.emit (.twStop p) else s
  | _ => s

/-- TW_BUS_FREE (R457): the bus is free, and the attempt or the clear that waits begins. -/
def execTwBusFree (p : Port) (clear : BusClear) (s : State) : Res :=
  .next <|
    if !twReady s p || s.tw.ports[p].state == .controller then s
    else
      let s := s.upTwPort p fun t => { t with busy := false }
      let t := s.tw.ports[p]
      if !twWaits t then s
      else match t.jobs with
        | [] => s
        | .clear q :: _ => runTwClear p q clear s
        | .xfer q addr _ send rlen :: _ => if t.quar then s else startAttempt p addr send rlen (act_ q s)

/-- TW_BUS_STUCK (R467, R468): the bus has stayed stuck while the port waits. `sda` says that SDA is the
stuck line, with SCL high. -/
def execTwBusStuck (p : Port) (sda : Bool) (clear : BusClear) (s : State) : Res :=
  .next <|
    let t := s.tw.ports[p]
    if !twReady s p || !twWaits t then s
    else match t.jobs with
      | [] => s
      | .clear q :: _ => runTwClear p q clear s
      | .xfer _ _ _ _ _ :: _ =>
        if t.quar then s
        else if sda && t.autoclr then followTw p (twRest p (busCleared p clear s))
        else followTw p (twRest p (quarantine p s))

/-! ## The end of an attempt (R458, R459) -/

/-- A further attempt waits for the bus. -/
def retryTw (p : Port) (s : State) : State :=
  followTw p (s.upTwPort p fun t => { t with retries := t.retries + 1, state := .waitbus })

/-- RESULT of a transfer that has succeeded (R459). -/
def twResult (wlen rlen : Nat) (t : TwPort) : Nat :=
  wlen + rlen * 2 ^ 16 + t.jobLoss.toNat * 2 ^ 32 + t.retries * 2 ^ 36

/-- TW_ARBITRATION_LOST (R461 to R464). -/
def execTwArbitrationLost (p : Port) (bit : BitVec 4) (phase : BitVec 2) (byte : BitVec 9) (s : State) :
    Res :=
  .next <|
    let t := s.tw.ports[p]
    if t.state != .controller || 11 < bit.toNat then s
    else match t.jobs with
      | .xfer _ _ retry _ _ :: _ =>
        let s := (noteTwPlace p phase byte (endAttempt p phase byte.toNat false s)).upTwPort p fun t =>
          { t with arbl := incSat t.arbl, lbit := bit, jobLoss := bit }
        if t.retries < retry then retryTw p s
        else failTwJob p codeArbLost (raiseTw p 1 phase.toNat bit.toNat codeArbLost s)
      | _ => s

/-- TW_TRANSFER_END (R458, R459): the attempt has ended with a STOP. -/
def execTwTransferEnd (p : Port) (e : TwEnd) (s : State) : Res :=
  .next <|
    let t := s.tw.ports[p]
    let nacked := fun (phase : BitVec 2) (byte : BitVec 9) =>
      (noteTwPlace p phase byte (endAttempt p phase (byte.toNat + 1) true s)).upTwPort p fun t =>
        { t with nack := incSat t.nack }
    let fails := fun (phase : BitVec 2) (s : State) =>
      failTwJob p codeNack (raiseTw p 2 phase.toNat 0 codeNack s)
    if t.state != .controller then s
    else match t.jobs with
      | .xfer q _ retry send rlen :: _ =>
        match e with
        | .done bytes =>
          if bytes.length ≠ rlen then s
          else
            let s := endAttempt p (if rlen = 0 then 1 else 3) send.length true s
            -- the bytes read reach the buffer that EXT names before the completion (R456)
            nextTwJob p (completeData q 0 (twResult send.length rlen t) bytes s)
        | .addressNack phase =>
          if t.retries < retry then retryTw p (nacked phase 0) else fails phase (nacked phase 0)
        | .dataNack phase byte => fails phase (nacked phase byte)
      | _ => s

/-- A wait or a clock-low timeout ends the first job of a port (R465, R466); an attempt in progress ends with a STOP. -/
def timeoutTw (p : Port) (phase : BitVec 2) (byte : BitVec 9) (s : State) : State :=
  let s := if s.tw.ports[p].state == .controller then endAttempt p phase byte.toNat true s else s
  let s := (noteTwPlace p phase byte s).upTwPort p fun t => { t with tmo := incSat t.tmo }
  failTwJob p codeTimeout (raiseTw p 3 phase.toNat 0 codeTimeout s)

/-- TW_WAIT_LIMIT (R466, R468): a wait has lasted HANGTO ms. -/
def execTwWaitLimit (p : Port) (phase : BitVec 2) (byte : BitVec 9) (s : State) : Res :=
  .next <|
    let t := s.tw.ports[p]
    if !twReady s p then s
    else if t.state == .controller then (if t.toen then s else timeoutTw p phase byte s)
    else if !twWaits t then s
    else match t.jobs with
      | .xfer _ _ _ [] (_ + 1) :: _ => timeoutTw p 2 0 s
      | _ => timeoutTw p 0 0 s

/-! ## Register access through a target port (R399 to R401, R452 to R455) -/

/-- The master that a target port is. -/
def twMaster (p : Port) : Option Master :=
  match p.val with
  | 0 => some .tw0
  | 1 => some .tw1
  | 3 => some .tw3
  | _ => none

/-- A transaction reaches a target port: its domain and the fabric are on, it is enabled and does not
act as a controller. Before the image is loaded it is answered with what a wake leaves of the registers (R472). -/
def twServes (s : State) (p : Port) : Bool :=
  domOn s pdTw && domOn s pdFab && s.tw.ports[p].state != .off && s.tw.ports[p].state != .controller

/-- What a write transaction has gathered (R400): the bytes of the present word, whether they came in
order from its offset +0, and the pointer. -/
structure TwGather where
  ptr : Nat
  got : List Byte
  whole : Bool
  open_ : Bool
  s : State

/-- A write that R400 rejects with 0x0102 at the word's offset. -/
def brokenWord (m : Master) (off : Nat) (s : State) : State :=
  regWrite m off (frozenAt off) 0 0 (rejectWrite m off (if 0xF000 ≤ off then codeProtected else codeRange)) s

/-- One data byte of a write transaction. -/
def gatherByte (m : Master) (g : TwGather) (b : Byte) : TwGather :=
  let k := g.ptr % 4
  let word := g.ptr / 4 * 4
  let whole := k = 0 ∨ (g.whole ∧ g.got.length = k)
  let got := if k = 0 then [b] else g.got ++ [b]
  let next := g.ptr / 32 * 32 + (g.ptr + 1) % 32
  if k = 3 then
    { ptr := next, got := [], whole := false, open_ := false
      s := if whole then writeReg m word (BitVec.ofNat 32 (leNat got)) g.s else brokenWord m word g.s }
  else { g with ptr := next, got := got, whole := whole, open_ := true }

/-- The data bytes of a write transaction from the pointer on; a word left incomplete is rejected. -/
def writeThrough (p : Port) (m : Master) (bytes : List Byte) (s : State) : State :=
  let g := bytes.foldl (gatherByte m)
    { ptr := (s.tw.ports[p].ptr).toNat, got := [], whole := false, open_ := false, s := s }
  let s := if g.open_ then brokenWord m (g.ptr / 4 * 4) g.s else g.s
  s.upTwPort p fun t => { t with ptr := BitVec.ofNat 16 g.ptr }

/-- A write transaction of whole bytes: the pointer, high byte first, and the data (R452). -/
def targetWrite (p : Port) (m : Master) (bytes : List Byte) (s : State) : State :=
  match bytes with
  | hi :: lo :: data =>
    writeThrough p m data (s.upTwPort p fun t => { t with ptr := hi ++ lo })
  | _ => s

/-- One byte of a read transaction (R401): offset +0 samples the word, the others come from the sample.
Where there is no sample of the word the byte is a free value (log 6). -/
def readThrough (p : Port) (m : Master) (s : State) : State × Byte :=
  let ptr := s.tw.ports[p].ptr
  let off := ptr.toNat / 4 * 4
  let k := ptr.toNat % 4
  let adv := fun (s : State) => s.upTwPort p fun t => { t with ptr := ptr + 1 }
  if k = 0 then
    let r := readReg m off s
    let s := r.1.upTwPort p fun t => { t with sample := some { off := off, copy := r.2 } }
    (adv s, r.2.setWidth 8)
  else
    match s.tw.ports[p].sample.filter fun h => h.off = off with
    | some h => (adv s, h.copy.extractLsb' (8 * k) 8)
    | none =>
      let r := takeFree s
      (adv r.2, r.1.setWidth 8)

/-- The bytes of a read transaction, in order. -/
def targetRead (p : Port) (m : Master) : Nat → State → State × List Byte
  | 0, s => (s, [])
  | n + 1, s =>
    let r := readThrough p m s
    let t := targetRead p m n r.1
    (t.1, r.2 :: t.2)

/-- A target port sends n bytes (R453). -/
def targetSends (p : Port) (m : Master) (n : Nat) (s : State) : State :=
  let r := targetRead p m n s
  r.1.emit (.twBytes p r.2)

/-- A transaction at a target port: TW_PSTATn reads TARGET within it, and the bus is busy from its START
until it is free again (R457, R477). -/
def asTarget (p : Port) (f : State → State) (s : State) : State :=
  let was := s.tw.ports[p].state
  let s := f (s.upTwPort p fun t => { t with state := .target, busy := true })
  followTw p (s.upTwPort p fun t => { t with state := if t.state = .target then was else t.state })

/-- The part of a target transaction that its whole bytes make. -/
def targetBytes (p : Port) (m : Master) (read : Bool) (bytes : List Byte) (s : State) : State :=
  if read then targetSends p m bytes.length s else targetWrite p m bytes s

/-- TW_TARGET_WRITE (R399, R400, R452, R453). Another controller's START to another device makes the bus busy (R457). -/
def execTwTargetWrite (p : Port) (seen : TwSeen) (s : State) : Res :=
  .next <| match seen with
  | .other => if twReady s p then s.upTwPort p fun t => { t with busy := true } else s
  | .mine bytes => match twMaster p with
    | none => s
    | some m => if !twServes s p then s else asTarget p (targetWrite p m bytes) s

/-- TW_TARGET_READ (R401, R452, R453): n bytes go out. -/
def execTwTargetRead (p : Port) (n : Nat) (s : State) : Res :=
  .next <| match twMaster p with
  | none => s
  | some m =>
    if !twServes s p then s
    else asTarget p (targetSends p m n) s

/-- TW_TARGET_INTERRUPTED (R455): the whole bytes before the condition have acted; the partial byte is
discarded. -/
def execTwTargetInterrupted (p : Port) (read : Bool) (bytes : List Byte) (s : State) : Res :=
  .next <| match twMaster p with
  | none => s
  | some m =>
    if !twServes s p then s
    else raiseTw p 6 4 0 0 (asTarget p (targetBytes p m read bytes) s)

/-- TW_CLOCK_LOW_TIMEOUT (R465): SCL low for longer than T, with TOEN 1. -/
def execTwClockLowTimeout (p : Port) (seen : LowSeen) (s : State) : Res :=
  .next <|
    let t := s.tw.ports[p]
    if !t.toen then s
    else match seen with
      | .controller phase byte => if t.state == .controller then timeoutTw p phase byte s else s
      | .target read bytes =>
        match twMaster p with
        | none => s
        | some m =>
          if !twServes s p then s
          else
            let s := asTarget p (targetBytes p m read bytes) s
            raiseTw p 3 4 0 codeTimeout (s.upTwPort p fun t => { t with tmo := incSat t.tmo })

/-! ## Block reset (R470) -/

/-- A block reset ends the first transfer of a port where it stands: before its attempt, or at a byte that the command
does not tell (R458, R470; log 6). -/
def cutAttempt (p : Port) (s : State) : State :=
  if s.tw.ports[p].state == .controller then
    let f := takeFree s
    noteTwPlace p (f.1.extractLsb' 0 2) (f.1.extractLsb' 2 9) f.2
  else noteUnbegun p s

/-- TW_BLOCK_RESET (R470). -/
def execTwBlockReset (p : Port) (sclLow : Bool) (clear : BusClear) (s : State) : Res :=
  let key := resetKey (srcId 0x9 0 p.val 0 0)
  .next <|
    if !resetAsked key s then s
    else
      let s := (restampAt (· == .tw) (takeReset key s)).upTwPort p fun t => { t with ptr := 0, sample := none }
      if s.tw.ports[p].state == .off || decide (p.val < 2) then s
      else
        let s := match s.tw.ports[p].jobs with
          | j :: _ =>
            (endTwJob codeFlushed (cutAttempt p s) j).upTwPort p fun t =>
              { t with jobs := t.jobs.tail, retries := 0, jobLoss := 0xF
                       lerr := BitVec.ofNat 16 codeFlushed }
          | [] => s
        if s.tw.ports[p].rsten then s.upTwPort p fun t => { t with pulse := true, state := .reset }
        else testLines p sclLow clear s

/-- TW_RESET_PULSE_END (R470). -/
def execTwResetPulseEnd (p : Port) (sclLow : Bool) (clear : BusClear) (s : State) : Res :=
  .next <|
    if !s.tw.ports[p].pulse then s
    else testLines p sclLow clear (s.upTwPort p fun t => { t with pulse := false })

/-! ## Sleep (R472) -/

/-- The time-stamp resumes at the next AO edge (R481); after a VCC33_AO POR it starts at 0. -/
def resumeTime (s : State) : State :=
  match s.tmr.mirror with
  | none => s.upTmr fun t => { t with mirror := some t.now, gap := 0 }
  | some m =>
    let n := s.tmr.gap + 1
    let v := m + BitVec.ofNat 63 (n * 15625 / 8)
    (s.upClk fun c => { c with rc := nextEdge c.rc }).upTmr fun t =>
      { t with now := v, coarse := true, mirror := some v, gap := 0 }

/-- A condition of a selected source that arises while the rails fall is kept (R490). -/
def keepWake (bit : Nat) (j : SleepJob) : SleepJob := if hasBit j.wake bit then { j with kept := true } else j

/-- Step 2a of a wake by TW0: PD_FAB and PD_TW are on, and TW0 answers (R472, R482). -/
def beginWaking (s : State) : State :=
  let s := s.upPwr fun w => { w with phase := .waking, on := putBit (putBit w.on pdFab true) pdTw true, wakeDue := true }
  followTw 0 (resumeTime s)

/-- TW0_WAKE_MATCH (R472): an address byte matches in sleep. `inTime` says that the fabric is ready within
1 ms. A match while the rails are falling is kept (R490). -/
def execTw0WakeMatch (address : BitVec 7) (inTime : Bool) (s : State) : Res :=
  .next <|
    if !s.tw.aoEn || address != s.tw.aoAddr then s
    else if s.pwr.phase = .asleep then
      if !hasBit s.pwr.wake 3 then s
      else if inTime then beginWaking s
      else (s.upPwr fun w => { w with wakeDue := true }).upTw fun t => { t with wakeMissed := true }
    else s.upPwr fun w => { w with sleep := w.sleep.map (keepWake 3) }

end Sys2Proof.Machine
end

