-- ==== Sys2Proof/Machine/Markers.lean ====
section
/-!
DEFINITION. The application of a marker at a block (R22 to R26): what each change does there, and the end
of the commit or descriptor behind it (R393, R394).
-/

namespace Sys2Proof.Machine

/-! ## What a set does when it becomes live -/

/-- The phase subsystem takes its plan; a heel loop that HEN makes unavailable raises event 0x66 (R147,
R222). -/
def afterPlan (before : Rail → Bool) (s : State) : State :=
  (replan s).each (fins 8) fun r s => heelChange (before r) r 0 6 s

/-- The comparators take their set-up, and PD_AO its own (R241, R248). -/
def afterCmp (s : State) : State := refreshAll (copyAo s)

/-- The PRN block takes its set-up: ports open and close, targets that follow VBOOT move, and reservations of
ports whose rails are all off end (R182, R187, R189, R198). -/
def afterPrn (s : State) : State := refreshAll (releaseIdle ((followPorts s).each (fins 8) bootTarget))

/-- The sequencer takes its set-up (R252, R277): a group that now follows EN takes its level. -/
def afterSeq (old : Setup) (s : State) : State :=
  let running := s.pwr.phase == .waiting || s.pwr.phase == .sequencing || s.pwr.phase == .run
  seqRest (if running && !s.pwr.enIgnored then followEn (fun j => s.cfg.enpin j.val && !old.enpin j.val) s else s)

/-- The collector takes its set-up: a source whose mask bit has been cleared while it is pending sends its
message (R331). -/
def afterFlt (old : Setup) (s : State) : State :=
  let opened := (pendingList s).filter fun e =>
    old.masked e && !s.cfg.masked e && !s.cfg.rxIntn e && (s.cfg.rxInt e || hasBit s.flt.ladderInt e)
  let t := opened.foldl (fun (t : Taking) e => t.send (Fin.ofNat 32 (s.cfg.rxVec e)))
    { s := s, taken := 0, failed := [] }
  leaveEscalation (raiseUnsent t.failed t.s)

/-- The ledger and the gauge take their set-up: another pack starts the gauge afresh (R319), at once or when PD_GAU is
on again, and the gauge record is committed where C or Q_L changes with it (R313). -/
def afterLdg (old : Setup) (c q : Rat) (s : State) : State :=
  let s := if old.ns = s.cfg.ns ∧ old.qnom = s.cfg.qnom then s
    else (gaugeNew (s.upLdg fun l => { l with cLearned := none })).upGau fun u => { u with newPack := true }
  if !domOn s pdGau || (holdC s = c ∧ packQ s = q) then s else commitGauge s

/-- A rail has moved to another pair (R129): one that had no pair to run its law returns to it, unless both its
paths are lost (R221). -/
def afterMove (r : Rail) (wasDead : Bool) (s : State) : State :=
  let m := s.eng.rails[r].mode
  if pairRuns s (pairOf s r) && s.fb[r].path != .comparator && (m == .track || (m == .heel && wasDead)) then
    heelReturn r s
  else s

/-- A rail's own ENG word is live: its feed-forward of VBUS, and the pair that serves it (R105, R135). -/
def afterRail (r : Rail) (before : PairNo) (wasDead : Bool) (s : State) : State :=
  let here := pairOf s r
  let s := (followFfv r s).upEngRail r fun e =>
    { e with assign := e.assign.filter fun a => !(a.ring.isNone && a.pair == here) }
  if pairOf s r = before then s else afterMove r wasDead s

/-- The words of a set become live at a place. -/
def applyWords (at_ : MarkerAt) (b : Blk) (ws : List (Nat × Word)) (s : State) : State :=
  let old := s.cfg
  let heels := heelAvail s
  let kept := (holdC s, packQ s)
  let pairs := fun (r : Rail) => (pairOf s r, !pairRuns s (pairOf s r))
  let s := s.upRegs fun g => { g with live := setWords g.live (wordsAt at_ b ws) }
  match b, at_ with
  | .adc, _ => restartSequences (replanLane s)
  | .pwm, .adc => replanLane s
  | .eng, .rail r => afterRail r (pairs r).1 (pairs r).2 s
  | .pwm, .pwm => afterPlan heels s
  | .cmp, _ => afterCmp s
  | .prn, _ => afterPrn s
  | .seq, _ => afterSeq old s
  | .flt, _ => afterFlt old s
  | .ldg, _ => afterLdg old kept.1 kept.2 s
  | .tw, _ => followTwAll s
  | _, _ => s

/-! ## One change at one place -/

/-- A rail exchanges its banks (R113). -/
def swapBank (r : Rail) (s : State) : State :=
  s.upEngRail r fun e => { e with bank := !e.bank, ovf := false }

/-- A rail exchanges its last tables (R117). -/
def swapTable (r : Rail) (s : State) : State := s.upEngRail r fun e => { e with table := !e.table }

/-- ENG_ASSIGN takes effect (R129). -/
def moveRail (r : Rail) (p : PairNo) (s : State) : State :=
  let off := 0x4020 + 4 * r.val
  let dead := !pairRuns s (pairOf s r)
  let s := s.upRegs fun g =>
    { g with live := setWord g.live off (withPair (wordIn g.live off) p)
             shadow := setWord g.shadow off (withPair (wordIn g.shadow off) p) }
  afterMove r dead (s.upEngRail r fun e => { e with assign := none })

/-- What a change does at a place. -/
def applyChange (at_ : MarkerAt) (c : Change) (s : State) : State :=
  match c, at_ with
  | .words b ws, _ => applyWords at_ b ws s
  | .swapBanks, .rail r => swapBank r s
  | .swapTables, .rail r => swapTable r s
  | .assign r p, .rail k => if k = r then moveRail r p s else s
  | .activeSet r act light, .pwm => applyActive r act light s
  | .slotMap map mask, .adc => applyMap map mask s
  | .calibrate c cofs cgain, .adc => applyCal c cofs cgain s
  | _, _ => s

/-! ## The stream of markers -/

/-- LTAG of the block at a place. -/
def noteTag (at_ : MarkerAt) (tag : BitVec 16) (s : State) : State :=
  match at_ with
  | .adc => s.upAdc fun a => { a with ltag := tag }
  | .engine => s.upEng fun e => { e with ltag := tag }
  | .rail _ => s.upEng fun e => { e with ltag := tag }
  | .pwm => s.upPwm fun p => { p with ltag := tag }
  | .cmp => s.upCmp fun c => { c with ltag := tag }
  | .seq => s.upSeq fun q => { q with ltag := tag }
  | .prn => s.upPrn fun p => { p with ltag := tag }
  | .ldg => s.upLdg fun l => { l with ltag := tag }
  | .flt => s.upFlt fun f => { f with ltag := tag }
  | .nvm => s.upNvm fun n => { n with ltag := tag }
  | .tw => s.upTw fun t => { t with ltag := tag }
  | .hif => s

/-- The RESULT of a descriptor whose marker has been applied everywhere (R366): BSTAMP, the low 32 bits of its
slot. -/
def markerResult (m : Marker) : Nat :=
  let b := m.bstamp.getD 0 % 2 ^ 32
  match m.changes with
  | [.calibrate _ cofs cgain] => cofs.toNat + cgain.toNat * 2 ^ 16 + b * 2 ^ 32
  | _ => b

/-- The sets in force: the live set, every change that still stands in the stream (R393), and the moves of rails that
their new pairs track (R129). -/
def remakeAccepted (s : State) : State :=
  let put := fun (acc : RegMap) (c : Change) => match c with
    | .words _ ws => setWords acc ws
    | .assign r p =>
      setWord acc (0x4020 + 4 * r.val) (withPair (wordIn acc (0x4020 + 4 * r.val)) p)
    | _ => acc
  let moves := (fins 8).filterMap fun r => s.eng.rails[r].assign.bind fun a =>
    if a.ring.isSome then some (Change.assign r a.pair) else none
  let acc := moves.foldl put (s.fab.markers.foldl (fun acc m => m.changes.foldl put acc) s.regs.live)
  s.upRegs fun g => { g with acc := acc }

/-- The first member of a list that is x, replaced. -/
def replaceFirst (x y : Marker) : List Marker → List Marker
  | [] => []
  | m :: ms => if m = x then y :: ms else m :: replaceFirst x y ms

/-- A marker of the stream becomes another; it leaves the stream when no place is still to take it or has
missed it. -/
def changeMarker (x y : Marker) (s : State) : State :=
  s.upFab fun f =>
    { f with markers := (replaceFirst x y f.markers).filter fun m => !(m.targets.isEmpty && m.lost.isEmpty) }

/-- A place leaves a marker's targets. -/
def Marker.without (m : Marker) (at_ : MarkerAt) : Marker := { m with targets := m.targets.filter (· != at_) }

/-- The descriptor behind a marker ends once none of its markers is left. -/
def endOrigin (m : Marker) (s : State) : State :=
  match m.origin with
  | .desc q =>
    if s.fab.markers.any fun x => x.origin == m.origin then s
    else complete q 0 (markerResult m) (s.upFab fun f => { f with heard := f.heard.filter (·.origin != m.origin) })
  | _ => s

/-- What the blocks are doing for the descriptor of a ring stops (R16; log 46). -/
def dropWork (q : Ring) (s : State) : State :=
  let pitches := (fins 8).filter fun r => s.pwm.rails[r].admission.any (·.ring == q)
  let s := dropWaiting q (dropArrayWork q (s.each pitches (stopPitching codeFlushed)))
  let s := s.each (fins 8) fun r => State.upEngRail r fun e => { e with assign := e.assign.filter (·.ring != some q) }
  s.upPwr fun p => { p with sleep := p.sleep.filter (·.ring != q) }

/-- The descriptor behind a packet ends with 0x0108, and with it what the blocks do for it, whatever of it is still on
its way (R16). -/
def flushOrigin (o : Origin) (s : State) : State :=
  match o with
  | .desc q => (complete q codeFlushed 0 (dropWork q s)).upFab fun f =>
      { f with markers := f.markers.map fun x => if x.origin == o then { x with origin := .internal } else x,
               heard := f.heard.filter (·.origin != o) }
  | _ => s

/-- What waits for a change that never comes: a CAL_FULL, a rail's move, and the slice in steep, which a position
without a slice calls again. The phase subsystem gives a rail's active set anew, unless a later marker carries it
(log 67). -/
def giveUp (c : Change) (s : State) : State :=
  match c with
  | .calibrate _ _ _ => s.upAdc fun a => { a with cal := none }
  | .assign r _ => s.upEngRail r fun e => { e with assign := none }
  | .words .eng _ =>
    let comes := fun (r : Rail) => s.fab.markers.any fun m => m.owner == some .eng && m.targets.contains (.rail r)
    s.each ((fins 8).filter fun r => !comes r) fun r => State.upEngRail r fun e =>
      { e with assign := e.assign.filter (·.ring.isSome) }
  | .activeSet r _ _ =>
    let carries := s.fab.markers.any fun m => m.targets.contains .pwm && m.changes.any fun c => match c with
      | .activeSet k _ _ => k = r
      | _ => false
    if carries || s.pwm.rails[r].opmode == .off then s else sendActive r s.pwm.rails[r].actNext s
  | .slotMap _ _ => claimMasked (s.upAdc fun a => { a with tour := a.tour.map fun t => { t with claimed := none } })
  | _ => s

/-- A marker that a gap in SEQ shows to be lost on its way to a place: the place never applies it, and its
descriptor ends with 0x0108 (R16). -/
def loseMarker (at_ : MarkerAt) (m : Marker) (s : State) : State :=
  let s := changeMarker m { m.without at_ with lost := m.lost.filter (· != at_) } s
  remakeAccepted (flushOrigin m.origin (m.changes.foldl (fun s c => giveUp c s) s))

/-- The oldest n markers that a place has missed are known to be lost. -/
def loseMarkers (at_ : MarkerAt) : Nat → State → State
  | 0, s => s
  | n + 1, s => match s.fab.markers.find? fun m => m.lost.contains at_ with
    | some m => loseMarkers at_ n (loseMarker at_ m s)
    | none => s

/-- A marker goes astray on its way to a place, which does not know. What the engine would forward into its DUTY
stream does not come to the PWM subsystem either (R24). -/
def straysFrom (at_ : MarkerAt) (m : Marker) (s : State) : State :=
  let t := { m.without at_ with lost := m.lost ++ [at_] }
  let forwards := match at_ with
    | .engine => true
    | .rail _ => true
    | _ => false
  changeMarker m (if forwards then t.without .pwm else t) s

/-- A marker is applied at a place. -/
def applyMarker (at_ : MarkerAt) (m : Marker) (s : State) : State :=
  let s := m.changes.foldl (fun s c => applyChange at_ c s) (changeMarker m (m.without at_) s)
  issueMarkers (endOrigin m (noteTag at_ m.tag s))

/-! ## Where a marker stands (R22 to R26) -/

/-- A loop-lane record of a rail that was sampled before a boundary can still reach its lane pair. -/
def oldRecord (s : State) (mine : Rail → Bool) (b : Nat) : Bool :=
  s.eng.sched.any fun e =>
    mine (reqRail s.cfg e.req) && decide (e.stamp < b) && decide (s.clk.slot ≤ e.stamp + maxAge s.cfg)

/-- A DUTY packet of the old state is still on its way (R24). -/
def oldDuty (s : State) (m : Marker) (b : Nat) : Bool :=
  s.eng.dutyQ.any fun d => (m.rails = 0 || hasBit m.rails d.rail.val) && !d.lost && decide (d.stamp < b)

/-- A result of one of these channels that was sampled before a boundary has not been delivered yet (R23). -/
def oldResult (s : State) (p : Nat → Bool) (b : Nat) : Bool :=
  (resultsUnderWay s).any fun x => p x.chan.toNat && decide (x.stamp < b)

/-- The engine still has a marker to forward. -/
def beforeEngine (m : Marker) : Bool :=
  m.targets.any fun t => match t with
    | .engine => true
    | .rail _ => true
    | _ => false

/-- A marker issued has come to where its place applies it (R23, R24, R26): at its boundary where samples are
made or consumed, behind the old duty commands in the DUTY stream, and elsewhere at once. A rail that consumes
no samples takes it at once too (R221), unless the first record after its pair's reset is still to give it its
boundary, as a result gives it to the ledger and the gauge while the regular sequence runs (log 48). -/
def hasCome (s : State) (at_ : MarkerAt) (m : Marker) : Bool :=
  match m.bstamp with
  | none => false
  | some b =>
    match at_ with
    | .adc => decide (b ≤ s.clk.slot)
    | .rail r =>
      !markerHeld s at_ m && !(m.restamp.contains at_ && s.eng.rails[r].mode != .off) &&
        (!consumes s r || (decide (b ≤ s.clk.slot) && !oldRecord s (· == r) b &&
          !oldResult s (fun c => c = 0x40 + r.val || c = 0x48 + r.val) b))
    | .engine => decide (b ≤ s.clk.slot) && !oldRecord s (fun _ => true) b && !oldResult s (· = 0x58) b
    | .ldg =>
      !domOn s pdGau || (!(m.restamp.contains .ldg && s.cfg.regEn) && decide (b ≤ s.clk.slot) &&
        !oldResult s energyChannel b)
    | .pwm => !beforeEngine m && !oldDuty s m b
    | _ => true

/-- The next marker for a place: the oldest issued one that it has not taken (R25). -/
def nextMarker (s : State) (at_ : MarkerAt) : Option Marker :=
  (s.fab.markers.find? fun m => m.bstamp.isSome && m.targets.contains at_).filter (hasCome s at_)

/-- A marker held through a reset of a place that receives no records takes the slot of its delivery as its
boundary (R26; log 48). -/
def bounded (s : State) (at_ : MarkerAt) (m : Marker) : Marker :=
  if m.restamp.contains at_ then
    { m with bstamp := some s.clk.slot, restamp := m.restamp.filter (· != at_) }
  else m

/-! ## Packets of other kinds (R15, R16) -/

/-- A rail for the events of the PWM subsystem and of a lane pair. -/
def markerRail (m : Marker) : Rail := ((fins 8).find? fun r => hasBit m.rails r.val).getD 0

/-- The rail that a place's event names. -/
def placeRail : MarkerAt → Rail
  | .rail r => r
  | _ => 0

/-- The block of a place in the order of descriptors (R371). -/
def placeBlock (at_ : MarkerAt) (unit : Fin 16) : Nat :=
  match at_ with
  | .adc => 0x3
  | .engine => 0x4
  | .rail _ => 0x4
  | .pwm => 0x5
  | .cmp => 0x6
  | .seq => 0x7
  | .prn => 0x8
  | .tw => 0x90 + unit.val % 4
  | .nvm => 0xA
  | .ldg => 0xB
  | .flt => 0xC
  | .hif => 0x1

/-- The descriptor behind a COMMAND or NVREQ packet that a block has missed or had twice: the one that entered
execution first of those for the block; one that the block has decided was not missed (R16; log 46). -/
def packetOrigin (s : State) (at_ : MarkerAt) (unit : Fin 16) (missed : Bool) : Option Ring :=
  let mine := (fins 16).filter fun q => s.hif.sq[q].exec.any fun e =>
    opBlock e.desc.opcode.toNat e.desc.param.toNat = placeBlock at_ unit && !(missed && e.decided)
  mine.foldl (fun best q => match best with
    | none => some q
    | some b =>
      let ord := fun (k : Ring) => ((s.hif.sq[k].exec).map (·.ord)).getD 0
      if ord q < ord b then some q else some b) none

/-- The descriptor behind a packet ends with 0x0108. -/
def flushPacket (at_ : MarkerAt) (unit : Fin 16) (missed : Bool) (s : State) : State :=
  match packetOrigin s at_ unit missed with
  | some q => flushOrigin (.desc q) s
  | none => s

/-- A packet of another kind than MARKER meets the check at a block (R15, R16). SAMPLE, CHECKPOINT and DUTY
packets do not come here. -/
def hearOther (at_ : MarkerAt) (unit : Fin 16) (w : Word) (s : State) : State :=
  let k := hdrKind w
  let kind := if k = 2 ∨ k = 3 ∨ k = 4 ∨ k = 6 ∨ k = 7 then k else 16
  let h := hear at_ kind anyLen w s
  let event := raiseFabric at_ (placeRail at_) unit h.1
  match h.2 with
  | .inOrder => h.1
  | .missing _ => flushPacket at_ unit true event
  | .repeated => flushPacket at_ unit false event
  | .refused => event

/-! ## MARKER -/

/-- A MARKER packet that repeats an earlier one is discarded; the descriptor behind that one, if it is still in
execution, ends with 0x0108 (R16). -/
def flushHeard (at_ : MarkerAt) (w : Word) (s : State) : State :=
  match s.fab.heard.find? fun e => e.at_ == at_ && e.src == hdrSrc w && e.seq == hdrSeq w with
  | some e => flushOrigin e.origin s
  | none => s

/-- A place notes a marker that it has received, for as long as the descriptor behind it is in execution. -/
def noteHeard (at_ : MarkerAt) (w : Word) (m : Marker) (s : State) : State :=
  match m.origin with
  | .desc _ => s.upFab fun f =>
      { f with heard := { at_ := at_, src := hdrSrc w, seq := hdrSeq w, origin := m.origin } :: f.heard }
  | _ => s

/-- A marker is taken at a place. -/
def takeMarker (at_ : MarkerAt) (w : Word) (m : Marker) (s : State) : State :=
  let n := bounded s at_ m
  applyMarker at_ n (noteHeard at_ w m (changeMarker m n s))

/-- A MARKER packet with this header reaches a place. -/
def hearMarker (at_ : MarkerAt) (unit : Fin 16) (w : Word) (s : State) : State :=
  let h := hear at_ 1 anyLen w s
  let next := nextMarker s at_
  let event := raiseFabric at_ ((next.map markerRail).getD (placeRail at_)) unit h.1
  match h.2, next with
  | .refused, _ => event
  | .repeated, _ => flushHeard at_ w event
  | .inOrder, some m => takeMarker at_ w m h.1
  | .missing n, some m =>
    let t := loseMarkers at_ n event
    -- the collector discards the packet that shows the gap (R323)
    if at_ = .flt then loseMarker at_ m t else takeMarker at_ w m t
  | _, none => s

/-- MARKER (R16, R23 to R26): the next marker for a place arrives there, with this header; without one it is
lost on its way. A header of another kind is a packet of that kind at the block. -/
def execMarker (at_ : MarkerAt) (pkt : Arrival) (s : State) : Res :=
  .next <|
    if !domOn s pdFab then s
    else match pkt.hdr with
    | none => match nextMarker s at_ with
      | some m => straysFrom at_ m s
      | none => s
    | some w => if hdrKind w = 1 then hearMarker at_ pkt.unit w s else hearOther at_ pkt.unit w s

end Sys2Proof.Machine
end

