-- ==== Sys2Proof/Machine/Clocks.lean ====
section
/-!
DEFINITION. The clock root (R27 to R30, R216), the supply and thermal monitors (R496, R224) and the test
access port (R507, R508).
-/

namespace Sys2Proof.Machine

/-! ## The reference and the PLL -/

/-- Event 0x7C of the XREF monitor (block 0x1) or of the root PLL (block 0x0). -/
def raiseClock (blk : Nat) (s : State) : State := raise 0x7C (srcId 0x1 blk 0 0 0) 0 s

/-- XREF_LOSS (R28): the PLL holds its last control word. -/
def execXrefLoss (s : State) : Res :=
  .next <|
    if !domOn s pdFab || !s.clk.xrefOk then s
    else s.upClk fun c =>
      { c with xrefOk := false, lossc := c.lossc + 1, refsel := if c.refsel = 0 then 1 else c.refsel }

/-- PLL_HOLD_EXPIRY (R28): the PLL moves to the RC fallback. -/
def execPllHoldExpiry (s : State) : Res :=
  .next <|
    if !domOn s pdFab || s.clk.refsel ≠ 1 then s
    else raiseClock 1 (s.upClk fun c => { c with refsel := 2 })

/-- XREF_RETURN (R28, R29): within the hold, or after 1 ms on the fallback. -/
def execXrefReturn (s : State) : Res :=
  .next <|
    if !domOn s pdFab || s.clk.refsel = 0 then s
    else raiseClock 1 (s.upClk fun c => { c with refsel := 0, xrefOk := true })

/-- PLL_LOCK_LOSS (R216): every regulating rail passes to its heel loop. -/
def execPllLockLoss (s : State) : Res :=
  .next <|
    if !domOn s pdFab || !s.clk.lock then s
    else
      let s := raiseClock 0 (s.upClk fun c => { c with lock := false })
      s.each (fins 8) fun r => passToHeel r 4

/-- PLL_RELOCK (R221). -/
def execPllRelock (s : State) : Res :=
  .next (if domOn s pdFab then s.upClk fun c => { c with lock := true } else s)

/-! ## Monitors (R496, R224) -/

/-- The pairs of a lost domain stop: event 0x60 for each that serves a rail, and its rails pass to their
heel loops (R216, R224). -/
def stopPairs (ps : List PairNo) (s : State) : State :=
  s.each ps fun p s =>
    let rs := railsServed s p
    let s := if rs.isEmpty then s else raise 0x60 (srcId 0x4 p.val (pairUnit s p) 0 0) 0 s
    s.each (rs.filter fun r => s.eng.rails[r].enabled) fun r => passToHeel r 5

/-- Without the checkpoint store the rails of pairs 2 and 3 run without checkpoints (R224): those that the sequencer
has enabled (R109; log 24). -/
def noCheckpoints (s : State) : State :=
  s.each ((fins 8).filter fun r => s.eng.rails[r].enabled && decide (2 ≤ s.cfg.pair r.val)) fun r =>
    raise 0x62 (srcId 0x4 0x4 r.val 2 0) 0

/-- The checkpoint store lies in PD_ENGA (R31). -/
def dropCheckpoints (s : State) : State :=
  s.upEng fun e => { e with rails := e.rails.map fun k => { k with ckA := none, ckB := none } }

/-- The descriptors in execution at the blocks that p names end with 0x0108. -/
def flushAt (p : Nat → Bool) (s : State) : State :=
  s.each (fins 16) fun q s => match s.hif.sq[q].exec with
    | some e => if p (opBlock e.desc.opcode.toNat e.desc.param.toNat) then complete q codeFlushed 0 s else s
    | none => s

/-- The slices of a lost domain, those out of service first. -/
def slicesOf (s : State) (d : Nat) : List SliceNo :=
  let mine := (fins 17).filter fun n => sliceDom n = d
  let first := ((s.adc.pitch.map (·.slice)).toList ++ (s.adc.tour.map (·.slice)).toList).filter (mine.contains ·)
  first ++ mine.filter fun n => !first.contains n

/-- The slices of a lost domain fail and are off (R224). -/
def stopSlices (d : Nat) (s : State) : State :=
  let ns := slicesOf s d
  (s.each (ns.filter fun n => !(s.adc.slices[n].state == .failed)) sliceFails).each ns fun n =>
    State.upSlice n fun a => { a with state := .off }

/-- The front ends of PD_ADC0 are lost: error conversions that are still being built are stale (R18, R31). -/
def loseFrontEnds (s : State) : State := staleUnbuilt (fun _ c => errorChannel c) s

/-- The slot planner, the mismatch correction and the test DAC of PD_ADC1 are lost: nothing of them is left but
the slices of PD_ADC0 as they stand (R31, R33). -/
def losePlanner (s : State) : State :=
  let s := flushAt (· = 0x3) (staleUnbuilt (fun _ _ => true) s)
  s.upAdc fun a =>
    { Adc.reset with slices := a.slices, slotmap := a.slotmap, mask := a.mask, ltag := a.ltag }

/-- The PWM subsystem is lost: every ball is high-impedance, no heel loop carries a rail, and the feedback state that
PWM_HSTATr holds is gone (R33, R136, R207). What the lane pairs count of their records stays with them. -/
def losePwm (s : State) : State :=
  let s := flushAt (· = 0x5) s
  let s := s.each (fins 8) fun r => State.upFb r fun f =>
    { FbRail.reset with adj := f.adj, adjAt := f.adjAt, remote := f.remote, local_ := f.local_, lfsr := f.lfsr
                        d := f.d, heads := f.heads, recent := f.recent, disagree := f.disagree, stale := f.stale
                        freshRun := f.freshRun, ovp := f.ovp, testAt := f.testAt }
  s.upPwm fun _ => Pwm.reset

/-- The window comparators are lost (R33); the always-on comparators lie in PD_AO. -/
def loseCmp (s : State) : State :=
  let s := flushAt (· = 0x6) s
  let s := s.each (fins 8) fun r => State.upFb r fun f => { f with adj := false, disagree := 0 }
  s.upCmp fun c => { Cmp.reset with aoLow := c.aoLow, aoHigh := c.aoHigh, aoCfg := c.aoCfg }

/-- The sequencer is lost (R33): every XEN ball is pulled down (R251). -/
def loseSeq (s : State) : State := (flushAt (· = 0x7) s).upSeq fun q => { Seq.reset with en := q.en }

/-- The NV controller is lost with what waits for it; the array keeps its contents (R33). -/
def loseNvm (s : State) : State :=
  (killCommits codeFlushed (flushAt (· = 0xA) s)).upNvm fun n => { n.cold with refuse := n.refuse }

/-- The root PLL and the time-stamp unit stop with PD_FAB, and with them the digital loops (R216, R481). What the
set-up register file, the fabric and the collector hold is lost; the blocks go on with the set-up that they have
taken (log 64). -/
def loseFab (s : State) : State :=
  let s := s.each (fins 8) fun r => passToHeel r 4
  let t := { Tmr.reset with mirror := s.tmr.mirror, gap := s.tmr.gap }
  { s with
    tmr := t, fab := Fab.reset
    clk := { s.clk with refsel := 0, lock := false, xrefOk := false, lossc := 0 }
    regs := { Regs.reset with live := s.regs.live, acc := s.regs.live }
    flt := { Flt.reset with classA := s.flt.classA, rstc := s.flt.rstc } }

/-- PD_AO is lost (R479): the always-on comparators, the mirror, the wake sources, the class A latch and RSTC. -/
def loseAo (s : State) : State :=
  let s := s.upCmp fun c => { c with aoLow := Cmp.reset.aoLow, aoHigh := Cmp.reset.aoHigh, aoCfg := Cmp.reset.aoCfg }
  let s := s.upFlt fun f => { f with classA := false, rstc := 0 }
  let s := s.upTmr fun t => { t with mirror := none, gap := 0 }
  s.upPwr fun p => { p with wake := 0, alarm := 0, wakeDue := false }

/-- What the loss of a domain's supply does (R33, R224). -/
def loseSupply (d : Nat) (s : State) : State :=
  let s := if d = pdEngA then noCheckpoints (stopPairs [0, 1] s) else if d = pdEngB then stopPairs [2, 3] s else s
  let s := if d = pdFab then loseFab s else s
  let s := s.upPwr fun p => { p with lost := putBit p.lost d true }
  if d = pdEngA then dropCheckpoints (losePairs [0, 1] s)
  else if d = pdAdc0 then loseFrontEnds (stopSlices d s)
  else if d = pdAdc1 then losePlanner (stopSlices d s)
  else if d = pdHif then s.upHif fun _ => Hif.reset
  else if d = pdPwm then losePwm s
  else if d = pdCmp then loseCmp s
  else if d = pdSeq then loseSeq s
  else if d = pdNvm then loseNvm s
  else if d = 0 then loseAo s
  else loseDomain d s

/-- SUP_THERM (R496): cause 1 to 8, given as its number less 1; cause 8 names the domain. Causes 1 and 6 are raised at
the transitions of their windows, W74 and W75, and not by this command. -/
def execSupTherm (cause : Fin 8) (dom : Fin 14) (s : State) : Res :=
  let c := cause.val + 1
  .next <|
    if !domOn s pdFab then s
    else if c = 1 ∨ c = 6 then s
    else if c ≤ 7 then raiseMonitor c s
    else if !domOn s dom.val then s
    else loseSupply dom.val (raiseLimited 0x7D 8 dom.val (srcId 0x1 0x4 dom.val 0 8) 0 noAccess s)

/-! ## The test access port (R507, R508) -/

def irBypass : BitVec 5 := 0b11111
def irIdcode : BitVec 5 := 0b00001

/-- The instruction that a code acts as: EXTEST, CLAMP and HIGHZ only where TMODE was high at POR. -/
def tapInstruction (tmode : Bool) (code : BitVec 5) : BitVec 5 :=
  if code = irIdcode ∨ code = 0b00010 then code
  else if code = 0b00000 ∨ code = 0b00100 ∨ code = 0b00101 then (if tmode then code else irBypass)
  else irBypass

/-- The identification code. -/
def idcode : Word :=
  packWord [(28, 4, 0x2), (12, 16, 0x4808), (1, 11, Config.jep106.toNat), (0, 1, 1)]

/-- What drives the balls that boundary scan covers: the part, the boundary-scan register, or nothing (R507, R508). -/
inductive BallDrive where
  | part | cells | nothing
  deriving DecidableEq, Repr

/-- What drives the balls under the instruction in force. -/
def ballDrive (s : State) : BallDrive :=
  if s.tap.ir = 0b00000 ∨ s.tap.ir = 0b00100 then .cells else if s.tap.ir = 0b00101 then .nothing else .part

/-- A scan of the data register that the instruction selects: SAMPLE/PRELOAD and EXTEST take the levels at the balls,
shift them out and leave the bits shifted in (R507; log 70). -/
def scanData (levels shifted : BitVec 90) (s : State) : State :=
  if s.tap.ir = 0b00010 ∨ s.tap.ir = 0b00000 then
    { s with tap := { s.tap with cells := shifted } }.emit (.tapScan levels)
  else if s.tap.ir = irIdcode then s.emit (.tapData idcode)
  else s

/-- TEST_ACCESS_PORT_INSTRUCTION (R507). IDCODE puts the code on the port. -/
def execTestAccessPortInstruction (op : TapOp) (s : State) : Res :=
  .next <| match op with
    | .trst => { s with tap := { s.tap with ir := irIdcode } }
    | .scan levels shifted => scanData levels shifted s
    | .instruction code =>
      let ir := tapInstruction s.pwr.tmode code
      let s := { s with tap := { s.tap with ir := ir } }
      if ir = irIdcode then s.emit (.tapData idcode) else s

end Sys2Proof.Machine
end

