-- ==== Sys2Proof/Machine/Results.lean ====
section
/-!
DEFINITION. The results of the regular and the injected sequence (R65 to R70) and their consumers.
-/

namespace Sys2Proof.Machine

/-- What the samples of an entry give (R65): those that are not stale, their sum, whether any had RANGE set or was
taken behind the test DAC, and the slot and the service position of the last. -/
structure Gather where
  fresh : Nat
  sum : Int
  range : Bool
  tdac : Bool
  at_ : Nat
  pos : BitVec 4
  deriving DecidableEq, Repr

/-- A sample joins an entry. -/
def Gather.join (g : Gather) (x : Taken) : Gather :=
  { fresh := if x.conv.stale then g.fresh else g.fresh + 1
    sum := if x.conv.stale then g.sum else g.sum + x.conv.value
    range := g.range || x.conv.range, tdac := g.tdac || x.tdac, at_ := x.stamp, pos := x.pos }

/-- The samples of an entry, oldest first. -/
def gather (xs : List Taken) : Gather :=
  xs.foldl Gather.join { fresh := 0, sum := 0, range := false, tdac := false, at_ := 0, pos := 0 }

/-- The VALUE of an entry (R65): the mean of the samples that are not stale, half a count up, rounded
toward minus infinity. -/
def Gather.value (g : Gather) : Int :=
  if g.fresh = 0 then 0 else (g.sum + (g.fresh / 2 : Nat)) / (g.fresh : Int)

/-- The record of a completed entry. -/
def entryRecord (g : Gather) (c : Nat) (inj : Bool) : BitVec 64 :=
  packRecord (BitVec.ofNat 32 g.at_) g.tdac (g.fresh = 0) g.range inj g.pos.toNat c g.value

/-- The entry of a sequence whose samples all have their records, and they. -/
def entryReady (s : State) (u : FreeUse) (need : Nat → Nat) : Option (Nat × List Taken) :=
  match s.adc.taken.filter fun x => x.use == u with
  | [] => none
  | x :: xs =>
    let ys := (x :: xs).take (need x.item)
    if ys.length = need x.item && ys.all (fun y => decide (y.built ≤ s.clk.slot)) then some (x.item, ys) else none

/-- A list without the first n samples of a use. -/
def dropFirst (u : FreeUse) : Nat → List Taken → List Taken
  | _, [] => []
  | 0, xs => xs
  | n + 1, x :: xs => if x.use == u then dropFirst u n xs else x :: dropFirst u (n + 1) xs

/-! ## The absolute check (R213, R326) -/

/-- A fresh absolute result of a path, of the regular sequence or not: it is kept for R326, and the lane pair
compares a regular one with the path's latest error record (R213). -/
def absFresh (r : Rail) (remote regular : Bool) (at_ : Nat) (v : Int) (s : State) : State :=
  let s := s.upFb r fun f => f.upCheck remote fun c =>
    { c with absLast := some (v, at_), absN := if regular then c.absN + 1 else c.absN }
  let me := s.fb[r].check remote
  let s :=
    match me.last with
    | none => s
    | some e =>
      if !regular || railOff s r || (worksOn s r).isNone then s
      else
        -- in 32 768ths of a nanovolt
        let d := absScaled s.cfg r.val v * 1000 - (deliveredRef s r * 1000 + e.value * 4578) * 32768
        let bad := decide (plausLimit s r * 32768 < (d.natAbs : Int))
        let n := if bad then me.absBad + 1 else 0
        let total := s.fb[r].remote.absN + s.fb[r].local_.absN
        let neg := decide (d < 0)
        let s := s.upFb r fun f => f.upCheck remote fun c =>
          { c with absBad := n, absFail := if n = 4 then some (neg, total) else c.absFail }
        if n ≠ 4 then s
        else match (s.fb[r].check (!remote)).absFail with
          | some o => if o.1 == neg && decide (total - o.2 ≤ 8) then loseReference r 4 s
            else losePath r remote 4 s
          | none => losePath r remote 4 s
  overvoltCheck r s

/-! ## Consumers -/

/-- A fresh result goes to the engine (R105), the ledger and the gauge (R279), and the checks of an
absolute channel. -/
def feedConsumers (c : Nat) (regular : Bool) (at_ : Nat) (v : Int) (s : State) : State :=
  let s := if c = 0x58 then vbusResult v s else s
  let s := feedEnergy c { slot := at_, value := v } s
  if 0x40 ≤ c ∧ c < 0x50 then absFresh (Fin.ofNat 8 (c % 8)) (c < 0x48) regular at_ v s else s

/-- What every completed entry does: event 0x53 where RCHK asks for it, and its consumers. -/
def afterEntry (g : Gather) (c : Nat) (rchk regular : Bool) (s : State) : State :=
  let s := if rchk && g.range then raise 0x53 (srcId 0x3 0x1 0 0 0) 0 s else s
  if g.fresh = 0 then s else feedConsumers c regular g.at_ g.value s

/-- A regular entry completes with its samples. -/
def regularEntry (i : Nat) (xs : List Taken) (s : State) : State :=
  let g := gather xs
  let c := s.cfg.regChan i
  let s := s.upAdc fun a =>
    { a with
      regRes := vput a.regRes (Fin.ofNat 32 i) (entryRecord g c false)
      regWritten := putBit a.regWritten i true, taken := dropFirst .regular xs.length a.taken }
  afterEntry g c (s.cfg.regRchk i) true s

/-- An injected entry completes with its samples; with the last the run ends, and the descriptors that started it
(R68, R69). -/
def injectedEntry (i : Nat) (xs : List Taken) (s : State) : State :=
  let g := gather xs
  let c := s.cfg.injChan i
  let q := s.adc.inj
  let last := decide (s.cfg.injLen ≤ i)
  let rings := if last && hasBit q.src 2 then q.rings else []
  let s := s.upAdc fun a =>
    { a with
      injRes := vput a.injRes (Fin.ofNat 8 i) (entryRecord g c true)
      injWritten := putBit a.injWritten i true, taken := dropFirst .injected xs.length a.taken
      inj := { q with run := !last, rings := if last && hasBit q.src 2 then [] else q.rings } }
  rings.foldl (fun s k => complete k 0 q.runs.toNat s) (afterEntry g c (s.cfg.injRchk i) false s)

/-- A marker at a consumer of a channel's results has a boundary that lies at or before a result: it goes first
(R23). The ledger and the gauge have their channels, the engine channel 0x58, and a rail's lane pair its absolute
channels. -/
def resultBehind (s : State) (c at_ : Nat) : Bool :=
  s.fab.markers.any fun m => (m.bstamp.any fun b => decide (b ≤ at_)) && m.targets.any fun t => match t with
    | .ldg => domOn s pdGau && energyChannel c
    | .engine => c = 0x58
    | .rail r => (c = 0x40 + r.val || c = 0x48 + r.val) && !markerHeld s t m && !m.restamp.contains t
    | _ => false

/-- SEQUENCE_RESULT (R65): the records of an entry's samples have been formed. -/
def execSequenceResult (injected : Bool) (s : State) : Res :=
  let u : FreeUse := if injected then .injected else .regular
  let chan := fun (i : Nat) => if injected then s.cfg.injChan i else s.cfg.regChan i
  .next <|
    if !plannerOn s then s
    else match entryReady s u (if injected then injNeed s.cfg else regNeed s.cfg) with
    | none => s
    | some e =>
      let at_ := (gather e.2).at_
      let s := if domOn s pdGau && energyChannel (chan e.1) then restampBy (fun _ t => t == .ldg) at_ s else s
      if resultBehind s (chan e.1) at_ then s
      else if injected then injectedEntry e.1 e.2 s else regularEntry e.1 e.2 s

end Sys2Proof.Machine
end

