-- ==== Sys2Proof/Machine/Start.lean ====
section
/-!
DEFINITION. Resets, the start sequence, sleep and wake (15): what each reset keeps, the steps 1 to 11, the
entry to sleep, and the wake.
-/

namespace Sys2Proof.Machine

/-! ## What a reset keeps (R479, R480) -/

/-- The time-stamp stops: PD_AO holds the count that it took at the last AO edge, and counts the edges (R481). -/
def stopTime (s : State) : Tmr := { Tmr.reset with mirror := s.tmr.mirror, gap := s.tmr.gap }

/-- Every switched domain is off, and PD_AO holds what it keeps: the time, the always-on comparators, the
straps, the TW0 matcher, the class A latch, RSTC, TMODE and the wake sources. -/
def offState (phase : PwrPhase) (s : State) : State :=
  { State.reset with
    pending := s.pending, freeCount := s.freeCount, out := s.out, tmr := stopTime s, tap := s.tap
    clk := { Clk.reset with rc := s.clk.rc }
    pwr := { Pwr.reset with phase := phase, wake := s.pwr.wake, alarm := s.pwr.alarm
                            wakeDue := s.pwr.wakeDue, tmode := s.pwr.tmode, uvloGood := s.pwr.uvloGood
                            coreGood := s.pwr.coreGood, porWaits := s.pwr.porWaits }
    nvm := { s.nvm.cold with refuse := s.nvm.refuse }
    flt := { Flt.reset with classA := s.flt.classA, rstc := s.flt.rstc }
    cmp := { Cmp.reset with aoLow := s.cmp.aoLow, aoHigh := s.cmp.aoHigh, aoCfg := s.cmp.aoCfg }
    seq := { Seq.reset with en := s.seq.en }
    tw := { Tw.reset with adsel := s.tw.adsel, aoAddr := s.tw.aoAddr, aoEn := s.tw.aoEn
                          wakeMissed := s.tw.wakeMissed
                          quarWas := maskOf 4 fun n => s.tw.ports[n].quar || hasBit s.tw.quarWas n.val } }

/-- VCC33_AO_POR (R479): everything but the NV contents. -/
def execVcc33AoPor (s : State) : Res :=
  let s := cutPage s
  .next { State.reset with
    pending := s.pending, freeCount := s.freeCount, out := s.out
    nvm := s.nvm.cold, seq := { Seq.reset with en := s.seq.en } }

/-- VCC33_POR (R479, R328): the class A latch, RSTC and the controller's refusal clear too. -/
def execVcc33Por (s : State) : Res :=
  let s := offState .por (cutPage s)
  .next { s with
    flt := Flt.reset, nvm := { s.nvm with refuse := false }, tap := State.reset.tap
    pwr := { s.pwr with tmode := false, wake := 0, alarm := 0, wakeDue := false, uvloGood := false, porWaits := false }
    tw := { s.tw with quarWas := 0 } }

/-- SUPPLY_RESET_LEVEL (R494): the switched domains are held in reset. -/
def execSupplyResetLevel (s : State) : Res :=
  let s := s.upPwr fun p => { p with coreGood := false }
  .next (if s.pwr.phase = .por then s
    else (offState .supplyReset s).upPwr fun p => { p with wakeDue := false })

/-! ## Steps 2 to 7 (R481, R482, R483) -/

/-- Step 3: the root PLL locks to XREF or, without it, to the RC fallback. -/
def lockPll (xref : Bool) (s : State) : State :=
  let s := s.upClk fun c => { c with lock := true, xrefOk := xref, refsel := if xref then 0 else 2 }
  if xref then s else raiseClock 1 s

/-- A slice with the trim of the factory region (R419). -/
def trimmed (mem : List Host.Cell) (n : SliceNo) : Slice :=
  let bs := readBytes mem (0x10 + 8 * n.val) 8
  { Slice.reset with ofs := BitVec.ofNat 16 (natAt bs 0 2), gain := BitVec.ofNat 16 (natAt bs 2 2)
                     skew := BitVec.ofNat 7 (natAt bs 4 1) }

/-- Step 4: the factory region, or the default trim (R419, R483). -/
def loadFactory (ecc : EccReport) (s : State) : State :=
  let s := seeWords 0 ecc 0 512 s
  let bs := readBytes s.nvm.mem 0 4096
  if !lostWords ecc 0 512 && (crc32 (bs.take 0xFFC)).toNat = natAt bs 0xFFC 4 then
    s.upAdc fun a => { a with slices := Vector.ofFn (trimmed s.nvm.mem) }
  else raise 0x79 (srcId 0xA 0x0 0 0 0xFFC) codeNvBad s

/-- The write journal at a start (R427). -/
def examineJournal (ecc : EccReport) (s : State) : State :=
  let s := seeWords 0 ecc (0xBC00 / 8) 1 s
  let w := natAt (readBytes s.nvm.mem 0xBC00 8) 0 8
  if lostWord ecc (0xBC00 / 8) || w < 2 ^ 63 then s
  else
    let next := w % 2 ^ 18
    let s := s.upNvm fun n =>
      { n.put 0xBC00 (leBytes 8 0) with torn := BitVec.ofNat 64 (2 ^ 63 + w % 2 ^ 36) }
    raiseAccess 0x7B (nvSrc (next / 8) 0) codeFlushed (nvAccess (w / 2 ^ 36 % 16) 5 next) s

/-- The calibration of a channel from its record, where its 4 bytes lie within the payload (R78). -/
def calFrom (p0 p1 : List Byte) (c : Fin 104) : ChanCal :=
  let p := if c.val < 60 then p0 else p1
  let i := 4 * (if c.val < 60 then c.val else c.val - 60)
  if p.length < i + 4 then { cofs := 0, cgain := 0x8000 }
  else { cofs := BitVec.ofNat 16 (natAt p i 2), cgain := BitVec.ofNat 16 (natAt p (i + 2) 2) }

/-- The payload of a record, or nothing (R434). -/
def payloadOf (ecc : EccReport) (n : Fin 64) (s : State) : List Byte :=
  ((recLook ecc n s).value.map (·.2)).getD []

/-- Step 5: the journal, the records and the fault log; `count` is the eyelet counter of this start. -/
def loadRecords (ecc : EccReport) (count : Option (Fin 64)) (s : State) : State :=
  let s := scanRecords ecc (examineJournal ecc s)
  let s := seeRegion 0 ecc (0xD000 / 8) 4096 s
  let s := s.upFlt fun f => { f with logHead := scanLog s.nvm.mem ecc }
  let classA := payloadOf ecc 12 s
  let s := s.upFlt fun f => { f with prevA := decide (14 ≤ classA.length) && natAt classA 13 1 % 2 = 0 }
  let p0 := payloadOf ecc 0 s
  let p1 := payloadOf ecc 1 s
  let s := s.upAdc fun a => { a with ccal := Vector.ofFn (calFrom p0 p1) }
  let scr := payloadOf ecc 13 s
  let s := if scr.length < 24 then s else s.upNvm fun n =>
    { n with scrNext := Fin.ofNat 4096 (natAt scr 0 2), scrPasses := natAt scr 4 4
             scrWeak := BitVec.ofNat 32 (natAt scr 8 4), scrBad := BitVec.ofNat 32 (natAt scr 12 4)
             scrPassTime := BitVec.ofNat 64 (natAt scr 16 8) }
  match count with
  | some n => countUp n s
  | none => s

/-- The domains on after step 7: the switchable ones where the set-up uses them. -/
def startDomains (g : Setup) : BitVec 14 :=
  maskOf 14 fun d => !hostDomain d.val || setupUses g d.val

/-- A phase that the health record names starts RACKED (R164). -/
def rackFrom (p : List Byte) (h : Phase) (x : Phasor) : Phasor :=
  let b := natAt p h.val 1
  if b < 128 then x else { x with state := .racked, rkcause := BitVec.ofNat 3 b }

/-- Step 7: the other domains come on and every block takes the set-up that has become live. -/
def enterSetup (ecc : EccReport) (s : State) : State :=
  let s := s.upHif fun _ => Hif.reset
  let s := s.upPwr fun p => { p with on := startDomains s.cfg ||| s.pwr.on }
  let s := refreshAll (followTwAll (followPorts (replan s)))
  let health := payloadOf ecc 8 s
  let s := if s.cfg.rkpersist then s.each (fins 48) fun h => State.upPhase h (rackFrom health h) else s
  if domOn s pdGau then gaugeBoot ecc s else s

/-- Steps 2 to 7, up to the self-test. A controller that refuses every access until POR (R426) gives the
loader nothing. The time-stamp already runs where TW0 has begun the wake (R482), and a quarantine that the reset has
ended is reported (R469). -/
def startUp (xref : Bool) (ecc : EccReport) (count : Option (Fin 64)) (s : State) : State :=
  let array := s.nvm
  let shut := s.nvm.refuse
  let running := s.pwr.phase == .waking
  let ended := s.tw.quarWas
  let ecc := if shut then [] else s.nvm.report ecc
  let s := if shut then s.upNvm fun n => { n with mem := [], dead := [] } else s
  let s := (s.upPwr fun p =>
    { p with on := putBit (putBit p.on pdFab true) pdNvm true, phase := .selfTest, wake := 0, alarm := 0
             wakeDue := false }).upTw fun t => { t with quarWas := 0 }
  let s := if running then s else resumeTime s
  let s := s.each ((fins 4).filter fun n => hasBit ended n.val) fun n => raiseTw n 5 5 0 0
  let s := loadRecords ecc count (loadFactory ecc (lockPll xref s))
  let s := enterSetup ecc (loadSlots ecc s)
  if shut then s.upNvm fun n => { n with mem := array.mem, dead := array.dead } else s

/-- The start of a POR leaves step 1: every supply stands above its rising threshold, that of the UVLO included
(R494, R495; log 69). -/
def leaveStepOne (xref : Bool) (ecc : EccReport) (s : State) : State :=
  startUp xref ecc (some 6) (s.upPwr fun p => { p with uvloGood := true, porWaits := false })

/-- POR_RELEASE (R482, R450, R494, R508): step 1 and, unless TMODE is high, the start as soon as VDDA18 and VDD08 stand
too. -/
def execPorRelease (seen : StartSeen) (ecc : EccReport) (s : State) : Res :=
  .next <|
    if s.pwr.phase ≠ .por || s.pwr.tmode then s
    else
      let s := s.upTw fun t => { t with adsel := seen.adsel }
      if seen.tmode then s.upPwr fun p => { p with tmode := true }
      else if s.pwr.coreGood then leaveStepOne seen.xref ecc s
      else s.upPwr fun p => { p with phase := .supplyReset, porWaits := true }

/-- SUPPLY_RETURN (R494): VDDA18 and VDD08 stand above their rising thresholds, and the start resumes at step 2, or
leaves step 1 where it waited for them there. -/
def execSupplyReturn (seen : StartSeen) (ecc : EccReport) (s : State) : Res :=
  let s := s.upPwr fun p => { p with coreGood := true }
  .next (if s.pwr.phase ≠ .supplyReset then s
    else if s.pwr.porWaits then leaveStepOne seen.xref ecc s else startUp seen.xref ecc none s)

/-- CHIP_RESET (R480, R335, R259): the take-down of a reaction has ended. -/
def execChipReset (seen : StartSeen) (ecc : EccReport) (s : State) : Res :=
  .next <|
    if !domOn s pdFab || !(s.pwr.resetDue || s.seq.sysrst) || !(usedRails s.cfg).all fun i => isDown (railState s i) then s
    else startUp seen.xref ecc (some 7) (offState .supplyReset (flushLog s))

/-! ## Step 8: the self-test (R484) -/

/-- The lane pairs that fail their built-in self-test. -/
def testPairs (fail : BitVec 4) (s : State) : State :=
  s.each ((fins 4).filter fun p => hasBit fail p.val && domOn s (pairDom p)) pairFails

/-- The slices after their absolute calibration: those that pass serve in slice order and the next is in
steep; positions without a slice are masked from the highest. -/
def testSlices (cals : List AbsCal) (s : State) : State :=
  let res := fun (n : SliceNo) => if domOn s (sliceDom n) then (cals[n.val]?).bind (absResult s.adc.ccal[0x63]) else none
  let good := (fins 17).filter fun n => (res n).isSome
  let put := fun (s : State) (n : SliceNo) =>
    match res n with
    | some r => s.upSlice n fun a =>
        { a with state := if good.idxOf n < 16 then .service else .steep, ofs := r.1, gain := r.2
                 calAt := s.clk.slot, calOk := true }
    | none =>
      if domOn s (sliceDom n) then
        raise 0x50 (sliceSrc n) 0 (s.upSlice n fun a => { a with state := .failed })
      else s
  let s := (fins 17).foldl put s
  let s := s.upAdc fun a =>
    { a with slotmap := Vector.ofFn fun p => good.getD p.val (Fin.ofNat 17 p.val)
             mask := maskOf 16 fun p => decide (good.length ≤ p.val), rotAt := s.clk.slot }
  match good[16]? with
  | some n => s.upAdc fun a => { a with tour := some (newTour s n) }
  | none => s

/-- One window that fails a stage of the proof cycle of the self-test, where a steep window finds it out (R238, R245). -/
def testWindow (w : Window) (stage : Fin 9) (elem : Fin 5) (s : State) : State :=
  match (steepLeft s).head?, stageFailure stage elem with
  | some n, some f => if 76 ≤ w.val || proofSkips s w then s
    else windowFails { win := w, steep := n, stage := 0, since := s.clk.slot } f.1 f.2 s
  | _, _ => s

/-- The windows' proof cycle with the self-check of each steep window. -/
def testWindows (fails : List (Window × Fin 9 × Fin 5)) (steep : BitVec 4) (s : State) : State :=
  let s := s.each ((fins 4).filter fun n => hasBit steep n.val) fun n s =>
    raise 0x56 (winSrc (76 + n.val) 0 1) 0 (s.upWin (steepWin n) fun x => { x with failed := true })
  let s := s.each fails fun f => testWindow f.1 f.2.1 f.2.2
  if (steepLeft s).isEmpty then raiseNoSteep s else s

/-- The heel loops whose two test pulses fail. -/
def testHeels (fail : BitVec 8) (s : State) : State :=
  s.each ((fins 8).filter fun r => hasBit fail r.val && s.cfg.hen r.val) fun r s =>
    heelChange (heelAvail s r) r 0 1 (s.upFb r fun f => { f with badPulses := 2 })

/-- SELF_TEST_DONE (R484, R485): the start halts, or the wait begins. -/
def execSelfTestDone (t : SelfTest) (s : State) : Res :=
  .next <|
    if s.pwr.phase ≠ .selfTest then s
    else
      let s := testSlices t.cals (testPairs t.pairFail s)
      let s := testHeels t.heelFail (testWindows t.windowFail t.steepFail s)
      let s := restartSequences s
      if startHalts s then s.upPwr fun p => { p with phase := .halted, haltA := haltsByA s, haltR := haltsByRstc s }
      else beginWait s

/-! ## Step 11: start-complete (R486) -/

/-- A used rail is where start-complete wants it. -/
def railSettled (s : State) (i : SeqIdx) : Bool :=
  match railState s i with
  | .on => true
  | .off => true
  | .failed => true
  | .blocked => true
  | .hold => true
  | .wait => (fins 16).any fun p => (s.cfg.deps i.val).contains p.val && !groupReq s p
  | _ => false

/-- START_COMPLETE (R486, R338, R335, R396). -/
def execStartComplete (s : State) : Res :=
  .next <|
    if s.pwr.phase ≠ .sequencing || ((fins 8).any fun j => s.seq.groups[j].req && s.seq.groups[j].retrying) ||
        !(usedRails s.cfg).all (railSettled s) then s
    else
      let s := s.upPwr fun p => { p with phase := .run }
      let s := leaveEscalation (s.upFlt fun f => { f with starting := false, rstc := 0 })
      if s.regs.autolock then setLock s else s

/-! ## Sleep (R487, R488) -/

/-- The checks of R487. -/
def sleepCheck (s : State) (wake alarm : Nat) : Option Nat :=
  firstBad [
    (wake = 0, codeRange),
    ((wake % 2 = 1) != (alarm ≠ 0) || (Nat.testBit wake 1 && !(List.range 3).any fun k =>
        s.cfg.aoEn k && s.cfg.aoWake k ≠ 0) || (Nat.testBit wake 3 && !s.cfg.twEn 0), codeInconsistent),
    (s.pwr.sleep.isSome, codeBusy)]

/-- SLEEP (R487, R488): step 1. -/
def execSleep (q : Ring) (s : State) : Res :=
  .next <| match ready s q 0x02 with
  | none => s
  | some d =>
    let wake := d.pf 0 5
    let alarm := d.pf 32 32
    match sleepCheck s wake alarm with
    | some c => complete q c 0 s
    | none =>
      let s := act_ q (s.each (fins 8) requestOff)
      seqRest (s.upPwr fun p =>
        { p with enIgnored := true
                 sleep := some { ring := q, wake := BitVec.ofNat 5 wake, alarm := BitVec.ofNat 32 alarm
                                 kept := false } })

/-- Every used rail is OFF, FAILED or BLOCKED. -/
def railsDown (s : State) : Bool := (usedRails s.cfg).all fun i => isDown (railState s i)

/-- SLEEP_TIMEOUT (R488): RXTO ms have passed since the acceptance. -/
def execSleepTimeout (s : State) : Res :=
  .next <| match s.pwr.sleep with
  | none => s
  | some j =>
    if railsDown s then s
    else complete j.ring codeTimeout 0 (s.upPwr fun p => { p with sleep := none })

/-- A commit that the device has asked for. -/
def isCommit (r : NvReq) : Bool := match r.work with
  | .recCommit _ _ _ _ _ => r.ring.isNone
  | .counter _ => r.ring.isNone
  | _ => false

/-- The device's commits run to their end; what else waits is dropped with its domain. -/
def runCommits : Nat → State → State
  | 0, s => s
  | n + 1, s => match pickReq s.nvm.queue with
    | none => s
    | some x => runCommits n (pageOperation (s.nvm.report []) x.1 (s.upNvm fun m => { m with queue := x.2 }))

/-- Step 3's writes to the NV store. -/
def sleepRecords (s : State) : State :=
  let s := if domOn s pdGau then commitGauge s else s
  let s := flushLog (recordCommit 13 (scrubRecord s.nvm) s)
  if nvShut s then s
  else runCommits 256 (s.upNvm fun n => { n with queue := n.queue.filter isCommit })

/-- Steps 3 to 6. -/
def goToSleep (j : SleepJob) (s : State) : State :=
  let s := s.each (fins 16) flushFetched
  let s := waitEdge (sleepRecords s)
  let s := complete j.ring 0 (timeNow s).toNat s
  let s := s.each (fins 16) postHeld
  (offState .asleep s).upPwr fun p => { p with wake := j.wake, alarm := j.alarm, wakeDue := j.kept }

/-- SLEEP_ENTRY (R488). -/
def execSleepEntry (s : State) : Res :=
  .next <| match s.pwr.sleep with
  | none => s
  | some j => if domOn s pdHif && railsDown s then goToSleep j s else s

/-! ## Wake (R490, R491, R472) -/

/-- The WAKE bit of a source. -/
def wakeBit : WakeSource → Nat
  | .alarm => 0 | .alwaysOn => 1 | .waken => 2 | .tw0 => 3 | .perstn => 4

/-- The source's condition, as far as PD_AO holds it. -/
def wakeFires (s : State) (src : WakeSource) : Bool :=
  s.pwr.wakeDue || match src with
    | .alarm => decide (s.pwr.alarm.toNat ≤ s.tmr.gap)
    | .alwaysOn => false
    | .waken => true
    | .tw0 => false
    | .perstn => true

/-- A waking transaction that PD_AO had to give up (R472). -/
def wakeMissed (s : State) : State :=
  if s.tw.wakeMissed then raiseTw 0 7 4 0 0 (s.upTw fun t => { t with wakeMissed := false }) else s

/-- WAKE (R490, R491). WAKEN and PERSTN conditions that arise while the rails are falling are kept. For a TW0 wake
PD_TW comes on with PD_FAB (R482), and the start goes on from step 2a where TW0 has begun it. -/
def execWake (src : WakeSource) (seen : StartSeen) (ecc : EccReport) (s : State) : Res :=
  .next <|
    if s.pwr.phase = .asleep then
      if hasBit s.pwr.wake (wakeBit src) && wakeFires s src then
        wakeMissed (startUp seen.xref ecc none (if src = .tw0 then s.upPwr fun p => { p with on := putBit p.on pdTw true } else s))
      else s
    else if s.pwr.phase = .waking then (if src = .tw0 then startUp seen.xref ecc none s else s)
    else if src = .waken ∨ src = .perstn then
      s.upPwr fun p => { p with sleep := p.sleep.map (keepWake (wakeBit src)) }
    else s

end Sys2Proof.Machine
end

