-- ==== Sys2Proof/Machine/Dispatch.lean ====
section
/-!
DEFINITION. The meaning of each command: one arm for each row of spec/opcode_table.json.
-/

namespace Sys2Proof.Machine

def exec (i : Instr) (s : State) : Host.Outcome State Fault Refusal :=
  match i with
  | .nop q => Sys2Proof.Machine.execNop q s
  | .start q => Sys2Proof.Machine.execStart q s
  | .sleep q => Sys2Proof.Machine.execSleep q s
  | .sleepEntry => Sys2Proof.Machine.execSleepEntry s
  | .sleepTimeout => Sys2Proof.Machine.execSleepTimeout s
  | .domain q => Sys2Proof.Machine.execDomain q s
  | .pwrDcmd m v => Sys2Proof.Machine.execPwrDcmd m v s
  | .adcSeqLoad q buf => Sys2Proof.Machine.execAdcSeqLoad q buf s
  | .adcInject q => Sys2Proof.Machine.execAdcInject q s
  | .calZero q => Sys2Proof.Machine.execCalZero q s
  | .calFull q => Sys2Proof.Machine.execCalFull q s
  | .calMeasurementDone => Sys2Proof.Machine.execCalMeasurementDone s
  | .adcPathTest q => Sys2Proof.Machine.execAdcPathTest q s
  | .pathTestDone => Sys2Proof.Machine.execPathTestDone s
  | .sliceAdmit q => Sys2Proof.Machine.execSliceAdmit q s
  | .engBankLoad q buf => Sys2Proof.Machine.execEngBankLoad q buf s
  | .engBankSwap q => Sys2Proof.Machine.execEngBankSwap q s
  | .engLastLoad q buf => Sys2Proof.Machine.execEngLastLoad q buf s
  | .engAssign q => Sys2Proof.Machine.execEngAssign q s
  | .phasePlan q buf => Sys2Proof.Machine.execPhasePlan q buf s
  | .phaseAdmit q csHigh => Sys2Proof.Machine.execPhaseAdmit q csHigh s
  | .phaseAdmitOffsetDone h => Sys2Proof.Machine.execPhaseAdmitOffsetDone h s
  | .phaseAdmitRampEnd h => Sys2Proof.Machine.execPhaseAdmitRampEnd h s
  | .prnSet q buf => Sys2Proof.Machine.execPrnSet q buf s
  | .cmpSet q buf => Sys2Proof.Machine.execCmpSet q buf s
  | .seqSet q buf => Sys2Proof.Machine.execSeqSet q buf s
  | .seqGroup q => Sys2Proof.Machine.execSeqGroup q s
  | .seqGcmd m v => Sys2Proof.Machine.execSeqGcmd m v s
  | .seqMargin q => Sys2Proof.Machine.execSeqMargin q s
  | .seqMcmd m v => Sys2Proof.Machine.execSeqMcmd m v s
  | .seqRelease q => Sys2Proof.Machine.execSeqRelease q s
  | .ldgSet q buf => Sys2Proof.Machine.execLdgSet q buf s
  | .chargerDone q => Sys2Proof.Machine.execChargerDone q s
  | .captestArm q => Sys2Proof.Machine.execCaptestArm q s
  | .captestDisarm q => Sys2Proof.Machine.execCaptestDisarm q s
  | .fltAck q => Sys2Proof.Machine.execFltAck q s
  | .fltMode q => Sys2Proof.Machine.execFltMode q s
  | .fltInject q => Sys2Proof.Machine.execFltInject q s
  | .fltSet q buf => Sys2Proof.Machine.execFltSet q buf s
  | .nvRead q => Sys2Proof.Machine.execNvRead q s
  | .nvWrite q buf => Sys2Proof.Machine.execNvWrite q buf s
  | .recRead q => Sys2Proof.Machine.execRecRead q s
  | .recCommit q buf => Sys2Proof.Machine.execRecCommit q buf s
  | .cntInc q => Sys2Proof.Machine.execCntInc q s
  | .cntRead q ecc => Sys2Proof.Machine.execCntRead q ecc s
  | .twXfer q buf => Sys2Proof.Machine.execTwXfer q buf s
  | .twClear q => Sys2Proof.Machine.execTwClear q s
  | .imgWrite q buf => Sys2Proof.Machine.execImgWrite q buf s
  | .ringSetStop q => Sys2Proof.Machine.execRingSetStop q s
  | .ringSetStart q => Sys2Proof.Machine.execRingSetStart q s
  | .descriptorFetch q entries => Sys2Proof.Machine.execDescriptorFetch q entries s
  | .completionPost c => Sys2Proof.Machine.execCompletionPost c s
  | .cqCoalescingTimeout c => Sys2Proof.Machine.execCqCoalescingTimeout c s
  | .doorbellPoll page => Sys2Proof.Machine.execDoorbellPoll page s
  | .kickWrite off v => Sys2Proof.Machine.execKickWrite off v s
  | .hostMemoryAccessFailed a => Sys2Proof.Machine.execHostMemoryAccessFailed a s
  | .hifBlockReset cause => Sys2Proof.Machine.execHifBlockReset cause s
  | .adcCommit m v => Sys2Proof.Machine.execAdcCommit m v s
  | .engCommit m v => Sys2Proof.Machine.execEngCommit m v s
  | .pwmCommit m v => Sys2Proof.Machine.execPwmCommit m v s
  | .cmpCommit m v => Sys2Proof.Machine.execCmpCommit m v s
  | .seqCommit m v => Sys2Proof.Machine.execSeqCommit m v s
  | .prnCommit m v => Sys2Proof.Machine.execPrnCommit m v s
  | .ldgCommit m v => Sys2Proof.Machine.execLdgCommit m v s
  | .fltCommit m v => Sys2Proof.Machine.execFltCommit m v s
  | .nvmCommit m v => Sys2Proof.Machine.execNvmCommit m v s
  | .twCommit m v => Sys2Proof.Machine.execTwCommit m v s
  | .engSwapBanks m v => Sys2Proof.Machine.execEngSwapBanks m v s
  | .engSwapLastTables m v => Sys2Proof.Machine.execEngSwapLastTables m v s
  | .engBankWordWrite m off v => Sys2Proof.Machine.execEngBankWordWrite m off v s
  | .engLtldWrite m off v => Sys2Proof.Machine.execEngLtldWrite m off v s
  | .hifSetupLock m v => Sys2Proof.Machine.execHifSetupLock m v s
  | .tmrSet m v => Sys2Proof.Machine.execTmrSet m v s
  | .tmrSetApply => Sys2Proof.Machine.execTmrSetApply s
  | .fltFclr m v => Sys2Proof.Machine.execFltFclr m v s
  | .fltPendClear m k v => Sys2Proof.Machine.execFltPendClear m k v s
  | .cmpLatchClear m k v => Sys2Proof.Machine.execCmpLatchClear m k v s
  | .shutoffClear m v => Sys2Proof.Machine.execShutoffClear m v s
  | .ringRegisterWrite m off v => Sys2Proof.Machine.execRingRegisterWrite m off v s
  | .registerWrite m off v width => Sys2Proof.Machine.execRegisterWrite m off v width s
  | .holdingRegisterRead m off => Sys2Proof.Machine.execHoldingRegisterRead m off s
  | .twTargetWrite p seen => Sys2Proof.Machine.execTwTargetWrite p seen s
  | .twTargetRead p n => Sys2Proof.Machine.execTwTargetRead p n s
  | .twTargetInterrupted p read bytes => Sys2Proof.Machine.execTwTargetInterrupted p read bytes s
  | .twClockLowTimeout p seen => Sys2Proof.Machine.execTwClockLowTimeout p seen s
  | .twWaitLimit p phase byte => Sys2Proof.Machine.execTwWaitLimit p phase byte s
  | .twArbitrationLost p bit phase byte => Sys2Proof.Machine.execTwArbitrationLost p bit phase byte s
  | .twBusFree p clear => Sys2Proof.Machine.execTwBusFree p clear s
  | .twBusStuck p sda clear => Sys2Proof.Machine.execTwBusStuck p sda clear s
  | .twTransferEnd p e => Sys2Proof.Machine.execTwTransferEnd p e s
  | .twBlockReset p sclLow clear => Sys2Proof.Machine.execTwBlockReset p sclLow clear s
  | .twResetPulseEnd p sclLow clear => Sys2Proof.Machine.execTwResetPulseEnd p sclLow clear s
  | .tw0WakeMatch address inTime => Sys2Proof.Machine.execTw0WakeMatch address inTime s
  | .setpoint p frame => Sys2Proof.Machine.execSetpoint p frame s
  | .forecast p frame => Sys2Proof.Machine.execForecast p frame s
  | .state p frame => Sys2Proof.Machine.execState p frame s
  | .query p frame => Sys2Proof.Machine.execQuery p frame s
  | .heartbeat p frame => Sys2Proof.Machine.execHeartbeat p frame s
  | .frameCheckFailed p frame => Sys2Proof.Machine.execFrameCheckFailed p frame s
  | .frameStall p clock => Sys2Proof.Machine.execFrameStall p clock s
  | .heartbeatLost p => Sys2Proof.Machine.execHeartbeatLost p s
  | .prnPortReset p => Sys2Proof.Machine.execPrnPortReset p s
  | .slewLimiterTick => Sys2Proof.Machine.execSlewLimiterTick s
  | .conversionSlot code flagged => Sys2Proof.Machine.execConversionSlot code flagged s
  | .loopLaneSkip => Sys2Proof.Machine.execLoopLaneSkip s
  | .errorSample r hdr seen => Sys2Proof.Machine.execErrorSample r hdr seen s
  | .currentSample h hdr seen => Sys2Proof.Machine.execCurrentSample h hdr seen s
  | .sequenceResult injected => Sys2Proof.Machine.execSequenceResult injected s
  | .regularRoundStart => Sys2Proof.Machine.execRegularRoundStart s
  | .injectedTrigger => Sys2Proof.Machine.execInjectedTrigger s
  | .duty r hdrs => Sys2Proof.Machine.execDuty r hdrs s
  | .marker at_ pkt => Sys2Proof.Machine.execMarker at_ pkt s
  | .steepAbsoluteCalibrationDone sl cal => Sys2Proof.Machine.execSteepAbsoluteCalibrationDone sl cal s
  | .shadowWindowEnd w => Sys2Proof.Machine.execShadowWindowEnd w s
  | .rotation => Sys2Proof.Machine.execRotation s
  | .sliceFail sl => Sys2Proof.Machine.execSliceFail sl s
  | .vbusStale r => Sys2Proof.Machine.execVbusStale r s
  | .forecastMissCheck r => Sys2Proof.Machine.execForecastMissCheck r s
  | .forecastSuspendEnd r => Sys2Proof.Machine.execForecastSuspendEnd r s
  | .checkpoint p hdrs badCrc => Sys2Proof.Machine.execCheckpoint p hdrs badCrc s
  | .lockstepMismatch p cycle => Sys2Proof.Machine.execLockstepMismatch p cycle s
  | .lanePairRestore p passed => Sys2Proof.Machine.execLanePairRestore p passed s
  | .trackEnd r => Sys2Proof.Machine.execTrackEnd r s
  | .carrierPeriodStart h => Sys2Proof.Machine.execCarrierPeriodStart h s
  | .stageFault h => Sys2Proof.Machine.execStageFault h s
  | .comparatorTransition w high notGood => Sys2Proof.Machine.execComparatorTransition w high notGood s
  | .heelBlankExpiry r => Sys2Proof.Machine.execHeelBlankExpiry r s
  | .heelOnTimeEnd r h inTolerance => Sys2Proof.Machine.execHeelOnTimeEnd r h inTolerance s
  | .heelTestPulse r inTolerance => Sys2Proof.Machine.execHeelTestPulse r inTolerance s
  | .heelStall r ceiling => Sys2Proof.Machine.execHeelStall r ceiling s
  | .adjudicationDone r ballRemote ballLocal => Sys2Proof.Machine.execAdjudicationDone r ballRemote ballLocal s
  | .proofCycleStart => Sys2Proof.Machine.execProofCycleStart s
  | .proofTestStageEnd seen => Sys2Proof.Machine.execProofTestStageEnd seen s
  | .aoComparatorChange k high notGood => Sys2Proof.Machine.execAoComparatorChange k high notGood s
  | .enPinChange level => Sys2Proof.Machine.execEnPinChange level s
  | .onDelayEnd k => Sys2Proof.Machine.execOnDelayEnd k s
  | .rampTimeEnd k => Sys2Proof.Machine.execRampTimeEnd k s
  | .powerGoodChange k good => Sys2Proof.Machine.execPowerGoodChange k good s
  | .powerGoodTimeout k => Sys2Proof.Machine.execPowerGoodTimeout k s
  | .discharged k => Sys2Proof.Machine.execDischarged k s
  | .dischargeTimeout k => Sys2Proof.Machine.execDischargeTimeout k s
  | .retryDelayEnd who => Sys2Proof.Machine.execRetryDelayEnd who s
  | .retryCountReset who => Sys2Proof.Machine.execRetryCountReset who s
  | .reactionTimeout => Sys2Proof.Machine.execReactionTimeout s
  | .seqCoreMismatch => Sys2Proof.Machine.execSeqCoreMismatch s
  | .inputReturnQualified => Sys2Proof.Machine.execInputReturnQualified s
  | .inputLoss => Sys2Proof.Machine.execInputLoss s
  | .ledgerUpdate => Sys2Proof.Machine.execLedgerUpdate s
  | .channelStale gauge => Sys2Proof.Machine.execChannelStale gauge s
  | .ldgGauBlockReset gauge => Sys2Proof.Machine.execLdgGauBlockReset gauge s
  | .escalationTimeout => Sys2Proof.Machine.execEscalationTimeout s
  | .logEntryWrite => Sys2Proof.Machine.execLogEntryWrite s
  | .nvPageOperation ecc => Sys2Proof.Machine.execNvPageOperation ecc s
  | .scrubInterval => Sys2Proof.Machine.execScrubInterval s
  | .nvBlockReset => Sys2Proof.Machine.execNvBlockReset s
  | .vcc33Uvlo => Sys2Proof.Machine.execVcc33Uvlo s
  | .xrefLoss => Sys2Proof.Machine.execXrefLoss s
  | .pllHoldExpiry => Sys2Proof.Machine.execPllHoldExpiry s
  | .xrefReturn => Sys2Proof.Machine.execXrefReturn s
  | .pllLockLoss => Sys2Proof.Machine.execPllLockLoss s
  | .supTherm cause dom => Sys2Proof.Machine.execSupTherm cause dom s
  | .vcc33AoPor => Sys2Proof.Machine.execVcc33AoPor s
  | .vcc33Por => Sys2Proof.Machine.execVcc33Por s
  | .supplyResetLevel => Sys2Proof.Machine.execSupplyResetLevel s
  | .porRelease seen ecc => Sys2Proof.Machine.execPorRelease seen ecc s
  | .chipReset seen ecc => Sys2Proof.Machine.execChipReset seen ecc s
  | .selfTestDone t => Sys2Proof.Machine.execSelfTestDone t s
  | .startComplete => Sys2Proof.Machine.execStartComplete s
  | .wake src seen ecc => Sys2Proof.Machine.execWake src seen ecc s
  | .pllRelock => Sys2Proof.Machine.execPllRelock s
  | .supplyReturn seen ecc => Sys2Proof.Machine.execSupplyReturn seen ecc s
  | .pcieConfigurationWrite w => Sys2Proof.Machine.execPcieConfigurationWrite w s
  | .msixTableWrite vec dword v => Sys2Proof.Machine.execMsixTableWrite vec dword v s
  | .pcieUncorrectableError => Sys2Proof.Machine.execPcieUncorrectableError s
  | .testAccessPortInstruction op => Sys2Proof.Machine.execTestAccessPortInstruction op s

end Sys2Proof.Machine
end

