-- ==== Sys2Proof/Safety.lean ====
section
/-!
DEFINITION. What counts as a safe run: every step answers a next state, the NV array keeps its canonical
form, and boundary scan never moves a ball of a part in service (R508).
-/

namespace Sys2Proof.Machine

/-- A command runs: it neither faults nor is refused. -/
def Runs (c : Instr) (s : State) : Prop := ∃ t, exec c s = .next t

/-- The NV array as the model writes it: rising addresses, no zero byte listed. -/
def memoryOk (s : State) : Bool := Memory.wf s.nvm.mem

/-- The instruction register of the test access port holds one that R507 names and that acts. -/
def tapOk (s : State) : Bool :=
  s.tap.ir == 0b11111 || s.tap.ir == 0b00001 || s.tap.ir == 0b00010 ||
    (s.pwr.tmode && (s.tap.ir == 0b00000 || s.tap.ir == 0b00100 || s.tap.ir == 0b00101))

/-- With TMODE high at POR the start has stayed at step 1 and no switched domain is powered (R508). -/
def testModeOk (s : State) : Bool := !s.pwr.tmode || (s.pwr.phase == .por && s.pwr.on == 1)

/-- At step 1 of the start only PD_AO is on (R390, R482). -/
def stepOneOk (s : State) : Bool := s.pwr.phase != .por || s.pwr.on == 1

/-- A safe state. -/
def Safe (s : State) : Prop :=
  memoryOk s = true ∧ tapOk s = true ∧ testModeOk s = true ∧ stepOneOk s = true

end Sys2Proof.Machine
end

