-- ==== Sys2Proof/Claims.lean ====
section
/-!
DEFINITION. The words in which the statements speak: how a descriptor ends, when a register write passes
to its register or is rejected, how a change joins the stream of markers, and what an event leaves alone.
-/

namespace Sys2Proof.Machine

/-- The descriptor in execution on ring q ends (R363, R371, R372): its completion, with this STATUS and a
RESULT only under 0x0000 and 0x010F and with the host data that goes out before it (R365), waits on the ring's
completion ring, the ring has no descriptor in execution, and nothing else changes between s and t. -/
def EndsWith (q : Ring) (status result : Nat) (data : List Byte) (s t : State) : Prop :=
  ∃ e, s.hif.sq[q].exec = some e ∧
    t.hif.sq[q] =
      { s.hif.sq[q] with
        exec := none, posting := true, doneN := s.hif.sq[q].doneN + 1
        hist := if status = codeTag then s.hif.sq[q].hist else pushTag s.hif.sq[q].hist e.desc.tag } ∧
    t.hif.cq[s.hif.sq[q].cq] =
      { s.hif.cq[s.hif.sq[q].cq] with
        held := s.hif.cq[s.hif.sq[q].cq].held ++
          [{ result := if status = 0 ∨ status = codeClamped then BitVec.ofNat 64 result else 0
             tag := e.desc.tag, status := BitVec.ofNat 16 status, sq := q, ofDesc := true
             dataAt := e.desc.dataWritten, data := data }] } ∧
    (∀ k, k ≠ q → t.hif.sq[k] = s.hif.sq[k]) ∧
    (∀ c, c ≠ s.hif.sq[q].cq → t.hif.cq[c] = s.hif.cq[c]) ∧
    t = { s with hif := { s.hif with sq := t.hif.sq, cq := t.hif.cq } }

/-- The descriptor in execution on ring q ends without host data. -/
def Ends (q : Ring) (status result : Nat) (s t : State) : Prop := EndsWith q status result [] s t

/-- The descriptor in execution on ring q has passed its checks, or its point of no return (R376), and
waits for its end; nothing else changes between s and t. -/
def Waits (q : Ring) (acted : Bool) (s t : State) : Prop :=
  ∃ e, s.hif.sq[q].exec = some e ∧
    t.hif.sq[q] = { s.hif.sq[q] with exec := some { e with decided := true, acted := e.acted || acted } } ∧
    (∀ k, k ≠ q → t.hif.sq[k] = s.hif.sq[k]) ∧ t = { s with hif := { s.hif with sq := t.hif.sq } }

/-- A write reaches the registers (R399, R472): the fabric is on with an image loaded, and the master is
the host or the port TW0. -/
def WritesPass (m : Master) (s : State) : Prop :=
  domOn s pdFab = true ∧ (m = .host ∨ m = .tw0) ∧ s.pwr.phase ≠ .por ∧ s.pwr.phase ≠ .supplyReset ∧
    s.pwr.phase ≠ .asleep ∧ s.pwr.phase ≠ .waking

/-- A slice's tour but for the slot that its calibration counts from, which a pause moves (R83, R240). -/
def SameTour (a b : Option Tour) : Prop :=
  (b.map fun t => { t with startSlot := 0 }) = a.map fun t => { t with startSlot := 0 }

/-- What neither an event nor its reactions change (R320 to R345): the clocks, the time, the register file, the
fabric, the converter array but the rails' sample counts and the pause of a calibration (R240), the gauge, the
two-wire ports, the comparators but the windows in use and the use of the steep windows, the NV array and the queue of
commands. -/
def Quiet (s t : State) : Prop :=
  t.pending = s.pending ∧ t.freeCount = s.freeCount ∧ t.clk = s.clk ∧ t.tmr = s.tmr ∧ t.regs = s.regs ∧
    t.fab = s.fab ∧
    t.adc = { s.adc with errCount := t.adc.errCount, tour := t.adc.tour, pitch := t.adc.pitch } ∧
    SameTour s.adc.tour t.adc.tour ∧ SameTour s.adc.pitch t.adc.pitch ∧ t.gau = s.gau ∧ t.tw = s.tw ∧
    t.cmp = { s.cmp with win := t.cmp.win, steep := t.cmp.steep, proof := t.cmp.proof, cycle := t.cmp.cycle
                         left := t.cmp.left, adjWait := t.cmp.adjWait } ∧ t.nvm.mem = s.nvm.mem ∧
    t.tap = s.tap

/-- Event e has been raised (R320): its pending bit reads 1, and nothing outside its reactions changed
between s and t. The collector lies in PD_FAB, and without that domain nothing happens (R31). -/
def Raised (e : Nat) (s t : State) : Prop :=
  if domOn s pdFab = true then hasBit t.flt.pend e = true ∧ Quiet s t else t = s

/-- The windows of R519 let one raise of an event's cause and unit pass per 1 ms: it is raised where that
window is closed, and otherwise nothing happens. -/
def RaisedOnce (e cause unit : Nat) (s t : State) : Prop :=
  if windowClosed e cause unit s = true then Raised e s t else t = s

/-- Port p has answered a frame (R178): its response leaves, with the request's SEQ, this STATUS and GRANT,
MRG of the rail, AP while an alert waits and the CRC of R177, and nothing else changes. -/
def Answered (p : Port) (f : BitVec 64) (status grant : Nat) (s t : State) : Prop :=
  ∃ w : BitVec 32, t = (s.upPort p fun q => { q with resp := some w }).emit (.prnResponse p (w.setWidth 64)) ∧
    (w.extractLsb' 26 6).toNat = frmSeq f ∧ (w.extractLsb' 21 5).toNat = status % 32 ∧
    w.getLsbD 20 = s.prn.rails[frmRail f].mrg ∧ w.getLsbD 19 = decide (s.prn.ports[p].alert ≠ 0) ∧
    (w.extractLsb' 8 11).toNat = grant % 2048 ∧
    w.extractLsb' 0 8 = crc8 (bitsHighFirst 24 (w.toNat / 256))

/-- Port p has consumed a frame (R183, R184) and kept it for a replay. -/
def Consumed (p : Port) (f : BitVec 64) (status grant : Nat) (s : State) : State :=
  s.upPort p fun q =>
    { q with
      eseq := BitVec.ofNat 6 (frmSeq f + 1), frames := q.frames + 1
      last := some { content := frmBody f, seq := BitVec.ofNat 6 (frmSeq f), status := BitVec.ofNat 5 status
                     grant := BitVec.ofNat 11 grant, rail := frmRail f } }

/-- A register write to an offset of BAR0 is rejected with a code (R379): HIF_SETUP_ERR and its count name
it, its master is held, event 0x69 is raised, and no block takes anything from it. -/
def Rejected (m : Master) (off code : Nat) (s t : State) : Prop :=
  Raised 0x69
    { s with regs := { s.regs with
        errOff := BitVec.ofNat 16 off, errCode := BitVec.ofNat 16 code
        errMaster := if m = .host then 1 else if m = .tw0 then 2 else if m = .tw1 then 3 else 5
        errCount := if s.regs.errCount = 0xFFFF then 0xFFFF else s.regs.errCount + 1 } } t

/-- What a check answers that tests conditions in turn: the code of the first that fails, or nothing. -/
def Tests : List (Prop × Nat) → Option Nat → Prop
  | [], o => o = none
  | (p, c) :: ps, o => (p → Tests ps o) ∧ (¬ p → o = some c)

/-- A marker as it is issued now: its BSTAMP lies 16 slots after this one (R113, R147, R148). -/
def issuedNow (s : State) (m : Marker) : Marker := { m with bstamp := some (s.clk.slot + 16) }

/-- Markers have joined the stream (R25, R393, R394): first stand those issued before, in their order; behind
them those issued now, in the order of acceptance; and last those that wait for their issue, as they were and
in that order. -/
def Joined (ms : List Marker) (s t : State) : Prop :=
  t = { s with fab := { s.fab with markers := t.fab.markers } } ∧
    ∃ now wait : List Marker,
      now.Sublist ((s.fab.markers ++ ms).filter fun m => m.bstamp.isNone) ∧
      wait.Sublist ((s.fab.markers ++ ms).filter fun m => m.bstamp.isNone) ∧
      (now ++ wait).Perm ((s.fab.markers ++ ms).filter fun m => m.bstamp.isNone) ∧
      t.fab.markers =
        ((s.fab.markers ++ ms).filter fun m => m.bstamp.isSome) ++ now.map (issuedNow s) ++ wait

/-- Descriptors have entered execution (R371, R373): nothing but the rings changes, a ring that has a
descriptor in execution keeps it, and one that has none takes at most the first that it has fetched, which
has passed its checks (R364), where the ring neither stops nor owes a completion. -/
def Entered (s t : State) : Prop :=
  t = { s with hif := { s.hif with sq := t.hif.sq, cq := t.hif.cq, nextOrd := t.hif.nextOrd } } ∧
    ∀ q : Ring,
      (∀ e, s.hif.sq[q].exec = some e →
        t.hif.sq[q].exec = some e ∧ t.hif.sq[q].fetched = s.hif.sq[q].fetched) ∧
      (s.hif.sq[q].exec = none → ∀ e, t.hif.sq[q].exec = some e →
        s.hif.sq[q].state ≠ .disabled ∧ s.hif.sq[q].stopping = false ∧ s.hif.sq[q].posting = false ∧
          e.decided = false ∧ e.acted = false ∧ ∃ f, s.hif.sq[q].fetched = f :: t.hif.sq[q].fetched ∧
            e.desc = f.desc ∧ entryCheck s.hif.sq[q] f.desc = none) ∧
      t.hif.sq[q].state = s.hif.sq[q].state ∧ t.hif.sq[q].tail = s.hif.sq[q].tail ∧
      t.hif.cq[q].tail = s.hif.cq[q].tail ∧ t.hif.cq[q].head = s.hif.cq[q].head ∧
      ∃ more, t.hif.cq[q].held = s.hif.cq[q].held ++ more

/-- The start has gone from state s through its steps 2 to 7 to the self-test (R481 to R483): the PLL is
locked to XREF or, without it, to the RC fallback with event 0x7C; the time-stamp goes on from its mirror by
15625 / 8 ticks of 1/16 µs for each AO edge counted and the one at which it resumes; the domains that the set-up loaded
uses are on, beside those that were; no wake source is armed; the test access port is untouched. -/
def Started (xref : Bool) (s t : State) : Prop :=
  t.pwr.phase = .selfTest ∧ t.pwr.wake = 0 ∧ t.pwr.alarm = 0 ∧ t.pwr.wakeDue = false ∧
    t.pwr.on = startDomains t.cfg ||| s.pwr.on ∧ t.tap = s.tap ∧
    t.clk = { s.clk with
      lock := true, xrefOk := xref, refsel := if xref then 0 else 2
      rc := if s.tmr.mirror = none then s.clk.rc else nextEdge s.clk.rc } ∧
    (xref = false → hasBit s.pwr.lost pdFab = false → hasBit t.flt.pend 0x7C = true) ∧
    (s.tmr.mirror = none → t.tmr = { s.tmr with mirror := some s.tmr.now, gap := 0 }) ∧
    ∀ m, s.tmr.mirror = some m →
      let now := m + BitVec.ofNat 63 ((s.tmr.gap + 1) * 15625 / 8)
      t.tmr = { s.tmr with now := now, coarse := true, mirror := some now, gap := 0 }

/-- The switched domains of a part that was on are held in reset or asleep (R479, R480, R481): PD_AO alone is
on and keeps the count that it took at its last edge and the edges since, the wake sources, the always-on comparators,
the straps, TW0's matcher, the RC oscillator, the supply detectors, the class A latch and RSTC; the NV array stays;
everything else is as at reset. -/
def HeldOff (phase : PwrPhase) (s t : State) : Prop :=
  t.pwr = { Pwr.reset with
      phase := phase, wake := s.pwr.wake, alarm := s.pwr.alarm, wakeDue := t.pwr.wakeDue
      tmode := s.pwr.tmode, uvloGood := s.pwr.uvloGood, coreGood := s.pwr.coreGood, porWaits := s.pwr.porWaits } ∧
    t.tmr = { Tmr.reset with mirror := s.tmr.mirror, gap := s.tmr.gap } ∧
    t.nvm = { Nvm.reset with mem := s.nvm.mem, dead := s.nvm.dead, refuse := s.nvm.refuse } ∧ t.tap = s.tap ∧
    t.tw.adsel = s.tw.adsel ∧ t.tw.aoAddr = s.tw.aoAddr ∧
    t.tw.aoEn = s.tw.aoEn ∧ t.cmp.aoCfg = s.cmp.aoCfg ∧ t.cmp.aoLow = s.cmp.aoLow ∧
    t.cmp.aoHigh = s.cmp.aoHigh ∧ t.flt.classA = s.flt.classA ∧ t.flt.rstc = s.flt.rstc ∧
    t.seq = { Seq.reset with en := s.seq.en } ∧ t.regs = Regs.reset ∧ t.hif = Hif.reset ∧
    t.eng = Eng.reset ∧ t.pwm = Pwm.reset ∧ t.prn = Prn.reset ∧ t.adc = Adc.reset ∧ t.ldg = Ldg.reset ∧
    t.gau = Gau.reset ∧ t.fab = Fab.reset ∧ t.clk = { Clk.reset with rc := s.clk.rc } ∧
    t.pending = s.pending ∧ t.freeCount = s.freeCount ∧ t.out = s.out

/-- The words of a set are in force for the checks of later sets (R393). -/
def InForce (ws : List (Nat × Word)) (s : State) : State :=
  { s with regs := { s.regs with acc := setWords s.regs.acc ws } }

/-- The write of a block's COMMIT register. -/
def commitOf : Blk → Master → Word → Instr
  | .adc => .adcCommit | .eng => .engCommit | .pwm => .pwmCommit | .cmp => .cmpCommit
  | .seq => .seqCommit | .prn => .prnCommit | .tw => .twCommit | .nvm => .nvmCommit
  | .ldg => .ldgCommit | .flt => .fltCommit

/-- The domains that DOMAIN may switch (R32): PD_ENGB, PD_TW, PD_PRN and PD_GAU. -/
abbrev HostSwitched (d : Nat) : Prop := d = 4 ∨ d = 10 ∨ d = 11 ∨ d = 12

/-- Domain d has been switched (R32, R33). Its bit reads the new value; the set-up, the time, the clocks and the NV
array stay. A domain that goes off loses what it holds: PD_ENGB what the two lane pairs hold, but for FAILED (R128),
PD_PRN the ports, PD_TW the ports, PD_GAU the ledger and the gauge. Nothing but its bit changes where PD_ENGB comes
on; where PD_PRN does, its enabled ports come to UNSYNC. -/
def Switched (d : Nat) (on : Bool) (s t : State) : Prop :=
  t.pwr.on = putBit s.pwr.on d on ∧ t.regs = s.regs ∧ t.clk = s.clk ∧ t.tmr = s.tmr ∧
    t.nvm.mem = s.nvm.mem ∧ t.tap = s.tap ∧ (on = false → hasBit t.pwr.lost d = false) ∧
    (d = 4 → (∀ p : PairNo, t.eng.pairs[p] =
        if on = false ∧ 2 ≤ p.val then { Pair.reset with failed := s.eng.pairs[p].failed }
        else s.eng.pairs[p]) ∧
      ∀ r : Rail, t.eng.rails[r] =
        if on = false ∧ 2 ≤ (pairOf s r).val then EngRail.lost (domOn s pdEngA) s.eng.rails[r]
        else s.eng.rails[r]) ∧
    (d = 4 → on = true → t = { s with pwr := t.pwr }) ∧
    (d = 10 → on = false → t.tw.ports = Tw.reset.ports) ∧
    (d = 11 → on = false → t.prn.ports = Prn.reset.ports) ∧
    (d = 11 → on = true → hasBit s.pwr.lost 11 = false → ∀ p : Port, s.prn.ports[p].state = .disabled →
      t.prn.ports[p] = { s.prn.ports[p] with state := if s.cfg.portEn p.val then .unsync else .disabled }) ∧
    (d = 12 → on = false → t.ldg = Ldg.reset ∧ t.gau = { Gau.reset with newPack := s.gau.newPack })

end Sys2Proof.Machine
end

