-- ==== Sys2Proof/Certificates/Slice0/Obligations.lean ====
section
/-!
DEFINITION. The statements for the provers. Each says what the spec's rules named in its docstring say of
the model; a statement that rests on a choice of the model's names the log entry.
-/

open Sys2Proof Sys2Proof.Machine

/-! ## The machine -/

/-- A step takes the command at the front of the queue and runs it with the queue's rest. -/
def Obligations.StepRunsFrontCommand : Prop :=
  ∀ (c : Instr) (cs : List Instr) (s : State),
    s.pending = c :: cs → step s = exec c { s with pending := cs }

/-- A step on an empty queue is the model's idle step (log 1, the model's choice): n slots pass, one, or those up
to the next AO edge while only PD_AO is on, with one AO edge in 7812.5 slots. The RC oscillator runs on without
the root PLL and without PD_FAB (R12, R27, R31; log 49, the model's reading); the slot counter runs while the PLL
is locked; the time-stamp runs while PD_FAB is on, by one tick in four slots, and by 4 at each tick of the 16 MHz
RC oscillator before the PLL is locked (R27, R481). At an AO edge PD_AO takes the count while PD_FAB is on and
counts the edges while it is not (R481). -/
def Obligations.IdleStepPassesTime : Prop :=
  ∀ s : State, s.pending = [] →
    let edges : Nat → Nat := fun rc => rc * 2 / 15625
    let aoOnly := s.pwr.phase = .por ∨ s.pwr.phase = .supplyReset ∨ s.pwr.phase = .asleep
    ∃ (t : State) (n : Nat), step s = .next t ∧
      (¬ aoOnly → n = 1) ∧
      (aoOnly → 0 < n ∧ edges (s.clk.rc + n) = edges s.clk.rc + 1 ∧
        ∀ k, k < n → edges (s.clk.rc + k) = edges s.clk.rc) ∧
      let rc := s.clk.rc + n
      let now : BitVec 63 := s.tmr.now + BitVec.ofNat 63
        (if s.clk.lock = true then (s.clk.slot + n) / 4 - s.clk.slot / 4 else 4 * (rc / 16 - s.clk.rc / 16))
      let clk := { s.clk with rc := rc, slot := if s.clk.lock = true then s.clk.slot + n else s.clk.slot }
      (domOn s pdFab = true → edges rc = edges s.clk.rc →
        t = { s with clk := clk, tmr := { s.tmr with now := now } }) ∧
      (domOn s pdFab = true → edges rc ≠ edges s.clk.rc → domOn s 0 = true →
        t = { s with clk := clk, tmr := { s.tmr with now := now, mirror := some now, gap := 0 } }) ∧
      (domOn s pdFab = false → edges rc = edges s.clk.rc → t = { s with clk := { s.clk with rc := rc } }) ∧
      (domOn s pdFab = false → edges rc ≠ edges s.clk.rc → domOn s 0 = true →
        t = { s with clk := { s.clk with rc := rc }, tmr := { s.tmr with gap := s.tmr.gap + 1 } })

/-- No command stops the block, and no command touches the queue of those that wait. -/
def Obligations.CommandsRunAndLeaveTheQueue : Prop :=
  ∀ (c : Instr) (s : State), ∃ t, exec c s = .next t ∧ t.pending = s.pending

/-- Every step keeps the NV array in the model's canonical form (log 3): rising addresses, no byte listed
that an unlisted address reads. -/
def Obligations.NvArrayStaysCanonical : Prop :=
  ∀ s t : State, memoryOk s = true → step s = .next t → memoryOk t = true

/-- Boundary scan never moves a ball of a part in service (R508), in every state: where TMODE was high at
POR the start has stayed at step 1 with only PD_AO on, and where it was low the test access port holds
none of EXTEST, CLAMP and HIGHZ; every step keeps this. -/
def Obligations.TestModeStaysOutOfService : Prop :=
  ∀ s t : State, tapOk s = true → testModeOk s = true → stepOneOk s = true → step s = .next t →
    tapOk t = true ∧ testModeOk t = true ∧ stepOneOk t = true

/-- The state after reset is safe: the three invariants hold of it.

What reset leaves where the register tables state it (R86 to R90, R247, R384, R390, R477): only PD_AO
is on; POLL reads 8; the rings are disabled; the slices' and the channels' gain words read 0x8000; the
always-on comparators' words read 0x0BFF0800; the window latches read 0; TW0 stands enabled at address
0x60 and the other ports do not, and every TADDR reads 0. That the slices are OFF at reset is the model's choice
(log 2), and so is an NV array that lists nothing (log 3). -/
def Obligations.ResetState : Prop :=
  (Safe State.reset) ∧
  (State.reset.pwr.on = 1 ∧ State.reset.hif.poll = 8 ∧
     (∀ q : Ring, State.reset.hif.sq[q].state = .disabled ∧ State.reset.hif.cq[q].state = .disabled) ∧
     (∀ n : SliceNo, State.reset.adc.slices[n].gain = 0x8000 ∧ State.reset.adc.slices[n].state = .off) ∧
     (∀ c : Fin 104, State.reset.adc.ccal[c] = { cofs := 0, cgain := 0x8000 }) ∧
     (∀ k : Fin 3, State.reset.cmp.aoCfg[k] = 0x0BFF0800) ∧
     (∀ w : Window, State.reset.cmp.win[w].latch = false) ∧
     State.reset.tw.aoAddr = 0x60 ∧ State.reset.tw.aoEn = true ∧
     (∀ p : Port, State.reset.tw.ports[p].cfg = if p = 0 then 0x82364A5 else 0x82364A4) ∧
     (∀ p : Port, State.reset.tw.ports[p].taddr = 0) ∧
     State.reset.nvm.mem = [])

/-! ## Descriptors of the collector and the ledger, and NOP -/

/-- NOP completes (R366). CHARGER_DONE, while the pack charges at less than ITAPER, sets the state of charge to
1 with its uncertainty 1 % and the full mark (R296, R305, R306); CAPTEST_ARM, on INPUT with the pack full and
the ledger enabled, and CAPTEST_DISARM set and clear the arming (R296); otherwise each of these ends with
0x0105. Nothing else changes. Completes: nop, chargerDone, captestArm, captestDisarm. -/
def Obligations.LedgerDescriptorsEnd : Prop :=
  ∀ (q : Ring) (s : State) (d : Desc),
    (ready s q 0x00 = some d → ∃ t, exec (.nop q) s = .next t ∧ Ends q 0 0 s t) ∧
    (ready s q 0x41 = some d → d.pf 0 8 = 1 → ∃ t, exec (.chargerDone q) s = .next t ∧
      if s.cfg.ns ≠ 0 ∧ s.gau.ipk < 0 ∧ -s.gau.ipk < ((s.cfg.itaper : Nat) : Rat) then
        Ends q 0 0
          { s with gau := { s.gau with
              socq := 1, soce := 1, disagree := false, fullseen := true, u := 10
              learn := some { fullTime := timeNow s, charge := 0, chargeMs := 0, tempSum := 0
                              tempN := 0 } } } t
      else Ends q 0x0105 0 s t) ∧
    (ready s q 0x41 = some d → d.pf 0 8 = 2 → ∃ t, exec (.captestArm q) s = .next t ∧
      if s.ldg.src = .input ∧ s.gau.fullseen = true ∧ s.cfg.pfen = true then
        Ends q 0 0 { s with ldg := { s.ldg with capArmed := true } } t
      else Ends q 0x0105 0 s t) ∧
    (ready s q 0x41 = some d → d.pf 0 8 = 3 → ∃ t, exec (.captestDisarm q) s = .next t ∧
      Ends q 0 0 { s with ldg := { s.ldg with capArmed := false } } t)

/-- FLT_ACK completes with 0x0000 after start-complete: it clears the pending bits named in EXT, but for those whose
source has been raised again in the same CK_PER tick, with what their sources held of the balls, and on request the
capture and RSTC (R345; that a raise of a source that was not pending does not hold its bit is the model's reading,
log 21); without PREVA nothing else changes, but that with no class B or C source left the ladder rests and RECOV
clears (R336, R337; what the collector holds besides, log 21). With PREVA the mark of the
previous class A condition clears as well (R329). Completes: fltAck.

FLT_MODE completes with 0x0000: it sets or clears test mode (R346), and the ladder's timer stops outside
escalation mode (R338). FLT_INJECT completes with 0x0000 after it has raised the event that it names (R346); a
reserved event number ends it with 0x0102. Completes: fltMode, fltInject.

A write of 1 to FLT_FCLR clears the capture (R339), and a write of 1 to bits of FLT_PENDk clears those
pending bits (R345): where the write passes and the lock allows it, with nothing outside the collector changed.
Completes: fltFclr, fltPendClear.

The ladder of escalation mode (R337): once ESCWIN ms have passed since its timer was started, STEP 1
leads to STEP 2 with a new timer and the alerts of its sources, STEP 2 to STEP 3 with their block resets,
and STEP 3 to a chip reset, where a source goes that far; otherwise the timer stops. Completes:
escalationTimeout. -/
def Obligations.FaultCommands : Prop :=
  (∀ (q : Ring) (s : State) (d : Desc), ready s q 0x48 = some d → s.pwr.phase = .run →
     let again : BitVec 128 := if s.flt.againAt = perNow s then s.flt.again else 0
     let mask := BitVec.ofNat 128 (natAt d.ext 0 16) &&& ~~~again
     (d.pf 1 1 = 0 → ∃ t u, exec (.fltAck q) s = .next t ∧ Ends q 0 0 { s with flt := u } t ∧
       u.pend = s.flt.pend &&& ~~~mask ∧
       u.alertTook = s.flt.alertTook &&& ~~~mask ∧
       u.errnTook = s.flt.errnTook &&& ~~~mask ∧
       u.first = (if d.pf 0 1 = 1 then none else s.flt.first) ∧
       u.rstc = (if d.pf 2 1 = 1 then 0 else s.flt.rstc) ∧
       u.classA = s.flt.classA ∧ u.queue = s.flt.queue ∧ u.prevA = s.flt.prevA ∧ u.test = s.flt.test ∧
       (¬ (∃ e, e < 128 ∧ onLadder e = true ∧ hasBit u.pend e = true) → u.step = 0 ∧ u.recov = false)) ∧
     (d.pf 1 1 = 1 → ∃ t, exec (.fltAck q) s = .next t ∧ t.flt.prevA = false ∧ t.hif.sq[q].exec = none)) ∧
  (∀ (q : Ring) (s : State) (d : Desc),
     (ready s q 0x49 = some d → ∃ t u, exec (.fltMode q) s = .next t ∧ Ends q 0 0 { s with flt := u } t ∧
       u = { s.flt with
         test := d.pf 0 1 = 1
         escStart := if s.flt.starting = true ∨ s.cfg.testCfg = true ∨ d.pf 0 1 = 1 ∨ s.flt.recov = true then
           s.flt.escStart else none }) ∧
     (ready s q 0x4A = some d → reservedEvent (d.pf 0 7) = true →
       ∃ t, exec (.fltInject q) s = .next t ∧ Ends q 0x0102 0 s t) ∧
     (ready s q 0x4A = some d → reservedEvent (d.pf 0 7) = false →
       ∃ t u, exec (.fltInject q) s = .next t ∧ Raised (d.pf 0 7) s u ∧ t = complete q 0 0 u)) ∧
  (∀ (m : Master) (v : Word) (k : Fin 4) (s : State),
     (WritesPass m s → v = 1 → exec (.fltFclr m v) s = .next { s with flt := { s.flt with first := none } }) ∧
     (WritesPass m s → s.regs.lock = false →
       ∃ u, exec (.fltPendClear m k v) s = .next { s with flt := u } ∧
         u.pend = s.flt.pend &&& ~~~(BitVec.ofNat 128 (v.toNat * 2 ^ (32 * k.val)) &&&
           ~~~(if s.flt.againAt = perNow s then s.flt.again else 0)) ∧
         u.classA = s.flt.classA ∧ u.first = s.flt.first ∧ u.rstc = s.flt.rstc ∧ u.queue = s.flt.queue ∧
         u.test = s.flt.test)) ∧
  (∀ (s : State) (x : Nat), domOn s pdFab = true →
     s.flt.starting = true ∨ s.cfg.testCfg = true ∨ s.flt.test = true ∨ s.flt.recov = true →
     s.flt.escStart = some x →
     let source : Nat → Nat → Prop := fun n e =>
       e < 128 ∧ hasBit s.flt.pend e = true ∧ onLadder e = true ∧ n ≤ s.cfg.rxEscmax e
     (s.clk.slot < x + s.cfg.escwin * 256000 → exec .escalationTimeout s = .next s) ∧
     (x + s.cfg.escwin * 256000 ≤ s.clk.slot →
       (s.flt.step.val = 1 → ∃ t, exec .escalationTimeout s = .next t ∧ Quiet s t ∧
         ((¬ ∃ e, source 1 e) → t = { s with flt := { s.flt with step := 2, escStart := some s.clk.slot } })) ∧
       (s.flt.step.val = 2 → ∃ t, exec .escalationTimeout s = .next t ∧
         t = { s with flt := { s.flt with
           step := 3, escStart := some s.clk.slot, recov := t.flt.recov, brReq := t.flt.brReq } } ∧
         (∀ k ∈ s.flt.brReq, k ∈ t.flt.brReq) ∧
         (∀ e k, source 2 e → (BitVec.ofNat 7 e, k) ∈ s.flt.pendKeys → k ∈ t.flt.brReq ∧ t.flt.recov = true) ∧
         (∀ k ∈ t.flt.brReq, k ∈ s.flt.brReq ∨ ∃ e, source 2 e ∧ (BitVec.ofNat 7 e, k) ∈ s.flt.pendKeys)) ∧
       (s.flt.step.val = 3 →
         ((¬ ∃ e, source 3 e) →
           exec .escalationTimeout s = .next { s with flt := { s.flt with escStart := none } }) ∧
         ((∃ e, source 3 e) → s.flt.classA = false → s.pwr.resetDue = false →
           exec .escalationTimeout s = .next (takeSysrst
             { s with
               pwr := { s.pwr with resetDue := true }
               flt := { s.flt with
                 step := 4, escStart := none, recov := true
                 rstc := if s.flt.rstc = 3 then 3 else s.flt.rstc + 1 } }))) ∧
       (s.flt.step.val = 0 ∨ s.flt.step.val = 4 → exec .escalationTimeout s = .next s)))

/-! ## Set descriptors and commits -/

/-- A set descriptor whose content passes its block's checks is accepted (R72, R146, R206, R248, R277, R319,
R349, R367): its shadow registers take the content at once, its words are in force for later checks, its markers
join the stream, and it stays in execution past its point of no return. Under a class A condition those that rule how
rails are regulated end with 0x0105 (R327; which these are, and that the code of the length comes first, is the
model's reading, log 27). That a marker that can be issued is issued at once, 16 slots ahead of its boundary, is the
model's choice (log 47), and so is the order of the codes of one check (log 12). PHASE_PLAN sends its loop-lane words
under a slot-plan marker to the converter array and its other words under a phase-plan marker to the engine and
the phases; ADC_SEQ_LOAD sends a slot-plan marker; the others a set-up marker to their own block. Content of
another length ends the descriptor with 0x0102, and content that fails a check with the code of that check.
Completes: adcSeqLoad, phasePlan, prnSet, cmpSet, seqSet, ldgSet, fltSet. -/
def Obligations.SetDescriptors : Prop :=
  ∀ (q : Ring) (s : State) (buf : List Word) (d : Desc)
    (row : Nat × Instr × Blk × List Nat × (List (Nat × Word) → Option Nat) ×
      (List (Nat × Word) → List Marker)),
    let regulating : Blk → List (Nat × Word) → Option Nat := fun b ws =>
      if s.flt.classA = true then some 0x0105 else checkSet s b ws
    row ∈
      [(0x10, .adcSeqLoad q buf, .adc, seqLoadOffs,
          fun ws => if reservedSet ws then some 0x0102 else checkSeqLoad (s.accSetup.over ws),
          fun ws => [markerOf .slotPlan d.tag (.desc q) (some .adc) [.adc] [.words .adc ws]]),
       (0x28, .phasePlan q buf, .pwm, phasePlanOffs, regulating .pwm,
          fun ws =>
            [markerOf .slotPlan d.tag (.desc q) (some .pwm) [.adc]
                [.words .adc (ws.filter fun e => e.1 / 0x1000 = 3)],
             markerOf .phasePlan d.tag (.desc q) (some .pwm) [.engine, .pwm]
                [.words .pwm (ws.filter fun e => e.1 / 0x1000 != 3)]]),
       (0x30, .prnSet q buf, .prn, setOffs .prn, regulating .prn,
          fun ws => [markerOf .setup d.tag (.desc q) (some .prn) [.prn] [.words .prn ws]]),
       (0x31, .cmpSet q buf, .cmp, setOffs .cmp, regulating .cmp,
          fun ws => [markerOf .setup d.tag (.desc q) (some .cmp) [.cmp] [.words .cmp ws]]),
       (0x38, .seqSet q buf, .seq, setOffs .seq, regulating .seq,
          fun ws => [markerOf .setup d.tag (.desc q) (some .seq) [.seq] [.words .seq ws]]),
       (0x40, .ldgSet q buf, .ldg, setOffs .ldg, checkSet s .ldg,
          fun ws => [markerOf .setup d.tag (.desc q) (some .ldg) [.ldg] [.words .ldg ws]]),
       (0x4B, .fltSet q buf, .flt, setOffs .flt, checkSet s .flt,
          fun ws => [markerOf .setup d.tag (.desc q) (some .flt) [.flt] [.words .flt ws]])] →
    ready s q row.1 = some d →
    ∃ t, exec row.2.1 s = .next t ∧
      (buf.length ≠ row.2.2.2.1.length → Ends q 0x0102 0 s t) ∧
      (buf.length = row.2.2.2.1.length → ∀ c, row.2.2.2.2.1 (row.2.2.2.1.zip buf) = some c →
        Ends q c 0 s t) ∧
      (buf.length = row.2.2.2.1.length → row.2.2.2.2.1 (row.2.2.2.1.zip buf) = none →
        ∃ u, Waits q true s u ∧
          Joined (row.2.2.2.2.2 (row.2.2.2.1.zip buf))
            (InForce (row.2.2.2.1.zip buf)
              { u with regs := { u.regs with shadow := setWords u.regs.shadow (row.2.2.2.1.zip buf) } }) t)

/-- A write to a COMMIT register (R393) passes only where no commit of the block is on its way, and else is
rejected with 0x0104. A write of 0, or of 1 with no difference between the shadow and the live set, changes
nothing. A write of 1 is rejected with the code of the check that the shadow set fails; a set that passes is in
force for later checks and its markers join the stream under TAG 0xFFFD. When such a marker is issued is the
model's choice (log 47). Completes: adcCommit, pwmCommit,
cmpCommit, seqCommit, prnCommit, ldgCommit, fltCommit, nvmCommit, twCommit, and engCommit where the set moves no
regulating rail.

A write of 1 to ENG_COMMIT (R129, R135): each regulating rail whose PAIR the set changes is tracked for 64
samples before its move; nothing else of the engine changes until the marker. Completes: engCommit. -/
def Obligations.Commits : Prop :=
  (∀ (b : Blk) (m : Master) (s : State), WritesPass m s → s.regs.lock = false →
     (goOf s b = true → ∀ v : Word, v &&& 0xFFFFFFFE = 0 →
       ∃ t, exec (commitOf b m v) s = .next t ∧ Rejected m (commitOff b) 0x0104 s t) ∧
     (goOf s b = false → exec (commitOf b m 0) s = .next s) ∧
     (goOf s b = false → sameWords s.regs.shadow s.regs.live (setOffs b) = true →
       exec (commitOf b m 1) s = .next s) ∧
     (goOf s b = false → sameWords s.regs.shadow s.regs.live (setOffs b) = false →
       ∃ t, exec (commitOf b m 1) s = .next t ∧
         match checkBlk s b (s.accSetup.over (shadowWords s b)) with
         | some c => Rejected m (commitOff b) c s t
         | none => ∃ u ms, Joined ms u t ∧ ms ≠ [] ∧
             (∀ k ∈ ms, k.tag = 0xFFFD ∧ k.origin = .commit b ∧ k.owner = some b ∧ k.bstamp = none) ∧
             (ms.flatMap fun k => k.changes.flatMap fun c => match c with
               | .words _ ws => ws
               | _ => []).Perm (shadowWords s b) ∧
             u = { InForce (shadowWords s b) s with eng := u.eng } ∧ (b ≠ .eng → u.eng = s.eng))) ∧
  (∀ (m : Master) (s : State) (r : Rail) (p : PairNo), WritesPass m s → s.regs.lock = false →
     goOf s .eng = false → p.val = bitsOf (wordIn s.regs.shadow (0x4020 + 4 * r.val)) 22 2 →
     sameWords s.regs.shadow s.regs.live (setOffs .eng) = false →
     checkBlk s .eng (s.accSetup.over (shadowWords s .eng)) = none →
     ∃ t, exec (.engCommit m 1) s = .next t ∧ t.eng = { s.eng with rails := t.eng.rails } ∧
       t.eng.rails[r] =
         if s.eng.rails[r].enabled = true ∧ p.val ≠ s.cfg.pair r.val then
           { s.eng.rails[r] with assign := some { ring := none, pair := p, left := 64 }, track := 0 }
         else s.eng.rails[r])

/-! ## The engine's banks, tables and pairs -/

/-- ENG_BANK_LOAD and ENG_LAST_LOAD (R112, R117) write the inactive bank, or the load copies of the last tables, of
the rail that PARAM names and complete; content of another length ends them with 0x0102 and a swap of the same kind on
its way with 0x0104. Completes: engBankLoad, engLastLoad.

ENG_BANK_SWAP and the two writes of ENG_SWAP (R113, R117, R368): with no swap of the same kind pending for a rail
named, and with every inactive bank to be swapped passing R111's check, a bank-swap marker for the rails of the first
mask and a last-table marker for those of the second join the stream, in this order and under one TAG. Otherwise the
request ends, or is rejected, with 0x0104 or with the check's code; the descriptor ends with 0x0105 under a class A
condition (R327; the model's reading, log 27). When the markers are issued is the model's choice (log 47). Completes:
engBankSwap, engSwapBanks, engSwapLastTables.

A register write to a word of a rail's inactive bank (R112) or of a load copy of the rail that ENG_WSEL names (R117)
changes that word alone, where the lock allows it and no swap of its kind is pending for the rail; a word of the
active bank is rejected with 0x0105, and a pending swap with 0x0104. A write that sets a reserved bit of a bank word
is rejected with 0x0102 (R4, R110), before the other checks (the model's order, log 58). Completes: engBankWordWrite,
engLtldWrite.

ENG_ASSIGN (R129): under a class A condition it ends with 0x0105 (log 27); a rail already on a move ends it with
0x0104, a pair that is FAILED or whose domain is off with 0x0105 (the code of a FAILED pair and of a second move is
the model's reading, log 24), and a set-up that breaks R93 or R94 with 0x0112. Otherwise the new PAIR is in force for
later checks and the descriptor waits; a rail that regulates is to be tracked for 64 samples. A rail that does not
regulate moves by its marker at once (the model's reading, log 24). Completes: engAssign. -/
def Obligations.EngineSetUp : Prop :=
  (∀ (q : Ring) (s : State) (buf : List Word) (d : Desc) (r : Rail), r.val = d.pf 0 3 →
     (ready s q 0x20 = some d → ∃ t, exec (.engBankLoad q buf) s = .next t ∧
       (buf.length ≠ 32 → Ends q 0x0102 0 s t) ∧
       (buf.length = 32 → swPend s r = true → Ends q 0x0104 0 s t) ∧
       (buf.length = 32 → swPend s r = false → ∀ w : Vector Word 32, w.toList = buf →
         Ends q 0 0 (s.upEngRail r fun e =>
           if e.bank then { e with bankA := w } else { e with bankB := w }) t)) ∧
     (ready s q 0x22 = some d → ∃ t, exec (.engLastLoad q buf) s = .next t ∧
       (buf.length ≠ 64 → Ends q 0x0102 0 s t) ∧
       (buf.length = 64 → ltPend s r = true → Ends q 0x0104 0 s t) ∧
       (ltPend s r = false → ∀ w x : Vector Word 32, w.toList ++ x.toList = buf →
         Ends q 0 0 (s.upEngRail r fun e =>
           if e.table then { e with ripple0 := w, dead0 := x } else { e with ripple1 := w, dead1 := x }) t))) ∧
  (∀ (s : State) (b t' : BitVec 8),
     let swaps : BitVec 16 → Origin → List Marker := fun tag o =>
       (if b = 0 then [] else
         [{ markerOf .bankSwap tag o none ((maskRails b.toNat).map .rail) [.swapBanks] with rails := b }]) ++
       (if t' = 0 then [] else
         [{ markerOf .lastTable tag o none ((maskRails t'.toNat).map .rail) [.swapTables] with rails := t' }])
     let bad : Option Nat :=
       if (∃ r : Rail, hasBit b r.val = true ∧ swPend s r = true) ∨
           (∃ r : Rail, hasBit t' r.val = true ∧ ltPend s r = true) then some 0x0104
       else (fins 8).findSome? fun r =>
         if hasBit b r.val then bankCheck s.eng.rails[r].inactive else none
     (∀ (q : Ring) (d : Desc), ready s q 0x21 = some d → (b ≠ 0 ∨ t' ≠ 0) →
       (b = if d.pf 8 1 = 1 then BitVec.ofNat 8 (d.pf 0 8) else 0) →
       (t' = if d.pf 9 1 = 1 then BitVec.ofNat 8 (d.pf 0 8) else 0) →
       ∃ u, exec (.engBankSwap q) s = .next u ∧
         match (if s.flt.classA = true then some 0x0105 else bad) with
         | some c => Ends q c 0 s u
         | none => ∃ x, Waits q true s x ∧ Joined (swaps d.tag (.desc q)) x u) ∧
     (∀ (m : Master) (v : Word), WritesPass m s → s.regs.lock = false →
       v.toNat = b.toNat + 256 * t'.toNat → ∀ c, c = .engSwapBanks m v ∨ c = .engSwapLastTables m v →
       ∃ u, exec c s = .next u ∧
         match bad with
         | some c => Rejected m 0x4010 c s u
         | none => Joined (swaps 0xFFFD .swapWrite) s u)) ∧
  (∀ (m : Master) (v : Word) (r : Rail) (k : Fin 32) (s : State), WritesPass m s → s.regs.lock = false →
     (∀ isB bad : Bool,
       bad = decide (((k = 17 ∨ k = 29) ∧ v &&& 0xFFFF0000 ≠ 0) ∨ (k = 31 ∧ v ≠ 0)) → ∃ t,
       exec (.engBankWordWrite m ((if isB then 0x4800 else 0x4400) + 0x80 * r.val + 4 * k.val) v) s = .next t ∧
       (bad = true →
         Rejected m ((if isB then 0x4800 else 0x4400) + 0x80 * r.val + 4 * k.val) 0x0102 s t) ∧
       (bad = false → s.eng.rails[r].bank = isB →
         Rejected m ((if isB then 0x4800 else 0x4400) + 0x80 * r.val + 4 * k.val) 0x0105 s t) ∧
       (bad = false → s.eng.rails[r].bank ≠ isB → swPend s r = true →
         Rejected m ((if isB then 0x4800 else 0x4400) + 0x80 * r.val + 4 * k.val) 0x0104 s t) ∧
       (bad = false → s.eng.rails[r].bank ≠ isB → swPend s r = false →
         t = s.upEngRail r fun e =>
           if isB then { e with bankB := vput e.bankB k v } else { e with bankA := vput e.bankA k v })) ∧
     (s.eng.wsel.toNat = r.val → ∀ dead : Bool, ∃ t,
       exec (.engLtldWrite m ((if dead then 0x4C80 else 0x4C00) + 4 * k.val) v) s = .next t ∧
       (ltPend s r = true → Rejected m ((if dead then 0x4C80 else 0x4C00) + 4 * k.val) 0x0104 s t) ∧
       (ltPend s r = false →
         t = s.upEngRail r fun e => match dead, e.table with
           | false, true => { e with ripple0 := vput e.ripple0 k v }
           | false, false => { e with ripple1 := vput e.ripple1 k v }
           | true, true => { e with dead0 := vput e.dead0 k v }
           | true, false => { e with dead1 := vput e.dead1 k v }))) ∧
  (∀ (q : Ring) (s : State) (d : Desc) (r : Rail) (p : PairNo) (w : Word),
     ready s q 0x23 = some d → r.val = d.pf 0 3 → p.val = d.pf 4 2 →
     (w = (s.accSetup.get (0x4020 + 4 * r.val) &&& 0xFF3FFFFF) ||| BitVec.ofNat 32 (p.val * 0x400000)) →
     ∃ t, exec (.engAssign q) s = .next t ∧
       (s.flt.classA = true → Ends q 0x0105 0 s t) ∧
       (s.flt.classA = false → s.eng.rails[r].assign ≠ none → Ends q 0x0104 0 s t) ∧
       (s.flt.classA = false → s.eng.rails[r].assign = none →
         (pairOff (domOn s) (s.accSetup.over [(0x4020 + 4 * r.val, w)]) = true ∨
           s.eng.pairs[p].failed = true) → Ends q 0x0105 0 s t) ∧
       (s.flt.classA = false → s.eng.rails[r].assign = none →
         pairOff (domOn s) (s.accSetup.over [(0x4020 + 4 * r.val, w)]) = false →
         s.eng.pairs[p].failed = false → engineBad (s.accSetup.over [(0x4020 + 4 * r.val, w)]) = true →
         Ends q 0x0112 0 s t) ∧
       (s.flt.classA = false → s.eng.rails[r].assign = none →
         pairOff (domOn s) (s.accSetup.over [(0x4020 + 4 * r.val, w)]) = false →
         s.eng.pairs[p].failed = false → engineBad (s.accSetup.over [(0x4020 + 4 * r.val, w)]) = false →
         ∃ u, Waits q true
             ((InForce [(0x4020 + 4 * r.val, w)] s).upEngRail r fun e =>
               { e with
                 assign := some { ring := some q, pair := p, left := if e.enabled then 64 else 0 }
                 track := 0 }) u ∧
           if s.eng.rails[r].enabled = true then t = u
           else Joined
             [{ markerOf .setup d.tag (.desc q) none [.rail r] [.assign r p] with
                rails := BitVec.ofNat 8 (2 ^ r.val) }] u t))

/-! ## The register file, the lock, the time and the power domains -/

/-- A register write that reaches BAR0 while PD_FAB is on (R4, R5, R379, R392, R393, R397, R399, R472). A write wider
than a word, or of part of one, is rejected with 0x0102, and with 0x0107 in the reserved region from 0xF000; ports TW1
and TW3 may not write, 0x0107; before the image is loaded no master may, 0x0104; the lock rejects a write with 0x0107
but at HIF_SETUP_LOCK, FLT_FCLR and TMR_SET. Of a shadowed register, the lock rejects the write with 0x0107, a 1 in a
reserved bit with 0x0102 and a commit of its block on its way with 0x0104 (the order of these codes is the model's
choice, log 58); otherwise its writable bits take the value, its other bits stay, and nothing but its shadow word
changes. Completes: registerWrite.

A sparse register file in rising order reads back what was stored (R5, R392): a shadowed register reads the value
written in its writable fields and its reset value in its read-only fields, an offset without a register stays as it
was at reset, every other register reads as before, and the order is kept. -/
def Obligations.RegisterWrites : Prop :=
  (∀ (m : Master) (off : Nat) (v : Word) (s : State), off < 0x10000 → domOn s pdFab = true →
     (m = .tw1 ∨ m = .tw3 → ∀ w, w ≠ .full ∨ (spanAt off).isSome = true →
       ∃ t, exec (.registerWrite m off v w) s = .next t ∧ Rejected m off 0x0107 s t) ∧
     (m = .host ∨ m = .tw0 →
       s.pwr.phase = .por ∨ s.pwr.phase = .supplyReset ∨ s.pwr.phase = .asleep ∨ s.pwr.phase = .waking →
       ∀ w, w ≠ .full ∨ (spanAt off).isSome = true →
       ∃ t, exec (.registerWrite m off v w) s = .next t ∧ Rejected m off 0x0104 s t) ∧
     (WritesPass m s → ∀ w, w ≠ .full ∨ off % 4 ≠ 0 →
       ∃ t, exec (.registerWrite m off v w) s = .next t ∧
         Rejected m off (if 0xF000 ≤ off then 0x0107
           else if s.regs.lock = true ∧ off / 4 ≠ 1 ∧ off / 4 ≠ 0x3004 ∧ off / 4 ≠ 0x3402 ∧ off / 4 ≠ 0x3403 then 0x0107
           else 0x0102) s t) ∧
     (∀ p : Span, spanAt off = some p → off % 4 = 0 → WritesPass m s →
       ∃ t, exec (.registerWrite m off v .full) s = .next t ∧
         if s.regs.lock = true then Rejected m off 0x0107 s t
         else if v &&& ~~~(p.rw ||| p.ro) ≠ 0 then Rejected m off 0x0102 s t
         else if goOf s p.blk = true then Rejected m off 0x0104 s t
         else t = { s with regs := { s.regs with
           shadow := setWord s.regs.shadow off ((v &&& p.rw) ||| (wordIn s.regs.shadow off &&& p.ro)) } })) ∧
  (∀ (m : RegMap) (off : Nat) (w : Word), (m.map (·.1)).Pairwise (· < ·) →
     (∀ p : Span, spanAt off = some p →
       wordIn (setWord m off w) off = (w &&& p.rw) ||| (resetWord off &&& p.ro)) ∧
       (spanAt off = none → wordIn (setWord m off w) off = resetWord off) ∧
       (∀ x, x ≠ off → wordIn (setWord m off w) x = wordIn m x) ∧
       ((setWord m off w).map (·.1)).Pairwise (· < ·))

/-- HIF_SETUP_LOCK (R396): a write of 1 sets LOCK, and where it read 0 every shadow set takes the live set; a write of
0 to a LOCK that is set is rejected with 0x0107 (R397) and otherwise changes nothing. A write of the high word of
TMR_SET arms the value with the low word that the master last wrote, where it is a multiple of 64 000, and is rejected
with 0x0102 where it is not; at a multiple of 64 000 of the old count the time-stamp takes it, the coarse flag clears
and the count of sets advances, and the update of the ledger and the checkpoints of this boundary that are done stand
done under the new count, so that none is lost and none doubled (R390, R391). Completes: hifSetupLock, tmrSet,
tmrSetApply.

A write of 1 to bits of CMP_LATCHk clears those latches whose windows are good again, and leaves those of windows that
are still not-good (R236); the latch of a window is that of the comparators that drive its wires, its own or those of
a steep window (R238, R239; the model's reading, log 65). A write of 1 to SEQ_STATUS.SHUTOFF clears it where every
rail is OFF (R262), and is rejected with 0x0105 where one is not; under a class A condition it is rejected too (the
model's reading, log 25). Nothing else changes. Completes: cmpLatchClear, shutoffClear. -/
def Obligations.LockTimeAndClears : Prop :=
  (∀ (m : Master) (v : Word) (s : State), WritesPass m s →
     (exec (.hifSetupLock m 1) s = .next (if s.regs.lock = true then s else
       { s with regs := { s.regs with lock := true, shadow := s.regs.live } })) ∧
     (∃ t, exec (.hifSetupLock m 0) s = .next t ∧
       if s.regs.lock = true then Rejected m 0x0004 0x0107 s t else t = s) ∧
     (v.toNat < 2 ^ 31 → ∃ t, exec (.tmrSet m v) s = .next t ∧
       if (v.toNat * 2 ^ 32 + (s.tmr.setLo[masterIdx m]).toNat) % 64000 = 0 then
         t = { s with tmr := { s.tmr with setPend := some (BitVec.ofNat 63
           (v.toNat * 2 ^ 32 + (s.tmr.setLo[masterIdx m]).toNat)) } }
       else Rejected m 0xD00C 0x0102 s t) ∧
     (∀ x, s.tmr.setPend = some x → s.tmr.now.toNat % 64000 = 0 →
       let done : Option (BitVec 63) → Option (BitVec 63) := fun a => if a = some s.tmr.now then some x else none
       ∃ ps : Vector Pair 4, (∀ p : PairNo, ps[p] = { s.eng.pairs[p] with ckAt := done s.eng.pairs[p].ckAt }) ∧
         exec .tmrSetApply s = .next { s with
           ldg := { s.ldg with updAt := done s.ldg.updAt }, eng := { s.eng with pairs := ps }
           tmr := { s.tmr with now := x, coarse := false, setPend := none, setCnt := s.tmr.setCnt + 1 } }) ∧
     (s.tmr.setPend = none ∨ s.tmr.now.toNat % 64000 ≠ 0 → exec .tmrSetApply s = .next s)) ∧
  (∀ (m : Master) (v : Word) (s : State), WritesPass m s → s.regs.lock = false →
     (∀ k : Fin 3, (k.val = 2 → v.toNat < 2 ^ 16) →
       ∃ u : Vector Win 80, exec (.cmpLatchClear m k v) s = .next { s with cmp := { s.cmp with win := u } } ∧
         ∀ x : Window, u[x] =
           { s.cmp.win[x] with latch := s.cmp.win[x].latch &&
               !(decide (∃ w : Window, shownWindow s w = x ∧ w.val / 32 = k.val ∧
                   v.getLsbD (w.val % 32) = true) &&
                 !s.cmp.win[x].low && !s.cmp.win[x].high) }) ∧
     (∃ t, exec (.shutoffClear m 0x10000) s = .next t ∧
       if s.flt.classA = true ∨ (∃ i : SeqIdx, s.seq.rails[i].state ≠ .off) then
         Rejected m 0x7008 0x0105 s t
       else t = { s with seq := { s.seq with shutoff := false } }) ∧
     exec (.shutoffClear m 0) s = .next s)

/-- A read by a master (R70, R392): of the low word of a 64-bit register it takes the low half and holds the
high half for that master; of the high word it takes the held copy of the same register, once. A shadowed
register shows its shadow set, or its live set under FAB_RDSEL.LIVE of the master. Nothing else changes. The host
reads the MSI-X table and the Pending Bit Array in BAR2, and 0 elsewhere in it (R352), and the identity of the function
in its configuration space (R350); that one command reads all three spaces is the model's choice (log 70). Completes:
holdingRegisterRead.

What some registers show: the identity, the enabled domains (R390), the pending events (R348), the
count of sequence errors (R390) and, in its two halves, the time-stamp (R7, R391). -/
def Obligations.RegisterReads : Prop :=
  (∀ (m : Master) (off : Nat) (s : State), domOn s pdFab = true → off % 4 = 0 → off < 0x10000 →
     (∀ x : BitVec 64, wideView s off = some x →
       exec (.holdingRegisterRead m off) s = .next { s with
         regs := { s.regs with
           hold := vput s.regs.hold (masterIdx m) (some { off := off, copy := x.extractLsb' 32 32 }) }
         out := .readData m (x.extractLsb' 0 32) :: s.out }) ∧
     (∀ c : Word, wideView s off = none → 4 ≤ off →
       s.regs.hold[masterIdx m] = some { off := off - 4, copy := c } →
       exec (.holdingRegisterRead m off) s = .next { s with
         regs := { s.regs with hold := vput s.regs.hold (masterIdx m) none }
         out := .readData m c :: s.out }) ∧
     (wideView s off = none → (∀ h, s.regs.hold[masterIdx m] = some h → h.off + 4 ≠ off) →
       exec (.holdingRegisterRead m off) s =
         .next { s with out := .readData m (regValue s m off) :: s.out }) ∧
     ((spanAt off).isSome = true → regValue s m off =
       wordIn (if s.regs.rdsel[masterIdx m] = true then s.regs.live else s.regs.shadow) off)) ∧
  (∀ (off : Nat) (s : State), domOn s pdHif = true → off % 4 = 0 → off < 0x1000 →
     exec (.holdingRegisterRead .host (0x10000 + off)) s = .next { s with
       out := .readData .host
         (if h : 0x800 ≤ off ∧ off < 0xA00 then
           (s.hif.msixTable[(off - 0x800) / 16]'(by omega))[off % 16 / 4]'(by omega)
          else if off = 0xC00 then s.hif.pba else 0) :: s.out }) ∧
  (∀ (s : State), domOn s pdHif = true →
     (exec (.holdingRegisterRead .host 0x11000) s =
       .next { s with out := .readData .host (0x48080000#32 ||| Config.vendorId.setWidth 32) :: s.out }) ∧
     (exec (.holdingRegisterRead .host 0x11008) s = .next { s with out := .readData .host 0x118000C1 :: s.out }) ∧
     (exec (.holdingRegisterRead .host 0x1102C) s =
       .next { s with out := .readData .host (s.regs.ssid ++ s.regs.ssvid) :: s.out })) ∧
  (∀ (m : Master) (s : State),
     regValue s m 0x0000 = 0x48085A43 ∧ regValue s m 0x1004 = s.pwr.on.setWidth 32 ∧
       regValue s m 0x2008 = s.fab.seqErr ∧
       (∀ k : Fin 4, regValue s m (0xC030 + 4 * k.val) = s.flt.pend.extractLsb' (32 * k.val) 32) ∧
       wideView s 0xD000 = some (BitVec.ofBool s.tmr.coarse ++ s.tmr.now) ∧
       regValue s m 0xE000 = s.hif.poll.setWidth 32)

/-- DOMAIN and a write of PWR_DCMD (R32, R369, R390): a domain that the host may not switch is refused with
0x0105, a domain that the committed set-up uses may not go off, 0x0105, a domain that is already so stays as it
is, and otherwise the domain is switched. A number beyond the table is refused with 0x0102 (the model's reading,
log 34). Completes: domain, pwrDcmd. -/
def Obligations.DomainSwitches : Prop :=
  ∀ (s : State) (d : Nat) (on : Bool), d < 16 →
    let code : Option Nat :=
      if 14 ≤ d then some 0x0102
      else if ¬ HostSwitched d then some 0x0105
      else if on = false ∧ hasBit s.pwr.on d = true ∧ domInUse s d = true then some 0x0105
      else none
    (∀ (q : Ring) (x : Desc), ready s q 0x03 = some x → x.pf 0 4 = d → (x.pf 8 1 = 1 ↔ on = true) →
      ∃ t, exec (.domain q) s = .next t ∧
        match code with
        | some c => Ends q c 0 s t
        | none => if hasBit s.pwr.on d = on then Ends q 0 0 s t
            else ∃ u, Switched d on s u ∧ t = complete q 0 0 u) ∧
    (∀ (m : Master) (v : Word), WritesPass m s → s.regs.lock = false →
      v.toNat = d + 256 * on.toNat →
      ∃ t, exec (.pwrDcmd m v) s = .next t ∧
        match code with
        | some c => Rejected m 0x1008 c s t
        | none => if hasBit s.pwr.on d = on then t = s else Switched d on s t)

/-! ## The sequencer -/

/-- SEQ_GROUP and SEQ_GCMD (R252, R253): a group in both masks ends the request with 0x0103, a group with ENPIN
1 with 0x0105, an on request under SHUTOFF with 0x0105 (under a class A condition as well, the model's reading,
log 27), and one for a group held off by a power-fail take-down with 0x0106. An accepted request sets and clears
the requests of its groups alone, with what hung on them (R254, R258, R267; that an off request ends a wait for a
retry and clears RETRYC is the model's reading, log 25), and the sequencer comes to rest in the new conditions.
Completes: seqGroup, seqGcmd. -/
def Obligations.GroupRequests : Prop :=
  ∀ (s : State) (on off : BitVec 8),
    let code : Option Nat :=
      if on &&& off ≠ 0 then some 0x0103
      else if (∃ j : Group, s.cfg.enpin j.val = true ∧ hasBit (on ||| off) j.val = true) then some 0x0105
      else if on ≠ 0 ∧ (s.seq.shutoff = true ∨ s.flt.classA = true) then some 0x0105
      else if on &&& s.seq.pfmem ≠ 0 then some 0x0106
      else none
    let done : State → Prop := fun v =>
      v = { s with seq := { s.seq with groups := v.seq.groups, rails := v.seq.rails } } ∧
        (∀ j : Group, v.seq.groups[j] =
          if hasBit off j.val = true ∧ s.seq.groups[j].req = true then
            { s.seq.groups[j] with req := false, retrying := false, retryc := 0 }
          else if hasBit on j.val = true ∧ s.seq.groups[j].req = false then
            { s.seq.groups[j] with req := true, failed := false }
          else s.seq.groups[j]) ∧
        ∀ i : SeqIdx, v.seq.rails[i].state = s.seq.rails[i].state ∧
          v.seq.rails[i].retryc = s.seq.rails[i].retryc ∧ v.seq.rails[i].xen = s.seq.rails[i].xen ∧
          (hasBit on (groupOf s.cfg i).val = true → s.seq.groups[groupOf s.cfg i].req = false →
            v.seq.rails[i].down = false ∧ v.seq.rails[i].faultDown = false)
    (∀ (q : Ring) (d : Desc), ready s q 0x39 = some d → d.pf 0 8 = on.toNat → d.pf 8 8 = off.toNat →
      ∃ t, exec (.seqGroup q) s = .next t ∧
        match code with
        | some c => Ends q c 0 s t
        | none => ∃ v, done v ∧ t = complete q 0 0 (seqRest v)) ∧
    (∀ (m : Master) (w : Word), WritesPass m s → s.regs.lock = false → w.toNat = on.toNat + 256 * off.toNat →
      ∃ t, exec (.seqGcmd m w) s = .next t ∧
        match code with
        | some c => Rejected m 0x7010 c s t
        | none => ∃ v, done v ∧ t = seqRest v)

/-- START (R252, R485) and the EN ball (R252). A START at step 9's halt, or under SHUTOFF (under class A as
well, the model's reading, log 27), ends with 0x0105; before the wait of step 9 it is held in execution; after
it, it ends the wait and requests on every group with ENPIN 0 that holds a used rail and that no power-fail
take-down holds off. EN high ends the wait too and requests on the groups with ENPIN 1, EN low requests them
off; a level before the wait of step 9 is only kept. That START and the ball request every group that can be
requested and leave the others is the model's reading (log 25). Completes: start, enPinChange. -/
def Obligations.StartAndEnable : Prop :=
  ∀ (s : State) (q : Ring) (d : Desc) (level : Bool),
    let acts := s.pwr.phase = .waiting ∨ s.pwr.phase = .sequencing ∨ s.pwr.phase = .run
    let closed := s.seq.shutoff = true ∨ s.flt.classA = true
    (ready s q 0x01 = some d → ∃ t, exec (.start q) s = .next t ∧
      (s.pwr.phase = .halted ∨ (acts ∧ closed) → Ends q 0x0105 0 s t) ∧
      (¬ acts → s.pwr.phase ≠ .halted → s.pwr.startHeld = none → ¬ closed →
        t = { s with pwr := { s.pwr with startHeld := some q } }) ∧
      (acts → ¬ closed → ∃ v, t = complete q 0 0 (seqRest v) ∧
        v = { s with
          pwr := { s.pwr with phase := if s.pwr.phase = .waiting then .sequencing else s.pwr.phase }
          seq := { s.seq with groups := v.seq.groups, rails := v.seq.rails } } ∧
        ∀ j : Group, v.seq.groups[j].req =
          (s.seq.groups[j].req || (!s.cfg.enpin j.val && !hasBit s.seq.pfmem j.val &&
            decide (∃ i : SeqIdx, s.cfg.use i.val = true ∧ groupOf s.cfg i = j))))) ∧
    (∃ t, exec (.enPinChange level) s = .next t ∧
      (domOn s pdSeq = false ∨ s.pwr.enIgnored = true ∨ ¬ acts →
        t = { s with seq := { s.seq with en := level } }) ∧
      (domOn s pdSeq = true → s.pwr.enIgnored = false → acts → ∃ v, t = seqRest v ∧
        v = { s with
          pwr := { s.pwr with
            phase := if s.pwr.phase = .waiting ∧ level = true then .sequencing else s.pwr.phase }
          seq := { s.seq with en := level, groups := v.seq.groups, rails := v.seq.rails } } ∧
        ∀ j : Group, v.seq.groups[j].req =
          if s.cfg.enpin j.val = true then
            if level = true then s.seq.groups[j].req || (!s.seq.shutoff && !s.flt.classA &&
              !hasBit s.seq.pfmem j.val) else false
          else s.seq.groups[j].req))

/-- One transition of a rail follows R254 and touches no other rail: it leaves OFF only for WAIT, FAILED or
BLOCKED, WAIT only for DELAY and then with every prerequisite ON, or for OFF, DELAY only for WAIT or OFF,
RAMP only for PGWAIT or, once it is due to fall, for STOP or DISCHARGE, PGWAIT and ON only, once due to
fall, for STOP or DISCHARGE, STOP only for RAMP or DISCHARGE, FAILED and BLOCKED only for OFF and then with
the group requested off; and it leaves neither DISCHARGE nor HOLD. -/
def Obligations.RailTransitions : Prop :=
  ∀ (s : State) (i : SeqIdx),
    let a := s.seq.rails[i].state
    let b := (railStep i s).seq.rails[i].state
    (∀ j : SeqIdx, j ≠ i → (railStep i s).seq.rails[j] = s.seq.rails[j]) ∧
    (railStep i s).seq.groups = s.seq.groups ∧ (railStep i s).regs = s.regs ∧
    (a = b ∨ (a, b) ∈ [(RailState.off, RailState.wait), (.off, .failed), (.off, .blocked), (.wait, .delay),
      (.wait, .off), (.delay, .wait), (.delay, .off), (.ramp, .pgwait), (.ramp, .stop), (.ramp, .discharge),
      (.pgwait, .stop), (.pgwait, .discharge), (.on, .stop), (.on, .discharge), (.stop, .ramp),
      (.stop, .discharge), (.failed, .off), (.blocked, .off)]) ∧
    (a = .wait → b = .delay → ∀ p ∈ s.cfg.deps i.val, s.seq.rails[Fin.ofNat 16 p].state = .on) ∧
    (a = .ramp ∨ a = .pgwait ∨ a = .on → b = .stop ∨ b = .discharge →
      dueToFall s i = true ∧ (b = .stop ↔ i.val < 8)) ∧
    (a = .failed ∨ a = .blocked → b = .off → s.seq.groups[groupOf s.cfg i].req = false)

/-- The order of R264: a rail that the model calls due to fall has no used dependant, in any group, that is not OFF,
FAILED or BLOCKED (or in WAIT while its take-down is marked, the model's reading, log 25), and where its group's order
is programmed no used rail of the group with a lower OFFPOS either.

What the sequencer, coming to rest, may change (R254, R265, R266, R293): its own rails, the loops, the phases, the
targets and the windows that they drive, with the pause of a calibration that a window's test held up (R240), the
ledger's source and books, requests to the NV controller and the end of a PHASE_ADMIT; never the set-up, the time, the
clocks, the requests of the groups, the two-wire ports, the gauge, the collector, the NV array or the queue of
commands. -/
def Obligations.SequencerRest : Prop :=
  (∀ (s : State) (i j : SeqIdx), dueToFall s i = true → s.cfg.use j.val = true →
     (j ∈ dependants s.cfg i ∨
       (s.cfg.ordmode (groupOf s.cfg i).val = true ∧ groupOf s.cfg j = groupOf s.cfg i ∧
         s.cfg.offpos j.val < s.cfg.offpos i.val)) →
     s.seq.rails[j].state = .off ∨ s.seq.rails[j].state = .failed ∨ s.seq.rails[j].state = .blocked ∨
       (s.seq.rails[j].state = .wait ∧ s.seq.rails[j].down = true)) ∧
  (∀ s : State, let t := seqRest s
     t.pending = s.pending ∧ t.freeCount = s.freeCount ∧ t.clk = s.clk ∧ t.tmr = s.tmr ∧ t.regs = s.regs ∧
       t.fab = s.fab ∧ t.seq = { s.seq with rails := t.seq.rails } ∧ t.tw = s.tw ∧ t.nvm.mem = s.nvm.mem ∧
       t.tap = s.tap ∧ t.pwr = s.pwr ∧ t.adc = { s.adc with tour := t.adc.tour, pitch := t.adc.pitch } ∧
       SameTour s.adc.tour t.adc.tour ∧ SameTour s.adc.pitch t.adc.pitch ∧ t.flt = s.flt ∧ t.gau = s.gau ∧ t.out = s.out ∧
       t.eng = { s.eng with rails := t.eng.rails } ∧
       ∀ r : Rail, t.eng.rails[r].bank = s.eng.rails[r].bank ∧ t.eng.rails[r].bankA = s.eng.rails[r].bankA ∧
         t.eng.rails[r].bankB = s.eng.rails[r].bankB)

/-- The rails' own intervals (R254, R257, R266): the end of the on-delay enables a rail that is requested and
free to rise, a regulated one with REF 0 and the target VBOOT and an external one through its XEN; the end of an
external rail's ramp time starts its power-good timeout; power-good in PGWAIT makes the rail ON and gives the
target back; the low comparator below DISCODE makes a rail in DISCHARGE or HOLD OFF, and the sequencer gives the
target of a regulated one back; SEQ_RELEASE does the same to a rail in HOLD, or ends with 0x0105. Completes:
onDelayEnd, rampTimeEnd, powerGoodChange, discharged, seqRelease.

Rails that do not come up or fall in time (R254, R258, R261, R263). The power-good timeout raises event 0x40
+ i and its group's policy acts: RETRY_ALL marks the group retrying, or fails it with its retries used up, and
DEPENDANTS_ONLY sets the rail on its way to FAILED. The discharge timeout raises the event, and ends in OFF, or
with DACT HOLD and no SHUTOFF in HOLD. A fault-driven take-down beyond RXTO and a mismatch of the cores end in
the immediate shut-off: SHUTOFF reads 1 and no group is requested. Completes: powerGoodTimeout,
dischargeTimeout, reactionTimeout, seqCoreMismatch. -/
def Obligations.RailIntervals : Prop :=
  (∀ (s : State) (i : SeqIdx), domOn s pdSeq = true →
     let atRest : Prn → Prop := fun x =>
       (8 ≤ i.val → x = s.prn) ∧
       (∀ r : Rail, r.val = i.val →
         x = { s.prn with rails := vmod s.prn.rails r fun p => { p with seqown := false } })
     (s.seq.rails[i].state = .delay → wantOn s i = true → freeToRise s i = true →
       ∃ u, exec (.onDelayEnd i) s = .next (seqRest u) ∧ u.seq.rails[i].state = .ramp ∧
         (8 ≤ i.val → u = s.upSeqRail i fun k => { k with state := .ramp, xen := true }) ∧
         (∀ r : Rail, r.val = i.val →
           u.eng.rails[r].enabled = true ∧ u.prn.rails[r].ref = 0 ∧ u.prn.rails[r].seqown = true ∧
           u.prn.rails[r].tgt = BitVec.ofNat 16 (s.cfg.vboot r.val) ∧ u.fb[r].hact = false ∧
           u.fb[r].path = (if s.cfg.path0 r.val then .local_ else .remote) ∧
           (∀ k : Rail, k ≠ r → u.eng.rails[k] = s.eng.rails[k] ∧ u.prn.rails[k] = s.prn.rails[k]))) ∧
     (s.seq.rails[i].state = .ramp → 8 ≤ i.val →
       exec (.rampTimeEnd i) s =
         .next (seqRest (s.upSeqRail i fun k => { k with state := .pgwait, pgood := false }))) ∧
     (s.seq.rails[i].state = .pgwait → s.cfg.use i.val = true → s.seq.rails[i].pgood = false →
       (wires s (pgWindow i)).live = false →
       ∃ u, exec (.powerGoodChange i true) s = .next (seqRest u) ∧
         u = { s.upSeqRail i fun k => { k with state := .on, pgood := true } with prn := u.prn } ∧
         (8 ≤ i.val → u.prn = s.prn) ∧
         (∀ r : Rail, r.val = i.val →
           u.prn.rails = vmod s.prn.rails r fun p =>
             { p with seqown := false, gcls := 0, notify := false })) ∧
     (s.seq.rails[i].state = .discharge ∨ s.seq.rails[i].state = .hold →
       (wires s (pgWindow i)).low = true →
       ∃ u, exec (.discharged i) s = .next (seqRest u) ∧
         u = { s with seq := u.seq, pwm := u.pwm, prn := u.prn } ∧ atRest u.prn ∧
         u.seq = { s.seq with rails := u.seq.rails } ∧
         u.seq.rails = vmod s.seq.rails i fun k => { k with state := .off, faultDown := false }) ∧
     (∀ (q : Ring) (d : Desc), ready s q 0x3B = some d → d.pf 0 4 = i.val →
       ∃ t, exec (.seqRelease q) s = .next t ∧
         if s.seq.rails[i].state = .hold then
           ∃ u, t = complete q 0 0 (seqRest u) ∧
             u = { s with seq := u.seq, pwm := u.pwm, prn := u.prn } ∧ atRest u.prn ∧
             u.seq.rails = vmod s.seq.rails i fun k => { k with state := .off, faultDown := false }
         else Ends q 0x0105 0 s t)) ∧
  (∀ (s : State) (i : SeqIdx), domOn s pdSeq = true →
     let j := groupOf s.cfg i
     (s.seq.rails[i].state = .pgwait → windowClosed (0x40 + i.val) 1 i.val s = true →
       ∃ u v, exec (.powerGoodTimeout i) s = .next (seqRest v) ∧
         Raised (0x40 + i.val) (s.upSeqRail i fun k => { k with lcause := 1 }) u ∧
         (u.seq.rails[i].state = .pgwait → u.seq.groups = s.seq.groups →
           (s.cfg.policy j.val = true → v.seq.rails[i].held = .toFailed) ∧
           (s.cfg.policy j.val = false → s.seq.groups[j].retryc.val < s.cfg.nretry j.val →
             v.seq.groups[j] = { u.seq.groups[j] with retrying := true } ∧
             (s.cfg.use i.val = true → v.seq.rails[i].held =
               if u.seq.rails[i].held = .toFailed ∨ u.seq.rails[i].held = .toBlocked then u.seq.rails[i].held
               else .groupRetry)) ∧
           (s.cfg.policy j.val = false → s.cfg.nretry j.val ≤ s.seq.groups[j].retryc.val →
             ∃ w, v = raiseSeq i 5 0 w ∧ w.seq.groups[j].req = false ∧ w.seq.groups[j].failed = true))) ∧
     (s.seq.rails[i].state = .discharge → windowClosed (0x40 + i.val) 3 i.val s = true →
       ∃ u v, exec (.dischargeTimeout i) s = .next (seqRest v) ∧
         Raised (0x40 + i.val) (s.upSeqRail i fun k => { k with lcause := 3 }) u ∧
         v.seq.rails[i].state =
           (if s.cfg.dact i.val = true ∧ u.seq.shutoff = false then .hold else .off) ∧
         v = { u with seq := v.seq, pwm := v.pwm, prn := v.prn }) ∧
     ((∃ k : SeqIdx, s.cfg.use k.val = true ∧ s.seq.rails[k].faultDown = true ∧
         isDown s.seq.rails[k].state = false) →
       ∃ v, exec .reactionTimeout s = .next (seqRest v) ∧ v.seq.shutoff = true ∧
         (∀ g : Group, v.seq.groups[g].req = false ∧ v.seq.groups[g].retryc = 0) ∧
         (∀ k : SeqIdx, v.seq.rails[k].xen = false) ∧
         v.regs = s.regs ∧ v.clk = s.clk) ∧
     (windowClosed 0x40 0xF 0 s = true →
       ∃ w v, exec .seqCoreMismatch s = .next (seqRest v) ∧ Raised 0x40 w v ∧ w.seq.shutoff = true ∧
         w.seq.core = true ∧ w.seq.rails[(0 : SeqIdx)].lcause = 0xF ∧
         (∀ k : SeqIdx, w.seq.rails[k].state = .off ∧ w.seq.rails[k].xen = false) ∧
         (∀ g : Group, w.seq.groups[g].req = false ∧ w.seq.groups[g].retryc = 0) ∧ w.regs = s.regs ∧ w.clk = s.clk ∧
         w.nvm.mem = s.nvm.mem ∧ w.tw = s.tw ∧ w.gau = s.gau))

/-- Retries (R258, R259): once every rail of a retrying group is down the group's count advances and its rails
are held no longer; a rail's own retry ends alike; a count returns to 0 where every used rail of the group, or
the rail, is ON. Completes: retryDelayEnd, retryCountReset.

SEQ_MARGIN and SEQ_MCMD (R271 to R273, R288, R291): selection 3 is refused with 0x0102; a selection 1 or 2
with a rail not ON is refused with 0x0105 (under a class A condition as well, the model's reading, log 27), and
with 0x0106 where the ledger does not admit COSTMRG for each rail not yet at a margin, which counts in LDG_NREF.
Accepted, each rail's selection reads the new value and MRG reads 1; selection NONE clears it, and MRG where M
is already 0. Completes: seqMargin, seqMcmd. -/
def Obligations.RetriesAndMargins : Prop :=
  (∀ (s : State) (i : SeqIdx) (j : Group),
     (domOn s pdSeq = true → s.seq.groups[j].retrying = true →
       (∀ k : SeqIdx, s.cfg.use k.val = true → groupOf s.cfg k = j → isDown s.seq.rails[k].state = true) →
       ∃ v, exec (.retryDelayEnd (.group j)) s = .next (seqRest v) ∧
         v = { s with seq := { s.seq with rails := v.seq.rails, groups := v.seq.groups } } ∧
         v.seq.groups = (vmod s.seq.groups j fun g =>
           { g with retrying := false, retryc := g.retryc + 1 }) ∧
         ∀ k : SeqIdx, v.seq.rails[k] =
           if s.cfg.use k.val = true ∧ groupOf s.cfg k = j ∧ s.seq.rails[k].held = .groupRetry then
             { s.seq.rails[k] with held := .none }
           else s.seq.rails[k]) ∧
     (domOn s pdSeq = true → (∃ k : SeqIdx, s.seq.rails[k].held = .railRetry i) →
       (∀ k : SeqIdx, s.seq.rails[k].held = .railRetry i → isDown s.seq.rails[k].state = true) →
       ∃ v, exec (.retryDelayEnd (.rail i)) s = .next (seqRest v) ∧
         v = { s with seq := { s.seq with rails := v.seq.rails } } ∧
         ∀ k : SeqIdx, v.seq.rails[k] =
           if s.seq.rails[k].held = .railRetry i then { s.seq.rails[k] with held := .none }
           else s.seq.rails[k]) ∧
     ((∃ k : SeqIdx, s.cfg.use k.val = true ∧ groupOf s.cfg k = j) →
       (∀ k : SeqIdx, s.cfg.use k.val = true → groupOf s.cfg k = j → s.seq.rails[k].state = .on) →
       exec (.retryCountReset (.group j)) s =
         .next (s.upGroup j fun g => { g with retryc := 0 })) ∧
     (s.seq.rails[i].state = .on →
       exec (.retryCountReset (.rail i)) s =
         .next (s.upSeqRail i fun k => { k with retryc := 0 }))) ∧
  (∀ (s : State) (rails : BitVec 8) (sel : Nat), sel < 4 →
     let rs := (fins 8).filter fun r => hasBit rails r.val
     let code : Option Nat :=
       if sel = 3 then some 0x0102
       else if sel = 0 then none
       else if s.flt.classA = true ∨ (∃ r : Rail, hasBit rails r.val = true ∧
           s.seq.rails[idxOf r].state ≠ .on) then some 0x0105
       else if mayAdmit s (s.cfg.costmrg * (rs.filter fun r => !s.prn.rails[r].mrg).length) false = false then
         some 0x0106
       else none
     let counted := s.upLdg fun l => { l with nref := if code = some 0x0106 then l.nref + 1 else l.nref }
     let done : State → Prop := fun v =>
       v = { s with seq := { s.seq with rails := v.seq.rails }, prn := v.prn, ldg := v.ldg } ∧
       (∀ r : Rail, v.prn.rails[r] =
         if hasBit rails r.val = false then s.prn.rails[r]
         else if sel = 0 then
           { s.prn.rails[r] with mrg := s.prn.rails[r].mrg && decide (s.prn.rails[r].m ≠ 0) }
         else { s.prn.rails[r] with mrg := true }) ∧
       ∀ i : SeqIdx, v.seq.rails[i] =
         if i.val < 8 ∧ hasBit rails i.val = true then { s.seq.rails[i] with msel := BitVec.ofNat 2 sel }
         else s.seq.rails[i]
     (∀ (q : Ring) (d : Desc), ready s q 0x3A = some d → d.pf 0 8 = rails.toNat → d.pf 8 2 = sel →
       ∃ t, exec (.seqMargin q) s = .next t ∧
         match code with
         | some c => Ends q c 0 counted t
         | none => ∃ v, done v ∧ Ends q 0 0 v t) ∧
     (∀ (m : Master) (w : Word), WritesPass m s → s.regs.lock = false → w.toNat = rails.toNat + 256 * sel →
       ∃ t, exec (.seqMcmd m w) s = .next t ∧
         match code with
         | some c => Rejected m 0x7014 c counted t
         | none => done t))

/-! ## The converter array -/

/-- VALUE, RANGE and STALE of a conversion (R44, R45, R46): the two corrections with their additions of 2^14 and
shifts by 15, with the factory correction of the die temperature between them on channel 0x61 (R43, an open function,
log 6), saturation to the channel's span, and VALUE 0 under STALE. That a rail-error channel's conversion without
PD_ADC0 is stale whatever slice makes it is the model's reading (log 60). -/
def Obligations.ConversionValue : Prop :=
  ∀ (s : State) (n : SliceNo) (c : Fin 104) (code : BitVec 12) (flagged : Bool),
    let wide := c.val < 0x40 ∨ c.val = 0x59 ∨ c.val = 0x5B
    let a := s.adc.slices[n]
    let k := s.adc.ccal[c]
    let r : Int := if wide then 8 * ((code.toNat : Int) - 2048) else 8 * (code.toNat : Int)
    let x1 : Int := ((r - a.ofs.toInt) * (a.gain.toNat : Int) + 16384) >>> (15 : Nat)
    let vs : Int := if c.val = 0x61 then Config.dieTemperature x1 else x1
    let v : Int := ((vs - k.cofs.toInt) * (k.cgain.toNat : Int) + 16384) >>> (15 : Nat)
    let lo : Int := if wide then -16384 else 0
    let hi : Int := if wide then 16376 else 32760
    let sat := min hi (max lo v)
    let x := convert s n c.val code flagged
    (x.stale = true ↔ flagged = true ∨ a.state ≠ .service ∨
        domOn s (if n.val < 9 then 6 else 7) = false ∨
        (0x30 ≤ c.val ∧ c.val < 0x40 ∧ domOn s 6 = false)) ∧
      x.value = (if x.stale = true then 0 else sat) ∧ x.vs = (if x.stale = true then 0 else vs) ∧
      (x.range = true ↔ code = 0xFFF ∨ (code = 0 ∧ wide) ∨ v < lo ∨ hi < v ∨
        x.value < s.cfg.rangeLo c.val ∨ s.cfg.rangeHi c.val < x.value)

/-- The arbiter of the loop lane (R60) serves, of the requests that it may take, the one that has waited longest,
an error sample before a current sample, the lower rail and then the lower phase.

One slot (R37, R38, R52, R60, R63, R73), of a converter array that runs. With a marker for the array at its
boundary the slot waits for it (R23). Otherwise requests whose instants lie at or before the slot fall due in
the first slot at or after them; the slices outside service convert at the position that each shadows; a masked
position converts nothing; a due request that has waited at most 7 slots takes the slot, and its record goes to
the pair that works on the rail; otherwise the slot goes to an injected run, a calibration, a path test or the
regular sequence, in this order. Then the slot ends. Completes: conversionSlot.

A request that has not been served within 7 slots of falling due, 28 in low-power mode, is skipped (R60):
ADC_LL_SKIP counts it, event 0x51 is raised, and a skipped error sample still counts in the rail's order of
paths (the model's reading, log 18). Completes: loopLaneSkip. -/
def Obligations.ConversionSlots : Prop :=
  (∀ (s : State) (may : LaneDue → Bool),
     (pickLane s may = none ↔ ∀ d ∈ s.adc.due, may d = false) ∧
     ∀ d : LaneDue, pickLane s may = some d → d ∈ s.adc.due ∧ may d = true ∧ ∀ e ∈ s.adc.due, may e = true →
       d.due < e.due ∨ (d.due = e.due ∧
         match d.req, e.req with
         | .error r _, .error r' _ => r.val ≤ r'.val
         | .error _ _, .current _ _ => True
         | .current _ _, .error _ _ => False
         | .current h _, .current h' _ => (railOf s.cfg h).val < (railOf s.cfg h').val ∨
             (railOf s.cfg h = railOf s.cfg h' ∧ h.val ≤ h'.val))) ∧
  (∀ (s : State) (code : BitVec 12) (flagged steep pitching : Bool), domOn s pdFab = true →
     s.clk.lock = true → domOn s pdAdc1 = true →
     let u := fallDue (land s)
     let p : Pos := Fin.ofNat 16 (if s.cfg.lpm then s.clk.slot / 4 else s.clk.slot)
     let n := s.adc.slotmap[p]
     let w := shadowMonitor u.adc.pitch p pitching (shadowMonitor u.adc.tour p steep u)
     let first : Nat → Nat := fun x => if s.cfg.lpm then 4 * ((x + 255) / 256) else (x + 63) / 64
     let built : Nat := s.clk.slot + (if s.cfg.lpm then 36 else 9)
     let pick := pickLane w fun d => !laneLate w d
     let noted : State → State := fun v =>
       v.upSlice n fun a => { a with mon := (a.mon <<< 1) ||| (if flagged then 1 else 0) }
     let sample : FreeUse → Nat → Nat → Taken := fun use item chan =>
       { use := use, item := item, chan := BitVec.ofNat 7 chan, slice := n, pos := BitVec.ofNat 4 p.val
         stamp := s.clk.slot, tdac := s.adc.ptest.isSome, conv := convert w n chan code flagged, built := built }
     u = { s with adc := { s.adc with targets := u.adc.targets, due := u.adc.due, taken := u.adc.taken
                                      cal := u.adc.cal, ptest := u.adc.ptest } } ∧
     (u.adc.taken = s.adc.taken.filter fun x =>
       !((x.use == .cal || x.use == .ptest) && decide (x.built ≤ s.clk.slot))) ∧
     (∀ d ∈ s.adc.due, d ∈ u.adc.due) ∧
     (∀ g ∈ s.adc.targets, if first g.instant ≤ s.clk.slot then
       { req := g.req, due := first g.instant } ∈ u.adc.due else g ∈ u.adc.targets) ∧
     (∀ d, laneLate w d = true ↔ d.due + (if s.cfg.lpm then 28 else 7) < s.clk.slot) ∧
     w = { u with adc := { u.adc with slices := w.adc.slices } } ∧
     (∀ (t : Tour) (q : Bool), (s.adc.tour = some t ∧ q = steep ∧ ∀ x, s.adc.pitch = some x → x.slice ≠ t.slice) ∨
         (s.adc.pitch = some t ∧ q = pitching ∧ ∀ x, s.adc.tour = some x → x.slice ≠ t.slice) →
       w.adc.slices[t.slice] =
         if shadowPos s t = some p then
           { s.adc.slices[t.slice] with mon := (s.adc.slices[t.slice].mon <<< 1) ||| (if q then 1 else 0) }
         else s.adc.slices[t.slice]) ∧
     (s.cfg.lpm = true → s.clk.slot % 4 ≠ 0 →
       exec (.conversionSlot code ⟨flagged, steep, pitching⟩) s = .next (endSlot s)) ∧
     (s.cfg.lpm = false ∨ s.clk.slot % 4 = 0 → arrayMarkerDue s = true →
       exec (.conversionSlot code ⟨flagged, steep, pitching⟩) s = .next s) ∧
     (s.cfg.lpm = false ∨ s.clk.slot % 4 = 0 → arrayMarkerDue s = false →
       ∃ v, exec (.conversionSlot code ⟨flagged, steep, pitching⟩) s = .next (endSlot v) ∧
         (hasBit s.adc.mask p.val = true → v = w) ∧
         (hasBit s.adc.mask p.val = false → ∀ d, pick = some d →
           let chan : Nat := match d.req with
             | .error r _ => (errorChan w r).1
             | .current h _ => h.val
           let c := convert w n chan code flagged
           let x : Expected :=
             { req := d.req, chan := BitVec.ofNat 7 chan, stamp := s.clk.slot
               inactive := match d.req with
                 | .error r _ => (errorChan w r).2
                 | .current _ _ => false
               slice := n
               rec_ := packRecord (BitVec.ofNat 32 s.clk.slot) s.adc.ptest.isSome c.stale c.range false p.val
                 chan c.value
               built := built
               arrives := s.clk.slot + (if s.cfg.lpm then 38 else 11) }
           v = noted { w with
             adc := { w.adc with
               due := w.adc.due.erase d
               errCount := match d.req with
                 | .error r _ => vmod w.adc.errCount r (· + 1)
                 | .current _ _ => w.adc.errCount }
             eng := { w.eng with
               sched :=
                 if (worksOn s (reqRail s.cfg d.req)).isSome then w.eng.sched ++ [x] else w.eng.sched } }) ∧
         (hasBit s.adc.mask p.val = false → pick = none →
           (freeUse w = .none → v = w) ∧
           (freeUse w = .injected → v = noted (w.upAdc fun a => { a with
             taken := a.taken ++ [sample .injected a.inj.cur.val (s.cfg.injChan a.inj.cur.val)]
             inj := if a.inj.n.val + 1 < 2 ^ s.cfg.injAvg a.inj.cur.val then { a.inj with n := a.inj.n + 1 }
               else { a.inj with n := 0, cur := a.inj.cur + 1 } })) ∧
           (freeUse w = .regular → v = noted (w.upAdc fun a => { a with
             taken := a.taken ++ [sample .regular a.reg.cur.val (s.cfg.regChan a.reg.cur.val)]
             reg := if a.reg.n.val + 1 < 2 ^ s.cfg.regAvg a.reg.cur.val then { a.reg with n := a.reg.n + 1 }
               else { a.reg with n := 0, cur := if s.cfg.regLen ≤ a.reg.cur.val then 0 else a.reg.cur + 1
                                 inRound := !decide (s.cfg.regLen ≤ a.reg.cur.val) } })) ∧
           (freeUse w = .cal → ∀ k, w.adc.cal = some k →
             v = noted (w.upAdc fun a => { a with taken := a.taken ++ [sample .cal 0 k.chan.toNat] })) ∧
           (freeUse w = .ptest → ∀ k i, w.adc.ptest = some k → pathPlace w k = some i →
             v = noted (w.upAdc fun a => { a with
               taken := a.taken ++
                 [sample .ptest i.val (if i.val % 2 = 0 then k.chan.toNat else k.nchan.toNat)] }))))) ∧
  (∀ s : State,
     (freeUse s = .injected → s.adc.inj.run = true) ∧
     (freeUse s = .cal → s.adc.inj.run = false ∧ s.adc.cal ≠ none) ∧
     (freeUse s = .ptest → s.adc.inj.run = false ∧ s.adc.ptest ≠ none) ∧
     (freeUse s = .regular → s.adc.reg.inRound = true ∧
       (s.adc.inj.run = true → s.adc.reg.n ≠ 0 ∧ s.adc.inj.cur = 0 ∧ s.adc.inj.n = 0))) ∧
  (∀ (s : State) (d : LaneDue), let w := fallDue s
     pickLane w (fun x => decide (x.due + (if s.cfg.lpm then 28 else 7) < s.clk.slot)) = some d →
     ∃ t u, exec .loopLaneSkip s = .next t ∧
       Raised 0x51
         (w.upAdc fun a => { a with
           due := a.due.erase d, llSkip := if a.llSkip = 0xFFFFFFFF then a.llSkip else a.llSkip + 1 }) u ∧
       match d.req with
       | .error r _ => t = staleError r (countError r u)
       | .current _ _ => t = u)

/-- The sequences (R65 to R69) of a converter array that runs. A round of the regular sequence starts where it
is enabled, between rounds and PACE µs after the last start. The triggers that have arrived start one run, which
records them all and counts it; those that find a run in progress are counted, one event 0x52 each. ADC_INJECT ends
with 0x0105 where injection is off, with 0x0104 where a run is in progress, with its trigger counted as dropped, and
else is accepted, whatever other descriptor waits for a run, and waits for its run. Completes: regularRoundStart,
injectedTrigger, adcInject.

A sequence entry whose samples have all been formed completes (R65, R66, R68): its result register takes the
record of what its samples give, and event 0x53 is raised where RCHK asks for it; what hangs on the result (R105,
R213, R279) follows from that state. The last entry of an injected run ends the run, and completes the descriptors
that started it with the run's number. A marker at a consumer of the result whose boundary lies at or before it goes
first (R23). Completes: sequenceResult. -/
def Obligations.Sequences : Prop :=
  (∀ (s : State),
     (s.cfg.regEn = true → s.adc.reg.inRound = false → domOn s pdFab = true → s.clk.lock = true →
       domOn s pdAdc1 = true →
       (∀ x, s.adc.reg.roundAt = some x → x + 256 * s.cfg.pace ≤ s.clk.slot) →
       exec .regularRoundStart s = .next (s.upAdc fun a => { a with
         reg := { cur := 0, n := 0, inRound := true, roundAt := some s.clk.slot } })) ∧
     (s.adc.inj.trig ≠ 0 → s.cfg.injEn = true → s.adc.inj.run = false →
       exec .injectedTrigger s = .next (s.upAdc fun a => { a with
         inj := { a.inj with run := true, cur := 0, n := 0, src := a.inj.trig, runs := a.inj.runs + 1
                             trig := 0 } })) ∧
     (s.adc.inj.trig ≠ 0 → s.cfg.injEn = true → s.adc.inj.run = true → domOn s pdFab = true →
       s.adc.injDrop.toNat + 3 < 2 ^ 32 →
       ∃ t, exec .injectedTrigger s = .next t ∧ hasBit t.flt.pend 0x52 = true ∧
         SameTour s.adc.tour t.adc.tour ∧ SameTour s.adc.pitch t.adc.pitch ∧
         t.adc = { s.adc with errCount := t.adc.errCount, tour := t.adc.tour, pitch := t.adc.pitch
                              inj := { s.adc.inj with trig := 0 }
                              injDrop := s.adc.injDrop + BitVec.ofNat 32 (countBits s.adc.inj.trig) }) ∧
     (s.adc.inj.trig = 0 → exec .injectedTrigger s = .next s) ∧
     (∀ (q : Ring) (d : Desc), ready s q 0x11 = some d →
       (s.cfg.injEn = true → s.adc.inj.run = false →
         ∃ t, exec (.adcInject q) s = .next t ∧ Waits q true (s.upAdc fun a => { a with
           inj := { a.inj with rings := a.inj.rings ++ [q], trig := a.inj.trig ||| 4 } }) t) ∧
       (s.cfg.injEn = false → ∃ t, exec (.adcInject q) s = .next t ∧ Ends q 0x0105 0 s t) ∧
       (s.cfg.injEn = true → s.adc.inj.run = true →
         ∃ u, Raised 0x52 (s.upAdc fun a => { a with
           injDrop := if a.injDrop = 0xFFFFFFFF then a.injDrop else a.injDrop + 1 }) u ∧
           exec (.adcInject q) s = .next (complete q 0x0104 0 u)))) ∧
  (∀ (s : State) (i : Nat) (xs rest : List Taken), domOn s pdFab = true → s.clk.lock = true →
     domOn s pdAdc1 = true → xs.head?.map (·.item) = some i → (∀ y ∈ xs, y.built ≤ s.clk.slot) →
     let g := gather xs
     let heard : Nat → State := fun c =>
       if domOn s pdGau = true ∧ 0x58 ≤ c ∧ c ≤ 0x5C then restampBy (fun _ t => t == .ldg) g.at_ s else s
     (s.adc.taken.filter (fun x => x.use == .regular) = xs ++ rest → xs.length = 2 ^ s.cfg.regAvg i →
       let c := s.cfg.regChan i
       exec (.sequenceResult false) s = .next
         (if resultBehind (heard c) c g.at_ = true then heard c
          else afterEntry g c (s.cfg.regRchk i) true ((heard c).upAdc fun a => { a with
            regRes := vput a.regRes (Fin.ofNat 32 i)
              (packRecord (BitVec.ofNat 32 g.at_) g.tdac (g.fresh = 0) g.range false g.pos.toNat c g.value)
            regWritten := putBit a.regWritten i true
            taken := dropFirst .regular xs.length a.taken }))) ∧
     (s.adc.taken.filter (fun x => x.use == .injected) = xs ++ rest → xs.length = 2 ^ s.cfg.injAvg i →
       let c := s.cfg.injChan i
       let mine := decide (s.cfg.injLen ≤ i) && hasBit s.adc.inj.src 2
       exec (.sequenceResult true) s = .next
         (if resultBehind (heard c) c g.at_ = true then heard c
          else (if mine = true then s.adc.inj.rings else []).foldl
            (fun v k => complete k 0 s.adc.inj.runs.toNat v)
            (afterEntry g c (s.cfg.injRchk i) false ((heard c).upAdc fun a => { a with
              injRes := vput a.injRes (Fin.ofNat 8 i)
                (packRecord (BitVec.ofNat 32 g.at_) g.tdac (g.fresh = 0) g.range true g.pos.toNat c g.value)
              injWritten := putBit a.injWritten i true
              taken := dropFirst .injected xs.length a.taken
              inj := { a.inj with run := decide (i < s.cfg.injLen)
                                  rings := if mine = true then [] else a.inj.rings } }))))) ∧
  (∀ xs : List Taken, let g := gather xs
     let fresh := xs.filter fun x => !x.conv.stale
     g.fresh = fresh.length ∧ g.sum = (fresh.map fun x => x.conv.value).sum ∧
       (g.range = true ↔ ∃ x ∈ xs, x.conv.range = true) ∧ (g.tdac = true ↔ ∃ x ∈ xs, x.tdac = true) ∧
       (∀ x, xs.getLast? = some x → g.at_ = x.stamp ∧ g.pos = x.pos) ∧
       (0 < g.fresh → g.value = Int.fdiv (g.sum + (g.fresh / 2 : Nat)) g.fresh)) ∧
  (∀ (s : State) (c slot : Nat), resultBehind s c slot = true →
     ∃ m ∈ s.fab.markers, ∃ b, m.bstamp = some b ∧ b ≤ slot) ∧
  (∀ (g : Gather) (c : Nat) (rchk regular : Bool) (u : State), g.fresh = 0 →
     (if rchk = true ∧ g.range = true then Raised 0x53 u (afterEntry g c rchk regular u)
      else afterEntry g c rchk regular u = u))

/-- CAL_ZERO and CAL_FULL (R41, R75, R76, R79): a reserved channel is refused with 0x0102, CAL_ZERO on the
factory-trimmed channels with 0x0107, CAL_FULL without a pending zero with 0x0105, either on a channel in the live
loop lane with 0x0105 (which channels these are with XPATH 0 is the model's choice, log 57), while another runs with
0x0104, and CAL_ZERO that the ledger does not admit with 0x0106, counted in LDG_NREF. Accepted, each waits for its
measurement, which begins, and CAL_ZERO's cost is booked where the ledger is on. Completes: calZero, calFull.

The end of a calibration's measurement (R75, R76, R77): a spread beyond 256 counts ends it with 0x0110; CAL_ZERO
completes with its mean, which is the channel's pending zero; CAL_FULL ends with 0x0105 where the pending zero has
been discarded, with 0x0103 where m1 − m0 is smaller than 4096 or has a sign other than T's, with 0x0102 where COFS or
CGAIN leaves its range, and else asks the NV store to commit the channel's record. That a mean keeps its low 16 bits,
and that a T of 0 has no sign, is the model's choice (log 66). Completes: calMeasurementDone. -/
def Obligations.Calibrations : Prop :=
  (∀ (q : Ring) (s : State) (d : Desc) (c : Fin 104), (d.pf 0 7 ≤ 0x67 → d.pf 0 7 = c.val) →
     let run : Bool → CalRun := fun full =>
       { ring := q, full := full, chan := BitVec.ofNat 7 c.val, k := BitVec.ofNat 4 (d.pf 8 4)
         target := BitVec.ofNat 16 (d.pf 16 16), n := 0, sum := 0, min := 0, max := 0, result := none }
     (ready s q 0x12 = some d → ∃ t, exec (.calZero q) s = .next t ∧
       if 0x67 < d.pf 0 7 then Ends q 0x0102 0 s t
       else if 0x61 ≤ c.val ∧ c.val ≤ 0x63 then Ends q 0x0107 0 s t
       else if inLiveLane s c.val = true then Ends q 0x0105 0 s t
       else if s.adc.cal ≠ none then Ends q 0x0104 0 s t
       else if mayAdmit s s.cfg.costcal false = false then
         Ends q 0x0106 0 (s.upLdg fun l => { l with nref := l.nref + 1 }) t
       else Waits q true ((s.upAdc fun a => { a with cal := some (run false) }).upLdg fun l =>
         { l with books := if domOn s pdGau = true then
             { for_ := .cal (BitVec.ofNat 7 c.val), mJ := s.cfg.costcal } :: l.books else l.books }) t) ∧
     (ready s q 0x13 = some d → ∃ t, exec (.calFull q) s = .next t ∧
       if 0x67 < d.pf 0 7 then Ends q 0x0102 0 s t
       else if s.adc.m0[c] = none ∨ inLiveLane s c.val = true then Ends q 0x0105 0 s t
       else if s.adc.cal ≠ none then Ends q 0x0104 0 s t
       else Waits q true (s.upAdc fun a => { a with cal := some (run true) }) t)) ∧
  (∀ (before : State) (k : CalRun) (c : Fin 104), let s := land before
     s.adc.cal = some k → k.chan.toNat = c.val → 2 ^ k.k.toNat ≤ k.n → k.result = none →
     let m1 : Int := (k.sum + (2 ^ k.k.toNat / 2 : Nat)) >>> k.k.toNat
     let t := k.target.toInt
     let free := s.upAdc fun a => { a with cal := none, taken := a.taken.filter fun x => x.use != .cal }
     ∃ u, exec .calMeasurementDone before = .next u ∧
       (k.full = false → 256 < k.max - k.min →
         u = (complete k.ring 0x0110 0 free).upLdg fun l =>
           { l with books := l.books.eraseP fun b => b.for_ == .cal k.chan }) ∧
       (k.full = false → k.max - k.min ≤ 256 →
         ∃ bs, u = complete k.ring 0 (BitVec.ofInt 16 m1).toNat
           ((free.upLdg fun l => { l with books := bs }).upAdc fun a =>
             { a with m0 := vput a.m0 c (some (BitVec.ofInt 16 m1)) })) ∧
       (k.full = true → 256 < k.max - k.min → u = complete k.ring 0x0110 0 free) ∧
       (k.full = true → k.max - k.min ≤ 256 → s.adc.m0[c] = none → u = complete k.ring 0x0105 0 free) ∧
       (k.full = true → k.max - k.min ≤ 256 → ∀ z, s.adc.m0[c] = some z →
         let m0 := z.toInt
         let diff := m1 - m0
         let gain : Int := ((t.natAbs * 32768 + diff.natAbs / 2) / diff.natAbs : Nat)
         (diff.natAbs < 4096 ∨ t * diff ≤ 0 → u = complete k.ring 0x0103 0 free) ∧
         (4096 ≤ diff.natAbs → 0 < t * diff → 4096 < m0.natAbs ∨ gain < 0x7000 ∨ 0x9000 < gain →
           u = complete k.ring 0x0102 0 free) ∧
         (4096 ≤ diff.natAbs → 0 < t * diff → m0.natAbs ≤ 4096 → 0x7000 ≤ gain → gain ≤ 0x9000 →
           s.nvm.refuse = false → domOn s pdNvm = true →
           ∃ r, r.ring = some k.ring ∧ r.prec = 2 ∧
             u = (s.upNvm fun n => { n with queue := n.queue ++ [r] }).upAdc fun a =>
               { a with cal := some { k with result := some (BitVec.ofInt 16 m0, BitVec.ofInt 16 gain) } })))

/-- ADC_PATH_TEST (R80 to R83): a channel, neighbour or code that R81 does not allow is refused with 0x0102, a channel
in the live loop lane with 0x0105 unless its phase is RACKED, and a second test with 0x0104; one that finds a position
given to the slice in steep and not yet taken waits (log 59); the channels of the live loop lane are those of log 57,
the model's choice. Accepted, it discards the channel's pending zero with its booking (R75), but not that of a
CAL_ZERO that runs on the channel (R288), and settles for 512 slots. At its end the means stand in the result
registers and in RESULT (their rounding and the size of the neighbour's step are the model's choice, log 56), and a
verdict other than PASS raises event 0x54; the absolute calibrations that the test has paused go on (R83). With equal
codes the step ratio is a free value (log 6). Completes: adcPathTest, pathTestDone.

The verdict of a path test (R82) in its mode, with PASS where no other bit is set. -/
def Obligations.PathTests : Prop :=
  (∀ (s : State) (q : Ring) (d : Desc) (c : Fin 104), ready s q 0x14 = some d →
       (d.pf 0 7 ≤ 0x67 → d.pf 0 7 = c.val) →
       ∃ t, exec (.adcPathTest q) s = .next t ∧
         if pathRefused (d.pf 0 7) (d.pf 28 7) (d.pf 8 10) (d.pf 18 10) = true then Ends q 0x0102 0 s t
         else if inLiveLane s c.val = true ∧ rackedChan s c.val = false then Ends q 0x0105 0 s t
         else if s.adc.ptest ≠ none then Ends q 0x0104 0 s t
         else if s.adc.tour.any (fun x => x.claimed.isSome) = true then t = s
         else ∃ (bs : List Booking) (v : State),
           (v = match s.cmp.proof with
             | some p => if p.usesDac = true then resumeCal p.since s else s
             | none => s) ∧
           Waits q true ((v.upLdg fun l => { l with books := bs }).upAdc fun a =>
             { a with
               m0 := vput a.m0 c none
               ptest := some
                 { ring := q, chan := BitVec.ofNat 7 c.val, inject := d.pf 7 1 = 1
                   a := BitVec.ofNat 10 (d.pf 8 10), b := BitVec.ofNat 10 (d.pf 18 10)
                   nchan := BitVec.ofNat 7 (d.pf 28 7), k := BitVec.ofNat 4 (d.pf 36 4), atB := false
                   n := Vector.replicate 4 0, sums := Vector.replicate 4 0, settled := s.clk.slot + 512
                   since := s.clk.slot } }) t ∧
           bs = match s.ldg.books.find? fun b => b.for_ == .cal (BitVec.ofNat 7 c.val) with
             | some b =>
               (if s.adc.cal.any (fun k => !k.full && k.chan == BitVec.ofNat 7 c.val) then [b] else []) ++
                 s.ldg.books.filter fun x => x.for_ != .cal (BitVec.ofNat 7 c.val)
             | none => s.ldg.books) ∧
  (∀ before : State, let s := land before
     (∀ (p : PathRun), s.adc.ptest = some p → p.atB = true → 2 ^ p.k.toNat ≤ p.n[2] → 2 ^ p.k.toNat ≤ p.n[3] →
       expectedAt s.cfg p.chan.toNat p.b.toNat ≠ expectedAt s.cfg p.chan.toNat p.a.toNat →
       let m : Fin 4 → Int := fun i => (p.sums[i] + (2 ^ p.k.toNat / 2 : Nat)) / (2 ^ p.k.toNat : Nat)
       let e := expectedAt s.cfg p.chan.toNat p.a.toNat
       let step := expectedAt s.cfg p.chan.toNat p.b.toNat - e
       let v := verdict p.inject (((m 2 - m 0 : Int) : Rat) / ((step : Int) : Rat))
         (decide (64 < (m 0 - e).natAbs)) (decide (step.natAbs ≤ 2 * (m 3 - m 1).natAbs))
       ∃ u, exec .pathTestDone before = .next (complete p.ring 0
           ((BitVec.ofInt 16 (m 0)).toNat + (BitVec.ofInt 16 (m 2)).toNat * 65536 + v.toNat * 2 ^ 32) u) ∧
         let w := endPath p (s.upAdc fun a => { a with pt :=
           { chan := p.chan, inject := p.inject, verdict := v, meanA := BitVec.ofInt 16 (m 0)
             meanB := BitVec.ofInt 16 (m 2), nmeanA := BitVec.ofInt 16 (m 1), nmeanB := BitVec.ofInt 16 (m 3) } })
         if hasBit v 0 = true then u = w else Raised 0x54 w u) ∧
     (∀ (p : PathRun), s.adc.ptest = some p → p.atB = true → 2 ^ p.k.toNat ≤ p.n[2] → 2 ^ p.k.toNat ≤ p.n[3] →
       expectedAt s.cfg p.chan.toNat p.b.toNat = expectedAt s.cfg p.chan.toNat p.a.toNat →
       ∃ u x, exec .pathTestDone before = .next (complete p.ring 0 x u) ∧ u.adc.ptest = none ∧
         u.freeCount = s.freeCount + 1)) ∧
  (∀ (p : PathRun) (s : State), let t := endPath p s
     t.adc.ptest = none ∧ t.adc.taken = s.adc.taken.filter (fun x => x.use != .ptest) ∧ t.adc.pt = s.adc.pt ∧
       SameTour s.adc.tour t.adc.tour ∧ SameTour s.adc.pitch t.adc.pitch ∧ t.flt = s.flt ∧
       ∀ x, s.adc.tour = some x → x.calDone = false → x.startSlot ≤ p.since → p.since ≤ s.clk.slot →
         t.adc.tour = some { x with startSlot := x.startSlot + (s.clk.slot - p.since) }) ∧
  (∀ (inject offset mux : Bool) (k : Rat),
     let v := verdict inject k offset mux
     (v.getLsbD 1 = true ↔ inject = true ∧ 9 / 10 ≤ k) ∧
     (v.getLsbD 2 = true ↔ inject = true ∧ 12 / 100 < k ∧ k < 9 / 10) ∧
     (v.getLsbD 3 = true ↔ inject = false ∧ (k < 99 / 100 ∨ 101 / 100 < k)) ∧
     (v.getLsbD 4 = true ↔ inject = false ∧ offset = true) ∧
     (v.getLsbD 5 = true ↔ inject = false ∧ (k < 1 / 2 ∨ mux = true)) ∧
     (v.getLsbD 0 = true ↔ v.getLsbD 1 = false ∧ v.getLsbD 2 = false ∧ v.getLsbD 3 = false ∧
       v.getLsbD 4 = false ∧ v.getLsbD 5 = false))

/-- SLICE_ADMIT (R55): a slice in SERVICE or STEEP completes with 0x0000, one in PITCHING ends with 0x0104, one
that is OFF with 0x0105, and a number above 16 with 0x0102; one that has FAILED is accepted and begins its
absolute calibration in PITCHING, without a conversion-monitor history (the model's choice, log 66), where its
domain is on and no other slice is being pitched, and ends with 0x0105 otherwise. Completes: sliceAdmit.

The slices at work (R47 to R53). Four flagged conversions of the last 64 make a slice FAILED. Once its 32
768 conversions can have been made (log 54), an absolute calibration that passes sets OFS and GAIN, and one that
fails makes the slice FAILED. Once its 4096 conversions can have been made, a window of the slice in steep
corrects the slice that serves the position that it shadows, where the estimates stay within the limits, and
makes it FAILED where they do not. A rotation gives the slice in steep, its tour complete and its last window on
that position, the position whose slice is longest without calibration, under a slot-plan marker whose boundary
is a slot of the position. Each failure raises event 0x50. Completes: sliceFail, steepAbsoluteCalibrationDone,
shadowWindowEnd, rotation. -/
def Obligations.SlicePool : Prop :=
  (∀ (q : Ring) (s : State) (d : Desc) (n : SliceNo), ready s q 0x15 = some d →
     (d.pf 0 5 ≤ 16 → d.pf 0 5 = n.val) →
     ∃ t, exec (.sliceAdmit q) s = .next t ∧
       if 16 < d.pf 0 5 then Ends q 0x0102 0 s t
       else match s.adc.slices[n].state with
       | .service => Ends q 0 0 s t
       | .steep => Ends q 0 0 s t
       | .pitching => Ends q 0x0104 0 s t
       | .off => Ends q 0x0105 0 s t
       | .failed =>
         if domOn s (if n.val < 9 then 6 else 7) = false ∨ s.adc.pitch ≠ none then
           Ends q 0x0105 0 s t
         else Waits q true ((s.upSlice n fun a => { a with state := .pitching, good := 0, mon := 0 }).upAdc
           fun a => { a with
             admission := some q
             pitch := some { slice := n, calDone := false, windows := 0, missed := 0
                             startSlot := s.clk.slot, lastOn := none, claimed := none } }) t) ∧
  (∀ (s : State) (t : Tour) (sl : SliceNo),
     let many : Nat → Nat := fun n => n * if s.cfg.lpm then 64 else 16
     (domOn s pdFab = true → 4 ≤ countBits s.adc.slices[sl].mon →
       s.adc.slices[sl].state = .service ∨ s.adc.slices[sl].state = .steep ∨
         s.adc.slices[sl].state = .pitching →
       ∃ u, exec (.sliceFail sl) s = .next u ∧ hasBit u.flt.pend 0x50 = true ∧
         u.adc.slices[sl].state = .failed) ∧
     (s.adc.tour = some t → t.slice = sl → tourOf s sl = some t) ∧
     (s.adc.pitch = some t → t.slice = sl → (∀ x, s.adc.tour = some x → x.slice ≠ sl) → tourOf s sl = some t) ∧
     (tourOf s sl = some t → t.claimed = none → domOn s pdFab = true → s.clk.lock = true →
       domOn s pdAdc1 = true →
     (∀ cal, t.calDone = false → dacTaken s = false → t.startSlot + many 32768 ≤ s.clk.slot →
       ∀ r, absResult s.adc.ccal[(0x63 : Fin 104)] cal = some r →
       exec (.steepAbsoluteCalibrationDone sl cal) s = .next
         (putTour { t with calDone := true, startSlot := s.clk.slot } (s.upSlice sl fun a =>
           { a with ofs := r.1, gain := r.2, calAt := s.clk.slot, calOk := true }))) ∧
     (∀ cal, t.calDone = false → dacTaken s = false → t.startSlot + many 32768 ≤ s.clk.slot →
       absResult s.adc.ccal[(0x63 : Fin 104)] cal = none →
       ∃ u, exec (.steepAbsoluteCalibrationDone sl cal) s = .next u ∧ hasBit u.flt.pend 0x50 = true ∧
         u.adc.slices[sl].state = .failed) ∧
     (∀ (pairs : List ShadowPair) (p : Pos) (n : SliceNo), t.calDone = true →
       t.startSlot + many 4096 ≤ s.clk.slot → shadowPos s t = some p → s.adc.slotmap[p] = n → pairs ≠ [] →
       s.adc.slices[sl].state = .steep → s.adc.slices[n].state = .service → hasBit s.adc.mask p.val = false →
       ∃ u, exec (.shadowWindowEnd ⟨sl, pairs⟩) s = .next u ∧
         (beyond s.adc.slices[n] (estimate 1 pairs) = false →
           u = (putTour { t with windows := if t.windows.val < 16 then t.windows + 1 else 16
                                 startSlot := s.clk.slot
                                 lastOn := if t.windows.val < 16 then none else some p } s).upSlice n fun a =>
             correct a (estimate 1 pairs)) ∧
         (beyond s.adc.slices[n] (estimate 1 pairs) = true →
           hasBit u.flt.pend 0x50 = true ∧ u.adc.slices[n].state = .failed))) ∧
     (∀ p : Pos, s.adc.tour = some t → s.adc.slices[t.slice].state = .steep → t.claimed = none →
       s.cfg.roten = true → 16 ≤ t.windows.val → s.adc.slices[t.slice].calOk = true → s.adc.ptest = none →
       s.adc.rotAt + s.cfg.rotper * 256000 ≤ s.clk.slot → domOn s pdFab = true → s.clk.lock = true →
       domOn s pdAdc1 = true → oldestPos s = some p → t.lastOn = some p →
       ∃ u m, exec .rotation s = .next u ∧
         Joined [m] (s.upAdc fun a => { a with tour := some { t with claimed := some p }
                                               rotAt := s.clk.slot }) u ∧
         m.kind = .slotPlan ∧ m.tag = 0xFFFF ∧ m.targets = [.adc] ∧
         ∃ b, m.bstamp = some b ∧ s.clk.slot + 16 ≤ b ∧ (b / (if s.cfg.lpm then 4 else 1)) % 16 = p.val ∧
           m.changes = [.slotMap (vput (nextMap s).1 p t.slice) (putBit (nextMap s).2 p.val false)]))

/-! ## The fabric and the control engine -/

/-- The check of packet headers (R14, R15, R16) at a receiver, for packets of the kind that its path carries: one
of another kind, or with a length that the kind or the place has not, is refused and discarded, and leaves the
books of SEQ alone. The first packet of a sender (the model's choice, log 45) and the one that follows its last
SEQ are in order; a SEQ k ahead of the last, k from 2 to 511, tells that k − 1 packets are missing, and one that
repeats the last SEQ or lies behind it is discarded; the bound between the two is the model's (log 45). Gaps and
repeats are counted. A packet that is taken leaves its SEQ as the sender's last; nothing else changes. -/
def Obligations.PacketOrder : Prop :=
  ∀ (place : MarkerAt) (kind : Nat) (fits : Nat → Bool) (hdr : Word) (s : State),
    let src : BitVec 14 := BitVec.ofNat 14 (bitsOf hdr 0 14)
    let seen : SeqSeen → Prop := fun e => e.at_ = place ∧ e.src = src ∧ e.kind.toNat = kind
    let lens : Prop := fits (bitsOf hdr 18 4) = true ∧
      ((kind = 0 ∨ kind = 1 ∨ kind = 4) → bitsOf hdr 18 4 = 2) ∧ (kind = 5 → 2 ≤ bitsOf hdr 18 4) ∧
      1 ≤ bitsOf hdr 18 4 ∧ kind ≤ 8
    let taken : Prop := bitsOf hdr 14 4 = kind ∧ lens
    let u := (hear place kind fits hdr s).1
    let found := (hear place kind fits hdr s).2
    let counted := if s.fab.seqErr = 0xFFFFFFFF then s.fab.seqErr else s.fab.seqErr + 1
    u = { s with fab := { s.fab with lastSeq := u.fab.lastSeq, seqErr := u.fab.seqErr } } ∧
      (¬ taken → found = .refused ∧ u = s) ∧
      (taken → (∀ e ∈ s.fab.lastSeq, ¬ seen e) → found = .inOrder) ∧
      (taken → ∀ e, s.fab.lastSeq.find? (fun e => decide (seen e)) = some e →
        (bitsOf hdr 22 10 = (e.seq.toNat + 1) % 1024 → found = .inOrder) ∧
        (bitsOf hdr 22 10 = e.seq.toNat → found = .repeated) ∧
        (∀ k, 2 ≤ k → k < 512 → bitsOf hdr 22 10 = (e.seq.toNat + k) % 1024 → found = .missing (k - 1)) ∧
        (∀ k, 512 ≤ k → k < 1024 → bitsOf hdr 22 10 = (e.seq.toNat + k) % 1024 → found = .repeated)) ∧
      (found = .repeated → u.fab.lastSeq = s.fab.lastSeq ∧ u.fab.seqErr = counted) ∧
      ((∃ n, found = .missing n) → u.fab.seqErr = counted) ∧ (found = .inOrder → u.fab.seqErr = s.fab.seqErr) ∧
      (found = .inOrder ∨ (∃ n, found = .missing n) →
        (∀ e ∈ u.fab.lastSeq, seen e → e.seq.toNat = bitsOf hdr 22 10) ∧
        (∃ e ∈ u.fab.lastSeq, seen e) ∧ ∀ e, ¬ seen e → (e ∈ u.fab.lastSeq ↔ e ∈ s.fab.lastSeq))

/-- A gain word times a signal (R98) lies within half a unit of the exact product C × x × 2^-S, ties upward,
and saturates at 32 bits (R99); an on-time command never exceeds 0xFFFD (R17); the head's D lies between
DMIN and DMAX (R100, R103), at one of them while the boost band acts (R104); and the integrator stays between
its limits (R100).

The law on an active-path record while it drives the PWM subsystem (R17, R100): one DUTY packet, or two for
more than 30 positions, join those on their way with the rail and the sample's slot, and the 16 bits at the
position of each phase of the active set, as the engine has it, are the command that the head gives the phase; no
other rail of the engine changes, nor anything else but the rail's dither, which draws at every eighth head while
DITHEN is 1 (R210), until event 0x61 is raised for the first saturation since a swap (R99). -/
def Obligations.ControlLaw : Prop :=
  ((∀ (w : Word) (x : Int),
     let prod : Int := sbitsOf w 5 27 * x
     let ulp : Int := 2 ^ bitsOf w 0 5
     ((gain w x).val < 2 ^ 31 ∧ -(2 ^ 31) ≤ (gain w x).val) ∧
       ((gain w x).ovf = false →
         2 * prod < (2 * (gain w x).val + 1) * ulp ∧ (2 * (gain w x).val - 1) * ulp ≤ 2 * prod) ∧
       ((gain w x).ovf = true →
         ((gain w x).val = 2 ^ 31 - 1 ∧ (2 ^ 32 - 1) * ulp ≤ 2 * prod) ∨
           ((gain w x).val = -(2 ^ 31) ∧ 2 * prod < (-(2 ^ 32) - 1) * ulp))) ∧
   (∀ (g : Setup) (r : Nat) (d : Int), onTime g r d ≤ 0xFFFD) ∧
   ∀ (g : Setup) (r : Nat) (e : EngRail) (value : Int) (pos : Nat) (ref dith : Int),
     let dmax := (e.word 27).toInt
     let dmin := (e.word 28).toInt
     let h := runHead g r e value pos ref dith
     (dmin ≤ dmax → dmin ≤ h.d ∧ h.d ≤ dmax) ∧ (h.boost = .activeOn → h.d = dmax) ∧
       (h.boost = .activeOff → h.d = dmin) ∧
       (h.boost = .armed ∨ h.boost = .rearm → dmin ≤ h.du → h.du ≤ dmax → h.d = h.du) ∧
       (h.boost.isActive = true → (runTail e h).1.integ = e.integ) ∧
       (h.boost.isActive = false → (e.word 14).toInt ≤ (e.word 13).toInt →
         (e.word 14).toInt ≤ (runTail e h).1.integ ∧ (runTail e h).1.integ ≤ (e.word 13).toInt)) ∧
  (∀ (s : State) (r : Rail) (value : Int) (slot : Nat), ∃ u ms,
     let on := s.cfg.dithen r.val
     let draws : Prop := on = true ∧ s.fb[r].heads % 8 = 0
     let e := s.eng.rails[r]
     let ref := deliveredRef s r
     let hd := runHead s.cfg r.val e value (refPos s r.val slot) ref
       (if on then u.fb[r].d * (ref / 2000) else 0)
     u = { s with eng := { s.eng with rails := u.eng.rails, dutyQ := s.eng.dutyQ ++ ms }, fb := u.fb } ∧
       (ms.length = 1 ∨ (ms.length = 2 ∧ 30 < ms.foldl (fun n m => n + 2 * m.words.length) 0)) ∧
       (∀ m ∈ ms, m.rail = r ∧ m.stamp = slot ∧ m.lost = false) ∧
       (∀ h : Phase, hasBit (engActive s r) h.val = true →
         (∀ k : Phase, hasBit (engActive s r) k.val = true → dutyPlace s k = dutyPlace s h → k = h) →
         ∃ m ∈ ms, ∃ w ∈ m.words[dutyPlace s h / 2 - (if m.second then 15 else 0)]?,
           (m.second = true ↔ ms.length = 2 ∧ 30 ≤ dutyPlace s h) ∧
           bitsOf w (16 * (dutyPlace s h % 2)) 16 = (phaseCmd s r e hd slot h).1.code) ∧
       (∀ h : Phase, ∀ n, (phaseCmd s r e hd slot h).1 = .time n → n ≤ 0xFFFD) ∧
       (∀ k : Rail, k ≠ r → u.eng.rails[k] = s.eng.rails[k] ∧ u.fb[k] = s.fb[k]) ∧
       (let d := u.eng.rails[r]
        (d.bank = e.bank ∧ d.bankA = e.bankA ∧ d.bankB = e.bankB ∧ d.table = e.table ∧ d.mode = e.mode ∧
           d.vbus = e.vbus ∧ d.fcs = e.fcs ∧ d.assign = e.assign) ∧
         d.refPrev = some ref ∧ d.lastD = hd.d ∧ d.lastE = some (hd.e, slot) ∧ d.boost = hd.boost ∧
         d.dref = (match e.refPrev with | some p => ref - p | none => 0) ∧
         d.boostCount = (if d.boost = e.boost then e.boostCount else 0) ∧
         ((e.word 28).toInt ≤ (e.word 27).toInt →
           (e.word 28).toInt ≤ d.lastD ∧ d.lastD ≤ (e.word 27).toInt)) ∧
       u.fb[r].lfsr = (if draws then (ditherDraw s.fb[r].lfsr).1 else s.fb[r].lfsr) ∧
       u.fb[r].heads = s.fb[r].heads + 1 ∧
       (runLaw r value slot true s = u ∨
         (s.eng.rails[r].ovf = false ∧
           Raised 0x61 (u.upEngRail r fun e => { e with ovf := true }) (runLaw r value slot true s))))

/-- ERROR_SAMPLE (R16, R21, R23 to R26, R95, R100, R208): the record of the rail that is next on its way reaches the
pair that works on the rail. A gap in SEQ tells of records of the pair that should have come before it: their slots
are stale samples, one event 0x64 is raised, and the record behind the gap is the rail's next one after them. It is
not there before it has crossed the fabric, and it waits behind a marker of its stream whose boundary lies at or
before its slot: one for the rail that its pair is not held for, one for the engine, or a phase plan that the PWM
subsystem has not taken. The first record after a reset of the pair gives the held markers their boundary. In
agreement with the schedule's entry it is fresh: it clears the count of stale records and BLIND, and on the active
path it drives the law in the rail's mode. Otherwise it is stale: in DIGITAL and TRACK it is counted, and at the limit
the rail passes to its heel loop, unless it is blind already. A repeated packet and one of another kind are discarded,
with event 0x64 and a stale sample; the refused one's entry leaves the schedule, and the gap that it leaves behind is
not counted again, which is the model's choice (log 45). What a refused packet does to the count of stale samples is
the model's reading (log 46). Completes: errorSample. -/
def Obligations.ErrorSamples : Prop :=
  ∀ (s : State) (r : Rail) (hdr : Word) (seen : LaneSeen),
    let mine : Expected → Bool := fun e => match e.req with
      | .error k _ => k == r
      | .current _ _ => false
    (worksOn s r = none → exec (.errorSample r hdr seen) s = .next s) ∧
    (∀ p, worksOn s r = some p →
      let line := s.eng.sched.filter fun e => worksOn s (reqRail s.cfg e.req) == some p
      let h := hear (pairSeat p) 0 (fun _ => true) hdr s
      (h.2 = .repeated → ∃ v, Raised 0x64 h.1 v ∧ exec (.errorSample r hdr seen) s = .next (staleError r v)) ∧
      (h.2 = .refused →
        ((∀ e ∈ s.eng.sched, mine e = true → s.clk.slot < e.arrives) →
          ∃ v, Raised 0x64 s v ∧ exec (.errorSample r hdr seen) s = .next v) ∧
        ∀ e, s.eng.sched.find? (fun e => mine e && decide (e.arrives ≤ s.clk.slot)) = some e → ∃ u v,
          u = s.upPair p (fun k => { k with refused := k.refused + 1 }) ∧
          Raised 0x64 { u with eng := { u.eng with sched := u.eng.sched.erase e } } v ∧
          exec (.errorSample r hdr seen) s = .next (staleError r v)) ∧
      ∀ n, ((h.2 = .inOrder ∧ n = 0) ∨ ∃ k, h.2 = .missing k ∧ n = k - s.eng.pairs[p].refused) →
      ((line.drop n).find? mine = none → exec (.errorSample r hdr seen) s = .next s) ∧
      ∀ e, (line.drop n).find? mine = some e →
      let rec_ : BitVec 64 := match seen with
        | .sent => e.rec_
        | .garbled chan stamp => stamp ++ e.rec_.extractLsb' 23 9 ++ chan ++ e.rec_.extractLsb' 0 16
      let c := restampPairBy p e.stamp h.1
      let behind : Prop := (s.eng.rails[r].mode = .digital ∨ s.eng.rails[r].mode = .track) ∧
        ∃ m ∈ c.fab.markers, (∃ b, m.bstamp = some b ∧ b ≤ e.stamp) ∧
          ((.rail r ∈ m.targets ∧ s.eng.pairs[markerPair c r m].recov = false) ∨ .engine ∈ m.targets ∨
            (.pwm ∈ m.targets ∧ ∃ ws, .words .pwm ws ∈ m.changes))
      let heard := c.upPair p fun k => { k with refused := 0 }
      let fresh : Prop := (rec_.extractLsb' 16 7).toNat = e.chan.toNat ∧
        rec_.extractLsb' 32 32 = BitVec.ofNat 32 e.stamp ∧
        s.clk.slot - e.stamp ≤ (if s.cfg.lpm then 39 else 12) ∧ rec_.getLsbD 30 = false
      let remote := decide ((rec_.extractLsb' 16 7).toNat < 0x38)
      (s.clk.slot < e.arrives → exec (.errorSample r hdr seen) s = .next s) ∧
      (e.arrives ≤ s.clk.slot → behind → exec (.errorSample r hdr seen) s = .next (restampPairBy p e.stamp s)) ∧
      (e.arrives ≤ s.clk.slot → ¬ behind → ∃ v t,
        (h.2 = .inOrder → v = heard) ∧ ((∃ k, h.2 = .missing k) → Raised 0x64 heard v) ∧
        (let u := missRecords (line.take n) v
         t = { u with eng := { u.eng with sched := u.eng.sched.erase e } }) ∧
        (¬ fresh → exec (.errorSample r hdr seen) s = .next (staleError r t)) ∧
        (fresh → exec (.errorSample r hdr seen) s = .next (freshError r rec_ t) ∧ ∃ u x w,
          u = (t.upFb r fun f => { f.upCheck remote fun k => { k with
            last := some { value := (rec_.extractLsb' 0 16).toInt, range := rec_.getLsbD 29
                           slot := fullSlot t (rec_.extractLsb' 32 32) }
            ranges := if rec_.getLsbD 29 = true then k.ranges + 1 else 0 } with stale := 0, blind := false }) ∧
          x = (let y := joinBall r remote (rec_.extractLsb' 0 16).toInt
                 (fullSlot t (rec_.extractLsb' 32 32)) u
            if onActive t.fb[r] remote = true then
              activeSample r (rec_.extractLsb' 0 16).toInt (fullSlot t (rec_.extractLsb' 32 32)) y
            else if t.fb[r].path = .comparator then countMove r y else y) ∧
          freshError r rec_ t = overvoltCheck r w ∧ (regulating x r = false → w = x)))) ∧
    (∀ (p : PairNo) (b : Nat) (m : Marker),
      let ofPair : MarkerAt → Prop := fun t => ∃ k, t = .rail k ∧ markerPair s k m = p
      m ∈ s.fab.markers →
      ((∃ t ∈ m.restamp, ofPair t) → ∃ u ∈ (restampPairBy p b s).fab.markers, u.bstamp = some b ∧
        u = { m with bstamp := u.bstamp, restamp := u.restamp } ∧ ∀ t, t ∈ u.restamp ↔ t ∈ m.restamp ∧ ¬ ofPair t) ∧
      ((∀ t ∈ m.restamp, ¬ ofPair t) → m ∈ (restampPairBy p b s).fab.markers) ∧
      restampPairBy p b s = { s with fab := { s.fab with markers := (restampPairBy p b s).fab.markers } }) ∧
    (missRecords [] s = s ∧ ∀ e es,
      let u := { s with eng := { s.eng with sched := s.eng.sched.erase e } }
      (∀ k b, e.req = .error k b → missRecords (e :: es) s = missRecords es (staleError k u)) ∧
      ∀ k b, e.req = .current k b → missRecords (e :: es) s = missRecords es u) ∧
    ∀ (f : FbRail) (e : EngRail), s.fb[r] = f → s.eng.rails[r] = e →
      let counted := s.upFb r fun f => { f with freshRun := 0, stale := f.stale + 1 }
      let blind := s.upFb r fun f => { f with freshRun := 0, stale := f.stale + 1, blind := true }
      (e.mode = .off ∨ e.mode = .heel →
        staleError r s = s.upFb r fun f => { f with freshRun := 0 }) ∧
      (e.mode = .digital ∨ e.mode = .track → f.stale + 1 < s.cfg.blind r.val ∨ f.blind = true →
        staleError r s = counted) ∧
      (e.mode = .digital → s.cfg.blind r.val ≤ f.stale + 1 → f.blind = false →
        staleError r s = passToHeel r 2 blind) ∧
      (e.mode = .track → s.cfg.blind r.val ≤ f.stale + 1 → f.blind = false →
        Raised 0x67 (((holdSetpoint r blind).upEngRail r fun e => { e with mode := .heel, track := 0 }).upFb r fun f =>
          { f with hcause := 2, hent := f.hent + 1 }) (staleError r s))

/-- CURRENT_SAMPLE (R16, R21, R107, R116, R157, R162): the record of the phase that is next on its way, which waits as an
error sample does. Fresh and in order it becomes the phase's current with its sign, and one of the 256 offset samples
of a phase being pitched; for an active phase the balance trim and the plausibility check follow: at PLCNT fresh
samples in a row further from the target than PLAUS allows, 64 periods after the phase joined and in DIGITAL, the
phase is racked with cause 2. A stale one leaves the phase as it was, and so does a repeated packet or one of another
kind, with event 0x64. Completes: currentSample. -/
def Obligations.CurrentSamples : Prop :=
  ∀ (s : State) (h : Phase) (hdr : Word) (seen : LaneSeen),
    let r := railOf s.cfg h
    let mine : Expected → Bool := fun e => match e.req with
      | .error _ _ => false
      | .current k _ => k == h
    (worksOn s r = none → exec (.currentSample h hdr seen) s = .next s) ∧
    (∀ p, worksOn s r = some p →
      let line := s.eng.sched.filter fun e => worksOn s (reqRail s.cfg e.req) == some p
      let k := hear (pairSeat p) 0 (fun _ => true) hdr s
      (k.2 = .repeated → ∃ v, Raised 0x64 k.1 v ∧ exec (.currentSample h hdr seen) s = .next v) ∧
      (k.2 = .refused →
        ((∀ e ∈ s.eng.sched, mine e = true → s.clk.slot < e.arrives) →
          ∃ v, Raised 0x64 s v ∧ exec (.currentSample h hdr seen) s = .next v) ∧
        ∀ e, s.eng.sched.find? (fun e => mine e && decide (e.arrives ≤ s.clk.slot)) = some e → ∃ u v,
          u = s.upPair p (fun k => { k with refused := k.refused + 1 }) ∧
          Raised 0x64 { u with eng := { u.eng with sched := u.eng.sched.erase e } } v ∧
          exec (.currentSample h hdr seen) s = .next v) ∧
      ∀ n, ((k.2 = .inOrder ∧ n = 0) ∨ ∃ j, k.2 = .missing j ∧ n = j - s.eng.pairs[p].refused) →
      ((line.drop n).find? mine = none → exec (.currentSample h hdr seen) s = .next s) ∧
      ∀ e, (line.drop n).find? mine = some e →
      let rec_ : BitVec 64 := match seen with
        | .sent => e.rec_
        | .garbled chan stamp => stamp ++ e.rec_.extractLsb' 23 9 ++ chan ++ e.rec_.extractLsb' 0 16
      let c := restampPairBy p e.stamp k.1
      let behind : Prop := (s.eng.rails[r].mode = .digital ∨ s.eng.rails[r].mode = .track) ∧
        ∃ m ∈ c.fab.markers, (∃ b, m.bstamp = some b ∧ b ≤ e.stamp) ∧
          ((.rail r ∈ m.targets ∧ s.eng.pairs[markerPair c r m].recov = false) ∨ .engine ∈ m.targets ∨
            (.pwm ∈ m.targets ∧ ∃ ws, .words .pwm ws ∈ m.changes))
      let heard := c.upPair p fun k => { k with refused := 0 }
      let fresh : Prop := (rec_.extractLsb' 16 7).toNat = e.chan.toNat ∧
        rec_.extractLsb' 32 32 = BitVec.ofNat 32 e.stamp ∧
        s.clk.slot - e.stamp ≤ (if s.cfg.lpm then 39 else 12) ∧ rec_.getLsbD 30 = false
      let value := (rec_.extractLsb' 0 16).toInt
      (s.clk.slot < e.arrives → exec (.currentSample h hdr seen) s = .next s) ∧
      (e.arrives ≤ s.clk.slot → behind → exec (.currentSample h hdr seen) s = .next (restampPairBy p e.stamp s)) ∧
      (e.arrives ≤ s.clk.slot → ¬ behind → ∃ y u,
        (k.2 = .inOrder → y = heard) ∧ ((∃ j, k.2 = .missing j) → Raised 0x64 heard y) ∧
        (let z := missRecords (line.take n) y
         u = { z with eng := { z.eng with sched := z.eng.sched.erase e } }) ∧
        (¬ fresh → exec (.currentSample h hdr seen) s = .next u) ∧
        let x := u.pwm.phases[h]
        let r := railOf u.cfg h
        let i : Int := value - x.zofs.toInt
        let hys : Int := bitsOf (u.eng.rails[r].word 29) 0 16
        let sign := if x.sinking = true then decide (i ≤ hys) else decide (i < -hys)
        (fresh → x.state = .pitching → x.zCount < 256 →
          exec (.currentSample h hdr seen) s = .next (u.upPhase h fun p =>
            { p with cur := some value, sinking := sign, zCount := p.zCount + 1, zSum := p.zSum + value })) ∧
        (fresh → x.state ≠ .active → (x.state = .pitching → 256 ≤ x.zCount) →
          exec (.currentSample h hdr seen) s = .next (u.upPhase h fun p =>
            { p with cur := some value, sinking := sign })) ∧
        (fresh → x.state = .active →
          ∃ v w, v = u.upPhase h (fun p => { p with
              cur := some value, sinking := sign, trimI := v.pwm.phases[h].trimI
              trim := v.pwm.phases[h].trim }) ∧
            (let lim := (u.eng.rails[r].word 26).toInt
             0 ≤ lim → -lim ≤ v.pwm.phases[h].trim ∧ v.pwm.phases[h].trim ≤ lim ∧
               -lim ≤ v.pwm.phases[h].trimI ∧ v.pwm.phases[h].trimI ≤ lim) ∧
            (w = v ∨ (u.eng.rails[r].ovf = false ∧
              Raised 0x61 (v.upEngRail r fun e => { e with ovf := true }) w)) ∧
            exec (.currentSample h hdr seen) s = .next (plausible h i w)))) ∧
    ∀ (i : Int),
      let x := s.pwm.phases[h]
      let tested : Prop := s.eng.rails[r].mode = .digital ∧ s.cfg.plen h.val = true ∧ 64 ≤ x.periods
      let far : Prop := ((s.cfg.plaus r.val * 16 : Nat) : Int) < ((i - x.iTgt).natAbs : Int)
      (¬ tested → plausible h i s = s) ∧
      (tested → ¬ far → plausible h i s = s.upPhase h fun p => { p with implausible := 0 }) ∧
      (tested → far → x.implausible + 1 < s.cfg.plcnt r.val →
        plausible h i s = s.upPhase h fun p => { p with implausible := p.implausible + 1 }) ∧
      (tested → far → s.cfg.plcnt r.val ≤ x.implausible + 1 → plausible h i s = rackPhase h 2 s)

/-- VBUS_STALE raises event 0x65 once for a used rail with FFV 1, when 1 ms has passed since its latest fresh result
and since it was enabled (R105). Two periods after its t_f a forecast is a hit where the rail's current has moved the
way it said by at least half of it, and else a miss: counted, one event 0x63 each, and at FCMISS or more in a row the
rail's forecasts are suspended with an alert to its owner; a suspension ends with its count at 0 (R122). When the
check falls, and that a count beyond FCMISS suspends too, are the model's reading (log 20). Completes: vbusStale,
forecastMissCheck, forecastSuspendEnd. -/
def Obligations.ForecastChecks : Prop :=
  ∀ (s : State) (r : Rail),
    let e := s.eng.rails[r]
    let late : Prop := e.vbusAt + 256000 ≤ s.clk.slot ∧ e.enabledAt + 256000 ≤ s.clk.slot
    let due : Forecast → Prop := fun f => f.tF * 64 + 2 * periodSteps s.cfg r.val * 15625 ≤ instantNow s * 64
    (s.cfg.ffv r.val = true → railOff s r = false → e.vbold = false → late →
      ∃ t, exec (.vbusStale r) s = .next t ∧
        Raised 0x65 (s.upEngRail r fun e => { e with vbold := true }) t) ∧
    (s.cfg.ffv r.val = false ∨ railOff s r = true ∨ e.vbold = true ∨ ¬ late →
      exec (.vbusStale r) s = .next s) ∧
    ((∀ f ∈ e.fcs, ¬ due f) → exec (.forecastMissCheck r) s = .next s) ∧
    (∀ f, e.fcs.find? (fun f => decide (due f)) = some f →
      let change := railCurrent s r - f.sumAt
      let hit : Prop := 0 < change * f.dI ∧ f.dI.natAbs ≤ 2 * change.natAbs
      (hit → exec (.forecastMissCheck r) s = .next (s.upEngRail r fun e =>
        { e with fcs := e.fcs.erase f, fcConsec := 0 })) ∧
      (¬ hit → ∃ u t, exec (.forecastMissCheck r) s = .next t ∧
        Raised 0x63 (s.upEngRail r fun e =>
          { e with fcs := e.fcs.erase f, fcConsec := e.fcConsec + 1
                   fcMissc := if e.fcMissc = 0xFF then 0xFF else e.fcMissc + 1 }) u ∧
        (e.fcConsec + 1 < s.cfg.fcmiss ∨ u.eng.rails[r].fcsusp = true → t = u) ∧
        (s.cfg.fcmiss ≤ e.fcConsec + 1 → u.eng.rails[r].fcsusp = false →
          t = { (u.upEngRail r fun e => { e with fcsusp := true }) with prn := t.prn } ∧
            t.prn = { u.prn with ports := t.prn.ports } ∧
            ∀ n : Port, t.prn.ports[n] =
              if owns s n r = true ∧ u.prn.ports[n].state ≠ .disabled then
                { u.prn.ports[n] with alert := putBit u.prn.ports[n].alert 7 true }
              else u.prn.ports[n]))) ∧
    (e.fcsusp = true → exec (.forecastSuspendEnd r) s = .next (s.upEngRail r fun e =>
      { e with fcsusp := false, fcConsec := 0 })) ∧
    (e.fcsusp = false → exec (.forecastSuspendEnd r) s = .next s)

/-- Checkpoints (R16, R125): at a multiple of 64 000 ticks a pair that runs puts one copy of each of its rails into
the store in PD_ENGA, once; even sequence numbers go to copy A and odd ones to copy B. Its rails are those with EN 1
that the sequencer has enabled, which is the model's choice (log 24). With all packets in order every rail has its
copy; with a CRC that fails, which raises event 0x62, there is no copy in its place, and without all its packets there
is none either, which is the model's reading (log 9). Completes: checkpoint.

Lockstep (R126 to R130). A mismatch blocks the pair: it is in recovery, the mismatch is dated and counted, its DUTY
packets and expected records are dropped and its receivers forget their SEQ; event 0x60 is raised, a class A condition
where a regulating rail of the pair has no heel loop, and else its rails pass to their heel loops; MMLIM mismatches in
10 s make the pair FAILED. A restore ends the recovery, the rails from their newest checkpoints, or as R109 gives them
with event 0x62 where there is none, and the markers under way to the pair await the first record for their boundary
(R26); a failed self-test makes the pair FAILED with event 0x60. TRACK_END after 64 tracked samples returns the rail
to DIGITAL; where a part of i_lost has waited for this head, the feed-forward term that it enters can saturate, and
raise event 0x61 (R99, R159, R161). Completes: lockstepMismatch, lanePairRestore, trackEnd. -/
def Obligations.CheckpointsAndLockstep : Prop :=
  (∀ (s : State) (p : PairNo) (hs : List Word) (src : BitVec 14) (n : Nat), s.cfg.ckpen = true →
     pairRuns s p = true → domOn s pdEngA = true → s.tmr.now.toNat % 64000 = 0 →
     let once : State → State := fun s => s.upPair p fun k => { k with ckAt := some s.tmr.now }
     let put : Option Ckpt → EngRail → EngRail := fun v e =>
       if e.ckNext.toNat % 2 = 0 then { e with ckA := v, ckNext := e.ckNext + 1 }
       else { e with ckB := v, ckNext := e.ckNext + 1 }
     let rs := (railsServed s p).filter fun r => s.eng.rails[r].enabled
     let lens := rs.flatMap fun r =>
       let w := ((held s r.val).length + 1) / 2
       if w ≤ 13 then [15, w + 2] else [15, 15, w - 12]
     let inOrder : Prop := hs.length = lens.length ∧
       (∀ e ∈ s.fab.lastSeq, e.at_ = .engine → e.src = src → e.kind = 5 → n = (e.seq.toNat + 1) % 1024) ∧
       ∀ i w, hs[i]? = some w → bitsOf w 0 14 = src.toNat ∧ bitsOf w 14 4 = 5 ∧
         lens[i]? = some (bitsOf w 18 4) ∧ bitsOf w 22 10 = (n + i) % 1024
     (s.eng.pairs[p].ckAt = some s.tmr.now → ∀ bad, exec (.checkpoint p (hs.map some) bad) s = .next s) ∧
     (s.eng.pairs[p].ckAt ≠ some s.tmr.now →
       (inOrder → ∃ t, exec (.checkpoint p (hs.map some) 0) s = .next t ∧
         t = { once s with
           eng := { (once s).eng with rails := t.eng.rails }
           fab := { s.fab with lastSeq := t.fab.lastSeq } } ∧
         ∀ r : Rail, t.eng.rails[r] =
           if s.cfg.engEn r.val = true ∧ s.eng.rails[r].enabled = true ∧ pairOf s r = p then put (some (checkpointOf s r)) s.eng.rails[r]
           else s.eng.rails[r]) ∧
       (inOrder → ∀ (r : Rail) (bad : BitVec 8), rs = [r] → hasBit bad r.val = true →
         ∃ t u, exec (.checkpoint p (hs.map some) bad) s = .next t ∧
           Raised 0x62 ({ once s with fab := u }.upEngRail r (put none)) t) ∧
       (∀ (r : Rail) (bad : BitVec 8), rs = [r] → hasBit bad r.val = false →
         exec (.checkpoint p [] bad) s = .next ((once s).upEngRail r (put none))))) ∧
  (∀ (s : State) (p : PairNo),
     let mine : Rail → Bool := fun r => pairOf s r == p
     let times := (s.clk.slot :: s.eng.pairs[p].times).filter fun x => decide (s.clk.slot - x < 2560000000)
     let grave : Prop := ∃ r : Rail, s.cfg.engEn r.val = true ∧ mine r = true ∧ regulating s r = true ∧
       heelAvail s r = false
     (∀ cycle, pairRuns s p = true → ∃ u w x t, exec (.lockstepMismatch p cycle) s = .next t ∧
       u = { s with
         eng := { s.eng with
           pairs := vmod s.eng.pairs p fun k => { k with
             recov := true, times := times
             mismatches := if k.mismatches = 0xFF then 0xFF else k.mismatches + 1 }
           dutyQ := s.eng.dutyQ.filter fun m => !mine m.rail
           sched := s.eng.sched.filter fun x => !mine (reqRail s.cfg x.req) }
         fab := { s.fab with lastSeq := s.fab.lastSeq.filter fun e => !(e.at_ == pairSeat p) } } ∧
       (grave → s.flt.classA = false → Raised 0x60 u w ∧ (domOn s pdFab = true → w.flt.classA = true) ∧ x = w) ∧
       (¬ grave → Raised 0x60 u w ∧ x = State.each (railsServed s p) lockstepRail w) ∧
       (times.length < s.cfg.mmlim → t = x) ∧
       (s.cfg.mmlim ≤ times.length →
         Raised 0x60 (x.upPair p fun k => { k with recov := false, failed := true }) t)) ∧
     (∀ cycle, pairRuns s p = false → exec (.lockstepMismatch p cycle) s = .next s) ∧
     (∀ r : Rail, (s.eng.rails[r].mode = .off → lockstepRail r s = s) ∧
       (s.eng.rails[r].mode = .digital → s.fb[r].hact = false → lockstepRail r s = heelEntry r 1 s) ∧
       (s.eng.rails[r].mode = .heel → s.fb[r].hact = true → s.fb[r].hcause ≠ 3 → s.fb[r].hcause ≠ 5 →
         lockstepRail r s = s.upFb r fun f => { f with hcause := 1, freshRun := 0 })) ∧
     (s.eng.pairs[p].recov = true → domOn s (pairDom p) = true →
       (∃ t, exec (.lanePairRestore p false) s = .next t ∧
         Raised 0x60 (s.upPair p fun k => { k with recov := false, failed := true }) t) ∧
       ((∀ r : Rail, mine r = true → s.cfg.engEn r.val = true → s.eng.rails[r].enabled = true →
           (newestCkpt s.eng.rails[r]).isSome = true) →
         ∃ t, exec (.lanePairRestore p true) s = .next t ∧
           t = { s with
             eng := { s.eng with
               rails := t.eng.rails, pairs := vmod s.eng.pairs p fun k => { k with recov := false } }
             pwm := { s.pwm with phases := t.pwm.phases }
             fab := { s.fab with markers := s.fab.markers.map fun m =>
               if m.bstamp.isSome = true then
                 { m with restamp := m.restamp ++ m.targets.filter fun a => match a with
                     | .rail r => markerPair s r m == p && !m.restamp.contains a
                     | _ => false }
               else m } } ∧
           (∀ h : Phase, t.pwm.phases[h] =
             { s.pwm.phases[h] with trim := t.pwm.phases[h].trim, trimI := t.pwm.phases[h].trimI }) ∧
           ∀ r : Rail,
             let e := s.eng.rails[r]
             (mine r = true → s.cfg.engEn r.val = true → e.enabled = true →
               ∀ c, newestCkpt e = some c →
                 let back := e.mode = .heel ∧ s.fb[r].hcause = 1 ∧ s.fb[r].path ≠ .comparator
                 t.eng.rails[r] = { e with
                   boost := c.boost, boostCount := c.boostCount, fcConsec := c.misses
                   fcsusp := c.fcsusp, integ := c.integ, s11 := c.s11, s12 := c.s12, s21 := c.s21
                   s22 := c.s22, vbus := c.vbus, rvb := c.rvb, iLost := c.iLost, lastD := c.lastD
                   refPrev := none
                   mode := if back then .track else e.mode, track := if back then 0 else e.track }) ∧
             (mine r = false ∨ s.cfg.engEn r.val = false ∨ e.enabled = false → t.eng.rails[r] = e))) ∧
     (s.eng.pairs[p].recov = false ∨ domOn s (pairDom p) = false →
       ∀ passed, exec (.lanePairRestore p passed) s = .next s) ∧
     ∀ r : Rail,
       (newestCkpt s.eng.rails[r] = none → ∃ v : State, Raised 0x62 v (reloadRail r s) ∧
         v = { s with eng := { s.eng with rails := v.eng.rails }, pwm := { s.pwm with phases := v.pwm.phases } } ∧
         v.eng.rails[r] = { s.eng.rails[r] with
           boost := .armed, boostCount := 0, integ := 0, s11 := 0, s12 := 0, s21 := 0, s22 := 0
           ff := 0, iLost := 0, refPrev := none } ∧
         ∀ h ∈ held s r.val, v.pwm.phases[h] = { s.pwm.phases[h] with trim := 0, trimI := 0 }) ∧
       (s.eng.rails[r].mode = .track → 64 ≤ s.eng.rails[r].track → s.eng.rails[r].assign = none →
         ∃ t, exec (.trackEnd r) s = .next t ∧
         ((s.pwm.rails[r].loss = [] ∧ s.eng.rails[r].iLost = 0) ∨ s.eng.rails[r].ovf = true →
           t.eng.rails[r].mode = .digital ∧ t.eng.rails[r].track = 0 ∧
           t.fb[r] = { s.fb[r] with
             hact := false, blind := false, firing := [], firedAt := none, freshRun := 0, stale := 0 } ∧
           t.pwm.rails[r].act = (if s.cfg.pwmMode r.val = 0 then phaseSet (held s r.val)
             else lowest s r.val (ruleOne s r s.pwm.rails[r].iAvg)) ∧
           (∀ k : Rail, k ≠ r → t.eng.rails[k] = s.eng.rails[k] ∧ t.fb[k] = s.fb[k]) ∧
           t.seq = s.seq ∧ t.adc = s.adc ∧ t.flt = s.flt ∧ t.regs = s.regs)) ∧
       (s.eng.rails[r].mode ≠ .track ∨ s.eng.rails[r].track < 64 ∨ s.eng.rails[r].assign ≠ none →
         exec (.trackEnd r) s = .next s))

/-! ## The heel loop and the phases -/

/-- The heel loop's pulses and its monitor (R217, R222, R223), on the time of the RC oscillator (R12, R219). While the
window calls below its valley and not above its ceiling, and HBLANK has passed since the last pulse of the set began,
an on-pulse of HTON starts on the next position in rotation by ORDER that has rested for HOFF, and a substitute's
first one ends the wait of its part of i_lost (R159). Its end leaves the phase LOW, or MID where its own window has
tripped low; the monitor counts bad pulses in a row while the PLL is locked. Two of them, or a stall, fail the loop
that carries its rail: feedback NONE, the law off, event 0x66 and a running fault of the rail. A bad test pulse, at a
multiple of 64 000 ticks, raises event 0x66 where the loop becomes unavailable by it. Completes: heelBlankExpiry,
heelOnTimeEnd, heelStall, heelTestPulse.

A rail in DIGITAL passes to its heel loop (R163, R193, R216, R217): HACT with its cause, one more entry counted, the
law at rest, light and shedding over, a pitching on it ended with 0x0105, its target held where REF stands unless it
ramps down in a take-down, SPHELD set at its owner (R201), the levels of its local window the heel's, and event 0x67;
a pitching whose end takes the held positions below NFLOOR has its own consequences (R161). A rail in TRACK goes back
to HEEL likewise, with the new cause and the event, and one in HEEL that loses both paths does with no new target
(R214); what a further passage does is the model's reading (log 15). Without a heel loop nothing carries the rail any
more. -/
def Obligations.Heel : Prop :=
  (∀ (s : State) (r : Rail),
     let w := wires s (localWin r)
     let now := s.clk.rc * 64
     let blank : Prop := ∀ t, s.fb[r].firedAt = some t → t + 128 * s.cfg.hblank r.val ≤ now
     let failed : Nat → Nat → State → State → Prop := fun elem cause v t =>
       v.pwm.rails[r].admission = none ∨ (held v r.val).length < v.cfg.nfloor r.val ∨ v.cfg.nfloor r.val = 0 → ∃ a b,
       a.fb[r].path = .none ∧ a.fb[r].hact = false ∧ a.fb[r].adj = false ∧ a.eng.rails[r].mode = .off ∧
       a.eng.rails[r].enabled = false ∧ a.regs = v.regs ∧ a.adc = v.adc ∧ a.seq = v.seq ∧
       a.flt = v.flt ∧ a.prn = v.prn ∧ (∀ k : Rail, k ≠ r → a.fb[k].path = v.fb[k].path ∧
         a.fb[k].hact = v.fb[k].hact ∧ a.eng.rails[k] = v.eng.rails[k]) ∧
       b = raise 0x66 (srcId 0x5 0x1 r.val elem cause) 0 a ∧ Raised 0x66 a b ∧
       t = settle (runningFault (idxOf r) 4 0 true (refreshPhases r (refreshCodes r b)))
     (∀ h, restedFor s r h = true ↔ s.pwm.phases[h].lastOn now = 0 ∨
       s.pwm.phases[h].lastOn now + 128 * s.cfg.hoff r.val ≤ now) ∧
     (∀ k h, s.fb[r].hact = true → w.low = true → w.high = false → blank →
       (rotation s r).find? (fun e => !s.fb[r].firing.contains e.2 && restedFor s r e.2) = some (k, h) →
       ∃ v t, exec (.heelBlankExpiry r) s = .next t ∧
         v = { (s.upPhase h fun p => { p with
               drive := .pulses, past := t.pwm.phases[h].past
               pulse := some { onAt := now, offAt := now + 128 * s.cfg.hton r.val, again := none } })
           with fb := vmod s.fb r fun f => { f with next := k + 1, firedAt := some now, firing := f.firing ++ [h] } } ∧
         t = v.upPwmRail r fun w => { w with
           loss := w.loss.map fun l =>
             if s.pwm.phases[h].subfor = some l.pos ∧ l.wait = none then { l with wait := some 0 } else l }) ∧
     (∀ e ∈ rotation s r, e.1 < nActPlan s.cfg r.val ∧ holder s r.val e.1 = some e.2) ∧
     (∀ (i j : Nat) (a b : Nat × Phase), (rotation s r)[i]? = some a → (rotation s r)[j]? = some b → i < j →
       let n := s.fb[r].next
       (n ≤ a.1 ∧ b.1 < n) ∨ (a.1 < b.1 ∧ (n ≤ a.1 ↔ n ≤ b.1))) ∧
     (∀ k h, k < nActPlan s.cfg r.val → holder s r.val k = some h → (k, h) ∈ rotation s r) ∧
     (s.fb[r].hact = false ∨ w.low = false ∨ w.high = true ∨ ¬ blank →
       exec (.heelBlankExpiry r) s = .next s) ∧
     (∀ h ok, s.fb[r].hact = true → h ∈ s.fb[r].firing →
       ∃ v t, exec (.heelOnTimeEnd r h ok) s = .next t ∧
         v = { (s.upPhase h fun p => { p with
               drive := if (wires s (⟨h.val, by omega⟩ : Window)).low then .mid else .pulses
               pulse := none, past := v.pwm.phases[h].past })
             with fb := v.fb } ∧
         v.fb = vmod s.fb r (fun f => { f with
           firing := f.firing.filter fun e => e != h
           badPulses := if s.clk.lock = false then f.badPulses else if ok then 0 else f.badPulses + 1 }) ∧
         (v.fb[r].badPulses < 2 → t = v) ∧ (2 ≤ v.fb[r].badPulses → failed 2 2 v t)) ∧
     (s.fb[r].hact = true → w.low = true → ∃ t, exec (.heelStall r false) s = .next t ∧ failed 1 3 s t) ∧
     (s.fb[r].hact = true → w.high = true → s.fb[r].firing = [] →
       ∃ t, exec (.heelStall r true) s = .next t ∧ failed 1 4 s t) ∧
     (s.fb[r].hact = false → (∀ c, exec (.heelStall r c) s = .next s) ∧
       ∀ h ok, exec (.heelOnTimeEnd r h ok) s = .next s) ∧
     (∀ ok, domOn s pdPwm = true → s.cfg.hen r.val = true → s.fb[r].hact = false →
       s.tmr.now.toNat % 64000 = 0 → s.fb[r].testAt ≠ some s.tmr.now →
       let v := s.upFb r fun f => { f with
         testAt := some s.tmr.now
         badPulses := if s.clk.lock = false then f.badPulses else if ok then 0 else f.badPulses + 1 }
       ∃ t, exec (.heelTestPulse r ok) s = .next t ∧
         (heelAvail s r = true → heelAvail v r = false → Raised 0x66 v t) ∧
         (heelAvail s r = false ∨ heelAvail v r = true → t = v))) ∧
  ((∀ (s : State) (r : Rail) (cause : Fin 16), s.fb[r].hact = false → s.cfg.hen r.val = true →
     s.eng.rails[r].mode = .digital → 2 ≤ cause.val → cause.val ≤ 5 →
     s.pwm.rails[r].admission = none ∨ (held s r.val).length < s.cfg.nfloor r.val ∨ s.cfg.nfloor r.val = 0 →
     ∃ u, Raised 0x67 u (passToHeel r cause.val s) ∧ u.regs = s.regs ∧ u.flt = s.flt ∧ u.seq = s.seq ∧
       u.adc = s.adc ∧
       u.fb[r] = { s.fb[r] with
         hact := true, hcause := BitVec.ofNat 4 cause.val, hent := s.fb[r].hent + 1, freshRun := 0
         firing := u.fb[r].firing, firedAt := u.fb[r].firedAt, next := u.fb[r].next
         path := if cause.val = 3 then .comparator else s.fb[r].path } ∧
       u.fb[r].firing.length ≤ 1 ∧
       u.eng.rails[r].mode = .heel ∧ u.eng.rails[r].track = 0 ∧
       (∀ f ∈ u.eng.rails[r].fcs, f.tF ≤ instantNow s) ∧
       u.pwm.rails[r].admission = none ∧ u.pwm.rails[r].lightNext = false ∧
       u.pwm.rails[r].shedding = none ∧ u.pwm.rails[r].opmode ≠ .light ∧
       (∀ a, s.pwm.rails[r].admission = some a → u.pwm.phases[a.phase].state = .racked ∧
         u.hif.sq[a.ring].exec = none) ∧
       u.prn.rails[r] = (if s.prn.rails[r].seqown = true ∧ s.seq.rails[idxOf r].state = .stop then s.prn.rails[r] else
         { s.prn.rails[r] with tgt := BitVec.ofNat 16 (s.prn.rails[r].ref / 65536), notify := false }) ∧
       (∀ n : Port, u.prn.ports[n] = if owns s n r = true ∧ s.prn.ports[n].state ≠ .disabled then
           { s.prn.ports[n] with alert := putBit s.prn.ports[n].alert 4 true }
         else s.prn.ports[n]) ∧
       (let t := deliveredRef s r
        u.cmp.win[localWin r] = { s.cmp.win[localWin r] with
         lo := lowCode s.cfg r.val t (s.cfg.hlo r.val), hi := highCode s.cfg r.val t (s.cfg.hhi r.val) }) ∧
       (∀ k : Rail, k ≠ r → u.fb[k] = s.fb[k] ∧ u.eng.rails[k] = s.eng.rails[k] ∧
         u.prn.rails[k] = s.prn.rails[k])) ∧
   ∀ (s : State) (r : Rail) (cause : Fin 16),
     (s.eng.rails[r].mode = .off → passToHeel r cause.val s = s) ∧
     (∃ v, holdSetpoint r s = { s with prn := v } ∧
       v = { s.prn with rails := v.rails, ports := v.ports } ∧ (∀ k : Rail, k ≠ r → v.rails[k] = s.prn.rails[k]) ∧
       v.rails[r] = (if s.prn.rails[r].seqown = true ∧ s.seq.rails[idxOf r].state = .stop then s.prn.rails[r] else
         { s.prn.rails[r] with tgt := BitVec.ofNat 16 (s.prn.rails[r].ref / 65536), notify := false }) ∧
       ∀ n : Port, v.ports[n] = if owns s n r = true ∧ s.prn.ports[n].state ≠ .disabled then
           { s.prn.ports[n] with alert := putBit s.prn.ports[n].alert 4 true }
         else s.prn.ports[n]) ∧
     (let again : State → State := fun v =>
        (v.upEngRail r fun e => { e with mode := .heel, track := 0 }).upFb r fun f => { f with
          hcause := BitVec.ofNat 4 cause.val, hent := f.hent + 1, freshRun := 0
          path := if cause.val = 3 then .comparator else f.path }
      (s.eng.rails[r].mode = .track → Raised 0x67 (again (holdSetpoint r s)) (passToHeel r cause.val s)) ∧
      (s.eng.rails[r].mode = .heel → s.fb[r].hact = true → cause.val = 3 →
        Raised 0x67 (again s) (passToHeel r cause.val s))) ∧
     (s.eng.rails[r].mode = .digital → s.fb[r].hact = false → s.cfg.hen r.val = false →
       (passToHeel r cause.val s).eng.rails[r].enabled = false))

/-- DUTY (R16, R17, R24, R141 to R143): the packets of the rail's oldest sample reach the PWM subsystem, unless a
marker that the engine has taken and the PWM subsystem has not stands before them. Each packet that is in order leaves
the stream, and the 16 bits at a phase's position reach the phase, where the rail is on and driven by its law, and the
phase active and not about to drive MID; nothing else changes. A packet that must be discarded raises the rail's event
instead, and one that is lost is known only by the gap that the next shows. Completes: duty.

A start of a phase's carrier period (R59, R141 to R143, R150, R152, R153, R156, R159, R236) on a rail that is on: the
carrier starts where its last period ended, the loop-lane instants of the period join the targets and an open request
of the last one is due now, an active phase counts the period and takes the pulse of its command, and the trips of the
last periods move up by one; with trips in RKTRIP of the last RKWIN periods the phase is racked for cause 1. With the
high comparator of its window still tripped it takes none, and with the low one it drives MID behind it, which is the
model's choice (log 67); a substitute's pulse ends the wait of its part of i_lost. The first position's carrier also
ends the rail's period. A phase without a carrier only has its latch cleared where its window is good, and one that is
pitched on a rail that is off has its current asked for (the model's reading, log 51). Completes: carrierPeriodStart. -/
def Obligations.DutyAndCarrier : Prop :=
  (∀ (s : State) (r : Rail),
     let mine := s.eng.dutyQ.filter fun d => decide (d.rail = r ∧ d.lost = false)
     let behind : DutyPkt → Prop := fun d => ∃ m ∈ s.fab.markers, .pwm ∈ m.targets ∧ .engine ∉ m.targets ∧
       .rail r ∉ m.targets ∧ (m.rails = 0 ∨ hasBit m.rails r.val = true) ∧ ∃ b, m.bstamp = some b ∧ b ≤ d.stamp
     let named : Word → Prop := fun w => bitsOf w 10 4 = 4 ∧ bitsOf w 0 6 = r.val
     let takes : Phase → Prop := fun h => s.fb[r].hact = false ∧ s.fb[r].path ≠ .none ∧
       s.pwm.rails[r].opmode ≠ .off ∧ hasBit s.pwm.rails[r].act h.val = true ∧
       s.pwm.phases[h].state = .active ∧ s.pwm.phases[h].midNext = false
     let bitsAt : Phase → Word → Nat := fun h w => bitsOf w (16 * (dutyPlace s h % 2)) 16
     (∀ a b, mine = [] ∨ domOn s pdPwm = false → exec (.duty r ⟨a, b⟩) s = .next s) ∧
     (∀ d ds, mine = d :: ds → domOn s pdPwm = true →
       (behind d → ∀ a b, exec (.duty r ⟨a, b⟩) s = .next s) ∧
       (¬ behind d → d.second = false → (∀ e ∈ ds, e.stamp ≠ d.stamp) →
         (∀ b, ∃ t, exec (.duty r ⟨none, b⟩) s = .next t ∧ t = { s with eng := { s.eng with
           dutyQ := s.eng.dutyQ.map fun x => if x = d then { x with lost := true } else x } }) ∧
         ∀ w b, named w →
           let k := hear .pwm 8 (fun len => decide (len = d.words.length)) w s
           (k.2 = .repeated ∨ k.2 = .refused → ∃ t, exec (.duty r ⟨some w, b⟩) s = .next t ∧
             Raised (0x30 + r.val) k.1 t) ∧
           (∀ n, k.2 = .missing n → ∃ v, Raised (0x30 + r.val)
               { k.1 with eng := { s.eng with dutyQ := s.eng.dutyQ.erase d } } v ∧
             exec (.duty r ⟨some w, b⟩) s = .next (loadDuty r [d] (missDuty r n v))) ∧
           (k.2 = .inOrder → ∃ t, exec (.duty r ⟨some w, b⟩) s = .next t ∧
             t = { k.1 with
               eng := { s.eng with dutyQ := s.eng.dutyQ.erase d }
               pwm := { s.pwm with phases := t.pwm.phases } } ∧
             ∀ h : Phase,
               (¬ takes h ∨ d.words[dutyPlace s h / 2]? = none → t.pwm.phases[h] = s.pwm.phases[h]) ∧
               ∀ x, takes h → d.words[dutyPlace s h / 2]? = some x →
                 t.pwm.phases[h] = loadCmd s r (cmdOf (bitsAt h x)) s.pwm.phases[h])) ∧
       (∀ e es w x, ¬ behind d → d.second = false → e.second = true → d.words.length = 15 →
         ds.filter (fun e => decide (e.stamp = d.stamp)) = e :: es → named w → named x →
         let k := hear .pwm 8 (fun len => decide (len = d.words.length)) w s
         let l := hear .pwm 8 (fun len => decide (len = e.words.length)) x
           { k.1 with eng := { s.eng with dutyQ := s.eng.dutyQ.erase d } }
         k.2 = .inOrder → l.2 = .inOrder → ∃ t, exec (.duty r ⟨some w, some x⟩) s = .next t ∧
           t = { l.1 with
             eng := { s.eng with dutyQ := (s.eng.dutyQ.erase d).erase e }
             pwm := { s.pwm with phases := t.pwm.phases } } ∧
           ∀ h : Phase, takes h → ∀ y, y ∈ (if dutyPlace s h < 30 then d.words[dutyPlace s h / 2]?
               else e.words[(dutyPlace s h - 30) / 2]?) →
             t.pwm.phases[h] = loadCmd s r (cmdOf (bitsAt h y)) s.pwm.phases[h])) ∧
     ∀ (h : Phase) (p : Phasor), p = s.pwm.phases[h] →
       (∀ c, (loadCmd s r c p).cmd = c) ∧
       ((loadCmd s r .mid p).drive = .mid ∧ (loadCmd s r .mid p).pulse = none) ∧
       (p.periods = 0 ∨ (p.cmd ≠ .mid ∧ p.drive = .mid) → loadCmd s r .on p = { p with cmd := .on }) ∧
       (p.periods ≠ 0 → p.pulse = none → p.cmd = .mid ∨ p.drive ≠ .mid → p.drive ≠ .pulsesMid → ∃ u, (loadCmd s r .on p).pulse = some u ∧
         (loadCmd s r .on p).drive = .pulses ∧ s.clk.rc * 64 < u.onAt ∧
         u.offAt = u.onAt + 8 * s.cfg.tonmax r.val ∧ u.again = some (8 * s.cfg.toffmin r.val)) ∧
       (∀ n u, p.pulse = some u → u.again = none → u.onAt ≤ s.clk.rc * 64 → s.clk.rc * 64 < u.offAt →
         ∃ v, (loadCmd s r (.time n) p).pulse = some v ∧ v.onAt = u.onAt ∧ s.clk.rc * 64 < v.offAt ∧
           let k := min (max n (8 * s.cfg.tonmin r.val)) (8 * s.cfg.tonmax r.val)
           (s.cfg.dual r.val = false → u.onAt + k + 8 * s.cfg.toffmin r.val ≤
               p.carrAt + (s.clk.rc - s.clk.slot) * 64 + p.carrLen →
             v.offAt = max (u.onAt + k) (nextTick s)))) ∧
  (∀ (s : State) (h : Phase), domOn s pdPwm = true →
     let r := railOf s.cfg h
     let x := s.pwm.phases[h]
     let per := s.cfg.period r.val * 8
     let start := x.carrAt + x.carrLen
     let begins := (s.clk.rc - s.clk.slot) * 64 + start
     let trips := (x.trips <<< 1) ||| (if x.tripped then 1 else 0)
     let driven : Prop := s.fb[r].hact = false ∧ s.fb[r].path ≠ .none
     let latched : State → Window → Win := fun s w =>
       if w = wireWindow s ⟨h.val, by omega⟩ ∧ s.cfg.lmode h.val = true ∧
           (wires s ⟨h.val, by omega⟩).low = false ∧ (wires s ⟨h.val, by omega⟩).high = false then
         { s.cmp.win[w] with latch := false }
       else s.cmp.win[w]
     (s.cfg.role h.val = 0 ∨ s.pwm.rails[r].opmode = .off → x.state ≠ .pitching →
       ∃ t, exec (.carrierPeriodStart h) s = .next t ∧
         t = { s with cmp := { s.cmp with win := t.cmp.win } } ∧
         ∀ w : Window, t.cmp.win[w] = latched s w) ∧
     (s.cfg.role h.val = 0 ∨ s.pwm.rails[r].opmode = .off → x.state = .pitching → x.carrLen ≠ 0 →
       start ≤ stepNow s + per → stepNow s ≤ start + per →
       ∃ t, exec (.carrierPeriodStart h) s = .next t ∧
         t = { s with
           adc := { s.adc with targets := t.adc.targets }
           pwm := { s.pwm with phases := vmod s.pwm.phases h fun p => { p with
             carrAt := start, carrLen := t.pwm.phases[h].carrLen, prevLen := x.carrLen
             offset := t.pwm.phases[h].offset } }
           cmp := { s.cmp with win := t.cmp.win } } ∧
         ∀ g ∈ laneTargets s h start, g ∈ t.adc.targets) ∧
     (∀ g : LaneTarget, g ∈ laneTargets s h start ↔ g.carrier = h ∧ s.cfg.llen r.val = true ∧
       ((∃ k, g.req = .error r k ∧ k.val < errPer s.cfg r.val ∧ s.cfg.order h.val = 0 ∧
           s.pwm.rails[r].opmode ≠ .off ∧ g.instant = start + errTarget s.cfg r.val k.val) ∨
         (∃ j, g.req = .current h j ∧ j.val < curPer s.cfg r.val ∧
           g.instant = start + curTarget s.cfg r.val j.val))) ∧
     (s.cfg.role h.val ≠ 0 → s.pwm.rails[r].opmode ≠ .off → x.carrLen ≠ 0 →
       start ≤ stepNow s + per → stepNow s ≤ start + per →
       ∃ u, (let tripped := (List.range (s.cfg.rkwin r.val)).filter fun k => hasBit trips k
             let v := if s.cfg.rktrip r.val ≤ tripped.length then rackPhase h 1 u else u
             exec (.carrierPeriodStart h) s = .next (if s.cfg.order h.val = 0 then railPeriod r v else v)) ∧
         u = { s with
           adc := { s.adc with targets := u.adc.targets }
           pwm := { s.pwm with phases := u.pwm.phases, rails := u.pwm.rails }
           cmp := { s.cmp with win := u.cmp.win } } ∧
         (∀ w : Window, u.cmp.win[w] = latched s w) ∧
         u.adc.targets = (s.adc.targets.map fun g =>
           if g.carrier = h then { g with instant := min g.instant start } else g) ++ laneTargets s h start ∧
         (∀ k : Phase, k ≠ h → u.pwm.phases[k] = s.pwm.phases[k]) ∧
         (∀ k : Rail, u.pwm.rails[k] = { s.pwm.rails[k] with loss := u.pwm.rails[k].loss }) ∧
         (∀ k : Rail, u.pwm.rails[k].loss =
           if k = r ∧ x.state = .active ∧ u.pwm.phases[h].pulse.isSome = true then s.pwm.rails[r].loss.map fun l =>
             if x.subfor = some l.pos ∧ l.wait = none then { l with wait := some 0 } else l
           else s.pwm.rails[k].loss) ∧
         (let p := u.pwm.phases[h]
          p.carrAt = start ∧ p.prevLen = x.carrLen ∧ p.trips = trips ∧ p.state = x.state ∧ p.cur = x.cur ∧
           p.cmd = x.cmd ∧ p.midNext = false ∧
           p.tripped = ((wires s ⟨h.val, by omega⟩).high || ((wires s ⟨h.val, by omega⟩).low &&
             !(s.pwm.rails[r].opmode == .light && hasBit s.pwm.rails[r].act h.val))) ∧
           p.periods = (if x.state = .active then x.periods + 1 else x.periods) ∧
           (x.state = .active → (p.weight : Int) = max 0 (min 64 ((x.weight : Int) + x.wStep))) ∧
           (x.midNext = true → p.drive = .mid ∧ p.pulse = none) ∧
           (x.midNext = false → x.state = .active → driven →
             match x.cmd with
             | .mid => p.drive = .mid ∧ p.pulse = none
             | .on =>
               if (wires s ⟨h.val, by omega⟩).high = true then p.drive = .pulses ∧ p.pulse = none
               else if (wires s ⟨h.val, by omega⟩).low = true then
                 ∃ a, begins ≤ a ∧ p.drive = .pulsesMid ∧
                   p.pulse = some { onAt := a, offAt := a + 8 * s.cfg.tonmax r.val, again := none }
               else if (∃ u ∈ x.pulse, u.again.isSome = true) then p.pulse = x.pulse ∧ p.drive = x.drive
               else ∃ a, begins ≤ a ∧ p.drive = .pulses ∧ p.pulse = some
                 { onAt := a, offAt := a + 8 * s.cfg.tonmax r.val, again := some (8 * s.cfg.toffmin r.val) }
             | .time n =>
               let k := min (max n (8 * s.cfg.tonmin r.val)) (8 * s.cfg.tonmax r.val)
               let on := if s.cfg.dual r.val then begins + per / 2 - k / 2 else begins
               if n < 8 * s.cfg.tonmin r.val ∧ s.pwm.rails[r].opmode = .light then
                 p.drive = .mid ∧ p.pulse = none
               else if (wires s ⟨h.val, by omega⟩).high = true then p.drive = .pulses ∧ p.pulse = none
               else p.drive = (if (wires s ⟨h.val, by omega⟩).low = true then .pulsesMid else .pulses) ∧ p.pulse = some
                 { onAt := on, offAt := min (on + k) (on + p.carrLen - 8 * s.cfg.toffmin r.val), again := none }) ∧
           p.offset % per = (x.offset + p.carrLen) % per)))

/-- A stage fault (R138, R158, R159, R162) of a used phase with STFEN is kept for a phase being pitched and
racks any other: a phase in service that holds no active position is out at once, drives MID with its
weight whole, with the cause 3 and the phase's event, counter 4 counts it, and its PHASE_ADMIT ends with 0x0113;
without STFEN nothing happens. Completes: stageFault.

Racking of an active phase (R159, R161, R165), for cause 1 window, 2 plausibility or 3 stage fault. In the first half
of its carrier period it drives MID at once; in the second half it gives no further on-edge, a pulse that is on ends
at its off-edge, and MID follows at the next start of the carrier. It is RACKED with its cause, its event is raised
with ELEM and CELL, counter 4 counts it, and its current of the last fresh sample becomes i_lost at the lane pair,
beside those racked before; in HEEL and TRACK that waits for the first DIGITAL head. The free STEEP phase of the
lowest ORDER becomes its substitute and joins by a phase-plan marker, or in HEEL and TRACK at once; without one
the position stays empty, and in LIGHT the next held position becomes the LIGHT phase. Where the held positions fall
below NFLOOR, event 0x30 + r is raised and the rail has a running fault.

PHASE_ADMIT (R162, R163). A class A condition (R327; the model's reading, log 27), a phase that is not racked, a rail
carried by its heel loop or tracked, one
neither regulating nor off, or a current sense input that is high ends it with 0x0105, a phase number above
47 with 0x0102, an admission under way on the rail with 0x0104; else the phase is being pitched and the
descriptor waits. After 256 offset samples an offset beyond PZMAX or a stage fault racks the phase again
(event of the phase, 0x0113); a good one becomes ZOFS, and the phase returns to its role, where its role is
STEEP or the rail is off with its substitute free again and ZOFS as the RESULT; on a regulating rail it ramps in
beside its active substitute by a phase-plan marker (R148), and is STEEP until that applies. The end of a ramp of 64
periods, or of one whose position has been shed meanwhile (the model's reading, log 16), leaves the phase at full
share. Completes: phaseAdmit, phaseAdmitOffsetDone, phaseAdmitRampEnd. -/
def Obligations.StageFaultsAndPitching : Prop :=
  (∀ (s : State) (h : Phase), domOn s pdPwm = true → s.cfg.role h.val ≠ 0 →
     let r := railOf s.cfg h
     let x := s.pwm.phases[h]
     (s.cfg.stfen h.val = false → exec (.stageFault h) s = .next s) ∧
     (s.cfg.stfen h.val = true → x.state = .pitching →
       exec (.stageFault h) s = .next (s.upPhase h fun p => { p with zFault := true })) ∧
     (s.cfg.stfen h.val = true → x.state = .racked → exec (.stageFault h) s = .next s) ∧
     (s.cfg.stfen h.val = true → x.state = .idle ∨ x.state = .steep →
       ∃ u v t, exec (.stageFault h) s = .next t ∧
         u = (s.upPhase h (fun p => { p with
           state := .racked, rkcause := 3, ramp := false, weight := 64, wStep := 0, trim := 0, trimI := 0
           drive := .mid, pulse := none, midNext := false, past := u.pwm.phases[h].past })).upFb r (fun f =>
             { f with firing := f.firing.filter (· != h) }) ∧
         Raised h.val u v ∧ v = raise h.val (srcId 0x5 0x0 h.val 3 3) 0 u ∧
         ∃ y z w, y = State.upPhase h (fun p => { p with subfor := none }) (saveHealth (countUp 4 v)) ∧
           (substituteOf y h = none → z = y) ∧
           (∀ n, substituteOf y h = some n → z = y.upPhase n fun p => { p with weight := 64, wStep := 0 }) ∧
           w = endAdmit r h 0x0113 (z.upPwmRail r fun w => { w with actNext := putBit w.actNext h.val false }) ∧
           ((held s r.val).length ≤ (held w r.val).length ∨ s.cfg.nfloor r.val ≤ (held w r.val).length →
             w.eng.rails[r].iLost = s.eng.rails[r].iLost → t = w)) ∧
     (s.cfg.stfen h.val = true → x.state = .active → exec (.stageFault h) s = .next (rackPhase h 3 s))) ∧
  (∀ (s : State) (h : Phase),
     let r := railOf s.cfg h
     let x := s.pwm.phases[h]
     let now := s.clk.rc * 64
     (∀ cause : Fin 4, x.state = .active →
       let early := decide (2 * (stepNow s - x.carrAt) < s.cfg.period r.val * 8)
       let mA := (x.cur.getD 0 - x.zofs.toInt) * (s.cfg.iscale r.val : Int) / 256
       let out : Phasor → Phasor := fun p => { p with
         state := .racked, rkcause := BitVec.ofNat 3 cause.val, ramp := false, weight := 64, wStep := 0, trim := 0
         trimI := 0 }
       ∃ u v, (early = true →
           u = (s.upPhase h fun p => { out p with
             midNext := false, drive := .mid, pulse := none, past := u.pwm.phases[h].past }).upFb r fun f =>
               { f with firing := f.firing.filter (· != h) }) ∧
         (early = false → u = s.upPhase h fun p => { out p with
           midNext := true, pulse := u.pwm.phases[h].pulse, past := u.pwm.phases[h].past }) ∧
         (early = false → (∀ a ∈ x.pulse, a.again = none) →
           u.pwm.phases[h].pulse = x.pulse.filter fun a => decide (a.onAt ≤ now)) ∧
         Raised h.val u v ∧ v = raise h.val
           (srcId 0x5 0x0 h.val (if cause.val = 3 then 3 else 1) cause.val) 0 u ∧
         let t := floorCheck r (held s r.val).length
           (endAdmit r h 0x0113 (rackActive r h mA (saveHealth (countUp 4 v))))
         rack h cause.val s = t ∧
           (t.eng.rails[r].iLost = s.eng.rails[r].iLost → rackPhase h cause.val s = t) ∧
           (t.eng.rails[r].iLost ≠ s.eng.rails[r].iLost → rackPhase h cause.val s = updateFeedForward r t)) ∧
     (∀ mA : Int, x.state = .racked → x.subfor = none → substituteOf s h = none → s.cfg.role h.val = 1 →
       phaseAt s.cfg r.val (s.cfg.order h.val) = some h → s.cfg.order h.val < 48 → s.cfg.lossdec r.val ≠ 0 →
       s.pwm.rails[r].rackedNow = [] → (∀ l ∈ s.pwm.rails[r].loss, l.pos ≠ h) →
       let t := rackActive r h mA s
       let carried : Prop := s.eng.rails[r].mode = .heel ∨ s.eng.rails[r].mode = .track
       let part : Option Nat → Loss := fun wait =>
         { start := mA, pos := h, wait := wait, dec := s.cfg.lossdec r.val, left := s.cfg.lossdec r.val
           sent := decide (¬ carried) }
       let next := putBit s.pwm.rails[r].actNext h.val false
       (¬ carried → t.eng.rails[r].iLost = mA +
           (s.pwm.rails[r].loss.filter (·.sent)).foldl (fun a l => a + l.start * (l.left : Int) / (l.dec : Int)) 0) ∧
         (carried → t.eng = s.eng ∧ t.fab = s.fab) ∧
         (s.pwm.rails[r].lightNext = true → ¬ carried → t.pwm.rails[r].actNext = lowest t r.val 1) ∧
         (∀ n ns, freeSteep s r.val = n :: ns → hasBit s.pwm.rails[r].actNext n.val = false →
           t.pwm.rails[r].loss = s.pwm.rails[r].loss ++ [part none] ∧ substituteOf t h = some n ∧
           (s.pwm.rails[r].lightNext = false → ¬ carried → ∃ u,
             Joined [{ markerOf .phasePlan 0xFFFE .internal none [.rail r, .pwm]
               [.activeSet r (putBit next n.val true) false] with rails := BitVec.ofNat 8 (2 ^ r.val) }] u t ∧
             u = { s with
               eng := { s.eng with rails := vmod s.eng.rails r fun e => { e with iLost := t.eng.rails[r].iLost } }
               pwm := { s.pwm with
                 phases := vmod s.pwm.phases n fun p => { p with subfor := some h, weight := 64, wStep := 0 }
                 rails := vmod s.pwm.rails r fun w => { w with
                   act := putBit w.act h.val false, actNext := putBit next n.val true
                   loss := w.loss ++ [part none], rackedNow := [h]
                   shedding := w.shedding.filter fun e => e.1 != h } } }) ∧
           (s.pwm.rails[r].lightNext = false → carried →
             t.pwm.rails[r].act = putBit next n.val true ∧ t.pwm.rails[r].actNext = putBit next n.val true)) ∧
         (freeSteep s r.val = [] → t.pwm.rails[r].loss = s.pwm.rails[r].loss ++ [part (some 2)] ∧
           substituteOf t h = none ∧
           (s.pwm.rails[r].lightNext = false → ¬ carried → t.fab = s.fab ∧ t.pwm.rails[r].actNext = next ∧
             t.pwm.rails[r].act = putBit s.pwm.rails[r].act h.val false))) ∧
     ∀ (r : Rail) (before : Nat),
       let n := (held s r.val).length
       (n < before → n < s.cfg.nfloor r.val → s.cfg.nfloor r.val ≤ before →
         ∃ v, Raised (0x30 + r.val) s v ∧ floorCheck r before s = runningFault (idxOf r) 4 0 false v) ∧
       (before ≤ n ∨ s.cfg.nfloor r.val ≤ n ∨ before < s.cfg.nfloor r.val → floorCheck r before s = s)) ∧
  ((∀ (s : State) (q : Ring) (d : Desc) (high : Bool), ready s q 0x29 = some d →
     ∃ t, exec (.phaseAdmit q high) s = .next t ∧
       (48 ≤ d.pf 0 6 → Ends q 0x0102 0 s t) ∧
       ∀ h : Phase, d.pf 0 6 = h.val →
         let r := railOf s.cfg h
         let m := s.eng.rails[r].mode
         let x := s.pwm.phases[h]
         (s.flt.classA = true ∨ x.state ≠ .racked ∨ m = .heel ∨ m = .track → Ends q 0x0105 0 s t) ∧
         (s.flt.classA = false → x.state = .racked → m = .digital ∨ m = .off → s.pwm.rails[r].admission ≠ none →
           Ends q 0x0104 0 s t) ∧
         (x.state = .racked → s.pwm.rails[r].admission = none →
           high = true ∨ (m ≠ .digital ∧ railOff s r = false) → Ends q 0x0105 0 s t) ∧
         (s.flt.classA = false → x.state = .racked → m = .digital ∨ railOff s r = true →
           s.pwm.rails[r].admission = none → high = false → ∃ u, Waits q true s u ∧
             t = { u with pwm := { s.pwm with
               phases := vmod s.pwm.phases h fun p => { p with
                 state := .pitching, drive := .mid, pulse := none, zCount := 0, zSum := 0, zFault := false
                 past := t.pwm.phases[h].past }
               rails := vmod s.pwm.rails r fun w =>
                 { w with admission := some { ring := q, phase := h, ramping := false } } } })) ∧
   ∀ (s : State) (h : Phase) (a : Admission),
     let r := railOf s.cfg h
     let x := s.pwm.phases[h]
     let z := (x.zSum + 128) / 256
     let good : Prop := x.zFault = false ∧ (z.natAbs : Int) ≤ (s.cfg.pzmax : Int)
     let marker : BitVec 48 → Marker := fun act =>
       { markerOf .phasePlan 0xFFFE .internal none [.rail r, .pwm]
           [.activeSet r act s.pwm.rails[r].lightNext] with rails := BitVec.ofNat 8 (2 ^ r.val) }
     s.pwm.rails[r].admission = some a → a.phase = h →
     (x.state = .pitching → 256 ≤ x.zCount →
       (¬ good →
         ∃ u t, exec (.phaseAdmitOffsetDone h) s = .next t ∧
           Raised h.val (s.upPhase h fun p => { p.level (rcNow s) .mid with state := .racked }) u ∧
           t = endAdmit r h 0x0113 u) ∧
       (good → s.cfg.rkpersist = false →
         s.cfg.role h.val = 2 ∨ s.eng.rails[r].mode ≠ .digital →
         ∃ u t, exec (.phaseAdmitOffsetDone h) s = .next t ∧
           (∀ n : Phase, u.pwm.phases[n] =
             if n = h then { x with
               state := if s.cfg.role h.val = 2 then .steep else .idle, zofs := BitVec.ofInt 16 z
               subfor := u.pwm.phases[h].subfor, weight := u.pwm.phases[h].weight
               wStep := u.pwm.phases[h].wStep }
             else if substituteOf s h = some n then
               { s.pwm.phases[n] with subfor := none, weight := 64, wStep := 0 }
             else s.pwm.phases[n]) ∧
           u = { s with pwm := { s.pwm with
             phases := u.pwm.phases, rails := vmod s.pwm.rails r fun w => { w with admission := none } } } ∧
           t = complete a.ring 0 (BitVec.ofInt 16 z).toNat u) ∧
       (good → s.cfg.rkpersist = false → s.cfg.role h.val ≠ 2 → s.eng.rails[r].mode = .digital →
         ∀ n, substituteOf s h = some n → n ≠ h → hasBit s.pwm.rails[r].actNext n.val = true →
         ∃ u t, exec (.phaseAdmitOffsetDone h) s = .next t ∧
           Joined [marker (putBit s.pwm.rails[r].actNext h.val true)] u t ∧
           u = { s with pwm := { s.pwm with
             phases := vmod (vmod s.pwm.phases h fun p =>
                 { p with state := .steep, zofs := BitVec.ofInt 16 z, weight := 0, wStep := 1, ramp := true })
               n fun p => { p with weight := 64, wStep := -1 }
             rails := vmod s.pwm.rails r fun w => { w with
               actNext := putBit s.pwm.rails[r].actNext h.val true
               admission := some { a with ramping := true } } } })) ∧
     (a.ramping = true → x.ramp = true → (x.state = .active → 64 ≤ x.periods) →
       (x.state ≠ .active → hasBit s.pwm.rails[r].act h.val = false ∧ hasBit s.pwm.rails[r].actNext h.val = false) →
       let v := s.upPhase h fun p => { p with
         state := if x.state = .steep then .idle else x.state, ramp := false, weight := 64, wStep := 0 }
       let done : State → State := fun v => complete a.ring 0 x.zofs.toNat
         (v.upPwmRail r fun w => { w with admission := none })
       (substituteOf s h = none → exec (.phaseAdmitRampEnd h) s = .next (done v)) ∧
       (∀ n, substituteOf s h = some n →
         let act := putBit s.pwm.rails[r].actNext n.val false
         ∃ w, exec (.phaseAdmitRampEnd h) s = .next (done w) ∧
           Joined [marker act] (v.upPwmRail r fun w => { w with actNext := act }) w)))

/-! ## The comparators -/

/-- COMPARATOR_TRANSITION (R12, R67, R233, R234, R236, R519): the window takes the new side; where the output turns
not-good with it the latch is set. The comparators act on the wires of the window that they drive: its own or, for a
steep window in a proof test or standing in, the tested or the failed one's (R238, R239), and a window that has lost
its wires drives none: event 0x57 at most once per 1 ms where EVEN of the driven window asks for it, an injected
trigger where it is TRIGWIN, event 0x7D at most once per 1 ms where it is W74 or W75 (R496), and then the wires. A
window without wires to a block leaves it at that. A phase's high side cuts its on-pulse at once and its low side ends
a LOW interval with MID, from the end of a pulse in progress on while it has not turned good before that, which is the
model's reading (log 67); W72's level is kept as the input's return. Completes: comparatorTransition.

An always-on comparator that is enabled turns (R243, R244, R490). A turn that leaves its output as it was changes only
its side; while the part sleeps a turn that WAKE selects makes a wake due; otherwise a turn to not-good raises event
0x5A while PD_FAB is on. One that is not enabled changes nothing. Completes: aoComparatorChange. -/
def Obligations.Comparators : Prop :=
  (∀ (s : State) (w : Window) (high notGood : Bool),
     let x := s.cmp.win[w]
     let turned : Prop := notGood = true ∧ x.low = false ∧ x.high = false
     let trig : State → State := fun v => { v with adc := { v.adc with inj :=
       { v.adc.inj with trig := putBit v.adc.inj.trig 0 true } } }
     let starts : Window → Prop := fun k => turned ∧ s.cfg.wen = true ∧ s.cfg.injEn = true ∧ s.cfg.trigWin = k.val
     let u := s.upWin w fun x => { x with
       high := if high then notGood else x.high, low := if high then x.low else notGood
       latch := x.latch || (notGood && !x.low && !x.high) }
     let a := if 76 ≤ w.val ∧ starts w then trig u else u
     (domOn s pdCmp = false ∨ (if high then x.high else x.low) = notGood →
       exec (.comparatorTransition w high notGood) s = .next s) ∧
     (domOn s pdCmp = true → (if high then x.high else x.low) = !notGood →
       ((∀ k : Window, k.val < 76 → wireWindow s k ≠ w) →
         exec (.comparatorTransition w high notGood) s = .next a) ∧
       ∀ k : Window, k.val < 76 → wireWindow s k = w →
         (∀ l : Window, l.val < 76 → wireWindow s l = w → l = k) →
         ∃ v z y, exec (.comparatorTransition w high notGood) s = .next (windowWires k high notGood y) ∧
           (turned → s.cfg.even k.val = true → RaisedOnce 0x57 0 k.val a v) ∧
           (¬ turned ∨ s.cfg.even k.val = false → v = a) ∧
           (starts k → z = trig v) ∧ (¬ starts k → z = v) ∧
           (turned → k.val = 74 → RaisedOnce 0x7D 1 0 z y) ∧ (turned → k.val = 75 → RaisedOnce 0x7D 6 5 z y) ∧
           (¬ turned ∨ k.val ≠ 74 ∧ k.val ≠ 75 → y = z)) ∧
     (48 ≤ w.val → w.val < 56 ∨ 64 ≤ w.val → w.val ≠ 72 → windowWires w high notGood s = s) ∧
     (w.val = 72 → windowWires w high notGood s = s.upSeq fun q => { q with
       retqual := !(wires s w).low && !(wires s w).high && s.ldg.src != .input }) ∧
     ∀ h : Phase, w.val = h.val →
       let r := railOf s.cfg h
       let p := s.pwm.phases[h]
       let now := s.clk.rc * 64
       let on := p.pulse.any fun a => decide (a.onAt ≤ now) && decide (now < a.offAt)
       windowWires w true false s = s ∧
       ((∀ a ∈ p.pulse, a.again = none) →
         windowWires w false false s = (if on = true then s.upPhase h fun p =>
           { p with drive := if p.drive = .pulsesMid then .pulses else p.drive } else s) ∧
         (s.fb[r].firing = [] → s.pwm.rails[r].opmode ≠ .light →
           ∃ t, windowWires w true true s = t ∧ t = s.upPhase h fun p =>
             if on then { p with tripped := true, drive := .pulses, pulse := none, past := t.pwm.phases[h].past }
             else { p with tripped := true }) ∧
         ∃ t, windowWires w false true s = t ∧ t = s.upPhase h fun p =>
           let q := { p with tripped := p.tripped ||
             !(s.pwm.rails[r].opmode == .light && hasBit s.pwm.rails[r].act h.val) }
           if p.drive = .low ∨ (p.drive = .pulses ∧ on = false) then
             { q with drive := .mid, pulse := none, past := t.pwm.phases[h].past }
           else if p.drive = .pulses then { q with drive := .pulsesMid } else q)) ∧
  (∀ (s : State) (k : Fin 3) (high notGood : Bool),
     let side := if high then s.cmp.aoHigh[k] else s.cmp.aoLow[k]
     let v := s.upCmp fun c => { c with
       aoHigh := if high then vput c.aoHigh k notGood else c.aoHigh
       aoLow := if high then c.aoLow else vput c.aoLow k notGood }
     let live : State → Bool := fun s => s.cmp.aoLow[k] || s.cmp.aoHigh[k]
     let wake := bitsOf s.cmp.aoCfg[k] 30 2
     let chosen : Prop := wake = 3 ∨ (wake = 1 ∧ live v = true) ∨ (wake = 2 ∧ live v = false)
     (side = notGood ∨ hasBit s.cmp.aoCfg[k] 15 = false → exec (.aoComparatorChange k high notGood) s = .next s) ∧
     (side ≠ notGood → hasBit s.cmp.aoCfg[k] 15 = true →
       ∃ t, exec (.aoComparatorChange k high notGood) s = .next t ∧
         (live s = live v → t = v) ∧
         (live s ≠ live v → s.pwr.phase = .asleep → t = { v with pwr := { s.pwr with
           wakeDue := s.pwr.wakeDue || decide (chosen ∧ hasBit s.pwr.wake 1 = true) } }) ∧
         (live s ≠ live v → s.pwr.phase ≠ .asleep → s.pwr.sleep = none →
           (live v = true → domOn s pdFab = true → Raised 0x5A v t) ∧
           (live v = false ∨ domOn s pdFab = false → t = v))))

/-- The proof cycle (R237 to R242, R245). A cycle starts over the windows W00 to W75, one test at a time on a free
steep window, and stops where none is left. A stage waits for the test DAC, or the hand-over for a start of the
phase's carrier period and, for a window of no phase, for both outputs to agree. While a test has the test DAC an
absolute calibration pauses (R240); its slots do not count. A stage that
passes leads to the next: the levels of the tested window go to the steep window, then its latch; the test DAC sets
and clears the tested window's sides; the last one hands the latch and the wires back and leads to the next window.
A failed self-check gives the steep window up, and a failed later stage the tested window, whose place the steep
window takes: event 0x56 each. Completes: proofCycleStart, proofTestStageEnd.

Adjudications (R212, R214, R241). A ball's conversions are compared with the mean of the path's converter readings in
the same interval, each the delivered reference of its own instant plus e, or with the latest record where none fell
into it, which is the model's choice (log 17). One that is done, its sixteen conversions at each ball over, gives its
steep window to those that wait, marks each path with a front-end fault as lost for cause 3 with the path's event, and
raises the event with cause 5 where neither has one. Completes: adjudicationDone. -/
def Obligations.ProofsAndAdjudications : Prop :=
  ((∀ s : State,
     (domOn s pdCmp = false ∨ s.cfg.proofen = false ∨ s.cmp.cycle = true → exec .proofCycleStart s = .next s) ∧
     (domOn s pdCmp = true → s.cfg.proofen = true → s.cmp.cycle = false → s.cmp.proof = none →
       ∃ u t, exec .proofCycleStart s = .next t ∧
         u = { s with cmp := { s.cmp with cycle := true, left := u.cmp.left, steepRaised := false } } ∧
         (∀ w : Window, w ∈ u.cmp.left ↔ w.val < 76) ∧
         u.cmp.left.Pairwise (fun a b => a.val < b.val) ∧
         (steepLeft u = [] →
           Raised 0x58 { u with cmp := { u.cmp with cycle := false, left := [], steepRaised := true } } t) ∧
         (∀ w ws n, u.cmp.left.dropWhile (proofSkips u) = w :: ws →
           (steepLeft u).find? (fun n => s.cmp.steep[n] == .free) = some n →
           t = { u with cmp := { u.cmp with left := ws, proof := some { win := w, steep := n, stage := 0, since := s.clk.slot } } }) ∧
         (steepLeft u ≠ [] → (∀ w ∈ u.cmp.left, proofSkips u w = true) →
           t = { u with cmp := { u.cmp with cycle := false, left := [] } }))) ∧
   ∀ (s : State) (p : Proof) (e : Fin 5), s.cmp.proof = some p →
     let x := s.cmp.win[p.win]
     let y := s.cmp.win[steepWin p.steep]
     let waits : Prop := ((p.stage.val = 0 ∨ p.stage.val = 4) ∧ s.adc.ptest ≠ none) ∨
       ((p.stage.val = 3 ∨ p.stage.val = 8) ∧
         ((48 ≤ p.win.val → (x.low || x.high) ≠ (y.low || y.high)) ∧
           ∀ h : Phase, p.win.val = h.val → periodStarts s h = false))
     let dac : State → State := fun v =>
       if (p.stage.val = 0 ∨ p.stage.val = 4 ∨ p.stage.val = 5) ∧ s.adc.ptest = none then resumeCal p.since v else v
     let passes : (State → State) → Prop := fun f => exec (.proofTestStageEnd .pass) s = .next
       { dac (f s) with cmp := { (f s).cmp with proof := some { p with stage := p.stage + 1, since := s.clk.slot } } }
     (∀ h : Phase, s.pwm.rails[railOf s.cfg h].opmode ≠ .off → (periodStarts s h = true ↔
       s.pwm.phases[h].carrAt < stepNow s + 64 ∧ stepNow s < s.pwm.phases[h].carrAt + 64)) ∧
     (∀ k, ∃ a b, resumeCal k s = { s with adc := { s.adc with tour := a, pitch := b } } ∧
       let moved : Tour → Tour := fun t => if t.calDone = true then t else
         { t with startSlot := t.startSlot + (s.clk.slot - max k t.startSlot) }
       a = s.adc.tour.map moved ∧ b = s.adc.pitch.map moved) ∧
     (waits → ∀ seen, exec (.proofTestStageEnd seen) s = .next s) ∧
     (¬ waits →
       (p.stage.val = 0 ∨ p.stage.val = 2 ∨ p.stage.val = 7 → passes fun s => s) ∧
       (p.stage.val = 1 → passes fun s => s.upWin (steepWin p.steep) fun v =>
         { v with lo := x.lo, hi := x.hi, low := x.low, high := x.high }) ∧
       (p.stage.val = 3 → passes fun s => s.upWin (steepWin p.steep) fun v => { v with latch := x.latch }) ∧
       (p.stage.val = 4 → passes fun s => s.upWin p.win fun v => { v with low := true, high := true, latch := true }) ∧
       (p.stage.val = 5 → passes fun s => s.upWin p.win fun v =>
         { v with low := false, high := false, latch := true }) ∧
       (p.stage.val = 6 → passes fun s => s.upWin p.win fun v => { v with low := y.low, high := y.high }) ∧
       (p.stage.val = 8 → ∃ u, exec (.proofTestStageEnd .pass) s = .next
           (nextProof { u with cmp := { u.cmp with proof := none } }) ∧
         u = (s.upWin p.win fun v => { v with low := y.low, high := y.high, latch := y.latch }).upWin
           (steepWin p.steep) fun v => { v with latch := false }) ∧
       (p.stage.val = 0 → ∃ u, exec (.proofTestStageEnd (.fail e)) s =
           .next (nextProof { dac u with cmp := { u.cmp with proof := none, left := p.win :: u.cmp.left } }) ∧
         Raised 0x56 (s.upWin (steepWin p.steep) fun x => { x with failed := true }) u) ∧
       (∀ elem cell, stageFailure p.stage e = some (elem, cell) → p.stage.val ≠ 0 →
         let v := if p.stage.val = 2 then s.upWin (steepWin p.steep) fun v => { v with latch := x.latch } else s
         ∃ u, exec (.proofTestStageEnd (.fail e)) s = .next (nextProof u) ∧
           Raised 0x56 { dac v with cmp := { v.cmp with
             win := vmod v.cmp.win p.win fun x => { x with failed := true }
             steep := vput s.cmp.steep p.steep (.standsIn p.win), proof := none } } u) ∧
       (stageFailure p.stage e = none → p.stage.val ≠ 0 → exec (.proofTestStageEnd (.fail e)) s = .next s))) ∧
  (∀ (s : State) (r : Rail) (remote locl : Int),
     (∀ (c : PathCheck) (ball : Int), ballError s r c ball =
       ((ball * codeLsb s.cfg r.val * 1000 : Int) : Rat) / 128 -
         if c.ballN = 0 then ((deliveredRef s r * 1000 + (c.last.map (·.value)).getD 0 * 4578 : Int) : Rat)
         else (c.ballSum : Rat) / (c.ballN : Rat)) ∧
     freeAdjudication r s = serveSteep
       { s.upFb r (fun f => { f with adj := false, disagree := 0 }) with cmp := { s.cmp with
         adjWait := s.cmp.adjWait.filter (· != r)
         steep := s.cmp.steep.map fun x => if x = .adjudicates r then .free else x } } ∧
     ((∀ n : Fin 4, s.cmp.steep[n] ≠ .adjudicates r) ∨ s.clk.slot < s.fb[r].adjAt + 8192 →
       exec (.adjudicationDone r remote locl) s = .next s) ∧
     (∀ n : Fin 4, s.cmp.steep[n] = .adjudicates r → s.fb[r].adjAt + 8192 ≤ s.clk.slot →
       let m := frontFault s r (ballError s r s.fb[r].remote remote)
       let l := frontFault s r (ballError s r s.fb[r].local_ locl)
       let u := freeAdjudication r s
       let marks : Bool → State → State → Prop := fun rem a w => Raised (0x38 + r.val)
         (freeAdjudication r (a.upFb r fun f =>
           if rem then { f with rlost := true, lcause := 3 } else { f with llost := true, lcause := 3 })) w
       (m = false → l = false → ∃ v, exec (.adjudicationDone r remote locl) s = .next v ∧
         Raised (0x38 + r.val) u v) ∧
       (m = true → l = false → ∃ w, marks true u w ∧
         exec (.adjudicationDone r remote locl) s = .next (switchPath r w)) ∧
       (m = false → l = true → ∃ w, marks false u w ∧
         exec (.adjudicationDone r remote locl) s = .next (switchPath r w)) ∧
       (m = true → l = true → ∃ v w, marks true u v ∧ marks false v w ∧
         exec (.adjudicationDone r remote locl) s = .next (switchPath r w))))

/-! ## The Pourn ports -/

/-- How a port takes a frame whose CRC holds (R175, R182 to R186, R199, R200). Outside LIVE, and in LIVE
with another SEQ than the expected one, it answers 0x0115 and consumes nothing; a replay of the last frame
gets the last answer; the frame expected is consumed, and a rejection of one with PRI 1 raises the port's
event at most once per 1 ms before the answer. A port that is off or DISABLED takes nothing. -/
def Obligations.FrameSequence : Prop :=
  ∀ (s : State) (p : Port) (f : BitVec 64),
    let q := s.prn.ports[p]
    let is : Nat → Prop := fun n => frmType f = n
    let run : State → Prop := fun t =>
      (is 1 → exec (.setpoint p f) s = .next t) ∧ (is 2 → exec (.forecast p f) s = .next t) ∧
        (is 3 → exec (.state p f) s = .next t) ∧ (is 4 → exec (.query p f) s = .next t) ∧
        (is 5 → frmSync f = false → exec (.heartbeat p f) s = .next t)
    let turnedAway : Nat → State → State → Prop := fun code a t => ∃ b,
      (frmPri f = false → b = a) ∧ (frmPri f = true → RaisedOnce (0x70 + p.val) 4 p.val a b) ∧
        Answered p f (code - 0x100) 0 b t
    (domOn s pdPrn = false ∨ q.state = .disabled → run s) ∧
    (domOn s pdPrn = true → q.state ≠ .disabled → frmGood f = true →
      (q.state ≠ .live → ∃ t, run t ∧ turnedAway 0x0115 s t) ∧
      (q.state = .live →
        (∀ l, q.last = some l → l.seq.toNat = frmSeq f → l.content = frmBody f →
          ∃ t, run t ∧ Answered p f l.status.toNat l.grant.toNat s t) ∧
        ((∀ l, q.last = some l → l.seq.toNat ≠ frmSeq f ∨ l.content ≠ frmBody f) →
          (q.eseq.toNat ≠ frmSeq f → ∃ t, run t ∧ turnedAway 0x0115 s t) ∧
          (q.eseq.toNat = frmSeq f →
            (∀ c, formCheck f = some c → ∃ t, run t ∧
              turnedAway c (Consumed p f (c - 0x100) 0 s) t) ∧
            (formCheck f = none → frmType f ≤ 4 →
              s.cfg.portRails p.val / 2 ^ (frmRail f).val % 2 = 0 ∨
                (frmType f ≤ 2 ∧ owns s p (frmRail f) = false) →
              ∃ t, run t ∧ turnedAway 0x0107 (Consumed p f 0x07 0 s) t)))))

/-- What the requests do (R119, R181, R185, R188 to R190, R192, R197 to R201) when the expected frame
passes every check of its port: a SETPOINT gives the rail a target, its class capped (0x010F), where it is
in DIGITAL and the sequencer does not own the target, inside VMIN to VMAX; a FORECAST is refused with
0x0104 while two are pending and only answered where the engine ignores it; a STATE is refused where the
energy does not hold it, and else sets the port's state and books its cost; a product of the planner that saturates
raises event 0x61 (R99); a QUERY answers its item; a
HEARTBEAT with SYNC makes the port LIVE and one without is answered. With no fresh error record VOLT and VERR are free
values (log 6). Completes: setpoint, forecast, state, query, heartbeat. -/
def Obligations.PortRequests : Prop :=
  ∀ (s : State) (p : Port) (f : BitVec 64),
    let q := s.prn.ports[p]
    let r := frmRail f
    let answered : Nat → Nat → State → State → Prop := fun code grant a t =>
      if code = 0 ∨ code = 0x010F then
        Answered p f (if code = 0 then 0 else 0x0F) grant (Consumed p f (if code = 0 then 0 else 0x0F) grant a) t
      else ∃ b, (frmPri f = false → b = Consumed p f (code - 0x100) 0 a) ∧
        (frmPri f = true → RaisedOnce (0x70 + p.val) 4 p.val (Consumed p f (code - 0x100) 0 a) b) ∧
        Answered p f (code - 0x100) 0 b t
    domOn s pdPrn = true → q.state = .live → frmGood f = true → formCheck f = none →
    (∀ l, q.last = some l → l.seq.toNat ≠ frmSeq f ∨ l.content ≠ frmBody f) → q.eseq.toNat = frmSeq f →
      (frmType f = 1 → portHas s r p = true → owns s p r = true →
        let e := s.prn.rails[r]
        let code := frmPay f 24 16
        let cls := min (frmPay f 21 3) (s.cfg.slewcap r.val)
        ∃ t, exec (.setpoint p f) s = .next t ∧
          (s.eng.rails[r].mode ≠ .digital ∨ e.seqown = true → answered 0x0105 0 s t) ∧
          (s.eng.rails[r].mode = .digital → e.seqown = false →
            (code < s.cfg.vmin r.val ∨ s.cfg.vmax r.val < code → answered 0x0114 0 s t) ∧
            (s.cfg.vmin r.val ≤ code → code ≤ s.cfg.vmax r.val → frmNotify f = false ∨ e.ref ≠ code * 65536 →
              answered (if cls < frmPay f 21 3 then 0x010F else 0)
                (cls * 256 + timeField (ceilDiv ((code * 65536 : Int) - (e.ref : Int)).natAbs
                  (classStep cls * 65536)))
                (s.upPrnRail r fun p => { p with
                  tgt := BitVec.ofNat 16 code, gcls := BitVec.ofNat 3 cls, notify := frmNotify f, safe := none })
                t))) ∧
      (frmType f = 2 → portHas s r p = true → owns s p r = true →
        let e := s.eng.rails[r]
        let waiting := e.fcs.filter fun f => decide (instantNow s < f.tF)
        ∃ t, exec (.forecast p f) s = .next t ∧
          (2 ≤ waiting.length → answered 0x0104 0 s t) ∧
          (waiting.length < 2 → s.cfg.pnm.testBit p.val = false →
            (s.cfg.fff r.val = false ∨ e.mode ≠ .digital ∨ s.prn.rails[r].seqown = true ∨ e.fcsusp = true →
              answered 0 (8 * (activeCount s r % 64) + 4) s t) ∧
            (s.cfg.fff r.val = true → e.mode = .digital → s.prn.rails[r].seqown = false → e.fcsusp = false →
              ∃ a b, planForecast r (500 * signed 16 (frmPay f 24 16)) (frmPay f 8 16) s = a ∧
                answered a.2.code a.2.grant a.1 t ∧ (a.2.code = 0 ∨ a.2.code = 0x010F) ∧
                (a.1 = b ∨ (b.eng.rails[r].ovf = false ∧
                  Raised 0x61 (b.upEngRail r fun e => { e with ovf := true }) a.1)) ∧
                ∃ fc, b.eng.rails[r].fcs = e.fcs ++ [fc] ∧ b.eng.rails[r].fcAcc = e.fcAcc + 1 ∧
                  fc.tF = instantNow s + 64000 * frmPay f 8 16 ∧ fc.tAcc = instantNow s ∧
                  (0 ≤ (e.word 21).toInt → (fc.dI.natAbs : Int) ≤ (e.word 21).toInt)))) ∧
      (frmType f = 3 → portHas s r p = true →
        let st := frmPay f 36 4
        let cost := frmPay f 20 16
        ∃ t, exec (.state p f) s = .next t ∧
          (s.ldg.src ≠ .input → s.cfg.hpst p.val ≤ st → answered 0x0106 0 s t) ∧
          (s.ldg.src = .input ∨ st < s.cfg.hpst p.val →
            (q.cost.toNat < cost → mayAdmit s (cost - q.cost.toNat) true = false →
              answered 0x0106 0 { s with ldg := { s.ldg with nref := s.ldg.nref + 1 } } t) ∧
            (cost ≤ q.cost.toNat ∨ mayAdmit s (cost - q.cost.toNat) true = true →
              ∃ u, answered 0 (128 * st) (releaseIdle u) t ∧
                u = { s with
                  prn := { s.prn with ports := vmod s.prn.ports p fun q =>
                    { q with pstate := BitVec.ofNat 4 st, cost := BitVec.ofNat 16 cost, costRail := r } }
                  ldg := { s.ldg with books := u.ldg.books } } ∧
                u.ldg.books = (if cost = 0 ∨ domOn s pdGau = false then [] else
                  [{ for_ := .port p, mJ := cost }]) ++ s.ldg.books.filter fun b => b.for_ != .port p))) ∧
      (frmType f = 4 → portHas s r p = true →
        let item := frmPay f 36 4
        ∃ t, exec (.query p f) s = .next t ∧
          (item = 0 → ∀ x, latestError s r = some x →
            answered 0 (voltItem (1000 * deliveredRef s r + 4578 * x)) s t) ∧
          (item = 1 → ∀ x, latestError s r = some x → answered 0 (verrItem (4578 * x)) s t) ∧
          (item ≤ 1 → latestError s r = none →
            ∃ g, answered 0 g { s with freeCount := s.freeCount + 1 } t) ∧
          (item = 2 → answered 0 (curItem s.pwm.rails[r].iAvg) s t) ∧
          (item = 3 → answered 0 (rideItem s) s t) ∧
          (item = 4 → answered 0 q.alert.toNat (s.upPort p fun q => { q with alert := 0 }) t) ∧
          (item = 5 → answered 0 (128 * q.pstate.toNat) s t)) ∧
      (frmType f = 5 → frmSync f = false → ∃ t, exec (.heartbeat p f) s = .next t ∧ answered 0 0 s t) ∧
      (frmType f = 5 → frmSync f = true → (∀ k : Rail, s.prn.rails[k].safe ≠ some p) →
        ∃ t, exec (.heartbeat p f) s = .next t ∧ answered 0 0 s t)

/-- What else reaches a port (R173, R182, R185, R186, R202, R203). A frame whose CRC fails is counted and
answered 0x0116, with the port's event; a stall is counted, and abandons the response from clock 65 on; a
lost heartbeat makes the port LOST with its event, clears the forecasts of the regulating rails that it owns,
and starts their SAFE action where LOSSACT asks for one; a HEARTBEAT with SYNC brings the port to LIVE,
from LOST with the alert HBLOST; a port reset takes its request and leaves the port
UNSYNC and expecting SEQ 0, and the markers under way to the reset block await its first record for their boundary
(R26). Completes: frameCheckFailed, frameStall, heartbeatLost, prnPortReset.

The slew limiter (R190 to R192, R256, R272): in the slots whose low five bits are 0, every rail's REF
moves toward its target and its margin offset toward its aim by at most a step of its class, a rise or fall
that the sequencer owns by its own step, and never past it; a NOTIFY request ends where REF arrives, and
MRG where the offset of a rail without selection has come back to 0. Completes: slewLimiterTick. -/
def Obligations.PortSupervision : Prop :=
  (∀ (s : State) (p : Port),
     let q := s.prn.ports[p]
     (∀ f, domOn s pdPrn = true → q.state ≠ .disabled → frmGood f = false →
       ∃ u t, exec (.frameCheckFailed p f) s = .next t ∧
         RaisedOnce (0x70 + p.val) 3 p.val
           (s.upPort p fun q => { q with crcerr := if q.crcerr = 0xFF then 0xFF else q.crcerr + 1 }) u ∧
         Answered p f 0x16 0 u t) ∧
     (∀ clock, domOn s pdPrn = true → q.state ≠ .disabled → 1 ≤ clock → clock ≤ 105 →
       ∃ t, exec (.frameStall p clock) s = .next t ∧
         RaisedOnce (0x70 + p.val) 2 p.val
           (s.upPort p fun q => { q with
             stalls := if q.stalls = 0xFF then 0xFF else q.stalls + 1
             resp := if 65 ≤ clock then none else q.resp }) t) ∧
     (∀ f, domOn s pdPrn = true → q.state = .unsync ∨ q.state = .lost → frmGood f = true → frmType f = 5 →
       frmSync f = true → formCheck f = none → (∀ k : Rail, s.prn.rails[k].safe ≠ some p) →
       ∃ t, exec (.heartbeat p f) s = .next t ∧
         Answered p f 0 0 (Consumed p f 0 0 (s.upPort p fun q => { q with
           state := .live, alert := if q.state = .lost then putBit q.alert 5 true else q.alert })) t) ∧
     (q.state = .live → s.cfg.hbto p.val ≠ 0 → ∃ u t, exec (.heartbeatLost p) s = .next t ∧
       RaisedOnce (0x70 + p.val) 1 p.val (s.upPort p fun q => { q with state := .lost }) u ∧
       t = { u with
         eng := { u.eng with rails := t.eng.rails }, prn := { u.prn with rails := t.prn.rails } } ∧
       ∀ r : Rail,
         let acts : Prop := u.eng.rails[r].mode ≠ .off ∧ owns s p r = true
         t.eng.rails[r] = (if acts then { u.eng.rails[r] with
           fcs := u.eng.rails[r].fcs.filter fun f => decide (f.tF ≤ instantNow s) } else u.eng.rails[r]) ∧
         t.prn.rails[r] =
           let e := u.prn.rails[r]
           if acts ∧ s.cfg.lossact r.val = true ∧ e.seqown = false then
             if u.eng.rails[r].mode = .heel ∨ u.eng.rails[r].mode = .track then { e with safe := some p }
             else { e with
               tgt := BitVec.ofNat 16 (s.cfg.vsafe r.val), notify := false, safe := none
               gcls := BitVec.ofNat 3 (min (s.cfg.safecls r.val) (s.cfg.slewcap r.val)) }
           else e) ∧
     (q.state ≠ .live ∨ s.cfg.hbto p.val = 0 → exec (.heartbeatLost p) s = .next s) ∧
     (let key := resetKey (srcId 0x8 0 p.val 0 0)
      (key ∈ s.flt.brReq → exec (.prnPortReset p) s = .next
       { s.upPort p (fun q => { q with
           state := if q.state = .disabled then .disabled else .unsync, eseq := 0, last := none, resp := none })
         with
           flt := { s.flt with brReq := s.flt.brReq.filter (· != key) }, fab := (restampAt (· == .prn) s).fab }) ∧
       (∀ at_ : MarkerAt → Bool, restampAt at_ s = { s with fab := { s.fab with
         markers := s.fab.markers.map fun m => if m.bstamp.isSome = true then
             { m with restamp := m.restamp ++ m.targets.filter fun t => at_ t && !m.restamp.contains t }
           else m } }) ∧
      (key ∉ s.flt.brReq → exec (.prnPortReset p) s = .next s))) ∧
  (∀ s : State,
     (domOn s pdFab = false ∨ s.clk.slot % 32 ≠ 0 → exec .slewLimiterTick s = .next s) ∧
     (domOn s pdFab = true → s.clk.slot % 32 = 0 → ∃ u, exec .slewLimiterTick s = .next (settle u) ∧
       u = { s with prn := u.prn, cmp := u.cmp, ldg := u.ldg } ∧
       ∀ r : Rail,
         let e := s.prn.rails[r]
         let n := u.prn.rails[r]
         let aim : Int := e.tgt.toNat * 65536
         let step : Int := if e.seqown = true then seqStep s.cfg r.val else classStep e.gcls.toNat * 65536
         let msel := s.seq.rails[idxOf r].msel
         let margin : Int := if msel = 1 then ((n.ref / 65536 * s.cfg.mhi r.val + 500) / 1000 : Nat)
           else if msel = 2 then -((n.ref / 65536 * s.cfg.mlo r.val + 500) / 1000 : Nat) else 0
         let most : Int := classStep (s.cfg.slewcap r.val)
         (n.ref : Int) = (if (e.ref : Int) < aim then min aim (e.ref + step) else max aim (e.ref - step)) ∧
           n.m = (if e.m < margin then min margin (e.m + most) else max margin (e.m - most)) ∧
           n.notify = (e.notify && decide ((n.ref : Int) ≠ aim)) ∧
           n.mrg = (e.mrg && !decide (n.m = 0 ∧ msel = 0)) ∧
           n.tgt = e.tgt ∧ n.gcls = e.gcls ∧ n.seqown = e.seqown ∧ n.safe = e.safe))

/-! ## The ledger -/

/-- LEDGER_UPDATE (R278, R283, R286, R287, R294), once at each multiple of 64 000 ticks. The planning power is the
larger of the present load power and its mean over the last 100 updates, and stands while a channel is stale; the
stored energy counts the pack and the hold-up bank, and the reserve is the shut-down's with its margin, the envelope
and, unless a capacity test is armed, the floor. In STORED with PFEN the first of the triggers energy, pack and time
that is met makes the ledger DOWN, with event 0x7E cause 3 and the power-fail take-down. Completes: ledgerUpdate.

The input and the channels (R270, R281, R285, R293, R315). A loss on INPUT while W72 is not-good makes the ledger
STORED, opens the blackout record, tells the LIVE ports, counts, and raises event 0x7E cause 1; a qualified return
with W72 good makes it INPUT again, closes the record, raises cause 2, tells the LIVE ports and lets the sequencer
return. A channel without a fresh result for 10 ms is stale, with cause 6, and ends a learning run; a block reset of
the ledger drops its samples and means, one of the gauge starts it from its record where the NV controller takes
requests, and the markers under way to the reset block await its first result for their boundary (R26). Completes:
inputLoss, inputReturnQualified, channelStale, ldgGauBlockReset.

The gauge's part of the update (R297, R300, R303, R304, R307, R308, R309). A board without a pack has no pack energy.
Else the fresh results' means scale to V and I and a stale channel holds them; the polarisation, the open-circuit
voltage and SoC_v follow from them; SoC_q counts the charge within 0 and 1 unless an anchor sets it; SOCR takes the
counted change, moves toward SoC_e by at most RATE, stays within 0 and 1 and at 1 % or more under a disagreement; and
the pack's energy is the smaller of the two figures, under a disagreement the voltage's. -/
def Obligations.LedgerUpdates : Prop :=
  (∀ s : State,
     let t := gaugeUpdate s
     let g := s.cfg
     let ns : Rat := ((g.ns : Nat) : Rat)
     (g.ns = 0 → t = { s with
       gau := { s.gau with vNew := [], iNew := [], tNew := [] }, ldg := { s.ldg with ePack := 0 } }) ∧
     (g.ns ≠ 0 →
       (t.gau.vNew = [] ∧ t.gau.iNew = [] ∧ t.gau.tNew = [] ∧ t.gau.fresh = false ∧ t.gau.socrInit = false) ∧
       (s.gau.stale = true → t.gau.vpk = s.gau.vpk ∧ t.gau.ipk = s.gau.ipk ∧ t.gau.tpk = s.gau.tpk) ∧
       (∀ x, s.gau.stale = false → meanValue s.gau.vNew = some x → t.gau.vpk = x * ((g.kpv : Nat) : Rat) / 256) ∧
       (∀ x, s.gau.stale = false → meanValue s.gau.iNew = some x → t.gau.ipk = x * ((g.kpi : Int) : Rat) / 256) ∧
       (s.gau.tau ≠ 0 →
         t.gau.vp = s.gau.vp + (t.gau.ipk * s.gau.rp / 1000 - s.gau.vp) / s.gau.tau) ∧
       t.gau.ocvEst = (t.gau.vpk + t.gau.ipk * s.gau.r0 / 1000 + t.gau.vp) / ns ∧
       t.gau.socv = inverseAt t.gau.ocvEst (rowAt g t.gau.tpk) ∧
       (packQ s ≠ 0 →
         let counted : Rat := -t.gau.ipk / (packQ s * 3600000)
         let most : Rat := ((g.rate : Nat) : Rat) / 60000000
         let moved : Rat := if s.gau.socrInit = true then t.gau.soce
           else if s.gau.socr + counted < t.gau.soce then min t.gau.soce (s.gau.socr + counted + most)
           else max t.gau.soce (s.gau.socr + counted - most)
         let shown : Rat := max 0 (min 1 moved)
         t.gau.socr = (if t.gau.disagree = true then max (1 / 100) shown else shown) ∧
         (s.gau.fresh = false → t.gau.restTaken = false → t.gau.fullMs ≠ 60000 →
           t.gau.socq = max 0 (min 1 (s.gau.socq + counted)))) ∧
       (((g.pkeff * g.ns : Nat) : Rat) * t.gau.ocvEst ≠ 0 →
         let e := packEnergy g (rowAt g t.gau.tpk) (packQ t) t.gau.r0 t.gau.rp
           (t.ldg.pPlan * 1000 * 1000000 / (((g.pkeff * g.ns : Nat) : Rat) * t.gau.ocvEst))
         t.ldg.ePack = (if t.gau.disagree = true then e t.gau.socv else min (e t.gau.socq) (e t.gau.socv))))) ∧
  (∀ s : State,
     (domOn s pdGau = false ∨ s.tmr.now.toNat % 64000 ≠ 0 ∨ s.ldg.updAt = some s.tmr.now →
       exec .ledgerUpdate s = .next s) ∧
     (domOn s pdGau = true → s.tmr.now.toNat % 64000 = 0 → s.ldg.updAt ≠ some s.tmr.now → ∃ u v w,
       exec .ledgerUpdate s = .next
         ((recordTimer (spentIfDone w)).upLdg fun l => { l with updAt := some s.tmr.now }) ∧ u = gaugeUpdate (ledgerMeans s) ∧
       (let l := u.ldg
        let m := v.ldg
        let held := l.stale = true ∨ l.restarted = true
        (held → m.pPlan = l.pPlan ∧ m.pHist = l.pHist) ∧
        (¬ held → m.pHist = (loadPower u :: l.pHist).take 100 ∧
          m.pPlan = max (loadPower u) (meanRat m.pHist)) ∧
        m.src = l.src ∧ m.restarted = false ∧ m.ePack = l.ePack ∧ m.capArmed = l.capArmed ∧
        m.storedAt = l.storedAt ∧
        m.ePlan = l.ePack + holdEnergy v ∧
        m.eRes = m.pPlan * m.tSd / 1000 * ((1000 + s.cfg.sdmrg : Nat) : Rat) / 1000 +
          ((s.cfg.env * 1000 : Nat) : Rat) +
          (if l.capArmed = true then 0 else ((s.cfg.floorJ * 1000000 : Nat) : Rat)) ∧
        (l.src = .input → m.ride = 0xFFFFFFFF) ∧ (l.src = .down ∨ l.src = .spent → m.ride = 0) ∧
        v.gau = u.gau ∧ v.flt = u.flt ∧ v.seq = u.seq ∧ v.regs = s.regs) ∧
       (let m := v.ldg
        let on : Prop := m.src = .stored ∧ s.cfg.pfen = true
        let t1 : Prop := m.ePlan ≤ m.eRes
        let t2 : Prop := s.cfg.ns ≠ 0 ∧ 10 ≤ v.gau.cutMs
        let t3 : Prop := s.cfg.ridemax ≠ 0 ∧ s.cfg.ridemax * 1000 * 256000 ≤ s.clk.slot - m.storedAt
        let goes : BitVec 3 → Prop := fun n => ∃ y, w = powerFail y ∧ RaisedOnce 0x7E 3 0
          { v with ldg := { m with
            src := .down, trig := n, ride := 0
            blackout := m.blackout.map fun b => { b with trigger := n } } } y
        (¬ on ∨ (¬ t1 ∧ ¬ t2 ∧ ¬ t3) → w = v) ∧ (on → t1 → goes 1) ∧ (on → ¬ t1 → t2 → goes 2) ∧
          (on → ¬ t1 → ¬ t2 → t3 → goes 3)))) ∧
  (∀ s : State,
     let live := (wires s (72 : Window)).low || (wires s (72 : Window)).high
     let told : Nat → State → Vector PrnPort 4 → Prop := fun k a ps => ∀ n : Port,
       ps[n] = if s.prn.ports[n].state = .live then
         { a.prn.ports[n] with alert := putBit a.prn.ports[n].alert k true } else a.prn.ports[n]
     let old : Option Sample → Prop := fun x => match x with
       | none => True
       | some y => y.slot + 2560000 ≤ s.clk.slot
     (domOn s pdGau = false ∨ s.ldg.src ≠ .input ∨ live = false → exec .inputLoss s = .next s) ∧
     (domOn s pdGau = true → s.ldg.src = .input → live = true → ∃ u v,
       exec .inputLoss s = .next (tryHoldUp (countUp 0 v)) ∧ RaisedOnce 0x7E 1 0 u v ∧
       u = { s with
         freeCount := u.freeCount, prn := { s.prn with ports := u.prn.ports }
         ldg := { s.ldg with
           src := .stored, storedAt := s.clk.slot, ride := u.ldg.ride
           hold := { s.ldg.hold with lostAt := some s.clk.slot }, blackout := u.ldg.blackout } } ∧
       told 0 s u.prn.ports ∧
       (∃ b, u.ldg.blackout = some b ∧ b.lossTime = timeNow s ∧ b.drawn = 0 ∧ b.socrLoss = s.gau.socr ∧
         b.trigger = 0 ∧ b.onPack = false ∧ b.cMeas = none ∧ b.pLoss = s.ldg.pPlan ∧ b.rideLoss = u.ldg.ride) ∧
       (let t := (max 0 (s.ldg.ePlan - s.ldg.eRes) / s.ldg.pPlan).floor
        s.ldg.pPlan ≠ 0 → s.cfg.ridemax = 0 → 0 ≤ t → t < 2 ^ 32 →
          u.ldg.ride = BitVec.ofInt 32 t ∧ u.freeCount = s.freeCount)) ∧
     (domOn s pdGau = true → s.ldg.src ≠ .input → live = false → ∃ a b c,
       exec .inputReturnQualified s = .next (inputReturns c) ∧
       (s.ldg.src = .stored → a = closeBlackout 1 s) ∧ (s.ldg.src = .down → a = closeBlackout 2 s) ∧
       (s.ldg.src = .spent → a = { s with ldg := { s.ldg with lastReturn := timeNow s } }) ∧
       RaisedOnce 0x7E 2 0 { a with ldg := { a.ldg with
         src := .input, ride := 0xFFFFFFFF, hold := HoldUp.reset } } b ∧
       c = { b with prn := { b.prn with ports := c.prn.ports } } ∧ told 1 b c.prn.ports) ∧
     (domOn s pdGau = true → s.cfg.ns ≠ 0 → s.gau.stale = false →
       old s.gau.lastV ∨ old s.gau.lastI ∨ old s.gau.lastT → ∃ u,
       exec (.channelStale true) s = .next (disqualify 2 u) ∧
       RaisedOnce 0x7E 6 1 { s with gau := { s.gau with stale := true } } u) ∧
     (domOn s pdGau = true → s.ldg.stale = false → old s.ldg.lastV ∨ old s.ldg.lastI → ∃ u,
       exec (.channelStale false) s = .next (disqualify 2 u) ∧
       RaisedOnce 0x7E 6 0 { s with ldg := { s.ldg with stale := true } } u) ∧
     ∀ gauge : Bool,
       let key := resetKey (srcId 0xB (if gauge then 1 else 0) 0 0 0)
       let taken := { s with
         flt := { s.flt with brReq := s.flt.brReq.filter (· != key) }, fab := (restampAt (· == .ldg) s).fab }
       (key ∉ s.flt.brReq → exec (.ldgGauBlockReset gauge) s = .next s) ∧
       (key ∈ s.flt.brReq → gauge = true → nvOpen s = true →
         exec (.ldgGauBlockReset gauge) s = .next (gaugeStart (s.nvm.report []) (disqualify 0 taken))) ∧
       (key ∈ s.flt.brReq → gauge = true → nvOpen s = false →
         exec (.ldgGauBlockReset gauge) s = .next (gaugeNew (disqualify 0 taken))) ∧
       (key ∈ s.flt.brReq → gauge = false → exec (.ldgGauBlockReset gauge) s = .next
         { taken with ldg := { s.ldg with
           vbusNew := [], iinNew := [], iinHist := [], lastV := none, lastI := none, stale := false
           hold := { HoldUp.reset with lostAt := s.ldg.hold.lostAt }, restarted := true } }))

/-! ## The NV store -/

/-- The descriptors of the NV store (R411, R420, R421, R423, R425, R426, R430, R435 to R439). Each ends with the first
code whose condition holds: outside the array or of a wrong length 0x0102, a factory, calibration, counter or record
area that it may not write 0x0107, a controller that refuses or is off 0x0105, a byte that BP protects 0x0107 with
event 0x7B; otherwise it joins the controller's queue and waits. A CNT_READ that finds the controller with nothing to
do is answered at once, and IMG_WRITE has its own checks. A word once found uncorrectable reads so until it is
written, which is the model's choice (log 68). That a refused access answers 0x0105 is the model's reading (log 22).
Completes: nvRead, nvWrite, recRead, recCommit, cntInc, cntRead, imgWrite. -/
def Obligations.NvDescriptors : Prop :=
  ∀ (s : State) (q : Ring) (d : Desc),
    let shut : Prop := s.nvm.refuse = true ∨ domOn s pdNvm = false
    let a := d.pf 0 18
    let n := d.len.toNat
    let id : Fin 64 := Fin.ofNat 64 (d.pf 0 6)
    let ends := match s.cfg.bp with | 0 => 0x40000 | 1 => 0x30000 | 2 => 0x20000 | _ => 0x1000
    let safe : Nat → Nat → Prop := fun a n => n = 0 ∨ a + n ≤ ends
    let joins : NvReq → State → Prop := fun r t =>
      Waits q false { s with nvm := { s.nvm with queue := s.nvm.queue ++ [r] } } t
    let barred : State → Prop := fun t => ∃ u, Raised 0x7B s u ∧ t = complete q 0x0107 0 u
    (ready s q 0x50 = some d → ∃ t, exec (.nvRead q) s = .next t ∧
      (0x40000 < a + n → Ends q 0x0102 0 s t) ∧ (a + n ≤ 0x40000 → shut → Ends q 0x0105 0 s t) ∧
      (a + n ≤ 0x40000 → ¬ shut → joins (nvReq 3 (some q) (.read q a n)) t)) ∧
    (ready s q 0x51 = some d → ∀ buf, ∃ t, exec (.nvWrite q buf) s = .next t ∧
      (0x40000 < a + n ∨ buf.length ≠ n → Ends q 0x0102 0 s t) ∧
      (a + n ≤ 0x40000 → buf.length = n →
        (a < 0x15000 → Ends q 0x0107 0 s t) ∧ (0x15000 ≤ a → shut → Ends q 0x0105 0 s t) ∧
        (0x15000 ≤ a → ¬ shut → ¬ safe a n → barred t) ∧
        (0x15000 ≤ a → ¬ shut → safe a n → ∃ todo,
          joins { nvReq 3 (some q) (.write q) with todo := todo } t ∧
          todo.flatMap (·.2) = buf ∧ (todo.head?.map (·.1) = if n = 0 then none else some a) ∧
          todo.Pairwise (fun x y => x.1 / 8 < y.1 / 8) ∧
          ∀ e ∈ todo, e.2 ≠ [] ∧ (e.1 + e.2.length - 1) / 8 = e.1 / 8))) ∧
    (ready s q 0x52 = some d → ∃ t, exec (.recRead q) s = .next t ∧ (shut → Ends q 0x0105 0 s t) ∧
      (¬ shut → joins (nvReq 3 (some q) (.recRead q id 0)) t)) ∧
    (ready s q 0x53 = some d → ∀ buf, ∃ t, exec (.recCommit q buf) s = .next t ∧
      (buf.length ≠ n ∨ (if id.val < 8 then 240 else 48) < buf.length → Ends q 0x0102 0 s t) ∧
      (buf.length = n → buf.length ≤ (if id.val < 8 then 240 else 48) →
        (id.val < 2 ∨ (8 ≤ id.val ∧ id.val < 16) → Ends q 0x0107 0 s t) ∧
        ((2 ≤ id.val ∧ id.val < 8) ∨ 16 ≤ id.val →
          (shut → Ends q 0x0105 0 s t) ∧
          (¬ shut → let b := recAddr id.val (commitPlace id s).1.val
            (safe b (recSize id.val) → joins (nvReq 3 (some q) (.recCommit id buf 0 0 0)) t) ∧
            (¬ safe b (recSize id.val) → barred t))))) ∧
    (ready s q 0x54 = some d → ∃ t, exec (.cntInc q) s = .next t ∧
      (id.val < 16 → Ends q 0x0107 0 s t) ∧ (16 ≤ id.val → shut → Ends q 0x0105 0 s t) ∧
      (16 ≤ id.val → ¬ shut →
        let seen := s.nvm.report []
        let cell := (0xC000 + 64 * id.val + 4 * nextCell (topCell (cellsOf s.nvm.mem seen id.val))) / 8 * 8
        (safe cell 8 ∨ counterValue s.nvm.mem seen id.val = 0x0FFFFFFF → joins (nvReq 3 (some q) (.counter id)) t) ∧
        (¬ safe cell 8 → counterValue s.nvm.mem seen id.val ≠ 0x0FFFFFFF → barred t))) ∧
    (ready s q 0x55 = some d → ∀ ecc, ∃ t, exec (.cntRead q ecc) s = .next t ∧ (shut → Ends q 0x0105 0 s t) ∧
      (¬ shut → s.nvm.queue = [] → s.flt.queue = [] →
        t = complete q 0 (counterValue s.nvm.mem (s.nvm.report ecc) id.val)
          (seeWords 1 (s.nvm.report ecc) (0x1800 + 8 * id.val) 8 s) ∧
        (ecc = [] → s.nvm.dead = [] → Ends q 0 (counterValue s.nvm.mem [] id.val) s t)) ∧
      (¬ shut → s.nvm.queue ≠ [] ∨ s.flt.queue ≠ [] → joins (nvReq 3 (some q) (.cntRead q id)) t)) ∧
    (ready s q 0x60 = some d → imageRunning s = false → ∀ buf, ∃ t, exec (.imgWrite q buf) s = .next t ∧
      let slot : Fin 2 := Fin.ofNat 2 (d.pf 0 1)
      (s.nvm.loaded = some slot → Ends q 0x0105 0 s t) ∧
      (s.nvm.loaded ≠ some slot →
        (natAt buf 0 4 ≠ 0x4C56485A ∨ natAt buf 8 4 ≠ n ∨ buf.length ≠ n → Ends q 0x011A 0 s t) ∧
        (natAt buf 0 4 = 0x4C56485A → natAt buf 8 4 = n → buf.length = n →
          (∀ c k, imageSeen s.tw.adsel buf = .bad c k → Ends q 0x011A 0 s t) ∧
          (∀ i, imageSeen s.tw.adsel buf = .good i →
            (newestSeq s i.seq = false → Ends q 0x0103 0 s t) ∧
            (newestSeq s i.seq = true → shut → Ends q 0x0105 0 s t) ∧
            (newestSeq s i.seq = true → ¬ shut → safe (0x1000 + 0x4000 * slot.val) n →
              joins { nvReq 3 (some q) (.image q slot buf false) with
                todo := imageRuns (0x1000 + 0x4000 * slot.val) buf } t)))))

/-- The controller at work (R332, R341 to R343, R412, R425 to R427, R440, R442). A page operation is the next of the
oldest waiting request of the device, then of a descriptor, then of the scrubber, while no log entry waits; the last
page of an NV_WRITE writes its words and ends its descriptor. The oldest log entry goes to the array at the log's
head. A scrub interval asks for a batch that the energy admits, one at a time. A block reset takes its requests and
ends with 0x0108 each descriptor whose request waits unacted; a commit of the device, a log entry and a descriptor
that has acted go on, a read begins again, a scrub batch is given up, and the markers under way to the block await its
first packet for their boundary (R26). A falling supply leaves the journal of an unfinished write, shuts the
controller and gives up the commits of the device that wait, of which the one who asked hears (R77, R313); which of
the device's own requests go on is the model's choice (log 22, log 23). What the entry and the journal wrote reads
back from an array in its canonical form (log 3). Completes: nvPageOperation, logEntryWrite, scrubInterval,
nvBlockReset, vcc33Uvlo. -/
def Obligations.NvOperations : Prop :=
  ∀ s : State,
    let shut : Prop := s.nvm.refuse = true ∨ domOn s pdNvm = false
    (∀ ecc, shut ∨ s.flt.queue ≠ [] ∨ s.nvm.queue = [] → exec (.nvPageOperation ecc) s = .next s) ∧
    (∀ ecc r rest, ¬ shut → s.flt.queue = [] → pickReq s.nvm.queue = some (r, rest) →
      (r ∈ s.nvm.queue ∧ rest = s.nvm.queue.erase r ∧
        ∀ k ∈ s.nvm.queue, 2 ≤ k.prec.val → r.prec.val ≤ k.prec.val) ∧
      exec (.nvPageOperation ecc) s =
        .next (pageOperation (s.nvm.report ecc) r { s with nvm := { s.nvm with queue := rest } }) ∧
      ∀ q e, r.work = .write q → r.ring = some q → s.hif.sq[q].exec = some e →
        (∀ x ∈ r.todo, x.1 / 64 = (r.todo.headD (0, [])).1 / 64) →
        ∃ u t, exec (.nvPageOperation ecc) s = .next t ∧ Ends q 0 0 u t ∧
          u.nvm = { s.nvm with queue := rest, mem := u.nvm.mem, dead := u.nvm.dead } ∧
          u.nvm.mem = r.todo.foldl (fun m x => writeBytes m x.1 x.2) s.nvm.mem ∧
          ∀ a, (∀ x ∈ r.todo, a < x.1 ∨ x.1 + x.2.length ≤ a) →
            readByte t.nvm.mem a = readByte s.nvm.mem a) ∧
    (domOn s pdFab = false ∨ domOn s pdNvm = false ∨ s.flt.queue = [] → exec .logEntryWrite s = .next s) ∧
    (∀ e es, domOn s pdFab = true → domOn s pdNvm = true → s.flt.queue = e :: es →
      let at_ := 0xD000 + 32 * (s.flt.logHead.toNat % 1024)
      (s.nvm.refuse = true → exec .logEntryWrite s = .next { s with flt := { s.flt with
        queue := es, drop := if s.flt.drop = 0xFFFFFFFF then s.flt.drop else s.flt.drop + 1 } }) ∧
      (s.nvm.refuse = false → ∃ t, exec .logEntryWrite s = .next t ∧
        t = { s with
          flt := { s.flt with queue := es, logHead := s.flt.logHead + 1 }
          nvm := { s.nvm with mem := t.nvm.mem, dead := t.nvm.dead } } ∧
        (memoryOk s = true → readBytes t.nvm.mem at_ 32 = entryBytes e s.flt.logHead) ∧
        ∀ a, a < at_ ∨ at_ + 32 ≤ a → readByte t.nvm.mem a = readByte s.nvm.mem a)) ∧
    (let busy : Prop := ∃ r ∈ s.nvm.queue, ∃ k, r.work = .scrub k
     (shut ∨ s.cfg.scren = false ∨ busy → exec .scrubInterval s = .next s) ∧
     (¬ shut → s.cfg.scren = true → ¬ busy →
      (mayAdmit s s.cfg.costscr false = false →
        exec .scrubInterval s = .next { s with ldg := { s.ldg with nref := s.ldg.nref + 1 } }) ∧
      (mayAdmit s s.cfg.costscr false = true → exec .scrubInterval s = .next { s with
        ldg := { s.ldg with books := if domOn s pdGau = true then
          { for_ := .scrub, mJ := s.cfg.costscr } :: s.ldg.books else s.ldg.books }
        nvm := { s.nvm with queue := s.nvm.queue ++ [nvReq 4 none (.scrub s.cfg.scrBatch)] } }))) ∧
    (let keys := [resetKey (srcId 0xA 0x0 0 0 0), resetKey (srcId 0xA 0x1 0 0 0)]
     ((∀ k ∈ keys, k ∉ s.flt.brReq) → exec .nvBlockReset s = .next s) ∧
     ((∃ k ∈ keys, k ∈ s.flt.brReq) → ∃ u v w,
      u = { s with
        flt := { s.flt with brReq := s.flt.brReq.filter fun k => !keys.contains k }
        fab := (restampAt (· == .nvm) s).fab
        nvm := { s.nvm with queue := s.nvm.queue.filterMap (resetReq s) } } ∧
      v = State.each (s.nvm.queue.filter fun r => (resetReq s r).isNone)
        (fun r s => match r.ring with | some q => complete q 0x0108 0 s | none => s) u ∧
      w = { v with ldg := { v.ldg with books := v.ldg.books.filter fun b => b.for_ != .scrub } } ∧
      (shut → exec .nvBlockReset s = .next w) ∧
      (¬ shut → exec .nvBlockReset s = .next (scanRecords (s.nvm.report []) w))) ∧
     (∀ r : NvReq, (∀ k, r.work ≠ .scrub k) → (∀ q a n, r.work ≠ .read q a n) →
       (r.ring = none → resetReq s r = some r) ∧
       ∀ q e, r.ring = some q → s.hif.sq[q].exec = some e →
         (r.prec = 2 ∨ e.acted = true → resetReq s r = some r) ∧
         (r.prec ≠ 2 → e.acted = false → resetReq s r = none)) ∧
     (∀ r : NvReq, (∀ k, r.work = .scrub k → resetReq s r = none) ∧
       ∀ q a n, r.work = .read q a n → resetReq s r = some { r with got := [], lost := [] }) ∧
     ∀ q e, s.hif.sq[q].exec = some e → Ends q 0x0108 0 s (complete q 0x0108 0 s)) ∧
    (let down := { s with pwr := { s.pwr with uvloGood := false } }
     let asks : NvReq → Bool := fun r => r.prec.val = 2 && match r.work with
       | .recCommit _ _ _ _ _ => true
       | _ => false
     (shut → exec .vcc33Uvlo s = .next down) ∧
     (¬ shut → ∃ t, exec .vcc33Uvlo s = .next (killCommits 0x0105 t) ∧
      t = { down with nvm := { s.nvm with refuse := true, mem := t.nvm.mem, dead := t.nvm.dead } } ∧
      ((∀ r ∈ s.nvm.queue, asks r = false) → killCommits 0x0105 t = t) ∧
      (∀ r, s.nvm.queue.filter asks = [r] →
        let u := { t with nvm := { t.nvm with queue := s.nvm.queue.filter fun r => !asks r } }
        (∀ q id p k l n, r.ring = some q → r.work = .recCommit id p k l n → id.val < 2 →
          killCommits 0x0105 t = calRefused q 0x0105 u) ∧
        (∀ id p k l n, r.ring = none → r.work = .recCommit id p k l n → 9 ≤ id.val → id.val ≤ 11 →
          RaisedOnce 0x7E 5 0 u (killCommits 0x0105 t))) ∧
      ((∀ r ∈ s.nvm.queue, r.prec.val = 3 → wordsLeft s r = []) → t.nvm.mem = s.nvm.mem) ∧
      (∀ a, a < 0xBC00 ∨ 0xBC08 ≤ a → readByte t.nvm.mem a = readByte s.nvm.mem a) ∧
      ∀ x xs, memoryOk s = true → unfinished s = some (x :: xs) → (∀ y ∈ x :: xs, y.1 < 0x40000) →
        let w := natAt (readBytes t.nvm.mem 0xBC00 8) 0 8
        w / 2 ^ 63 = 1 ∧ w % 2 ^ 18 = x.1 / 8 * 8 ∧
          w / 2 ^ 18 % 2 ^ 18 = ((x :: xs).getLastD (0, [])).1 / 8 * 8))

/-- The NV array keeps every byte over every command but a page operation, a log entry's write, the journal
of a falling supply, a power-on reset that cuts a page short, a start or reset that clears the journal or writes the
waiting log entries out, and the entry to sleep. -/
def Obligations.OnlyTheseWriteTheArray : Prop :=
  ∀ (c : Instr) (s t : State), exec c s = .next t → t.nvm.mem = s.nvm.mem ∨
    match c with
    | .nvPageOperation _ => True
    | .logEntryWrite => True
    | .vcc33Uvlo => True
    | .vcc33AoPor => True
    | .vcc33Por => True
    | .porRelease _ _ => True
    | .supplyReturn _ _ => True
    | .chipReset _ _ => True
    | .wake _ _ _ => True
    | .sleepEntry => True
    | _ => False

/-! ## The two-wire ports -/

/-- The controller's jobs (R456 to R459, R461 to R469, R475). TW_XFER and TW_CLEAR join a port that is there, a
transfer on a quarantined port ends with 0x010B; a free bus begins the attempt that waits, with its START and address
byte; what an attempt has sent by its end goes out on the wires, the data bytes and the repeated START of the read,
and a STOP but after a lost arbitration; the phase and the byte of each failure are kept; a lost arbitration and an
address NACK are counted and the attempt is repeated while retries are left, and ends its descriptor with 0x0109 or
0x010A otherwise, with the port's event; a data NACK is not repeated; a wait or clock-low timeout ends it with 0x010C;
success answers the RESULT of R459 after the bytes read; a stuck bus without AUTOCLR quarantines the port. The next
job's turn follows each end. What BUSY shows until the bus is free, the phase that a wait limit names, and what the
wait limit of TW_CLEAR counts and raises are the model's reading (log 31). Completes: twXfer, twClear, twBusFree,
twArbitrationLost, twTransferEnd, twWaitLimit, twClockLowTimeout, twBusStuck. -/
def Obligations.TwJobs : Prop :=
  ∀ (s : State) (p : Port),
    let x := s.tw.ports[p]
    let there : Prop := domOn s pdTw = true ∧ x.state ≠ .off
    let waits : Prop := x.state = .waitbus ∨ (x.state = .quarantine ∧ x.jobs ≠ [])
    let inc : BitVec 8 → BitVec 8 := fun n => if n = 0xFF then n else n + 1
    let timedOut : BitVec 2 → BitVec 9 → State → Prop := fun phase byte t => ∃ v, t = failTwJob p 0x010C v ∧
      RaisedOnce (0x74 + p.val) 3 p.val
        (State.upTwPort p (fun x => { x with lphase := phase, lbyte := byte, tmo := inc x.tmo })
          (if x.state = .controller then endAttempt p phase byte.toNat true s else s)) v
    let first : List Byte → Nat → BitVec 2 := fun send n => if send = [] ∧ n ≠ 0 then 2 else 0
    (∀ q d buf, ready s q 0x58 = some d → d.pf 0 2 = p.val → ∃ t, exec (.twXfer q buf) s = .next t ∧
      (buf.length ≠ d.pf 32 9 → Ends q 0x0102 0 s t) ∧
      (buf.length = d.pf 32 9 →
        (¬ there → Ends q 0x0105 0 s t) ∧
        (there → x.quar = true → Ends q 0x010B 0 (s.upTwPort p fun x => { x with
          lerr := 0x010B, lphase := first buf (d.pf 48 9), lbyte := 0 }) t) ∧
        (there → x.quar = false → ∃ u, Waits q false s u ∧ t = u.upTwPort p fun x => { x with
          jobs := x.jobs ++ [.xfer q (BitVec.ofNat 7 (d.pf 8 7)) (d.pf 16 3) buf (d.pf 48 9)]
          state := if x.state = .idle then .waitbus else x.state }))) ∧
    (∀ q d, ready s q 0x59 = some d → d.pf 0 2 = p.val → ∃ t, exec (.twClear q) s = .next t ∧
      (¬ there → Ends q 0x0105 0 s t) ∧
      (there → ∃ u, Waits q false s u ∧ t = u.upTwPort p fun x => { x with
        jobs := x.jobs ++ [.clear q], state := if x.state = .idle then .waitbus else x.state })) ∧
    (∀ c, there → x.state ≠ .controller → ¬ waits →
      exec (.twBusFree p c) s = .next (s.upTwPort p fun x => { x with busy := false })) ∧
    (∀ c q a k send n js e, there → waits → x.quar = false → x.jobs = .xfer q a k send n :: js →
      s.hif.sq[q].exec = some e → ∃ u, Waits q true s u ∧
        exec (.twBusFree p c) s = .next ((u.upTwPort p fun x =>
          { x with state := .controller, busy := true }).emit (.twStart p a (decide (send = [] ∧ n ≠ 0))))) ∧
    (∀ q a k send n js phase byte stop, x.jobs = .xfer q a k send n :: js →
      let ends : State → State := fun v => if stop = true then v.emit (.twStop p) else v
      (phase = 0 → endAttempt p phase byte stop s = ends s) ∧
      (phase = 1 → send.take byte ≠ [] → endAttempt p phase byte stop s =
        ends (s.emit (.twBytes p (send.take byte)))) ∧
      (2 ≤ phase.toNat → send ≠ [] → endAttempt p phase byte stop s =
        ends ((s.emit (.twBytes p send)).emit (.twStart p a true))) ∧
      (2 ≤ phase.toNat → send = [] → n ≠ 0 → endAttempt p phase byte stop s = ends s)) ∧
    (∀ (c : BusClear) q js e, there → waits → x.jobs = .clear q :: js → s.hif.sq[q].exec = some e →
      c.sdaHigh = true → x.quar = false → ∃ u, Waits q true s u ∧
        exec (.twBusFree p c) s = .next (nextTwJob p (complete q 0 c.clocks.val
          (((u.upTwPort p fun x => { x with busy := false, clr := inc x.clr }).emit
            (.twClocks p c.clocks.val)).emit (.twStop p))))) ∧
    (∀ q a retry send n js, x.state = .controller → x.jobs = .xfer q a retry send n :: js →
      (∀ bit phase byte, bit.toNat ≤ 11 →
        let u := (endAttempt p phase byte.toNat false s).upTwPort p fun x => { x with
          lphase := phase, lbyte := byte, arbl := inc x.arbl, lbit := bit, jobLoss := bit }
        (x.retries < retry → exec (.twArbitrationLost p bit phase byte) s = .next (followTw p
          (u.upTwPort p fun x => { x with retries := x.retries + 1, state := .waitbus }))) ∧
        (retry ≤ x.retries → ∃ v, RaisedOnce (0x74 + p.val) 1 p.val u v ∧
          exec (.twArbitrationLost p bit phase byte) s = .next (failTwJob p 0x0109 v))) ∧
      (∀ bytes, bytes.length = n → ∀ e, s.hif.sq[q].exec = some e →
        ∃ u, EndsWith q 0 (send.length + n * 2 ^ 16 + x.jobLoss.toNat * 2 ^ 32 + x.retries * 2 ^ 36) bytes
            (endAttempt p (if n = 0 then 1 else 3) send.length true s) u ∧
          exec (.twTransferEnd p (.done bytes)) s = .next (nextTwJob p u)) ∧
      (∀ (phase : BitVec 2) (byte : BitVec 9),
        let u := (endAttempt p phase (byte.toNat + 1) true s).upTwPort p fun x =>
          { x with lphase := phase, lbyte := byte, nack := inc x.nack }
        (byte = 0 → x.retries < retry → exec (.twTransferEnd p (.addressNack phase)) s = .next (followTw p
          (u.upTwPort p fun x => { x with retries := x.retries + 1, state := .waitbus }))) ∧
        (byte = 0 → retry ≤ x.retries → ∃ v, RaisedOnce (0x74 + p.val) 2 p.val u v ∧
          exec (.twTransferEnd p (.addressNack phase)) s = .next (failTwJob p 0x010A v)) ∧
        ∃ v, RaisedOnce (0x74 + p.val) 2 p.val u v ∧
          exec (.twTransferEnd p (.dataNack phase byte)) s = .next (failTwJob p 0x010A v)) ∧
      (∀ phase byte, there → hasBit x.cfg 1 = false →
        ∃ t, exec (.twWaitLimit p phase byte) s = .next t ∧ timedOut phase byte t) ∧
      (∀ phase byte, hasBit x.cfg 1 = true →
        (there → exec (.twWaitLimit p phase byte) s = .next s) ∧
        ∃ t, exec (.twClockLowTimeout p (.controller phase byte)) s = .next t ∧ timedOut phase byte t)) ∧
    (∀ q a k send n js phase byte, there → waits → x.jobs = .xfer q a k send n :: js →
      ∃ t, exec (.twWaitLimit p phase byte) s = .next t ∧
        timedOut (if send = [] ∧ n ≠ 0 then 2 else 0) 0 t) ∧
    (∀ q a k send n js (c : BusClear) sda, there → waits → x.quar = false →
      x.jobs = .xfer q a k send n :: js → sda = false ∨ hasBit x.cfg 27 = false →
      ∃ v, RaisedOnce (0x74 + p.val) 4 p.val
          (s.upTwPort p fun x => { x with
            quar := true, lerr := 0x010B, state := .quarantine, lphase := first send n, lbyte := 0 }) v ∧
        exec (.twBusStuck p sda c) s = .next (followTw p (twRest p
          (endTwJobs p 0x010B (fun j => !j.isClear) v)))) ∧
    (∀ j js code, x.jobs = j :: js → failTwJob p code s = nextTwJob p (complete j.ring code 0
      (s.upTwPort p fun x => { x with lerr := BitVec.ofNat 16 code }))) ∧
    (hasBit x.cfg 0 = true → x.cfg = s.cfg.get (0x9010 + 4 * p.val) →
      x.taddr = (if p.val = 2 then 0 else BitVec.ofNat 7 (effAddr s.cfg s.tw.adsel p.val)) → nextTwJob p s = s.upTwPort p fun x =>
      { x with
        jobs := x.jobs.tail, retries := 0, jobLoss := 0xF
        state := if x.quar = true then .quarantine else if x.jobs.tail = [] then .idle else .waitbus })

/-- The target ports and what resets or wakes them (R400, R401, R452 to R455, R465, R470, R472). A write transaction
sets the pointer, and a whole word after it is written to its register with the pointer moving on within its 32 bytes;
a read of four bytes from a word's offset gives the word as sampled; an interrupted transaction and a clock-low
timeout keep what their whole bytes did and raise the port's event; a START of another controller to another device
makes the bus busy (R457). Port 2 is no target. A block reset clears the pointer and the sample, and on the
controllers ends the job in progress with 0x0108, with a reset pulse or the test of the lines; the phase and byte at
which it cuts an attempt off are a free value, since no command tells them (log 6). In sleep a match of TW0's address
makes a wake due: with the fabric ready in time TW0 answers before the image is loaded (R482), and else the miss is
kept; a match while the rails fall is kept for the sleep (R490). That the job in progress is the head of the queue,
waiting or not, and that a target port's reset clears its pointer and sample are the model's reading (log 31).
Completes: twTargetWrite, twTargetRead, twTargetInterrupted, twBlockReset, twResetPulseEnd, tw0WakeMatch. -/
def Obligations.TwTargetsAndResets : Prop :=
  (∀ (s : State) (p : Port) (m : Master), twMaster p = some m → twServes s p = true →
    let x := s.tw.ports[p]
    let within := s.upTwPort p fun x => { x with state := .target, busy := true }
    let back : State → State := fun u => followTw p
      (u.upTwPort p fun y => { y with state := if y.state = .target then x.state else y.state })
    let atPtr : State → BitVec 16 → State := fun u a => u.upTwPort p fun x => { x with ptr := a }
    (∀ hi lo, exec (.twTargetWrite p (.mine [hi, lo])) s = .next (back (atPtr within (hi ++ lo)))) ∧
    (∀ hi lo b0 b1 b2 b3, lo.toNat % 4 = 0 →
      let a := (hi ++ lo : BitVec 16).toNat
      exec (.twTargetWrite p (.mine [hi, lo, b0, b1, b2, b3])) s = .next (back (atPtr
        (writeReg m a (b3 ++ b2 ++ b1 ++ b0) (atPtr within (hi ++ lo)))
        (BitVec.ofNat 16 (a / 32 * 32 + (a + 4) % 32))))) ∧
    (x.ptr.toNat % 4 = 0 → ∃ u w,
      readReg m x.ptr.toNat within = (u, w) ∧
      exec (.twTargetRead p 4) s = .next (back ((u.upTwPort p fun y => { y with
          ptr := x.ptr + 4, sample := some { off := x.ptr.toNat, copy := w } }).emit
        (.twBytes p [w.extractLsb' 0 8, w.extractLsb' 8 8, w.extractLsb' 16 8, w.extractLsb' 24 8])))) ∧
    (∀ read bytes, ∃ t, exec (.twTargetInterrupted p read bytes) s = .next t ∧
      RaisedOnce (0x74 + p.val) 6 p.val (back (targetBytes p m read bytes within)) t) ∧
    (∀ read bytes, hasBit x.cfg 1 = true → ∃ t,
      exec (.twClockLowTimeout p (.target read bytes)) s = .next t ∧
      RaisedOnce (0x74 + p.val) 3 p.val (State.upTwPort p
        (fun x => { x with tmo := if x.tmo = 0xFF then x.tmo else x.tmo + 1 })
        (back (targetBytes p m read bytes within))) t)) ∧
  (∀ (s : State) (p : Port), (domOn s pdTw = true → s.tw.ports[p].state ≠ .off →
      exec (.twTargetWrite p .other) s = .next (s.upTwPort p fun x => { x with busy := true })) ∧
    (domOn s pdTw = false ∨ s.tw.ports[p].state = .off → exec (.twTargetWrite p .other) s = .next s)) ∧
  (∀ s bytes n, exec (.twTargetWrite 2 (.mine bytes)) s = .next s ∧ exec (.twTargetRead 2 n) s = .next s) ∧
  (∀ (s : State) (p : Port) (low : Bool) (c : BusClear),
    let x := s.tw.ports[p]
    let key := resetKey (srcId 0x9 0 p.val 0 0)
    let taken := { s with
      flt := { s.flt with brReq := s.flt.brReq.filter (· != key) }, fab := (restampAt (· == MarkerAt.tw) s).fab }
    let cleared := taken.upTwPort p fun x => { x with ptr := 0, sample := none }
    (key ∉ s.flt.brReq → exec (.twBlockReset p low c) s = .next s) ∧
    (key ∈ s.flt.brReq → x.state = .off ∨ p.val < 2 → exec (.twBlockReset p low c) s = .next cleared) ∧
    (key ∈ s.flt.brReq → x.state ≠ .off → 2 ≤ p.val → ∃ u,
      (x.jobs = [] → u = cleared) ∧
      (∀ j js, x.jobs = j :: js → ∃ v, u = ((complete j.ring 0x0108 0 v).upTwPort p fun x => { x with
          jobs := js, retries := 0, jobLoss := 0xF, lerr := 0x0108 }) ∧
        (x.state = .controller → ∃ phase byte, v = State.upTwPort p (fun x =>
          { x with lphase := phase, lbyte := byte }) { cleared with freeCount := s.freeCount + 1 }) ∧
        (x.state ≠ .controller → ∀ q a k send n, j = .xfer q a k send n → v = cleared.upTwPort p fun x =>
          { x with lphase := if send = [] ∧ n ≠ 0 then 2 else 0, lbyte := 0 }) ∧
        (x.state ≠ .controller → ∀ q, j = .clear q → v = cleared)) ∧
      (hasBit x.cfg 31 = true → exec (.twBlockReset p low c) s = .next
        (u.upTwPort p fun x => { x with pulse := true, state := .reset })) ∧
      (hasBit x.cfg 31 = false → exec (.twBlockReset p low c) s = .next (testLines p low c u))) ∧
    (x.pulse = false → exec (.twResetPulseEnd p low c) s = .next s) ∧
    (x.pulse = true → exec (.twResetPulseEnd p low c) s = .next (testLines p low c
      (s.upTwPort p fun x => { x with pulse := false })))) ∧
  ∀ (s : State) (addr : BitVec 7) (inTime : Bool),
    let mine : Prop := s.tw.aoEn = true ∧ addr = s.tw.aoAddr
    let after := { s with pwr := { s.pwr with
      phase := .waking, on := putBit (putBit s.pwr.on pdFab true) pdTw true, wakeDue := true } }
    (¬ mine ∨ (s.pwr.phase = .asleep ∧ hasBit s.pwr.wake 3 = false) →
      exec (.tw0WakeMatch addr inTime) s = .next s) ∧
    (mine → s.pwr.phase = .asleep → hasBit s.pwr.wake 3 = true →
      (inTime = false → exec (.tw0WakeMatch addr inTime) s = .next { s with
        pwr := { s.pwr with wakeDue := true }, tw := { s.tw with wakeMissed := true } }) ∧
      (inTime = true → s.tmr.mirror = none → exec (.tw0WakeMatch addr inTime) s = .next (followTw 0
        { after with tmr := { s.tmr with mirror := some s.tmr.now, gap := 0 } })) ∧
      ∀ m, inTime = true → s.tmr.mirror = some m →
        let now := m + BitVec.ofNat 63 ((s.tmr.gap + 1) * 15625 / 8)
        exec (.tw0WakeMatch addr inTime) s = .next (followTw 0 { after with
          clk := { s.clk with rc := nextEdge s.clk.rc }
          tmr := { s.tmr with now := now, coarse := true, mirror := some now, gap := 0 } })) ∧
    (mine → s.pwr.phase ≠ .asleep → exec (.tw0WakeMatch addr inTime) s = .next { s with pwr := { s.pwr with
      sleep := s.pwr.sleep.map fun j => if hasBit j.wake 3 = true then { j with kept := true } else j } })

/-! ## The rings and the host interface -/

/-- RING_SET (R370) from SQ0. STOP of a ring that is disabled ends at once; of one with a descriptor in execution the
ring stops and waits for it; START of a ring that is enabled ends with 0x0105, and one that would change a completion
ring in use with 0x0103; otherwise the ring starts anew, and so does a completion ring that is not in use. From any
other ring both end with 0x0105. A START with a field out of its range ends with 0x0102 as it enters execution (R364),
before these checks. That a base of 0 is such a field, and that STOP ends when the ring reads DISABLED, are the
model's reading (log 35). Completes: ringSetStop, ringSetStart. -/
def Obligations.RingControl : Prop :=
  ∀ (s : State) (q : Ring) (d : Desc), ready s q 0x70 = some d →
    let r : Ring := Fin.ofNat 16 (d.pf 0 4)
    let c : Ring := Fin.ofNat 16 (d.pf 16 4)
    let used : Prop := c = 0 ∨ ∃ k : Ring, k ≠ r ∧ s.hif.sq[k].state ≠ .disabled ∧ s.hif.sq[k].cq = c
    let same : Prop := s.hif.cq[c].state ≠ .disabled ∧ cqFields d s.hif.cq[c] = s.hif.cq[c]
    let good : Prop := 4 ≤ d.pf 8 4 ∧ d.pf 8 4 ≤ 12 ∧ 4 ≤ d.pf 12 4 ∧ d.pf 12 4 ≤ 12 ∧ 1 ≤ d.pf 20 4 ∧
      1 ≤ d.pf 24 5 ∧ 1 ≤ d.pf 32 8
    (d.pf 4 1 = 0 → ∃ t, exec (.ringSetStop q) s = .next t ∧
      (q ≠ 0 → Ends q 0x0105 0 s t) ∧ (q = 0 → s.hif.sq[r].state = .disabled → Ends q 0 0 s t) ∧
      (q = 0 → s.hif.sq[r].state ≠ .disabled → s.hif.sq[r].exec ≠ none →
        ∃ u, Waits q true s u ∧ t = u.upSq r fun x => { x with stopping := true, en := false })) ∧
    (∀ x : Sq, d.opcode = 0x70 → d.pf 4 1 = 1 → d.pf 0 4 = 0 ∨ ¬ good → entryCheck x d = some 0x0102) ∧
    (d.pf 4 1 = 1 → ∃ t, exec (.ringSetStart q) s = .next t ∧
      (q ≠ 0 → Ends q 0x0105 0 s t) ∧
      (q = 0 →
        (s.hif.sq[r].state ≠ .disabled → Ends q 0x0105 0 s t) ∧
        (s.hif.sq[r].state = .disabled → used → ¬ same → Ends q 0x0103 0 s t) ∧
        (s.hif.sq[r].state = .disabled → ¬ used ∨ same → ∃ u, t = complete q 0 0 u ∧
          u = { s with hif := { s.hif with sq := u.hif.sq, cq := u.hif.cq } } ∧
          (∀ k : Ring, k ≠ r → u.hif.sq[k] = s.hif.sq[k]) ∧
          (∀ k : Ring, k ≠ c ∨ used → u.hif.cq[k] = s.hif.cq[k]) ∧
          (¬ used → u.hif.cq[c] = { cqFields d s.hif.cq[c] with
            en := true, state := .run, head := 0, tail := 0, p := true, sinceMsg := 0 }) ∧
          (let y := u.hif.sq[r]
           y.state = .run ∧ y.en = true ∧ y.base = d.data ∧ y.size.toNat = d.pf 8 4 ∧ y.cq = c ∧
            y.weight.toNat = d.pf 20 4 ∧ y.head = 0 ∧ y.tail = 0 ∧ y.hist = [] ∧ y.fetched = [] ∧
            y.stopping = false ∧ y.exec = s.hif.sq[r].exec))))

/-- Entries and completions (R353, R356 to R361, R363, R365, R371). Fetched entries join their ring, at most four
ahead, and descriptors enter execution; a completion that waits is posted to its ring unless that is full: its 16
bytes go to the tail with P, its descriptor's host data before them, the tail moves on and P turns over at the wrap,
the head of the submission ring moves on, and its message follows the aggregation; the timeout of the aggregation
sends a message where entries wait; a doorbell read gives every enabled ring its tail and head where they are in
range, when it is due: asked for, or POLL µs after the last; a kick starts a doorbell read or asks for one further.
Completes: descriptorFetch, completionPost, cqCoalescingTimeout, doorbellPoll, kickWrite. -/
def Obligations.RingTraffic : Prop :=
  ∀ s : State, s.hif.recovering = false →
    let runs : Prop := domOn s pdFab = true ∧ domOn s pdHif = true
    (∀ q entries, ∃ u t, exec (.descriptorFetch q entries) s = .next t ∧ Entered u t ∧
      let x := s.hif.sq[q]
      let room := min (4 - x.fetched.length) (x.submitted - x.fetchedN)
      u = { s with hif := { s.hif with sq := u.hif.sq } } ∧
      (∀ k : Ring, k ≠ q → u.hif.sq[k] = s.hif.sq[k]) ∧
      (runs → canIssue s = true → x.state = .run → x.stopping = false → entries.length ≤ room →
        u.hif.sq[q].fetched.map (·.desc) = x.fetched.map (·.desc) ++ entries.map parseDesc ∧
          u.hif.sq[q].fetchedN = x.fetchedN + entries.length) ∧
      (¬ runs ∨ canIssue s = false ∨ x.state ≠ .run ∨ x.stopping = true → u = s)) ∧
    (∀ c x rest, runs → canIssue s = true → s.hif.cq[c].state = .run → s.hif.cq[c].held = x :: rest →
      let k := s.hif.cq[c]
      let n := 2 ^ k.size.toNat
      ((k.tail.toNat + 1) % n % 4096 ≠ k.head.toNat → ∃ u t,
        exec (.completionPost c) s = .next t ∧ Entered (afterPost x.sq u) t ∧
        u.hif.cq[c].held = rest ∧ u.hif.cq[c].tail.toNat = (k.tail.toNat + 1) % n % 4096 ∧
        u.hif.cq[c].p = (if u.hif.cq[c].tail = 0 then !k.p else k.p) ∧
        (∀ j : Ring, j ≠ c → u.hif.cq[j] = s.hif.cq[j]) ∧
        (∃ h, Out.hostWrite (k.base + BitVec.ofNat 64 (16 * k.tail.toNat)) (completionBytes x h k.p) ∈ u.out) ∧
        (∀ a, x.dataAt = some a → x.data ≠ [] → Out.hostWrite a x.data ∈ u.out) ∧
        (x.ofDesc = true → s.hif.sq[x.sq].state ≠ .disabled →
          u.hif.sq[x.sq].head = nextIdx s.hif.sq[x.sq].size s.hif.sq[x.sq].head ∧
            u.hif.sq[x.sq].lastTag = x.tag) ∧
        (k.ien = true → k.intn = false → k.agg.toNat ≤ k.sinceMsg + 1 → u.hif.cq[c].sinceMsg = 0 ∧
          (vecOpen s (Fin.ofNat 32 k.vec.toNat) = true → Out.msix (Fin.ofNat 32 k.vec.toNat) ∈ u.out)) ∧
        (k.ien = true → k.intn = false → k.sinceMsg + 1 < k.agg.toNat →
          u.hif.cq[c].sinceMsg = k.sinceMsg + 1 ∧
            u.hif.cq[c].firstAt = if k.sinceMsg = 0 then s.clk.slot else k.firstAt)) ∧
      ((k.tail.toNat + 1) % n % 4096 = k.head.toNat → exec (.completionPost c) s = .next s)) ∧
    (∀ c, runs → canIssue s = true →
      let k := s.hif.cq[c]
      let v : Fin 32 := Fin.ofNat 32 k.vec.toNat
      let due : Prop := k.state = .run ∧ k.ien = true ∧ k.intn = false ∧ k.agt ≠ 0 ∧ k.sinceMsg ≠ 0 ∧
        k.firstAt + 256 * k.agt.toNat ≤ s.clk.slot
      (due → exec (.cqCoalescingTimeout c) s = .next
        (let u := s.upCq c fun k => { k with sinceMsg := 0 }
         if vecOpen s v = true then u.emit (.msix v)
         else u.upHif fun h => { h with pba := putBit h.pba v.val true })) ∧
      (¬ due → exec (.cqCoalescingTimeout c) s = .next s)) ∧
    (let asked : Prop := s.hif.dbInFlight = true ∨ s.hif.pollAt + 256 * s.hif.poll.toNat ≤ s.clk.slot
     (∀ page, ¬ asked → exec (.doorbellPoll page) s = .next s) ∧
     ∀ page, runs → canIssue s = true → (∃ q : Ring, s.hif.sq[q].state ≠ .disabled) → asked →
      (∀ q : Ring, s.hif.sq[q].state ≠ .disabled → (page.getD q.val 0).toNat < 2 ^ s.hif.sq[q].size.toNat) →
      (∀ q : Ring, s.hif.cq[q].state ≠ .disabled →
        (page.getD (16 + q.val) 0).toNat < 2 ^ s.hif.cq[q].size.toNat) →
      ∃ u t, exec (.doorbellPoll page) s = .next t ∧ Entered u t ∧
        (∀ q : Ring,
          let x := s.hif.sq[q]
          let n := 2 ^ x.size.toNat
          let w := (page.getD q.val 0).toNat
          (x.state ≠ .disabled → x.stopping = false → u.hif.sq[q].tail = BitVec.ofNat 12 w ∧
            (w < 4096 → u.hif.sq[q].submitted = x.submitted + (w + n - x.tail.toNat) % n)) ∧
          (x.state = .disabled ∨ x.stopping = true →
            u.hif.sq[q].tail = x.tail ∧ u.hif.sq[q].submitted = x.submitted) ∧
          u.hif.sq[q].fetched = x.fetched ∧ u.hif.sq[q].exec = x.exec ∧
          u.hif.cq[q] = if s.hif.cq[q].state = .disabled then s.hif.cq[q] else
            { s.hif.cq[q] with head := BitVec.ofNat 12 (page.getD (16 + q.val) 0).toNat }) ∧
        u.hif.dbAgain = false ∧ u.hif.dbInFlight = s.hif.dbAgain ∧ u.hif.pollAt = s.clk.slot ∧
        (s.hif.dbAgain = true → u.out = .doorbellRead :: s.out)) ∧
    (∀ off v, 0x800 ≤ off → exec (.kickWrite off v) s = .next s) ∧
    (∀ off v, off < 0x800 → runs → canIssue s = true → (∃ q : Ring, s.hif.sq[q].state ≠ .disabled) →
      exec (.kickWrite off v) s = .next (if s.hif.dbInFlight = true then
          { s with hif := { s.hif with dbAgain := true } }
        else { s with hif := { s.hif with dbInFlight := true }, out := .doorbellRead :: s.out }))

/-- Failures and the reset of the host interface (R374 to R378, R381). A failed fetch stops its ring and posts a
completion with the entry's address; the failed read of a descriptor's buffer ends it with 0x0117, a failed write of
its data turns the completion that waits into one with 0x0117, and a failed completion write stops the completion
ring, and a failed doorbell read ends it: event 0x6A each. The block reset counts itself with its cause, brings the
enabled rings to RECOVER, and ends what is in execution and has not acted with 0x0108; what has acted runs on, and
once nothing is in execution the reset flushes what is fetched, in ring order behind what is held, writes the shadow
words of the enabled rings, brings the rings back to RUN, asks for a read of the doorbell page and raises event 0x6C
(R376). A reset during a reset merges into it. The loss of a link that was up and PERSTN raise event 0x68, and so does
an uncorrectable error of the link; that its first-error pointer and header log take values which the command does not
tell is the model's choice (log 6). That the count is taken at the reset, that a merged reset shows its own cause, and
that the link is down after a hot reset, a loss of link and PERSTN are the model's reading (log 37). Completes:
hostMemoryAccessFailed, hifBlockReset, pcieUncorrectableError. -/
def Obligations.HostInterfaceFailures : Prop :=
  ∀ s : State, domOn s pdFab = true → domOn s pdHif = true →
    (canIssue s = true → ∀ q : Ring,
      let x := s.hif.sq[q]
      let held : Nat → Completion → State → State → Prop := fun status c u t => ∃ y : Completion,
        y = { c with status := BitVec.ofNat 16 status, sq := q } ∧
        t = u.upCq x.cq fun k => { k with held := k.held ++ [y] }
      (x.state = .run → x.submitted ≠ x.fetchedN → ∃ u v t,
        exec (.hostMemoryAccessFailed (.fetch q)) s = .next t ∧ Raised 0x6A s u ∧
        held 0x0117 { result := entryAddr x.base 64 (fetchIdx x), tag := 0xFFFF, status := 0, sq := q
                      ofDesc := false, dataAt := none, data := [] } u v ∧
        t = v.upSq q fun x => { x with state := .stopped }) ∧
      (∀ e, x.exec = some e → e.decided = false → e.desc.len ≠ 0 → e.desc.opcode ≠ 0x50 →
        e.desc.opcode ≠ 0x52 → ∃ u, Raised 0x6A s u ∧
          exec (.hostMemoryAccessFailed (.dataRead q)) s = .next (complete q 0x0117 0 u)) ∧
      (∀ y, (s.hif.cq[x.cq].held.find? fun y => y.sq == q && y.dataAt.isSome) = some y → ∃ u t,
        exec (.hostMemoryAccessFailed (.dataWrite q)) s = .next t ∧ Raised 0x6A s u ∧
        t = u.upCq x.cq fun k => { k with held := k.held.map fun z =>
          if z = y then { y with status := 0x0117, result := 0, dataAt := none, data := [] } else z }) ∧
      (s.hif.cq[q].state = .run → s.hif.cq[q].held ≠ [] →
        (s.hif.cq[q].tail.toNat + 1) % 2 ^ s.hif.cq[q].size.toNat % 4096 ≠ s.hif.cq[q].head.toNat → ∃ u, Raised 0x6A s u ∧
        exec (.hostMemoryAccessFailed (.completion q)) s = .next
          (u.upCq q fun k => { k with state := .stopped })) ∧
      (∃ u, Raised 0x6A s u ∧ exec (.hostMemoryAccessFailed (.shadow q)) s = .next u) ∧
      ∃ u, Raised 0x6A s u ∧ exec (.hostMemoryAccessFailed (.cqShadow q)) s = .next u) ∧
    (canIssue s = true → (∃ q : Ring, s.hif.sq[q].state ≠ .disabled) → s.hif.recovering = false →
      s.hif.dbInFlight = true ∨ s.hif.pollAt + 256 * s.hif.poll.toNat ≤ s.clk.slot →
      ∃ u, Raised 0x6A s u ∧ exec (.hostMemoryAccessFailed .doorbell) s = .next (doorbellEnds u)) ∧
    (∀ cause : HifCause,
      (cause = .faultReaction → (0, 0, 0) ∈ s.flt.brReq) →
      let code := match cause with
        | .faultReaction => 1 | .flr => 2 | .hotReset => 3 | .linkDown => 3 | .perstn => 4
      ∃ b v, exec (.hifBlockReset cause) s =
          .next (ringsResume (if v.hif.recovering = true then v else hifReset v)) ∧
        b = { s with
          flt := { s.flt with brReq := s.flt.brReq.filter (· != (0, 0, 0)) }
          hif := { b.hif with lcause := BitVec.ofNat 4 code } } ∧
        (cause = .faultReaction → b.hif = { s.hif with lcause := 1 }) ∧
        (cause ≠ .faultReaction →
          { b.hif with up := s.hif.up, speed := s.hif.speed, lcause := s.hif.lcause } =
            { s.hif with bme := false, d3 := false, msixEn := false, funcMask := false, pba := 0
                         msixTable := Vector.replicate 32 #v[0, 0, 0, 1], aer := none }) ∧
        (cause = .linkDown ∨ cause = .hotReset ∨ cause = .perstn → b.hif.up = false ∧ b.hif.speed = 0) ∧
        (cause = .flr → b.hif.up = s.hif.up ∧ b.hif.speed = s.hif.speed) ∧
        (cause = .linkDown ∧ s.hif.up = true ∨ cause = .perstn → Raised 0x68 b v) ∧
        (¬ (cause = .linkDown ∧ s.hif.up = true ∨ cause = .perstn) → v = b)) ∧
    (let w := hifReset s
     w.hif.recovering = true ∧ w.hif.rcnt = s.hif.rcnt + 1 ∧ w.hif.dbInFlight = false ∧ w.hif.dbAgain = false ∧
      w.flt = s.flt ∧ ∀ q : Ring,
        w.hif.sq[q].state = (if s.hif.sq[q].state = .disabled then .disabled else .recover) ∧
        w.hif.sq[q].fetched = s.hif.sq[q].fetched ∧
        (∀ e, s.hif.sq[q].exec = some e → e.acted = false → w.hif.sq[q].exec = none) ∧
        (∀ e, s.hif.sq[q].exec = some e → e.acted = true → w.hif.sq[q].exec = some e)) ∧
    (s.hif.recovering = false ∨ (∃ q : Ring, s.hif.sq[q].exec ≠ none) → ringsResume s = s) ∧
    (s.hif.recovering = true → (∀ q : Ring, s.hif.sq[q].exec = none) → ∃ w t, ringsResume s = t ∧
      t = raise 0x6C (srcId 0x0 0x1 0 0 s.hif.lcause.toNat) 0 w ∧ Raised 0x6C w t ∧
      w.hif.recovering = false ∧ w.hif.rcnt = s.hif.rcnt ∧ w.hif.lcause = s.hif.lcause ∧
      (∀ q : Ring, w.hif.sq[q].fetched = [] ∧ w.hif.sq[q].exec = none ∧ w.hif.sq[q].state ≠ .stopped ∧
        w.hif.sq[q].state ≠ .recover ∧ w.hif.cq[q].state ≠ .stopped) ∧
      (let flushed : Ring → List (Ring × BitVec 16 × BitVec 16) := fun c =>
         (fins 16).flatMap fun q => if s.hif.sq[q].cq = c then
           s.hif.sq[q].fetched.map fun f => (q, f.desc.tag, 0x0108) else []
       let none_ : Prop := ∀ c : Ring, s.hif.cq[c].held = [] ∧ flushed c = []
       (canIssue s = false → w.out = s.out ∧ ∀ c : Ring,
         w.hif.cq[c].held.take s.hif.cq[c].held.length = s.hif.cq[c].held ∧
         (w.hif.cq[c].held.drop s.hif.cq[c].held.length).map (fun y => (y.sq, y.tag, y.status)) =
           flushed c) ∧
       (canIssue s = false ∨ none_ → w.flt = s.flt ∧ ∀ c : Ring, w.hif.cq[c].sinceMsg = 0) ∧
       (canIssue s = true → none_ → ∀ q : Ring,
         (s.hif.sq[q].state ≠ .disabled → Out.hostWrite (s.hif.shAddr + BitVec.ofNat 64 (4 * q.val))
           (leBytes 4 (s.hif.sq[q].head.toNat + s.hif.sq[q].lastTag.toNat * 65536)) ∈ w.out) ∧
         (s.hif.cq[q].state ≠ .disabled → Out.hostWrite (s.hif.shAddr + BitVec.ofNat 64 (64 + 4 * q.val))
           (leBytes 4 (s.hif.cq[q].tail.toNat + if s.hif.cq[q].p = true then 4096 else 0)) ∈ w.out) ∧
         (s.hif.sq[q].state ≠ .disabled → s.hif.sq[q].stopping = false → w.hif.dbInFlight = true)))) ∧
    ((0, 0, 0) ∉ s.flt.brReq → exec (.hifBlockReset .faultReaction) s = .next s) ∧
    ∃ v t, exec .pcieUncorrectableError s = .next t ∧ Raised 0x68 v t ∧
      (s.hif.aer ≠ none → v = s) ∧
      (s.hif.aer = none → let f := fun k => Config.freeValue (s.freeCount + k)
        v = { s with
          freeCount := s.freeCount + 5
          hif := { s.hif with aer := some ((f 0).setWidth 5, #v[f 1, f 2, f 3, f 4]) } })

/-- Writes to the RING block (R355, R385, R386) and to the PCI Express space (R350, R351, R354). POLL outside 1 to 64
is rejected with 0x0102; the page and ring bases are frozen with 0x0105 while a ring uses them, and their low bits
must be 0. SQCFG with EN 1 enables a disabled ring over an enabled completion ring, with its size, weight and tag
history new, and with EN 0 changes a ring that is disabled and stops one that is not; that a ring which stops takes
the CQ and SIZE written once it reads DISABLED is the model's choice (log 71). CQCFG with EN 1 enables a disabled ring
with the fields written, head and tail 0 and P 1, and with EN 0 disables one that no submission ring uses. Fields out
of range are rejected with 0x0102, with EN 0 too. A change of the configuration space or the MSI-X table sends the
messages whose vectors it opens, what waited for requests to be possible enters execution, and the loss of a link that
was up raises event 0x68. That a vector that is masked or disabled keeps its message pending is the model's reading
(log 35). Completes: ringRegisterWrite, pcieConfigurationWrite, msixTableWrite. -/
def Obligations.HostInterfaceWrites : Prop :=
  (∀ (m : Master) (s : State) (v : Word), WritesPass m s → s.regs.lock = false →
    let any : Prop := ∃ q : Ring, s.hif.sq[q].state ≠ .disabled
    let gives : Nat → State → Prop := fun off u =>
      ∃ t, exec (.ringRegisterWrite m off v) s = .next t ∧ Entered u t
    let rejects : Nat → Nat → Prop := fun off code => ∃ u, Rejected m off code s u ∧ gives off u
    (v.toNat < 128 → 1 ≤ v.toNat → v.toNat ≤ 64 →
      gives 0xE000 { s with hif := { s.hif with poll := BitVec.ofNat 7 v.toNat } }) ∧
    (v.toNat < 128 → v.toNat = 0 ∨ 64 < v.toNat → rejects 0xE000 0x0102) ∧
    (any → rejects 0xE008 0x0105 ∧ rejects 0xE014 0x0105) ∧
    (¬ any → (v.toNat % 256 ≠ 0 → rejects 0xE008 0x0102) ∧
      (v.toNat % 256 = 0 → gives 0xE008 { s with hif := { s.hif with
        dbAddr := s.hif.dbAddr.extractLsb' 32 32 ++ v } }) ∧
      gives 0xE014 { s with hif := { s.hif with shAddr := v ++ s.hif.shAddr.extractLsb' 0 32 } }) ∧
    ∀ q : Ring,
      let x := s.hif.sq[q]
      let k := s.hif.cq[q]
      let c : Ring := Fin.ofNat 16 (bitsOf v 4 4)
      let sqcfg := 0xE108 + 16 * q.val
      let cqcfg := 0xE208 + 16 * q.val
      (x.state ≠ .disabled → rejects (0xE100 + 16 * q.val) 0x0105) ∧
      (x.state = .disabled → v.toNat % 4096 ≠ 0 → rejects (0xE100 + 16 * q.val) 0x0102) ∧
      (x.state = .disabled → v.toNat % 4096 = 0 → gives (0xE100 + 16 * q.val)
        (s.upSq q fun x => { x with base := x.base.extractLsb' 32 32 ++ v })) ∧
      (v.toNat < 2 ^ 13 →
        let weight : BitVec 4 := BitVec.ofNat 4 (bitsOf v 8 4)
        let size : BitVec 4 := BitVec.ofNat 4 (bitsOf v 0 4)
        let good : Prop := 4 ≤ bitsOf v 0 4 ∧ bitsOf v 0 4 ≤ 12 ∧ bitsOf v 8 4 ≠ 0
        (x.state ≠ .disabled → hasBit v 12 = true → rejects sqcfg 0x0105) ∧
        (x.state ≠ .disabled → hasBit v 12 = false → ¬ good → rejects sqcfg 0x0102) ∧
        (x.state ≠ .disabled → hasBit v 12 = false → good → x.exec ≠ none →
          gives sqcfg (s.upSq q fun x => { x with
            stopping := true, en := false, weight := weight, next := some (c, size) })) ∧
        (x.state ≠ .disabled → hasBit v 12 = false → good → x.exec = none → x.posting = false →
          x.fetched = [] → (∀ e, s.hif.sq[(0 : Ring)].exec = some e → e.desc.opcode ≠ 0x70) →
          gives sqcfg (s.upSq q fun x => { x with
            state := .disabled, en := false, stopping := false, head := 0, tail := 0, shown := []
            fetchedN := x.submitted, doneN := x.submitted, fenceWait := false
            weight := weight, cq := c, size := size, next := none })) ∧
        (x.state = .disabled → hasBit v 12 = true → s.hif.cq[c].state = .disabled → rejects sqcfg 0x0103) ∧
        (x.state = .disabled → hasBit v 12 = false ∨ s.hif.cq[c].state ≠ .disabled → ¬ good →
          rejects sqcfg 0x0102) ∧
        (x.state = .disabled → hasBit v 12 = false → good → gives sqcfg (s.upSq q fun x => { x with
          weight := weight, cq := c, size := size })) ∧
        (x.state = .disabled → hasBit v 12 = true → s.hif.cq[c].state ≠ .disabled → good →
          gives sqcfg (s.upSq q fun x => { x with
            weight := weight, cq := c, size := size, en := true, state := .run, stopping := false
            head := 0, tail := 0, fetchedN := x.submitted, doneN := x.submitted, shown := [], fetched := []
            hist := [], posting := false, fenceWait := false, credit := bitsOf v 8 4 }))) ∧
      (v.toNat < 2 ^ 28 →
        let written : Cq → Cq := fun k => { k with
          agt := BitVec.ofNat 8 (bitsOf v 20 8), agg := BitVec.ofNat 8 (bitsOf v 12 8)
          intn := hasBit v 10, ien := hasBit v 9, vec := BitVec.ofNat 5 (bitsOf v 4 5)
          size := BitVec.ofNat 4 (bitsOf v 0 4) }
        let good : Prop := 4 ≤ bitsOf v 0 4 ∧ bitsOf v 0 4 ≤ 12 ∧ bitsOf v 4 5 ≠ 0 ∧ bitsOf v 12 8 ≠ 0
        let busy : Prop := ∃ j : Ring, s.hif.sq[j].state ≠ .disabled ∧ s.hif.sq[j].cq = q
        (k.state ≠ .disabled → hasBit v 11 = true ∨ busy → rejects cqcfg 0x0105) ∧
        (k.state ≠ .disabled → hasBit v 11 = false → ¬ busy → ¬ good → rejects cqcfg 0x0102) ∧
        (k.state ≠ .disabled → hasBit v 11 = false → ¬ busy → good →
          gives cqcfg (s.upCq q fun k => { written k with en := false, state := .disabled })) ∧
        (k.state = .disabled → ¬ good → rejects cqcfg 0x0102) ∧
        (k.state = .disabled → good → hasBit v 11 = false → gives cqcfg (s.upCq q written)) ∧
        (k.state = .disabled → good → hasBit v 11 = true → gives cqcfg (s.upCq q fun k => { written k with
          en := true, state := .run, head := 0, tail := 0, p := true, sinceMsg := 0 })))) ∧
  ∀ (s : State) (w : CfgWrite) (vec : Fin 32) (dw : Fin 4) (v : Word), domOn s pdHif = true →
    let sent : State → State → Prop := fun u t =>
      t = { u with hif := { u.hif with pba := t.hif.pba }, out := t.out } ∧
        ∀ n : Fin 32, (hasBit t.hif.pba n.val = true ↔ hasBit u.hif.pba n.val = true ∧
            ¬ (vecOpen u n = true ∧ canIssue u = true)) ∧
          (hasBit u.hif.pba n.val = true → vecOpen u n = true → canIssue u = true → Out.msix n ∈ t.out)
    (∃ b u v t, exec (.pcieConfigurationWrite w) s = .next t ∧ sent u v ∧ Entered v t ∧
      (w = .link 0 ∧ s.hif.up = true → Raised 0x68 b u) ∧ (¬ (w = .link 0 ∧ s.hif.up = true) → u = b) ∧
      b = { s with hif :=
        match w with
        | .busMaster on => { s.hif with bme := on }
        | .msixEnable on => { s.hif with msixEn := on }
        | .functionMask on => { s.hif with funcMask := on }
        | .powerState d3 => { s.hif with d3 := d3 }
        | .link speed => { s.hif with speed := speed, up := decide (speed ≠ 0) } }) ∧
    ∃ t, exec (.msixTableWrite vec dw v) s = .next t ∧ sent { s with hif := { s.hif with
      msixTable := vmod s.hif.msixTable vec fun e => vput e dw v } } t

/-! ## Markers -/

/-- MARKER (R16, R22 to R26, R113, R114, R117, R323, R393, R394). The next marker for a place is one that has been
issued and that the place is still to take. The array takes it from its BSTAMP on; a rail that consumes samples takes
it from its BSTAMP on, while its pair is not in recovery and no younger record sampled before BSTAMP can still come
(R23). The next one is the oldest issued that the place has not taken (R25). One that arrives in order is applied: the
place takes its tag, the rail exchanges its banks or tables, a block's words become live; a marker that has reached
all its targets leaves the stream, and the last of a descriptor ends it with the low 32 bits of BSTAMP as its RESULT.
One that was held through a reset takes the present slot as its boundary first. A packet lost on its way leaves the
marker with its place still to miss it; a repeated one ends the descriptor behind the earlier packet with 0x0108, and
each packet that the check refuses raises the block's event, a packet of a kind that no block takes too (R15; log 46).
When a marker has come to a place that consumes no samples is the model's reading (log 33), and so is the boundary of
one held through the reset of such a place (log 48). Completes: marker. -/
def Obligations.MarkerApplied : Prop :=
  ∀ (s : State) (place : MarkerAt) (unit : Fin 16),
    let run := fun hdr : Option Word => exec (.marker place ⟨unit, hdr⟩) s
    (domOn s pdFab = false → ∀ hdr, run hdr = .next s) ∧
    (domOn s pdFab = true →
      (nextMarker s place = none → run none = .next s) ∧
      (∀ w : Word, hdrKind w = 1 →
        let h := hear place 1 anyLen w s
        (h.2 = .inOrder ∨ (∃ k, h.2 = .missing k) → nextMarker s place = none → run (some w) = .next s) ∧
        (h.2 = .refused → ∃ r : Rail, run (some w) = .next (raiseFabric place r unit h.1)) ∧
        (h.2 = .repeated → ∃ r : Rail,
          let u := raiseFabric place r unit h.1
          ((∀ e ∈ s.fab.heard, ¬ (e.at_ = place ∧ e.src = hdrSrc w ∧ e.seq = hdrSeq w)) →
            run (some w) = .next u) ∧
          (∀ e q, s.fab.heard = [e] → e.at_ = place → e.src = hdrSrc w → e.seq = hdrSeq w →
            e.origin = .desc q → ∃ v t, run (some w) = .next t ∧ t.fab.heard = [] ∧ t = { v with fab := t.fab } ∧
              v = complete q 0x0108 0 (dropWork q u) ∧
              (∀ k, v.adc.cal = some k → k.ring ≠ q) ∧ (∀ x ∈ v.nvm.queue, x.ring ≠ some q) ∧
              q ∉ v.pwr.startHeld ∧ (∀ j, v.pwr.sleep = some j → j.ring ≠ q) ∧
              (∀ (r : Rail) a, v.eng.rails[r].assign = some a → a.ring ≠ some q) ∧
              (∀ (p : Port), ∀ j ∈ v.tw.ports[p].jobs, j.ring ≠ q) ∧
              (u.hif.sq[q].exec ≠ none → (∀ k, u.adc.cal = some k → k.ring ≠ q) →
                (∀ k, u.adc.ptest = some k → k.ring ≠ q) → (∀ r : Rail, u.pwm.rails[r].admission = none) →
                Ends q 0x0108 0 (dropWork q u) v)))) ∧
      (∀ (w : Word) (k : Nat), hdrKind w = k → k ≠ 1 →
        let h := hear place k anyLen w s
        (k = 2 ∨ k = 3 ∨ k = 4 ∨ k = 6 ∨ k = 7 → h.2 = .inOrder → run (some w) = .next h.1) ∧
        (k = 2 ∨ k = 3 ∨ k = 4 ∨ k = 6 ∨ k = 7 → h.2 = .refused →
          ∃ r : Rail, run (some w) = .next (raiseFabric place r unit s)) ∧
        (¬ (k = 2 ∨ k = 3 ∨ k = 4 ∨ k = 6 ∨ k = 7) →
          ∃ r : Rail, run (some w) = .next (raiseFabric place r unit s))) ∧
      (∀ m, nextMarker s place = some m →
        m ∈ s.fab.markers ∧ place ∈ m.targets ∧
        (∃ b, m.bstamp = some b ∧ (place = .adc ∨ place = .engine → b ≤ s.clk.slot) ∧
          (place = .ldg → domOn s pdGau = true → b ≤ s.clk.slot) ∧
          ∀ r, place = .rail r →
            s.eng.pairs[markerPair s r m].recov = false ∧
            (s.eng.rails[r].mode = .digital ∨ s.eng.rails[r].mode = .track → b ≤ s.clk.slot ∧
              ∀ e ∈ s.eng.sched, reqRail s.cfg e.req = r → e.stamp < b → e.stamp + maxAge s.cfg < s.clk.slot)) ∧
        (∃ a c, s.fab.markers = a ++ m :: c ∧ (∀ e ∈ a, e.bstamp = none ∨ place ∉ e.targets) ∧
          (∃ t, run none = .next t ∧
            t = { s with fab := { s.fab with
              markers := (a ++ { m with
                targets := m.targets.filter fun k => k != place &&
                  !(k == .pwm && (place == .engine || (fins 8).any fun r => place == .rail r))
                lost := m.lost ++ [place] } :: c).filter
                  fun x => !(x.targets.isEmpty && x.lost.isEmpty) } }) ∧
          ∀ w : Word, hdrKind w = 1 → (hear place 1 anyLen w s).2 = .inOrder →
            let h := (hear place 1 anyLen w s).1
            let b := if place ∈ m.restamp then s.clk.slot else m.bstamp.getD 0
            let n : Marker := { m with
              bstamp := some b, restamp := m.restamp.filter (· != place)
              targets := m.targets.filter (· != place) }
            ∃ u v, run (some w) = .next (issueMarkers v) ∧
            ((∃ k, m.changes = [k] ∧ (k = .swapBanks ∨ k = .swapTables ∨ ∃ ws, k = .words .nvm ws)) →
              (place ∉ m.restamp ∨ { n with targets := m.targets } ∉ a →
                u.fab.markers = (a ++ n :: c).filter fun x => !(x.targets.isEmpty && x.lost.isEmpty)) ∧
              u.fab.seqErr = s.fab.seqErr) ∧
            (∀ q, m.origin = .desc q → (∃ x ∈ u.fab.markers, x.origin = m.origin) → v = u) ∧
            (∀ q, m.origin = .desc q → (∀ x ∈ u.fab.markers, x.origin ≠ m.origin) →
              v = complete q 0 (markerResult n)
                { u with fab := { u.fab with heard := u.fab.heard.filter fun e => e.origin != m.origin } }) ∧
            ((∀ q, m.origin ≠ .desc q) → v = u) ∧
            ((∀ k o g, m.changes ≠ [.calibrate k o g]) → markerResult n = b % 2 ^ 32) ∧
            (∀ r, place = .rail r → m.changes = [.swapBanks] → u = { h with
              fab := u.fab
              eng := { s.eng with
                ltag := m.tag
                rails := vmod s.eng.rails r fun e => { e with bank := !e.bank, ovf := false } } }) ∧
            (∀ r, place = .rail r → m.changes = [.swapTables] → u = { h with
              fab := u.fab
              eng := { s.eng with
                ltag := m.tag, rails := vmod s.eng.rails r fun e => { e with table := !e.table } } }) ∧
            (∀ ws, place = .nvm → m.changes = [.words .nvm ws] → u = { h with
              fab := u.fab, nvm := { s.nvm with ltag := m.tag }
              regs := { s.regs with live := setWords s.regs.live ws } }) ∧
            (∀ map mask, place = .adc → m.changes = [.slotMap map mask] →
              u.adc.ltag = m.tag ∧ u.regs = s.regs ∧ u.eng = s.eng ∧ u.pwm = s.pwm ∧
              ∀ x p, s.adc.tour = some x → x.claimed = some p →
                u.adc.slotmap = vput s.adc.slotmap p map[p]))))

/-! ## Clocks, monitors and the test access port -/

/-- The reference and the PLL (R27 to R30, R216, R221). A loss of XREF starts the hold and is counted; the hold's end
moves the PLL to the RC fallback and a return moves it back, with event 0x7C each; a loss of lock raises event 0x7C
and passes every rail to its heel loop for cause 4, in rail order; a relock is kept. None of these happens while
PD_FAB is off. Completes: xrefLoss, pllHoldExpiry, xrefReturn, pllLockLoss, pllRelock.

The supply and thermal monitors (R31, R33, R128, R216, R224, R496, R519) raise event 0x7D, at most once per 1 ms for
each cause and unit, but for causes 1 and 6, which the transitions of W74 and W75 raise. A domain whose supply is lost
is marked so and loses what it holds: PD_HIF its rings, PD_PWM, PD_CMP, PD_SEQ and PD_NVM the state of their blocks
(the NV array and what lies in PD_AO stay), PD_ENGA and PD_ENGB their lane pairs but for FAILED, and PD_ENGA the
checkpoints; the slices of PD_ADC0 and PD_ADC1 are off; with PD_FAB the time-stamp stops, and what its register file
holds beyond the live sets is lost (log 64). What each block loses, and that its descriptors end with 0x0108, are the
model's reading (log 34). The test access port (R507, R508; log 42, the model's reading) takes IDCODE and SAMPLE
always, EXTEST, CLAMP and HIGHZ only where TMODE was high at POR, and BYPASS for every other code; TRST brings IDCODE
back. A scan under SAMPLE or EXTEST shifts out the levels at the balls and leaves what it shifted in; that the
boundary-scan register has 90 cells is the model's choice (log 70). Completes: supTherm, testAccessPortInstruction. -/
def Obligations.ClocksMonitorsTap : Prop :=
  (∀ s : State,
     (domOn s pdFab = false → exec .xrefLoss s = .next s ∧ exec .pllHoldExpiry s = .next s ∧
       exec .xrefReturn s = .next s ∧ exec .pllLockLoss s = .next s ∧ exec .pllRelock s = .next s) ∧
     (domOn s pdFab = true →
       (s.clk.xrefOk = true → exec .xrefLoss s = .next { s with clk := { s.clk with
         xrefOk := false, lossc := s.clk.lossc + 1
         refsel := if s.clk.refsel = 0 then 1 else s.clk.refsel } }) ∧
       (s.clk.refsel = 1 → ∃ t, exec .pllHoldExpiry s = .next t ∧
         Raised 0x7C { s with clk := { s.clk with refsel := 2 } } t) ∧
       (s.clk.refsel ≠ 1 → exec .pllHoldExpiry s = .next s) ∧
       (s.clk.refsel ≠ 0 → ∃ t, exec .xrefReturn s = .next t ∧
         Raised 0x7C { s with clk := { s.clk with refsel := 0, xrefOk := true } } t) ∧
       (s.clk.refsel = 0 → exec .xrefReturn s = .next s) ∧
       (s.clk.lock = true → ∃ u, Raised 0x7C { s with clk := { s.clk with lock := false } } u ∧
         exec .pllLockLoss s = .next (State.each (fins 8) (fun r => passToHeel r 4) u)) ∧
       (s.clk.lock = false → exec .pllLockLoss s = .next s) ∧
       exec .pllRelock s = .next { s with clk := { s.clk with lock := true } })) ∧
  (∀ s : State,
     (∀ cause dom, domOn s pdFab = false → exec (.supTherm cause dom) s = .next s) ∧
     (∀ (cause : Fin 8) (dom : Fin 14), domOn s pdFab = true →
       (cause.val = 0 ∨ cause.val = 5 → exec (.supTherm cause dom) s = .next s) ∧
       (cause.val < 7 → cause.val ≠ 0 → cause.val ≠ 5 → ∃ t, exec (.supTherm cause dom) s = .next t ∧
         RaisedOnce 0x7D (cause.val + 1) cause.val s t) ∧
       (cause.val = 7 → domOn s dom.val = false → exec (.supTherm cause dom) s = .next s) ∧
       (cause.val = 7 → domOn s dom.val = true → ∃ u t, exec (.supTherm cause dom) s = .next t ∧
         RaisedOnce 0x7D 8 dom.val s u ∧
         let l := { u with pwr := { u.pwr with lost := putBit u.pwr.lost dom.val true } }
         (dom.val = 0 → t = { l with
           cmp := { u.cmp with aoLow := Cmp.reset.aoLow, aoHigh := Cmp.reset.aoHigh, aoCfg := Cmp.reset.aoCfg }
           flt := { u.flt with classA := false, rstc := 0 }
           tmr := { u.tmr with mirror := none, gap := 0 }
           pwr := { l.pwr with wake := 0, alarm := 0, wakeDue := false } }) ∧
         (dom.val = 1 → t = { l with hif := Hif.reset }) ∧
         (dom.val = 2 → hasBit t.pwr.lost 2 = true ∧ t.fab = Fab.reset ∧
           t.tmr = { Tmr.reset with mirror := u.tmr.mirror, gap := u.tmr.gap } ∧
           t.clk = { u.clk with refsel := 0, lock := false, xrefOk := false, lossc := 0 } ∧
           t.regs = { Regs.reset with live := u.regs.live, acc := u.regs.live }) ∧
         (dom.val = 3 → hasBit t.pwr.lost 3 = true ∧
           (∀ p : PairNo, p.val < 2 → t.eng.pairs[p] = { Pair.reset with failed := u.eng.pairs[p].failed }) ∧
           ∀ r : Rail, t.eng.rails[r].ckA = none ∧ t.eng.rails[r].ckB = none) ∧
         (dom.val = 4 → hasBit t.pwr.lost 4 = true ∧
           ∀ p : PairNo, 2 ≤ p.val → t.eng.pairs[p] = { Pair.reset with failed := u.eng.pairs[p].failed }) ∧
         (dom.val = 5 → hasBit t.pwr.lost 5 = true ∧ t.pwm = Pwm.reset ∧ t.regs = u.regs ∧
           ∀ r : Rail, let f := u.fb[r]
             t.fb[r] = { FbRail.reset with
               adj := f.adj, adjAt := f.adjAt, remote := f.remote, local_ := f.local_, lfsr := f.lfsr, d := f.d
               heads := f.heads, recent := f.recent, disagree := f.disagree, stale := f.stale
               freshRun := f.freshRun, ovp := f.ovp, testAt := f.testAt }) ∧
         (dom.val = 6 ∨ dom.val = 7 → hasBit t.pwr.lost dom.val = true ∧
           ∀ n : SliceNo, (if n.val < 9 then 6 else 7) = dom.val → t.adc.slices[n].state = .off) ∧
         (dom.val = 8 → hasBit t.pwr.lost 8 = true ∧ t.cmp = { Cmp.reset with
           aoLow := u.cmp.aoLow, aoHigh := u.cmp.aoHigh, aoCfg := u.cmp.aoCfg }) ∧
         (dom.val = 9 → hasBit t.pwr.lost 9 = true ∧
           t.nvm = { Nvm.reset with mem := u.nvm.mem, dead := u.nvm.dead, refuse := u.nvm.refuse }) ∧
         (dom.val = 10 ∨ dom.val = 11 ∨ dom.val = 12 → t = loseDomain dom.val l) ∧
         (dom.val = 13 → hasBit t.pwr.lost 13 = true ∧ t.seq = { Seq.reset with en := u.seq.en }))) ∧
     (∀ code : BitVec 5,
       let ir : BitVec 5 := if code = 1 ∨ code = 2 then code
         else if (code = 0 ∨ code = 4 ∨ code = 5) ∧ s.pwr.tmode = true then code else 31
       exec (.testAccessPortInstruction (.instruction code)) s = .next { s with
         tap := { s.tap with ir := ir }
         out := if ir = 1 then .tapData idcode :: s.out else s.out }) ∧
     exec (.testAccessPortInstruction .trst) s = .next { s with tap := { s.tap with ir := 1 } } ∧
     ∀ levels shifted : BitVec 90,
       (s.tap.ir = 2 ∨ s.tap.ir = 0 → exec (.testAccessPortInstruction (.scan levels shifted)) s = .next { s with
         tap := { s.tap with cells := shifted }, out := .tapScan levels :: s.out }) ∧
       (s.tap.ir = 1 → exec (.testAccessPortInstruction (.scan levels shifted)) s =
         .next { s with out := .tapData idcode :: s.out }) ∧
       (s.tap.ir ≠ 0 → s.tap.ir ≠ 1 → s.tap.ir ≠ 2 →
         exec (.testAccessPortInstruction (.scan levels shifted)) s = .next s))

/-! ## Resets, the start and sleep -/

/-- The resets and the start (R328, R450, R479 to R483, R486, R494, R508). The VCC33_AO POR resets everything
but the NV array, the VCC33 POR the switched part, the class A latch and the controller's refusal too; of the page
operation that either cuts off, the words that had begun are written and no later ones (R428), and how many they are is
a free value (log 68). A supply at its reset level holds the switched domains in reset, and its return starts the part.
The release of POR samples ADSEL and, with TMODE high, stays at step 1 for good; it waits there for VDDA18 and VDD08,
and a start that leaves step 1 has found every supply good (R494, R495; log 69). A chip reset that is due, once every
used rail is down, writes the log out and starts the part, and the quarantine of a port that it ends is reported with
event 0x74 and the port (R469). Completes: vcc33AoPor, vcc33Por, supplyResetLevel, porRelease, supplyReturn,
chipReset. -/
def Obligations.ResetsAndStarts : Prop :=
  ∀ s : State,
    let words := nextWords s
    let k := (Config.freeValue s.freeCount).toNat % (words.length + 1)
    let cut : State := if nvOpen s = true ∧ words ≠ [] then { s with
        freeCount := s.freeCount + 1
        nvm := (words.take k).foldl (fun (m : Nvm) w => m.put w.1 w.2) s.nvm } else s
    exec .vcc33AoPor s = .next { State.reset with
      pending := s.pending, freeCount := cut.freeCount, out := s.out
      nvm := { Nvm.reset with mem := cut.nvm.mem, dead := cut.nvm.dead }
      seq := { Seq.reset with en := s.seq.en } } ∧
    (∃ u t, exec .vcc33Por s = .next t ∧ HeldOff .por cut u ∧
      t = { u with
        flt := Flt.reset, nvm := { u.nvm with refuse := false }, tap := State.reset.tap
        tw := { u.tw with quarWas := 0 }
        pwr := { u.pwr with
          tmode := false, wake := 0, alarm := 0, wakeDue := false, uvloGood := false, porWaits := false } }) ∧
    (let low := { s with pwr := { s.pwr with coreGood := false } }
     (s.pwr.phase = .por → exec .supplyResetLevel s = .next low) ∧
     (s.pwr.phase ≠ .por → ∃ t, exec .supplyResetLevel s = .next t ∧ HeldOff .supplyReset low t ∧
       t.pwr.wakeDue = false)) ∧
    (∀ seen ecc, s.pwr.phase ≠ .por ∨ s.pwr.tmode = true → exec (.porRelease seen ecc) s = .next s) ∧
    (∀ (seen : StartSeen) ecc, s.pwr.phase = .por → s.pwr.tmode = false →
      let u := { s with tw := { s.tw with adsel := seen.adsel } }
      (seen.tmode = true →
        exec (.porRelease seen ecc) s = .next { u with pwr := { u.pwr with tmode := true } }) ∧
      (seen.tmode = false → s.pwr.coreGood = false → exec (.porRelease seen ecc) s = .next { u with
        pwr := { u.pwr with phase := .supplyReset, porWaits := true } }) ∧
      (seen.tmode = false → s.pwr.coreGood = true → ∃ t, exec (.porRelease seen ecc) s = .next t ∧
        Started seen.xref u t ∧ t.tw.adsel = seen.adsel ∧ t.pwr.uvloGood = true ∧ t.pwr.porWaits = false)) ∧
    (∀ seen ecc, s.pwr.phase ≠ .supplyReset →
      exec (.supplyReturn seen ecc) s = .next { s with pwr := { s.pwr with coreGood := true } }) ∧
    (∀ (seen : StartSeen) ecc, s.pwr.phase = .supplyReset →
      ∃ t, exec (.supplyReturn seen ecc) s = .next t ∧ Started seen.xref s t ∧ t.pwr.coreGood = true ∧
        t.pwr.porWaits = false ∧ (s.pwr.porWaits = true → t.pwr.uvloGood = true)) ∧
    ∀ (seen : StartSeen) ecc,
      let due : Prop := domOn s pdFab = true ∧ (s.pwr.resetDue = true ∨ s.seq.sysrst = true) ∧
        ∀ i : SeqIdx, s.cfg.use i.val = true → isDown (s.seq.rails[i].state) = true
      (¬ due → exec (.chipReset seen ecc) s = .next s) ∧
      (due → ∃ l u t : State, exec (.chipReset seen ecc) s = .next t ∧ Started seen.xref u t ∧
        HeldOff .supplyReset l u ∧
        l = { s with flt := l.flt, nvm := { s.nvm with mem := l.nvm.mem, dead := l.nvm.dead } } ∧
        (domOn s pdNvm = true → s.flt.queue.length ≤ 32 → l.flt.queue = []) ∧
        ∀ n : Port, s.tw.ports[n].quar = true → hasBit t.flt.pend (0x74 + n.val) = true)

/-- The self-test and start-complete (R47, R329, R335, R338, R396, R484 to R486). The self-test's outcome makes
failed pairs FAILED and gives every powered slice its absolute calibration or marks it failed; the start then
halts where it must, and otherwise waits. Once no group retries and every used rail is where it should be,
the start is complete: the part runs, RSTC and the start's escalation mode end, and AUTOLOCK locks the
set-up. Completes: selfTestDone, startComplete. -/
def Obligations.SelfTestAndStartComplete : Prop :=
  ∀ s : State,
    (∀ t, s.pwr.phase ≠ .selfTest → exec (.selfTestDone t) s = .next s) ∧
    (∀ x : SelfTest, s.pwr.phase = .selfTest → ∃ u, exec (.selfTestDone x) s =
        .next (if startHalts u then { u with pwr := { u.pwr with
            phase := .halted, haltA := haltsByA u, haltR := haltsByRstc u } } else beginWait u) ∧
      u.regs = s.regs ∧ u.clk = s.clk ∧
      (∀ p : PairNo, hasBit x.pairFail p.val = true → domOn s (pairDom p) = true →
        u.eng.pairs[p].failed = true) ∧
      (∀ p : PairNo, hasBit x.pairFail p.val = false → u.eng.pairs[p] = s.eng.pairs[p]) ∧
      ∀ n : SliceNo, domOn s (if n.val < 9 then 6 else 7) = true →
        let a := u.adc.slices[n]
        match (x.cals[n.val]?).bind (absResult s.adc.ccal[(0x63 : Fin 104)]) with
        | some r => (a.state = .service ∨ a.state = .steep) ∧ a.ofs = r.1 ∧ a.gain = r.2 ∧ a.calOk = true
        | none => a.state = .failed) ∧
    (let done : Prop := s.pwr.phase = .sequencing ∧
      (∀ j : Group, ¬ (s.seq.groups[j].req = true ∧ s.seq.groups[j].retrying = true)) ∧
      ∀ i : SeqIdx, s.cfg.use i.val = true → railSettled s i = true
     (¬ done → exec .startComplete s = .next s) ∧
     (done → ∃ t, exec .startComplete s = .next t ∧
      t = { s with
        pwr := { s.pwr with phase := .run }
        flt := { s.flt with starting := false, rstc := 0, escStart := t.flt.escStart }
        regs := { s.regs with
          lock := s.regs.lock || s.regs.autolock
          shadow := if s.regs.autolock = true ∧ s.regs.lock = false then s.regs.live else s.regs.shadow } } ∧
      (s.cfg.testCfg = false → s.flt.test = false → s.flt.recov = false → t.flt.escStart = none)))

/-- Sleep and wake (R487, R488, R490, R491). SLEEP without a wake source ends with 0x0102, with sources that
do not fit their set-up with 0x0103, and while another runs with 0x0104; accepted, it requests every group
off, keeps its sources and no longer acts on EN. SLEEP_TIMEOUT with a rail still up ends it with 0x010C.
Once every used rail is down the part goes to sleep with those sources armed, its ring's DESCRIPTOR ended, and
PD_AO alone on, at an edge of its clock, where it takes the time-stamp (R481). A wake source that is armed and whose
condition holds starts the part, one by TW0 with PD_TW on; where TW0 has begun the wake already the start goes on from
there with the time-stamp running (R482); while the rails still fall a condition of WAKEN and PERSTN is kept.
Completes: sleep, sleepTimeout, sleepEntry, wake. -/
def Obligations.SleepAndWake : Prop :=
  ∀ s : State,
    (∀ q d, ready s q 0x02 = some d → ∃ t, exec (.sleep q) s = .next t ∧
      let wake := d.pf 0 5
      let alarm := d.pf 32 32
      let fits : Prop := (wake % 2 = 1 ↔ alarm ≠ 0) ∧
        (wake / 2 % 2 = 1 → ∃ k : Fin 3, s.cfg.aoEn k.val = true ∧ s.cfg.aoWake k.val ≠ 0) ∧
        (wake / 8 % 2 = 1 → s.cfg.twEn 0 = true)
      (wake = 0 → Ends q 0x0102 0 s t) ∧ (wake ≠ 0 → ¬ fits → Ends q 0x0103 0 s t) ∧
      (wake ≠ 0 → fits → s.pwr.sleep ≠ none → Ends q 0x0104 0 s t) ∧
      (wake ≠ 0 → fits → s.pwr.sleep = none → ∃ u v, t = seqRest v ∧
        u = { s with seq := { s.seq with groups := u.seq.groups, rails := u.seq.rails } } ∧
        (∀ j : Group, u.seq.groups[j].req = false) ∧
        ∃ w, Waits q true u w ∧ v = { w with pwr := { s.pwr with
          enIgnored := true
          sleep := some { ring := q, wake := BitVec.ofNat 5 wake, alarm := BitVec.ofNat 32 alarm
                          kept := false } } })) ∧
    (s.pwr.sleep = none → exec .sleepTimeout s = .next s ∧ exec .sleepEntry s = .next s) ∧
    (∀ j, s.pwr.sleep = some j →
      let down : Prop := ∀ i : SeqIdx, s.cfg.use i.val = true → isDown (s.seq.rails[i].state) = true
      (down → exec .sleepTimeout s = .next s) ∧
      (¬ down → exec .sleepTimeout s =
        .next (complete j.ring 0x010C 0 { s with pwr := { s.pwr with sleep := none } })) ∧
      (¬ down ∨ domOn s pdHif = false → exec .sleepEntry s = .next s) ∧
      (down → domOn s pdHif = true → ∃ l t : State, exec .sleepEntry s = .next t ∧
        (domOn s 0 = true → domOn s pdFab = true → l.tmr = { s.tmr with
          now := l.tmr.now, mirror := some l.tmr.now, gap := 0 } ∧
          l.tmr.now = s.tmr.now + BitVec.ofNat 63 (stampTicks (nextEdge s.clk.rc - s.clk.rc) s)) ∧
        l.clk.rc = nextEdge s.clk.rc ∧ l.tap = s.tap ∧ l.seq.en = s.seq.en ∧ l.pwr.on = s.pwr.on ∧
        l.pwr.lost = s.pwr.lost ∧ l.pwr.tmode = s.pwr.tmode ∧ l.hif.sq[j.ring].exec = none ∧
        HeldOff .asleep { l with pwr := { l.pwr with wake := j.wake, alarm := j.alarm } } t ∧
        t.pwr.wakeDue = j.kept)) ∧
    (∀ src (seen : StartSeen) ecc, s.pwr.phase = .asleep → s.tw.wakeMissed = false →
      let armed := hasBit s.pwr.wake (wakeBit src)
      let met : Prop := s.pwr.wakeDue = true ∨ src = .waken ∨ src = .perstn ∨
        (src = .alarm ∧ s.pwr.alarm.toNat ≤ s.tmr.gap)
      let b := if src = .tw0 then { s with pwr := { s.pwr with on := putBit s.pwr.on pdTw true } } else s
      (armed = true → met → ∃ t, exec (.wake src seen ecc) s = .next t ∧ Started seen.xref b t) ∧
      (armed = false ∨ ¬ met → exec (.wake src seen ecc) s = .next s)) ∧
    (∀ (src : WakeSource) (seen : StartSeen) ecc, s.pwr.phase = .waking →
      (src ≠ .tw0 → exec (.wake src seen ecc) s = .next s) ∧
      (src = .tw0 → ∃ t, exec (.wake src seen ecc) s = .next t ∧ t.pwr.phase = .selfTest ∧ t.pwr.wake = 0 ∧
        t.pwr.wakeDue = false ∧ t.pwr.on = startDomains t.cfg ||| s.pwr.on ∧ t.tmr = s.tmr ∧
        t.clk = { s.clk with lock := true, xrefOk := seen.xref, refsel := if seen.xref then 0 else 2 })) ∧
    (∀ (src : WakeSource) seen ecc, s.pwr.phase ≠ .asleep → s.pwr.phase ≠ .waking →
      (src = .waken ∨ src = .perstn → exec (.wake src seen ecc) s = .next (s.upPwr fun p =>
        { p with sleep := p.sleep.map fun j => { j with kept := j.kept || hasBit j.wake (wakeBit src) } })) ∧
      (src ≠ .waken → src ≠ .perstn → exec (.wake src seen ecc) s = .next s))

/-! ## What a set-up must be -/

/-- What the check of a bank and the check of each block's set-up test, row by row, and with which code each answers
(R58, R94, R111, R146, R206, R248, R277, R279, R319, R349, R446, R478). A check reads the set over the sets in force of
the other blocks, so that each rule that several blocks share is tested in each of their checks. That 0x0102 comes
before 0x0103 and that before the rest, where a set breaks several rules, is the model's choice (log 12). The sums of
the loop lane and of the lane pairs are exact; a set-up with a PERIOD of 0, which no accepted plan has, is left out for
them. -/
def Obligations.SetupChecks : Prop :=
  (∀ b : Vector Word 32,
    let level := fun (w : Word) => w.toInt
    Tests [(b[17].extractLsb' 16 16 = 0 ∧ b[29].extractLsb' 16 16 = 0 ∧ b[31] = 0, 0x0102),
      (level b[14] < level b[13] ∧ 0 ≤ level b[28] ∧ level b[28] < level b[27] ∧ level b[27] ≤ 0x7F000000 ∧
        0 ≤ level b[15] ∧ (0 < level b[15] → 0 < level b[16] ∧ level b[16] < level b[15] ∧
          b[17].extractLsb' 0 8 ≠ 0 ∧ b[17].extractLsb' 8 8 ≠ 0) ∧
        0 ≤ level b[21] ∧ 0 ≤ level b[23] ∧ 0 ≤ level b[26] ∧ b[22].extractLsb' 16 16 ≠ 0 ∧
        (b[22].extractLsb' 16 16).toNat ≤ (b[22].extractLsb' 0 16).toNat, 0x0103)] (bankCheck b)) ∧
  ∀ (s : State) (g : Setup),
    let old := s.accSetup
    let used : SeqIdx → Prop := fun i => g.use i.val = true
    let within : Nat → Nat → Nat → Prop := fun lo hi x => lo ≤ x ∧ x ≤ hi
    let levels : Prop := ∀ r < 8, ∀ x, x = g.hlo r ∨ x = g.hhi r ∨ x = g.plim r → x + 10 ≤ 2 * g.tband r
    let windows : Prop := ∀ r < 8, ∀ w, w = 48 + r ∨ w = 56 + r →
      g.thrLo w ≤ 2 * g.tband r ∧ g.thrHi w ≤ 2 * g.tband r ∧ g.hlo r < g.thrLo w ∧ g.hhi r < g.thrHi w
    let phases : Prop := ∀ h < 48, g.role h ≠ 0 → g.lmode h = true
    let active : Nat → Nat := fun r =>
      ((fins 48).filter fun h => g.role h.val == 1 && g.phRail h.val == r).length
    let served : Prop := ∀ i, used i → i.val < 8 → g.engEn i.val = true ∧ active i.val ≠ 0
    let steps : Prop := (∀ r < 8, g.vmax r * (1000 + g.mhi r) ≤ 65535 * 1000) ∧ ∀ i, used i → i.val < 8 →
      g.vboot i.val * 65536 / (if g.rampu i.val = true then g.ramp i.val * 8000 else g.ramp i.val * 8) ≤
        160 * 65536
    let absolute : Prop := ∀ r < 8, g.oven r = true →
      g.vmax r * (1000 + g.mhi r) * (1000 + g.tband r) ≤ 1000000 * g.vabs r
    let input : Prop := g.pfen = true → g.thrLo 72 ≠ 0
    let regular : Nat → Prop := fun c => ∃ n ≤ g.regLen, g.regChan n = c
    let energy : Prop := (g.pfen = true → regular 0x58 ∧ regular 0x59) ∧
      (g.ns ≠ 0 → regular 0x5A ∧ regular 0x5B ∧ regular 0x5C) ∧ (g.pfen = true ∨ g.ns ≠ 0 → g.pace ≤ 100)
    let outputs : Prop := (∀ p, p = 2 ∨ p = 3 → g.rsten p = true → g.xmode (8 + g.rstx p) = true) ∧
      ¬ (g.rsten 2 = true ∧ g.rsten 3 = true ∧ g.rstx 2 = g.rstx 3)
    let lane : Prop := (∀ r < 8, planned g r ≠ [] ↔ g.llen r = true) ∧
      (g.lpm = true → ∀ r < 8, g.errpp r ≠ 3)
    let load : Rat := ((List.range 8).map fun r => if g.llen r = true then
      (2048 * (2 ^ g.errpp r + g.curpp r * (planned g r).length) : Nat) / (g.period r : Rat) else 0).sum
    let budget : Prop := load ≤ if g.lpm = true then 48 else 192
    let engine : Prop := ∀ p < 4,
      let mine := (List.range 8).filter fun r => g.engEn r && g.pair r == p
      let cycles : Rat := (mine.map fun r => 2000000 + if g.llen r = true then
        (2048000000 * (16 * 2 ^ g.errpp r + 4 * g.curpp r * (planned g r).length) : Nat) / (g.period r : Rat)
        else 0).sum
      let instants := (mine.filter g.llen).flatMap fun r => (List.range (2 ^ g.errpp r)).map fun k =>
        ((8 * (g.rofs r + g.errpos r) + k * (2048 / 2 ^ g.errpp r)) % 2048, g.period r)
      cycles ≤ 448000000 ∧
      (∀ a ∈ mine, ∀ b ∈ mine, g.llen a = true → g.llen b = true →
        g.period a = g.period b ∧ g.errpp a = g.errpp b) ∧
      instants.Pairwise fun a b => ∀ d, d = (a.1 + 2048 - b.1) % 2048 ∨ d = 2048 - (a.1 + 2048 - b.1) % 2048 →
        64 * 2048 ≤ d * a.2
    (let place := fun p => if g.str p = true then g.ta p / 4 * 4 + s.tw.adsel.toNat else g.ta p
     Tests [((∀ p < 4, g.twSpeed p ≠ 3 ∧ g.tout p ≤ 5 ∧ g.stuckt p ≠ 0 ∧ g.hangto p ≠ 0 ∧ g.rstw p ≠ 0) ∧
         g.rsten 0 = false ∧ g.rsten 1 = false ∧ ∀ p, p = 0 ∨ p = 1 ∨ p = 3 → within 0x08 0x77 (place p), 0x0102),
       ((∀ p q, p = 0 ∨ p = 1 ∨ p = 3 → q = 0 ∨ q = 1 ∨ q = 3 → p ≠ q → g.twEn p = true → g.twEn q = true →
           place p ≠ place q) ∧
         (∀ p, p = 2 ∨ p = 3 → g.twEn p = true → g.stuckt p < g.hangto p) ∧ outputs, 0x0103),
       (domOn s pdTw = true ∨ ∀ p < 4, g.twEn p = false, 0x0105)] (checkBlk s .tw g)) ∧
    Tests [(within 10 60000 g.scrInterval ∧ g.scrBatch ≠ 0, 0x0102)] (checkBlk s .nvm g) ∧
    Tests [(within 1 1000 g.escwin ∧ (∀ e < 128, reservedEvent e = true →
          g.get (0xC200 + 4 * e) = 0 ∧ g.masked e = false) ∧
          ∀ e < 128, reservedEvent e = false → g.rxVec e ≠ 0, 0x0102),
      ((∀ e < 128, g.rxBrst e = true → brstAllowed e = true) ∧ absolute, 0x0103)] (checkBlk s .flt g) ∧
    Tests [(within 4 1000 g.proofper ∧ (∀ w < 76, 48 ≤ w → g.lmode w = false) ∧
        ∀ w < 64, 48 ≤ w → g.thrLo w ≠ 0 ∧ g.thrHi w ≠ 0, 0x0102),
      ((∀ w < 76, 64 ≤ w → g.thrLo w + 2 * g.thrHys w < g.thrHi w) ∧
        (∀ k < 3, g.aoEn k = true → g.aoLo k + 2 * g.aoHys k < g.aoHi k) ∧ phases ∧ windows ∧ input,
        0x0103)] (checkBlk s .cmp g) ∧
    Tests [((∀ p < 4, within 1 50 (g.fnom p)) ∧ ∀ r < 8, within 5 100 (g.tband r), 0x0102),
      ((∀ r : Rail, let v := within (g.vmin r) (g.vmax r)
          g.vmin r ≤ g.vmax r ∧ v (g.vboot r) ∧ v (g.vsafe r) ∧
          (g.ownen r = true → g.portEn (g.owner r) = true ∧ Nat.testBit (g.portRails (g.owner r)) r = true) ∧
          (s.eng.rails[r].enabled = true → v s.prn.rails[r].tgt.toNat)) ∧
        levels ∧ windows ∧ steps ∧ absolute, 0x0103)] (checkBlk s .prn g) ∧
    Tests [(within 500 1000 g.pkeff ∧ g.env ≠ 0 ∧ (g.ns = 0 ∨ within 4 16 g.ns) ∧ within 1 50 g.rate ∧
        g.dislim ≠ 0 ∧ g.nrh ≠ 0 ∧ g.rest ≠ 0 ∧ within 100 60000 g.tstep, 0x0102),
      (g.cv2 < g.cv1 ∧ g.vhmin < g.cv2 ∧ input ∧ energy ∧ (g.ns ≠ 0 →
        g.qnom ≠ 0 ∧ g.kpv ≠ 0 ∧ g.kpi ≠ 0 ∧ g.vcut < g.vfull ∧ g.spt 0 = 0 ∧ g.spt 31 = 10000 ∧
        (∀ k < 31, g.spt k < g.spt (k + 1)) ∧ (∀ n < 3, g.tpt n < g.tpt (n + 1)) ∧
        (∀ t < 4, ∀ k < 31, g.ocv (32 * t + k) ≤ g.ocv (32 * t + k + 1)) ∧
        ((∀ n < 15, g.ttabValue n < g.ttabValue (n + 1)) ∨
          ∀ n < 15, g.ttabValue (n + 1) < g.ttabValue n)), 0x0103),
      (s.ldg.src = .input ∨ (old.ns = g.ns ∧ ∀ off, off = 0xB104 ∨ off = 0xB120 ∨
        (∃ k < 16, off = 0xB140 + 4 * k ∨ off = 0xB300 + 4 * k) ∨ (∃ k < 64, off = 0xB400 + 4 * k) →
        old.get off = g.get off), 0x0105)] (checkBlk s .ldg g) ∧
    (Tests [(within 1 100 g.retq ∧ g.rxto ≠ 0 ∧
        (∀ i < 16, g.mhi i ≤ 100 ∧ g.mlo i ≤ 100 ∧ (8 ≤ i → g.mhi i = 0 ∧ g.mlo i = 0) ∧
          (g.xmode i = true → 8 ≤ i ∧ g.use i = false)) ∧
        ∀ i, used i → (i.val < 8 → g.ramp i.val ≠ 0) ∧ g.pgto i.val ≠ 0, 0x0102),
      ((∀ i, used i → onCycle g i = false ∧ ∀ p ∈ g.deps i.val, p ≠ i.val ∧ g.use p = true) ∧
        (∀ p, used p → ∀ d ∈ dependants g p, groupOf g d = groupOf g p →
          g.ordmode (groupOf g p).val = true → g.offpos d.val < g.offpos p.val) ∧
        served ∧ steps ∧ outputs ∧ absolute, 0x0103),
      (∀ i, railState s i ≠ .off →
        (∀ k < 5, old.get (0x7100 + 0x20 * i.val + 4 * k) = g.get (0x7100 + 0x20 * i.val + 4 * k)) ∧
        old.enpin (groupOf old i).val = g.enpin (groupOf old i).val ∧
        ∀ k : SeqIdx, old.use k.val = true ∨ g.use k.val = true →
          (groupOf old k = groupOf old i ↔ groupOf g k = groupOf old i), 0x0105)] (checkBlk s .seq g) ∧
      ∀ i j, used i → used j → j.val ∈ g.deps i.val → i.val ∈ g.deps j.val → onCycle g i = true) ∧
    ((∀ r < 8, g.period r ≠ 0) →
      Tests [(within 8 1000 g.rotper ∧ g.trigWin ≤ 79 ∧ (∀ r < 8, g.curpp r ≠ 3) ∧
          (∀ n < 32, g.regChan n ≤ 0x67) ∧ ∀ n < 8, g.injChan n ≤ 0x67, 0x0102),
        (lane ∧ (∀ c < 104, g.rangeLo c ≤ g.rangeHi c) ∧ energy, 0x0103), (budget, 0x010D), (engine, 0x0112)]
        (checkBlk s .adc g) ∧
      (let banks : Prop := ∀ r : Rail, g.engEn r = true → bankCheck s.eng.rails[r].active = none
       let ranges : Prop := g.mmlim ≠ 0 ∧ g.fcmiss ≠ 0 ∧ ∀ r < 8, 110 ≤ g.vbmin r
       (ranges → ¬ banks → ∃ r : Rail, g.engEn r = true ∧ bankCheck s.eng.rails[r].active ≠ none ∧
         checkBlk s .eng g = bankCheck s.eng.rails[r].active) ∧
       (ranges → banks → Tests [(served, 0x0103),
         (∀ r < 8, g.engEn r = true → domOn s (if g.pair r < 2 then pdEngA else pdEngB) = true, 0x0105),
         (engine, 0x0112)] (checkBlk s .eng g)) ∧
       (¬ ranges → checkBlk s .eng g = some 0x0102))) ∧
    Tests [((∀ h < 48, g.role h ≠ 3) ∧ ∀ r < 8,
        g.pwmMode r ≠ 3 ∧ within 512 8192 (g.period r) ∧ g.angrate r ≠ 0 ∧ 8 ≤ g.tonmin r ∧
        g.rktrip r ≤ g.rkwin r ∧ g.rktrip r ≠ 0 ∧ g.shdwell r ≠ 0 ∧ g.iavgx r ≤ 8 ∧ g.plcnt r ≠ 0 ∧
        g.lossdec r ≠ 0 ∧ g.hton r ≠ 0 ∧ g.hblank r ≠ 0 ∧ g.hoff r ≠ 0 ∧ within 1 200 (g.hlo r) ∧
        within 1 200 (g.hhi r) ∧ g.blind r ≠ 0 ∧ g.rgcnt r ≠ 0 ∧ g.plim r ≠ 0 ∧ g.dcmin r ≠ 0 ∧
        g.curpp r ≠ 3, 0x0102),
      (∀ r < 8, let n := (planned g r).length
        (∀ k < n, ∃ h ∈ planned g r, g.order h.val = k) ∧
        (∀ h ∈ planned g r, g.order h.val < active r → g.role h.val = 1) ∧ n - active r ≤ 4 ∧
        (active r = 0 → n = 0), 0x0103),
      (∀ r < 8, g.tonmin r ≤ g.tonmax r ∧ 2 * (g.tonmin r + g.toffmin r) ≤ g.period r, 0x0103),
      (∀ r < 8, g.pwmMode r = 1 ∨ g.pwmMode r = 2 →
        g.ished r < g.iadd r ∧ g.iscale r ≠ 0 ∧ g.nmin r ≠ 0 ∧ g.nmin r ≤ active r, 0x0103),
      (∀ r < 8, g.pwmMode r = 2 → g.ilight r ≠ 0 ∧ 2 * g.ilight r ≤ g.iadd r, 0x0103),
      (∀ r < 8, g.nfloor r ≤ active r, 0x0103), (levels ∧ windows ∧ phases ∧ served, 0x0103),
      (lane, 0x0103), (budget, 0x010D), (engine, 0x0112),
      (∀ r : Rail, railOff s r = false →
        old.period r = g.period r ∧ old.dual r = g.dual r ∧ old.rofs r = g.rofs r ∧
        ∀ h < 48, (old.role h ≠ 0 ∧ old.phRail h = r.val ↔ g.role h ≠ 0 ∧ g.phRail h = r.val) ∧
          (old.role h ≠ 0 → old.phRail h = r.val → old.role h = g.role h ∧ old.order h = g.order h), 0x0105),
      (∀ r : Rail, s.pwm.rails[r].admission ≠ none →
        (∀ off, (∃ k < 8, off = 0x5300 + 0x20 * r.val + 4 * k) ∨ (∃ k < 4, off = 0x5800 + 0x20 * r.val + 4 * k) ∨
          off = 0x3020 + 4 * r.val → old.get off = g.get off) ∧
        ∀ h < 48, old.phRail h = r.val ∨ g.phRail h = r.val →
          old.get (0x5100 + 4 * h) = g.get (0x5100 + 4 * h), 0x0104)] (checkBlk s .pwm g)

/-! ## Rules stated whole -/

/-- R98. A gain word (C, S) is applied to a 32-bit operand by the exact product, the addition of 2^(S−1) and
an arithmetic shift by S bits where S is not 0, and saturation to 32 bits; sums of such terms saturate at
each addition, in the order in which they are listed. -/
def Obligations.GainWords : Prop :=
  let clamp : Int → Int := fun x => max (-(2 ^ 31)) (min (2 ^ 31 - 1) x)
  (∀ (w : Word) (x : Int), -(2 ^ 31) ≤ x → x < 2 ^ 31 →
    let c : Int := (w.extractLsb' 5 27).toInt
    let n : Nat := (w.extractLsb' 0 5).toNat
    let p : Int := if n = 0 then x * c else (x * c + 2 ^ (n - 1)) >>> n
    (gain w x).val = clamp p) ∧
  (∀ a b : Sat, (Sat.add a b).val = clamp (a.val + b.val)) ∧
  ∀ (a b : Sat) (xs : List Sat),
    (Sat.sum (a :: xs ++ [b])).val = clamp ((Sat.sum (a :: xs)).val + b.val)

/-- R358. A doorbell word of a submission ring, or of a completion ring, that has a bit from 12 up set or an
index of 2^SIZE or more is out of range: the ring keeps the value of the previous read, event 0x6B is raised
where no window of R519 is open for the ring, and is not raised by this read where one is, and the ring stays
in service. A word in range is taken. -/
def Obligations.DoorbellWords : Prop :=
  ∀ (s : State) (page : List Word), domOn s pdFab = true → domOn s pdHif = true → canIssue s = true →
    (∃ q : Ring, s.hif.sq[q].state ≠ .disabled) → s.hif.recovering = false →
    s.hif.dbInFlight = true ∨ s.hif.pollAt + 256 * s.hif.poll.toNat ≤ s.clk.slot →
    let outside : Word → BitVec 4 → Prop := fun w size =>
      w.extractLsb' 12 20 ≠ 0 ∨ 2 ^ size.toNat ≤ (w.extractLsb' 0 12).toNat
    ∃ t, exec (.doorbellPoll page) s = .next t ∧
      (∀ q : Ring, s.hif.sq[q].state ≠ .disabled → s.hif.sq[q].stopping = false →
        s.hif.sq[q].size.toNat ≤ 12 →
        t.hif.sq[q].state = s.hif.sq[q].state ∧
        (outside (page.getD q.val 0) s.hif.sq[q].size →
          t.hif.sq[q].tail = s.hif.sq[q].tail ∧
          (windowClosed 0x6B 0 q.val s = true → hasBit t.flt.pend 0x6B = true)) ∧
        (¬ outside (page.getD q.val 0) s.hif.sq[q].size →
          t.hif.sq[q].tail = (page.getD q.val 0).extractLsb' 0 12)) ∧
      (∀ c : Ring, s.hif.cq[c].state ≠ .disabled → s.hif.cq[c].size.toNat ≤ 12 →
        t.hif.cq[c].state = s.hif.cq[c].state ∧
        (outside (page.getD (16 + c.val) 0) s.hif.cq[c].size →
          t.hif.cq[c].head = s.hif.cq[c].head ∧
          (windowClosed 0x6B 1 c.val s = true → hasBit t.flt.pend 0x6B = true)) ∧
        (¬ outside (page.getD (16 + c.val) 0) s.hif.cq[c].size →
          t.hif.cq[c].head = (page.getD (16 + c.val) 0).extractLsb' 0 12)) ∧
      ((∀ q : Ring, outside (page.getD q.val 0) s.hif.sq[q].size → windowClosed 0x6B 0 q.val s = false) →
        (∀ c : Ring, outside (page.getD (16 + c.val) 0) s.hif.cq[c].size →
          windowClosed 0x6B 1 c.val s = false) → t.flt = s.flt)

/-- R388. A read anywhere in 0xF000 to 0xFFFF returns 0, and a write to that range is rejected with 0x0107
(R379). -/
def Obligations.ReservedRegion : Prop :=
  ∀ (m : Master) (off : Nat) (s : State), 0xF000 ≤ off → off < 0x10000 → domOn s pdFab = true →
    (off % 4 = 0 → (∀ h, s.regs.hold[masterIdx m] = some h → h.off + 4 ≠ off) →
      exec (.holdingRegisterRead m off) s = .next { s with out := .readData m 0 :: s.out }) ∧
    (WritesPass m s ∨ m = .tw1 ∨ m = .tw3 → ∀ (v : Word) (w : Width),
      ∃ t, exec (.registerWrite m off v w) s = .next t ∧ Rejected m off 0x0107 s t)
end

