-- ==== Sys2Proof/Laws/Kept.lean ====
section
/-!
SUPPORT. What almost every operation keeps: the queue, the test access port, TMODE, whether the part is
at step 1, the powered domains and the NV array. One lemma for each operation; the operations that change
one of them are in Laws/Holds.lean.
-/

set_option linter.unusedSimpArgs false
set_option linter.unusedTactic false
set_option linter.unreachableTactic false

namespace Sys2Proof.Machine

/-- The parts of the state that only the queue, the start and the resets, DOMAIN, the NV controller and
the test access port change. -/
def kept (s : State) : List Instr × Tap × Bool × Bool × BitVec 14 × List Host.Cell :=
  (s.pending, s.tap, s.pwr.tmode, s.pwr.phase == .por, s.pwr.on, s.nvm.mem)

theorem kept_ite {c : Prop} [Decidable c] (a b : State) :
    kept (if c then a else b) = if c then kept a else kept b := by split <;> rfl

theorem kept_ite_fst {α : Type} {c : Prop} [Decidable c] (a b : State × α) :
    kept (if c then a else b).1 = if c then kept a.1 else kept b.1 := by split <;> rfl

theorem kept_ite_s {c : Prop} [Decidable c] (a b : Taking) :
    kept (if c then a else b).s = if c then kept a.s else kept b.s := by split <;> rfl

theorem kept_each {α : Type} (xs : List α) (f : α → State → State) (s : State)
    (h : ∀ x s, kept (f x s) = kept s) : kept (State.each xs f s) = kept s := by
  unfold State.each
  induction xs generalizing s with
  | nil => rfl
  | cons x xs ih => rw [List.foldl_cons, ih, h]

theorem kept_foldl {α : Type} (xs : List α) (f : State → α → State) (s : State)
    (h : ∀ s x, kept (f s x) = kept s) : kept (xs.foldl f s) = kept s := by
  induction xs generalizing s with
  | nil => rfl
  | cons x xs ih => rw [List.foldl_cons, ih, h]

theorem State.upFlt_kept (f : Flt → Flt) (s : State) : kept (s.upFlt f) = kept s := rfl

theorem State.upSeq_kept (f : Seq → Seq) (s : State) : kept (s.upSeq f) = kept s := rfl

theorem State.upPrn_kept (f : Prn → Prn) (s : State) : kept (s.upPrn f) = kept s := rfl

theorem State.upEng_kept (f : Eng → Eng) (s : State) : kept (s.upEng f) = kept s := rfl

theorem State.upPwm_kept (f : Pwm → Pwm) (s : State) : kept (s.upPwm f) = kept s := rfl

theorem State.upCmp_kept (f : Cmp → Cmp) (s : State) : kept (s.upCmp f) = kept s := rfl

theorem State.upAdc_kept (f : Adc → Adc) (s : State) : kept (s.upAdc f) = kept s := rfl

theorem State.upLdg_kept (f : Ldg → Ldg) (s : State) : kept (s.upLdg f) = kept s := rfl

theorem State.upGau_kept (f : Gau → Gau) (s : State) : kept (s.upGau f) = kept s := rfl

theorem State.upTw_kept (f : Tw → Tw) (s : State) : kept (s.upTw f) = kept s := rfl

theorem State.upHif_kept (f : Hif → Hif) (s : State) : kept (s.upHif f) = kept s := rfl

theorem State.upClk_kept (f : Clk → Clk) (s : State) : kept (s.upClk f) = kept s := rfl

theorem State.upTmr_kept (f : Tmr → Tmr) (s : State) : kept (s.upTmr f) = kept s := rfl

theorem State.upRegs_kept (f : Regs → Regs) (s : State) : kept (s.upRegs f) = kept s := rfl

theorem State.upFab_kept (f : Fab → Fab) (s : State) : kept (s.upFab f) = kept s := rfl

theorem State.upSeqRail_kept (i : SeqIdx) (f : SeqRail → SeqRail) (s : State) : kept (s.upSeqRail i f) =
    kept s := rfl

theorem State.upGroup_kept (i : Group) (f : SeqGroup → SeqGroup) (s : State) : kept (s.upGroup i f) =
    kept s := rfl

theorem State.upPrnRail_kept (i : Rail) (f : PrnRail → PrnRail) (s : State) : kept (s.upPrnRail i f) =
    kept s := rfl

theorem State.upPort_kept (i : Port) (f : PrnPort → PrnPort) (s : State) : kept (s.upPort i f) = kept s
    := rfl

theorem State.upEngRail_kept (i : Rail) (f : EngRail → EngRail) (s : State) : kept (s.upEngRail i f) =
    kept s := rfl

theorem State.upPair_kept (i : PairNo) (f : Pair → Pair) (s : State) : kept (s.upPair i f) = kept s :=
    rfl

theorem State.upPhase_kept (i : Phase) (f : Phasor → Phasor) (s : State) : kept (s.upPhase i f) = kept s
    := rfl

theorem State.upPwmRail_kept (i : Rail) (f : PwmRail → PwmRail) (s : State) : kept (s.upPwmRail i f) =
    kept s := rfl

theorem State.upWin_kept (i : Window) (f : Win → Win) (s : State) : kept (s.upWin i f) = kept s := rfl

theorem State.upSlice_kept (i : SliceNo) (f : Slice → Slice) (s : State) : kept (s.upSlice i f) = kept s
    := rfl

theorem State.upTwPort_kept (i : Port) (f : TwPort → TwPort) (s : State) : kept (s.upTwPort i f) = kept
    s := rfl

theorem State.upSq_kept (i : Ring) (f : Sq → Sq) (s : State) : kept (s.upSq i f) = kept s := rfl

theorem State.upCq_kept (i : Ring) (f : Cq → Cq) (s : State) : kept (s.upCq i f) = kept s := rfl

theorem State.upFb_kept (i : Rail) (f : FbRail → FbRail) (s : State) : kept (s.upFb i f) = kept s := rfl

theorem State.upNvm_kept (f : Nvm → Nvm) (s : State) (h : ∀ n, (f n).mem = n.mem) :
    kept (s.upNvm f) = kept s := by
  simp only [kept, State.upNvm, h]

theorem State.upPwr_kept (f : Pwr → Pwr) (s : State)
    (h : ∀ p, ((f p).tmode, (f p).phase == .por, (f p).on) = (p.tmode, p.phase == .por, p.on)) :
    kept (s.upPwr f) = kept s := by
  have h := h s.pwr
  simp only [Prod.mk.injEq] at h
  simp only [kept, State.upPwr, h]

theorem State.emit_kept (o : Out) (s : State) : kept (s.emit o) = kept s := rfl

theorem takeFree_kept (s : State) : kept (takeFree s).2 = kept s := rfl

theorem clearForecasts_kept (r : Rail) (s : State) :
    kept (clearForecasts r s) = kept s := by
  unfold clearForecasts
  simp only [State.upEngRail_kept]

theorem resumeCal_kept (since : Nat) (s : State) :
    kept (resumeCal since s) = kept s := by
  unfold resumeCal
  simp only [State.upAdc_kept]

theorem alertPorts_kept (p : Port → Bool) (cause : Nat) (s : State) :
    kept (alertPorts p cause s) = kept s := by
  unfold alertPorts
  repeat' (first
    | simp only [State.upPort_kept]
    | (with_reducible refine (kept_each _ _ _ (fun _ _ => ?_)).trans ?_ <;> beta_reduce)
    | split)

theorem nvAsk_kept (r : NvReq) (s : State) :
    kept (nvAsk r s) = kept s := by
  unfold nvAsk
  repeat' (first
    | simp only [kept_ite]
    | (with_reducible refine Eq.trans (State.upNvm_kept _ _ ?_) ?_; exact fun _ => rfl)
    | split)

theorem recordCommit_kept (id : Fin 64) (payload : List Byte) (s : State) :
    kept (recordCommit id payload s) = kept s := by
  unfold recordCommit
  simp only [nvAsk_kept]

theorem countUp_kept (n : Fin 64) (s : State) :
    kept (countUp n s) = kept s := by
  unfold countUp
  simp only [nvAsk_kept]

theorem sendMsix_kept (v : Fin 32) (s : State) :
    kept (sendMsix v s).1 = kept s := by
  unfold sendMsix
  simp only [kept_ite_fst, ite_self, State.upHif_kept, State.emit_kept]

theorem completeData_kept (q : Ring) (status : Nat) (result : Nat) (data : List Byte) (s : State) :
    kept (completeData q status result data s) = kept s := by
  unfold completeData
  split <;> simp only [State.upSq_kept, State.upCq_kept]

theorem complete_kept (q : Ring) (status : Nat) (result : Nat) (s : State) :
    kept (complete q status result s) = kept s := by
  unfold complete
  simp only [completeData_kept]

theorem decide__kept (q : Ring) (s : State) :
    kept (decide_ q s) = kept s := by
  unfold decide_
  simp only [State.upSq_kept]

theorem act__kept (q : Ring) (s : State) :
    kept (act_ q s) = kept s := by
  unfold act_
  simp only [State.upSq_kept]

theorem retarget_kept (r : Rail) (fresh : BitVec 48) (s : State) :
    kept (retarget r fresh s) = kept s := by
  unfold retarget
  repeat' (first
    | simp only [kept_ite, ite_self, State.upPhase_kept]
    | (with_reducible refine (kept_each _ _ _ (fun _ _ => ?_)).trans ?_ <;> beta_reduce)
    | split)

theorem anchorCarrier_kept (r : Rail) (s : State) :
    kept (anchorCarrier r s) = kept s := by
  unfold anchorCarrier
  split <;> simp only [State.upPhase_kept]

theorem showStates_kept (r : Rail) (s : State) :
    kept (showStates r s) = kept s := by
  unfold showStates
  repeat' (first
    | simp only [State.upPhase_kept]
    | (with_reducible refine (kept_each _ _ _ (fun _ _ => ?_)).trans ?_ <;> beta_reduce)
    | split)

theorem freeSub_kept (h : Phase) (s : State) :
    kept (freeSub h s) = kept s := by
  unfold freeSub
  split <;> simp only [State.upPhase_kept]

theorem freeSubs_kept (r : Rail) (s : State) :
    kept (freeSubs r s) = kept s := by
  unfold freeSubs
  repeat' (first
    | simp only [kept_ite, ite_self, freeSub_kept]
    | (with_reducible refine (kept_each _ _ _ (fun _ _ => ?_)).trans ?_ <;> beta_reduce)
    | split)

theorem setActive_kept (r : Rail) (act : BitVec 48) (s : State) :
    kept (setActive r act s) = kept s := by
  unfold setActive
  simp only [State.upPwmRail_kept, retarget_kept, showStates_kept, freeSubs_kept]

theorem substitute_kept (r : Rail) (h : Phase) (s : State) :
    kept (substitute r h s) = kept s := by
  unfold substitute
  split <;> simp only [State.upPhase_kept]

theorem substituteFor_kept (r : Rail) (hs : List Phase) (s : State) :
    kept (substituteFor r hs s) = kept s := by
  unfold substituteFor
  repeat' (first
    | simp only [kept_ite, ite_self, substitute_kept]
    | (with_reducible refine (kept_each _ _ _ (fun _ _ => ?_)).trans ?_ <;> beta_reduce)
    | split)

theorem substituteAll_kept (r : Rail) (s : State) :
    kept (substituteAll r s) = kept s := by
  unfold substituteAll
  simp only [substituteFor_kept]

theorem driveHeld_kept (r : Rail) (d : Drive) (s : State) :
    kept (driveHeld r d s) = kept s := by
  unfold driveHeld
  repeat' (first
    | simp only [State.upPhase_kept]
    | (with_reducible refine (kept_each _ _ _ (fun _ _ => ?_)).trans ?_ <;> beta_reduce)
    | split)

theorem saveHealth_kept (s : State) :
    kept (saveHealth s) = kept s := by
  unfold saveHealth
  simp only [kept_ite, ite_self, recordCommit_kept]

theorem enablePhases_kept (r : Rail) (s : State) :
    kept (enablePhases r s) = kept s := by
  unfold enablePhases
  simp only [State.upPwmRail_kept, anchorCarrier_kept, setActive_kept, substituteAll_kept]

theorem disableAdmit_kept (r : Rail) (s : State) :
    kept (disableAdmit r s) = kept s := by
  unfold disableAdmit
  split <;> simp only [State.upPhase_kept, State.upPwmRail_kept, complete_kept, freeSub_kept,
      saveHealth_kept]

theorem endHalf_kept (r : Rail) (s : State) :
    kept (endHalf r s) = kept s := by
  unfold endHalf
  repeat' (first
    | simp only [State.upPhase_kept]
    | (with_reducible refine (kept_each _ _ _ (fun _ _ => ?_)).trans ?_ <;> beta_reduce)
    | split)

theorem disablePhases_kept (r : Rail) (s : State) :
    kept (disablePhases r s) = kept s := by
  unfold disablePhases
  simp only [State.upPwmRail_kept, showStates_kept, driveHeld_kept, disableAdmit_kept, endHalf_kept]

theorem putCodes_kept (w : Window) (c : BitVec 10 × BitVec 10) (s : State) :
    kept (putCodes w c s) = kept s := by
  unfold putCodes
  repeat' (first | simp only [State.upWin_kept] | split)

theorem refreshCodes_kept (r : Rail) (s : State) :
    kept (refreshCodes r s) = kept s := by
  unfold refreshCodes
  simp only [putCodes_kept]

theorem refreshPhases_kept (r : Rail) (s : State) :
    kept (refreshPhases r s) = kept s := by
  unfold refreshPhases
  repeat' (first
    | simp only [putCodes_kept]
    | (with_reducible refine (kept_each _ _ _ (fun _ _ => ?_)).trans ?_ <;> beta_reduce)
    | split)

theorem refreshAll_kept (s : State) :
    kept (refreshAll s) = kept s := by
  unfold refreshAll
  repeat' (first
    | simp only [putCodes_kept, refreshCodes_kept]
    | (with_reducible refine (kept_each _ _ _ (fun _ _ => ?_)).trans ?_ <;> beta_reduce)
    | split)

theorem handBack_kept (p : Proof) (s : State) :
    kept (handBack p s) = kept s := by
  unfold handBack
  simp only [kept_ite, ite_self, State.upWin_kept]

theorem freeDac_kept (p : Proof) (s : State) :
    kept (freeDac p s) = kept s := by
  unfold freeDac
  simp only [kept_ite, ite_self, resumeCal_kept]

theorem takeSteep_kept (r : Rail) (s : State) :
    kept (takeSteep r s) = kept s := by
  unfold takeSteep
  repeat' (first | simp only [State.upCmp_kept, State.upFb_kept, handBack_kept, freeDac_kept] | split)

theorem beginProof_kept (s : State) :
    kept (beginProof s) = kept s := by
  unfold beginProof
  repeat' (first | simp only [kept_ite, State.upCmp_kept] | split)

theorem serveSteep_kept (s : State) :
    kept (serveSteep s) = kept s := by
  unfold serveSteep
  repeat' (first
    | simp only [kept_ite, ite_self, takeSteep_kept, beginProof_kept]
    | (with_reducible refine (kept_each _ _ _ (fun _ _ => ?_)).trans ?_ <;> beta_reduce)
    | split)

theorem freeAdjudication_kept (r : Rail) (s : State) :
    kept (freeAdjudication r s) = kept s := by
  unfold freeAdjudication
  simp only [State.upCmp_kept, State.upFb_kept, serveSteep_kept]

theorem dropBook_kept (f : BookFor) (s : State) :
    kept (dropBook f s) = kept s := by
  unfold dropBook
  simp only [State.upLdg_kept]

theorem marginNone_kept (r : Rail) (s : State) :
    kept (marginNone r s) = kept s := by
  unfold marginNone
  simp only [kept_ite, ite_self, State.upSeqRail_kept, State.upPrnRail_kept, alertPorts_kept,
      dropBook_kept]

theorem leaveOn_kept (i : SeqIdx) (s : State) :
    kept (leaveOn i s) = kept s := by
  unfold leaveOn
  split <;> simp only [kept_ite, ite_self, marginNone_kept]

theorem enableLoop_kept (r : Rail) (s : State) :
    kept (enableLoop r s) = kept s := by
  unfold enableLoop
  simp only [State.upAdc_kept, State.upPrnRail_kept, State.upEngRail_kept, State.upFb_kept,
      enablePhases_kept]

theorem disableLoop_kept (r : Rail) (s : State) :
    kept (disableLoop r s) = kept s := by
  unfold disableLoop
  simp only [State.upEngRail_kept, State.upFb_kept, disablePhases_kept, refreshCodes_kept,
      refreshPhases_kept, freeAdjudication_kept]

theorem alertShdn_kept (r : Rail) (s : State) :
    kept (alertShdn r s) = kept s := by
  unfold alertShdn
  simp only [alertPorts_kept]

theorem setRailState_kept (i : SeqIdx) (q : RailState) (s : State) :
    kept (setRailState i q s) = kept s := by
  unfold setRailState
  simp only [State.upSeqRail_kept]

theorem followDiscode_kept (i : SeqIdx) (s : State) :
    kept (followDiscode i s) = kept s := by
  unfold followDiscode
  split <;> simp only [putCodes_kept, refreshCodes_kept]

theorem enterDischarge_kept (i : SeqIdx) (s : State) :
    kept (enterDischarge i s) = kept s := by
  unfold enterDischarge
  split <;> simp only [State.upSeqRail_kept, State.upPrnRail_kept, disableLoop_kept, followDiscode_kept]

theorem enterStop_kept (i : SeqIdx) (r : Rail) (s : State) :
    kept (enterStop i r s) = kept s := by
  unfold enterStop
  simp only [State.upPrnRail_kept, alertShdn_kept, setRailState_kept]

theorem enterRamp_kept (i : SeqIdx) (s : State) :
    kept (enterRamp i s) = kept s := by
  unfold enterRamp
  split <;> simp only [State.upSeqRail_kept, enableLoop_kept, setRailState_kept]

theorem restRail_kept (r : Rail) (s : State) :
    kept (restRail r s) = kept s := by
  unfold restRail
  simp only [State.upPrnRail_kept, driveHeld_kept]

theorem reachOff_kept (i : SeqIdx) (s : State) :
    kept (reachOff i s) = kept s := by
  unfold reachOff
  split <;> simp only [State.upSeqRail_kept, restRail_kept]

theorem railStep_kept (i : SeqIdx) (s : State) :
    kept (railStep i s) = kept s := by
  unfold railStep
  repeat' (first
    | simp only [kept_ite, ite_self, State.upSeqRail_kept, State.upPrnRail_kept, leaveOn_kept,
        setRailState_kept, followDiscode_kept, enterDischarge_kept, enterStop_kept]
    | split)

theorem settleRounds_kept (n : Nat) (s : State) : kept (settleRounds n s) = kept s := by
  induction n generalizing s with
  | zero => rfl
  | succ n ih =>
    have h : kept (State.each (usedRails s.cfg) railStep s) = kept s := kept_each _ _ _ railStep_kept
    simp only [settleRounds, kept_ite, ih, h, ite_self]

theorem dropReservation_kept (p : Port) (s : State) :
    kept (dropReservation p s) = kept s := by
  unfold dropReservation
  simp only [State.upPort_kept, dropBook_kept]

theorem releaseIdle_kept (s : State) :
    kept (releaseIdle s) = kept s := by
  unfold releaseIdle
  repeat' (first
    | simp only [dropReservation_kept]
    | (with_reducible refine (kept_each _ _ _ (fun _ _ => ?_)).trans ?_ <;> beta_reduce)
    | split)

theorem settle_kept (s : State) :
    kept (settle s) = kept s := by
  unfold settle
  simp only [kept_ite, ite_self, settleRounds_kept, releaseIdle_kept]

theorem requestOff_kept (j : Group) (s : State) :
    kept (requestOff j s) = kept s := by
  unfold requestOff
  repeat' (first
    | simp only [kept_ite, State.upSeqRail_kept, State.upGroup_kept]
    | (with_reducible refine (kept_each _ _ _ (fun _ _ => ?_)).trans ?_ <;> beta_reduce)
    | split)

theorem requestOn_kept (j : Group) (s : State) :
    kept (requestOn j s) = kept s := by
  unfold requestOn
  repeat' (first
    | simp only [kept_ite, State.upSeqRail_kept, State.upGroup_kept]
    | (with_reducible refine (kept_each _ _ _ (fun _ _ => ?_)).trans ?_ <;> beta_reduce)
    | split)

theorem markDown_kept (fault : Bool) (i : SeqIdx) (s : State) :
    kept (markDown fault i s) = kept s := by
  unfold markDown
  simp only [kept_ite, ite_self, State.upSeqRail_kept]

theorem takeGroup_kept (j : Group) (s : State) :
    kept (takeGroup j s) = kept s := by
  unfold takeGroup
  repeat' (first
    | simp only [State.upSeqRail_kept, settle_kept, requestOff_kept, markDown_kept]
    | (with_reducible refine (kept_each _ _ _ (fun _ _ => ?_)).trans ?_ <;> beta_reduce)
    | split)

theorem takeRetry_kept (i : SeqIdx) (s : State) :
    kept (takeRetry i s) = kept s := by
  unfold takeRetry
  repeat' (first
    | simp only [kept_ite, ite_self, State.upSeqRail_kept, settle_kept]
    | (with_reducible refine (kept_each _ _ _ (fun _ _ => ?_)).trans ?_ <;> beta_reduce)
    | split)

theorem takeSysrst_kept (s : State) :
    kept (takeSysrst s) = kept s := by
  unfold takeSysrst
  repeat' (first
    | simp only [State.upSeq_kept, settle_kept, requestOff_kept, markDown_kept]
    | (with_reducible refine (kept_each _ _ _ (fun _ _ => ?_)).trans ?_ <;> beta_reduce)
    | split)

theorem shutOff_kept (s : State) :
    kept (shutOff s) = kept s := by
  unfold shutOff
  repeat' (first
    | simp only [State.upSeq_kept, State.upSeqRail_kept, State.upGroup_kept, leaveOn_kept,
        alertShdn_kept, setRailState_kept, enterDischarge_kept, reachOff_kept]
    | (with_reducible refine (kept_each _ _ _ (fun _ _ => ?_)).trans ?_ <;> beta_reduce)
    | split)

theorem ladderRest_kept (s : State) :
    kept (ladderRest s) = kept s := by
  unfold ladderRest
  simp only [kept_ite, ite_self, State.upFlt_kept]

theorem clearPending_kept (mask : BitVec 128) (s : State) :
    kept (clearPending mask s) = kept s := by
  unfold clearPending
  simp only [State.upFlt_kept, ladderRest_kept]

theorem clearCapture_kept (s : State) :
    kept (clearCapture s) = kept s := by
  unfold clearCapture
  simp only [State.upFlt_kept]

theorem Taking.note_kept (t : Taking) (k : Nat) :
    kept (Taking.note t k).s = kept t.s := by
  unfold Taking.note
  with_reducible rfl

theorem Taking.send_kept (t : Taking) (v : Fin 32) :
    kept (Taking.send t v).s = kept t.s := by
  unfold Taking.send
  simp only [sendMsix_kept]

theorem takeInterrupt_kept (e : Nat) (ladder : Bool) (t : Taking) :
    kept (takeInterrupt e ladder t).s = kept t.s := by
  unfold takeInterrupt
  repeat' (first | simp only [State.upFlt_kept, Taking.note_kept, Taking.send_kept] | split)

theorem takeAlert_kept (e : Nat) (t : Taking) :
    kept (takeAlert e t).s = kept t.s := by
  unfold takeAlert
  simp only [State.upFlt_kept, Taking.note_kept, Taking.send_kept]

theorem takeErrn_kept (e : Nat) (t : Taking) :
    kept (takeErrn e t).s = kept t.s := by
  unfold takeErrn
  simp only [State.upFlt_kept, Taking.note_kept]

theorem noteKey_kept (e : Nat) (src : Word) (s : State) :
    kept (noteKey e src s) = kept s := by
  unfold noteKey
  simp only [kept_ite, ite_self, State.upFlt_kept]

theorem askReset_kept (key : BitVec 4 × BitVec 4 × BitVec 6) (s : State) :
    kept (askReset key s) = kept s := by
  unfold askReset
  simp only [State.upFlt_kept]

theorem askBlockReset_kept (src : Word) (s : State) :
    kept (askBlockReset src s) = kept s := by
  unfold askBlockReset
  simp only [askReset_kept]

theorem askChipReset_kept (s : State) :
    kept (askChipReset s) = kept s := by
  unfold askChipReset
  repeat' (first
    | with_reducible rfl
    | simp only [kept_ite, State.upFlt_kept, takeSysrst_kept]
    | (with_reducible refine (kept_each _ _ _ (fun _ _ => ?_)).trans ?_ <;> beta_reduce)
    | (with_reducible refine (kept_foldl _ _ _ (fun _ _ => ?_)).trans ?_ <;> beta_reduce)
    | (with_reducible refine Eq.trans (State.upNvm_kept _ _ ?_) ?_; exact fun _ => rfl)
    | (with_reducible refine Eq.trans (State.upPwr_kept _ _ ?_) ?_; exact fun _ => rfl)
    | split)

theorem reactNormal_kept (e : Nat) (src : Word) (was : Bool) (t : Taking) :
    kept (reactNormal e src was t).s = kept t.s := by
  unfold reactNormal
  repeat' (first
    | simp only [Taking.note_kept, takeInterrupt_kept, takeAlert_kept, takeErrn_kept,
        askBlockReset_kept, askChipReset_kept]
    | split)

theorem reactEscalated_kept (e : Nat) (was : Bool) (t : Taking) :
    kept (reactEscalated e was t).s = kept t.s := by
  unfold reactEscalated
  repeat' (first
    | simp only [State.upFlt_kept, takeInterrupt_kept, takeAlert_kept, takeErrn_kept]
    | split)

theorem actClassA_kept (e : Nat) (src : Word) (t : Taking) :
    kept (actClassA e src t).s = kept t.s := by
  unfold actClassA
  repeat' (first
    | simp only [State.upFlt_kept, recordCommit_kept, countUp_kept, shutOff_kept, Taking.note_kept,
        Taking.send_kept]
    | split)

theorem countDrop_kept (s : State) :
    kept (countDrop s) = kept s := by
  unfold countDrop
  simp only [State.upFlt_kept]

theorem react_kept (e : Nat) (src : Word) (classA was esc : Bool) (t : Taking) :
    kept (react e src classA was esc t).s = kept t.s := by
  unfold react
  repeat' (first | simp only [reactNormal_kept, reactEscalated_kept, actClassA_kept] | split)

theorem raiseOne_kept (e : Nat) (src : Word) (code : Nat) (acc : Access) (classA injected : Bool) (s :
    State) :
    kept (raiseOne e src code acc classA injected s).1 = kept s := by
  unfold raiseOne
  repeat' (first
    | simp only [kept_ite, kept_ite_fst, ite_self, State.upFlt_kept, noteKey_kept, countDrop_kept,
        react_kept]
    | split)

theorem raiseUnsent_kept (vs : List (Fin 32)) (s : State) :
    kept (raiseUnsent vs s) = kept s := by
  unfold raiseUnsent
  repeat' (first
    | simp only [raiseOne_kept]
    | (with_reducible refine (kept_each _ _ _ (fun _ _ => ?_)).trans ?_ <;> beta_reduce)
    | split)

theorem raiseFull_kept (e : Nat) (src : Word) (code : Nat) (acc : Access) (classA injected : Bool) (s :
    State) :
    kept (raiseFull e src code acc classA injected s) = kept s := by
  unfold raiseFull
  simp only [kept_ite, ite_self, raiseOne_kept, raiseUnsent_kept]

theorem raise_kept (e : Nat) (src : Word) (code : Nat) (s : State) :
    kept (raise e src code s) = kept s := by
  unfold raise
  simp only [raiseFull_kept]

theorem raiseClassA_kept (e : Nat) (src : Word) (s : State) :
    kept (raiseClassA e src s) = kept s := by
  unfold raiseClassA
  simp only [raiseFull_kept]

theorem raiseAccess_kept (e : Nat) (src : Word) (code : Nat) (acc : Access) (s : State) :
    kept (raiseAccess e src code acc s) = kept s := by
  unfold raiseAccess
  simp only [raiseFull_kept]

theorem openWindow_kept (e : Nat) (cause : Nat) (unit : Nat) (s : State) :
    kept (openWindow e cause unit s) = kept s := by
  unfold openWindow
  simp only [State.upFlt_kept]

theorem raiseLimited_kept (e : Nat) (cause : Nat) (unit : Nat) (src : Word) (code : Nat) (acc : Access)
    (s : State) :
    kept (raiseLimited e cause unit src code acc s) = kept s := by
  unfold raiseLimited
  simp only [kept_ite, ite_self, raiseFull_kept, openWindow_kept]

theorem raiseMonitor_kept (c : Nat) (s : State) :
    kept (raiseMonitor c s) = kept s := by
  unfold raiseMonitor
  simp only [raiseLimited_kept]

theorem raiseSeq_kept (i : SeqIdx) (cause elem : Nat) (s : State) :
    kept (raiseSeq i cause elem s) = kept s := by
  unfold raiseSeq
  simp only [State.upSeqRail_kept, raiseLimited_kept]

theorem runningFault_kept (i : SeqIdx) (cause elem : Nat) (atLeast : Bool) (s : State) :
    kept (runningFault i cause elem atLeast s) = kept s := by
  unfold runningFault
  repeat' (first
    | simp only [kept_ite, ite_self, State.upSeqRail_kept, takeGroup_kept, takeRetry_kept,
        takeSysrst_kept, raiseSeq_kept]
    | split)

theorem hear_kept (at_ : MarkerAt) (kind : Nat) (fits : Nat → Bool) (hdr : Word) (s : State) :
    kept (hear at_ kind fits hdr s).1 = kept s := by
  unfold hear
  repeat' (first | simp only [kept_ite_fst, ite_self, State.upFab_kept] | split)

theorem forgetSeq_kept (p : MarkerAt → Bool) (s : State) :
    kept (forgetSeq p s) = kept s := by
  unfold forgetSeq
  simp only [State.upFab_kept]

theorem raiseFabric_kept (at_ : MarkerAt) (r : Rail) (unit : Fin 16) (s : State) :
    kept (raiseFabric at_ r unit s) = kept s := by
  unfold raiseFabric
  split <;> simp only [kept_ite, ite_self, countDrop_kept, raise_kept, raiseLimited_kept, raiseSeq_kept]

theorem rejectWrite_kept (m : Master) (off code : Nat) (s : State) :
    kept (rejectWrite m off code s) = kept s := by
  unfold rejectWrite
  simp only [State.upRegs_kept, raiseAccess_kept]

theorem regWrite_kept (m : Master) (off : Nat) (frozen : Bool) (v reserved : Word) (f : State → State)
    (s : State)
    (h : ∀ s, kept (f s) = kept s) :
    kept (regWrite m off frozen v reserved f s) = kept s := by
  unfold regWrite
  simp only [kept_ite, ite_self, rejectWrite_kept, h]

theorem issueMarkers_kept (s : State) :
    kept (issueMarkers s) = kept s := by
  unfold issueMarkers
  simp only [State.upFab_kept]

theorem pushMarkers_kept (ms : List Marker) (s : State) :
    kept (pushMarkers ms s) = kept s := by
  unfold pushMarkers
  simp only [State.upFab_kept, issueMarkers_kept]

theorem restampAt_kept (p : MarkerAt → Bool) (s : State) :
    kept (restampAt p s) = kept s := by
  unfold restampAt
  simp only [State.upFab_kept]

theorem restampBy_kept (p : Marker → MarkerAt → Bool) (slot : Nat) (s : State) :
    kept (restampBy p slot s) = kept s := by
  unfold restampBy
  simp only [State.upFab_kept]

theorem beginMove_kept (r : Rail) (a : Assign) (s : State) :
    kept (beginMove r a s) = kept s := by
  unfold beginMove
  simp only [State.upEngRail_kept]

theorem beginMoves_kept (s : State) (ws : List (Nat × Word)) :
    kept (beginMoves s ws) = kept s := by
  unfold beginMoves
  repeat' (first
    | simp only [kept_ite, ite_self, beginMove_kept]
    | (with_reducible refine (kept_each _ _ _ (fun _ _ => ?_)).trans ?_ <;> beta_reduce)
    | split)

theorem acceptSet_kept (b : Blk) (tag : BitVec 16) (origin : Origin) (ws : List (Nat × Word)) (s :
    State) :
    kept (acceptSet b tag origin ws s) = kept s := by
  unfold acceptSet
  simp only [kept_ite, ite_self, State.upRegs_kept, pushMarkers_kept, beginMoves_kept]

theorem commitGo_kept (b : Blk) (m : Master) (off : Nat) (s : State) :
    kept (commitGo b m off s) = kept s := by
  unfold commitGo
  repeat' (first | simp only [kept_ite, rejectWrite_kept, acceptSet_kept] | split)

theorem writeCommit_kept (b : Blk) (m : Master) (v : Word) (s : State) :
    kept (writeCommit b m v s) = kept s := by
  unfold writeCommit
  repeat' (first
    | with_reducible rfl
    | simp only [kept_ite, ite_self, rejectWrite_kept, commitGo_kept]
    | (with_reducible refine (kept_each _ _ _ (fun _ _ => ?_)).trans ?_ <;> beta_reduce)
    | (with_reducible refine (kept_foldl _ _ _ (fun _ _ => ?_)).trans ?_ <;> beta_reduce)
    | (with_reducible refine Eq.trans (State.upNvm_kept _ _ ?_) ?_; exact fun _ => rfl)
    | (with_reducible refine Eq.trans (State.upPwr_kept _ _ ?_) ?_; exact fun _ => rfl)
    | (with_reducible refine (regWrite_kept _ _ _ _ _ _ _ (fun _ => ?_)).trans ?_ <;> beta_reduce))

theorem runSet_kept (b : Blk) (offs : List Nat) (check : State → List (Nat × Word) → Option Nat) (q :
    Ring) (buf : List Word) (d : Desc) (s : State) :
    kept (runSet b offs check q buf d s) = kept s := by
  unfold runSet
  repeat' (first
    | simp only [kept_ite, State.upRegs_kept, complete_kept, act__kept, acceptSet_kept]
    | split)

theorem raiseNoSteep_kept (s : State) :
    kept (raiseNoSteep s) = kept s := by
  unfold raiseNoSteep
  simp only [kept_ite, ite_self, State.upCmp_kept, raise_kept]

theorem nextProof_kept (s : State) :
    kept (nextProof s) = kept s := by
  unfold nextProof
  simp only [kept_ite, ite_self, State.upCmp_kept, beginProof_kept, raiseNoSteep_kept]

theorem setTarget_kept (r : Rail) (code : BitVec 16) (cls : Nat) (notify : Bool) (s : State) :
    kept (setTarget r code cls notify s) = kept s := by
  unfold setTarget
  simp only [kept_ite, ite_self, State.upPrnRail_kept, alertPorts_kept]

theorem applySafe_kept (r : Rail) (s : State) :
    kept (applySafe r s) = kept s := by
  unfold applySafe
  simp only [setTarget_kept]

theorem sendActive_kept (r : Rail) (act : BitVec 48) (s : State) :
    kept (sendActive r act s) = kept s := by
  unfold sendActive
  simp only [State.upPwmRail_kept, pushMarkers_kept]

theorem sendLoss_kept (r : Rail) (s : State) :
    kept (sendLoss r s) = kept s := by
  unfold sendLoss
  simp only [State.upEngRail_kept]

theorem endAdmit_kept (r : Rail) (h : Phase) (code : Nat) (s : State) :
    kept (endAdmit r h code s) = kept s := by
  unfold endAdmit
  split <;> simp only [kept_ite, ite_self, State.upPwmRail_kept, complete_kept]

theorem setWeight_kept (h : Phase) (w : Nat) (s : State) :
    kept (setWeight h w s) = kept s := by
  unfold setWeight
  simp only [State.upPhase_kept]

theorem floorCheck_kept (r : Rail) (before : Nat) (s : State) :
    kept (floorCheck r before s) = kept s := by
  unfold floorCheck
  simp only [kept_ite, ite_self, raise_kept, runningFault_kept]

theorem assignSubstitutes_kept (r : Rail) (s : State) :
    kept (assignSubstitutes r s) = kept s := by
  unfold assignSubstitutes
  repeat' (first
    | simp only [kept_ite, ite_self, freeSub_kept, substituteFor_kept]
    | (with_reducible refine (kept_each _ _ _ (fun _ _ => ?_)).trans ?_ <;> beta_reduce)
    | split)

theorem losePosition_kept (r : Rail) (pos : Phase) (s : State) :
    kept (losePosition r pos s) = kept s := by
  unfold losePosition
  simp only [State.upPwmRail_kept, assignSubstitutes_kept]

theorem leaveToTwin_kept (r : Rail) (pos n : Phase) (s : State) :
    kept (leaveToTwin r pos n s) = kept s := by
  unfold leaveToTwin
  simp only [kept_ite, ite_self, State.upPhase_kept, State.upPwmRail_kept, setWeight_kept]

theorem rackActive_kept (r : Rail) (h : Phase) (mA : Int) (s : State) :
    kept (rackActive r h mA s) = kept s := by
  unfold rackActive
  repeat' (first
    | simp only [kept_ite, ite_self, State.upPhase_kept, State.upPwmRail_kept, retarget_kept,
        setActive_kept, sendActive_kept, sendLoss_kept, losePosition_kept, leaveToTwin_kept]
    | split)

theorem rackWaiting_kept (r : Rail) (h : Phase) (s : State) :
    kept (rackWaiting r h s) = kept s := by
  unfold rackWaiting
  split <;> simp only [State.upPwmRail_kept, setWeight_kept]

theorem rack_kept (h : Phase) (cause : Nat) (s : State) :
    kept (rack h cause s) = kept s := by
  unfold rack
  simp only [kept_ite, ite_self, State.upPhase_kept, State.upFb_kept, countUp_kept, saveHealth_kept,
      raise_kept, endAdmit_kept, floorCheck_kept, rackActive_kept, rackWaiting_kept]

theorem beginFall_kept (r : Rail) (h : Phase) (s : State) :
    kept (beginFall r h s) = kept s := by
  unfold beginFall
  simp only [State.upPwmRail_kept]

theorem heelFire_kept (r : Rail) (s : State) :
    kept (heelFire r s) = kept s := by
  unfold heelFire
  repeat' (first | simp only [kept_ite, State.upPhase_kept, State.upFb_kept, beginFall_kept] | split)

theorem endPulse_kept (h : Phase) (s : State) :
    kept (endPulse h s) = kept s := by
  unfold endPulse
  simp only [State.upPhase_kept]

theorem heelEnd_kept (r : Rail) (h : Phase) (s : State) :
    kept (heelEnd r h s) = kept s := by
  unfold heelEnd
  simp only [kept_ite, ite_self, State.upPhase_kept, State.upFb_kept, endPulse_kept]

theorem ceilingTrips_kept (r : Rail) (s : State) :
    kept (ceilingTrips r s) = kept s := by
  unfold ceilingTrips
  repeat' (first
    | simp only [State.upFb_kept, endPulse_kept]
    | (with_reducible refine (kept_each _ _ _ (fun _ _ => ?_)).trans ?_ <;> beta_reduce)
    | split)

theorem heelPhases_kept (r : Rail) (s : State) :
    kept (heelPhases r s) = kept s := by
  unfold heelPhases
  repeat' (first
    | simp only [State.upPhase_kept]
    | (with_reducible refine (kept_each _ _ _ (fun _ _ => ?_)).trans ?_ <;> beta_reduce)
    | split)

theorem stopPitching_kept (code : Nat) (r : Rail) (s : State) :
    kept (stopPitching code r s) = kept s := by
  unfold stopPitching
  repeat' (first
    | simp only [kept_ite, ite_self, State.upPhase_kept, State.upPwmRail_kept, saveHealth_kept,
        endAdmit_kept, setWeight_kept, floorCheck_kept]
    | split)

theorem holdSetpoint_kept (r : Rail) (s : State) :
    kept (holdSetpoint r s) = kept s := by
  unfold holdSetpoint
  simp only [kept_ite, ite_self, State.upPrnRail_kept, alertPorts_kept]

theorem heelEntry_kept (r : Rail) (cause : Nat) (s : State) :
    kept (heelEntry r cause s) = kept s := by
  unfold heelEntry
  simp only [State.upEngRail_kept, State.upPwmRail_kept, State.upFb_kept, clearForecasts_kept,
      refreshCodes_kept, refreshPhases_kept, raise_kept, heelFire_kept, heelPhases_kept,
      stopPitching_kept, holdSetpoint_kept]

theorem heelAgain_kept (r : Rail) (cause : Nat) (s : State) :
    kept (heelAgain r cause s) = kept s := by
  unfold heelAgain
  simp only [kept_ite, ite_self, State.upEngRail_kept, State.upFb_kept, raise_kept, holdSetpoint_kept]

theorem feedbackNone_kept (r : Rail) (event : State → State) (s : State)
    (h : ∀ s, kept (event s) = kept s) :
    kept (feedbackNone r event s) = kept s := by
  unfold feedbackNone
  simp only [State.upEngRail_kept, State.upFb_kept, clearForecasts_kept, driveHeld_kept,
      refreshCodes_kept, refreshPhases_kept, freeAdjudication_kept, settle_kept, runningFault_kept,
      stopPitching_kept, h]

theorem passToHeel_kept (r : Rail) (cause : Nat) (s : State) :
    kept (passToHeel r cause s) = kept s := by
  unfold passToHeel
  repeat' (first
    | with_reducible rfl
    | simp only [kept_ite, ite_self, State.upFb_kept, raise_kept, heelEntry_kept, heelAgain_kept]
    | (with_reducible refine (kept_each _ _ _ (fun _ _ => ?_)).trans ?_ <;> beta_reduce)
    | (with_reducible refine (kept_foldl _ _ _ (fun _ _ => ?_)).trans ?_ <;> beta_reduce)
    | (with_reducible refine Eq.trans (State.upNvm_kept _ _ ?_) ?_; exact fun _ => rfl)
    | (with_reducible refine Eq.trans (State.upPwr_kept _ _ ?_) ?_; exact fun _ => rfl)
    | (with_reducible refine (feedbackNone_kept _ _ _ (fun _ => ?_)).trans ?_ <;> beta_reduce)
    | split)

theorem heelFailed_kept (r : Rail) (elem cause : Nat) (s : State) :
    kept (heelFailed r elem cause s) = kept s := by
  unfold heelFailed
  repeat' (first
    | with_reducible rfl
    | simp only [raise_kept]
    | (with_reducible refine (kept_each _ _ _ (fun _ _ => ?_)).trans ?_ <;> beta_reduce)
    | (with_reducible refine (kept_foldl _ _ _ (fun _ _ => ?_)).trans ?_ <;> beta_reduce)
    | (with_reducible refine Eq.trans (State.upNvm_kept _ _ ?_) ?_; exact fun _ => rfl)
    | (with_reducible refine Eq.trans (State.upPwr_kept _ _ ?_) ?_; exact fun _ => rfl)
    | (with_reducible refine (feedbackNone_kept _ _ _ (fun _ => ?_)).trans ?_ <;> beta_reduce))

theorem raisePath_kept (r : Rail) (elem cause : Nat) (s : State) :
    kept (raisePath r elem cause s) = kept s := by
  unfold raisePath
  simp only [raise_kept]

theorem bothLost_kept (r : Rail) (s : State) :
    kept (bothLost r s) = kept s := by
  unfold bothLost
  simp only [kept_ite, ite_self, State.upFb_kept, raiseClassA_kept, passToHeel_kept]

theorem markLost_kept (r : Rail) (remote : Bool) (cause : Nat) (s : State) :
    kept (markLost r remote cause s) = kept s := by
  unfold markLost
  simp only [State.upFb_kept, freeAdjudication_kept, raisePath_kept]

theorem switchPath_kept (r : Rail) (s : State) :
    kept (switchPath r s) = kept s := by
  unfold switchPath
  simp only [kept_ite, ite_self, State.upFb_kept, bothLost_kept]

theorem losePath_kept (r : Rail) (remote : Bool) (cause : Nat) (s : State) :
    kept (losePath r remote cause s) = kept s := by
  unfold losePath
  simp only [kept_ite, ite_self, markLost_kept, switchPath_kept]

theorem loseReference_kept (r : Rail) (cause : Nat) (s : State) :
    kept (loseReference r cause s) = kept s := by
  unfold loseReference
  simp only [kept_ite, ite_self, State.upFb_kept, freeAdjudication_kept, raisePath_kept, bothLost_kept]

theorem followBoot_kept (r : Rail) (s : State) :
    kept (followBoot r s) = kept s := by
  unfold followBoot
  simp only [kept_ite, ite_self, setTarget_kept]

theorem enterTrack_kept (r : Rail) (s : State) :
    kept (enterTrack r s) = kept s := by
  unfold enterTrack
  simp only [kept_ite, ite_self, State.upEngRail_kept]

theorem noteOverflow_kept (r : Rail) (ovf : Bool) (s : State) :
    kept (noteOverflow r ovf s) = kept s := by
  unfold noteOverflow
  simp only [kept_ite, ite_self, State.upEngRail_kept, raise_kept]

theorem ditherHead_kept (r : Rail) (s : State) :
    kept (ditherHead r s) = kept s := by
  unfold ditherHead
  simp only [State.upFb_kept]

theorem runLaw_kept (r : Rail) (value : Int) (slot : Nat) (drive : Bool) (s : State) :
    kept (runLaw r value slot drive s) = kept s := by
  unfold runLaw
  simp only [kept_ite, ite_self, State.upEng_kept, State.upEngRail_kept, State.upFb_kept,
      noteOverflow_kept, ditherHead_kept]

theorem updateFeedForward_kept (r : Rail) (s : State) :
    kept (updateFeedForward r s) = kept s := by
  unfold updateFeedForward
  simp only [State.upEngRail_kept, noteOverflow_kept]

theorem heelReturn_kept (r : Rail) (s : State) :
    kept (heelReturn r s) = kept s := by
  unfold heelReturn
  simp only [kept_ite, ite_self, State.upPrnRail_kept, State.upEngRail_kept, State.upPwmRail_kept,
      State.upFb_kept, setActive_kept, refreshCodes_kept, refreshPhases_kept, applySafe_kept,
      sendLoss_kept, followBoot_kept, updateFeedForward_kept]

theorem rackPhase_kept (h : Phase) (cause : Nat) (s : State) :
    kept (rackPhase h cause s) = kept s := by
  unfold rackPhase
  simp only [kept_ite, ite_self, rack_kept, updateFeedForward_kept]

theorem leaveLight_kept (r : Rail) (extra : Int) (s : State) :
    kept (leaveLight r extra s) = kept s := by
  unfold leaveLight
  simp only [kept_ite, ite_self, State.upPwmRail_kept, sendActive_kept]

theorem overvoltCheck_kept (r : Rail) (s : State) :
    kept (overvoltCheck r s) = kept s := by
  unfold overvoltCheck
  simp only [kept_ite, ite_self, State.upFb_kept, raiseClassA_kept]

theorem rangeCheck_kept (r : Rail) (remote : Bool) (s : State) :
    kept (rangeCheck r remote s) = kept s := by
  unfold rangeCheck
  simp only [kept_ite, ite_self, losePath_kept, loseReference_kept]

theorem ditherCheck_kept (r : Rail) (remote : Bool) (value : Int) (slot : Nat) (s : State) :
    kept (ditherCheck r remote value slot s) = kept s := by
  unfold ditherCheck
  repeat' (first | simp only [kept_ite, ite_self, State.upFb_kept, losePath_kept] | split)

theorem joinBall_kept (r : Rail) (remote : Bool) (value : Int) (slot : Nat) (s : State) :
    kept (joinBall r remote value slot s) = kept s := by
  unfold joinBall
  simp only [kept_ite, ite_self, State.upFb_kept]

theorem startAdjudication_kept (r : Rail) (s : State) :
    kept (startAdjudication r s) = kept s := by
  unfold startAdjudication
  repeat' (first
    | simp only [State.upCmp_kept, State.upFb_kept, takeSteep_kept, raiseNoSteep_kept]
    | split)

theorem disagreeCheck_kept (r : Rail) (s : State) :
    kept (disagreeCheck r s) = kept s := by
  unfold disagreeCheck
  repeat' (first | simp only [kept_ite, ite_self, State.upFb_kept, startAdjudication_kept] | split)

theorem staleError_kept (r : Rail) (s : State) :
    kept (staleError r s) = kept s := by
  unfold staleError
  simp only [kept_ite, ite_self, State.upFb_kept, passToHeel_kept]

theorem loadDuty_kept (r : Rail) (ps : List DutyPkt) (s : State) :
    kept (loadDuty r ps s) = kept s := by
  unfold loadDuty
  repeat' (first
    | simp only [kept_ite, State.upPhase_kept]
    | (with_reducible refine (kept_each _ _ _ (fun _ _ => ?_)).trans ?_ <;> beta_reduce)
    | split)

theorem dropDuty_kept (d : DutyPkt) (s : State) :
    kept (dropDuty d s) = kept s := by
  unfold dropDuty
  simp only [State.upEng_kept]

theorem missDuty_kept (r : Rail) (n : Nat) (s : State) : kept (missDuty r n s) = kept s := by
  induction n generalizing s with
  | zero => rfl
  | succ n ih =>
    unfold missDuty
    split
    · rw [ih, dropDuty_kept]
    · rfl

theorem hearDuty_kept (d : DutyPkt) (hdr : Option Word) (s : State) :
    kept (hearDuty d hdr s).1 = kept s := by
  unfold hearDuty
  cases hdr with
  | none => rfl
  | some w =>
    dsimp only
    split
    · rfl
    · split <;> simp only [raiseFabric_kept, missDuty_kept, dropDuty_kept, hear_kept]

theorem execDuty_kept (r : Rail) (hdrs : DutyHeaders) (s : State) :
    ∃ t, execDuty r hdrs s = .next t ∧ kept t = kept s := by
  unfold execDuty; refine ⟨_, rfl, ?_⟩
  repeat' (first | simp only [kept_ite, loadDuty_kept, hearDuty_kept] | split)

theorem averageCurrent_kept (r : Rail) (s : State) :
    kept (averageCurrent r s) = kept s := by
  unfold averageCurrent
  simp only [State.upPwmRail_kept]

theorem shareTargets_kept (r : Rail) (s : State) :
    kept (shareTargets r s) = kept s := by
  unfold shareTargets
  repeat' (first
    | simp only [State.upPhase_kept]
    | (with_reducible refine (kept_each _ _ _ (fun _ _ => ?_)).trans ?_ <;> beta_reduce)
    | split)

theorem lossPeriod_kept (r : Rail) (s : State) :
    kept (lossPeriod r s) = kept s := by
  unfold lossPeriod
  simp only [kept_ite, ite_self, State.upPwmRail_kept, sendLoss_kept]

theorem stopShedding_kept (r : Rail) (s : State) :
    kept (stopShedding r s) = kept s := by
  unfold stopShedding
  split <;> simp only [State.upPwmRail_kept, setWeight_kept]

theorem addPositions_kept (r : Rail) (n m : Nat) (s : State) :
    kept (addPositions r n m s) = kept s := by
  unfold addPositions
  simp only [kept_ite, ite_self, sendActive_kept]

theorem shedStep_kept (r : Rail) (h : Phase) (left : Nat) (s : State) :
    kept (shedStep r h left s) = kept s := by
  unfold shedStep
  simp only [kept_ite, ite_self, State.upPwmRail_kept, sendActive_kept, setWeight_kept]

theorem shedRule_kept (r : Rail) (s : State) :
    kept (shedRule r s) = kept s := by
  unfold shedRule
  repeat' (first
    | simp only [kept_ite, State.upPwmRail_kept, stopShedding_kept, addPositions_kept, shedStep_kept]
    | split)

theorem lightRule_kept (r : Rail) (s : State) :
    kept (lightRule r s) = kept s := by
  unfold lightRule
  simp only [kept_ite, ite_self, State.upPwmRail_kept, sendActive_kept, leaveLight_kept,
      stopShedding_kept]

theorem boostPeriod_kept (r : Rail) (s : State) :
    kept (boostPeriod r s) = kept s := by
  unfold boostPeriod
  simp only [State.upEngRail_kept]

theorem modeRules_kept (r : Rail) (s : State) :
    kept (modeRules r s) = kept s := by
  unfold modeRules
  simp only [kept_ite, ite_self, shedRule_kept, lightRule_kept]

theorem railPeriod_kept (r : Rail) (s : State) :
    kept (railPeriod r s) = kept s := by
  unfold railPeriod
  simp only [State.upPwmRail_kept, averageCurrent_kept, shareTargets_kept, lossPeriod_kept,
      boostPeriod_kept, modeRules_kept]

theorem renewTargets_kept (h : Phase) (start : Nat) (s : State) :
    kept (renewTargets h start s) = kept s := by
  unfold renewTargets
  simp only [State.upAdc_kept]

theorem clearPeriodLatch_kept (h : Phase) (s : State) :
    kept (clearPeriodLatch h s) = kept s := by
  unfold clearPeriodLatch
  simp only [kept_ite, ite_self, State.upWin_kept]

theorem newPeriod_kept (h : Phase) (s : State) :
    kept (newPeriod h s) = kept s := by
  unfold newPeriod
  simp only [State.upPhase_kept, renewTargets_kept]

theorem firstPulse_kept (r : Rail) (h : Phase) (s : State) :
    kept (firstPulse r h s) = kept s := by
  unfold firstPulse
  simp only [kept_ite, ite_self, beginFall_kept]

theorem carrierStarts_kept (h : Phase) (s : State) :
    kept (carrierStarts h s) = kept s := by
  unfold carrierStarts
  simp only [kept_ite, ite_self, State.upPhase_kept, rackPhase_kept, railPeriod_kept,
      clearPeriodLatch_kept, newPeriod_kept, firstPulse_kept]

theorem execCarrierPeriodStart_kept (h : Phase) (s : State) :
    ∃ t, execCarrierPeriodStart h s = .next t ∧ kept t = kept s := by
  unfold execCarrierPeriodStart; refine ⟨_, rfl, ?_⟩
  simp only [kept_ite, ite_self, clearPeriodLatch_kept, newPeriod_kept, carrierStarts_kept]

theorem execStageFault_kept (h : Phase) (s : State) :
    ∃ t, execStageFault h s = .next t ∧ kept t = kept s := by
  unfold execStageFault; refine ⟨_, rfl, ?_⟩
  simp only [kept_ite, ite_self, State.upPhase_kept, rackPhase_kept]

theorem execPhasePlan_kept (q : Ring) (buf : List Word) (s : State) :
    ∃ t, execPhasePlan q buf s = .next t ∧ kept t = kept s := by
  unfold execPhasePlan; refine ⟨_, rfl, ?_⟩
  split <;> simp only [runSet_kept]

theorem execPwmCommit_kept (m : Master) (v : Word) (s : State) :
    ∃ t, execPwmCommit m v s = .next t ∧ kept t = kept s := by
  unfold execPwmCommit; refine ⟨_, rfl, ?_⟩
  simp only [writeCommit_kept]

theorem replanRail_kept (r : Rail) (s : State) :
    kept (replanRail r s) = kept s := by
  unfold replanRail
  simp only [kept_ite, ite_self, State.upPwmRail_kept, showStates_kept, setActive_kept,
      stopShedding_kept]

theorem replan_kept (s : State) :
    kept (replan s) = kept s := by
  unfold replan
  repeat' (first
    | simp only [State.upPhase_kept, refreshAll_kept, replanRail_kept]
    | (with_reducible refine (kept_each _ _ _ (fun _ _ => ?_)).trans ?_ <;> beta_reduce)
    | split)

theorem applyActive_kept (r : Rail) (act : BitVec 48) (light : Bool) (s : State) :
    kept (applyActive r act light s) = kept s := by
  unfold applyActive
  simp only [kept_ite, ite_self, State.upPwmRail_kept, setActive_kept, refreshPhases_kept]

theorem execPhaseAdmit_kept (q : Ring) (csHigh : Bool) (s : State) :
    ∃ t, execPhaseAdmit q csHigh s = .next t ∧ kept t = kept s := by
  unfold execPhaseAdmit; refine ⟨_, rfl, ?_⟩
  repeat' (first
    | simp only [kept_ite, ite_self, State.upPhase_kept, State.upPwmRail_kept, complete_kept, act__kept]
    | split)

theorem admitDone_kept (r : Rail) (h : Phase) (s : State) :
    kept (admitDone r h s) = kept s := by
  unfold admitDone
  split <;> simp only [State.upPwmRail_kept, complete_kept]

theorem beginRamp_kept (r : Rail) (h : Phase) (act : BitVec 48) (s : State) :
    kept (beginRamp r h act s) = kept s := by
  unfold beginRamp
  repeat' (first | simp only [State.upPhase_kept, State.upPwmRail_kept, sendActive_kept] | split)

theorem offsetGood_kept (r : Rail) (h : Phase) (z : Int) (s : State) :
    kept (offsetGood r h z s) = kept s := by
  unfold offsetGood
  repeat' (first
    | simp only [kept_ite, State.upPhase_kept, freeSub_kept, saveHealth_kept, admitDone_kept,
        beginRamp_kept]
    | split)

theorem offsetBad_kept (r : Rail) (h : Phase) (s : State) :
    kept (offsetBad r h s) = kept s := by
  unfold offsetBad
  simp only [State.upPhase_kept, raise_kept, endAdmit_kept]

theorem execPhaseAdmitOffsetDone_kept (h : Phase) (s : State) :
    ∃ t, execPhaseAdmitOffsetDone h s = .next t ∧ kept t = kept s := by
  unfold execPhaseAdmitOffsetDone; refine ⟨_, rfl, ?_⟩
  simp only [kept_ite, ite_self, offsetGood_kept, offsetBad_kept]

theorem execPhaseAdmitRampEnd_kept (h : Phase) (s : State) :
    ∃ t, execPhaseAdmitRampEnd h s = .next t ∧ kept t = kept s := by
  unfold execPhaseAdmitRampEnd; refine ⟨_, rfl, ?_⟩
  repeat' (first | simp only [kept_ite, State.upPhase_kept, sendActive_kept, admitDone_kept] | split)

theorem dropExpected_kept (e : Expected) (s : State) :
    kept (dropExpected e s) = kept s := by
  unfold dropExpected
  simp only [State.upEng_kept]

theorem missRecords_kept (es : List Expected) (s : State) : kept (missRecords es s) = kept s := by
  induction es generalizing s with
  | nil => rfl
  | cons e es ih =>
    unfold missRecords
    dsimp only
    rw [ih]
    split <;> simp only [staleError_kept, dropExpected_kept]

theorem restampPairBy_kept (p : PairNo) (slot : Nat) (s : State) :
    kept (restampPairBy p slot s) = kept s := by
  unfold restampPairBy
  simp only [restampBy_kept]

theorem arrives_kept (p : PairNo) (r : Rail) (mine : Expected → Bool) (n : Nat) (event : State → State)
    (s heard : State) (he : ∀ s, kept (event s) = kept s) (hh : kept heard = kept s) :
    kept (arrives p r mine n event s heard).1 = kept s := by
  unfold arrives
  dsimp only
  split
  · rfl
  · split
    · rfl
    · split
      · exact restampPairBy_kept _ _ _
      · simp only [dropExpected_kept, missRecords_kept, he, State.upPair_kept, restampPairBy_kept, hh]

theorem hearSample_kept (p : PairNo) (r : Rail) (mine : Expected → Bool) (hdr : Word) (stale : State →
    State)
    (s : State) (hl : ∀ s, kept (stale s) = kept s) :
    kept (hearSample p r mine hdr stale s).1 = kept s := by
  unfold hearSample
  dsimp only
  split
  · exact arrives_kept _ _ _ _ _ _ _ (fun _ => rfl) (hear_kept _ _ _ _ _)
  · exact arrives_kept _ _ _ _ _ _ _ (fun _ => raiseFabric_kept _ _ _ _) (hear_kept _ _ _ _ _)
  · rw [hl, raiseFabric_kept, hear_kept]
  · split
    · rw [hl, raiseFabric_kept, dropExpected_kept, State.upPair_kept]
    · rw [raiseFabric_kept]

theorem reloadRail_kept (r : Rail) (s : State) :
    kept (reloadRail r s) = kept s := by
  unfold reloadRail
  repeat' (first
    | simp only [State.upEngRail_kept, State.upPhase_kept, raise_kept]
    | (with_reducible refine (kept_each _ _ _ (fun _ _ => ?_)).trans ?_ <;> beta_reduce)
    | split)

theorem countMove_kept (r : Rail) (s : State) :
    kept (countMove r s) = kept s := by
  unfold countMove
  repeat' (first
    | simp only [kept_ite, State.upEngRail_kept, issueMarkers_kept, pushMarkers_kept]
    | split)

theorem activeSample_kept (r : Rail) (value : Int) (slot : Nat) (s : State) :
    kept (activeSample r value slot s) = kept s := by
  unfold activeSample
  repeat' (first
    | simp only [kept_ite, ite_self, State.upEngRail_kept, State.upFb_kept, enterTrack_kept,
        runLaw_kept, leaveLight_kept, reloadRail_kept, countMove_kept]
    | split)

theorem freshError_kept (r : Rail) (rec : BitVec 64) (s : State) :
    kept (freshError r rec s) = kept s := by
  unfold freshError
  simp only [kept_ite, ite_self, State.upFb_kept, overvoltCheck_kept, rangeCheck_kept, ditherCheck_kept,
      joinBall_kept, disagreeCheck_kept, countMove_kept, activeSample_kept]

theorem execErrorSample_kept (r : Rail) (hdr : Word) (seen : LaneSeen) (s : State) :
    ∃ t, execErrorSample r hdr seen s = .next t ∧ kept t = kept s := by
  unfold execErrorSample
  refine ⟨_, rfl, ?_⟩
  have hh : ∀ p m s, kept (hearSample p r m hdr (staleError r) s).1 = kept s := fun p m s =>
    hearSample_kept _ _ _ _ _ _ (staleError_kept r)
  dsimp only
  split
  · rfl
  · split
    · rw [hh]
    · split
      · rw [freshError_kept, hh]
      · rw [staleError_kept, hh]

theorem trimUpdate_kept (h : Phase) (i : Int) (s : State) :
    kept (trimUpdate h i s) = kept s := by
  unfold trimUpdate
  simp only [State.upPhase_kept, noteOverflow_kept]

theorem plausible_kept (h : Phase) (i : Int) (s : State) :
    kept (plausible h i s) = kept s := by
  unfold plausible
  simp only [kept_ite, ite_self, State.upPhase_kept, rackPhase_kept]

theorem freshCurrent_kept (h : Phase) (value : Int) (s : State) :
    kept (freshCurrent h value s) = kept s := by
  unfold freshCurrent
  simp only [kept_ite, ite_self, State.upPhase_kept, trimUpdate_kept, plausible_kept]

theorem execCurrentSample_kept (h : Phase) (hdr : Word) (seen : LaneSeen) (s : State) :
    ∃ t, execCurrentSample h hdr seen s = .next t ∧ kept t = kept s := by
  unfold execCurrentSample
  refine ⟨_, rfl, ?_⟩
  have hh : ∀ p r m s, kept (hearSample p r m hdr id s).1 = kept s := fun p r m s =>
    hearSample_kept _ _ _ _ _ _ (fun _ => rfl)
  dsimp only
  split
  · rfl
  · split
    · rw [hh]
    · split
      · rw [freshCurrent_kept, hh]
      · rw [hh]

theorem vbusResult_kept (value : Int) (s : State) :
    kept (vbusResult value s) = kept s := by
  unfold vbusResult
  repeat' (first
    | simp only [kept_ite, ite_self, State.upEngRail_kept, noteOverflow_kept]
    | (with_reducible refine (kept_each _ _ _ (fun _ _ => ?_)).trans ?_ <;> beta_reduce)
    | split)

theorem execVbusStale_kept (r : Rail) (s : State) :
    ∃ t, execVbusStale r s = .next t ∧ kept t = kept s := by
  unfold execVbusStale; refine ⟨_, rfl, ?_⟩
  simp only [kept_ite, ite_self, State.upEngRail_kept, raise_kept]

theorem followFfv_kept (r : Rail) (s : State) :
    kept (followFfv r s) = kept s := by
  unfold followFfv
  simp only [kept_ite, ite_self, State.upEngRail_kept]

theorem execForecastMissCheck_kept (r : Rail) (s : State) :
    ∃ t, execForecastMissCheck r s = .next t ∧ kept t = kept s := by
  unfold execForecastMissCheck; refine ⟨_, rfl, ?_⟩
  split <;> simp only [kept_ite, ite_self, State.upEngRail_kept, alertPorts_kept, raise_kept]

theorem execForecastSuspendEnd_kept (r : Rail) (s : State) :
    ∃ t, execForecastSuspendEnd r s = .next t ∧ kept t = kept s := by
  unfold execForecastSuspendEnd; refine ⟨_, rfl, ?_⟩
  simp only [State.upEngRail_kept]

theorem writeCheckpoint_kept (r : Rail) (whole bad : Bool) (s : State) :
    kept (writeCheckpoint r whole bad s) = kept s := by
  unfold writeCheckpoint
  simp only [kept_ite, ite_self, State.upEngRail_kept, raise_kept]

theorem hearCheckpoint_kept (r : Rail) (ns : List Nat) (hs : List (Option Word)) (s : State) :
    kept (hearCheckpoint r ns hs s).1 = kept s := by
  induction ns generalizing hs s with
  | nil => cases hs <;> rfl
  | cons n ns ih =>
    match hs with
    | [] => rfl
    | none :: hs => exact ih hs s
    | some w :: hs =>
      unfold hearCheckpoint
      dsimp only
      rw [ih]
      split
      · rw [hear_kept]
      · rw [raiseFabric_kept, hear_kept]

theorem takeCheckpoints_kept (bad : BitVec 8) (rs : List Rail) (hs : List (Option Word)) (s : State) :
    kept (takeCheckpoints bad rs hs s) = kept s := by
  induction rs generalizing hs s with
  | nil => rfl
  | cons r rs ih =>
    unfold takeCheckpoints
    dsimp only
    rw [ih, writeCheckpoint_kept, hearCheckpoint_kept]

theorem execCheckpoint_kept (p : PairNo) (hdrs : List (Option Word)) (badCrc : BitVec 8) (s : State) :
    ∃ t, execCheckpoint p hdrs badCrc s = .next t ∧ kept t = kept s := by
  unfold execCheckpoint; refine ⟨_, rfl, ?_⟩
  simp only [kept_ite, ite_self, State.upPair_kept, takeCheckpoints_kept]

theorem pairFails_kept (p : PairNo) (s : State) :
    kept (pairFails p s) = kept s := by
  unfold pairFails
  simp only [State.upPair_kept, raise_kept]

theorem lockstepRail_kept (r : Rail) (s : State) :
    kept (lockstepRail r s) = kept s := by
  unfold lockstepRail
  simp only [kept_ite, ite_self, State.upFb_kept, heelEntry_kept, heelAgain_kept]

theorem blockPair_kept (p : PairNo) (s : State) :
    kept (blockPair p s) = kept s := by
  unfold blockPair
  simp only [State.upEng_kept, forgetSeq_kept]

theorem execLockstepMismatch_kept (p : PairNo) (cycle : Fin 22) (s : State) :
    ∃ t, execLockstepMismatch p cycle s = .next t ∧ kept t = kept s := by
  unfold execLockstepMismatch; refine ⟨_, rfl, ?_⟩
  repeat' (first
    | simp only [kept_ite, ite_self, State.upPair_kept, raise_kept, raiseClassA_kept, pairFails_kept,
        lockstepRail_kept, blockPair_kept]
    | (with_reducible refine (kept_each _ _ _ (fun _ _ => ?_)).trans ?_ <;> beta_reduce)
    | split)

theorem restoreRail_kept (r : Rail) (s : State) :
    kept (restoreRail r s) = kept s := by
  unfold restoreRail
  simp only [kept_ite, ite_self, enterTrack_kept, reloadRail_kept]

theorem restampPair_kept (p : PairNo) (s : State) :
    kept (restampPair p s) = kept s := by
  unfold restampPair
  simp only [State.upFab_kept]

theorem execLanePairRestore_kept (p : PairNo) (passed : Bool) (s : State) :
    ∃ t, execLanePairRestore p passed s = .next t ∧ kept t = kept s := by
  unfold execLanePairRestore; refine ⟨_, rfl, ?_⟩
  repeat' (first
    | simp only [kept_ite, State.upPair_kept, pairFails_kept, restoreRail_kept, restampPair_kept]
    | (with_reducible refine (kept_each _ _ _ (fun _ _ => ?_)).trans ?_ <;> beta_reduce)
    | split)

theorem execTrackEnd_kept (r : Rail) (s : State) :
    ∃ t, execTrackEnd r s = .next t ∧ kept t = kept s := by
  unfold execTrackEnd; refine ⟨_, rfl, ?_⟩
  simp only [kept_ite, ite_self, heelReturn_kept]

theorem putBank_kept (r : Rail) (ws : List Word) (s : State) :
    kept (putBank r ws s) = kept s := by
  unfold putBank
  simp only [State.upEngRail_kept]

theorem execEngBankLoad_kept (q : Ring) (buf : List Word) (s : State) :
    ∃ t, execEngBankLoad q buf s = .next t ∧ kept t = kept s := by
  unfold execEngBankLoad; refine ⟨_, rfl, ?_⟩
  split <;> simp only [kept_ite, ite_self, complete_kept, putBank_kept]

theorem execEngLastLoad_kept (q : Ring) (buf : List Word) (s : State) :
    ∃ t, execEngLastLoad q buf s = .next t ∧ kept t = kept s := by
  unfold execEngLastLoad; refine ⟨_, rfl, ?_⟩
  split <;> simp only [kept_ite, ite_self, State.upEngRail_kept, complete_kept]

theorem execEngBankSwap_kept (q : Ring) (s : State) :
    ∃ t, execEngBankSwap q s = .next t ∧ kept t = kept s := by
  unfold execEngBankSwap; refine ⟨_, rfl, ?_⟩
  repeat' (first | simp only [kept_ite, complete_kept, act__kept, pushMarkers_kept] | split)

theorem writeSwap_kept (m : Master) (v : Word) (s : State) :
    kept (writeSwap m v s) = kept s := by
  unfold writeSwap
  repeat' (first
    | with_reducible rfl
    | simp only [rejectWrite_kept, pushMarkers_kept]
    | (with_reducible refine (kept_each _ _ _ (fun _ _ => ?_)).trans ?_ <;> beta_reduce)
    | (with_reducible refine (kept_foldl _ _ _ (fun _ _ => ?_)).trans ?_ <;> beta_reduce)
    | (with_reducible refine Eq.trans (State.upNvm_kept _ _ ?_) ?_; exact fun _ => rfl)
    | (with_reducible refine Eq.trans (State.upPwr_kept _ _ ?_) ?_; exact fun _ => rfl)
    | (with_reducible refine (regWrite_kept _ _ _ _ _ _ _ (fun _ => ?_)).trans ?_ <;> beta_reduce)
    | split)

theorem execEngSwapBanks_kept (m : Master) (v : Word) (s : State) :
    ∃ t, execEngSwapBanks m v s = .next t ∧ kept t = kept s := by
  unfold execEngSwapBanks; refine ⟨_, rfl, ?_⟩
  simp only [writeSwap_kept]

theorem execEngSwapLastTables_kept (m : Master) (v : Word) (s : State) :
    ∃ t, execEngSwapLastTables m v s = .next t ∧ kept t = kept s := by
  unfold execEngSwapLastTables; refine ⟨_, rfl, ?_⟩
  simp only [writeSwap_kept]

theorem writeBankWord_kept (m : Master) (off : Nat) (v : Word) (s : State) :
    kept (writeBankWord m off v s) = kept s := by
  unfold writeBankWord
  repeat' (first
    | with_reducible rfl
    | simp only [kept_ite, ite_self, State.upEngRail_kept, rejectWrite_kept]
    | (with_reducible refine (kept_each _ _ _ (fun _ _ => ?_)).trans ?_ <;> beta_reduce)
    | (with_reducible refine (kept_foldl _ _ _ (fun _ _ => ?_)).trans ?_ <;> beta_reduce)
    | (with_reducible refine Eq.trans (State.upNvm_kept _ _ ?_) ?_; exact fun _ => rfl)
    | (with_reducible refine Eq.trans (State.upPwr_kept _ _ ?_) ?_; exact fun _ => rfl)
    | (with_reducible refine (regWrite_kept _ _ _ _ _ _ _ (fun _ => ?_)).trans ?_ <;> beta_reduce))

theorem execEngBankWordWrite_kept (m : Master) (off : Nat) (v : Word) (s : State) :
    ∃ t, execEngBankWordWrite m off v s = .next t ∧ kept t = kept s := by
  unfold execEngBankWordWrite; refine ⟨_, rfl, ?_⟩
  simp only [kept_ite, ite_self, writeBankWord_kept]

theorem writeLtld_kept (m : Master) (off : Nat) (v : Word) (s : State) :
    kept (writeLtld m off v s) = kept s := by
  unfold writeLtld
  repeat' (first
    | with_reducible rfl
    | simp only [kept_ite, ite_self, State.upEngRail_kept, rejectWrite_kept]
    | (with_reducible refine (kept_each _ _ _ (fun _ _ => ?_)).trans ?_ <;> beta_reduce)
    | (with_reducible refine (kept_foldl _ _ _ (fun _ _ => ?_)).trans ?_ <;> beta_reduce)
    | (with_reducible refine Eq.trans (State.upNvm_kept _ _ ?_) ?_; exact fun _ => rfl)
    | (with_reducible refine Eq.trans (State.upPwr_kept _ _ ?_) ?_; exact fun _ => rfl)
    | (with_reducible refine (regWrite_kept _ _ _ _ _ _ _ (fun _ => ?_)).trans ?_ <;> beta_reduce))

theorem execEngLtldWrite_kept (m : Master) (off : Nat) (v : Word) (s : State) :
    ∃ t, execEngLtldWrite m off v s = .next t ∧ kept t = kept s := by
  unfold execEngLtldWrite; refine ⟨_, rfl, ?_⟩
  simp only [kept_ite, ite_self, writeLtld_kept]

theorem execEngCommit_kept (m : Master) (v : Word) (s : State) :
    ∃ t, execEngCommit m v s = .next t ∧ kept t = kept s := by
  unfold execEngCommit; refine ⟨_, rfl, ?_⟩
  simp only [writeCommit_kept]

theorem execEngAssign_kept (q : Ring) (s : State) :
    ∃ t, execEngAssign q s = .next t ∧ kept t = kept s := by
  unfold execEngAssign; refine ⟨_, rfl, ?_⟩
  split <;> simp only [kept_ite, ite_self, State.upRegs_kept, complete_kept, act__kept,
      pushMarkers_kept, beginMove_kept]

theorem countRefusal_kept (s : State) :
    kept (countRefusal s) = kept s := by
  unfold countRefusal
  simp only [State.upLdg_kept]

theorem book_kept (f : BookFor) (mJ : Nat) (s : State) :
    kept (book f mJ s) = kept s := by
  unfold book
  simp only [kept_ite, ite_self, State.upLdg_kept]

theorem dropNewest_kept (f : BookFor) (s : State) :
    kept (dropNewest f s) = kept s := by
  unfold dropNewest
  simp only [State.upLdg_kept]

theorem keepNewest_kept (f : BookFor) (s : State) :
    kept (keepNewest f s) = kept s := by
  unfold keepNewest
  simp only [State.upLdg_kept]

theorem seeWord_kept (master : Nat) (w : Nat) (e : Ecc) (s : State) :
    kept (seeWord master w e s) = kept s := by
  unfold seeWord
  repeat' (first
    | simp only [raiseAccess_kept]
    | (with_reducible refine Eq.trans (State.upNvm_kept _ _ ?_) ?_; exact fun _ => rfl)
    | split)

theorem seeRegion_kept (master : Nat) (ecc : EccReport) (w n : Nat) (s : State) :
    kept (seeRegion master ecc w n s) = kept s := by
  unfold seeRegion
  repeat' (first
    | simp only [seeWord_kept]
    | (with_reducible refine (kept_each _ _ _ (fun _ _ => ?_)).trans ?_ <;> beta_reduce)
    | split)

theorem seeWords_kept (master : Nat) (ecc : EccReport) (w n : Nat) (s : State) :
    kept (seeWords master ecc w n s) = kept s := by
  unfold seeWords
  repeat' (first
    | simp only [seeWord_kept]
    | (with_reducible refine (kept_each _ _ _ (fun _ _ => ?_)).trans ?_ <;> beta_reduce)
    | split)

theorem noteCopy_kept (n : Fin 64) (k : Fin 2) (c : CopySeen) (s : State) :
    kept (noteCopy n k c s) = kept s := by
  unfold noteCopy
  repeat' (first
    | simp only [kept_ite, raise_kept]
    | (with_reducible refine Eq.trans (State.upNvm_kept _ _ ?_) ?_; exact fun _ => rfl)
    | split)

theorem scanRecord_kept (ecc : EccReport) (n : Fin 64) (s : State) :
    kept (scanRecord ecc n s) = kept s := by
  unfold scanRecord
  repeat' (first
    | simp only [kept_ite, raise_kept, seeWords_kept, noteCopy_kept]
    | (with_reducible refine Eq.trans (State.upNvm_kept _ _ ?_) ?_; exact fun _ => rfl)
    | split)

theorem scanRecords_kept (ecc : EccReport) (s : State) :
    kept (scanRecords ecc s) = kept s := by
  unfold scanRecords
  repeat' (first
    | simp only [scanRecord_kept]
    | (with_reducible refine (kept_each _ _ _ (fun _ _ => ?_)).trans ?_ <;> beta_reduce)
    | split)

theorem recLook_kept (ecc : EccReport) (n : Fin 64) (s : State) :
    kept (recLook ecc n s).s = kept s := by
  unfold recLook
  repeat' (first
    | simp only [noteCopy_kept]
    | (with_reducible refine Eq.trans (State.upNvm_kept _ _ ?_) ?_; exact fun _ => rfl)
    | split)

theorem raiseEnergy_kept (blk elem cause hi : Nat) (s : State) :
    kept (raiseEnergy blk elem cause hi s) = kept s := by
  unfold raiseEnergy
  simp only [raiseLimited_kept]

theorem energyCommit_kept (id : Fin 64) (payload : List Byte) (s : State) :
    kept (energyCommit id payload s) = kept s := by
  unfold energyCommit
  simp only [kept_ite, ite_self, recordCommit_kept, raiseEnergy_kept]

theorem commitGauge_kept (s : State) :
    kept (commitGauge s) = kept s := by
  unfold commitGauge
  simp only [State.upGau_kept, energyCommit_kept]

theorem closeBlackout_kept (outcome : Nat) (s : State) :
    kept (closeBlackout outcome s) = kept s := by
  unfold closeBlackout
  split <;> simp only [State.upLdg_kept, energyCommit_kept]

theorem spentIfDone_kept (s : State) :
    kept (spentIfDone s) = kept s := by
  unfold spentIfDone
  simp only [kept_ite, ite_self, State.upLdg_kept, countUp_kept, commitGauge_kept, closeBlackout_kept]

theorem divFree_kept (a b : Rat) (s : State) :
    kept (divFree a b s).1 = kept s := by
  unfold divFree
  simp only [kept_ite_fst, ite_self, takeFree_kept]

theorem disqualify_kept (reason : Nat) (s : State) :
    kept (disqualify reason s) = kept s := by
  unfold disqualify
  simp only [kept_ite, ite_self, State.upGau_kept, raiseEnergy_kept]

theorem anchor_kept (x : Rat) (s : State) :
    kept (anchor x s) = kept s := by
  unfold anchor
  simp only [State.upGau_kept]

theorem fullDetected_kept (s : State) :
    kept (fullDetected s) = kept s := by
  unfold fullDetected
  simp only [State.upGau_kept, anchor_kept]

theorem restReading_kept (v : Rat) (row : List OcvPoint) (s : State) :
    kept (restReading v row s) = kept s := by
  unfold restReading
  simp only [State.upGau_kept, anchor_kept]

theorem learnDone_kept (l : Learn) (s : State) :
    kept (learnDone l s) = kept s := by
  unfold learnDone
  simp only [kept_ite, ite_self, State.upGau_kept, countUp_kept, raiseEnergy_kept, energyCommit_kept,
      commitGauge_kept]

theorem gaugeNew_kept (s : State) :
    kept (gaugeNew s) = kept s := by
  unfold gaugeNew
  simp only [State.upGau_kept]

theorem gaugeFrom_kept (p : List Byte) (s : State) :
    kept (gaugeFrom p s) = kept s := by
  unfold gaugeFrom
  simp only [State.upGau_kept, gaugeNew_kept]

theorem gaugeStart_kept (ecc : EccReport) (s : State) :
    kept (gaugeStart ecc s) = kept s := by
  unfold gaugeStart
  repeat' (first | simp only [recLook_kept, gaugeNew_kept, gaugeFrom_kept] | split)

theorem gaugeBoot_kept (ecc : EccReport) (s : State) :
    kept (gaugeBoot ecc s) = kept s := by
  unfold gaugeBoot
  repeat' (first
    | simp only [kept_ite, State.upLdg_kept, State.upGau_kept, gaugeNew_kept, gaugeStart_kept]
    | split)

theorem relaxOne_kept (start : Nat) (i v : Rat) (s : State) (x : Relax) :
    kept (relaxOne start i v s x) = kept s := by
  unfold relaxOne
  repeat' (first | simp only [kept_ite, ite_self, State.upGau_kept] | split)

theorem relaxMean_kept (start : Nat) (i v : Rat) (s : State) :
    kept (relaxMean start i v s) = kept s := by
  unfold relaxMean
  repeat' (first
    | with_reducible rfl
    | simp only [State.upGau_kept, relaxOne_kept]
    | (with_reducible refine (kept_each _ _ _ (fun _ _ => ?_)).trans ?_ <;> beta_reduce)
    | (with_reducible refine (kept_foldl _ _ _ (fun _ _ => ?_)).trans ?_ <;> beta_reduce))

theorem stepMeans_kept (start : Nat) (s : State) :
    kept (stepMeans start s) = kept s := by
  unfold stepMeans
  split <;> simp only [kept_ite, ite_self, State.upGau_kept]

theorem closeMean_kept (at_ : Nat) (s : State) :
    kept (closeMean at_ s) = kept s := by
  unfold closeMean
  simp only [kept_ite, ite_self, State.upGau_kept, relaxMean_kept, stepMeans_kept]

theorem findStep_kept (last : Option Sample) (at_ : Nat) (s : State) :
    kept (findStep last at_ s) = kept s := by
  unfold findStep
  simp only [kept_ite, ite_self, State.upGau_kept, closeMean_kept]

theorem gaugeFresh_kept (s : State) :
    kept (gaugeFresh s) = kept s := by
  unfold gaugeFresh
  simp only [State.upGau_kept]

theorem feedPackV_kept (x : Sample) (s : State) :
    kept (feedPackV x s) = kept s := by
  unfold feedPackV
  simp only [State.upGau_kept, findStep_kept, gaugeFresh_kept]

theorem feedPackI_kept (x : Sample) (s : State) :
    kept (feedPackI x s) = kept s := by
  unfold feedPackI
  simp only [State.upGau_kept, findStep_kept, gaugeFresh_kept]

theorem feedPackT_kept (x : Sample) (s : State) :
    kept (feedPackT x s) = kept s := by
  unfold feedPackT
  simp only [State.upGau_kept, gaugeFresh_kept]

theorem gaugeMeans_kept (s : State) :
    kept (gaugeMeans s) = kept s := by
  unfold gaugeMeans
  simp only [kept_ite, ite_self, State.upGau_kept, raiseEnergy_kept, disqualify_kept]

theorem gaugeModel_kept (s : State) :
    kept (gaugeModel s) = kept s := by
  unfold gaugeModel
  simp only [State.upGau_kept, divFree_kept]

theorem gaugeAnchors_kept (row : List OcvPoint) (s : State) :
    kept (gaugeAnchors row s) = kept s := by
  unfold gaugeAnchors
  simp only [kept_ite, ite_self, State.upGau_kept, fullDetected_kept, restReading_kept]

theorem gaugeHours_kept (s : State) :
    kept (gaugeHours s) = kept s := by
  unfold gaugeHours
  simp only [kept_ite, ite_self, State.upGau_kept, raiseEnergy_kept]

theorem gaugeLearn_kept (s : State) :
    kept (gaugeLearn s) = kept s := by
  unfold gaugeLearn
  repeat' (first
    | simp only [kept_ite, ite_self, State.upGau_kept, disqualify_kept, learnDone_kept]
    | split)

theorem gaugeDisagree_kept (s : State) :
    kept (gaugeDisagree s) = kept s := by
  unfold gaugeDisagree
  simp only [kept_ite, ite_self, State.upGau_kept, raiseEnergy_kept, disqualify_kept]

theorem gaugeReported_kept (change : Rat) (s : State) :
    kept (gaugeReported change s) = kept s := by
  unfold gaugeReported
  simp only [State.upGau_kept]

theorem gaugeEnergy_kept (row : List OcvPoint) (s : State) :
    kept (gaugeEnergy row s) = kept s := by
  unfold gaugeEnergy
  simp only [State.upLdg_kept, divFree_kept]

theorem gaugeUpdate_kept (s : State) :
    kept (gaugeUpdate s) = kept s := by
  unfold gaugeUpdate
  simp only [kept_ite, ite_self, State.upLdg_kept, State.upGau_kept, divFree_kept, gaugeMeans_kept,
      gaugeModel_kept, gaugeAnchors_kept, gaugeHours_kept, gaugeLearn_kept, gaugeDisagree_kept,
      gaugeReported_kept, gaugeEnergy_kept]

theorem execHeelBlankExpiry_kept (r : Rail) (s : State) :
    ∃ t, execHeelBlankExpiry r s = .next t ∧ kept t = kept s := by
  unfold execHeelBlankExpiry; refine ⟨_, rfl, ?_⟩
  simp only [kept_ite, ite_self, heelFire_kept]

theorem measure_kept (r : Rail) (ok : Bool) (s : State) :
    kept (measure r ok s) = kept s := by
  unfold measure
  simp only [kept_ite, ite_self, State.upFb_kept]

theorem execHeelOnTimeEnd_kept (r : Rail) (h : Phase) (inTolerance : Bool) (s : State) :
    ∃ t, execHeelOnTimeEnd r h inTolerance s = .next t ∧ kept t = kept s := by
  unfold execHeelOnTimeEnd; refine ⟨_, rfl, ?_⟩
  simp only [kept_ite, ite_self, heelEnd_kept, heelFailed_kept, measure_kept]

theorem heelChange_kept (before : Bool) (r : Rail) (elem cause : Nat) (s : State) :
    kept (heelChange before r elem cause s) = kept s := by
  unfold heelChange
  simp only [kept_ite, ite_self, raise_kept]

theorem execHeelTestPulse_kept (r : Rail) (inTolerance : Bool) (s : State) :
    ∃ t, execHeelTestPulse r inTolerance s = .next t ∧ kept t = kept s := by
  unfold execHeelTestPulse; refine ⟨_, rfl, ?_⟩
  simp only [kept_ite, ite_self, State.upFb_kept, measure_kept, heelChange_kept]

theorem execHeelStall_kept (r : Rail) (ceiling : Bool) (s : State) :
    ∃ t, execHeelStall r ceiling s = .next t ∧ kept t = kept s := by
  unfold execHeelStall; refine ⟨_, rfl, ?_⟩
  simp only [kept_ite, ite_self, heelFailed_kept]

theorem aoEdge_kept (s : State) :
    kept (aoEdge s) = kept s := by
  unfold aoEdge
  simp only [kept_ite, ite_self, State.upTmr_kept]

theorem passSlots_kept (n : Nat) (s : State) :
    kept (passSlots n s) = kept s := by
  unfold passSlots
  simp only [kept_ite, ite_self, State.upClk_kept, State.upTmr_kept, aoEdge_kept]

theorem endSlot_kept (s : State) :
    kept (endSlot s) = kept s := by
  unfold endSlot
  simp only [passSlots_kept]

theorem waitEdge_kept (s : State) :
    kept (waitEdge s) = kept s := by
  unfold waitEdge
  simp only [passSlots_kept]

theorem idleSlot_kept (s : State) :
    kept (idleSlot s) = kept s := by
  unfold idleSlot
  simp only [kept_ite, ite_self, endSlot_kept, waitEdge_kept]

theorem staleUnbuilt_kept (p : SliceNo → Nat → Bool) (s : State) :
    kept (staleUnbuilt p s) = kept s := by
  unfold staleUnbuilt
  simp only [State.upEng_kept, State.upAdc_kept]

theorem fallDue_kept (s : State) :
    kept (fallDue s) = kept s := by
  unfold fallDue
  simp only [State.upAdc_kept]

theorem removeDue_kept (d : LaneDue) (s : State) :
    kept (removeDue d s) = kept s := by
  unfold removeDue
  simp only [State.upAdc_kept]

theorem countError_kept (r : Rail) (s : State) :
    kept (countError r s) = kept s := by
  unfold countError
  simp only [State.upAdc_kept]

theorem serveLane_kept (d : LaneDue) (n : SliceNo) (pos : Pos) (code : BitVec 12) (flagged : Bool) (s :
    State) :
    kept (serveLane d n pos code flagged s) = kept s := by
  unfold serveLane
  split <;> simp only [kept_ite, ite_self, State.upEng_kept, removeDue_kept, countError_kept]

theorem takeSample_kept (u : FreeUse) (item c : Nat) (n : SliceNo) (pos : Pos) (code : BitVec 12)
    (flagged : Bool) (s : State) :
    kept (takeSample u item c n pos code flagged s) = kept s := by
  unfold takeSample
  simp only [State.upAdc_kept]

theorem countRegular_kept (s : State) :
    kept (countRegular s) = kept s := by
  unfold countRegular
  simp only [State.upAdc_kept]

theorem countInjected_kept (s : State) :
    kept (countInjected s) = kept s := by
  unfold countInjected
  simp only [State.upAdc_kept]

theorem freeSlot_kept (u : FreeUse) (n : SliceNo) (pos : Pos) (code : BitVec 12) (flagged : Bool) (s :
    State) :
    kept (freeSlot u n pos code flagged s) = kept s := by
  unfold freeSlot
  repeat' (first | simp only [takeSample_kept, countRegular_kept, countInjected_kept] | split)

theorem land_kept (s : State) :
    kept (land s) = kept s := by
  unfold land
  simp only [State.upAdc_kept]

theorem dropTaken_kept (u : FreeUse) (s : State) :
    kept (dropTaken u s) = kept s := by
  unfold dropTaken
  simp only [State.upAdc_kept]

theorem monitor_kept (n : SliceNo) (flagged : Bool) (s : State) :
    kept (monitor n flagged s) = kept s := by
  unfold monitor
  simp only [State.upSlice_kept]

theorem shadowMonitor_kept (t : Option Tour) (pos : Pos) (flagged : Bool) (s : State) :
    kept (shadowMonitor t pos flagged s) = kept s := by
  unfold shadowMonitor
  split <;> simp only [kept_ite, ite_self, monitor_kept]

theorem convertSlot_kept (n : SliceNo) (pos : Pos) (code : BitVec 12) (flagged : Bool) (s : State) :
    kept (convertSlot n pos code flagged s) = kept s := by
  unfold convertSlot
  split <;> simp only [kept_ite, ite_self, serveLane_kept, freeSlot_kept, monitor_kept]

theorem execConversionSlot_kept (code : BitVec 12) (flagged : Flagged) (s : State) :
    ∃ t, execConversionSlot code flagged s = .next t ∧ kept t = kept s := by
  unfold execConversionSlot; refine ⟨_, rfl, ?_⟩
  simp only [kept_ite, ite_self, endSlot_kept, fallDue_kept, land_kept, shadowMonitor_kept,
      convertSlot_kept]

theorem execLoopLaneSkip_kept (s : State) :
    ∃ t, execLoopLaneSkip s = .next t ∧ kept t = kept s := by
  unfold execLoopLaneSkip; refine ⟨_, rfl, ?_⟩
  repeat' (first
    | simp only [State.upAdc_kept, raise_kept, staleError_kept, fallDue_kept, removeDue_kept,
        countError_kept]
    | split)

theorem execRegularRoundStart_kept (s : State) :
    ∃ t, execRegularRoundStart s = .next t ∧ kept t = kept s := by
  unfold execRegularRoundStart; refine ⟨_, rfl, ?_⟩
  simp only [kept_ite, ite_self, State.upAdc_kept]

theorem dropTriggers_kept (n : Nat) (s : State) :
    kept (dropTriggers n s) = kept s := by
  unfold dropTriggers
  repeat' (first
    | with_reducible rfl
    | simp only [State.upAdc_kept, raise_kept]
    | (with_reducible refine (kept_each _ _ _ (fun _ _ => ?_)).trans ?_ <;> beta_reduce)
    | (with_reducible refine (kept_foldl _ _ _ (fun _ _ => ?_)).trans ?_ <;> beta_reduce))

theorem execInjectedTrigger_kept (s : State) :
    ∃ t, execInjectedTrigger s = .next t ∧ kept t = kept s := by
  unfold execInjectedTrigger; refine ⟨_, rfl, ?_⟩
  simp only [kept_ite, ite_self, State.upAdc_kept, dropTriggers_kept]

theorem triggerInjected_kept (k : Nat) (s : State) :
    kept (triggerInjected k s) = kept s := by
  unfold triggerInjected
  simp only [kept_ite, ite_self, State.upAdc_kept]

theorem execAdcInject_kept (q : Ring) (s : State) :
    ∃ t, execAdcInject q s = .next t ∧ kept t = kept s := by
  unfold execAdcInject; refine ⟨_, rfl, ?_⟩
  split <;> simp only [kept_ite, ite_self, State.upAdc_kept, complete_kept, act__kept,
      dropTriggers_kept, triggerInjected_kept]

theorem execAdcCommit_kept (m : Master) (v : Word) (s : State) :
    ∃ t, execAdcCommit m v s = .next t ∧ kept t = kept s := by
  unfold execAdcCommit; refine ⟨_, rfl, ?_⟩
  simp only [writeCommit_kept]

theorem execAdcSeqLoad_kept (q : Ring) (buf : List Word) (s : State) :
    ∃ t, execAdcSeqLoad q buf s = .next t ∧ kept t = kept s := by
  unfold execAdcSeqLoad; refine ⟨_, rfl, ?_⟩
  split <;> simp only [runSet_kept]

theorem replanLane_kept (s : State) :
    kept (replanLane s) = kept s := by
  unfold replanLane
  simp only [State.upAdc_kept]

theorem restartSequences_kept (s : State) :
    kept (restartSequences s) = kept s := by
  unfold restartSequences
  repeat' (first
    | with_reducible rfl
    | simp only [State.upAdc_kept, complete_kept, dropTaken_kept]
    | (with_reducible refine (kept_each _ _ _ (fun _ _ => ?_)).trans ?_ <;> beta_reduce)
    | (with_reducible refine (kept_foldl _ _ _ (fun _ _ => ?_)).trans ?_ <;> beta_reduce))

theorem claim_kept (p : Pos) (s : State) :
    kept (claim p s) = kept s := by
  unfold claim
  split <;> simp only [State.upAdc_kept, pushMarkers_kept]

theorem maskUnserved_kept (s : State) :
    kept (maskUnserved s) = kept s := by
  unfold maskUnserved
  simp only [State.upAdc_kept]

theorem claimMasked_kept (s : State) :
    kept (claimMasked s) = kept s := by
  unfold claimMasked
  split <;> simp only [claim_kept]

theorem endSliceAdmit_kept (code : Nat) (s : State) :
    kept (endSliceAdmit code s) = kept s := by
  unfold endSliceAdmit
  split <;> simp only [State.upAdc_kept, complete_kept]

theorem replaceSlice_kept (n : SliceNo) (s : State) :
    kept (replaceSlice n s) = kept s := by
  unfold replaceSlice
  repeat' (first | simp only [kept_ite, ite_self, State.upAdc_kept, claim_kept] | split)

theorem steepLost_kept (s : State) :
    kept (steepLost s) = kept s := by
  unfold steepLost
  simp only [State.upAdc_kept, maskUnserved_kept]

theorem sliceFails_kept (n : SliceNo) (s : State) :
    kept (sliceFails n s) = kept s := by
  unfold sliceFails
  repeat' (first
    | simp only [State.upAdc_kept, State.upSlice_kept, raise_kept, staleUnbuilt_kept,
        endSliceAdmit_kept, replaceSlice_kept, steepLost_kept]
    | split)

theorem execSliceFail_kept (sl : SliceNo) (s : State) :
    ∃ t, execSliceFail sl s = .next t ∧ kept t = kept s := by
  unfold execSliceFail; refine ⟨_, rfl, ?_⟩
  simp only [kept_ite, ite_self, sliceFails_kept]

theorem execSliceAdmit_kept (q : Ring) (s : State) :
    ∃ t, execSliceAdmit q s = .next t ∧ kept t = kept s := by
  unfold execSliceAdmit; refine ⟨_, rfl, ?_⟩
  repeat' (first
    | simp only [kept_ite, ite_self, State.upAdc_kept, State.upSlice_kept, complete_kept, act__kept]
    | split)

theorem putTour_kept (t : Tour) (s : State) :
    kept (putTour t s) = kept s := by
  unfold putTour
  simp only [State.upAdc_kept]

theorem execSteepAbsoluteCalibrationDone_kept (sl : SliceNo) (cal : AbsCal) (s : State) :
    ∃ t, execSteepAbsoluteCalibrationDone sl cal s = .next t ∧ kept t = kept s := by
  unfold execSteepAbsoluteCalibrationDone; refine ⟨_, rfl, ?_⟩
  repeat' (first | simp only [kept_ite, State.upSlice_kept, sliceFails_kept, putTour_kept] | split)

theorem pitchTour_kept (t : Tour) (s : State) :
    kept (pitchTour t s) = kept s := by
  unfold pitchTour
  simp only [kept_ite, ite_self, State.upAdc_kept, State.upSlice_kept, claimMasked_kept,
      endSliceAdmit_kept, sliceFails_kept, putTour_kept]

theorem judge_kept (n : SliceNo) (e : Estimate) (s : State) :
    kept (judge n e s) = kept s := by
  unfold judge
  simp only [kept_ite, ite_self, State.upSlice_kept, sliceFails_kept]

theorem steepWindow_kept (t : Tour) (pos : Pos) (pairs : List ShadowPair) (s : State) :
    kept (steepWindow t pos pairs s) = kept s := by
  unfold steepWindow
  simp only [kept_ite, ite_self, putTour_kept, judge_kept]

theorem pitchWindow_kept (t : Tour) (pairs : List ShadowPair) (s : State) :
    kept (pitchWindow t pairs s) = kept s := by
  unfold pitchWindow
  simp only [kept_ite, ite_self, putTour_kept, pitchTour_kept, judge_kept]

theorem execShadowWindowEnd_kept (w : ShadowWindow) (s : State) :
    ∃ t, execShadowWindowEnd w s = .next t ∧ kept t = kept s := by
  unfold execShadowWindowEnd; refine ⟨_, rfl, ?_⟩
  repeat' (first | simp only [kept_ite, steepWindow_kept, pitchWindow_kept] | split)

theorem execRotation_kept (s : State) :
    ∃ t, execRotation s = .next t ∧ kept t = kept s := by
  unfold execRotation; refine ⟨_, rfl, ?_⟩
  repeat' (first | simp only [kept_ite, ite_self, State.upAdc_kept, claim_kept] | split)

theorem applyMap_kept (map : Vector SliceNo 16) (mask : BitVec 16) (s : State) :
    kept (applyMap map mask s) = kept s := by
  unfold applyMap
  repeat' (first
    | simp only [kept_ite, ite_self, State.upAdc_kept, State.upSlice_kept, maskUnserved_kept,
        claimMasked_kept]
    | split)

theorem execCalZero_kept (q : Ring) (s : State) :
    ∃ t, execCalZero q s = .next t ∧ kept t = kept s := by
  unfold execCalZero; refine ⟨_, rfl, ?_⟩
  split <;> simp only [kept_ite, ite_self, State.upAdc_kept, complete_kept, act__kept,
      countRefusal_kept, book_kept]

theorem execCalFull_kept (q : Ring) (s : State) :
    ∃ t, execCalFull q s = .next t ∧ kept t = kept s := by
  unfold execCalFull; refine ⟨_, rfl, ?_⟩
  split <;> simp only [kept_ite, ite_self, State.upAdc_kept, complete_kept, act__kept]

theorem endCal_kept (k : CalRun) (code result : Nat) (s : State) :
    kept (endCal k code result s) = kept s := by
  unfold endCal
  simp only [State.upAdc_kept, complete_kept, dropTaken_kept]

theorem decideFrom_kept (k : CalRun) (m0 m1 : Int) (s : State) :
    kept (decideFrom k m0 m1 s) = kept s := by
  unfold decideFrom
  simp only [kept_ite, ite_self, State.upAdc_kept, nvAsk_kept, endCal_kept]

theorem decideFull_kept (k : CalRun) (m1 : Int) (s : State) :
    kept (decideFull k m1 s) = kept s := by
  unfold decideFull
  split <;> simp only [endCal_kept, decideFrom_kept]

theorem execCalMeasurementDone_kept (s : State) :
    ∃ t, execCalMeasurementDone s = .next t ∧ kept t = kept s := by
  unfold execCalMeasurementDone; refine ⟨_, rfl, ?_⟩
  split <;> simp only [kept_ite, ite_self, State.upAdc_kept, dropNewest_kept, keepNewest_kept,
      land_kept, endCal_kept, decideFull_kept]

theorem calCommitted_kept (q : Ring) (s : State) :
    kept (calCommitted q s) = kept s := by
  unfold calCommitted
  repeat' (first | simp only [kept_ite, ite_self, pushMarkers_kept] | split)

theorem calRefused_kept (q : Ring) (code : Nat) (s : State) :
    kept (calRefused q code s) = kept s := by
  unfold calRefused
  split <;> simp only [kept_ite, ite_self, endCal_kept]

theorem applyCal_kept (c : BitVec 7) (cofs cgain : BitVec 16) (s : State) :
    kept (applyCal c cofs cgain s) = kept s := by
  unfold applyCal
  simp only [State.upAdc_kept, dropBook_kept]

theorem dropZero_kept (c : BitVec 7) (s : State) :
    kept (dropZero c s) = kept s := by
  unfold dropZero
  simp only [kept_ite, ite_self, State.upAdc_kept, dropBook_kept, keepNewest_kept]

theorem execAdcPathTest_kept (q : Ring) (s : State) :
    ∃ t, execAdcPathTest q s = .next t ∧ kept t = kept s := by
  unfold execAdcPathTest; refine ⟨_, rfl, ?_⟩
  repeat' (first
    | simp only [kept_ite, State.upAdc_kept, complete_kept, act__kept, freeDac_kept, dropZero_kept]
    | split)

theorem endPath_kept (p : PathRun) (s : State) :
    kept (endPath p s) = kept s := by
  unfold endPath
  simp only [State.upCmp_kept, State.upAdc_kept, resumeCal_kept, dropTaken_kept]

theorem dropArrayWork_kept (q : Ring) (s : State) :
    kept (dropArrayWork q s) = kept s := by
  unfold dropArrayWork
  repeat' (first
    | simp only [kept_ite, ite_self, State.upAdc_kept, dropNewest_kept, dropTaken_kept, endPath_kept]
    | split)

theorem execPathTestDone_kept (s : State) :
    ∃ t, execPathTestDone s = .next t ∧ kept t = kept s := by
  unfold execPathTestDone; refine ⟨_, rfl, ?_⟩
  split <;> simp only [kept_ite, ite_self, State.upAdc_kept, takeFree_kept, complete_kept, raise_kept,
      land_kept, endPath_kept]

theorem respond_kept (p : Port) (r : Rail) (seq status grant : Nat) (s : State) :
    kept (respond p r seq status grant s) = kept s := by
  unfold respond
  simp only [State.upPort_kept, State.emit_kept]

theorem raisePort_kept (p : Port) (cause elem high : Nat) (s : State) :
    kept (raisePort p cause elem high s) = kept s := by
  unfold raisePort
  simp only [raiseLimited_kept]

theorem reject_kept (p : Port) (f : BitVec 64) (code : Nat) (s : State) :
    kept (reject p f code s) = kept s := by
  unfold reject
  simp only [kept_ite, ite_self, respond_kept, raisePort_kept]

theorem consume_kept (p : Port) (f : BitVec 64) (a : Answer) (s : State) :
    kept (consume p f a s) = kept s := by
  unfold consume
  simp only [kept_ite, ite_self, State.upPort_kept, respond_kept, reject_kept]

theorem sequenced_kept (p : Port) (f : BitVec 64) (act : State → State × Answer) (s : State)
    (h : ∀ s, kept (act s).1 = kept s) :
    kept (sequenced p f act s) = kept s := by
  unfold sequenced
  repeat' (first | simp only [kept_ite, ite_self, respond_kept, reject_kept, consume_kept, h] | split)

theorem receive_kept (type : Nat) (owned : Bool) (p : Port) (f : BitVec 64) (act : State → State ×
    Answer) (s : State)
    (h : ∀ s, kept (act s).1 = kept s) :
    kept (receive type owned p f act s) = kept s := by
  unfold receive
  repeat' (first
    | with_reducible rfl
    | simp only [kept_ite, kept_ite_fst, ite_self, h]
    | (with_reducible refine (kept_each _ _ _ (fun _ _ => ?_)).trans ?_ <;> beta_reduce)
    | (with_reducible refine (kept_foldl _ _ _ (fun _ _ => ?_)).trans ?_ <;> beta_reduce)
    | (with_reducible refine Eq.trans (State.upNvm_kept _ _ ?_) ?_; exact fun _ => rfl)
    | (with_reducible refine Eq.trans (State.upPwr_kept _ _ ?_) ?_; exact fun _ => rfl)
    | (with_reducible refine (sequenced_kept _ _ _ _ (fun _ => ?_)).trans ?_ <;> beta_reduce)
    | split)

theorem actSetpoint_kept (f : BitVec 64) (s : State) :
    kept (actSetpoint f s).1 = kept s := by
  unfold actSetpoint
  simp only [kept_ite_fst, ite_self, setTarget_kept]

theorem execSetpoint_kept (p : Port) (frame : BitVec 64) (s : State) :
    ∃ t, execSetpoint p frame s = .next t ∧ kept t = kept s := by
  unfold execSetpoint; refine ⟨_, rfl, ?_⟩
  repeat' (first
    | with_reducible rfl
    | simp only [actSetpoint_kept]
    | (with_reducible refine (kept_each _ _ _ (fun _ _ => ?_)).trans ?_ <;> beta_reduce)
    | (with_reducible refine (kept_foldl _ _ _ (fun _ _ => ?_)).trans ?_ <;> beta_reduce)
    | (with_reducible refine Eq.trans (State.upNvm_kept _ _ ?_) ?_; exact fun _ => rfl)
    | (with_reducible refine Eq.trans (State.upPwr_kept _ _ ?_) ?_; exact fun _ => rfl)
    | (with_reducible refine (receive_kept _ _ _ _ _ _ (fun _ => ?_)).trans ?_ <;> beta_reduce))

theorem holdPositions_kept (r : Rail) (slot : Nat) (s : State) :
    kept (holdPositions r slot s) = kept s := by
  unfold holdPositions
  simp only [State.upPwmRail_kept]

theorem joinFor_kept (r : Rail) (dI : Int) (tF : Nat) (s : State) :
    kept (joinFor r dI tF s).1 = kept s := by
  unfold joinFor
  simp only [kept_ite_fst, ite_self, leaveLight_kept, stopShedding_kept, addPositions_kept,
      holdPositions_kept]

theorem planForecast_kept (r : Rail) (step : Int) (lead : Nat) (s : State) :
    kept (planForecast r step lead s).1 = kept s := by
  unfold planForecast
  simp only [kept_ite, kept_ite_fst, ite_self, State.upEngRail_kept, takeFree_kept, noteOverflow_kept,
      holdPositions_kept, joinFor_kept]

theorem actForecast_kept (p : Port) (f : BitVec 64) (s : State) :
    kept (actForecast p f s).1 = kept s := by
  unfold actForecast
  simp only [kept_ite, kept_ite_fst, ite_self, triggerInjected_kept, planForecast_kept]

theorem execForecast_kept (p : Port) (frame : BitVec 64) (s : State) :
    ∃ t, execForecast p frame s = .next t ∧ kept t = kept s := by
  unfold execForecast; refine ⟨_, rfl, ?_⟩
  repeat' (first
    | with_reducible rfl
    | simp only [actForecast_kept]
    | (with_reducible refine (kept_each _ _ _ (fun _ _ => ?_)).trans ?_ <;> beta_reduce)
    | (with_reducible refine (kept_foldl _ _ _ (fun _ _ => ?_)).trans ?_ <;> beta_reduce)
    | (with_reducible refine Eq.trans (State.upNvm_kept _ _ ?_) ?_; exact fun _ => rfl)
    | (with_reducible refine Eq.trans (State.upPwr_kept _ _ ?_) ?_; exact fun _ => rfl)
    | (with_reducible refine (receive_kept _ _ _ _ _ _ (fun _ => ?_)).trans ?_ <;> beta_reduce))

theorem actState_kept (p : Port) (f : BitVec 64) (s : State) :
    kept (actState p f s).1 = kept s := by
  unfold actState
  simp only [kept_ite, kept_ite_fst, ite_self, State.upPort_kept, dropBook_kept, releaseIdle_kept,
      countRefusal_kept, book_kept]

theorem execState_kept (p : Port) (frame : BitVec 64) (s : State) :
    ∃ t, execState p frame s = .next t ∧ kept t = kept s := by
  unfold execState; refine ⟨_, rfl, ?_⟩
  repeat' (first
    | with_reducible rfl
    | simp only [actState_kept]
    | (with_reducible refine (kept_each _ _ _ (fun _ _ => ?_)).trans ?_ <;> beta_reduce)
    | (with_reducible refine (kept_foldl _ _ _ (fun _ _ => ?_)).trans ?_ <;> beta_reduce)
    | (with_reducible refine Eq.trans (State.upNvm_kept _ _ ?_) ?_; exact fun _ => rfl)
    | (with_reducible refine Eq.trans (State.upPwr_kept _ _ ?_) ?_; exact fun _ => rfl)
    | (with_reducible refine (receive_kept _ _ _ _ _ _ (fun _ => ?_)).trans ?_ <;> beta_reduce))

theorem queryError_kept (r : Rail) (s : State) :
    kept (queryError r s).1 = kept s := by
  unfold queryError
  split <;> simp only [takeFree_kept]

theorem actQuery_kept (p : Port) (f : BitVec 64) (s : State) :
    kept (actQuery p f s).1 = kept s := by
  unfold actQuery
  split <;> simp only [State.upPort_kept, queryError_kept]

theorem execQuery_kept (p : Port) (frame : BitVec 64) (s : State) :
    ∃ t, execQuery p frame s = .next t ∧ kept t = kept s := by
  unfold execQuery; refine ⟨_, rfl, ?_⟩
  repeat' (first
    | with_reducible rfl
    | simp only [actQuery_kept]
    | (with_reducible refine (kept_each _ _ _ (fun _ _ => ?_)).trans ?_ <;> beta_reduce)
    | (with_reducible refine (kept_foldl _ _ _ (fun _ _ => ?_)).trans ?_ <;> beta_reduce)
    | (with_reducible refine Eq.trans (State.upNvm_kept _ _ ?_) ?_; exact fun _ => rfl)
    | (with_reducible refine Eq.trans (State.upPwr_kept _ _ ?_) ?_; exact fun _ => rfl)
    | (with_reducible refine (receive_kept _ _ _ _ _ _ (fun _ => ?_)).trans ?_ <;> beta_reduce))

theorem synchronise_kept (p : Port) (f : BitVec 64) (s : State) :
    kept (synchronise p f s) = kept s := by
  unfold synchronise
  repeat' (first
    | simp only [kept_ite, ite_self, State.upPrnRail_kept, State.upPort_kept, alertPorts_kept,
        consume_kept]
    | (with_reducible refine (kept_each _ _ _ (fun _ _ => ?_)).trans ?_ <;> beta_reduce)
    | split)

theorem execHeartbeat_kept (p : Port) (frame : BitVec 64) (s : State) :
    ∃ t, execHeartbeat p frame s = .next t ∧ kept t = kept s := by
  unfold execHeartbeat; refine ⟨_, rfl, ?_⟩
  repeat' (first
    | with_reducible rfl
    | simp only [kept_ite, synchronise_kept]
    | (with_reducible refine (kept_each _ _ _ (fun _ _ => ?_)).trans ?_ <;> beta_reduce)
    | (with_reducible refine (kept_foldl _ _ _ (fun _ _ => ?_)).trans ?_ <;> beta_reduce)
    | (with_reducible refine Eq.trans (State.upNvm_kept _ _ ?_) ?_; exact fun _ => rfl)
    | (with_reducible refine Eq.trans (State.upPwr_kept _ _ ?_) ?_; exact fun _ => rfl)
    | (with_reducible refine (sequenced_kept _ _ _ _ (fun _ => ?_)).trans ?_ <;> beta_reduce)
    | split)

theorem execFrameCheckFailed_kept (p : Port) (frame : BitVec 64) (s : State) :
    ∃ t, execFrameCheckFailed p frame s = .next t ∧ kept t = kept s := by
  unfold execFrameCheckFailed; refine ⟨_, rfl, ?_⟩
  repeat' (first
    | with_reducible rfl
    | simp only [kept_ite, State.upPort_kept, respond_kept, raisePort_kept]
    | (with_reducible refine (kept_each _ _ _ (fun _ _ => ?_)).trans ?_ <;> beta_reduce)
    | (with_reducible refine (kept_foldl _ _ _ (fun _ _ => ?_)).trans ?_ <;> beta_reduce)
    | (with_reducible refine Eq.trans (State.upNvm_kept _ _ ?_) ?_; exact fun _ => rfl)
    | (with_reducible refine Eq.trans (State.upPwr_kept _ _ ?_) ?_; exact fun _ => rfl)
    | (with_reducible refine (sequenced_kept _ _ _ _ (fun _ => ?_)).trans ?_ <;> beta_reduce)
    | split)

theorem execFrameStall_kept (p : Port) (clock : Nat) (s : State) :
    ∃ t, execFrameStall p clock s = .next t ∧ kept t = kept s := by
  unfold execFrameStall; refine ⟨_, rfl, ?_⟩
  simp only [kept_ite, ite_self, State.upPort_kept, raisePort_kept]

theorem lossAction_kept (p : Port) (r : Rail) (s : State) :
    kept (lossAction p r s) = kept s := by
  unfold lossAction
  simp only [kept_ite, ite_self, State.upPrnRail_kept, clearForecasts_kept, applySafe_kept]

theorem execHeartbeatLost_kept (p : Port) (s : State) :
    ∃ t, execHeartbeatLost p s = .next t ∧ kept t = kept s := by
  unfold execHeartbeatLost; refine ⟨_, rfl, ?_⟩
  repeat' (first
    | simp only [kept_ite, State.upPort_kept, raisePort_kept, lossAction_kept]
    | (with_reducible refine (kept_each _ _ _ (fun _ _ => ?_)).trans ?_ <;> beta_reduce)
    | split)

theorem takeReset_kept (key : BitVec 4 × BitVec 4 × BitVec 6) (s : State) :
    kept (takeReset key s) = kept s := by
  unfold takeReset
  simp only [State.upFlt_kept]

theorem execPrnPortReset_kept (p : Port) (s : State) :
    ∃ t, execPrnPortReset p s = .next t ∧ kept t = kept s := by
  unfold execPrnPortReset; refine ⟨_, rfl, ?_⟩
  simp only [kept_ite, ite_self, State.upPort_kept, restampAt_kept, takeReset_kept]

theorem tickRef_kept (r : Rail) (s : State) :
    kept (tickRef r s) = kept s := by
  unfold tickRef
  simp only [kept_ite, ite_self, State.upPrnRail_kept, alertPorts_kept]

theorem tickMargin_kept (r : Rail) (s : State) :
    kept (tickMargin r s) = kept s := by
  unfold tickMargin
  simp only [kept_ite, ite_self, State.upPrnRail_kept, alertPorts_kept, dropBook_kept]

theorem execSlewLimiterTick_kept (s : State) :
    ∃ t, execSlewLimiterTick s = .next t ∧ kept t = kept s := by
  unfold execSlewLimiterTick; refine ⟨_, rfl, ?_⟩
  repeat' (first
    | simp only [kept_ite, refreshCodes_kept, settle_kept, tickRef_kept, tickMargin_kept]
    | (with_reducible refine (kept_each _ _ _ (fun _ _ => ?_)).trans ?_ <;> beta_reduce)
    | split)

theorem execPrnSet_kept (q : Ring) (buf : List Word) (s : State) :
    ∃ t, execPrnSet q buf s = .next t ∧ kept t = kept s := by
  unfold execPrnSet; refine ⟨_, rfl, ?_⟩
  split <;> simp only [runSet_kept]

theorem execPrnCommit_kept (m : Master) (v : Word) (s : State) :
    ∃ t, execPrnCommit m v s = .next t ∧ kept t = kept s := by
  unfold execPrnCommit; refine ⟨_, rfl, ?_⟩
  simp only [writeCommit_kept]

theorem disablePort_kept (p : Port) (s : State) :
    kept (disablePort p s) = kept s := by
  unfold disablePort
  simp only [State.upPort_kept, dropReservation_kept]

theorem bootTarget_kept (r : Rail) (s : State) :
    kept (bootTarget r s) = kept s := by
  unfold bootTarget
  simp only [kept_ite, ite_self, State.upPrnRail_kept, followBoot_kept]

theorem followPorts_kept (s : State) :
    kept (followPorts s) = kept s := by
  unfold followPorts
  repeat' (first
    | simp only [kept_ite, ite_self, State.upPort_kept, disablePort_kept]
    | (with_reducible refine (kept_each _ _ _ (fun _ _ => ?_)).trans ?_ <;> beta_reduce)
    | split)

theorem cutPulse_kept (h : Phase) (s : State) :
    kept (cutPulse h s) = kept s := by
  unfold cutPulse
  simp only [kept_ite, ite_self, State.upPhase_kept]

theorem highTrip_kept (h : Phase) (s : State) :
    kept (highTrip h s) = kept s := by
  unfold highTrip
  simp only [kept_ite, ite_self, State.upPhase_kept, State.upFb_kept, leaveLight_kept, cutPulse_kept]

theorem lowTrip_kept (h : Phase) (s : State) :
    kept (lowTrip h s) = kept s := by
  unfold lowTrip
  simp only [State.upPhase_kept]

theorem lowClears_kept (h : Phase) (s : State) :
    kept (lowClears h s) = kept s := by
  unfold lowClears
  simp only [kept_ite, ite_self, State.upPhase_kept]

theorem latchTrip_kept (v : Window) (high : Bool) (s : State) :
    kept (latchTrip v high s) = kept s := by
  unfold latchTrip
  simp only [kept_ite, ite_self, raiseLimited_kept]

theorem windowWires_kept (w : Window) (high notGood : Bool) (s : State) :
    kept (windowWires w high notGood s) = kept s := by
  unfold windowWires
  split <;> simp only [kept_ite, ite_self, State.upSeq_kept, heelFire_kept, ceilingTrips_kept,
      highTrip_kept, lowTrip_kept, lowClears_kept]

theorem windowTrigger_kept (v : Window) (s : State) :
    kept (windowTrigger v s) = kept s := by
  unfold windowTrigger
  simp only [kept_ite, ite_self, triggerInjected_kept]

theorem windowMonitor_kept (v : Window) (s : State) :
    kept (windowMonitor v s) = kept s := by
  unfold windowMonitor
  simp only [kept_ite, ite_self, raiseMonitor_kept]

theorem onWires_kept (v : Window) (high notGood turned : Bool) (s : State) :
    kept (onWires v high notGood turned s) = kept s := by
  unfold onWires
  simp only [kept_ite, ite_self, latchTrip_kept, windowWires_kept, windowTrigger_kept,
      windowMonitor_kept]

theorem execComparatorTransition_kept (w : Window) (high notGood : Bool) (s : State) :
    ∃ t, execComparatorTransition w high notGood s = .next t ∧ kept t = kept s := by
  unfold execComparatorTransition; refine ⟨_, rfl, ?_⟩
  repeat' (first
    | simp only [kept_ite, ite_self, State.upWin_kept, windowTrigger_kept, onWires_kept]
    | split)

theorem beginCycle_kept (s : State) :
    kept (beginCycle s) = kept s := by
  unfold beginCycle
  simp only [State.upCmp_kept, nextProof_kept]

theorem execProofCycleStart_kept (s : State) :
    ∃ t, execProofCycleStart s = .next t ∧ kept t = kept s := by
  unfold execProofCycleStart; refine ⟨_, rfl, ?_⟩
  simp only [kept_ite, ite_self, beginCycle_kept]

theorem steepFails_kept (p : Proof) (s : State) :
    kept (steepFails p s) = kept s := by
  unfold steepFails
  simp only [State.upCmp_kept, State.upWin_kept, freeDac_kept, raise_kept, nextProof_kept]

theorem loadSteep_kept (p : Proof) (s : State) :
    kept (loadSteep p s) = kept s := by
  unfold loadSteep
  simp only [State.upWin_kept]

theorem passLatch_kept (p : Proof) (s : State) :
    kept (passLatch p s) = kept s := by
  unfold passLatch
  simp only [State.upWin_kept]

theorem windowFails_kept (p : Proof) (elem cell : Nat) (s : State) :
    kept (windowFails p elem cell s) = kept s := by
  unfold windowFails
  simp only [kept_ite, ite_self, State.upCmp_kept, State.upWin_kept, freeDac_kept, raise_kept,
      nextProof_kept, loadSteep_kept, passLatch_kept]

theorem stageLeaves_kept (p : Proof) (s : State) :
    kept (stageLeaves p s) = kept s := by
  unfold stageLeaves
  split <;> simp only [State.upWin_kept, handBack_kept, loadSteep_kept, passLatch_kept]

theorem stagePassed_kept (p : Proof) (s : State) :
    kept (stagePassed p s) = kept s := by
  unfold stagePassed
  simp only [kept_ite, ite_self, State.upCmp_kept, freeDac_kept, nextProof_kept, stageLeaves_kept]

theorem execProofTestStageEnd_kept (seen : ProofSeen) (s : State) :
    ∃ t, execProofTestStageEnd seen s = .next t ∧ kept t = kept s := by
  unfold execProofTestStageEnd; refine ⟨_, rfl, ?_⟩
  repeat' (first | simp only [kept_ite, steepFails_kept, windowFails_kept, stagePassed_kept] | split)

theorem execAdjudicationDone_kept (r : Rail) (ballRemote ballLocal : Int) (s : State) :
    ∃ t, execAdjudicationDone r ballRemote ballLocal s = .next t ∧ kept t = kept s := by
  unfold execAdjudicationDone; refine ⟨_, rfl, ?_⟩
  simp only [kept_ite, ite_self, freeAdjudication_kept, raisePath_kept, markLost_kept, switchPath_kept]

theorem execAoComparatorChange_kept (k : Fin 3) (high notGood : Bool) (s : State) :
    ∃ t, execAoComparatorChange k high notGood s = .next t ∧ kept t = kept s := by
  unfold execAoComparatorChange; refine ⟨_, rfl, ?_⟩
  repeat' (first
    | with_reducible rfl
    | simp only [kept_ite, ite_self, State.upCmp_kept, raise_kept]
    | (with_reducible refine (kept_each _ _ _ (fun _ _ => ?_)).trans ?_ <;> beta_reduce)
    | (with_reducible refine (kept_foldl _ _ _ (fun _ _ => ?_)).trans ?_ <;> beta_reduce)
    | (with_reducible refine Eq.trans (State.upNvm_kept _ _ ?_) ?_; exact fun _ => rfl)
    | (with_reducible refine Eq.trans (State.upPwr_kept _ _ ?_) ?_; exact fun _ => rfl)
    | split)

theorem execCmpSet_kept (q : Ring) (buf : List Word) (s : State) :
    ∃ t, execCmpSet q buf s = .next t ∧ kept t = kept s := by
  unfold execCmpSet; refine ⟨_, rfl, ?_⟩
  split <;> simp only [runSet_kept]

theorem execCmpCommit_kept (m : Master) (v : Word) (s : State) :
    ∃ t, execCmpCommit m v s = .next t ∧ kept t = kept s := by
  unfold execCmpCommit; refine ⟨_, rfl, ?_⟩
  simp only [writeCommit_kept]

theorem writeLatch_kept (m : Master) (k : Fin 3) (v : Word) (s : State) :
    kept (writeLatch m k v s) = kept s := by
  unfold writeLatch
  repeat' (first
    | with_reducible rfl
    | simp only [State.upWin_kept]
    | (with_reducible refine (kept_each _ _ _ (fun _ _ => ?_)).trans ?_ <;> beta_reduce)
    | (with_reducible refine (kept_foldl _ _ _ (fun _ _ => ?_)).trans ?_ <;> beta_reduce)
    | (with_reducible refine Eq.trans (State.upNvm_kept _ _ ?_) ?_; exact fun _ => rfl)
    | (with_reducible refine Eq.trans (State.upPwr_kept _ _ ?_) ?_; exact fun _ => rfl)
    | (with_reducible refine (regWrite_kept _ _ _ _ _ _ _ (fun _ => ?_)).trans ?_ <;> beta_reduce))

theorem execCmpLatchClear_kept (m : Master) (k : Fin 3) (v : Word) (s : State) :
    ∃ t, execCmpLatchClear m k v s = .next t ∧ kept t = kept s := by
  unfold execCmpLatchClear; refine ⟨_, rfl, ?_⟩
  simp only [writeLatch_kept]

theorem seqRest_kept (s : State) :
    kept (seqRest s) = kept s := by
  unfold seqRest
  simp only [refreshAll_kept, settle_kept, spentIfDone_kept]

theorem applyRequests_kept (on off : BitVec 8) (s : State) :
    kept (applyRequests on off s) = kept s := by
  unfold applyRequests
  repeat' (first
    | simp only [requestOff_kept, requestOn_kept, seqRest_kept]
    | (with_reducible refine (kept_each _ _ _ (fun _ _ => ?_)).trans ?_ <;> beta_reduce)
    | split)

theorem execSeqGroup_kept (q : Ring) (s : State) :
    ∃ t, execSeqGroup q s = .next t ∧ kept t = kept s := by
  unfold execSeqGroup; refine ⟨_, rfl, ?_⟩
  repeat' (first | simp only [complete_kept, applyRequests_kept] | split)

theorem writeGcmd_kept (m : Master) (v : Word) (s : State) :
    kept (writeGcmd m v s) = kept s := by
  unfold writeGcmd
  repeat' (first
    | with_reducible rfl
    | simp only [rejectWrite_kept, applyRequests_kept]
    | (with_reducible refine (kept_each _ _ _ (fun _ _ => ?_)).trans ?_ <;> beta_reduce)
    | (with_reducible refine (kept_foldl _ _ _ (fun _ _ => ?_)).trans ?_ <;> beta_reduce)
    | (with_reducible refine Eq.trans (State.upNvm_kept _ _ ?_) ?_; exact fun _ => rfl)
    | (with_reducible refine Eq.trans (State.upPwr_kept _ _ ?_) ?_; exact fun _ => rfl)
    | (with_reducible refine (regWrite_kept _ _ _ _ _ _ _ (fun _ => ?_)).trans ?_ <;> beta_reduce)
    | split)

theorem execSeqGcmd_kept (m : Master) (v : Word) (s : State) :
    ∃ t, execSeqGcmd m v s = .next t ∧ kept t = kept s := by
  unfold execSeqGcmd; refine ⟨_, rfl, ?_⟩
  simp only [writeGcmd_kept]

theorem followEn_kept (which : Group → Bool) (s : State) :
    kept (followEn which s) = kept s := by
  unfold followEn
  repeat' (first
    | simp only [kept_ite, ite_self, requestOff_kept, requestOn_kept]
    | (with_reducible refine (kept_each _ _ _ (fun _ _ => ?_)).trans ?_ <;> beta_reduce)
    | split)

theorem startGroups_kept (s : State) :
    kept (startGroups s) = kept s := by
  unfold startGroups
  repeat' (first
    | simp only [kept_ite, ite_self, requestOn_kept]
    | (with_reducible refine (kept_each _ _ _ (fun _ _ => ?_)).trans ?_ <;> beta_reduce)
    | split)

theorem endWait_kept (s : State) : kept (endWait s) = kept s := by
  unfold endWait
  split
  · rename_i h
    simp only [kept, State.upPwr, eq_of_beq h]
    rfl
  · rfl

theorem actStart_kept (q : Ring) (s : State) :
    kept (actStart q s) = kept s := by
  unfold actStart
  simp only [kept_ite, ite_self, complete_kept, seqRest_kept, startGroups_kept, endWait_kept]

theorem beginWait_kept (s : State) (h : s.pwr.phase ≠ .por) : kept (beginWait s) = kept s := by
  have h0 : kept (s.upPwr fun p => { p with phase := .waiting, enIgnored := false }) = kept s := by
    simp only [kept, State.upPwr, beq_eq_false_iff_ne.mpr h]
    rfl
  unfold beginWait
  simp only [seqRest_kept, followEn_kept, kept_ite, endWait_kept, ite_self]
  split
  · refine (actStart_kept _ _).trans ?_
    refine (State.upPwr_kept _ _ fun _ => rfl).trans ?_
    exact h0
  · exact h0

theorem execStart_kept (q : Ring) (s : State) :
    ∃ t, execStart q s = .next t ∧ kept t = kept s := by
  unfold execStart; refine ⟨_, rfl, ?_⟩
  repeat' (first
    | with_reducible rfl
    | simp only [kept_ite, complete_kept, actStart_kept]
    | (with_reducible refine (kept_each _ _ _ (fun _ _ => ?_)).trans ?_ <;> beta_reduce)
    | (with_reducible refine (kept_foldl _ _ _ (fun _ _ => ?_)).trans ?_ <;> beta_reduce)
    | (with_reducible refine Eq.trans (State.upNvm_kept _ _ ?_) ?_; exact fun _ => rfl)
    | (with_reducible refine Eq.trans (State.upPwr_kept _ _ ?_) ?_; exact fun _ => rfl)
    | split)

theorem execEnPinChange_kept (level : Bool) (s : State) :
    ∃ t, execEnPinChange level s = .next t ∧ kept t = kept s := by
  unfold execEnPinChange; refine ⟨_, rfl, ?_⟩
  repeat' (first
    | simp only [kept_ite, ite_self, State.upSeq_kept, seqRest_kept, followEn_kept, endWait_kept]
    | split)

theorem execOnDelayEnd_kept (i : SeqIdx) (s : State) :
    ∃ t, execOnDelayEnd i s = .next t ∧ kept t = kept s := by
  unfold execOnDelayEnd; refine ⟨_, rfl, ?_⟩
  simp only [kept_ite, ite_self, enterRamp_kept, seqRest_kept]

theorem execRampTimeEnd_kept (i : SeqIdx) (s : State) :
    ∃ t, execRampTimeEnd i s = .next t ∧ kept t = kept s := by
  unfold execRampTimeEnd; refine ⟨_, rfl, ?_⟩
  simp only [kept_ite, ite_self, State.upSeqRail_kept, seqRest_kept]

theorem enterOn_kept (i : SeqIdx) (s : State) :
    kept (enterOn i s) = kept s := by
  unfold enterOn
  split <;> simp only [State.upSeqRail_kept, State.upPrnRail_kept]

theorem execPowerGoodChange_kept (i : SeqIdx) (good : Bool) (s : State) :
    ∃ t, execPowerGoodChange i good s = .next t ∧ kept t = kept s := by
  unfold execPowerGoodChange; refine ⟨_, rfl, ?_⟩
  simp only [kept_ite, ite_self, State.upSeqRail_kept, runningFault_kept, seqRest_kept, enterOn_kept]

theorem groupRetry_kept (j : Group) (s : State) :
    kept (groupRetry j s) = kept s := by
  unfold groupRetry
  repeat' (first
    | simp only [State.upSeqRail_kept, State.upGroup_kept, markDown_kept]
    | (with_reducible refine (kept_each _ _ _ (fun _ _ => ?_)).trans ?_ <;> beta_reduce)
    | split)

theorem groupFails_kept (i : SeqIdx) (j : Group) (s : State) :
    kept (groupFails i j s) = kept s := by
  unfold groupFails
  repeat' (first
    | simp only [State.upGroup_kept, requestOff_kept, markDown_kept, raiseSeq_kept]
    | (with_reducible refine (kept_each _ _ _ (fun _ _ => ?_)).trans ?_ <;> beta_reduce)
    | split)

theorem railFails_kept (i : SeqIdx) (s : State) :
    kept (railFails i s) = kept s := by
  unfold railFails
  repeat' (first
    | simp only [State.upSeqRail_kept]
    | (with_reducible refine (kept_each _ _ _ (fun _ _ => ?_)).trans ?_ <;> beta_reduce)
    | split)

theorem execPowerGoodTimeout_kept (i : SeqIdx) (s : State) :
    ∃ t, execPowerGoodTimeout i s = .next t ∧ kept t = kept s := by
  unfold execPowerGoodTimeout; refine ⟨_, rfl, ?_⟩
  simp only [kept_ite, ite_self, raiseSeq_kept, seqRest_kept, groupRetry_kept, groupFails_kept,
      railFails_kept]

theorem execDischarged_kept (i : SeqIdx) (s : State) :
    ∃ t, execDischarged i s = .next t ∧ kept t = kept s := by
  unfold execDischarged; refine ⟨_, rfl, ?_⟩
  simp only [kept_ite, ite_self, reachOff_kept, seqRest_kept]

theorem execDischargeTimeout_kept (i : SeqIdx) (s : State) :
    ∃ t, execDischargeTimeout i s = .next t ∧ kept t = kept s := by
  unfold execDischargeTimeout; refine ⟨_, rfl, ?_⟩
  repeat' (first
    | simp only [kept_ite, driveHeld_kept, setRailState_kept, reachOff_kept, raiseSeq_kept,
        seqRest_kept]
    | split)

theorem execSeqRelease_kept (q : Ring) (s : State) :
    ∃ t, execSeqRelease q s = .next t ∧ kept t = kept s := by
  unfold execSeqRelease; refine ⟨_, rfl, ?_⟩
  split <;> simp only [kept_ite, ite_self, complete_kept, reachOff_kept, seqRest_kept]

theorem execRetryDelayEnd_kept (who : RetryOf) (s : State) :
    ∃ t, execRetryDelayEnd who s = .next t ∧ kept t = kept s := by
  unfold execRetryDelayEnd; refine ⟨_, rfl, ?_⟩
  repeat' (first
    | simp only [kept_ite, State.upSeqRail_kept, State.upGroup_kept, seqRest_kept]
    | (with_reducible refine (kept_each _ _ _ (fun _ _ => ?_)).trans ?_ <;> beta_reduce)
    | split)

theorem execRetryCountReset_kept (who : RetryOf) (s : State) :
    ∃ t, execRetryCountReset who s = .next t ∧ kept t = kept s := by
  unfold execRetryCountReset; refine ⟨_, rfl, ?_⟩
  split <;> simp only [kept_ite, ite_self, State.upSeqRail_kept, State.upGroup_kept]

theorem execReactionTimeout_kept (s : State) :
    ∃ t, execReactionTimeout s = .next t ∧ kept t = kept s := by
  unfold execReactionTimeout; refine ⟨_, rfl, ?_⟩
  repeat' (first
    | simp only [kept_ite, shutOff_kept, raiseSeq_kept, seqRest_kept]
    | (with_reducible refine (kept_each _ _ _ (fun _ _ => ?_)).trans ?_ <;> beta_reduce)
    | split)

theorem execSeqCoreMismatch_kept (s : State) :
    ∃ t, execSeqCoreMismatch s = .next t ∧ kept t = kept s := by
  unfold execSeqCoreMismatch; refine ⟨_, rfl, ?_⟩
  repeat' (first
    | simp only [kept_ite, State.upSeq_kept, restRail_kept, shutOff_kept, raiseSeq_kept, restampAt_kept,
        seqRest_kept]
    | (with_reducible refine (kept_each _ _ _ (fun _ _ => ?_)).trans ?_ <;> beta_reduce)
    | split)

theorem writeSeqStatus_kept (m : Master) (v : Word) (s : State) :
    kept (writeSeqStatus m v s) = kept s := by
  unfold writeSeqStatus
  repeat' (first
    | with_reducible rfl
    | simp only [kept_ite, ite_self, State.upSeq_kept, rejectWrite_kept]
    | (with_reducible refine (kept_each _ _ _ (fun _ _ => ?_)).trans ?_ <;> beta_reduce)
    | (with_reducible refine (kept_foldl _ _ _ (fun _ _ => ?_)).trans ?_ <;> beta_reduce)
    | (with_reducible refine Eq.trans (State.upNvm_kept _ _ ?_) ?_; exact fun _ => rfl)
    | (with_reducible refine Eq.trans (State.upPwr_kept _ _ ?_) ?_; exact fun _ => rfl)
    | (with_reducible refine (regWrite_kept _ _ _ _ _ _ _ (fun _ => ?_)).trans ?_ <;> beta_reduce))

theorem execShutoffClear_kept (m : Master) (v : Word) (s : State) :
    ∃ t, execShutoffClear m v s = .next t ∧ kept t = kept s := by
  unfold execShutoffClear; refine ⟨_, rfl, ?_⟩
  simp only [writeSeqStatus_kept]

theorem selectMargin_kept (sel : Nat) (r : Rail) (s : State) :
    kept (selectMargin sel r s) = kept s := by
  unfold selectMargin
  simp only [kept_ite, ite_self, State.upSeqRail_kept, State.upPrnRail_kept, alertPorts_kept,
      marginNone_kept, book_kept]

theorem noteRefusal_kept (code : Nat) (s : State) :
    kept (noteRefusal code s) = kept s := by
  unfold noteRefusal
  simp only [kept_ite, ite_self, countRefusal_kept]

theorem execSeqMargin_kept (q : Ring) (s : State) :
    ∃ t, execSeqMargin q s = .next t ∧ kept t = kept s := by
  unfold execSeqMargin; refine ⟨_, rfl, ?_⟩
  repeat' (first
    | simp only [kept_ite, complete_kept, selectMargin_kept, noteRefusal_kept]
    | (with_reducible refine (kept_each _ _ _ (fun _ _ => ?_)).trans ?_ <;> beta_reduce)
    | split)

theorem writeMcmd_kept (m : Master) (v : Word) (s : State) :
    kept (writeMcmd m v s) = kept s := by
  unfold writeMcmd
  repeat' (first
    | with_reducible rfl
    | simp only [kept_ite, rejectWrite_kept, selectMargin_kept, noteRefusal_kept]
    | (with_reducible refine (kept_each _ _ _ (fun _ _ => ?_)).trans ?_ <;> beta_reduce)
    | (with_reducible refine (kept_foldl _ _ _ (fun _ _ => ?_)).trans ?_ <;> beta_reduce)
    | (with_reducible refine Eq.trans (State.upNvm_kept _ _ ?_) ?_; exact fun _ => rfl)
    | (with_reducible refine Eq.trans (State.upPwr_kept _ _ ?_) ?_; exact fun _ => rfl)
    | (with_reducible refine (regWrite_kept _ _ _ _ _ _ _ (fun _ => ?_)).trans ?_ <;> beta_reduce)
    | split)

theorem execSeqMcmd_kept (m : Master) (v : Word) (s : State) :
    ∃ t, execSeqMcmd m v s = .next t ∧ kept t = kept s := by
  unfold execSeqMcmd; refine ⟨_, rfl, ?_⟩
  simp only [writeMcmd_kept]

theorem execSeqSet_kept (q : Ring) (buf : List Word) (s : State) :
    ∃ t, execSeqSet q buf s = .next t ∧ kept t = kept s := by
  unfold execSeqSet; refine ⟨_, rfl, ?_⟩
  split <;> simp only [runSet_kept]

theorem execSeqCommit_kept (m : Master) (v : Word) (s : State) :
    ∃ t, execSeqCommit m v s = .next t ∧ kept t = kept s := by
  unfold execSeqCommit; refine ⟨_, rfl, ?_⟩
  simp only [writeCommit_kept]

theorem powerFail_kept (s : State) :
    kept (powerFail s) = kept s := by
  unfold powerFail
  repeat' (first
    | simp only [State.upSeq_kept, requestOff_kept, markDown_kept, seqRest_kept]
    | (with_reducible refine (kept_each _ _ _ (fun _ _ => ?_)).trans ?_ <;> beta_reduce)
    | split)

theorem inputReturns_kept (s : State) :
    kept (inputReturns s) = kept s := by
  unfold inputReturns
  repeat' (first
    | simp only [kept_ite, State.upSeq_kept, requestOn_kept, seqRest_kept]
    | (with_reducible refine (kept_each _ _ _ (fun _ _ => ?_)).trans ?_ <;> beta_reduce)
    | split)

theorem ledgerFresh_kept (s : State) :
    kept (ledgerFresh s) = kept s := by
  unfold ledgerFresh
  simp only [State.upLdg_kept]

theorem takeHoldUp_kept (power dt : Rat) (s : State) :
    kept (takeHoldUp power dt s) = kept s := by
  unfold takeHoldUp
  simp only [kept_ite, ite_self, State.upLdg_kept, raiseEnergy_kept, commitGauge_kept]

theorem tryHoldUp_kept (s : State) :
    kept (tryHoldUp s) = kept s := by
  unfold tryHoldUp
  repeat' (first | simp only [kept_ite, ite_self, State.upLdg_kept, takeHoldUp_kept] | split)

theorem placeResults_kept (s : State) :
    kept (placeResults s) = kept s := by
  unfold placeResults
  simp only [State.upLdg_kept]

theorem placeCrossings_kept (x y : Sample) (vx vy : Rat) (s : State) :
    kept (placeCrossings x y vx vy s) = kept s := by
  unfold placeCrossings
  simp only [kept_ite, ite_self, State.upLdg_kept]

theorem voltageGap_kept (s : State) :
    kept (voltageGap s) = kept s := by
  unfold voltageGap
  simp only [kept_ite, ite_self, State.upLdg_kept]

theorem feedVbus_kept (y : Sample) (s : State) :
    kept (feedVbus y s) = kept s := by
  unfold feedVbus
  split <;> simp only [kept_ite, ite_self, State.upLdg_kept, ledgerFresh_kept, tryHoldUp_kept,
      placeResults_kept, placeCrossings_kept, voltageGap_kept]

theorem holdResult_kept (e : HoldRes) (s : State) :
    kept (holdResult e s) = kept s := by
  unfold holdResult
  simp only [kept_ite, ite_self, State.upLdg_kept, tryHoldUp_kept, placeResults_kept]

theorem feedIin_kept (x : Sample) (s : State) :
    kept (feedIin x s) = kept s := by
  unfold feedIin
  simp only [State.upLdg_kept, ledgerFresh_kept, holdResult_kept]

theorem feedPackCurrent_kept (x : Sample) (s : State) :
    kept (feedPackCurrent x s) = kept s := by
  unfold feedPackCurrent
  simp only [State.upLdg_kept, feedPackI_kept, holdResult_kept]

theorem feedEnergy_kept (chan : Nat) (x : Sample) (s : State) :
    kept (feedEnergy chan x s) = kept s := by
  unfold feedEnergy
  repeat' (first
    | simp only [kept_ite, feedPackV_kept, feedPackT_kept, feedVbus_kept, feedIin_kept,
        feedPackCurrent_kept]
    | split)

theorem ledgerMeans_kept (s : State) :
    kept (ledgerMeans s) = kept s := by
  unfold ledgerMeans
  simp only [State.upLdg_kept]

theorem rideTime_kept (s : State) :
    kept (rideTime s).1 = kept s := by
  unfold rideTime
  simp only [kept_ite_fst, ite_self, takeFree_kept, divFree_kept]

theorem showRide_kept (s : State) :
    kept (showRide s) = kept s := by
  unfold showRide
  split <;> simp only [State.upLdg_kept, rideTime_kept]

theorem ledgerFigures_kept (s : State) :
    kept (ledgerFigures s) = kept s := by
  unfold ledgerFigures
  simp only [State.upLdg_kept, releaseIdle_kept, showRide_kept]

theorem checkTriggers_kept (s : State) :
    kept (checkTriggers s) = kept s := by
  unfold checkTriggers
  simp only [kept_ite, ite_self, State.upLdg_kept, raiseEnergy_kept, powerFail_kept]

theorem recordTimer_kept (s : State) :
    kept (recordTimer s) = kept s := by
  unfold recordTimer
  simp only [kept_ite, ite_self, State.upGau_kept, commitGauge_kept]

theorem execLedgerUpdate_kept (s : State) :
    ∃ t, execLedgerUpdate s = .next t ∧ kept t = kept s := by
  unfold execLedgerUpdate; refine ⟨_, rfl, ?_⟩
  simp only [kept_ite, ite_self, State.upLdg_kept, spentIfDone_kept, gaugeUpdate_kept, ledgerMeans_kept,
      ledgerFigures_kept, checkTriggers_kept, recordTimer_kept]

theorem execInputLoss_kept (s : State) :
    ∃ t, execInputLoss s = .next t ∧ kept t = kept s := by
  unfold execInputLoss; refine ⟨_, rfl, ?_⟩
  simp only [kept_ite, ite_self, State.upLdg_kept, alertPorts_kept, countUp_kept, raiseEnergy_kept,
      tryHoldUp_kept, rideTime_kept]

theorem execInputReturnQualified_kept (s : State) :
    ∃ t, execInputReturnQualified s = .next t ∧ kept t = kept s := by
  unfold execInputReturnQualified; refine ⟨_, rfl, ?_⟩
  repeat' (first
    | simp only [kept_ite, State.upLdg_kept, alertPorts_kept, raiseEnergy_kept, closeBlackout_kept,
        inputReturns_kept]
    | split)

theorem execChannelStale_kept (gauge : Bool) (s : State) :
    ∃ t, execChannelStale gauge s = .next t ∧ kept t = kept s := by
  unfold execChannelStale; refine ⟨_, rfl, ?_⟩
  simp only [kept_ite, ite_self, State.upLdg_kept, State.upGau_kept, raiseEnergy_kept, disqualify_kept]

theorem execLdgGauBlockReset_kept (gauge : Bool) (s : State) :
    ∃ t, execLdgGauBlockReset gauge s = .next t ∧ kept t = kept s := by
  unfold execLdgGauBlockReset; refine ⟨_, rfl, ?_⟩
  simp only [kept_ite, ite_self, State.upLdg_kept, restampAt_kept, disqualify_kept, gaugeStart_kept,
      gaugeNew_kept, takeReset_kept]

theorem execChargerDone_kept (q : Ring) (s : State) :
    ∃ t, execChargerDone q s = .next t ∧ kept t = kept s := by
  unfold execChargerDone; refine ⟨_, rfl, ?_⟩
  split <;> simp only [kept_ite, ite_self, complete_kept, fullDetected_kept]

theorem execCaptestArm_kept (q : Ring) (s : State) :
    ∃ t, execCaptestArm q s = .next t ∧ kept t = kept s := by
  unfold execCaptestArm; refine ⟨_, rfl, ?_⟩
  split <;> simp only [kept_ite, ite_self, State.upLdg_kept, complete_kept]

theorem execCaptestDisarm_kept (q : Ring) (s : State) :
    ∃ t, execCaptestDisarm q s = .next t ∧ kept t = kept s := by
  unfold execCaptestDisarm; refine ⟨_, rfl, ?_⟩
  split <;> simp only [State.upLdg_kept, complete_kept]

theorem execLdgSet_kept (q : Ring) (buf : List Word) (s : State) :
    ∃ t, execLdgSet q buf s = .next t ∧ kept t = kept s := by
  unfold execLdgSet; refine ⟨_, rfl, ?_⟩
  split <;> simp only [runSet_kept]

theorem execLdgCommit_kept (m : Master) (v : Word) (s : State) :
    ∃ t, execLdgCommit m v s = .next t ∧ kept t = kept s := by
  unfold execLdgCommit; refine ⟨_, rfl, ?_⟩
  simp only [writeCommit_kept]

theorem goOnStart_kept (s : State) : kept (goOnStart s) = kept s := by
  unfold goOnStart
  split
  · rfl
  · rename_i h
    refine (beginWait_kept _ fun e => ?_).trans (State.upPwr_kept _ _ fun _ => rfl)
    apply h
    have e : s.pwr.phase = .por := e
    rw [e]
    rfl

theorem leaveEscalation_kept (s : State) :
    kept (leaveEscalation s) = kept s := by
  unfold leaveEscalation
  simp only [kept_ite, ite_self, State.upFlt_kept]

theorem classANow_kept (s : State) :
    kept (classANow s).1 = kept s := by
  unfold classANow
  repeat' (first | simp only [recLook_kept] | split)

theorem ackRecord_kept (s : State) :
    kept (ackRecord s) = kept s := by
  unfold ackRecord
  repeat' (first | simp only [kept_ite, State.upFlt_kept, recordCommit_kept, classANow_kept] | split)

theorem execFltAck_kept (q : Ring) (s : State) :
    ∃ t, execFltAck q s = .next t ∧ kept t = kept s := by
  unfold execFltAck; refine ⟨_, rfl, ?_⟩
  split <;> simp only [kept_ite, ite_self, State.upFlt_kept, complete_kept, clearPending_kept,
      clearCapture_kept, goOnStart_kept, leaveEscalation_kept, ackRecord_kept]

theorem execFltMode_kept (q : Ring) (s : State) :
    ∃ t, execFltMode q s = .next t ∧ kept t = kept s := by
  unfold execFltMode; refine ⟨_, rfl, ?_⟩
  split <;> simp only [State.upFlt_kept, complete_kept, leaveEscalation_kept]

theorem execFltInject_kept (q : Ring) (s : State) :
    ∃ t, execFltInject q s = .next t ∧ kept t = kept s := by
  unfold execFltInject; refine ⟨_, rfl, ?_⟩
  split <;> simp only [kept_ite, ite_self, complete_kept, raiseFull_kept]

theorem execFltSet_kept (q : Ring) (buf : List Word) (s : State) :
    ∃ t, execFltSet q buf s = .next t ∧ kept t = kept s := by
  unfold execFltSet; refine ⟨_, rfl, ?_⟩
  split <;> simp only [runSet_kept]

theorem execFltCommit_kept (m : Master) (v : Word) (s : State) :
    ∃ t, execFltCommit m v s = .next t ∧ kept t = kept s := by
  unfold execFltCommit; refine ⟨_, rfl, ?_⟩
  simp only [writeCommit_kept]

theorem writeFclr_kept (m : Master) (v : Word) (s : State) :
    kept (writeFclr m v s) = kept s := by
  unfold writeFclr
  repeat' (first
    | with_reducible rfl
    | simp only [kept_ite, ite_self, clearCapture_kept]
    | (with_reducible refine (kept_each _ _ _ (fun _ _ => ?_)).trans ?_ <;> beta_reduce)
    | (with_reducible refine (kept_foldl _ _ _ (fun _ _ => ?_)).trans ?_ <;> beta_reduce)
    | (with_reducible refine Eq.trans (State.upNvm_kept _ _ ?_) ?_; exact fun _ => rfl)
    | (with_reducible refine Eq.trans (State.upPwr_kept _ _ ?_) ?_; exact fun _ => rfl)
    | (with_reducible refine (regWrite_kept _ _ _ _ _ _ _ (fun _ => ?_)).trans ?_ <;> beta_reduce))

theorem execFltFclr_kept (m : Master) (v : Word) (s : State) :
    ∃ t, execFltFclr m v s = .next t ∧ kept t = kept s := by
  unfold execFltFclr; refine ⟨_, rfl, ?_⟩
  simp only [writeFclr_kept]

theorem writePend_kept (m : Master) (k : Fin 4) (v : Word) (s : State) :
    kept (writePend m k v s) = kept s := by
  unfold writePend
  repeat' (first
    | with_reducible rfl
    | simp only [clearPending_kept, leaveEscalation_kept]
    | (with_reducible refine (kept_each _ _ _ (fun _ _ => ?_)).trans ?_ <;> beta_reduce)
    | (with_reducible refine (kept_foldl _ _ _ (fun _ _ => ?_)).trans ?_ <;> beta_reduce)
    | (with_reducible refine Eq.trans (State.upNvm_kept _ _ ?_) ?_; exact fun _ => rfl)
    | (with_reducible refine Eq.trans (State.upPwr_kept _ _ ?_) ?_; exact fun _ => rfl)
    | (with_reducible refine (regWrite_kept _ _ _ _ _ _ _ (fun _ => ?_)).trans ?_ <;> beta_reduce))

theorem execFltPendClear_kept (m : Master) (k : Fin 4) (v : Word) (s : State) :
    ∃ t, execFltPendClear m k v s = .next t ∧ kept t = kept s := by
  unfold execFltPendClear; refine ⟨_, rfl, ?_⟩
  simp only [writePend_kept]

theorem ladderStep_kept (n : Fin 5) (s : State) :
    kept (ladderStep n s) = kept s := by
  unfold ladderStep
  simp only [State.upFlt_kept]

theorem ladderAlerts_kept (s : State) : kept (ladderAlerts s) = kept s := by
  have h : ∀ (es : List Nat) (t : Taking),
      kept (es.foldl (fun t e => takeAlert e t) t).s = kept t.s := by
    intro es
    induction es with
    | nil => intro t; rfl
    | cons e es ih => intro t; rw [List.foldl_cons, ih, takeAlert_kept]
  unfold ladderAlerts
  simp only [raiseUnsent_kept, h, ladderStep_kept]

theorem ladderResets_kept (s : State) :
    kept (ladderResets s) = kept s := by
  unfold ladderResets
  repeat' (first
    | simp only [askReset_kept, ladderStep_kept]
    | (with_reducible refine (kept_each _ _ _ (fun _ _ => ?_)).trans ?_ <;> beta_reduce)
    | split)

theorem ladderChipReset_kept (s : State) :
    kept (ladderChipReset s) = kept s := by
  unfold ladderChipReset
  simp only [kept_ite, ite_self, State.upFlt_kept, askChipReset_kept]

theorem execEscalationTimeout_kept (s : State) :
    ∃ t, execEscalationTimeout s = .next t ∧ kept t = kept s := by
  unfold execEscalationTimeout; refine ⟨_, rfl, ?_⟩
  repeat' (first
    | simp only [kept_ite, ladderAlerts_kept, ladderResets_kept, ladderChipReset_kept]
    | split)

theorem raiseImage_kept (unit cause index code : Nat) (s : State) :
    kept (raiseImage unit cause index code s) = kept s := by
  unfold raiseImage
  simp only [raise_kept]

theorem noteSlot_kept (k : Nat) (x : Option ImageSeen) (s : State) :
    kept (noteSlot k x s) = kept s := by
  unfold noteSlot
  split <;> simp only [raiseImage_kept]

theorem copyAo_kept (s : State) :
    kept (copyAo s) = kept s := by
  unfold copyAo
  simp only [State.upCmp_kept]

theorem loadImage_kept (slot : Fin 2) (i : Image) (s : State) :
    kept (loadImage slot i s) = kept s := by
  unfold loadImage
  repeat' (first
    | simp only [kept_ite, ite_self, State.upEng_kept, State.upRegs_kept, copyAo_kept]
    | (with_reducible refine Eq.trans (State.upNvm_kept _ _ ?_) ?_; exact fun _ => rfl)
    | split)

theorem nvDescriptor_kept (q : Ring) (r : NvReq) (s : State) :
    kept (nvDescriptor q r s) = kept s := by
  unfold nvDescriptor
  simp only [nvAsk_kept, decide__kept]

theorem refuseProtected_kept (q : Ring) (a : Nat) (s : State) :
    kept (refuseProtected q a s) = kept s := by
  unfold refuseProtected
  simp only [complete_kept, raiseAccess_kept]

theorem execNvRead_kept (q : Ring) (s : State) :
    ∃ t, execNvRead q s = .next t ∧ kept t = kept s := by
  unfold execNvRead; refine ⟨_, rfl, ?_⟩
  split <;> simp only [kept_ite, ite_self, complete_kept, nvDescriptor_kept]

theorem execNvWrite_kept (q : Ring) (buf : List Byte) (s : State) :
    ∃ t, execNvWrite q buf s = .next t ∧ kept t = kept s := by
  unfold execNvWrite; refine ⟨_, rfl, ?_⟩
  repeat' (first | simp only [kept_ite, complete_kept, nvDescriptor_kept, refuseProtected_kept] | split)

theorem execRecRead_kept (q : Ring) (s : State) :
    ∃ t, execRecRead q s = .next t ∧ kept t = kept s := by
  unfold execRecRead; refine ⟨_, rfl, ?_⟩
  split <;> simp only [kept_ite, ite_self, complete_kept, nvDescriptor_kept]

theorem execRecCommit_kept (q : Ring) (buf : List Byte) (s : State) :
    ∃ t, execRecCommit q buf s = .next t ∧ kept t = kept s := by
  unfold execRecCommit; refine ⟨_, rfl, ?_⟩
  repeat' (first | simp only [kept_ite, complete_kept, nvDescriptor_kept, refuseProtected_kept] | split)

theorem execCntInc_kept (q : Ring) (s : State) :
    ∃ t, execCntInc q s = .next t ∧ kept t = kept s := by
  unfold execCntInc; refine ⟨_, rfl, ?_⟩
  repeat' (first
    | simp only [kept_ite, ite_self, complete_kept, nvDescriptor_kept, refuseProtected_kept]
    | split)

theorem readCounter_kept (q : Ring) (n : Nat) (ecc : EccReport) (s : State) :
    kept (readCounter q n ecc s) = kept s := by
  unfold readCounter
  simp only [complete_kept, seeWords_kept]

theorem execCntRead_kept (q : Ring) (ecc : EccReport) (s : State) :
    ∃ t, execCntRead q ecc s = .next t ∧ kept t = kept s := by
  unfold execCntRead; refine ⟨_, rfl, ?_⟩
  split <;> simp only [kept_ite, ite_self, complete_kept, nvDescriptor_kept, readCounter_kept]

theorem execImgWrite_kept (q : Ring) (buf : List Byte) (s : State) :
    ∃ t, execImgWrite q buf s = .next t ∧ kept t = kept s := by
  unfold execImgWrite; refine ⟨_, rfl, ?_⟩
  repeat' (first | simp only [kept_ite, complete_kept, nvDescriptor_kept, refuseProtected_kept] | split)

theorem requeue_kept (r : NvReq) (s : State) :
    kept (requeue r s) = kept s := by
  unfold requeue
  repeat' (first
    | simp only [kept_ite, kept_ite_fst, ite_self]
    | (with_reducible refine Eq.trans (State.upNvm_kept _ _ ?_) ?_; exact fun _ => rfl)
    | split)

theorem readPage_kept (ecc : EccReport) (r : NvReq) (s : State) :
    kept (readPage ecc r s).1 = kept s := by
  unfold readPage
  split <;> simp only [seeWords_kept]

theorem stepRead_kept (q : Ring) (a len : Nat) (ecc : EccReport) (r : NvReq) (s : State) :
    kept (stepRead q a len ecc r s) = kept s := by
  unfold stepRead
  simp only [kept_ite, ite_self, completeData_kept, seeWords_kept, requeue_kept]

theorem giveRecord_kept (q : Ring) (seq : Nat) (p : List Byte) (s : State) :
    kept (giveRecord q seq p s) = kept s := by
  unfold giveRecord
  simp only [completeData_kept]

theorem stepRecRead_kept (q : Ring) (id : Fin 64) (stage : Fin 3) (ecc : EccReport) (r : NvReq) (s :
    State) :
    kept (stepRecRead q id stage ecc r s) = kept s := by
  unfold stepRecRead
  repeat' (first
    | simp only [kept_ite, ite_self, complete_kept, noteCopy_kept, requeue_kept, readPage_kept,
        giveRecord_kept]
    | (with_reducible refine Eq.trans (State.upNvm_kept _ _ ?_) ?_; exact fun _ => rfl)
    | split)

theorem commitEnds_kept (id : Fin 64) (ring : Option Ring) (ok : Bool) (seq : Nat) (s : State) :
    kept (commitEnds id ring ok seq s) = kept s := by
  unfold commitEnds
  split <;> simp only [kept_ite, ite_self, complete_kept, raiseEnergy_kept, calCommitted_kept,
      calRefused_kept]

theorem scrubWord_kept (ecc : EccReport) (w : Nat) (s : State) :
    kept (scrubWord ecc w s) = kept s := by
  unfold scrubWord
  repeat' (first
    | simp only [seeWord_kept]
    | (with_reducible refine Eq.trans (State.upNvm_kept _ _ ?_) ?_; exact fun _ => rfl)
    | split)

theorem stepScrub_kept (left : Nat) (ecc : EccReport) (r : NvReq) (s : State) :
    kept (stepScrub left ecc r s) = kept s := by
  unfold stepScrub
  repeat' (first
    | with_reducible rfl
    | simp only [kept_ite, ite_self, recordCommit_kept, dropBook_kept, requeue_kept, scrubWord_kept]
    | (with_reducible refine (kept_each _ _ _ (fun _ _ => ?_)).trans ?_ <;> beta_reduce)
    | (with_reducible refine (kept_foldl _ _ _ (fun _ _ => ?_)).trans ?_ <;> beta_reduce)
    | (with_reducible refine Eq.trans (State.upNvm_kept _ _ ?_) ?_; exact fun _ => rfl))

theorem execScrubInterval_kept (s : State) :
    ∃ t, execScrubInterval s = .next t ∧ kept t = kept s := by
  unfold execScrubInterval; refine ⟨_, rfl, ?_⟩
  simp only [kept_ite, ite_self, nvAsk_kept, countRefusal_kept, book_kept]

theorem execNvBlockReset_kept (s : State) :
    ∃ t, execNvBlockReset s = .next t ∧ kept t = kept s := by
  unfold execNvBlockReset; refine ⟨_, rfl, ?_⟩
  repeat' (first
    | with_reducible rfl
    | simp only [kept_ite, ite_self, complete_kept, dropBook_kept, restampAt_kept, scanRecords_kept,
        takeReset_kept]
    | (with_reducible refine (kept_each _ _ _ (fun _ _ => ?_)).trans ?_ <;> beta_reduce)
    | (with_reducible refine (kept_foldl _ _ _ (fun _ _ => ?_)).trans ?_ <;> beta_reduce)
    | (with_reducible refine Eq.trans (State.upNvm_kept _ _ ?_) ?_; exact fun _ => rfl)
    | (with_reducible refine Eq.trans (State.upPwr_kept _ _ ?_) ?_; exact fun _ => rfl)
    | split)

theorem killCommit_kept (code : Nat) (r : NvReq) (s : State) :
    kept (killCommit code r s) = kept s := by
  unfold killCommit
  split <;> simp only [kept_ite, ite_self, raiseEnergy_kept, calRefused_kept]

theorem killCommits_kept (code : Nat) (s : State) :
    kept (killCommits code s) = kept s := by
  unfold killCommits
  repeat' (first
    | with_reducible rfl
    | simp only [killCommit_kept]
    | (with_reducible refine (kept_each _ _ _ (fun _ _ => ?_)).trans ?_ <;> beta_reduce)
    | (with_reducible refine (kept_foldl _ _ _ (fun _ _ => ?_)).trans ?_ <;> beta_reduce)
    | (with_reducible refine Eq.trans (State.upNvm_kept _ _ ?_) ?_; exact fun _ => rfl))

theorem execNvmCommit_kept (m : Master) (v : Word) (s : State) :
    ∃ t, execNvmCommit m v s = .next t ∧ kept t = kept s := by
  unfold execNvmCommit; refine ⟨_, rfl, ?_⟩
  simp only [writeCommit_kept]

theorem enter_kept (q : Ring) (s : State) :
    kept (enter q s) = kept s := by
  unfold enter
  repeat' (first | simp only [State.upHif_kept, State.upSq_kept, complete_kept] | split)

theorem refill_kept (s : State) :
    kept (refill s) = kept s := by
  unfold refill
  simp only [State.upHif_kept]

theorem enterTurns_kept (n : Nat) (s : State) : kept (enterTurns n s) = kept s := by
  induction n generalizing s with
  | zero => rfl
  | succ n ih =>
    simp only [enterTurns]
    repeat' (first | simp only [ih, enter_kept, refill_kept] | split)

theorem enterRings_kept (s : State) :
    kept (enterRings s) = kept s := by
  unfold enterRings
  simp only [kept_ite, ite_self, State.upHif_kept, enterTurns_kept]

theorem flushOne_kept (q : Ring) (f : Fetched) (s : State) :
    kept (flushOne q f s) = kept s := by
  unfold flushOne
  simp only [State.upSq_kept, State.upCq_kept]

theorem flushFetched_kept (q : Ring) (s : State) :
    kept (flushFetched q s) = kept s := by
  unfold flushFetched
  repeat' (first
    | simp only [State.upSq_kept, flushOne_kept]
    | (with_reducible refine (kept_each _ _ _ (fun _ _ => ?_)).trans ?_ <;> beta_reduce)
    | split)

theorem finishStop_kept (r : Ring) (s : State) :
    kept (finishStop r s) = kept s := by
  unfold finishStop
  simp only [kept_ite, ite_self, State.upSq_kept, complete_kept]

theorem stopRing_kept (r : Ring) (s : State) :
    kept (stopRing r s) = kept s := by
  unfold stopRing
  simp only [kept_ite, ite_self, State.upSq_kept, flushFetched_kept, finishStop_kept]

theorem enableSq_kept (r : Ring) (s : State) :
    kept (enableSq r s) = kept s := by
  unfold enableSq
  simp only [State.upSq_kept]

theorem enableCq_kept (c : Ring) (s : State) :
    kept (enableCq c s) = kept s := by
  unfold enableCq
  simp only [State.upCq_kept]

theorem execRingSetStop_kept (q : Ring) (s : State) :
    ∃ t, execRingSetStop q s = .next t ∧ kept t = kept s := by
  unfold execRingSetStop; refine ⟨_, rfl, ?_⟩
  split <;> simp only [kept_ite, ite_self, complete_kept, act__kept, stopRing_kept]

theorem execRingSetStart_kept (q : Ring) (s : State) :
    ∃ t, execRingSetStart q s = .next t ∧ kept t = kept s := by
  unfold execRingSetStart; refine ⟨_, rfl, ?_⟩
  split <;> simp only [kept_ite, ite_self, State.upSq_kept, State.upCq_kept, complete_kept,
      enableSq_kept, enableCq_kept]

theorem execNop_kept (q : Ring) (s : State) :
    ∃ t, execNop q s = .next t ∧ kept t = kept s := by
  unfold execNop; refine ⟨_, rfl, ?_⟩
  split <;> simp only [complete_kept]

theorem askDoorbell_kept (s : State) :
    kept (askDoorbell s) = kept s := by
  unfold askDoorbell
  simp only [kept_ite, ite_self, State.upHif_kept, State.emit_kept]

theorem shadowSq_kept (q : Ring) (s : State) :
    kept (shadowSq q s) = kept s := by
  unfold shadowSq
  simp only [State.emit_kept]

theorem shadowCq_kept (c : Ring) (s : State) :
    kept (shadowCq c s) = kept s := by
  unfold shadowCq
  simp only [State.emit_kept]

theorem writeShadow_kept (q c : Ring) (s : State) :
    kept (writeShadow q c s) = kept s := by
  unfold writeShadow
  simp only [shadowSq_kept, shadowCq_kept]

theorem doorbellEnds_kept (s : State) :
    kept (doorbellEnds s) = kept s := by
  unfold doorbellEnds
  simp only [kept_ite, ite_self, State.upHif_kept, State.emit_kept]

theorem raiseRing_kept (q : Ring) (elem : Nat) (w : Word) (s : State) :
    kept (raiseRing q elem w s) = kept s := by
  unfold raiseRing
  simp only [raiseLimited_kept]

theorem takeTail_kept (page : List Word) (q : Ring) (s : State) :
    kept (takeTail page q s) = kept s := by
  unfold takeTail
  repeat' (first | simp only [kept_ite, State.upSq_kept, raiseRing_kept] | split)

theorem takeHead_kept (page : List Word) (c : Ring) (s : State) :
    kept (takeHead page c s) = kept s := by
  unfold takeHead
  repeat' (first | simp only [kept_ite, State.upCq_kept, raiseRing_kept] | split)

theorem noteShown_kept (s : State) :
    kept (noteShown s) = kept s := by
  unfold noteShown
  simp only [State.upHif_kept]

theorem execKickWrite_kept (off : Nat) (_v : Word) (s : State) :
    ∃ t, execKickWrite off _v s = .next t ∧ kept t = kept s := by
  unfold execKickWrite; refine ⟨_, rfl, ?_⟩
  simp only [kept_ite, ite_self, askDoorbell_kept]

theorem fetchOne_kept (q : Ring) (bs : List Byte) (s : State) :
    kept (fetchOne q bs s) = kept s := by
  unfold fetchOne
  simp only [State.upSq_kept]

theorem completionMessage_kept (c : Ring) (s : State) :
    kept (completionMessage c s) = kept s := by
  unfold completionMessage
  simp only [kept_ite, ite_self, State.upCq_kept, sendMsix_kept, raiseUnsent_kept]

theorem countPosted_kept (c : Ring) (s : State) :
    kept (countPosted c s) = kept s := by
  unfold countPosted
  simp only [kept_ite, ite_self, State.upCq_kept, completionMessage_kept]

theorem postOne_kept (c : Ring) (x : Completion) (rest : List Completion) (s : State) :
    kept (postOne c x rest s) = kept s := by
  unfold postOne
  split <;> simp only [kept_ite, ite_self, State.upSq_kept, State.upCq_kept, State.emit_kept,
      writeShadow_kept, countPosted_kept]

theorem afterPost_kept (q : Ring) (s : State) :
    kept (afterPost q s) = kept s := by
  unfold afterPost
  simp only [kept_ite, ite_self, flushFetched_kept, finishStop_kept]

theorem postHeld_kept (c : Ring) (s : State) :
    kept (postHeld c s) = kept s := by
  unfold postHeld
  repeat' (first
    | simp only [kept_ite, ite_self, postOne_kept]
    | (with_reducible refine (kept_each _ _ _ (fun _ _ => ?_)).trans ?_ <;> beta_reduce)
    | split)

theorem shadowAll_kept (s : State) :
    kept (shadowAll s) = kept s := by
  unfold shadowAll
  repeat' (first
    | simp only [kept_ite, shadowSq_kept, shadowCq_kept]
    | (with_reducible refine (kept_each _ _ _ (fun _ _ => ?_)).trans ?_ <;> beta_reduce)
    | split)

theorem recoverRings_kept (s : State) :
    kept (recoverRings s) = kept s := by
  unfold recoverRings
  repeat' (first
    | simp only [State.upHif_kept, raise_kept, flushFetched_kept, finishStop_kept, askDoorbell_kept,
        postHeld_kept, shadowAll_kept]
    | (with_reducible refine (kept_each _ _ _ (fun _ _ => ?_)).trans ?_ <;> beta_reduce)
    | split)

theorem ringsResume_kept (s : State) :
    kept (ringsResume s) = kept s := by
  unfold ringsResume
  simp only [kept_ite, ite_self, recoverRings_kept]

theorem execDoorbellPoll_kept (page : List Word) (s : State) :
    ∃ t, execDoorbellPoll page s = .next t ∧ kept t = kept s := by
  unfold execDoorbellPoll; refine ⟨_, rfl, ?_⟩
  repeat' (first
    | simp only [kept_ite, enterRings_kept, doorbellEnds_kept, takeTail_kept, takeHead_kept,
        noteShown_kept, ringsResume_kept]
    | (with_reducible refine (kept_each _ _ _ (fun _ _ => ?_)).trans ?_ <;> beta_reduce)
    | split)

theorem execDescriptorFetch_kept (q : Ring) (entries : List (List Byte)) (s : State) :
    ∃ t, execDescriptorFetch q entries s = .next t ∧ kept t = kept s := by
  unfold execDescriptorFetch; refine ⟨_, rfl, ?_⟩
  repeat' (first
    | simp only [enterRings_kept, fetchOne_kept, ringsResume_kept]
    | (with_reducible refine (kept_each _ _ _ (fun _ _ => ?_)).trans ?_ <;> beta_reduce)
    | split)

theorem execCompletionPost_kept (c : Ring) (s : State) :
    ∃ t, execCompletionPost c s = .next t ∧ kept t = kept s := by
  unfold execCompletionPost; refine ⟨_, rfl, ?_⟩
  split <;> simp only [kept_ite, ite_self, enterRings_kept, postOne_kept, afterPost_kept,
      ringsResume_kept]

theorem execCqCoalescingTimeout_kept (c : Ring) (s : State) :
    ∃ t, execCqCoalescingTimeout c s = .next t ∧ kept t = kept s := by
  unfold execCqCoalescingTimeout; refine ⟨_, rfl, ?_⟩
  simp only [kept_ite, ite_self, completionMessage_kept]

theorem raiseHostMem_kept (unit elem type : Nat) (addr : BitVec 64) (s : State) :
    kept (raiseHostMem unit elem type addr s) = kept s := by
  unfold raiseHostMem
  simp only [raiseAccess_kept]

theorem fetchFails_kept (q : Ring) (s : State) :
    kept (fetchFails q s) = kept s := by
  unfold fetchFails
  simp only [kept_ite, ite_self, State.upSq_kept, State.upCq_kept, raiseHostMem_kept]

theorem dataReadFails_kept (q : Ring) (s : State) :
    kept (dataReadFails q s) = kept s := by
  unfold dataReadFails
  split <;> simp only [kept_ite, ite_self, complete_kept, raiseHostMem_kept]

theorem dataWriteFails_kept (q : Ring) (s : State) :
    kept (dataWriteFails q s) = kept s := by
  unfold dataWriteFails
  repeat' (first | simp only [State.upCq_kept, raiseHostMem_kept] | split)

theorem execHostMemoryAccessFailed_kept (a : HostAccess) (s : State) :
    ∃ t, execHostMemoryAccessFailed a s = .next t ∧ kept t = kept s := by
  unfold execHostMemoryAccessFailed; refine ⟨_, rfl, ?_⟩
  repeat' (first
    | simp only [kept_ite, ite_self, State.upCq_kept, doorbellEnds_kept, raiseHostMem_kept,
        fetchFails_kept, dataReadFails_kept, dataWriteFails_kept]
    | split)

theorem sendPending_kept (s : State) :
    kept (sendPending s) = kept s := by
  unfold sendPending
  repeat' (first
    | simp only [kept_ite, ite_self, State.upHif_kept, State.emit_kept]
    | (with_reducible refine (kept_each _ _ _ (fun _ _ => ?_)).trans ?_ <;> beta_reduce)
    | split)

theorem setLink_kept (speed : BitVec 2) (s : State) :
    kept (setLink speed s) = kept s := by
  unfold setLink
  simp only [kept_ite, ite_self, State.upHif_kept, raise_kept]

theorem execPcieConfigurationWrite_kept (w : CfgWrite) (s : State) :
    ∃ t, execPcieConfigurationWrite w s = .next t ∧ kept t = kept s := by
  unfold execPcieConfigurationWrite; refine ⟨_, rfl, ?_⟩
  repeat' (first
    | simp only [kept_ite, State.upHif_kept, enterRings_kept, sendPending_kept, setLink_kept]
    | split)

theorem execMsixTableWrite_kept (vec : Fin 32) (dword : Fin 4) (v : Word) (s : State) :
    ∃ t, execMsixTableWrite vec dword v s = .next t ∧ kept t = kept s := by
  unfold execMsixTableWrite; refine ⟨_, rfl, ?_⟩
  simp only [kept_ite, ite_self, State.upHif_kept, sendPending_kept]

theorem logAer_kept (s : State) :
    kept (logAer s) = kept s := by
  unfold logAer
  simp only [kept_ite, ite_self, State.upHif_kept, takeFree_kept]

theorem execPcieUncorrectableError_kept (s : State) :
    ∃ t, execPcieUncorrectableError s = .next t ∧ kept t = kept s := by
  unfold execPcieUncorrectableError; refine ⟨_, rfl, ?_⟩
  simp only [kept_ite, ite_self, raise_kept, logAer_kept]

theorem linkEvent_kept (cause : HifCause) (wasUp : Bool) (s : State) :
    kept (linkEvent cause wasUp s) = kept s := by
  unfold linkEvent
  split <;> simp only [kept_ite, ite_self, raise_kept]

theorem dropWaiting_kept (q : Ring) (s : State) :
    kept (dropWaiting q s) = kept s := by
  unfold dropWaiting
  repeat' (first
    | with_reducible rfl
    | simp only [State.upTw_kept]
    | (with_reducible refine (kept_each _ _ _ (fun _ _ => ?_)).trans ?_ <;> beta_reduce)
    | (with_reducible refine (kept_foldl _ _ _ (fun _ _ => ?_)).trans ?_ <;> beta_reduce)
    | (with_reducible refine Eq.trans (State.upNvm_kept _ _ ?_) ?_; exact fun _ => rfl)
    | (with_reducible refine Eq.trans (State.upPwr_kept _ _ ?_) ?_; exact fun _ => rfl))

theorem abandon_kept (q : Ring) (s : State) :
    kept (abandon q s) = kept s := by
  unfold abandon
  split <;> simp only [kept_ite, ite_self, complete_kept, dropWaiting_kept]

theorem hifReset_kept (s : State) :
    kept (hifReset s) = kept s := by
  unfold hifReset
  repeat' (first
    | simp only [State.upHif_kept, abandon_kept]
    | (with_reducible refine (kept_each _ _ _ (fun _ _ => ?_)).trans ?_ <;> beta_reduce)
    | split)

theorem execHifBlockReset_kept (cause : HifCause) (s : State) :
    ∃ t, execHifBlockReset cause s = .next t ∧ kept t = kept s := by
  unfold execHifBlockReset; refine ⟨_, rfl, ?_⟩
  simp only [kept_ite, ite_self, State.upHif_kept, takeReset_kept, ringsResume_kept, linkEvent_kept,
      hifReset_kept]

theorem writeSqCfg_kept (m : Master) (off : Nat) (q : Ring) (v : Word) (s : State) :
    kept (writeSqCfg m off q v s) = kept s := by
  unfold writeSqCfg
  simp only [kept_ite, ite_self, State.upSq_kept, rejectWrite_kept, stopRing_kept, enableSq_kept]

theorem writeCqCfg_kept (m : Master) (off : Nat) (c : Ring) (v : Word) (s : State) :
    kept (writeCqCfg m off c v s) = kept s := by
  unfold writeCqCfg
  simp only [kept_ite, ite_self, State.upCq_kept, rejectWrite_kept, enableCq_kept]

theorem writePage64_kept (m : Master) (off : Nat) (align : Word) (busy high : Bool) (v : Word) (put :
    State → State) (s : State)
    (h : ∀ s, kept (put s) = kept s) :
    kept (writePage64 m off align busy high v put s) = kept s := by
  unfold writePage64
  simp only [kept_ite, ite_self, rejectWrite_kept, h]

theorem putRing_kept (m : Master) (off : Nat) (v : Word) (s : State) :
    kept (putRing m off v s) = kept s := by
  unfold putRing
  repeat' (first
    | with_reducible rfl
    | simp only [kept_ite, ite_self, State.upHif_kept, State.upSq_kept, State.upCq_kept,
        rejectWrite_kept, writeSqCfg_kept, writeCqCfg_kept]
    | (with_reducible refine (kept_each _ _ _ (fun _ _ => ?_)).trans ?_ <;> beta_reduce)
    | (with_reducible refine (kept_foldl _ _ _ (fun _ _ => ?_)).trans ?_ <;> beta_reduce)
    | (with_reducible refine Eq.trans (State.upNvm_kept _ _ ?_) ?_; exact fun _ => rfl)
    | (with_reducible refine Eq.trans (State.upPwr_kept _ _ ?_) ?_; exact fun _ => rfl)
    | (with_reducible refine (writePage64_kept _ _ _ _ _ _ _ _ (fun _ => ?_)).trans ?_ <;> beta_reduce)
    | split)

theorem writeRing_kept (m : Master) (off : Nat) (v : Word) (s : State) :
    kept (writeRing m off v s) = kept s := by
  unfold writeRing
  repeat' (first
    | with_reducible rfl
    | simp only [kept_ite, rejectWrite_kept, putRing_kept]
    | (with_reducible refine (kept_each _ _ _ (fun _ _ => ?_)).trans ?_ <;> beta_reduce)
    | (with_reducible refine (kept_foldl _ _ _ (fun _ _ => ?_)).trans ?_ <;> beta_reduce)
    | (with_reducible refine Eq.trans (State.upNvm_kept _ _ ?_) ?_; exact fun _ => rfl)
    | (with_reducible refine Eq.trans (State.upPwr_kept _ _ ?_) ?_; exact fun _ => rfl)
    | (with_reducible refine (regWrite_kept _ _ _ _ _ _ _ (fun _ => ?_)).trans ?_ <;> beta_reduce)
    | split)

theorem execRingRegisterWrite_kept (m : Master) (off : Nat) (v : Word) (s : State) :
    ∃ t, execRingRegisterWrite m off v s = .next t ∧ kept t = kept s := by
  unfold execRingRegisterWrite; refine ⟨_, rfl, ?_⟩
  simp only [kept_ite, ite_self, enterRings_kept, writeRing_kept]

theorem raiseTw_kept (p : Port) (cause elem high code : Nat) (s : State) :
    kept (raiseTw p cause elem high code s) = kept s := by
  unfold raiseTw
  simp only [raiseLimited_kept]

theorem endTwJob_kept (code : Nat) (s : State) (j : TwJob) :
    kept (endTwJob code s j) = kept s := by
  unfold endTwJob
  simp only [complete_kept]

theorem endTwJobs_kept (n : Port) (code : Nat) (p : TwJob → Bool) (s : State) :
    kept (endTwJobs n code p s) = kept s := by
  unfold endTwJobs
  repeat' (first
    | with_reducible rfl
    | simp only [State.upTwPort_kept, endTwJob_kept]
    | (with_reducible refine (kept_each _ _ _ (fun _ _ => ?_)).trans ?_ <;> beta_reduce)
    | (with_reducible refine (kept_foldl _ _ _ (fun _ _ => ?_)).trans ?_ <;> beta_reduce))

theorem twRest_kept (p : Port) (s : State) :
    kept (twRest p s) = kept s := by
  unfold twRest
  simp only [State.upTwPort_kept]

theorem followTw_kept (p : Port) (s : State) :
    kept (followTw p s) = kept s := by
  unfold followTw
  simp only [kept_ite, ite_self, State.upTwPort_kept, endTwJobs_kept, twRest_kept]

theorem followTwAll_kept (s : State) :
    kept (followTwAll s) = kept s := by
  unfold followTwAll
  repeat' (first
    | simp only [State.upTw_kept, followTw_kept]
    | (with_reducible refine (kept_each _ _ _ (fun _ _ => ?_)).trans ?_ <;> beta_reduce)
    | split)

theorem nextTwJob_kept (p : Port) (s : State) :
    kept (nextTwJob p s) = kept s := by
  unfold nextTwJob
  simp only [State.upTwPort_kept, twRest_kept, followTw_kept]

theorem failTwJob_kept (p : Port) (code : Nat) (s : State) :
    kept (failTwJob p code s) = kept s := by
  unfold failTwJob
  repeat' (first | simp only [State.upTwPort_kept, endTwJob_kept, nextTwJob_kept] | split)

theorem noteTwPlace_kept (p : Port) (phase : BitVec 2) (byte : BitVec 9) (s : State) :
    kept (noteTwPlace p phase byte s) = kept s := by
  unfold noteTwPlace
  simp only [State.upTwPort_kept]

theorem noteUnbegun_kept (p : Port) (s : State) :
    kept (noteUnbegun p s) = kept s := by
  unfold noteUnbegun
  split <;> simp only [noteTwPlace_kept]

theorem quarantine_kept (p : Port) (s : State) :
    kept (quarantine p s) = kept s := by
  unfold quarantine
  simp only [State.upTwPort_kept, raiseTw_kept, endTwJobs_kept, noteUnbegun_kept]

theorem busCleared_kept (p : Port) (c : BusClear) (s : State) :
    kept (busCleared p c s) = kept s := by
  unfold busCleared
  simp only [kept_ite, ite_self, State.upTwPort_kept, State.emit_kept, raiseTw_kept, quarantine_kept]

theorem testLines_kept (p : Port) (sclLow : Bool) (c : BusClear) (s : State) :
    kept (testLines p sclLow c s) = kept s := by
  unfold testLines
  simp only [kept_ite, ite_self, twRest_kept, followTw_kept, quarantine_kept, busCleared_kept]

theorem losePrn_kept (s : State) :
    kept (losePrn s) = kept s := by
  unfold losePrn
  repeat' (first
    | simp only [State.upPrn_kept, forgetSeq_kept, disablePort_kept]
    | (with_reducible refine (kept_each _ _ _ (fun _ _ => ?_)).trans ?_ <;> beta_reduce)
    | split)

theorem loseTw_kept (s : State) :
    kept (loseTw s) = kept s := by
  unfold loseTw
  repeat' (first
    | with_reducible rfl
    | simp only [State.upTw_kept, forgetSeq_kept, endTwJob_kept]
    | (with_reducible refine (kept_each _ _ _ (fun _ _ => ?_)).trans ?_ <;> beta_reduce)
    | (with_reducible refine (kept_foldl _ _ _ (fun _ _ => ?_)).trans ?_ <;> beta_reduce))

theorem loseGau_kept (s : State) :
    kept (loseGau s) = kept s := by
  unfold loseGau
  simp only [State.upLdg_kept, State.upGau_kept, forgetSeq_kept, disqualify_kept]

theorem losePairs_kept (ps : List PairNo) (s : State) :
    kept (losePairs ps s) = kept s := by
  unfold losePairs
  repeat' (first
    | simp only [State.upEngRail_kept, State.upPair_kept, State.upPhase_kept, blockPair_kept]
    | (with_reducible refine (kept_each _ _ _ (fun _ _ => ?_)).trans ?_ <;> beta_reduce)
    | split)

theorem loseDomain_kept (d : Nat) (s : State) :
    kept (loseDomain d s) = kept s := by
  unfold loseDomain
  simp only [kept_ite, ite_self, losePrn_kept, loseTw_kept, loseGau_kept, losePairs_kept]

theorem readReg_kept (m : Master) (off : Nat) (s : State) :
    kept (readReg m off s).1 = kept s := by
  unfold readReg
  repeat' (first | simp only [kept_ite_fst, ite_self, State.upRegs_kept] | split)

theorem readBeyond_kept (off : Nat) (s : State) : kept (readBeyond off s) = kept s := by
  unfold readBeyond
  split
  · rfl
  · split
    · rfl
    · exact takeFree_kept s

theorem execHoldingRegisterRead_kept (m : Master) (off : Nat) (s : State) :
    ∃ t, execHoldingRegisterRead m off s = .next t ∧ kept t = kept s := by
  unfold execHoldingRegisterRead
  refine ⟨_, rfl, ?_⟩
  dsimp only
  split
  · rfl
  · split
    · split
      · exact readBeyond_kept _ _
      · rfl
    · split
      · rfl
      · exact readReg_kept _ _ _

theorem writeShadowed_kept (b : Blk) (m : Master) (off : Nat) (v : Word) (s : State) :
    kept (writeShadowed b m off v s) = kept s := by
  unfold writeShadowed
  repeat' (first
    | with_reducible rfl
    | simp only [kept_ite, ite_self, State.upRegs_kept, rejectWrite_kept]
    | (with_reducible refine (kept_each _ _ _ (fun _ _ => ?_)).trans ?_ <;> beta_reduce)
    | (with_reducible refine (kept_foldl _ _ _ (fun _ _ => ?_)).trans ?_ <;> beta_reduce)
    | (with_reducible refine Eq.trans (State.upNvm_kept _ _ ?_) ?_; exact fun _ => rfl)
    | (with_reducible refine Eq.trans (State.upPwr_kept _ _ ?_) ?_; exact fun _ => rfl)
    | (with_reducible refine (regWrite_kept _ _ _ _ _ _ _ (fun _ => ?_)).trans ?_ <;> beta_reduce))

theorem writeRdsel_kept (m : Master) (v : Word) (s : State) :
    kept (writeRdsel m v s) = kept s := by
  unfold writeRdsel
  repeat' (first
    | with_reducible rfl
    | simp only [State.upRegs_kept]
    | (with_reducible refine (kept_each _ _ _ (fun _ _ => ?_)).trans ?_ <;> beta_reduce)
    | (with_reducible refine (kept_foldl _ _ _ (fun _ _ => ?_)).trans ?_ <;> beta_reduce)
    | (with_reducible refine Eq.trans (State.upNvm_kept _ _ ?_) ?_; exact fun _ => rfl)
    | (with_reducible refine Eq.trans (State.upPwr_kept _ _ ?_) ?_; exact fun _ => rfl)
    | (with_reducible refine (regWrite_kept _ _ _ _ _ _ _ (fun _ => ?_)).trans ?_ <;> beta_reduce))

theorem writeWsel_kept (m : Master) (v : Word) (s : State) :
    kept (writeWsel m v s) = kept s := by
  unfold writeWsel
  repeat' (first
    | with_reducible rfl
    | simp only [State.upEng_kept]
    | (with_reducible refine (kept_each _ _ _ (fun _ _ => ?_)).trans ?_ <;> beta_reduce)
    | (with_reducible refine (kept_foldl _ _ _ (fun _ _ => ?_)).trans ?_ <;> beta_reduce)
    | (with_reducible refine Eq.trans (State.upNvm_kept _ _ ?_) ?_; exact fun _ => rfl)
    | (with_reducible refine Eq.trans (State.upPwr_kept _ _ ?_) ?_; exact fun _ => rfl)
    | (with_reducible refine (regWrite_kept _ _ _ _ _ _ _ (fun _ => ?_)).trans ?_ <;> beta_reduce))

theorem setLock_kept (s : State) :
    kept (setLock s) = kept s := by
  unfold setLock
  simp only [kept_ite, ite_self, State.upRegs_kept]

theorem writeLock_kept (m : Master) (v : Word) (s : State) :
    kept (writeLock m v s) = kept s := by
  unfold writeLock
  repeat' (first
    | with_reducible rfl
    | simp only [kept_ite, ite_self, rejectWrite_kept, setLock_kept]
    | (with_reducible refine (kept_each _ _ _ (fun _ _ => ?_)).trans ?_ <;> beta_reduce)
    | (with_reducible refine (kept_foldl _ _ _ (fun _ _ => ?_)).trans ?_ <;> beta_reduce)
    | (with_reducible refine Eq.trans (State.upNvm_kept _ _ ?_) ?_; exact fun _ => rfl)
    | (with_reducible refine Eq.trans (State.upPwr_kept _ _ ?_) ?_; exact fun _ => rfl)
    | (with_reducible refine (regWrite_kept _ _ _ _ _ _ _ (fun _ => ?_)).trans ?_ <;> beta_reduce))

theorem execHifSetupLock_kept (m : Master) (v : Word) (s : State) :
    ∃ t, execHifSetupLock m v s = .next t ∧ kept t = kept s := by
  unfold execHifSetupLock; refine ⟨_, rfl, ?_⟩
  simp only [writeLock_kept]

theorem writeTimeLow_kept (m : Master) (v : Word) (s : State) :
    kept (writeTimeLow m v s) = kept s := by
  unfold writeTimeLow
  repeat' (first
    | with_reducible rfl
    | simp only [State.upTmr_kept]
    | (with_reducible refine (kept_each _ _ _ (fun _ _ => ?_)).trans ?_ <;> beta_reduce)
    | (with_reducible refine (kept_foldl _ _ _ (fun _ _ => ?_)).trans ?_ <;> beta_reduce)
    | (with_reducible refine Eq.trans (State.upNvm_kept _ _ ?_) ?_; exact fun _ => rfl)
    | (with_reducible refine Eq.trans (State.upPwr_kept _ _ ?_) ?_; exact fun _ => rfl)
    | (with_reducible refine (regWrite_kept _ _ _ _ _ _ _ (fun _ => ?_)).trans ?_ <;> beta_reduce))

theorem writeTimeHigh_kept (m : Master) (v : Word) (s : State) :
    kept (writeTimeHigh m v s) = kept s := by
  unfold writeTimeHigh
  repeat' (first
    | with_reducible rfl
    | simp only [kept_ite, ite_self, State.upTmr_kept, rejectWrite_kept]
    | (with_reducible refine (kept_each _ _ _ (fun _ _ => ?_)).trans ?_ <;> beta_reduce)
    | (with_reducible refine (kept_foldl _ _ _ (fun _ _ => ?_)).trans ?_ <;> beta_reduce)
    | (with_reducible refine Eq.trans (State.upNvm_kept _ _ ?_) ?_; exact fun _ => rfl)
    | (with_reducible refine Eq.trans (State.upPwr_kept _ _ ?_) ?_; exact fun _ => rfl)
    | (with_reducible refine (regWrite_kept _ _ _ _ _ _ _ (fun _ => ?_)).trans ?_ <;> beta_reduce))

theorem execTmrSet_kept (m : Master) (v : Word) (s : State) :
    ∃ t, execTmrSet m v s = .next t ∧ kept t = kept s := by
  unfold execTmrSet; refine ⟨_, rfl, ?_⟩
  simp only [writeTimeHigh_kept]

theorem execTmrSetApply_kept (s : State) :
    ∃ t, execTmrSetApply s = .next t ∧ kept t = kept s := by
  unfold execTmrSetApply; refine ⟨_, rfl, ?_⟩
  split <;> simp only [kept_ite, ite_self, State.upEng_kept, State.upLdg_kept, State.upTmr_kept]

theorem addTwJob_kept (p : Port) (j : TwJob) (s : State) :
    kept (addTwJob p j s) = kept s := by
  unfold addTwJob
  simp only [State.upTwPort_kept, decide__kept]

theorem execTwXfer_kept (q : Ring) (buf : List Byte) (s : State) :
    ∃ t, execTwXfer q buf s = .next t ∧ kept t = kept s := by
  unfold execTwXfer; refine ⟨_, rfl, ?_⟩
  split <;> simp only [kept_ite, ite_self, State.upTwPort_kept, complete_kept, noteTwPlace_kept,
      addTwJob_kept]

theorem execTwClear_kept (q : Ring) (s : State) :
    ∃ t, execTwClear q s = .next t ∧ kept t = kept s := by
  unfold execTwClear; refine ⟨_, rfl, ?_⟩
  split <;> simp only [kept_ite, ite_self, complete_kept, addTwJob_kept]

theorem execTwCommit_kept (m : Master) (v : Word) (s : State) :
    ∃ t, execTwCommit m v s = .next t ∧ kept t = kept s := by
  unfold execTwCommit; refine ⟨_, rfl, ?_⟩
  simp only [writeCommit_kept]

theorem runTwClear_kept (p : Port) (q : Ring) (c : BusClear) (s : State) :
    kept (runTwClear p q c s) = kept s := by
  unfold runTwClear
  simp only [complete_kept, act__kept, nextTwJob_kept, busCleared_kept]

theorem startAttempt_kept (p : Port) (addr : BitVec 7) (send : List Byte) (rlen : Nat) (s : State) :
    kept (startAttempt p addr send rlen s) = kept s := by
  unfold startAttempt
  simp only [State.upTwPort_kept, State.emit_kept]

theorem sendAttempt_kept (p : Port) (addr : BitVec 7) (send : List Byte) (rlen : Nat) (phase : BitVec 2)
    (byte : Nat) (s : State) :
    kept (sendAttempt p addr send rlen phase byte s) = kept s := by
  unfold sendAttempt
  simp only [kept_ite, ite_self, State.emit_kept]

theorem endAttempt_kept (p : Port) (phase : BitVec 2) (byte : Nat) (stop : Bool) (s : State) :
    kept (endAttempt p phase byte stop s) = kept s := by
  unfold endAttempt
  split <;> simp only [kept_ite, ite_self, State.emit_kept, sendAttempt_kept]

theorem execTwBusFree_kept (p : Port) (clear : BusClear) (s : State) :
    ∃ t, execTwBusFree p clear s = .next t ∧ kept t = kept s := by
  unfold execTwBusFree; refine ⟨_, rfl, ?_⟩
  repeat' (first
    | simp only [kept_ite, ite_self, State.upTwPort_kept, act__kept, runTwClear_kept, startAttempt_kept]
    | split)

theorem execTwBusStuck_kept (p : Port) (sda : Bool) (clear : BusClear) (s : State) :
    ∃ t, execTwBusStuck p sda clear s = .next t ∧ kept t = kept s := by
  unfold execTwBusStuck; refine ⟨_, rfl, ?_⟩
  repeat' (first
    | simp only [kept_ite, ite_self, twRest_kept, followTw_kept, quarantine_kept, busCleared_kept,
        runTwClear_kept]
    | split)

theorem retryTw_kept (p : Port) (s : State) :
    kept (retryTw p s) = kept s := by
  unfold retryTw
  simp only [State.upTwPort_kept, followTw_kept]

theorem execTwArbitrationLost_kept (p : Port) (bit : BitVec 4) (phase : BitVec 2) (byte : BitVec 9) (s :
    State) :
    ∃ t, execTwArbitrationLost p bit phase byte s = .next t ∧ kept t = kept s := by
  unfold execTwArbitrationLost; refine ⟨_, rfl, ?_⟩
  repeat' (first
    | simp only [kept_ite, ite_self, State.upTwPort_kept, raiseTw_kept, failTwJob_kept,
        noteTwPlace_kept, endAttempt_kept, retryTw_kept]
    | split)

theorem execTwTransferEnd_kept (p : Port) (e : TwEnd) (s : State) :
    ∃ t, execTwTransferEnd p e s = .next t ∧ kept t = kept s := by
  unfold execTwTransferEnd; refine ⟨_, rfl, ?_⟩
  repeat' (first
    | simp only [kept_ite, ite_self, State.upTwPort_kept, completeData_kept, raiseTw_kept,
        nextTwJob_kept, failTwJob_kept, noteTwPlace_kept, endAttempt_kept, retryTw_kept]
    | split)

theorem timeoutTw_kept (p : Port) (phase : BitVec 2) (byte : BitVec 9) (s : State) :
    kept (timeoutTw p phase byte s) = kept s := by
  unfold timeoutTw
  simp only [kept_ite, ite_self, State.upTwPort_kept, raiseTw_kept, failTwJob_kept, noteTwPlace_kept,
      endAttempt_kept]

theorem execTwWaitLimit_kept (p : Port) (phase : BitVec 2) (byte : BitVec 9) (s : State) :
    ∃ t, execTwWaitLimit p phase byte s = .next t ∧ kept t = kept s := by
  unfold execTwWaitLimit; refine ⟨_, rfl, ?_⟩
  repeat' (first | simp only [kept_ite, ite_self, timeoutTw_kept] | split)

theorem brokenWord_kept (m : Master) (off : Nat) (s : State) :
    kept (brokenWord m off s) = kept s := by
  unfold brokenWord
  repeat' (first
    | with_reducible rfl
    | simp only [rejectWrite_kept]
    | (with_reducible refine (kept_each _ _ _ (fun _ _ => ?_)).trans ?_ <;> beta_reduce)
    | (with_reducible refine (kept_foldl _ _ _ (fun _ _ => ?_)).trans ?_ <;> beta_reduce)
    | (with_reducible refine Eq.trans (State.upNvm_kept _ _ ?_) ?_; exact fun _ => rfl)
    | (with_reducible refine Eq.trans (State.upPwr_kept _ _ ?_) ?_; exact fun _ => rfl)
    | (with_reducible refine (regWrite_kept _ _ _ _ _ _ _ (fun _ => ?_)).trans ?_ <;> beta_reduce))

theorem readThrough_kept (p : Port) (m : Master) (s : State) :
    kept (readThrough p m s).1 = kept s := by
  unfold readThrough
  repeat' (first | simp only [kept_ite_fst, State.upTwPort_kept, takeFree_kept, readReg_kept] | split)

theorem targetRead_kept (p : Port) (m : Master) (n : Nat) (s : State) :
    kept (targetRead p m n s).1 = kept s := by
  induction n generalizing s with
  | zero => rfl
  | succ n ih => simp only [targetRead, ih, readThrough_kept]

theorem targetSends_kept (p : Port) (m : Master) (n : Nat) (s : State) :
    kept (targetSends p m n s) = kept s := by
  unfold targetSends
  simp only [State.emit_kept, targetRead_kept]

theorem asTarget_kept (p : Port) (f : State → State) (s : State)
    (h : ∀ s, kept (f s) = kept s) :
    kept (asTarget p f s) = kept s := by
  unfold asTarget
  simp only [State.upTwPort_kept, followTw_kept, h]

theorem execTwTargetRead_kept (p : Port) (n : Nat) (s : State) :
    ∃ t, execTwTargetRead p n s = .next t ∧ kept t = kept s := by
  unfold execTwTargetRead; refine ⟨_, rfl, ?_⟩
  repeat' (first
    | with_reducible rfl
    | simp only [kept_ite, targetSends_kept]
    | (with_reducible refine (kept_each _ _ _ (fun _ _ => ?_)).trans ?_ <;> beta_reduce)
    | (with_reducible refine (kept_foldl _ _ _ (fun _ _ => ?_)).trans ?_ <;> beta_reduce)
    | (with_reducible refine Eq.trans (State.upNvm_kept _ _ ?_) ?_; exact fun _ => rfl)
    | (with_reducible refine Eq.trans (State.upPwr_kept _ _ ?_) ?_; exact fun _ => rfl)
    | (with_reducible refine (asTarget_kept _ _ _ (fun _ => ?_)).trans ?_ <;> beta_reduce)
    | split)

theorem cutAttempt_kept (p : Port) (s : State) :
    kept (cutAttempt p s) = kept s := by
  unfold cutAttempt
  simp only [kept_ite, ite_self, takeFree_kept, noteTwPlace_kept, noteUnbegun_kept]

theorem execTwBlockReset_kept (p : Port) (sclLow : Bool) (clear : BusClear) (s : State) :
    ∃ t, execTwBlockReset p sclLow clear s = .next t ∧ kept t = kept s := by
  unfold execTwBlockReset; refine ⟨_, rfl, ?_⟩
  repeat' (first
    | simp only [kept_ite, ite_self, State.upTwPort_kept, restampAt_kept, takeReset_kept, endTwJob_kept,
        testLines_kept, cutAttempt_kept]
    | split)

theorem execTwResetPulseEnd_kept (p : Port) (sclLow : Bool) (clear : BusClear) (s : State) :
    ∃ t, execTwResetPulseEnd p sclLow clear s = .next t ∧ kept t = kept s := by
  unfold execTwResetPulseEnd; refine ⟨_, rfl, ?_⟩
  simp only [kept_ite, ite_self, State.upTwPort_kept, testLines_kept]

theorem resumeTime_kept (s : State) :
    kept (resumeTime s) = kept s := by
  unfold resumeTime
  split <;> simp only [State.upClk_kept, State.upTmr_kept]

theorem afterPlan_kept (before : Rail → Bool) (s : State) :
    kept (afterPlan before s) = kept s := by
  unfold afterPlan
  repeat' (first
    | simp only [replan_kept, heelChange_kept]
    | (with_reducible refine (kept_each _ _ _ (fun _ _ => ?_)).trans ?_ <;> beta_reduce)
    | split)

theorem afterCmp_kept (s : State) :
    kept (afterCmp s) = kept s := by
  unfold afterCmp
  simp only [refreshAll_kept, copyAo_kept]

theorem afterPrn_kept (s : State) :
    kept (afterPrn s) = kept s := by
  unfold afterPrn
  repeat' (first
    | simp only [refreshAll_kept, releaseIdle_kept, bootTarget_kept, followPorts_kept]
    | (with_reducible refine (kept_each _ _ _ (fun _ _ => ?_)).trans ?_ <;> beta_reduce)
    | split)

theorem afterSeq_kept (old : Setup) (s : State) :
    kept (afterSeq old s) = kept s := by
  unfold afterSeq
  simp only [kept_ite, ite_self, seqRest_kept, followEn_kept]

theorem afterFlt_kept (old : Setup) (s : State) : kept (afterFlt old s) = kept s := by
  have h : ∀ (g : Nat → Fin 32) (es : List Nat) (t : Taking),
      kept (es.foldl (fun (t : Taking) e => t.send (g e)) t).s = kept t.s := by
    intro g es
    induction es with
    | nil => intro t; rfl
    | cons e es ih => intro t; rw [List.foldl_cons, ih, Taking.send_kept]
  unfold afterFlt
  simp only [leaveEscalation_kept, raiseUnsent_kept]
  exact h _ _ _

theorem afterLdg_kept (old : Setup) (c q : Rat) (s : State) :
    kept (afterLdg old c q s) = kept s := by
  unfold afterLdg
  simp only [kept_ite, ite_self, State.upLdg_kept, State.upGau_kept, commitGauge_kept, gaugeNew_kept]

theorem afterMove_kept (r : Rail) (wasDead : Bool) (s : State) :
    kept (afterMove r wasDead s) = kept s := by
  unfold afterMove
  simp only [kept_ite, ite_self, heelReturn_kept]

theorem afterRail_kept (r : Rail) (before : PairNo) (wasDead : Bool) (s : State) :
    kept (afterRail r before wasDead s) = kept s := by
  unfold afterRail
  simp only [kept_ite, ite_self, State.upEngRail_kept, followFfv_kept, afterMove_kept]

theorem applyWords_kept (at_ : MarkerAt) (b : Blk) (ws : List (Nat × Word)) (s : State) :
    kept (applyWords at_ b ws s) = kept s := by
  unfold applyWords
  split <;> simp only [State.upRegs_kept, replanLane_kept, restartSequences_kept, followTwAll_kept,
      afterPlan_kept, afterCmp_kept, afterPrn_kept, afterSeq_kept, afterFlt_kept, afterLdg_kept,
      afterRail_kept]

theorem swapBank_kept (r : Rail) (s : State) :
    kept (swapBank r s) = kept s := by
  unfold swapBank
  simp only [State.upEngRail_kept]

theorem swapTable_kept (r : Rail) (s : State) :
    kept (swapTable r s) = kept s := by
  unfold swapTable
  simp only [State.upEngRail_kept]

theorem moveRail_kept (r : Rail) (p : PairNo) (s : State) :
    kept (moveRail r p s) = kept s := by
  unfold moveRail
  simp only [State.upRegs_kept, State.upEngRail_kept, afterMove_kept]

theorem applyChange_kept (at_ : MarkerAt) (c : Change) (s : State) :
    kept (applyChange at_ c s) = kept s := by
  unfold applyChange
  split <;> simp only [kept_ite, ite_self, applyActive_kept, applyMap_kept, applyCal_kept,
      applyWords_kept, swapBank_kept, swapTable_kept, moveRail_kept]

theorem noteTag_kept (at_ : MarkerAt) (tag : BitVec 16) (s : State) :
    kept (noteTag at_ tag s) = kept s := by
  unfold noteTag
  repeat' (first
    | simp only [State.upFlt_kept, State.upSeq_kept, State.upPrn_kept, State.upEng_kept,
        State.upPwm_kept, State.upCmp_kept, State.upAdc_kept, State.upLdg_kept, State.upTw_kept]
    | (with_reducible refine Eq.trans (State.upNvm_kept _ _ ?_) ?_; exact fun _ => rfl)
    | split)

theorem remakeAccepted_kept (s : State) :
    kept (remakeAccepted s) = kept s := by
  unfold remakeAccepted
  simp only [State.upRegs_kept]

theorem changeMarker_kept (x y : Marker) (s : State) :
    kept (changeMarker x y s) = kept s := by
  unfold changeMarker
  simp only [State.upFab_kept]

theorem endOrigin_kept (m : Marker) (s : State) :
    kept (endOrigin m s) = kept s := by
  unfold endOrigin
  split <;> simp only [kept_ite, ite_self, State.upFab_kept, complete_kept]

theorem dropWork_kept (q : Ring) (s : State) :
    kept (dropWork q s) = kept s := by
  unfold dropWork
  repeat' (first
    | with_reducible rfl
    | simp only [State.upEngRail_kept, stopPitching_kept, dropArrayWork_kept, dropWaiting_kept]
    | (with_reducible refine (kept_each _ _ _ (fun _ _ => ?_)).trans ?_ <;> beta_reduce)
    | (with_reducible refine (kept_foldl _ _ _ (fun _ _ => ?_)).trans ?_ <;> beta_reduce)
    | (with_reducible refine Eq.trans (State.upNvm_kept _ _ ?_) ?_; exact fun _ => rfl)
    | (with_reducible refine Eq.trans (State.upPwr_kept _ _ ?_) ?_; exact fun _ => rfl))

theorem flushOrigin_kept (o : Origin) (s : State) :
    kept (flushOrigin o s) = kept s := by
  unfold flushOrigin
  split <;> simp only [State.upFab_kept, complete_kept, dropWork_kept]

theorem giveUp_kept (c : Change) (s : State) :
    kept (giveUp c s) = kept s := by
  unfold giveUp
  repeat' (first
    | simp only [kept_ite, ite_self, State.upAdc_kept, State.upEngRail_kept, sendActive_kept,
        claimMasked_kept]
    | (with_reducible refine (kept_each _ _ _ (fun _ _ => ?_)).trans ?_ <;> beta_reduce)
    | split)

theorem loseMarker_kept (at_ : MarkerAt) (m : Marker) (s : State) :
    kept (loseMarker at_ m s) = kept s := by
  unfold loseMarker
  repeat' (first
    | with_reducible rfl
    | simp only [remakeAccepted_kept, changeMarker_kept, flushOrigin_kept, giveUp_kept]
    | (with_reducible refine (kept_each _ _ _ (fun _ _ => ?_)).trans ?_ <;> beta_reduce)
    | (with_reducible refine (kept_foldl _ _ _ (fun _ _ => ?_)).trans ?_ <;> beta_reduce))

theorem loseMarkers_kept (a : MarkerAt) (n : Nat) (s : State) : kept (loseMarkers a n s) = kept s := by
  induction n generalizing s with
  | zero => rfl
  | succ n ih =>
    unfold loseMarkers
    split
    · rw [ih, loseMarker_kept]
    · rfl

theorem straysFrom_kept (at_ : MarkerAt) (m : Marker) (s : State) :
    kept (straysFrom at_ m s) = kept s := by
  unfold straysFrom
  simp only [changeMarker_kept]

theorem applyMarker_kept (at_ : MarkerAt) (m : Marker) (s : State) :
    kept (applyMarker at_ m s) = kept s := by
  unfold applyMarker
  repeat' (first
    | with_reducible rfl
    | simp only [issueMarkers_kept, applyChange_kept, noteTag_kept, changeMarker_kept, endOrigin_kept]
    | (with_reducible refine (kept_each _ _ _ (fun _ _ => ?_)).trans ?_ <;> beta_reduce)
    | (with_reducible refine (kept_foldl _ _ _ (fun _ _ => ?_)).trans ?_ <;> beta_reduce))

theorem flushPacket_kept (at_ : MarkerAt) (unit : Fin 16) (missed : Bool) (s : State) :
    kept (flushPacket at_ unit missed s) = kept s := by
  unfold flushPacket
  split <;> simp only [flushOrigin_kept]

theorem hearOther_kept (at_ : MarkerAt) (unit : Fin 16) (w : Word) (s : State) :
    kept (hearOther at_ unit w s) = kept s := by
  unfold hearOther
  repeat' (first | simp only [hear_kept, raiseFabric_kept, flushPacket_kept] | split)

theorem flushHeard_kept (at_ : MarkerAt) (w : Word) (s : State) :
    kept (flushHeard at_ w s) = kept s := by
  unfold flushHeard
  split <;> simp only [flushOrigin_kept]

theorem noteHeard_kept (at_ : MarkerAt) (w : Word) (m : Marker) (s : State) :
    kept (noteHeard at_ w m s) = kept s := by
  unfold noteHeard
  split <;> simp only [State.upFab_kept]

theorem takeMarker_kept (at_ : MarkerAt) (w : Word) (m : Marker) (s : State) :
    kept (takeMarker at_ w m s) = kept s := by
  unfold takeMarker
  simp only [changeMarker_kept, applyMarker_kept, noteHeard_kept]

theorem hearMarker_kept (at_ : MarkerAt) (unit : Fin 16) (w : Word) (s : State) :
    kept (hearMarker at_ unit w s) = kept s := by
  unfold hearMarker
  dsimp only
  split
  · rw [raiseFabric_kept, hear_kept]
  · rw [flushHeard_kept, raiseFabric_kept, hear_kept]
  · rw [takeMarker_kept, hear_kept]
  · split
    · rw [loseMarker_kept, loseMarkers_kept, raiseFabric_kept, hear_kept]
    · rw [takeMarker_kept, loseMarkers_kept, raiseFabric_kept, hear_kept]
  · rfl

theorem execMarker_kept (at_ : MarkerAt) (pkt : Arrival) (s : State) :
    ∃ t, execMarker at_ pkt s = .next t ∧ kept t = kept s := by
  unfold execMarker; refine ⟨_, rfl, ?_⟩
  repeat' (first
    | simp only [kept_ite, ite_self, straysFrom_kept, hearOther_kept, hearMarker_kept]
    | split)

theorem raiseClock_kept (blk : Nat) (s : State) :
    kept (raiseClock blk s) = kept s := by
  unfold raiseClock
  simp only [raise_kept]

theorem execXrefLoss_kept (s : State) :
    ∃ t, execXrefLoss s = .next t ∧ kept t = kept s := by
  unfold execXrefLoss; refine ⟨_, rfl, ?_⟩
  simp only [kept_ite, ite_self, State.upClk_kept]

theorem execPllHoldExpiry_kept (s : State) :
    ∃ t, execPllHoldExpiry s = .next t ∧ kept t = kept s := by
  unfold execPllHoldExpiry; refine ⟨_, rfl, ?_⟩
  simp only [kept_ite, ite_self, State.upClk_kept, raiseClock_kept]

theorem execXrefReturn_kept (s : State) :
    ∃ t, execXrefReturn s = .next t ∧ kept t = kept s := by
  unfold execXrefReturn; refine ⟨_, rfl, ?_⟩
  simp only [kept_ite, ite_self, State.upClk_kept, raiseClock_kept]

theorem execPllLockLoss_kept (s : State) :
    ∃ t, execPllLockLoss s = .next t ∧ kept t = kept s := by
  unfold execPllLockLoss; refine ⟨_, rfl, ?_⟩
  repeat' (first
    | simp only [kept_ite, State.upClk_kept, passToHeel_kept, raiseClock_kept]
    | (with_reducible refine (kept_each _ _ _ (fun _ _ => ?_)).trans ?_ <;> beta_reduce)
    | split)

theorem execPllRelock_kept (s : State) :
    ∃ t, execPllRelock s = .next t ∧ kept t = kept s := by
  unfold execPllRelock; refine ⟨_, rfl, ?_⟩
  simp only [kept_ite, ite_self, State.upClk_kept]

theorem stopPairs_kept (ps : List PairNo) (s : State) :
    kept (stopPairs ps s) = kept s := by
  unfold stopPairs
  repeat' (first
    | simp only [kept_ite, ite_self, raise_kept, passToHeel_kept]
    | (with_reducible refine (kept_each _ _ _ (fun _ _ => ?_)).trans ?_ <;> beta_reduce)
    | split)

theorem noCheckpoints_kept (s : State) :
    kept (noCheckpoints s) = kept s := by
  unfold noCheckpoints
  repeat' (first
    | simp only [raise_kept]
    | (with_reducible refine (kept_each _ _ _ (fun _ _ => ?_)).trans ?_ <;> beta_reduce)
    | split)

theorem dropCheckpoints_kept (s : State) :
    kept (dropCheckpoints s) = kept s := by
  unfold dropCheckpoints
  simp only [State.upEng_kept]

theorem flushAt_kept (p : Nat → Bool) (s : State) :
    kept (flushAt p s) = kept s := by
  unfold flushAt
  repeat' (first
    | simp only [kept_ite, ite_self, complete_kept]
    | (with_reducible refine (kept_each _ _ _ (fun _ _ => ?_)).trans ?_ <;> beta_reduce)
    | split)

theorem stopSlices_kept (d : Nat) (s : State) :
    kept (stopSlices d s) = kept s := by
  unfold stopSlices
  repeat' (first
    | simp only [State.upSlice_kept, sliceFails_kept]
    | (with_reducible refine (kept_each _ _ _ (fun _ _ => ?_)).trans ?_ <;> beta_reduce)
    | split)

theorem loseFrontEnds_kept (s : State) :
    kept (loseFrontEnds s) = kept s := by
  unfold loseFrontEnds
  simp only [staleUnbuilt_kept]

theorem losePlanner_kept (s : State) :
    kept (losePlanner s) = kept s := by
  unfold losePlanner
  simp only [State.upAdc_kept, staleUnbuilt_kept, flushAt_kept]

theorem losePwm_kept (s : State) :
    kept (losePwm s) = kept s := by
  unfold losePwm
  repeat' (first
    | simp only [State.upPwm_kept, State.upFb_kept, flushAt_kept]
    | (with_reducible refine (kept_each _ _ _ (fun _ _ => ?_)).trans ?_ <;> beta_reduce)
    | split)

theorem loseCmp_kept (s : State) :
    kept (loseCmp s) = kept s := by
  unfold loseCmp
  repeat' (first
    | simp only [State.upCmp_kept, State.upFb_kept, flushAt_kept]
    | (with_reducible refine (kept_each _ _ _ (fun _ _ => ?_)).trans ?_ <;> beta_reduce)
    | split)

theorem loseSeq_kept (s : State) :
    kept (loseSeq s) = kept s := by
  unfold loseSeq
  simp only [State.upSeq_kept, flushAt_kept]

theorem loseNvm_kept (s : State) : kept (loseNvm s) = kept s := by
  unfold loseNvm
  refine (State.upNvm_kept _ _ fun n => ?_).trans ((killCommits_kept _ _).trans (flushAt_kept _ _))
  unfold Nvm.cold
  rfl

theorem loseFab_kept (s : State) : kept (loseFab s) = kept s := by
  have h : kept (s.each (fins 8) fun r => passToHeel r 4) = kept s :=
    kept_each _ _ _ fun r => passToHeel_kept r 4
  revert h
  unfold loseFab
  generalize s.each (fins 8) (fun r => passToHeel r 4) = u
  exact fun h => h

theorem loseAo_kept (s : State) :
    kept (loseAo s) = kept s := by
  unfold loseAo
  repeat' (first
    | with_reducible rfl
    | simp only [State.upFlt_kept, State.upCmp_kept, State.upTmr_kept]
    | (with_reducible refine (kept_each _ _ _ (fun _ _ => ?_)).trans ?_ <;> beta_reduce)
    | (with_reducible refine (kept_foldl _ _ _ (fun _ _ => ?_)).trans ?_ <;> beta_reduce)
    | (with_reducible refine Eq.trans (State.upNvm_kept _ _ ?_) ?_; exact fun _ => rfl)
    | (with_reducible refine Eq.trans (State.upPwr_kept _ _ ?_) ?_; exact fun _ => rfl))

theorem loseSupply_kept (d : Nat) (s : State) : kept (loseSupply d s) = kept s := by
  have h : ∀ s : State, kept (s.upPwr fun p => { p with lost := putBit p.lost d true }) = kept s :=
    fun s => State.upPwr_kept _ _ fun _ => rfl
  unfold loseSupply
  simp only [kept_ite, ite_self, h, State.upHif_kept, losePairs_kept, loseDomain_kept, stopPairs_kept,
    noCheckpoints_kept, dropCheckpoints_kept, stopSlices_kept, loseFab_kept, loseFrontEnds_kept,
    losePlanner_kept, losePwm_kept, loseCmp_kept, loseSeq_kept, loseNvm_kept, loseAo_kept]

theorem execSupTherm_kept (cause : Fin 8) (dom : Fin 14) (s : State) :
    ∃ t, execSupTherm cause dom s = .next t ∧ kept t = kept s := by
  unfold execSupTherm; refine ⟨_, rfl, ?_⟩
  simp only [kept_ite, ite_self, raiseLimited_kept, raiseMonitor_kept, loseSupply_kept]

theorem absFresh_kept (r : Rail) (remote regular : Bool) (at_ : Nat) (v : Int) (s : State) :
    kept (absFresh r remote regular at_ v s) = kept s := by
  unfold absFresh
  repeat' (first
    | simp only [kept_ite, ite_self, State.upFb_kept, losePath_kept, loseReference_kept,
        overvoltCheck_kept]
    | split)

theorem feedConsumers_kept (c : Nat) (regular : Bool) (at_ : Nat) (v : Int) (s : State) :
    kept (feedConsumers c regular at_ v s) = kept s := by
  unfold feedConsumers
  simp only [kept_ite, ite_self, vbusResult_kept, feedEnergy_kept, absFresh_kept]

theorem afterEntry_kept (g : Gather) (c : Nat) (rchk regular : Bool) (s : State) :
    kept (afterEntry g c rchk regular s) = kept s := by
  unfold afterEntry
  simp only [kept_ite, ite_self, raise_kept, feedConsumers_kept]

theorem regularEntry_kept (i : Nat) (xs : List Taken) (s : State) :
    kept (regularEntry i xs s) = kept s := by
  unfold regularEntry
  simp only [State.upAdc_kept, afterEntry_kept]

theorem injectedEntry_kept (i : Nat) (xs : List Taken) (s : State) :
    kept (injectedEntry i xs s) = kept s := by
  unfold injectedEntry
  repeat' (first
    | with_reducible rfl
    | simp only [State.upAdc_kept, complete_kept, afterEntry_kept]
    | (with_reducible refine (kept_each _ _ _ (fun _ _ => ?_)).trans ?_ <;> beta_reduce)
    | (with_reducible refine (kept_foldl _ _ _ (fun _ _ => ?_)).trans ?_ <;> beta_reduce))

theorem execSequenceResult_kept (injected : Bool) (s : State) :
    ∃ t, execSequenceResult injected s = .next t ∧ kept t = kept s := by
  unfold execSequenceResult; refine ⟨_, rfl, ?_⟩
  repeat' (first
    | simp only [kept_ite, ite_self, restampBy_kept, regularEntry_kept, injectedEntry_kept]
    | split)

theorem lockPll_kept (xref : Bool) (s : State) :
    kept (lockPll xref s) = kept s := by
  unfold lockPll
  simp only [kept_ite, ite_self, State.upClk_kept, raiseClock_kept]

theorem loadFactory_kept (ecc : EccReport) (s : State) :
    kept (loadFactory ecc s) = kept s := by
  unfold loadFactory
  simp only [kept_ite, ite_self, State.upAdc_kept, raise_kept, seeWords_kept]

theorem testPairs_kept (fail : BitVec 4) (s : State) :
    kept (testPairs fail s) = kept s := by
  unfold testPairs
  repeat' (first
    | simp only [pairFails_kept]
    | (with_reducible refine (kept_each _ _ _ (fun _ _ => ?_)).trans ?_ <;> beta_reduce)
    | split)

theorem testSlices_kept (cals : List AbsCal) (s : State) :
    kept (testSlices cals s) = kept s := by
  unfold testSlices
  repeat' (first
    | with_reducible rfl
    | simp only [kept_ite, ite_self, State.upAdc_kept, State.upSlice_kept, raise_kept]
    | (with_reducible refine (kept_each _ _ _ (fun _ _ => ?_)).trans ?_ <;> beta_reduce)
    | (with_reducible refine (kept_foldl _ _ _ (fun _ _ => ?_)).trans ?_ <;> beta_reduce)
    | (with_reducible refine Eq.trans (State.upNvm_kept _ _ ?_) ?_; exact fun _ => rfl)
    | (with_reducible refine Eq.trans (State.upPwr_kept _ _ ?_) ?_; exact fun _ => rfl)
    | split)

theorem testWindow_kept (w : Window) (stage : Fin 9) (elem : Fin 5) (s : State) :
    kept (testWindow w stage elem s) = kept s := by
  unfold testWindow
  split <;> simp only [kept_ite, ite_self, windowFails_kept]

theorem testWindows_kept (fails : List (Window × Fin 9 × Fin 5)) (steep : BitVec 4) (s : State) :
    kept (testWindows fails steep s) = kept s := by
  unfold testWindows
  repeat' (first
    | simp only [kept_ite, ite_self, State.upWin_kept, raise_kept, raiseNoSteep_kept, testWindow_kept]
    | (with_reducible refine (kept_each _ _ _ (fun _ _ => ?_)).trans ?_ <;> beta_reduce)
    | split)

theorem testHeels_kept (fail : BitVec 8) (s : State) :
    kept (testHeels fail s) = kept s := by
  unfold testHeels
  repeat' (first
    | simp only [State.upFb_kept, heelChange_kept]
    | (with_reducible refine (kept_each _ _ _ (fun _ _ => ?_)).trans ?_ <;> beta_reduce)
    | split)

theorem execSelfTestDone_kept (t : SelfTest) (s : State) :
    ∃ u, execSelfTestDone t s = .next u ∧ kept u = kept s := by
  unfold execSelfTestDone
  refine ⟨_, rfl, ?_⟩
  split
  · rfl
  · rename_i h
    have hp : s.pwr.phase = .selfTest := not_not.mp h
    dsimp only
    have hk : kept (restartSequences (testHeels t.heelFail (testWindows t.windowFail t.steepFail
        (testSlices t.cals (testPairs t.pairFail s))))) = kept s := by
      simp only [restartSequences_kept, testHeels_kept, testWindows_kept, testSlices_kept,
        testPairs_kept]
    revert hk
    generalize restartSequences (testHeels t.heelFail (testWindows t.windowFail t.steepFail
        (testSlices t.cals (testPairs t.pairFail s)))) = u
    intro hk
    have hf : (u.pwr.phase == .por) = false := by
      have := congrArg (fun x => x.2.2.2.1) hk
      simp only [kept, hp] at this
      simpa using this
    split
    · refine Eq.trans ?_ hk
      simp only [kept, State.upPwr, hf]
      rfl
    · refine (beginWait_kept u fun e => ?_).trans hk
      rw [e] at hf
      cases hf

theorem execStartComplete_kept (s : State) : ∃ t, execStartComplete s = .next t ∧ kept t = kept s := by
  unfold execStartComplete
  refine ⟨_, rfl, ?_⟩
  split
  · rfl
  · rename_i h
    have hp : s.pwr.phase = .sequencing := by
      by_contra hn
      exact h (by simp [hn])
    have h0 : kept (s.upPwr fun p => { p with phase := .run }) = kept s := by
      simp only [kept, State.upPwr, hp]
      rfl
    simp only [kept_ite, setLock_kept, leaveEscalation_kept, ite_self, State.upFlt_kept]
    exact h0

theorem execSleep_kept (q : Ring) (s : State) :
    ∃ t, execSleep q s = .next t ∧ kept t = kept s := by
  unfold execSleep; refine ⟨_, rfl, ?_⟩
  repeat' (first
    | with_reducible rfl
    | simp only [complete_kept, act__kept, requestOff_kept, seqRest_kept]
    | (with_reducible refine (kept_each _ _ _ (fun _ _ => ?_)).trans ?_ <;> beta_reduce)
    | (with_reducible refine (kept_foldl _ _ _ (fun _ _ => ?_)).trans ?_ <;> beta_reduce)
    | (with_reducible refine Eq.trans (State.upNvm_kept _ _ ?_) ?_; exact fun _ => rfl)
    | (with_reducible refine Eq.trans (State.upPwr_kept _ _ ?_) ?_; exact fun _ => rfl)
    | split)

theorem execSleepTimeout_kept (s : State) :
    ∃ t, execSleepTimeout s = .next t ∧ kept t = kept s := by
  unfold execSleepTimeout; refine ⟨_, rfl, ?_⟩
  repeat' (first
    | with_reducible rfl
    | simp only [kept_ite, complete_kept]
    | (with_reducible refine (kept_each _ _ _ (fun _ _ => ?_)).trans ?_ <;> beta_reduce)
    | (with_reducible refine (kept_foldl _ _ _ (fun _ _ => ?_)).trans ?_ <;> beta_reduce)
    | (with_reducible refine Eq.trans (State.upNvm_kept _ _ ?_) ?_; exact fun _ => rfl)
    | (with_reducible refine Eq.trans (State.upPwr_kept _ _ ?_) ?_; exact fun _ => rfl)
    | split)

theorem wakeMissed_kept (s : State) :
    kept (wakeMissed s) = kept s := by
  unfold wakeMissed
  repeat' (first
    | with_reducible rfl
    | simp only [kept_ite, ite_self, State.upTw_kept, raiseTw_kept])

end Sys2Proof.Machine
end

