-- ==== Sys2Proof/Laws/Quiet.lean ====
section
/-!
SUPPORT. What an event and all its reactions leave as it was: one lemma for each operation up to the
collector's.
-/

set_option linter.unusedSimpArgs false
set_option linter.unusedTactic false
set_option linter.unreachableTactic false

namespace Sys2Proof.Machine

/-- A tour but for the slot that its calibration counts from, which a pause moves (R83, R240). -/
def quietTour (t : Tour) : Tour := { t with startSlot := 0 }

/-- What neither an event nor its reactions change. -/
def quiet (s : State) : List Instr × Nat × Clk × Tmr × Regs × Fab × Adc × Gau × Tw ×
    (Bool × Vector Bool 3 × Vector Bool 3 × Vector Word 3 × BitVec 16) × List Host.Cell × Tap :=
  (s.pending, s.freeCount, s.clk, s.tmr, s.regs, s.fab,
    { s.adc with errCount := Vector.replicate 8 0, tour := s.adc.tour.map quietTour
                 pitch := s.adc.pitch.map quietTour }, s.gau, s.tw,
    (s.cmp.steepRaised, s.cmp.aoLow, s.cmp.aoHigh, s.cmp.aoCfg, s.cmp.ltag), s.nvm.mem, s.tap)

theorem quiet_ite {c : Prop} [Decidable c] (a b : State) :
    quiet (if c then a else b) = if c then quiet a else quiet b := by split <;> rfl

theorem quiet_ite_fst {α : Type} {c : Prop} [Decidable c] (a b : State × α) :
    quiet (if c then a else b).1 = if c then quiet a.1 else quiet b.1 := by split <;> rfl

theorem quiet_ite_s {c : Prop} [Decidable c] (a b : Taking) :
    quiet (if c then a else b).s = if c then quiet a.s else quiet b.s := by split <;> rfl

theorem quiet_each {α : Type} (xs : List α) (f : α → State → State) (s : State)
    (h : ∀ x s, quiet (f x s) = quiet s) : quiet (State.each xs f s) = quiet s := by
  unfold State.each
  induction xs generalizing s with
  | nil => rfl
  | cons x xs ih => rw [List.foldl_cons, ih, h]

theorem quiet_foldl {α : Type} (xs : List α) (f : State → α → State) (s : State)
    (h : ∀ s x, quiet (f s x) = quiet s) : quiet (xs.foldl f s) = quiet s := by
  induction xs generalizing s with
  | nil => rfl
  | cons x xs ih => rw [List.foldl_cons, ih, h]

theorem State.upFlt_quiet (f : Flt → Flt) (s : State) : quiet (s.upFlt f) = quiet s := rfl

theorem State.upSeq_quiet (f : Seq → Seq) (s : State) : quiet (s.upSeq f) = quiet s := rfl

theorem State.upPrn_quiet (f : Prn → Prn) (s : State) : quiet (s.upPrn f) = quiet s := rfl

theorem State.upEng_quiet (f : Eng → Eng) (s : State) : quiet (s.upEng f) = quiet s := rfl

theorem State.upPwm_quiet (f : Pwm → Pwm) (s : State) : quiet (s.upPwm f) = quiet s := rfl

theorem State.upLdg_quiet (f : Ldg → Ldg) (s : State) : quiet (s.upLdg f) = quiet s := rfl

theorem State.upHif_quiet (f : Hif → Hif) (s : State) : quiet (s.upHif f) = quiet s := rfl

theorem State.upSeqRail_quiet (i : SeqIdx) (f : SeqRail → SeqRail) (s : State) : quiet (s.upSeqRail i f)
    = quiet s := rfl

theorem State.upGroup_quiet (i : Group) (f : SeqGroup → SeqGroup) (s : State) : quiet (s.upGroup i f) =
    quiet s := rfl

theorem State.upPrnRail_quiet (i : Rail) (f : PrnRail → PrnRail) (s : State) : quiet (s.upPrnRail i f) =
    quiet s := rfl

theorem State.upPort_quiet (i : Port) (f : PrnPort → PrnPort) (s : State) : quiet (s.upPort i f) = quiet
    s := rfl

theorem State.upEngRail_quiet (i : Rail) (f : EngRail → EngRail) (s : State) : quiet (s.upEngRail i f) =
    quiet s := rfl

theorem State.upPair_quiet (i : PairNo) (f : Pair → Pair) (s : State) : quiet (s.upPair i f) = quiet s
    := rfl

theorem State.upPhase_quiet (i : Phase) (f : Phasor → Phasor) (s : State) : quiet (s.upPhase i f) =
    quiet s := rfl

theorem State.upPwmRail_quiet (i : Rail) (f : PwmRail → PwmRail) (s : State) : quiet (s.upPwmRail i f) =
    quiet s := rfl

theorem State.upSq_quiet (i : Ring) (f : Sq → Sq) (s : State) : quiet (s.upSq i f) = quiet s := rfl

theorem State.upCq_quiet (i : Ring) (f : Cq → Cq) (s : State) : quiet (s.upCq i f) = quiet s := rfl

theorem State.upFb_quiet (i : Rail) (f : FbRail → FbRail) (s : State) : quiet (s.upFb i f) = quiet s :=
    rfl

theorem State.upNvm_quiet (f : Nvm → Nvm) (s : State) (h : ∀ n, (f n).mem = n.mem) :
    quiet (s.upNvm f) = quiet s := by
  simp only [quiet, State.upNvm, h]

theorem State.upCmp_quiet (f : Cmp → Cmp) (s : State)
    (h : ∀ c, ((f c).steepRaised, (f c).aoLow, (f c).aoHigh, (f c).aoCfg, (f c).ltag) =
      (c.steepRaised, c.aoLow, c.aoHigh, c.aoCfg, c.ltag)) :
    quiet (s.upCmp f) = quiet s := by
  simp only [quiet, State.upCmp, h]

theorem State.upWin_quiet (w : Window) (f : Win → Win) (s : State) : quiet (s.upWin w f) = quiet s :=
    rfl

theorem State.upPwr_quiet (f : Pwr → Pwr) (s : State) : quiet (s.upPwr f) = quiet s := rfl

theorem State.emit_quiet (o : Out) (s : State) : quiet (s.emit o) = quiet s := rfl

theorem clearForecasts_quiet (r : Rail) (s : State) :
    quiet (clearForecasts r s) = quiet s := by
  unfold clearForecasts
  simp only [State.upEngRail_quiet]

theorem resumeCal_quiet (since : Nat) (s : State) : quiet (resumeCal since s) = quiet s := by
  have h : ∀ (x : Option Tour) (f : Tour → Tour), (∀ t, quietTour (f t) = quietTour t) →
      (x.map f).map quietTour = x.map quietTour := by
    intro x f k
    cases x with
    | none => rfl
    | some t => exact congrArg some (k t)
  unfold resumeCal
  have k : ∀ t : Tour, quietTour (if t.calDone then t else
      { t with startSlot := t.startSlot + (s.clk.slot - max since t.startSlot) }) = quietTour t := by
    intro t
    split <;> rfl
  simp only [quiet, State.upAdc, h _ _ k]

theorem alertPorts_quiet (p : Port → Bool) (cause : Nat) (s : State) :
    quiet (alertPorts p cause s) = quiet s := by
  unfold alertPorts
  repeat' (first
    | simp only [State.upPort_quiet]
    | (with_reducible refine (quiet_each _ _ _ (fun _ _ => ?_)).trans ?_ <;> beta_reduce)
    | split)

theorem nvAsk_quiet (r : NvReq) (s : State) :
    quiet (nvAsk r s) = quiet s := by
  unfold nvAsk
  repeat' (first
    | simp only [quiet_ite]
    | (with_reducible refine Eq.trans (State.upNvm_quiet _ _ ?_) ?_; exact fun _ => rfl)
    | (with_reducible refine Eq.trans (State.upCmp_quiet _ _ ?_) ?_; exact fun _ => rfl)
    | split)

theorem recordCommit_quiet (id : Fin 64) (payload : List Byte) (s : State) :
    quiet (recordCommit id payload s) = quiet s := by
  unfold recordCommit
  simp only [nvAsk_quiet]

theorem countUp_quiet (n : Fin 64) (s : State) :
    quiet (countUp n s) = quiet s := by
  unfold countUp
  simp only [nvAsk_quiet]

theorem sendMsix_quiet (v : Fin 32) (s : State) :
    quiet (sendMsix v s).1 = quiet s := by
  unfold sendMsix
  simp only [quiet_ite_fst, ite_self, State.upHif_quiet, State.emit_quiet]

theorem completeData_quiet (q : Ring) (status : Nat) (result : Nat) (data : List Byte) (s : State) :
    quiet (completeData q status result data s) = quiet s := by
  unfold completeData
  split <;> simp only [State.upSq_quiet, State.upCq_quiet]

theorem complete_quiet (q : Ring) (status : Nat) (result : Nat) (s : State) :
    quiet (complete q status result s) = quiet s := by
  unfold complete
  simp only [completeData_quiet]

theorem decide__quiet (q : Ring) (s : State) :
    quiet (decide_ q s) = quiet s := by
  unfold decide_
  simp only [State.upSq_quiet]

theorem act__quiet (q : Ring) (s : State) :
    quiet (act_ q s) = quiet s := by
  unfold act_
  simp only [State.upSq_quiet]

theorem retarget_quiet (r : Rail) (fresh : BitVec 48) (s : State) :
    quiet (retarget r fresh s) = quiet s := by
  unfold retarget
  repeat' (first
    | simp only [quiet_ite, ite_self, State.upPhase_quiet]
    | (with_reducible refine (quiet_each _ _ _ (fun _ _ => ?_)).trans ?_ <;> beta_reduce)
    | split)

theorem anchorCarrier_quiet (r : Rail) (s : State) :
    quiet (anchorCarrier r s) = quiet s := by
  unfold anchorCarrier
  split <;> simp only [State.upPhase_quiet]

theorem showStates_quiet (r : Rail) (s : State) :
    quiet (showStates r s) = quiet s := by
  unfold showStates
  repeat' (first
    | simp only [State.upPhase_quiet]
    | (with_reducible refine (quiet_each _ _ _ (fun _ _ => ?_)).trans ?_ <;> beta_reduce)
    | split)

theorem freeSub_quiet (h : Phase) (s : State) :
    quiet (freeSub h s) = quiet s := by
  unfold freeSub
  split <;> simp only [State.upPhase_quiet]

theorem freeSubs_quiet (r : Rail) (s : State) :
    quiet (freeSubs r s) = quiet s := by
  unfold freeSubs
  repeat' (first
    | simp only [quiet_ite, ite_self, freeSub_quiet]
    | (with_reducible refine (quiet_each _ _ _ (fun _ _ => ?_)).trans ?_ <;> beta_reduce)
    | split)

theorem setActive_quiet (r : Rail) (act : BitVec 48) (s : State) :
    quiet (setActive r act s) = quiet s := by
  unfold setActive
  simp only [State.upPwmRail_quiet, retarget_quiet, showStates_quiet, freeSubs_quiet]

theorem substitute_quiet (r : Rail) (h : Phase) (s : State) :
    quiet (substitute r h s) = quiet s := by
  unfold substitute
  split <;> simp only [State.upPhase_quiet]

theorem substituteFor_quiet (r : Rail) (hs : List Phase) (s : State) :
    quiet (substituteFor r hs s) = quiet s := by
  unfold substituteFor
  repeat' (first
    | simp only [quiet_ite, ite_self, substitute_quiet]
    | (with_reducible refine (quiet_each _ _ _ (fun _ _ => ?_)).trans ?_ <;> beta_reduce)
    | split)

theorem substituteAll_quiet (r : Rail) (s : State) :
    quiet (substituteAll r s) = quiet s := by
  unfold substituteAll
  simp only [substituteFor_quiet]

theorem driveHeld_quiet (r : Rail) (d : Drive) (s : State) :
    quiet (driveHeld r d s) = quiet s := by
  unfold driveHeld
  repeat' (first
    | simp only [State.upPhase_quiet]
    | (with_reducible refine (quiet_each _ _ _ (fun _ _ => ?_)).trans ?_ <;> beta_reduce)
    | split)

theorem saveHealth_quiet (s : State) :
    quiet (saveHealth s) = quiet s := by
  unfold saveHealth
  simp only [quiet_ite, ite_self, recordCommit_quiet]

theorem enablePhases_quiet (r : Rail) (s : State) :
    quiet (enablePhases r s) = quiet s := by
  unfold enablePhases
  simp only [State.upPwmRail_quiet, anchorCarrier_quiet, setActive_quiet, substituteAll_quiet]

theorem disableAdmit_quiet (r : Rail) (s : State) :
    quiet (disableAdmit r s) = quiet s := by
  unfold disableAdmit
  split <;> simp only [State.upPhase_quiet, State.upPwmRail_quiet, complete_quiet, freeSub_quiet,
      saveHealth_quiet]

theorem endHalf_quiet (r : Rail) (s : State) :
    quiet (endHalf r s) = quiet s := by
  unfold endHalf
  repeat' (first
    | simp only [State.upPhase_quiet]
    | (with_reducible refine (quiet_each _ _ _ (fun _ _ => ?_)).trans ?_ <;> beta_reduce)
    | split)

theorem disablePhases_quiet (r : Rail) (s : State) :
    quiet (disablePhases r s) = quiet s := by
  unfold disablePhases
  simp only [State.upPwmRail_quiet, showStates_quiet, driveHeld_quiet, disableAdmit_quiet,
      endHalf_quiet]

theorem putCodes_quiet (w : Window) (c : BitVec 10 × BitVec 10) (s : State) :
    quiet (putCodes w c s) = quiet s := by
  unfold putCodes
  repeat' (first | simp only [State.upWin_quiet] | split)

theorem refreshCodes_quiet (r : Rail) (s : State) :
    quiet (refreshCodes r s) = quiet s := by
  unfold refreshCodes
  simp only [putCodes_quiet]

theorem refreshPhases_quiet (r : Rail) (s : State) :
    quiet (refreshPhases r s) = quiet s := by
  unfold refreshPhases
  repeat' (first
    | simp only [putCodes_quiet]
    | (with_reducible refine (quiet_each _ _ _ (fun _ _ => ?_)).trans ?_ <;> beta_reduce)
    | split)

theorem refreshAll_quiet (s : State) :
    quiet (refreshAll s) = quiet s := by
  unfold refreshAll
  repeat' (first
    | simp only [putCodes_quiet, refreshCodes_quiet]
    | (with_reducible refine (quiet_each _ _ _ (fun _ _ => ?_)).trans ?_ <;> beta_reduce)
    | split)

theorem handBack_quiet (p : Proof) (s : State) :
    quiet (handBack p s) = quiet s := by
  unfold handBack
  simp only [quiet_ite, ite_self, State.upWin_quiet]

theorem freeDac_quiet (p : Proof) (s : State) :
    quiet (freeDac p s) = quiet s := by
  unfold freeDac
  simp only [quiet_ite, ite_self, resumeCal_quiet]

theorem takeSteep_quiet (r : Rail) (s : State) :
    quiet (takeSteep r s) = quiet s := by
  unfold takeSteep
  repeat' (first
    | simp only [State.upFb_quiet, handBack_quiet, freeDac_quiet]
    | (with_reducible refine Eq.trans (State.upNvm_quiet _ _ ?_) ?_; exact fun _ => rfl)
    | (with_reducible refine Eq.trans (State.upCmp_quiet _ _ ?_) ?_; exact fun _ => rfl)
    | split)

theorem beginProof_quiet (s : State) :
    quiet (beginProof s) = quiet s := by
  unfold beginProof
  repeat' (first
    | simp only [quiet_ite]
    | (with_reducible refine Eq.trans (State.upNvm_quiet _ _ ?_) ?_; exact fun _ => rfl)
    | (with_reducible refine Eq.trans (State.upCmp_quiet _ _ ?_) ?_; exact fun _ => rfl)
    | split)

theorem serveSteep_quiet (s : State) :
    quiet (serveSteep s) = quiet s := by
  unfold serveSteep
  repeat' (first
    | simp only [quiet_ite, ite_self, takeSteep_quiet, beginProof_quiet]
    | (with_reducible refine (quiet_each _ _ _ (fun _ _ => ?_)).trans ?_ <;> beta_reduce)
    | split)

theorem freeAdjudication_quiet (r : Rail) (s : State) :
    quiet (freeAdjudication r s) = quiet s := by
  unfold freeAdjudication
  repeat' (first
    | simp only [State.upFb_quiet, serveSteep_quiet]
    | (with_reducible refine Eq.trans (State.upNvm_quiet _ _ ?_) ?_; exact fun _ => rfl)
    | (with_reducible refine Eq.trans (State.upCmp_quiet _ _ ?_) ?_; exact fun _ => rfl)
    | split)

theorem dropBook_quiet (f : BookFor) (s : State) :
    quiet (dropBook f s) = quiet s := by
  unfold dropBook
  simp only [State.upLdg_quiet]

theorem marginNone_quiet (r : Rail) (s : State) :
    quiet (marginNone r s) = quiet s := by
  unfold marginNone
  simp only [quiet_ite, ite_self, State.upSeqRail_quiet, State.upPrnRail_quiet, alertPorts_quiet,
      dropBook_quiet]

theorem leaveOn_quiet (i : SeqIdx) (s : State) :
    quiet (leaveOn i s) = quiet s := by
  unfold leaveOn
  split <;> simp only [quiet_ite, ite_self, marginNone_quiet]

theorem enableLoop_quiet (r : Rail) (s : State) : quiet (enableLoop r s) = quiet s := by
  unfold enableLoop
  refine (enablePhases_quiet _ _).trans ?_
  refine (State.upPrnRail_quiet _ _ _).trans ?_
  rfl

theorem disableLoop_quiet (r : Rail) (s : State) :
    quiet (disableLoop r s) = quiet s := by
  unfold disableLoop
  simp only [State.upEngRail_quiet, State.upFb_quiet, disablePhases_quiet, refreshCodes_quiet,
      refreshPhases_quiet, freeAdjudication_quiet]

theorem alertShdn_quiet (r : Rail) (s : State) :
    quiet (alertShdn r s) = quiet s := by
  unfold alertShdn
  simp only [alertPorts_quiet]

theorem setRailState_quiet (i : SeqIdx) (q : RailState) (s : State) :
    quiet (setRailState i q s) = quiet s := by
  unfold setRailState
  simp only [State.upSeqRail_quiet]

theorem followDiscode_quiet (i : SeqIdx) (s : State) :
    quiet (followDiscode i s) = quiet s := by
  unfold followDiscode
  split <;> simp only [putCodes_quiet, refreshCodes_quiet]

theorem enterDischarge_quiet (i : SeqIdx) (s : State) :
    quiet (enterDischarge i s) = quiet s := by
  unfold enterDischarge
  split <;> simp only [State.upSeqRail_quiet, State.upPrnRail_quiet, disableLoop_quiet,
      followDiscode_quiet]

theorem enterStop_quiet (i : SeqIdx) (r : Rail) (s : State) :
    quiet (enterStop i r s) = quiet s := by
  unfold enterStop
  simp only [State.upPrnRail_quiet, alertShdn_quiet, setRailState_quiet]

theorem enterRamp_quiet (i : SeqIdx) (s : State) :
    quiet (enterRamp i s) = quiet s := by
  unfold enterRamp
  split <;> simp only [State.upSeqRail_quiet, enableLoop_quiet, setRailState_quiet]

theorem restRail_quiet (r : Rail) (s : State) :
    quiet (restRail r s) = quiet s := by
  unfold restRail
  simp only [State.upPrnRail_quiet, driveHeld_quiet]

theorem reachOff_quiet (i : SeqIdx) (s : State) :
    quiet (reachOff i s) = quiet s := by
  unfold reachOff
  split <;> simp only [State.upSeqRail_quiet, restRail_quiet]

theorem railStep_quiet (i : SeqIdx) (s : State) :
    quiet (railStep i s) = quiet s := by
  unfold railStep
  repeat' (first
    | simp only [quiet_ite, ite_self, State.upSeqRail_quiet, State.upPrnRail_quiet, leaveOn_quiet,
        setRailState_quiet, followDiscode_quiet, enterDischarge_quiet, enterStop_quiet]
    | split)

theorem settleRounds_quiet (n : Nat) (s : State) : quiet (settleRounds n s) = quiet s := by
  induction n generalizing s with
  | zero => rfl
  | succ n ih =>
    have h : quiet (State.each (usedRails s.cfg) railStep s) = quiet s := quiet_each _ _ _
        railStep_quiet
    simp only [settleRounds, quiet_ite, ih, h, ite_self]

theorem dropReservation_quiet (p : Port) (s : State) :
    quiet (dropReservation p s) = quiet s := by
  unfold dropReservation
  simp only [State.upPort_quiet, dropBook_quiet]

theorem releaseIdle_quiet (s : State) :
    quiet (releaseIdle s) = quiet s := by
  unfold releaseIdle
  repeat' (first
    | simp only [dropReservation_quiet]
    | (with_reducible refine (quiet_each _ _ _ (fun _ _ => ?_)).trans ?_ <;> beta_reduce)
    | split)

theorem settle_quiet (s : State) :
    quiet (settle s) = quiet s := by
  unfold settle
  simp only [quiet_ite, ite_self, settleRounds_quiet, releaseIdle_quiet]

theorem requestOff_quiet (j : Group) (s : State) :
    quiet (requestOff j s) = quiet s := by
  unfold requestOff
  repeat' (first
    | simp only [quiet_ite, State.upSeqRail_quiet, State.upGroup_quiet]
    | (with_reducible refine (quiet_each _ _ _ (fun _ _ => ?_)).trans ?_ <;> beta_reduce)
    | split)

theorem requestOn_quiet (j : Group) (s : State) :
    quiet (requestOn j s) = quiet s := by
  unfold requestOn
  repeat' (first
    | simp only [quiet_ite, State.upSeqRail_quiet, State.upGroup_quiet]
    | (with_reducible refine (quiet_each _ _ _ (fun _ _ => ?_)).trans ?_ <;> beta_reduce)
    | split)

theorem markDown_quiet (fault : Bool) (i : SeqIdx) (s : State) :
    quiet (markDown fault i s) = quiet s := by
  unfold markDown
  simp only [quiet_ite, ite_self, State.upSeqRail_quiet]

theorem takeGroup_quiet (j : Group) (s : State) :
    quiet (takeGroup j s) = quiet s := by
  unfold takeGroup
  repeat' (first
    | simp only [State.upSeqRail_quiet, settle_quiet, requestOff_quiet, markDown_quiet]
    | (with_reducible refine (quiet_each _ _ _ (fun _ _ => ?_)).trans ?_ <;> beta_reduce)
    | split)

theorem takeRetry_quiet (i : SeqIdx) (s : State) :
    quiet (takeRetry i s) = quiet s := by
  unfold takeRetry
  repeat' (first
    | simp only [quiet_ite, ite_self, State.upSeqRail_quiet, settle_quiet]
    | (with_reducible refine (quiet_each _ _ _ (fun _ _ => ?_)).trans ?_ <;> beta_reduce)
    | split)

theorem takeSysrst_quiet (s : State) :
    quiet (takeSysrst s) = quiet s := by
  unfold takeSysrst
  repeat' (first
    | simp only [State.upSeq_quiet, settle_quiet, requestOff_quiet, markDown_quiet]
    | (with_reducible refine (quiet_each _ _ _ (fun _ _ => ?_)).trans ?_ <;> beta_reduce)
    | split)

theorem shutOff_quiet (s : State) :
    quiet (shutOff s) = quiet s := by
  unfold shutOff
  repeat' (first
    | simp only [State.upSeq_quiet, State.upSeqRail_quiet, State.upGroup_quiet, leaveOn_quiet,
        alertShdn_quiet, setRailState_quiet, enterDischarge_quiet, reachOff_quiet]
    | (with_reducible refine (quiet_each _ _ _ (fun _ _ => ?_)).trans ?_ <;> beta_reduce)
    | split)

theorem ladderRest_quiet (s : State) :
    quiet (ladderRest s) = quiet s := by
  unfold ladderRest
  simp only [quiet_ite, ite_self, State.upFlt_quiet]

theorem clearPending_quiet (mask : BitVec 128) (s : State) :
    quiet (clearPending mask s) = quiet s := by
  unfold clearPending
  simp only [State.upFlt_quiet, ladderRest_quiet]

theorem clearCapture_quiet (s : State) :
    quiet (clearCapture s) = quiet s := by
  unfold clearCapture
  simp only [State.upFlt_quiet]

theorem Taking.note_quiet (t : Taking) (k : Nat) :
    quiet (Taking.note t k).s = quiet t.s := by
  unfold Taking.note
  simp only []

theorem Taking.send_quiet (t : Taking) (v : Fin 32) :
    quiet (Taking.send t v).s = quiet t.s := by
  unfold Taking.send
  simp only [sendMsix_quiet]

theorem takeInterrupt_quiet (e : Nat) (ladder : Bool) (t : Taking) :
    quiet (takeInterrupt e ladder t).s = quiet t.s := by
  unfold takeInterrupt
  repeat' (first | simp only [State.upFlt_quiet, Taking.note_quiet, Taking.send_quiet] | split)

theorem takeAlert_quiet (e : Nat) (t : Taking) :
    quiet (takeAlert e t).s = quiet t.s := by
  unfold takeAlert
  simp only [State.upFlt_quiet, Taking.note_quiet, Taking.send_quiet]

theorem takeErrn_quiet (e : Nat) (t : Taking) :
    quiet (takeErrn e t).s = quiet t.s := by
  unfold takeErrn
  simp only [State.upFlt_quiet, Taking.note_quiet]

theorem noteKey_quiet (e : Nat) (src : Word) (s : State) :
    quiet (noteKey e src s) = quiet s := by
  unfold noteKey
  simp only [quiet_ite, ite_self, State.upFlt_quiet]

theorem askReset_quiet (key : BitVec 4 × BitVec 4 × BitVec 6) (s : State) :
    quiet (askReset key s) = quiet s := by
  unfold askReset
  simp only [State.upFlt_quiet]

theorem askBlockReset_quiet (src : Word) (s : State) :
    quiet (askBlockReset src s) = quiet s := by
  unfold askBlockReset
  simp only [askReset_quiet]

theorem askChipReset_quiet (s : State) :
    quiet (askChipReset s) = quiet s := by
  unfold askChipReset
  simp only [quiet_ite, ite_self, State.upFlt_quiet, State.upPwr_quiet, takeSysrst_quiet]

theorem reactNormal_quiet (e : Nat) (src : Word) (was : Bool) (t : Taking) :
    quiet (reactNormal e src was t).s = quiet t.s := by
  unfold reactNormal
  repeat' (first
    | simp only [Taking.note_quiet, takeInterrupt_quiet, takeAlert_quiet, takeErrn_quiet,
        askBlockReset_quiet, askChipReset_quiet]
    | split)

theorem reactEscalated_quiet (e : Nat) (was : Bool) (t : Taking) :
    quiet (reactEscalated e was t).s = quiet t.s := by
  unfold reactEscalated
  repeat' (first
    | simp only [State.upFlt_quiet, takeInterrupt_quiet, takeAlert_quiet, takeErrn_quiet]
    | split)

theorem actClassA_quiet (e : Nat) (src : Word) (t : Taking) :
    quiet (actClassA e src t).s = quiet t.s := by
  unfold actClassA
  repeat' (first
    | simp only [State.upFlt_quiet, recordCommit_quiet, countUp_quiet, shutOff_quiet, Taking.note_quiet,
        Taking.send_quiet]
    | split)

theorem countDrop_quiet (s : State) :
    quiet (countDrop s) = quiet s := by
  unfold countDrop
  simp only [State.upFlt_quiet]

theorem react_quiet (e : Nat) (src : Word) (classA was esc : Bool) (t : Taking) :
    quiet (react e src classA was esc t).s = quiet t.s := by
  unfold react
  repeat' (first | simp only [reactNormal_quiet, reactEscalated_quiet, actClassA_quiet] | split)

theorem raiseOne_quiet (e : Nat) (src : Word) (code : Nat) (acc : Access) (classA injected : Bool) (s :
    State) :
    quiet (raiseOne e src code acc classA injected s).1 = quiet s := by
  unfold raiseOne
  repeat' (first
    | simp only [quiet_ite, quiet_ite_fst, ite_self, State.upFlt_quiet, noteKey_quiet, countDrop_quiet,
        react_quiet]
    | split)

theorem raiseUnsent_quiet (vs : List (Fin 32)) (s : State) :
    quiet (raiseUnsent vs s) = quiet s := by
  unfold raiseUnsent
  repeat' (first
    | simp only [raiseOne_quiet]
    | (with_reducible refine (quiet_each _ _ _ (fun _ _ => ?_)).trans ?_ <;> beta_reduce)
    | split)

theorem raiseFull_quiet (e : Nat) (src : Word) (code : Nat) (acc : Access) (classA injected : Bool) (s :
    State) :
    quiet (raiseFull e src code acc classA injected s) = quiet s := by
  unfold raiseFull
  simp only [quiet_ite, ite_self, raiseOne_quiet, raiseUnsent_quiet]

theorem raise_quiet (e : Nat) (src : Word) (code : Nat) (s : State) :
    quiet (raise e src code s) = quiet s := by
  unfold raise
  simp only [raiseFull_quiet]

theorem raiseClassA_quiet (e : Nat) (src : Word) (s : State) :
    quiet (raiseClassA e src s) = quiet s := by
  unfold raiseClassA
  simp only [raiseFull_quiet]

theorem raiseAccess_quiet (e : Nat) (src : Word) (code : Nat) (acc : Access) (s : State) :
    quiet (raiseAccess e src code acc s) = quiet s := by
  unfold raiseAccess
  simp only [raiseFull_quiet]

theorem openWindow_quiet (e : Nat) (cause : Nat) (unit : Nat) (s : State) :
    quiet (openWindow e cause unit s) = quiet s := by
  unfold openWindow
  simp only [State.upFlt_quiet]

theorem raiseLimited_quiet (e : Nat) (cause : Nat) (unit : Nat) (src : Word) (code : Nat) (acc : Access)
    (s : State) :
    quiet (raiseLimited e cause unit src code acc s) = quiet s := by
  unfold raiseLimited
  simp only [quiet_ite, ite_self, raiseFull_quiet, openWindow_quiet]

theorem raiseMonitor_quiet (c : Nat) (s : State) :
    quiet (raiseMonitor c s) = quiet s := by
  unfold raiseMonitor
  simp only [raiseLimited_quiet]

theorem raiseSeq_quiet (i : SeqIdx) (cause elem : Nat) (s : State) :
    quiet (raiseSeq i cause elem s) = quiet s := by
  unfold raiseSeq
  simp only [State.upSeqRail_quiet, raiseLimited_quiet]

theorem runningFault_quiet (i : SeqIdx) (cause elem : Nat) (atLeast : Bool) (s : State) :
    quiet (runningFault i cause elem atLeast s) = quiet s := by
  unfold runningFault
  repeat' (first
    | simp only [quiet_ite, ite_self, State.upSeqRail_quiet, takeGroup_quiet, takeRetry_quiet,
        takeSysrst_quiet, raiseSeq_quiet]
    | split)

end Sys2Proof.Machine
end

