-- ==== Sys2Proof/Laws/Events.lean ====
section
/-!
SUPPORT. What a raise of an event does: its pending bit reads 1, no other pending bit is lost, and what
Quiet names stays as it was.
-/

set_option linter.unusedSimpArgs false
set_option linter.unusedTactic false
set_option linter.unreachableTactic false

namespace Sys2Proof.Machine

/-- The pending sources. -/
def pends (s : State) : BitVec 128 := s.flt.pend

theorem pends_ite {c : Prop} [Decidable c] (a b : State) :
    pends (if c then a else b) = if c then pends a else pends b := by split <;> rfl

theorem pends_ite_fst {α : Type} {c : Prop} [Decidable c] (a b : State × α) :
    pends (if c then a else b).1 = if c then pends a.1 else pends b.1 := by split <;> rfl

theorem pends_ite_s {c : Prop} [Decidable c] (a b : Taking) :
    pends (if c then a else b).s = if c then pends a.s else pends b.s := by split <;> rfl

theorem pends_each {α : Type} (xs : List α) (f : α → State → State) (s : State)
    (h : ∀ x s, pends (f x s) = pends s) : pends (State.each xs f s) = pends s := by
  unfold State.each
  induction xs generalizing s with
  | nil => rfl
  | cons x xs ih => rw [List.foldl_cons, ih, h]

theorem pends_foldl {α : Type} (xs : List α) (f : State → α → State) (s : State)
    (h : ∀ s x, pends (f s x) = pends s) : pends (xs.foldl f s) = pends s := by
  induction xs generalizing s with
  | nil => rfl
  | cons x xs ih => rw [List.foldl_cons, ih, h]

theorem State.upSeq_pends (f : Seq → Seq) (s : State) : pends (s.upSeq f) = pends s := rfl

theorem State.upCmp_pends (f : Cmp → Cmp) (s : State) : pends (s.upCmp f) = pends s := rfl

theorem State.upWin_pends (w : Window) (f : Win → Win) (s : State) : pends (s.upWin w f) = pends s :=
    rfl

theorem State.upPrn_pends (f : Prn → Prn) (s : State) : pends (s.upPrn f) = pends s := rfl

theorem State.upEng_pends (f : Eng → Eng) (s : State) : pends (s.upEng f) = pends s := rfl

theorem State.upPwm_pends (f : Pwm → Pwm) (s : State) : pends (s.upPwm f) = pends s := rfl

theorem State.upLdg_pends (f : Ldg → Ldg) (s : State) : pends (s.upLdg f) = pends s := rfl

theorem State.upHif_pends (f : Hif → Hif) (s : State) : pends (s.upHif f) = pends s := rfl

theorem State.upSeqRail_pends (i : SeqIdx) (f : SeqRail → SeqRail) (s : State) : pends (s.upSeqRail i f)
    = pends s := rfl

theorem State.upGroup_pends (i : Group) (f : SeqGroup → SeqGroup) (s : State) : pends (s.upGroup i f) =
    pends s := rfl

theorem State.upPrnRail_pends (i : Rail) (f : PrnRail → PrnRail) (s : State) : pends (s.upPrnRail i f) =
    pends s := rfl

theorem State.upPort_pends (i : Port) (f : PrnPort → PrnPort) (s : State) : pends (s.upPort i f) = pends
    s := rfl

theorem State.upEngRail_pends (i : Rail) (f : EngRail → EngRail) (s : State) : pends (s.upEngRail i f) =
    pends s := rfl

theorem State.upPair_pends (i : PairNo) (f : Pair → Pair) (s : State) : pends (s.upPair i f) = pends s
    := rfl

theorem State.upPhase_pends (i : Phase) (f : Phasor → Phasor) (s : State) : pends (s.upPhase i f) =
    pends s := rfl

theorem State.upPwmRail_pends (i : Rail) (f : PwmRail → PwmRail) (s : State) : pends (s.upPwmRail i f) =
    pends s := rfl

theorem State.upSq_pends (i : Ring) (f : Sq → Sq) (s : State) : pends (s.upSq i f) = pends s := rfl

theorem State.upCq_pends (i : Ring) (f : Cq → Cq) (s : State) : pends (s.upCq i f) = pends s := rfl

theorem State.upFb_pends (i : Rail) (f : FbRail → FbRail) (s : State) : pends (s.upFb i f) = pends s :=
    rfl

theorem State.upAdc_pends (f : Adc → Adc) (s : State) : pends (s.upAdc f) = pends s := rfl

theorem State.upGau_pends (f : Gau → Gau) (s : State) : pends (s.upGau f) = pends s := rfl

theorem State.upTw_pends (f : Tw → Tw) (s : State) : pends (s.upTw f) = pends s := rfl

theorem State.upClk_pends (f : Clk → Clk) (s : State) : pends (s.upClk f) = pends s := rfl

theorem State.upTmr_pends (f : Tmr → Tmr) (s : State) : pends (s.upTmr f) = pends s := rfl

theorem State.upRegs_pends (f : Regs → Regs) (s : State) : pends (s.upRegs f) = pends s := rfl

theorem State.upFab_pends (f : Fab → Fab) (s : State) : pends (s.upFab f) = pends s := rfl

theorem State.upNvm_pends (f : Nvm → Nvm) (s : State) : pends (s.upNvm f) = pends s := rfl

theorem State.upPwr_pends (f : Pwr → Pwr) (s : State) : pends (s.upPwr f) = pends s := rfl

theorem State.upFlt_pends (f : Flt → Flt) (s : State) (h : ∀ x, (f x).pend = x.pend) :
    pends (s.upFlt f) = pends s := h s.flt

theorem State.emit_pends (o : Out) (s : State) : pends (s.emit o) = pends s := rfl

theorem clearForecasts_pends (r : Rail) (s : State) :
    pends (clearForecasts r s) = pends s := by
  unfold clearForecasts
  simp only [State.upEngRail_pends]

theorem resumeCal_pends (since : Nat) (s : State) :
    pends (resumeCal since s) = pends s := by
  unfold resumeCal
  simp only [State.upAdc_pends]

theorem alertPorts_pends (p : Port → Bool) (cause : Nat) (s : State) :
    pends (alertPorts p cause s) = pends s := by
  unfold alertPorts
  repeat' (first
    | simp only [State.upPort_pends]
    | (with_reducible refine (pends_each _ _ _ (fun _ _ => ?_)).trans ?_ <;> beta_reduce)
    | split)

theorem nvAsk_pends (r : NvReq) (s : State) :
    pends (nvAsk r s) = pends s := by
  unfold nvAsk
  simp only [pends_ite, ite_self, State.upNvm_pends]

theorem recordCommit_pends (id : Fin 64) (payload : List Byte) (s : State) :
    pends (recordCommit id payload s) = pends s := by
  unfold recordCommit
  simp only [nvAsk_pends]

theorem countUp_pends (n : Fin 64) (s : State) :
    pends (countUp n s) = pends s := by
  unfold countUp
  simp only [nvAsk_pends]

theorem sendMsix_pends (v : Fin 32) (s : State) :
    pends (sendMsix v s).1 = pends s := by
  unfold sendMsix
  simp only [pends_ite_fst, ite_self, State.upHif_pends, State.emit_pends]

theorem completeData_pends (q : Ring) (status : Nat) (result : Nat) (data : List Byte) (s : State) :
    pends (completeData q status result data s) = pends s := by
  unfold completeData
  split <;> simp only [State.upSq_pends, State.upCq_pends]

theorem complete_pends (q : Ring) (status : Nat) (result : Nat) (s : State) :
    pends (complete q status result s) = pends s := by
  unfold complete
  simp only [completeData_pends]

theorem decide__pends (q : Ring) (s : State) :
    pends (decide_ q s) = pends s := by
  unfold decide_
  simp only [State.upSq_pends]

theorem act__pends (q : Ring) (s : State) :
    pends (act_ q s) = pends s := by
  unfold act_
  simp only [State.upSq_pends]

theorem retarget_pends (r : Rail) (fresh : BitVec 48) (s : State) :
    pends (retarget r fresh s) = pends s := by
  unfold retarget
  repeat' (first
    | simp only [pends_ite, ite_self, State.upPhase_pends]
    | (with_reducible refine (pends_each _ _ _ (fun _ _ => ?_)).trans ?_ <;> beta_reduce)
    | split)

theorem anchorCarrier_pends (r : Rail) (s : State) :
    pends (anchorCarrier r s) = pends s := by
  unfold anchorCarrier
  split <;> simp only [State.upPhase_pends]

theorem showStates_pends (r : Rail) (s : State) :
    pends (showStates r s) = pends s := by
  unfold showStates
  repeat' (first
    | simp only [State.upPhase_pends]
    | (with_reducible refine (pends_each _ _ _ (fun _ _ => ?_)).trans ?_ <;> beta_reduce)
    | split)

theorem freeSub_pends (h : Phase) (s : State) :
    pends (freeSub h s) = pends s := by
  unfold freeSub
  split <;> simp only [State.upPhase_pends]

theorem freeSubs_pends (r : Rail) (s : State) :
    pends (freeSubs r s) = pends s := by
  unfold freeSubs
  repeat' (first
    | simp only [pends_ite, ite_self, freeSub_pends]
    | (with_reducible refine (pends_each _ _ _ (fun _ _ => ?_)).trans ?_ <;> beta_reduce)
    | split)

theorem setActive_pends (r : Rail) (act : BitVec 48) (s : State) :
    pends (setActive r act s) = pends s := by
  unfold setActive
  simp only [State.upPwmRail_pends, retarget_pends, showStates_pends, freeSubs_pends]

theorem substitute_pends (r : Rail) (h : Phase) (s : State) :
    pends (substitute r h s) = pends s := by
  unfold substitute
  split <;> simp only [State.upPhase_pends]

theorem substituteFor_pends (r : Rail) (hs : List Phase) (s : State) :
    pends (substituteFor r hs s) = pends s := by
  unfold substituteFor
  repeat' (first
    | simp only [pends_ite, ite_self, substitute_pends]
    | (with_reducible refine (pends_each _ _ _ (fun _ _ => ?_)).trans ?_ <;> beta_reduce)
    | split)

theorem substituteAll_pends (r : Rail) (s : State) :
    pends (substituteAll r s) = pends s := by
  unfold substituteAll
  simp only [substituteFor_pends]

theorem driveHeld_pends (r : Rail) (d : Drive) (s : State) :
    pends (driveHeld r d s) = pends s := by
  unfold driveHeld
  repeat' (first
    | simp only [State.upPhase_pends]
    | (with_reducible refine (pends_each _ _ _ (fun _ _ => ?_)).trans ?_ <;> beta_reduce)
    | split)

theorem saveHealth_pends (s : State) :
    pends (saveHealth s) = pends s := by
  unfold saveHealth
  simp only [pends_ite, ite_self, recordCommit_pends]

theorem enablePhases_pends (r : Rail) (s : State) :
    pends (enablePhases r s) = pends s := by
  unfold enablePhases
  simp only [State.upPwmRail_pends, anchorCarrier_pends, setActive_pends, substituteAll_pends]

theorem disableAdmit_pends (r : Rail) (s : State) :
    pends (disableAdmit r s) = pends s := by
  unfold disableAdmit
  split <;> simp only [State.upPhase_pends, State.upPwmRail_pends, complete_pends, freeSub_pends,
      saveHealth_pends]

theorem endHalf_pends (r : Rail) (s : State) :
    pends (endHalf r s) = pends s := by
  unfold endHalf
  repeat' (first
    | simp only [State.upPhase_pends]
    | (with_reducible refine (pends_each _ _ _ (fun _ _ => ?_)).trans ?_ <;> beta_reduce)
    | split)

theorem disablePhases_pends (r : Rail) (s : State) :
    pends (disablePhases r s) = pends s := by
  unfold disablePhases
  simp only [State.upPwmRail_pends, showStates_pends, driveHeld_pends, disableAdmit_pends,
      endHalf_pends]

theorem putCodes_pends (w : Window) (c : BitVec 10 × BitVec 10) (s : State) :
    pends (putCodes w c s) = pends s := by
  unfold putCodes
  repeat' (first | simp only [State.upWin_pends] | split)

theorem refreshCodes_pends (r : Rail) (s : State) :
    pends (refreshCodes r s) = pends s := by
  unfold refreshCodes
  simp only [putCodes_pends]

theorem refreshPhases_pends (r : Rail) (s : State) :
    pends (refreshPhases r s) = pends s := by
  unfold refreshPhases
  repeat' (first
    | simp only [putCodes_pends]
    | (with_reducible refine (pends_each _ _ _ (fun _ _ => ?_)).trans ?_ <;> beta_reduce)
    | split)

theorem refreshAll_pends (s : State) :
    pends (refreshAll s) = pends s := by
  unfold refreshAll
  repeat' (first
    | simp only [putCodes_pends, refreshCodes_pends]
    | (with_reducible refine (pends_each _ _ _ (fun _ _ => ?_)).trans ?_ <;> beta_reduce)
    | split)

theorem handBack_pends (p : Proof) (s : State) :
    pends (handBack p s) = pends s := by
  unfold handBack
  simp only [pends_ite, ite_self, State.upWin_pends]

theorem freeDac_pends (p : Proof) (s : State) :
    pends (freeDac p s) = pends s := by
  unfold freeDac
  simp only [pends_ite, ite_self, resumeCal_pends]

theorem takeSteep_pends (r : Rail) (s : State) :
    pends (takeSteep r s) = pends s := by
  unfold takeSteep
  repeat' (first
    | simp only [State.upCmp_pends, State.upFb_pends, handBack_pends, freeDac_pends]
    | split)

theorem beginProof_pends (s : State) :
    pends (beginProof s) = pends s := by
  unfold beginProof
  repeat' (first | simp only [pends_ite, State.upCmp_pends] | split)

theorem serveSteep_pends (s : State) :
    pends (serveSteep s) = pends s := by
  unfold serveSteep
  repeat' (first
    | simp only [pends_ite, ite_self, takeSteep_pends, beginProof_pends]
    | (with_reducible refine (pends_each _ _ _ (fun _ _ => ?_)).trans ?_ <;> beta_reduce)
    | split)

theorem freeAdjudication_pends (r : Rail) (s : State) :
    pends (freeAdjudication r s) = pends s := by
  unfold freeAdjudication
  simp only [State.upCmp_pends, State.upFb_pends, serveSteep_pends]

theorem dropBook_pends (f : BookFor) (s : State) :
    pends (dropBook f s) = pends s := by
  unfold dropBook
  simp only [State.upLdg_pends]

theorem marginNone_pends (r : Rail) (s : State) :
    pends (marginNone r s) = pends s := by
  unfold marginNone
  simp only [pends_ite, ite_self, State.upSeqRail_pends, State.upPrnRail_pends, alertPorts_pends,
      dropBook_pends]

theorem leaveOn_pends (i : SeqIdx) (s : State) :
    pends (leaveOn i s) = pends s := by
  unfold leaveOn
  split <;> simp only [pends_ite, ite_self, marginNone_pends]

theorem enableLoop_pends (r : Rail) (s : State) :
    pends (enableLoop r s) = pends s := by
  unfold enableLoop
  simp only [State.upPrnRail_pends, State.upEngRail_pends, State.upFb_pends, State.upAdc_pends,
      enablePhases_pends]

theorem disableLoop_pends (r : Rail) (s : State) :
    pends (disableLoop r s) = pends s := by
  unfold disableLoop
  simp only [State.upEngRail_pends, State.upFb_pends, disablePhases_pends, refreshCodes_pends,
      refreshPhases_pends, freeAdjudication_pends]

theorem alertShdn_pends (r : Rail) (s : State) :
    pends (alertShdn r s) = pends s := by
  unfold alertShdn
  simp only [alertPorts_pends]

theorem setRailState_pends (i : SeqIdx) (q : RailState) (s : State) :
    pends (setRailState i q s) = pends s := by
  unfold setRailState
  simp only [State.upSeqRail_pends]

theorem followDiscode_pends (i : SeqIdx) (s : State) :
    pends (followDiscode i s) = pends s := by
  unfold followDiscode
  split <;> simp only [putCodes_pends, refreshCodes_pends]

theorem enterDischarge_pends (i : SeqIdx) (s : State) :
    pends (enterDischarge i s) = pends s := by
  unfold enterDischarge
  split <;> simp only [State.upSeqRail_pends, State.upPrnRail_pends, disableLoop_pends,
      followDiscode_pends]

theorem enterStop_pends (i : SeqIdx) (r : Rail) (s : State) :
    pends (enterStop i r s) = pends s := by
  unfold enterStop
  simp only [State.upPrnRail_pends, alertShdn_pends, setRailState_pends]

theorem enterRamp_pends (i : SeqIdx) (s : State) :
    pends (enterRamp i s) = pends s := by
  unfold enterRamp
  split <;> simp only [State.upSeqRail_pends, enableLoop_pends, setRailState_pends]

theorem restRail_pends (r : Rail) (s : State) :
    pends (restRail r s) = pends s := by
  unfold restRail
  simp only [State.upPrnRail_pends, driveHeld_pends]

theorem reachOff_pends (i : SeqIdx) (s : State) :
    pends (reachOff i s) = pends s := by
  unfold reachOff
  split <;> simp only [State.upSeqRail_pends, restRail_pends]

theorem railStep_pends (i : SeqIdx) (s : State) :
    pends (railStep i s) = pends s := by
  unfold railStep
  repeat' (first
    | simp only [pends_ite, ite_self, State.upSeqRail_pends, State.upPrnRail_pends, leaveOn_pends,
        setRailState_pends, followDiscode_pends, enterDischarge_pends, enterStop_pends]
    | split)

theorem settleRounds_pends (n : Nat) (s : State) : pends (settleRounds n s) = pends s := by
  induction n generalizing s with
  | zero => rfl
  | succ n ih =>
    have h : pends (State.each (usedRails s.cfg) railStep s) = pends s := pends_each _ _ _
        railStep_pends
    simp only [settleRounds, pends_ite, ih, h, ite_self]

theorem dropReservation_pends (p : Port) (s : State) :
    pends (dropReservation p s) = pends s := by
  unfold dropReservation
  simp only [State.upPort_pends, dropBook_pends]

theorem releaseIdle_pends (s : State) :
    pends (releaseIdle s) = pends s := by
  unfold releaseIdle
  repeat' (first
    | simp only [dropReservation_pends]
    | (with_reducible refine (pends_each _ _ _ (fun _ _ => ?_)).trans ?_ <;> beta_reduce)
    | split)

theorem settle_pends (s : State) :
    pends (settle s) = pends s := by
  unfold settle
  simp only [pends_ite, ite_self, settleRounds_pends, releaseIdle_pends]

theorem requestOff_pends (j : Group) (s : State) :
    pends (requestOff j s) = pends s := by
  unfold requestOff
  repeat' (first
    | simp only [pends_ite, State.upSeqRail_pends, State.upGroup_pends]
    | (with_reducible refine (pends_each _ _ _ (fun _ _ => ?_)).trans ?_ <;> beta_reduce)
    | split)

theorem requestOn_pends (j : Group) (s : State) :
    pends (requestOn j s) = pends s := by
  unfold requestOn
  repeat' (first
    | simp only [pends_ite, State.upSeqRail_pends, State.upGroup_pends]
    | (with_reducible refine (pends_each _ _ _ (fun _ _ => ?_)).trans ?_ <;> beta_reduce)
    | split)

theorem markDown_pends (fault : Bool) (i : SeqIdx) (s : State) :
    pends (markDown fault i s) = pends s := by
  unfold markDown
  simp only [pends_ite, ite_self, State.upSeqRail_pends]

theorem takeGroup_pends (j : Group) (s : State) :
    pends (takeGroup j s) = pends s := by
  unfold takeGroup
  repeat' (first
    | simp only [State.upSeqRail_pends, settle_pends, requestOff_pends, markDown_pends]
    | (with_reducible refine (pends_each _ _ _ (fun _ _ => ?_)).trans ?_ <;> beta_reduce)
    | split)

theorem takeRetry_pends (i : SeqIdx) (s : State) :
    pends (takeRetry i s) = pends s := by
  unfold takeRetry
  repeat' (first
    | simp only [pends_ite, ite_self, State.upSeqRail_pends, settle_pends]
    | (with_reducible refine (pends_each _ _ _ (fun _ _ => ?_)).trans ?_ <;> beta_reduce)
    | split)

theorem takeSysrst_pends (s : State) :
    pends (takeSysrst s) = pends s := by
  unfold takeSysrst
  repeat' (first
    | simp only [State.upSeq_pends, settle_pends, requestOff_pends, markDown_pends]
    | (with_reducible refine (pends_each _ _ _ (fun _ _ => ?_)).trans ?_ <;> beta_reduce)
    | split)

theorem shutOff_pends (s : State) :
    pends (shutOff s) = pends s := by
  unfold shutOff
  repeat' (first
    | simp only [State.upSeq_pends, State.upSeqRail_pends, State.upGroup_pends, leaveOn_pends,
        alertShdn_pends, setRailState_pends, enterDischarge_pends, reachOff_pends]
    | (with_reducible refine (pends_each _ _ _ (fun _ _ => ?_)).trans ?_ <;> beta_reduce)
    | split)

theorem ladderRest_pends (s : State) :
    pends (ladderRest s) = pends s := by
  unfold ladderRest
  repeat' (first
    | simp only [pends_ite]
    | (with_reducible refine Eq.trans (State.upFlt_pends _ _ ?_) ?_; exact fun _ => rfl)
    | split)

theorem clearCapture_pends (s : State) :
    pends (clearCapture s) = pends s := by
  unfold clearCapture
  repeat' (first
    | simp only []
    | (with_reducible refine Eq.trans (State.upFlt_pends _ _ ?_) ?_; exact fun _ => rfl)
    | split)

theorem Taking.note_pends (t : Taking) (k : Nat) :
    pends (Taking.note t k).s = pends t.s := by
  unfold Taking.note
  simp only []

theorem Taking.send_pends (t : Taking) (v : Fin 32) :
    pends (Taking.send t v).s = pends t.s := by
  unfold Taking.send
  simp only [sendMsix_pends]

theorem takeInterrupt_pends (e : Nat) (ladder : Bool) (t : Taking) :
    pends (takeInterrupt e ladder t).s = pends t.s := by
  unfold takeInterrupt
  repeat' (first
    | simp only [Taking.note_pends, Taking.send_pends]
    | (with_reducible refine Eq.trans (State.upFlt_pends _ _ ?_) ?_; exact fun _ => rfl)
    | split)

theorem takeAlert_pends (e : Nat) (t : Taking) :
    pends (takeAlert e t).s = pends t.s := by
  unfold takeAlert
  repeat' (first
    | simp only [Taking.note_pends, Taking.send_pends]
    | (with_reducible refine Eq.trans (State.upFlt_pends _ _ ?_) ?_; exact fun _ => rfl)
    | split)

theorem takeErrn_pends (e : Nat) (t : Taking) :
    pends (takeErrn e t).s = pends t.s := by
  unfold takeErrn
  repeat' (first
    | simp only [Taking.note_pends]
    | (with_reducible refine Eq.trans (State.upFlt_pends _ _ ?_) ?_; exact fun _ => rfl)
    | split)

theorem noteKey_pends (e : Nat) (src : Word) (s : State) :
    pends (noteKey e src s) = pends s := by
  unfold noteKey
  repeat' (first
    | simp only [pends_ite]
    | (with_reducible refine Eq.trans (State.upFlt_pends _ _ ?_) ?_; exact fun _ => rfl)
    | split)

theorem askReset_pends (key : BitVec 4 × BitVec 4 × BitVec 6) (s : State) :
    pends (askReset key s) = pends s := by
  unfold askReset
  repeat' (first
    | simp only []
    | (with_reducible refine Eq.trans (State.upFlt_pends _ _ ?_) ?_; exact fun _ => rfl)
    | split)

theorem askBlockReset_pends (src : Word) (s : State) :
    pends (askBlockReset src s) = pends s := by
  unfold askBlockReset
  simp only [askReset_pends]

theorem askChipReset_pends (s : State) :
    pends (askChipReset s) = pends s := by
  unfold askChipReset
  repeat' (first
    | simp only [pends_ite, State.upPwr_pends, takeSysrst_pends]
    | (with_reducible refine Eq.trans (State.upFlt_pends _ _ ?_) ?_; exact fun _ => rfl)
    | split)

theorem reactNormal_pends (e : Nat) (src : Word) (was : Bool) (t : Taking) :
    pends (reactNormal e src was t).s = pends t.s := by
  unfold reactNormal
  repeat' (first
    | simp only [Taking.note_pends, takeInterrupt_pends, takeAlert_pends, takeErrn_pends,
        askBlockReset_pends, askChipReset_pends]
    | split)

theorem reactEscalated_pends (e : Nat) (was : Bool) (t : Taking) :
    pends (reactEscalated e was t).s = pends t.s := by
  unfold reactEscalated
  repeat' (first
    | simp only [takeInterrupt_pends, takeAlert_pends, takeErrn_pends]
    | (with_reducible refine Eq.trans (State.upFlt_pends _ _ ?_) ?_; exact fun _ => rfl)
    | split)

theorem actClassA_pends (e : Nat) (src : Word) (t : Taking) :
    pends (actClassA e src t).s = pends t.s := by
  unfold actClassA
  repeat' (first
    | simp only [recordCommit_pends, countUp_pends, shutOff_pends, Taking.note_pends, Taking.send_pends]
    | (with_reducible refine Eq.trans (State.upFlt_pends _ _ ?_) ?_; exact fun _ => rfl)
    | split)

theorem countDrop_pends (s : State) :
    pends (countDrop s) = pends s := by
  unfold countDrop
  repeat' (first
    | simp only []
    | (with_reducible refine Eq.trans (State.upFlt_pends _ _ ?_) ?_; exact fun _ => rfl)
    | split)

theorem react_pends (e : Nat) (src : Word) (classA was esc : Bool) (t : Taking) :
    pends (react e src classA was esc t).s = pends t.s := by
  unfold react
  repeat' (first | simp only [reactNormal_pends, reactEscalated_pends, actClassA_pends] | split)

theorem raiseOne_pends (e : Nat) (src : Word) (code : Nat) (acc : Access) (injected : Bool) (s : State)
    (hf : domOn s pdFab = true) :
    pends (raiseOne e src code acc false injected s).1 = putBit s.flt.pend e true := by
  unfold raiseOne
  simp only [hf, Bool.not_true, Bool.false_and, Bool.false_eq_true, if_false]
  refine (pends_ite _ _).trans ?_
  have h : ∀ (g : Flt → Flt) (esc : Bool) (was : Bool),
      (∀ f, (g f).pend = putBit f.pend e true) →
      pends (react e src false was esc { s := noteKey e src (s.upFlt g), taken := 0, failed := [] }).s =
        putBit s.flt.pend e true := by
    intro g esc was hg
    rw [react_pends, noteKey_pends]
    exact hg s.flt
  have inner : ∀ (u v : State), pends u = putBit s.flt.pend e true → pends v = putBit s.flt.pend e true
      →
      ∀ (c : Prop) [Decidable c], (if c then pends u else pends v) = putBit s.flt.pend e true := by
    intro u v hu hv c _
    split <;> assumption
  refine inner _ _ ?_ ?_ _
  · refine (State.upFlt_pends _ _ fun _ => rfl).trans (h _ _ _ ?_)
    exact fun _ => rfl
  · refine (countDrop_pends _).trans (h _ _ _ ?_)
    exact fun _ => rfl

theorem openWindow_pends (e : Nat) (cause : Nat) (unit : Nat) (s : State) :
    pends (openWindow e cause unit s) = pends s := by
  unfold openWindow
  repeat' (first
    | simp only []
    | (with_reducible refine Eq.trans (State.upFlt_pends _ _ ?_) ?_; exact fun _ => rfl)
    | split)

theorem testBit_one (n i k : Nat) (h : k < n) :
    (BitVec.ofNat n (2 ^ i)).getLsbD k = decide (i = k) := by
  rw [BitVec.getLsbD_ofNat, Nat.testBit_two_pow]
  simp [h]

theorem hasBit_putBit_same {n : Nat} (b : BitVec n) {i : Nat} (v : Bool) (h : i < n) :
    hasBit (putBit b i v) i = v := by
  have hi := testBit_one n i i h
  rw [decide_eq_true rfl] at hi
  unfold hasBit putBit
  split
  · rw [BitVec.getLsbD_or, hi, Bool.or_true]
    exact Eq.symm ‹_›
  · rw [BitVec.getLsbD_and, BitVec.getLsbD_not, hi]
    simp_all

theorem hasBit_putBit_other {n : Nat} (b : BitVec n) {i k : Nat} (v : Bool) (h : k ≠ i) :
    hasBit (putBit b i v) k = hasBit b k := by
  unfold hasBit putBit
  by_cases hk : k < n
  · have hi := testBit_one n i k hk
    rw [decide_eq_false (Ne.symm h)] at hi
    split
    · rw [BitVec.getLsbD_or, hi, Bool.or_false]
    · rw [BitVec.getLsbD_and, BitVec.getLsbD_not, hi]
      simp [hk]
  · rw [BitVec.getLsbD_of_ge _ _ (by omega), BitVec.getLsbD_of_ge _ _ (by omega)]

/-- Without PD_FAB nothing is collected (R31). -/
theorem raiseOne_off (e : Nat) (src : Word) (code : Nat) (acc : Access) (injected : Bool) (s : State)
    (hf : domOn s pdFab = false) : raiseOne e src code acc false injected s = (s, []) := by
  unfold raiseOne
  simp only [hf, Bool.not_false, if_true]

/-- A source that pends stays pending through a raise. -/
theorem raiseOne_keeps (e k : Nat) (src : Word) (code : Nat) (acc : Access) (injected : Bool) (s : State)
    (h : hasBit s.flt.pend k = true) :
    hasBit (raiseOne e src code acc false injected s).1.flt.pend k = true := by
  cases hf : domOn s pdFab
  · rw [raiseOne_off _ _ _ _ _ _ hf]
    exact h
  have hp : (raiseOne e src code acc false injected s).1.flt.pend = putBit s.flt.pend e true :=
    raiseOne_pends e src code acc injected s hf
  rw [hp]
  by_cases hk : k = e
  · subst hk
    have hb : k < 128 := by
      by_contra hn
      rw [hasBit, BitVec.getLsbD_of_ge _ _ (by omega)] at h
      cases h
    exact hasBit_putBit_same _ _ hb
  · rw [hasBit_putBit_other _ _ hk, h]

theorem raiseUnsent_keeps (vs : List (Fin 32)) (k : Nat) (s : State) (h : hasBit s.flt.pend k = true) :
    hasBit (raiseUnsent vs s).flt.pend k = true := by
  unfold raiseUnsent State.each
  induction vs generalizing s with
  | nil => exact h
  | cons v vs ih => exact ih _ (raiseOne_keeps _ _ _ _ _ _ _ h)

theorem raiseFull_off (e : Nat) (src : Word) (code : Nat) (acc : Access) (injected : Bool) (s : State)
    (hf : domOn s pdFab = false) : raiseFull e src code acc false injected s = s := by
  unfold raiseFull
  rw [raiseOne_off _ _ _ _ _ _ hf]
  dsimp only
  split <;> rfl

theorem raiseFull_pend (e : Nat) (src : Word) (code : Nat) (acc : Access) (injected : Bool) (s : State)
    (hf : domOn s pdFab = true) (h : e < 128) :
    hasBit (raiseFull e src code acc false injected s).flt.pend e = true := by
  have h1 : hasBit (raiseOne e src code acc false injected s).1.flt.pend e = true := by
    have hp : (raiseOne e src code acc false injected s).1.flt.pend = putBit s.flt.pend e true :=
      raiseOne_pends e src code acc injected s hf
    rw [hp]
    exact hasBit_putBit_same _ _ h
  unfold raiseFull
  dsimp only
  split
  · exact h1
  · exact raiseUnsent_keeps _ _ _ h1

theorem raiseFull_keeps (e k : Nat) (src : Word) (code : Nat) (acc : Access) (injected : Bool) (s : State)
    (h : hasBit s.flt.pend k = true) :
    hasBit (raiseFull e src code acc false injected s).flt.pend k = true := by
  have h1 := raiseOne_keeps e k src code acc injected s h
  unfold raiseFull
  dsimp only
  split
  · exact h1
  · exact raiseUnsent_keeps _ _ _ h1


/-! ## An event and its reactions -/

theorem Quiet.of_quiet {s t : State} (h : quiet t = quiet s) : Quiet s t := by
  simp only [quiet, Prod.mk.injEq] at h
  obtain ⟨h1, h2, h3, h4, h5, h6, h7, h8, h9, h10, h11, h12⟩ := h
  simp only [Adc.mk.injEq] at h7
  refine ⟨h1, h2, h3, h4, h5, h6, ?_, h7.2.2.2.1, h7.2.2.2.2.1, h8, h9, ?_, h11, h12⟩
  · cases ha : t.adc
    cases hb : s.adc
    simp_all
  · cases ha : t.cmp
    cases hb : s.cmp
    simp_all

/-- What a raise does (R31, R320). -/
theorem raiseFull_raised (e : Nat) (src : Word) (code : Nat) (acc : Access) (s : State) (h : e < 128) :
    Raised e s (raiseFull e src code acc false false s) := by
  unfold Raised
  split
  · rename_i hf
    exact ⟨raiseFull_pend e src code acc false s hf h, Quiet.of_quiet (raiseFull_quiet e src code acc false false s)⟩
  · rename_i hf
    exact raiseFull_off e src code acc false s (by simpa using hf)

theorem raise_raised (e : Nat) (src : Word) (code : Nat) (s : State) (h : e < 128) :
    Raised e s (raise e src code s) := raiseFull_raised e src code noAccess s h

theorem raiseAccess_raised (e : Nat) (src : Word) (code : Nat) (acc : Access) (s : State) (h : e < 128) :
    Raised e s (raiseAccess e src code acc s) := raiseFull_raised e src code acc s h

/-- What one of R519 does: its window lets it pass or it does nothing. -/
theorem raiseLimited_raised (e cause unit : Nat) (src : Word) (code : Nat) (acc : Access) (s : State)
    (h : e < 128) : RaisedOnce e cause unit s (raiseLimited e cause unit src code acc s) := by
  have hq := raiseLimited_quiet e cause unit src code acc s
  unfold RaisedOnce
  revert hq
  unfold raiseLimited
  split
  · rename_i hw
    intro hq
    have hf : domOn s pdFab = true := by
      unfold windowClosed at hw
      rw [Bool.and_eq_true] at hw
      exact hw.1
    unfold Raised
    rw [if_pos hf]
    exact ⟨raiseFull_pend e src code acc false _ hf h, Quiet.of_quiet hq⟩
  · exact fun _ => rfl

end Sys2Proof.Machine
end

