-- ==== Sys2Proof/Laws/Memory.lean ====
section
/-!
SUPPORT. The byte memory of the NV store: every write keeps its canonical form, a byte written reads
back, and a write leaves every other byte as it was.
-/

namespace Sys2Proof.Machine

/-- Every cell of the memory lies above an address. -/
def Memory.above (a : Nat) : List Host.Cell → Prop
  | [] => True
  | c :: _ => a < c.1

theorem Memory.wf_cons (c : Host.Cell) (cs : List Host.Cell) :
    Memory.wf (c :: cs) = true ↔ c.2 ≠ 0 ∧ Memory.above c.1 cs ∧ Memory.wf cs = true := by
  cases cs with
  | nil => simp [Memory.wf, Memory.above]
  | cons d ds => simp [Memory.wf, Memory.above, and_assoc]

theorem Memory.above_weaken {a b : Nat} {m : List Host.Cell} (h : Memory.above b m) (hab : a ≤ b) :
    Memory.above a m := by
  cases m with
  | nil => trivial
  | cons c cs => exact lt_of_le_of_lt hab h

/-- What lies above an address does so after a write above it. -/
theorem Memory.above_write {a b : Nat} {m : List Host.Cell} (hm : Memory.wf m = true)
    (h : Memory.above a m) (hb : a < b) (x : Byte) : Memory.above a (writeByte m b x) := by
  cases m with
  | nil =>
    unfold writeByte
    split
    · trivial
    · exact hb
  | cons c cs =>
    obtain ⟨-, hc, -⟩ := (Memory.wf_cons c cs).mp hm
    unfold writeByte
    split
    · exact h
    · split
      · split
        · exact Memory.above_weaken hc (le_of_lt h)
        · exact hb
      · split
        · exact h
        · exact hb

/-- A write of a byte keeps the canonical form. -/
theorem writeByte_wf (m : List Host.Cell) (a : Nat) (b : Byte) (h : Memory.wf m = true) :
    Memory.wf (writeByte m a b) = true := by
  induction m with
  | nil =>
    unfold writeByte
    split
    · rfl
    · simpa [Memory.wf] using ‹_›
  | cons c cs ih =>
    obtain ⟨h0, hc, hs⟩ := (Memory.wf_cons c cs).mp h
    unfold writeByte
    split
    · rename_i hlt
      exact (Memory.wf_cons _ _).mpr ⟨h0, Memory.above_write hs hc hlt b, ih hs⟩
    · split
      · rename_i he
        split
        · exact hs
        · exact (Memory.wf_cons _ _).mpr ⟨‹_›, he ▸ hc, hs⟩
      · split
        · exact h
        · exact (Memory.wf_cons _ _).mpr ⟨‹_›, by simp only [Memory.above]; omega, h⟩

/-- A write of bytes in order keeps the canonical form. -/
theorem writeBytes_wf (bs : List Byte) (m : List Host.Cell) (a : Nat) (h : Memory.wf m = true) :
    Memory.wf (writeBytes m a bs) = true := by
  induction bs generalizing m a with
  | nil => exact h
  | cons b bs ih => exact ih _ _ (writeByte_wf m a b h)

/-- So does a list of writes. -/
theorem writeRuns_wf (ws : List (Nat × List Byte)) (m : List Host.Cell) (h : Memory.wf m = true) :
    Memory.wf (ws.foldl (fun m e => writeBytes m e.1 e.2) m) = true := by
  induction ws generalizing m with
  | nil => exact h
  | cons w ws ih => exact ih _ (writeBytes_wf w.2 m w.1 h)

/-- Below what is listed every byte reads 0. -/
theorem readByte_above {m : List Host.Cell} {a : Nat} (h : Memory.wf m = true) (ha : Memory.above a m) :
    readByte m a = 0 := by
  induction m with
  | nil => rfl
  | cons c cs ih =>
    obtain ⟨-, hc, hs⟩ := (Memory.wf_cons c cs).mp h
    have ha : a < c.1 := ha
    unfold readByte
    rw [if_neg (by omega)]
    exact ih hs (Memory.above_weaken hc (by omega))

/-- A byte written reads back. -/
theorem readByte_write_same (m : List Host.Cell) (a : Nat) (b : Byte) (h : Memory.wf m = true) :
    readByte (writeByte m a b) a = b := by
  induction m with
  | nil =>
    unfold writeByte
    split
    · simp_all [readByte]
    · simp [readByte]
  | cons c cs ih =>
    obtain ⟨-, hc, hs⟩ := (Memory.wf_cons c cs).mp h
    unfold writeByte
    split
    · rename_i hlt
      simp [readByte, show ¬ c.1 = a by omega, ih hs]
    · split
      · rename_i he
        split
        · rename_i hb
          rw [readByte_above hs (he ▸ hc), hb]
        · simp [readByte]
      · split
        · rename_i hb
          rw [hb]
          exact readByte_above h (by simp only [Memory.above]; omega)
        · simp [readByte]

/-- A write leaves every other byte as it was. -/
theorem readByte_write_other (m : List Host.Cell) {a k : Nat} (b : Byte) (hk : k ≠ a) :
    readByte (writeByte m a b) k = readByte m k := by
  induction m with
  | nil =>
    unfold writeByte
    split
    · rfl
    · simp [readByte, Ne.symm hk]
  | cons c cs ih =>
    unfold writeByte
    split
    · simp [readByte, ih]
    · split
      · rename_i he
        split
        · simp [readByte, he, Ne.symm hk]
        · simp [readByte, he, Ne.symm hk]
      · split
        · rfl
        · simp [readByte, Ne.symm hk]

/-- Bytes written from an address leave the bytes outside as they were. -/
theorem readByte_writeBytes_other (bs : List Byte) (m : List Host.Cell) (a k : Nat)
    (h : k < a ∨ a + bs.length ≤ k) : readByte (writeBytes m a bs) k = readByte m k := by
  induction bs generalizing m a with
  | nil => rfl
  | cons b bs ih =>
    simp only [List.length_cons] at h
    rw [writeBytes, ih _ _ (by omega), readByte_write_other m b (by omega)]

/-- Bytes written from an address read back in order. -/
theorem readByte_writeBytes_at (bs : List Byte) (m : List Host.Cell) (a : Nat) (h : Memory.wf m = true)
    (i : Nat) (hi : i < bs.length) : readByte (writeBytes m a bs) (a + i) = bs[i] := by
  induction bs generalizing m a i with
  | nil => simp at hi
  | cons b bs ih =>
    cases i with
    | zero =>
      have h1 := readByte_writeBytes_other bs (writeByte m a b) (a + 1) a (by omega)
      exact h1.trans (readByte_write_same m a b h)
    | succ i =>
      simp only [List.length_cons] at hi
      rw [writeBytes, show a + (i + 1) = a + 1 + i by omega,
        ih _ _ (writeByte_wf m a b h) i (by omega)]
      rfl

end Sys2Proof.Machine
end

