-- ==== Sys2Proof/Laws/Holds.lean ====
section
/-!
SUPPORT. What every command keeps: the queue, the canonical form of the NV array, and step 1 of the start
where the part stands there. The operations of Laws/Kept.lean have it at once; here are the ones that
write the NV array, switch a domain, or start, reset or put to sleep the part.
-/

namespace Sys2Proof.Machine

/-- The part stands at step 1 with only PD_AO on. -/
def Still (s : State) : Prop := s.pwr.phase = .por ∧ s.pwr.on = 1

/-- t has the queue, the test access port and TMODE of s, the array in canonical form if s has, and has
left step 1 if s has. -/
structure Part (s t : State) : Prop where
  pending : t.pending = s.pending
  tap : t.tap = s.tap
  tmode : t.pwr.tmode = s.pwr.tmode
  mem : Memory.wf s.nvm.mem = true → Memory.wf t.nvm.mem = true
  left : s.pwr.phase ≠ .por → t.pwr.phase ≠ .por

/-- Beside it, t stands at step 1 if s does. -/
structure Holds (s t : State) : Prop extends Part s t where
  still : Still s → Still t
  one : stepOneOk s = true → stepOneOk t = true

theorem Part.refl (s : State) : Part s s := ⟨rfl, rfl, rfl, id, id⟩

theorem Part.trans {s t u : State} (h : Part s t) (k : Part t u) : Part s u :=
  ⟨k.pending.trans h.pending, k.tap.trans h.tap, k.tmode.trans h.tmode, k.mem ∘ h.mem, k.left ∘ h.left⟩

theorem Holds.refl (s : State) : Holds s s := ⟨Part.refl s, id, id⟩

theorem Holds.trans {s t u : State} (h : Holds s t) (k : Holds t u) : Holds s u :=
  ⟨h.toPart.trans k.toPart, k.still ∘ h.still, k.one ∘ h.one⟩

/-- What keeps `kept` holds all of it. -/
theorem Holds.of_kept {s t : State} (h : kept t = kept s) : Holds s t := by
  simp only [kept, Prod.mk.injEq] at h
  obtain ⟨h1, h2, h3, h4, h5, h6⟩ := h
  have hp : t.pwr.phase = .por ↔ s.pwr.phase = .por := by
    rw [← beq_iff_eq, h4, beq_iff_eq]
  refine ⟨⟨h1, h2, h3, fun w => by rw [h6]; exact w, fun w => w ∘ hp.mp⟩,
    fun w => ⟨hp.mpr w.1, h5 ▸ w.2⟩, fun w => ?_⟩
  simp only [stepOneOk, bne, h4, h5] at w ⊢
  exact w

/-- An update of the NV array alone. -/
theorem Holds.of_mem {s : State} (f : Nvm → Nvm)
    (h : Memory.wf s.nvm.mem = true → Memory.wf (f s.nvm).mem = true) : Holds s (s.upNvm f) :=
  ⟨⟨rfl, rfl, rfl, h, id⟩, id, id⟩

/-- A part that has left step 1. -/
theorem Part.holds {s t : State} (h : Part s t) (hs : s.pwr.phase ≠ .por) : Holds s t :=
  ⟨h, fun w => absurd w.1 hs, fun _ => by simp [stepOneOk, h.left hs]⟩

theorem Holds.then {s t u : State} (h : Holds s t) (k : kept u = kept t) : Holds s u :=
  h.trans (.of_kept k)

theorem Holds.upNvm {s t : State} (h : Holds s t) (f : Nvm → Nvm) (k : ∀ n, (f n).mem = n.mem) :
    Holds s (t.upNvm f) := h.then (State.upNvm_kept f t k)

theorem Holds.ite {c : Prop} [Decidable c] {s a b : State} (ha : Holds s a) (hb : Holds s b) :
    Holds s (if c then a else b) := by split <;> assumption

/-- Where PD_FAB is on, the part does not stand at step 1. -/
theorem not_still_of_fab {s : State} (h : domOn s pdFab = true) : ¬ Still s := by
  intro w
  rw [domOn, w.2] at h
  revert h
  simp [hasBit, pdFab]

/-! ## The fault log -/

theorem writeEntry_holds (s : State) : Holds s (writeEntry s) := by
  unfold writeEntry
  split
  · exact .refl s
  · dsimp only
    split
    · exact .of_kept (by rw [countDrop_kept, State.upFlt_kept])
    · refine Holds.then ?_ (State.upFlt_kept _ _)
      refine Holds.trans (Holds.of_kept (State.upFlt_kept _ s)) (Holds.of_mem _ ?_)
      intro w
      generalize entryBytes _ _ = bs
      exact writeBytes_wf bs _ _ w

theorem flushLog_holds (s : State) : Holds s (flushLog s) := by
  have h : ∀ (ks : List Nat) (s : State), Holds s (ks.foldl (fun s _ => writeEntry s) s) := by
    intro ks
    induction ks with
    | nil => exact .refl
    | cons k ks ih => exact fun s => (writeEntry_holds s).trans (ih _)
  unfold flushLog
  generalize List.range 32 = ks
  split
  · exact h ks s
  · exact .refl s

/-! ## Page operations -/

/-- A list of writes to the array keeps its form. -/
theorem puts_wf (ws : List (Nat × List Byte)) (n : Nvm) (h : Memory.wf n.mem = true) :
    Memory.wf (ws.foldl (fun (m : Nvm) e => m.put e.1 e.2) n).mem = true := by
  induction ws generalizing n with
  | nil => exact h
  | cons w ws ih => exact ih _ (writeBytes_wf w.2 n.mem w.1 h)

theorem writePage_holds (r : NvReq) (s : State) : Holds s (writePage r s).1 := by
  unfold writePage
  split
  · exact .refl s
  · dsimp only
    split
    · refine Holds.then (Holds.of_mem _ ?_) (act__kept _ _)
      exact fun w => puts_wf _ _ w
    · refine Holds.of_mem _ ?_
      exact fun w => puts_wf _ _ w

theorem stepCommit_holds (id : Fin 64) (p : List Byte) (stage : Fin 3) (slot : Fin 2) (seq : Nat)
    (ecc : EccReport) (r : NvReq) (s : State) : Holds s (stepCommit id p stage slot seq ecc r s) := by
  have looked : kept (if stage = 0 then (recLook (s.nvm.report []) id s).s else s) = kept s := by
    simp only [kept_ite, recLook_kept, ite_self]
  unfold stepCommit
  dsimp only
  revert looked
  generalize (if stage = 0 then (recLook (s.nvm.report []) id s).s else s) = u
  intro looked
  refine (Holds.of_kept looked).trans ?_
  refine Holds.ite ?_ ?_
  · refine Holds.ite (Holds.then ?_ (requeue_kept _ _)) (Holds.then ?_ (requeue_kept _ _))
    · exact writePage_holds _ u
    · exact (writePage_holds _ u).then (State.upNvm_kept _ _ fun _ => rfl)
  · refine Holds.ite ?_ ?_
    · exact .of_kept (by rw [requeue_kept, readPage_kept])
    · split
      · exact .of_kept (by rw [commitEnds_kept, readPage_kept])
      · refine .of_kept ?_
        rw [commitEnds_kept, raise_kept]
        exact (State.upNvm_kept _ _ fun _ => rfl).trans ((noteCopy_kept _ _ _ _).trans (readPage_kept _ _ _))

theorem wf_ite {c : Prop} [Decidable c] {a b : Nvm} (ha : Memory.wf a.mem = true)
    (hb : Memory.wf b.mem = true) : Memory.wf (if c then a else b).mem = true := by split <;> assumption

theorem stepCounter_holds (n : Fin 64) (ecc : EccReport) (r : NvReq) (s : State) :
    Holds s (stepCounter n ecc r s) := by
  have answer : ∀ (c v : Nat) (s : State), kept (match r.ring with
      | some q => complete q c v s
      | none => s) = kept s := by
    intro c v s
    split
    · exact complete_kept _ _ _ _
    · rfl
  unfold stepCounter
  dsimp only
  refine Holds.ite ?_ ?_
  · exact .of_kept ((answer _ _ _).trans (seeWords_kept _ _ _ _ _))
  · split
    · exact .of_kept ((refuseProtected_kept _ _ _).trans (seeWords_kept _ _ _ _ _))
    refine Holds.then ?_ (answer _ _ _)
    refine Holds.trans (t := seeWords _ ecc _ 8 s) (.of_kept (seeWords_kept _ _ _ _ _)) (Holds.of_mem _ ?_)
    exact fun w => writeBytes_wf _ _ _ (wf_ite (writeBytes_wf _ _ _ w) w)

theorem stepImage_holds (q : Ring) (slot : Fin 2) (bytes : List Byte) (back : Bool) (ecc : EccReport)
    (r : NvReq) (s : State) : Holds s (stepImage q slot bytes back ecc r s) := by
  unfold stepImage
  dsimp only
  split
  · split
    · exact Holds.then (writePage_holds _ s) (requeue_kept _ _)
    · exact Holds.then (writePage_holds _ s) (requeue_kept _ _)
  · refine .of_kept ?_
    simp only [kept_ite, requeue_kept, complete_kept, countUp_kept, readPage_kept, ite_self]

theorem pageOperation_holds (ecc : EccReport) (r : NvReq) (s : State) :
    Holds s (pageOperation ecc r s) := by
  unfold pageOperation
  split
  · exact .of_kept (stepRead_kept _ _ _ _ _ _)
  · dsimp only
    split
    · exact Holds.then (writePage_holds _ s) (complete_kept _ _ _ _)
    · exact Holds.then (writePage_holds _ s) (requeue_kept _ _)
  · exact .of_kept (readCounter_kept _ _ _ _)
  · exact .of_kept (stepRecRead_kept _ _ _ _ _ _)
  · exact stepCommit_holds _ _ _ _ _ _ _ _
  · exact stepCounter_holds _ _ _ _
  · exact stepImage_holds _ _ _ _ _ _ _
  · exact .of_kept (stepScrub_kept _ _ _ _)

theorem runCommits_holds (n : Nat) (s : State) : Holds s (runCommits n s) := by
  induction n generalizing s with
  | zero => exact .refl s
  | succ n ih =>
    unfold runCommits
    split
    · exact .refl s
    · rename_i x _
      have h0 : Holds s (s.upNvm fun m => { m with queue := x.2 }) :=
        .of_kept (State.upNvm_kept _ _ fun _ => rfl)
      exact (h0.trans (pageOperation_holds (s.nvm.report []) x.1 _)).trans (ih _)

/-! ## Domains and register writes -/

theorem raiseDomain_part (d : Nat) (s : State) : Part s (raiseDomain d s) := by
  unfold raiseDomain
  refine Part.trans (t := s.upPwr fun p => { p with on := putBit p.on d true }) ⟨rfl, rfl, rfl, id, id⟩ ?_
  dsimp only
  split
  · exact (Holds.of_kept (followPorts_kept _)).toPart
  · split
    · exact (Holds.of_kept (followTwAll_kept _)).toPart
    · split
      · exact (Holds.of_kept (gaugeBoot_kept _ _)).toPart
      · exact .refl _

theorem dropDomain_part (d : Nat) (s : State) : Part s (dropDomain d s) := by
  unfold dropDomain
  exact Part.trans (Holds.of_kept (loseDomain_kept d s)).toPart ⟨rfl, rfl, rfl, id, id⟩

theorem switchDomain_part (d : Nat) (on : Bool) (s : State) : Part s (switchDomain d on s) := by
  unfold switchDomain
  split
  · exact .refl s
  · split
    · exact raiseDomain_part d s
    · exact dropDomain_part d s

/-- A register write acts only where PD_FAB is on and the part has left step 1. -/
theorem regWrite_holds (m : Master) (off : Nat) (frozen : Bool) (v reserved : Word) (f : State → State)
    (s : State) (h : s.pwr.phase ≠ .por → Holds s (f s)) :
    Holds s (regWrite m off frozen v reserved f s) := by
  unfold regWrite
  split
  · exact .refl s
  · split
    · exact .of_kept (rejectWrite_kept _ _ _ _)
    · split
      · exact .of_kept (rejectWrite_kept _ _ _ _)
      · rename_i hp
        split
        · exact .of_kept (rejectWrite_kept _ _ _ _)
        · split
          · exact .of_kept (rejectWrite_kept _ _ _ _)
          · exact h fun e => hp (Or.inl e)

theorem writeDcmd_holds (m : Master) (v : Word) (s : State) : Holds s (writeDcmd m v s) := by
  unfold writeDcmd
  refine regWrite_holds _ _ _ _ _ _ _ fun h => ?_
  dsimp only
  split
  · exact .of_kept (rejectWrite_kept _ _ _ _)
  · exact (switchDomain_part _ _ s).holds h

theorem writeReg_holds (m : Master) (off : Nat) (v : Word) (s : State) : Holds s (writeReg m off v s) := by
  have rej : ∀ (off code : Nat), Holds s (regWrite m off true v 0 (rejectWrite m off code) s) :=
    fun off code => .of_kept (regWrite_kept _ _ _ _ _ _ _ fun _ => rejectWrite_kept _ _ _ _)
  unfold writeReg
  split
  · exact rej _ _
  · split
    · exact .of_kept (by rw [enterRings_kept, writeRing_kept])
    · split
      · exact .of_kept (writeCommit_kept _ _ _ _)
      · split
        · exact .of_kept (writeShadowed_kept _ _ _ _ _)
        · split
          · exact .of_kept (writeLock_kept _ _ _)
          · exact writeDcmd_holds _ _ _
          · exact .of_kept (writeRdsel_kept _ _ _)
          · exact .of_kept (writeSwap_kept _ _ _)
          · exact .of_kept (writeWsel_kept _ _ _)
          · exact .of_kept (writeLatch_kept _ _ _ _)
          · exact .of_kept (writeLatch_kept _ _ _ _)
          · exact .of_kept (writeLatch_kept _ _ _ _)
          · exact .of_kept (writeSeqStatus_kept _ _ _)
          · exact .of_kept (writeGcmd_kept _ _ _)
          · exact .of_kept (writeMcmd_kept _ _ _)
          · exact .of_kept (writeFclr_kept _ _ _)
          · exact .of_kept (writePend_kept _ _ _ _)
          · exact .of_kept (writePend_kept _ _ _ _)
          · exact .of_kept (writePend_kept _ _ _ _)
          · exact .of_kept (writePend_kept _ _ _ _)
          · exact .of_kept (writeTimeLow_kept _ _ _)
          · exact .of_kept (writeTimeHigh_kept _ _ _)
          · split
            · exact .of_kept (writeBankWord_kept _ _ _ _)
            · split
              · exact .of_kept (writeLtld_kept _ _ _ _)
              · split
                · exact .of_kept (regWrite_kept _ _ _ _ _ _ _ fun _ => rfl)
                · exact rej _ _

/-! ## Two-wire targets -/

theorem gatherByte_holds (m : Master) (g : TwGather) (b : Byte) : Holds g.s (gatherByte m g b).s := by
  unfold gatherByte
  dsimp only
  split
  · dsimp only
    split
    · exact writeReg_holds _ _ _ _
    · exact .of_kept (brokenWord_kept _ _ _)
  · exact .refl _

theorem writeThrough_holds (p : Port) (m : Master) (bytes : List Byte) (s : State) :
    Holds s (writeThrough p m bytes s) := by
  have h : ∀ (bytes : List Byte) (g : TwGather), Holds g.s (bytes.foldl (gatherByte m) g).s := by
    intro bytes
    induction bytes with
    | nil => exact fun g => .refl g.s
    | cons b bs ih => exact fun g => (gatherByte_holds m g b).trans (ih _)
  unfold writeThrough
  dsimp only
  refine Holds.trans ?_ (.of_kept (State.upTwPort_kept _ _ _))
  have hs : ∀ g : TwGather, g.s = s → Holds s (bytes.foldl (gatherByte m) g).s :=
    fun g e => e ▸ h bytes g
  exact Holds.ite (Holds.then (hs _ rfl) (brokenWord_kept _ _ _)) (hs _ rfl)

theorem targetWrite_holds (p : Port) (m : Master) (bytes : List Byte) (s : State) :
    Holds s (targetWrite p m bytes s) := by
  unfold targetWrite
  split
  · exact Holds.trans (.of_kept (State.upTwPort_kept _ _ _)) (writeThrough_holds _ _ _ _)
  · exact .refl s

theorem targetBytes_holds (p : Port) (m : Master) (read : Bool) (bytes : List Byte) (s : State) :
    Holds s (targetBytes p m read bytes s) := by
  unfold targetBytes
  split
  · exact .of_kept (targetRead_kept _ _ _ _)
  · exact targetWrite_holds _ _ _ _

theorem asTarget_holds (p : Port) (f : State → State) (s : State) (h : ∀ s, Holds s (f s)) :
    Holds s (asTarget p f s) := by
  unfold asTarget
  dsimp only
  refine Holds.trans ?_ (.of_kept (followTw_kept _ _))
  refine Holds.trans ?_ (.of_kept (State.upTwPort_kept _ _ _))
  exact Holds.trans (.of_kept (State.upTwPort_kept _ _ _)) (h _)

/-! ## Resets, start and sleep -/

theorem offState_part (phase : PwrPhase) (s : State) (h : phase ≠ .por) : Part s (offState phase s) :=
  ⟨rfl, rfl, rfl, id, fun _ => h⟩

theorem examineJournal_holds (ecc : EccReport) (s : State) : Holds s (examineJournal ecc s) := by
  unfold examineJournal
  dsimp only
  split
  · exact .of_kept (seeWords_kept _ _ _ _ _)
  · refine Holds.trans ?_ (.of_kept (raiseAccess_kept _ _ _ _ _))
    refine Holds.trans (.of_kept (seeWords_kept _ _ _ _ _)) (.of_mem _ fun w => ?_)
    exact writeBytes_wf _ _ _ w

theorem loadRecords_holds (ecc : EccReport) (count : Option (Fin 64)) (s : State) :
    Holds s (loadRecords ecc count s) := by
  unfold loadRecords
  dsimp only
  have h0 := (examineJournal_holds ecc s).then (scanRecords_kept ecc _)
  refine h0.then ?_
  have scr : ∀ (c : Prop) [Decidable c] (f : Nvm → Nvm) (s u : State), (∀ n, (f n).mem = n.mem) →
      kept s = kept u → kept (if c then s else s.upNvm f) = kept u := by
    intro c _ f s u h k
    split
    · exact k
    · exact (State.upNvm_kept f s h).trans k
  split
  · refine (countUp_kept _ _).trans (scr _ _ _ _ (fun _ => rfl) ?_)
    simp only [State.upAdc_kept, State.upFlt_kept, seeRegion_kept]
  · refine scr _ _ _ _ (fun _ => rfl) ?_
    simp only [State.upAdc_kept, State.upFlt_kept, seeRegion_kept]

theorem loadSlots_holds (ecc : EccReport) (s : State) : Holds s (loadSlots ecc s) := by
  refine .of_kept ?_
  unfold loadSlots
  repeat' (first
    | with_reducible rfl
    | simp only [kept_ite, loadImage_kept, raiseImage_kept, noteSlot_kept, seeWords_kept, ite_self]
    | (with_reducible refine Eq.trans (State.upNvm_kept _ _ ?_) ?_; exact fun _ => rfl)
    | split)

theorem Part.upPwr {s : State} (f : Pwr → Pwr) (h : ∀ p, (f p).tmode = p.tmode)
    (k : ∀ p, p.phase ≠ .por → (f p).phase ≠ .por) : Part s (s.upPwr f) :=
  ⟨rfl, rfl, h s.pwr, id, k s.pwr⟩

theorem enterSetup_part (ecc : EccReport) (s : State) : Part s (enterSetup ecc s) := by
  unfold enterSetup
  dsimp only
  refine Part.trans (Holds.of_kept (State.upHif_kept (fun _ => Hif.reset) s)).toPart ?_
  generalize s.upHif (fun _ => Hif.reset) = s
  refine Part.trans (Part.upPwr (fun p => { p with on := startDomains s.cfg ||| s.pwr.on }) (fun _ => rfl)
    fun _ h => h) ?_
  refine (Holds.of_kept ?_).toPart
  simp only [kept_ite, gaugeBoot_kept, ite_self, refreshAll_kept, followTwAll_kept, followPorts_kept,
    replan_kept, kept_each _ _ _ fun _ _ => State.upPhase_kept _ _ _]

/-- Steps 3 to 7, with the time running or not, and the quarantines that the reset ended. -/
theorem stepsThreeToSeven_part (running xref : Bool) (ended : BitVec 4) (ecc : EccReport)
    (count : Option (Fin 64)) (s : State) :
    Part s (enterSetup ecc (loadSlots ecc (loadRecords ecc count (loadFactory ecc (lockPll xref
      (State.each ((fins 4).filter fun n => hasBit ended n.val) (fun n => raiseTw n 5 5 0 0)
        (if running then s else resumeTime s))))))) := by
  refine Part.trans ?_ (enterSetup_part ecc _)
  refine Part.trans ?_ (loadSlots_holds ecc _).toPart
  refine Part.trans ?_ (loadRecords_holds ecc count _).toPart
  refine Part.trans ?_ (Holds.of_kept (loadFactory_kept ecc _)).toPart
  refine Part.trans ?_ (Holds.of_kept (lockPll_kept xref _)).toPart
  refine Part.trans ?_ (Holds.of_kept (kept_each _ _ _ fun _ _ => raiseTw_kept _ _ _ _ _ _)).toPart
  split
  · exact .refl s
  · exact (Holds.of_kept (resumeTime_kept _)).toPart

/-- What runs without the array, which it then has again (R426). -/
theorem Part.keepArray {s t : State} (h : Part (s.upNvm fun n => { n with mem := [], dead := [] }) t) :
    Part s (t.upNvm fun n => { n with mem := s.nvm.mem, dead := s.nvm.dead }) :=
  ⟨h.pending, h.tap, h.tmode, id, h.left⟩

/-- A start leaves step 1 and keeps the rest. -/
theorem startUp_part (xref : Bool) (ecc : EccReport) (count : Option (Fin 64)) (s : State) :
    Part s (startUp xref ecc count s) ∧ (startUp xref ecc count s).pwr.phase ≠ .por := by
  have run : ∀ (g : EccReport) (f : Pwr → Pwr) (k : Tw → Tw) (s : State), (∀ p, (f p).tmode = p.tmode) →
      (∀ p, (f p).phase ≠ .por) →
      let t := enterSetup g (loadSlots g (loadRecords g count (loadFactory g (lockPll xref
        (State.each ((fins 4).filter fun n => hasBit s.tw.quarWas n.val) (fun n => raiseTw n 5 5 0 0)
          (if s.pwr.phase == .waking then (s.upPwr f).upTw k else resumeTime ((s.upPwr f).upTw k)))))))
      Part s t ∧ t.pwr.phase ≠ .por := by
    intro g f k s h hf
    have hp := stepsThreeToSeven_part (s.pwr.phase == .waking) xref s.tw.quarWas g count
      ((s.upPwr f).upTw k)
    have h0 : Part s ((s.upPwr f).upTw k) :=
      (Part.upPwr f h fun p _ => hf p).trans (Holds.of_kept (State.upTw_kept _ _)).toPart
    exact ⟨h0.trans hp, hp.left (hf s.pwr)⟩
  unfold startUp
  cases hr : s.nvm.refuse
  · simp only [Bool.false_eq_true, if_false]
    exact run _ _ _ s (fun _ => rfl) fun _ => PwrPhase.noConfusion
  · simp only [if_true]
    have h := run [] (fun p =>
      { p with on := putBit (putBit p.on pdFab true) pdNvm true, phase := .selfTest, wake := 0, alarm := 0
               wakeDue := false }) (fun t => { t with quarWas := 0 })
      (s.upNvm fun n => { n with mem := [], dead := [] }) (fun _ => rfl) fun _ => PwrPhase.noConfusion
    exact ⟨h.1.keepArray, h.2⟩

theorem leaveStepOne_part (xref : Bool) (ecc : EccReport) (s : State) :
    Part s (leaveStepOne xref ecc s) ∧ (leaveStepOne xref ecc s).pwr.phase ≠ .por := by
  unfold leaveStepOne
  have h := startUp_part xref ecc (some 6) (s.upPwr fun p => { p with uvloGood := true, porWaits := false })
  have h0 : Part s (s.upPwr fun p => { p with uvloGood := true, porWaits := false }) :=
    Part.upPwr _ (fun _ => rfl) fun _ h => h
  exact ⟨h0.trans h.1, h.2⟩

theorem sleepRecords_holds (s : State) : Holds s (sleepRecords s) := by
  have h0 : kept (if domOn s pdGau then commitGauge s else s) = kept s := by
    simp only [kept_ite, commitGauge_kept, ite_self]
  unfold sleepRecords
  dsimp only
  have h1 := ((Holds.of_kept h0).then (recordCommit_kept 13 (scrubRecord
    (if domOn s pdGau then commitGauge s else s).nvm) _)).trans (flushLog_holds _)
  exact Holds.ite h1 ((h1.upNvm (fun n => { n with queue := n.queue.filter isCommit })
    fun _ => rfl).trans (runCommits_holds 256 _))

theorem goToSleep_part (j : SleepJob) (s : State) : Part s (goToSleep j s) := by
  unfold goToSleep
  dsimp only
  refine Part.trans ?_ (Part.upPwr _ (fun _ => rfl) fun _ h => h)
  refine Part.trans ?_ (offState_part .asleep _ PwrPhase.noConfusion)
  refine (Holds.then ?_ (kept_each _ _ _ postHeld_kept)).toPart
  refine Holds.then ?_ (complete_kept _ _ _ _)
  refine Holds.then ?_ (waitEdge_kept _)
  exact (Holds.of_kept (kept_each _ _ s flushFetched_kept)).trans (sleepRecords_holds _)

/-! ## The commands that `kept` does not cover -/

theorem execLogEntryWrite_holds (s : State) : ∃ t, execLogEntryWrite s = .next t ∧ Holds s t := by
  refine ⟨_, rfl, Holds.ite (writeEntry_holds s) (.refl s)⟩

theorem execNvPageOperation_holds (ecc : EccReport) (s : State) :
    ∃ t, execNvPageOperation ecc s = .next t ∧ Holds s t := by
  refine ⟨_, rfl, Holds.ite (.refl s) ?_⟩
  split
  · exact .refl s
  · rename_i x _
    have h0 : Holds s (s.upNvm fun n => { n with queue := x.2 }) :=
      .of_kept (State.upNvm_kept _ _ fun _ => rfl)
    exact h0.trans (pageOperation_holds (s.nvm.report ecc) x.1 _)

theorem execVcc33Uvlo_holds (s : State) : ∃ t, execVcc33Uvlo s = .next t ∧ Holds s t := by
  have h0 : Holds s (s.upPwr fun p => { p with uvloGood := false }) :=
    .of_kept (State.upPwr_kept _ _ fun _ => rfl)
  unfold execVcc33Uvlo
  dsimp only
  revert h0
  generalize (s.upPwr fun p => { p with uvloGood := false }) = u
  intro h0
  refine ⟨_, rfl, h0.trans (Holds.ite (.refl u) ?_)⟩
  refine Holds.then ?_ (killCommits_kept _ _)
  refine Holds.then ?_ (State.upNvm_kept (fun n => { n with refuse := true }) _ fun _ => rfl)
  split
  · exact .of_mem (fun n => n.put _ _) fun w => writeBytes_wf _ _ _ w
  · exact .refl u

theorem execDomain_holds (q : Ring) (s : State) : ∃ t, execDomain q s = .next t ∧ Holds s t := by
  refine ⟨_, rfl, ?_⟩
  split
  · exact .refl s
  · rename_i d hd
    have hf : domOn s pdFab = true := by
      unfold ready at hd
      split at hd
      · split at hd
        · rename_i h; exact h.1
        · cases hd
      · cases hd
    dsimp only
    split
    · exact .of_kept (complete_kept _ _ _ _)
    · have hp := switchDomain_part (d.pf 0 4) (decide (d.pf 8 1 = 1)) s
      refine Holds.then ⟨hp, fun w => absurd w (not_still_of_fab hf), fun w => ?_⟩
        (complete_kept _ _ _ _)
      by_cases h : s.pwr.phase = .por
      · refine absurd ⟨h, ?_⟩ (not_still_of_fab hf)
        simpa [stepOneOk, h] using w
      · simp [stepOneOk, hp.left h]

theorem execPwrDcmd_holds (m : Master) (v : Word) (s : State) :
    ∃ t, execPwrDcmd m v s = .next t ∧ Holds s t := ⟨_, rfl, writeDcmd_holds m v s⟩

theorem execRegisterWrite_holds (m : Master) (off : Nat) (v : Word) (width : Width) (s : State) :
    ∃ t, execRegisterWrite m off v width s = .next t ∧ Holds s t := by
  refine ⟨_, rfl, Holds.ite (.refl s) (Holds.ite (writeReg_holds _ _ _ _) ?_)⟩
  exact .of_kept (regWrite_kept _ _ _ _ _ _ _ fun _ => rejectWrite_kept _ _ _ _)

theorem execTwTargetWrite_holds (p : Port) (seen : TwSeen) (s : State) :
    ∃ t, execTwTargetWrite p seen s = .next t ∧ Holds s t := by
  refine ⟨_, rfl, ?_⟩
  split
  · exact Holds.ite (.of_kept (State.upTwPort_kept _ _ _)) (.refl s)
  · split
    · exact .refl s
    · exact Holds.ite (.refl s) (asTarget_holds _ _ _ fun _ => targetWrite_holds _ _ _ _)

theorem execTwTargetInterrupted_holds (p : Port) (read : Bool) (bytes : List Byte) (s : State) :
    ∃ t, execTwTargetInterrupted p read bytes s = .next t ∧ Holds s t := by
  refine ⟨_, rfl, ?_⟩
  split
  · exact .refl s
  · refine Holds.ite (.refl s) (Holds.then ?_ (raiseTw_kept _ _ _ _ _ _))
    exact asTarget_holds _ _ _ fun _ => targetBytes_holds _ _ _ _ _

theorem execTwClockLowTimeout_holds (p : Port) (seen : LowSeen) (s : State) :
    ∃ t, execTwClockLowTimeout p seen s = .next t ∧ Holds s t := by
  refine ⟨_, rfl, Holds.ite (.refl s) ?_⟩
  split
  · exact Holds.ite (.of_kept (timeoutTw_kept _ _ _ _)) (.refl s)
  · split
    · exact .refl s
    · refine Holds.ite (.refl s) (Holds.then ?_ (raiseTw_kept _ _ _ _ _ _))
      exact (asTarget_holds _ _ _ fun _ => targetBytes_holds _ _ _ _ _).then
        (State.upTwPort_kept _ _ _)

theorem execSupplyResetLevel_holds (s : State) :
    ∃ t, execSupplyResetLevel s = .next t ∧ Holds s t := by
  have h0 : Holds s (s.upPwr fun p => { p with coreGood := false }) :=
    .of_kept (State.upPwr_kept _ _ fun _ => rfl)
  unfold execSupplyResetLevel
  dsimp only
  revert h0
  generalize (s.upPwr fun p => { p with coreGood := false }) = u
  intro h0
  refine ⟨_, rfl, h0.trans ?_⟩
  split
  · exact .refl u
  · rename_i h
    have h1 : Part (offState .supplyReset u)
        ((offState .supplyReset u).upPwr fun p => { p with wakeDue := false }) :=
      Part.upPwr _ (fun _ => rfl) fun _ h => h
    exact Part.holds ((offState_part .supplyReset u PwrPhase.noConfusion).trans h1) h

theorem execSupplyReturn_holds (seen : StartSeen) (ecc : EccReport) (s : State) :
    ∃ t, execSupplyReturn seen ecc s = .next t ∧ Holds s t := by
  have h0 : Holds s (s.upPwr fun p => { p with coreGood := true }) :=
    .of_kept (State.upPwr_kept _ _ fun _ => rfl)
  unfold execSupplyReturn
  dsimp only
  revert h0
  generalize (s.upPwr fun p => { p with coreGood := true }) = u
  intro h0
  refine ⟨_, rfl, h0.trans ?_⟩
  split
  · exact .refl u
  · rename_i h
    have hn : u.pwr.phase ≠ .por := by rw [not_not.mp h]; exact PwrPhase.noConfusion
    split
    · exact (leaveStepOne_part _ _ u).1.holds hn
    · exact (startUp_part _ _ _ u).1.holds hn

theorem execSleepEntry_holds (s : State) : ∃ t, execSleepEntry s = .next t ∧ Holds s t := by
  refine ⟨_, rfl, ?_⟩
  split
  · exact .refl s
  · rename_i j _
    split
    · rename_i h
      have hf : domOn s pdHif = true := by
        rw [Bool.and_eq_true] at h
        exact h.1
      have hs : ¬ Still s := by
        intro w
        rw [domOn, w.2] at hf
        revert hf
        simp [hasBit, pdHif]
      have hp := goToSleep_part j s
      refine ⟨hp, fun w => absurd w hs, fun w => ?_⟩
      by_cases k : s.pwr.phase = .por
      · refine absurd ⟨k, ?_⟩ hs
        simpa [stepOneOk, k] using w
      · simp [stepOneOk, hp.left k]
    · exact .refl s

theorem execWake_holds (src : WakeSource) (seen : StartSeen) (ecc : EccReport) (s : State) :
    ∃ t, execWake src seen ecc s = .next t ∧ Holds s t := by
  refine ⟨_, rfl, ?_⟩
  split
  · rename_i h
    have hn : s.pwr.phase ≠ .por := by rw [h]; exact PwrPhase.noConfusion
    split
    · refine Holds.then ?_ (wakeMissed_kept _)
      refine Part.holds (Part.trans ?_ (startUp_part _ _ _ _).1) hn
      split
      · exact Part.upPwr (fun p => { p with on := putBit p.on pdTw true }) (fun _ => rfl) fun _ h => h
      · exact .refl s
    · exact .refl s
  · split
    · rename_i h
      refine Holds.ite ((startUp_part _ _ _ s).1.holds ?_) (.refl s)
      rw [h]
      exact PwrPhase.noConfusion
    · split
      · exact .of_kept (State.upPwr_kept (fun p => { p with sleep := p.sleep.map (keepWake (wakeBit src)) }) s
          fun _ => rfl)
      · exact .refl s

theorem execChipReset_holds (seen : StartSeen) (ecc : EccReport) (s : State) :
    ∃ t, execChipReset seen ecc s = .next t ∧ Holds s t := by
  refine ⟨_, rfl, ?_⟩
  split
  · exact .refl s
  · rename_i h
    have hf : domOn s pdFab = true := by
      by_contra hn
      exact h (by simp [hn])
    have hs := not_still_of_fab hf
    have hp := ((flushLog_holds s).toPart.trans
      (offState_part .supplyReset _ PwrPhase.noConfusion)).trans (startUp_part seen.xref ecc (some 7) _).1
    refine ⟨hp, fun w => absurd w hs, fun w => ?_⟩
    by_cases k : s.pwr.phase = .por
    · refine absurd ⟨k, ?_⟩ hs
      simpa [stepOneOk, k] using w
    · simp [stepOneOk, hp.left k]

/-- The page under way of an array that loses VCC33 has some of its words (R428). -/
theorem cutPage_holds (s : State) : Holds s (cutPage s) := by
  unfold cutPage
  split
  · exact .refl s
  · dsimp only
    split
    · exact .refl s
    · refine (Holds.of_kept (takeFree_kept s)).trans (.of_mem _ fun w => puts_wf _ _ w)

theorem execTw0WakeMatch_holds (address : BitVec 7) (inTime : Bool) (s : State) :
    ∃ t, execTw0WakeMatch address inTime s = .next t ∧ Holds s t := by
  refine ⟨_, rfl, ?_⟩
  split
  · exact .refl s
  · split
    · rename_i h
      have hn : s.pwr.phase ≠ .por := by rw [h]; exact PwrPhase.noConfusion
      split
      · exact .refl s
      · split
        · refine Part.holds (Part.trans ?_ (Holds.of_kept ((followTw_kept _ _).trans (resumeTime_kept _))).toPart) hn
          exact Part.upPwr _ (fun _ => rfl) fun _ _ => PwrPhase.noConfusion
        · exact .of_kept ((State.upTw_kept _ _).trans (State.upPwr_kept _ _ fun _ => rfl))
    · exact .of_kept (State.upPwr_kept (fun w => { w with sleep := w.sleep.map (keepWake 3) }) s fun _ => rfl)

end Sys2Proof.Machine
end

