-- ==== Sys2Proof/Laws/State.lean ====
section
/-!
SUPPORT. What an update of one block does to each field of the state, one simp lemma for each field and
update; what an update of one entry of a vector does to that entry and to the others.
-/

namespace Sys2Proof.Machine

/-! ## Entries of vectors -/

theorem vmod_same {α : Type} {n : Nat} (v : Vector α n) (i : Fin n) (f : α → α) :
    (vmod v i f)[i] = f v[i] := by simp [vmod]

/-- The same in the form that simp gives an entry. -/
@[simp] theorem vmod_val {α : Type} {n : Nat} (v : Vector α n) (i : Fin n) (f : α → α) :
    (vmod v i f)[i.val] = f v[i.val] := by simp [vmod]

theorem vmod_other {α : Type} {n : Nat} (v : Vector α n) {i j : Fin n} (f : α → α) (h : i ≠ j) :
    (vmod v i f)[j] = v[j] := by
  simp only [vmod, Fin.getElem_fin]
  rw [Vector.getElem_set_ne]
  exact fun e => h (Fin.ext e)

@[simp] theorem vmod_val_other {α : Type} {n : Nat} (v : Vector α n) {i j : Fin n} (f : α → α)
    (h : i ≠ j) : (vmod v i f)[j.val] = v[j.val] := vmod_other v f h

theorem vput_same {α : Type} {n : Nat} (v : Vector α n) (i : Fin n) (x : α) :
    (vput v i x)[i] = x := by simp [vput]

@[simp] theorem vput_val {α : Type} {n : Nat} (v : Vector α n) (i : Fin n) (x : α) :
    (vput v i x)[i.val] = x := by simp [vput]

theorem vput_other {α : Type} {n : Nat} (v : Vector α n) {i j : Fin n} (x : α) (h : i ≠ j) :
    (vput v i x)[j] = v[j] := by
  simp only [vput, Fin.getElem_fin]
  rw [Vector.getElem_set_ne]
  exact fun e => h (Fin.ext e)

/-! ## An update within a block, as an update of the block -/

@[simp] theorem State.upSeqRail_eq (i : SeqIdx) (f : SeqRail → SeqRail) (s : State) :
    s.upSeqRail i f = s.upSeq fun b => { b with rails := vmod b.rails i f } := rfl
@[simp] theorem State.upGroup_eq (i : Group) (f : SeqGroup → SeqGroup) (s : State) :
    s.upGroup i f = s.upSeq fun b => { b with groups := vmod b.groups i f } := rfl
@[simp] theorem State.upPrnRail_eq (i : Rail) (f : PrnRail → PrnRail) (s : State) :
    s.upPrnRail i f = s.upPrn fun b => { b with rails := vmod b.rails i f } := rfl
@[simp] theorem State.upPort_eq (i : Port) (f : PrnPort → PrnPort) (s : State) :
    s.upPort i f = s.upPrn fun b => { b with ports := vmod b.ports i f } := rfl
@[simp] theorem State.upEngRail_eq (i : Rail) (f : EngRail → EngRail) (s : State) :
    s.upEngRail i f = s.upEng fun b => { b with rails := vmod b.rails i f } := rfl
@[simp] theorem State.upPair_eq (i : PairNo) (f : Pair → Pair) (s : State) :
    s.upPair i f = s.upEng fun b => { b with pairs := vmod b.pairs i f } := rfl
@[simp] theorem State.upPhase_eq (i : Phase) (f : Phasor → Phasor) (s : State) :
    s.upPhase i f = s.upPwm fun b => { b with phases := vmod b.phases i f } := rfl
@[simp] theorem State.upPwmRail_eq (i : Rail) (f : PwmRail → PwmRail) (s : State) :
    s.upPwmRail i f = s.upPwm fun b => { b with rails := vmod b.rails i f } := rfl
@[simp] theorem State.upWin_eq (i : Window) (f : Win → Win) (s : State) :
    s.upWin i f = s.upCmp fun b => { b with win := vmod b.win i f } := rfl
@[simp] theorem State.upSlice_eq (i : SliceNo) (f : Slice → Slice) (s : State) :
    s.upSlice i f = s.upAdc fun b => { b with slices := vmod b.slices i f } := rfl
@[simp] theorem State.upTwPort_eq (i : Port) (f : TwPort → TwPort) (s : State) :
    s.upTwPort i f = s.upTw fun b => { b with ports := vmod b.ports i f } := rfl
@[simp] theorem State.upSq_eq (i : Ring) (f : Sq → Sq) (s : State) :
    s.upSq i f = s.upHif fun b => { b with sq := vmod b.sq i f } := rfl
@[simp] theorem State.upCq_eq (i : Ring) (f : Cq → Cq) (s : State) :
    s.upCq i f = s.upHif fun b => { b with cq := vmod b.cq i f } := rfl

/-! ## flt -/

@[simp] theorem State.upFlt_pending (f : Flt → Flt) (s : State) : (s.upFlt f).pending = s.pending := rfl
@[simp] theorem State.upFlt_freeCount (f : Flt → Flt) (s : State) : (s.upFlt f).freeCount = s.freeCount := rfl
@[simp] theorem State.upFlt_out (f : Flt → Flt) (s : State) : (s.upFlt f).out = s.out := rfl
@[simp] theorem State.upFlt_clk (f : Flt → Flt) (s : State) : (s.upFlt f).clk = s.clk := rfl
@[simp] theorem State.upFlt_pwr (f : Flt → Flt) (s : State) : (s.upFlt f).pwr = s.pwr := rfl
@[simp] theorem State.upFlt_tmr (f : Flt → Flt) (s : State) : (s.upFlt f).tmr = s.tmr := rfl
@[simp] theorem State.upFlt_regs (f : Flt → Flt) (s : State) : (s.upFlt f).regs = s.regs := rfl
@[simp] theorem State.upFlt_fab (f : Flt → Flt) (s : State) : (s.upFlt f).fab = s.fab := rfl
@[simp] theorem State.upFlt_adc (f : Flt → Flt) (s : State) : (s.upFlt f).adc = s.adc := rfl
@[simp] theorem State.upFlt_eng (f : Flt → Flt) (s : State) : (s.upFlt f).eng = s.eng := rfl
@[simp] theorem State.upFlt_pwm (f : Flt → Flt) (s : State) : (s.upFlt f).pwm = s.pwm := rfl
@[simp] theorem State.upFlt_fb (f : Flt → Flt) (s : State) : (s.upFlt f).fb = s.fb := rfl
@[simp] theorem State.upFlt_cmp (f : Flt → Flt) (s : State) : (s.upFlt f).cmp = s.cmp := rfl
@[simp] theorem State.upFlt_seq (f : Flt → Flt) (s : State) : (s.upFlt f).seq = s.seq := rfl
@[simp] theorem State.upFlt_prn (f : Flt → Flt) (s : State) : (s.upFlt f).prn = s.prn := rfl
@[simp] theorem State.upFlt_ldg (f : Flt → Flt) (s : State) : (s.upFlt f).ldg = s.ldg := rfl
@[simp] theorem State.upFlt_gau (f : Flt → Flt) (s : State) : (s.upFlt f).gau = s.gau := rfl
@[simp] theorem State.upFlt_flt (f : Flt → Flt) (s : State) : (s.upFlt f).flt = f s.flt := rfl
@[simp] theorem State.upFlt_nvm (f : Flt → Flt) (s : State) : (s.upFlt f).nvm = s.nvm := rfl
@[simp] theorem State.upFlt_tw (f : Flt → Flt) (s : State) : (s.upFlt f).tw = s.tw := rfl
@[simp] theorem State.upFlt_hif (f : Flt → Flt) (s : State) : (s.upFlt f).hif = s.hif := rfl
@[simp] theorem State.upFlt_tap (f : Flt → Flt) (s : State) : (s.upFlt f).tap = s.tap := rfl

/-! ## seq -/

@[simp] theorem State.upSeq_pending (f : Seq → Seq) (s : State) : (s.upSeq f).pending = s.pending := rfl
@[simp] theorem State.upSeq_freeCount (f : Seq → Seq) (s : State) : (s.upSeq f).freeCount = s.freeCount := rfl
@[simp] theorem State.upSeq_out (f : Seq → Seq) (s : State) : (s.upSeq f).out = s.out := rfl
@[simp] theorem State.upSeq_clk (f : Seq → Seq) (s : State) : (s.upSeq f).clk = s.clk := rfl
@[simp] theorem State.upSeq_pwr (f : Seq → Seq) (s : State) : (s.upSeq f).pwr = s.pwr := rfl
@[simp] theorem State.upSeq_tmr (f : Seq → Seq) (s : State) : (s.upSeq f).tmr = s.tmr := rfl
@[simp] theorem State.upSeq_regs (f : Seq → Seq) (s : State) : (s.upSeq f).regs = s.regs := rfl
@[simp] theorem State.upSeq_fab (f : Seq → Seq) (s : State) : (s.upSeq f).fab = s.fab := rfl
@[simp] theorem State.upSeq_adc (f : Seq → Seq) (s : State) : (s.upSeq f).adc = s.adc := rfl
@[simp] theorem State.upSeq_eng (f : Seq → Seq) (s : State) : (s.upSeq f).eng = s.eng := rfl
@[simp] theorem State.upSeq_pwm (f : Seq → Seq) (s : State) : (s.upSeq f).pwm = s.pwm := rfl
@[simp] theorem State.upSeq_fb (f : Seq → Seq) (s : State) : (s.upSeq f).fb = s.fb := rfl
@[simp] theorem State.upSeq_cmp (f : Seq → Seq) (s : State) : (s.upSeq f).cmp = s.cmp := rfl
@[simp] theorem State.upSeq_seq (f : Seq → Seq) (s : State) : (s.upSeq f).seq = f s.seq := rfl
@[simp] theorem State.upSeq_prn (f : Seq → Seq) (s : State) : (s.upSeq f).prn = s.prn := rfl
@[simp] theorem State.upSeq_ldg (f : Seq → Seq) (s : State) : (s.upSeq f).ldg = s.ldg := rfl
@[simp] theorem State.upSeq_gau (f : Seq → Seq) (s : State) : (s.upSeq f).gau = s.gau := rfl
@[simp] theorem State.upSeq_flt (f : Seq → Seq) (s : State) : (s.upSeq f).flt = s.flt := rfl
@[simp] theorem State.upSeq_nvm (f : Seq → Seq) (s : State) : (s.upSeq f).nvm = s.nvm := rfl
@[simp] theorem State.upSeq_tw (f : Seq → Seq) (s : State) : (s.upSeq f).tw = s.tw := rfl
@[simp] theorem State.upSeq_hif (f : Seq → Seq) (s : State) : (s.upSeq f).hif = s.hif := rfl
@[simp] theorem State.upSeq_tap (f : Seq → Seq) (s : State) : (s.upSeq f).tap = s.tap := rfl

/-! ## prn -/

@[simp] theorem State.upPrn_pending (f : Prn → Prn) (s : State) : (s.upPrn f).pending = s.pending := rfl
@[simp] theorem State.upPrn_freeCount (f : Prn → Prn) (s : State) : (s.upPrn f).freeCount = s.freeCount := rfl
@[simp] theorem State.upPrn_out (f : Prn → Prn) (s : State) : (s.upPrn f).out = s.out := rfl
@[simp] theorem State.upPrn_clk (f : Prn → Prn) (s : State) : (s.upPrn f).clk = s.clk := rfl
@[simp] theorem State.upPrn_pwr (f : Prn → Prn) (s : State) : (s.upPrn f).pwr = s.pwr := rfl
@[simp] theorem State.upPrn_tmr (f : Prn → Prn) (s : State) : (s.upPrn f).tmr = s.tmr := rfl
@[simp] theorem State.upPrn_regs (f : Prn → Prn) (s : State) : (s.upPrn f).regs = s.regs := rfl
@[simp] theorem State.upPrn_fab (f : Prn → Prn) (s : State) : (s.upPrn f).fab = s.fab := rfl
@[simp] theorem State.upPrn_adc (f : Prn → Prn) (s : State) : (s.upPrn f).adc = s.adc := rfl
@[simp] theorem State.upPrn_eng (f : Prn → Prn) (s : State) : (s.upPrn f).eng = s.eng := rfl
@[simp] theorem State.upPrn_pwm (f : Prn → Prn) (s : State) : (s.upPrn f).pwm = s.pwm := rfl
@[simp] theorem State.upPrn_fb (f : Prn → Prn) (s : State) : (s.upPrn f).fb = s.fb := rfl
@[simp] theorem State.upPrn_cmp (f : Prn → Prn) (s : State) : (s.upPrn f).cmp = s.cmp := rfl
@[simp] theorem State.upPrn_seq (f : Prn → Prn) (s : State) : (s.upPrn f).seq = s.seq := rfl
@[simp] theorem State.upPrn_prn (f : Prn → Prn) (s : State) : (s.upPrn f).prn = f s.prn := rfl
@[simp] theorem State.upPrn_ldg (f : Prn → Prn) (s : State) : (s.upPrn f).ldg = s.ldg := rfl
@[simp] theorem State.upPrn_gau (f : Prn → Prn) (s : State) : (s.upPrn f).gau = s.gau := rfl
@[simp] theorem State.upPrn_flt (f : Prn → Prn) (s : State) : (s.upPrn f).flt = s.flt := rfl
@[simp] theorem State.upPrn_nvm (f : Prn → Prn) (s : State) : (s.upPrn f).nvm = s.nvm := rfl
@[simp] theorem State.upPrn_tw (f : Prn → Prn) (s : State) : (s.upPrn f).tw = s.tw := rfl
@[simp] theorem State.upPrn_hif (f : Prn → Prn) (s : State) : (s.upPrn f).hif = s.hif := rfl
@[simp] theorem State.upPrn_tap (f : Prn → Prn) (s : State) : (s.upPrn f).tap = s.tap := rfl

/-! ## eng -/

@[simp] theorem State.upEng_pending (f : Eng → Eng) (s : State) : (s.upEng f).pending = s.pending := rfl
@[simp] theorem State.upEng_freeCount (f : Eng → Eng) (s : State) : (s.upEng f).freeCount = s.freeCount := rfl
@[simp] theorem State.upEng_out (f : Eng → Eng) (s : State) : (s.upEng f).out = s.out := rfl
@[simp] theorem State.upEng_clk (f : Eng → Eng) (s : State) : (s.upEng f).clk = s.clk := rfl
@[simp] theorem State.upEng_pwr (f : Eng → Eng) (s : State) : (s.upEng f).pwr = s.pwr := rfl
@[simp] theorem State.upEng_tmr (f : Eng → Eng) (s : State) : (s.upEng f).tmr = s.tmr := rfl
@[simp] theorem State.upEng_regs (f : Eng → Eng) (s : State) : (s.upEng f).regs = s.regs := rfl
@[simp] theorem State.upEng_fab (f : Eng → Eng) (s : State) : (s.upEng f).fab = s.fab := rfl
@[simp] theorem State.upEng_adc (f : Eng → Eng) (s : State) : (s.upEng f).adc = s.adc := rfl
@[simp] theorem State.upEng_eng (f : Eng → Eng) (s : State) : (s.upEng f).eng = f s.eng := rfl
@[simp] theorem State.upEng_pwm (f : Eng → Eng) (s : State) : (s.upEng f).pwm = s.pwm := rfl
@[simp] theorem State.upEng_fb (f : Eng → Eng) (s : State) : (s.upEng f).fb = s.fb := rfl
@[simp] theorem State.upEng_cmp (f : Eng → Eng) (s : State) : (s.upEng f).cmp = s.cmp := rfl
@[simp] theorem State.upEng_seq (f : Eng → Eng) (s : State) : (s.upEng f).seq = s.seq := rfl
@[simp] theorem State.upEng_prn (f : Eng → Eng) (s : State) : (s.upEng f).prn = s.prn := rfl
@[simp] theorem State.upEng_ldg (f : Eng → Eng) (s : State) : (s.upEng f).ldg = s.ldg := rfl
@[simp] theorem State.upEng_gau (f : Eng → Eng) (s : State) : (s.upEng f).gau = s.gau := rfl
@[simp] theorem State.upEng_flt (f : Eng → Eng) (s : State) : (s.upEng f).flt = s.flt := rfl
@[simp] theorem State.upEng_nvm (f : Eng → Eng) (s : State) : (s.upEng f).nvm = s.nvm := rfl
@[simp] theorem State.upEng_tw (f : Eng → Eng) (s : State) : (s.upEng f).tw = s.tw := rfl
@[simp] theorem State.upEng_hif (f : Eng → Eng) (s : State) : (s.upEng f).hif = s.hif := rfl
@[simp] theorem State.upEng_tap (f : Eng → Eng) (s : State) : (s.upEng f).tap = s.tap := rfl

/-! ## pwm -/

@[simp] theorem State.upPwm_pending (f : Pwm → Pwm) (s : State) : (s.upPwm f).pending = s.pending := rfl
@[simp] theorem State.upPwm_freeCount (f : Pwm → Pwm) (s : State) : (s.upPwm f).freeCount = s.freeCount := rfl
@[simp] theorem State.upPwm_out (f : Pwm → Pwm) (s : State) : (s.upPwm f).out = s.out := rfl
@[simp] theorem State.upPwm_clk (f : Pwm → Pwm) (s : State) : (s.upPwm f).clk = s.clk := rfl
@[simp] theorem State.upPwm_pwr (f : Pwm → Pwm) (s : State) : (s.upPwm f).pwr = s.pwr := rfl
@[simp] theorem State.upPwm_tmr (f : Pwm → Pwm) (s : State) : (s.upPwm f).tmr = s.tmr := rfl
@[simp] theorem State.upPwm_regs (f : Pwm → Pwm) (s : State) : (s.upPwm f).regs = s.regs := rfl
@[simp] theorem State.upPwm_fab (f : Pwm → Pwm) (s : State) : (s.upPwm f).fab = s.fab := rfl
@[simp] theorem State.upPwm_adc (f : Pwm → Pwm) (s : State) : (s.upPwm f).adc = s.adc := rfl
@[simp] theorem State.upPwm_eng (f : Pwm → Pwm) (s : State) : (s.upPwm f).eng = s.eng := rfl
@[simp] theorem State.upPwm_pwm (f : Pwm → Pwm) (s : State) : (s.upPwm f).pwm = f s.pwm := rfl
@[simp] theorem State.upPwm_fb (f : Pwm → Pwm) (s : State) : (s.upPwm f).fb = s.fb := rfl
@[simp] theorem State.upPwm_cmp (f : Pwm → Pwm) (s : State) : (s.upPwm f).cmp = s.cmp := rfl
@[simp] theorem State.upPwm_seq (f : Pwm → Pwm) (s : State) : (s.upPwm f).seq = s.seq := rfl
@[simp] theorem State.upPwm_prn (f : Pwm → Pwm) (s : State) : (s.upPwm f).prn = s.prn := rfl
@[simp] theorem State.upPwm_ldg (f : Pwm → Pwm) (s : State) : (s.upPwm f).ldg = s.ldg := rfl
@[simp] theorem State.upPwm_gau (f : Pwm → Pwm) (s : State) : (s.upPwm f).gau = s.gau := rfl
@[simp] theorem State.upPwm_flt (f : Pwm → Pwm) (s : State) : (s.upPwm f).flt = s.flt := rfl
@[simp] theorem State.upPwm_nvm (f : Pwm → Pwm) (s : State) : (s.upPwm f).nvm = s.nvm := rfl
@[simp] theorem State.upPwm_tw (f : Pwm → Pwm) (s : State) : (s.upPwm f).tw = s.tw := rfl
@[simp] theorem State.upPwm_hif (f : Pwm → Pwm) (s : State) : (s.upPwm f).hif = s.hif := rfl
@[simp] theorem State.upPwm_tap (f : Pwm → Pwm) (s : State) : (s.upPwm f).tap = s.tap := rfl

/-! ## cmp -/

@[simp] theorem State.upCmp_pending (f : Cmp → Cmp) (s : State) : (s.upCmp f).pending = s.pending := rfl
@[simp] theorem State.upCmp_freeCount (f : Cmp → Cmp) (s : State) : (s.upCmp f).freeCount = s.freeCount := rfl
@[simp] theorem State.upCmp_out (f : Cmp → Cmp) (s : State) : (s.upCmp f).out = s.out := rfl
@[simp] theorem State.upCmp_clk (f : Cmp → Cmp) (s : State) : (s.upCmp f).clk = s.clk := rfl
@[simp] theorem State.upCmp_pwr (f : Cmp → Cmp) (s : State) : (s.upCmp f).pwr = s.pwr := rfl
@[simp] theorem State.upCmp_tmr (f : Cmp → Cmp) (s : State) : (s.upCmp f).tmr = s.tmr := rfl
@[simp] theorem State.upCmp_regs (f : Cmp → Cmp) (s : State) : (s.upCmp f).regs = s.regs := rfl
@[simp] theorem State.upCmp_fab (f : Cmp → Cmp) (s : State) : (s.upCmp f).fab = s.fab := rfl
@[simp] theorem State.upCmp_adc (f : Cmp → Cmp) (s : State) : (s.upCmp f).adc = s.adc := rfl
@[simp] theorem State.upCmp_eng (f : Cmp → Cmp) (s : State) : (s.upCmp f).eng = s.eng := rfl
@[simp] theorem State.upCmp_pwm (f : Cmp → Cmp) (s : State) : (s.upCmp f).pwm = s.pwm := rfl
@[simp] theorem State.upCmp_fb (f : Cmp → Cmp) (s : State) : (s.upCmp f).fb = s.fb := rfl
@[simp] theorem State.upCmp_cmp (f : Cmp → Cmp) (s : State) : (s.upCmp f).cmp = f s.cmp := rfl
@[simp] theorem State.upCmp_seq (f : Cmp → Cmp) (s : State) : (s.upCmp f).seq = s.seq := rfl
@[simp] theorem State.upCmp_prn (f : Cmp → Cmp) (s : State) : (s.upCmp f).prn = s.prn := rfl
@[simp] theorem State.upCmp_ldg (f : Cmp → Cmp) (s : State) : (s.upCmp f).ldg = s.ldg := rfl
@[simp] theorem State.upCmp_gau (f : Cmp → Cmp) (s : State) : (s.upCmp f).gau = s.gau := rfl
@[simp] theorem State.upCmp_flt (f : Cmp → Cmp) (s : State) : (s.upCmp f).flt = s.flt := rfl
@[simp] theorem State.upCmp_nvm (f : Cmp → Cmp) (s : State) : (s.upCmp f).nvm = s.nvm := rfl
@[simp] theorem State.upCmp_tw (f : Cmp → Cmp) (s : State) : (s.upCmp f).tw = s.tw := rfl
@[simp] theorem State.upCmp_hif (f : Cmp → Cmp) (s : State) : (s.upCmp f).hif = s.hif := rfl
@[simp] theorem State.upCmp_tap (f : Cmp → Cmp) (s : State) : (s.upCmp f).tap = s.tap := rfl

/-! ## adc -/

@[simp] theorem State.upAdc_pending (f : Adc → Adc) (s : State) : (s.upAdc f).pending = s.pending := rfl
@[simp] theorem State.upAdc_freeCount (f : Adc → Adc) (s : State) : (s.upAdc f).freeCount = s.freeCount := rfl
@[simp] theorem State.upAdc_out (f : Adc → Adc) (s : State) : (s.upAdc f).out = s.out := rfl
@[simp] theorem State.upAdc_clk (f : Adc → Adc) (s : State) : (s.upAdc f).clk = s.clk := rfl
@[simp] theorem State.upAdc_pwr (f : Adc → Adc) (s : State) : (s.upAdc f).pwr = s.pwr := rfl
@[simp] theorem State.upAdc_tmr (f : Adc → Adc) (s : State) : (s.upAdc f).tmr = s.tmr := rfl
@[simp] theorem State.upAdc_regs (f : Adc → Adc) (s : State) : (s.upAdc f).regs = s.regs := rfl
@[simp] theorem State.upAdc_fab (f : Adc → Adc) (s : State) : (s.upAdc f).fab = s.fab := rfl
@[simp] theorem State.upAdc_adc (f : Adc → Adc) (s : State) : (s.upAdc f).adc = f s.adc := rfl
@[simp] theorem State.upAdc_eng (f : Adc → Adc) (s : State) : (s.upAdc f).eng = s.eng := rfl
@[simp] theorem State.upAdc_pwm (f : Adc → Adc) (s : State) : (s.upAdc f).pwm = s.pwm := rfl
@[simp] theorem State.upAdc_fb (f : Adc → Adc) (s : State) : (s.upAdc f).fb = s.fb := rfl
@[simp] theorem State.upAdc_cmp (f : Adc → Adc) (s : State) : (s.upAdc f).cmp = s.cmp := rfl
@[simp] theorem State.upAdc_seq (f : Adc → Adc) (s : State) : (s.upAdc f).seq = s.seq := rfl
@[simp] theorem State.upAdc_prn (f : Adc → Adc) (s : State) : (s.upAdc f).prn = s.prn := rfl
@[simp] theorem State.upAdc_ldg (f : Adc → Adc) (s : State) : (s.upAdc f).ldg = s.ldg := rfl
@[simp] theorem State.upAdc_gau (f : Adc → Adc) (s : State) : (s.upAdc f).gau = s.gau := rfl
@[simp] theorem State.upAdc_flt (f : Adc → Adc) (s : State) : (s.upAdc f).flt = s.flt := rfl
@[simp] theorem State.upAdc_nvm (f : Adc → Adc) (s : State) : (s.upAdc f).nvm = s.nvm := rfl
@[simp] theorem State.upAdc_tw (f : Adc → Adc) (s : State) : (s.upAdc f).tw = s.tw := rfl
@[simp] theorem State.upAdc_hif (f : Adc → Adc) (s : State) : (s.upAdc f).hif = s.hif := rfl
@[simp] theorem State.upAdc_tap (f : Adc → Adc) (s : State) : (s.upAdc f).tap = s.tap := rfl

/-! ## ldg -/

@[simp] theorem State.upLdg_pending (f : Ldg → Ldg) (s : State) : (s.upLdg f).pending = s.pending := rfl
@[simp] theorem State.upLdg_freeCount (f : Ldg → Ldg) (s : State) : (s.upLdg f).freeCount = s.freeCount := rfl
@[simp] theorem State.upLdg_out (f : Ldg → Ldg) (s : State) : (s.upLdg f).out = s.out := rfl
@[simp] theorem State.upLdg_clk (f : Ldg → Ldg) (s : State) : (s.upLdg f).clk = s.clk := rfl
@[simp] theorem State.upLdg_pwr (f : Ldg → Ldg) (s : State) : (s.upLdg f).pwr = s.pwr := rfl
@[simp] theorem State.upLdg_tmr (f : Ldg → Ldg) (s : State) : (s.upLdg f).tmr = s.tmr := rfl
@[simp] theorem State.upLdg_regs (f : Ldg → Ldg) (s : State) : (s.upLdg f).regs = s.regs := rfl
@[simp] theorem State.upLdg_fab (f : Ldg → Ldg) (s : State) : (s.upLdg f).fab = s.fab := rfl
@[simp] theorem State.upLdg_adc (f : Ldg → Ldg) (s : State) : (s.upLdg f).adc = s.adc := rfl
@[simp] theorem State.upLdg_eng (f : Ldg → Ldg) (s : State) : (s.upLdg f).eng = s.eng := rfl
@[simp] theorem State.upLdg_pwm (f : Ldg → Ldg) (s : State) : (s.upLdg f).pwm = s.pwm := rfl
@[simp] theorem State.upLdg_fb (f : Ldg → Ldg) (s : State) : (s.upLdg f).fb = s.fb := rfl
@[simp] theorem State.upLdg_cmp (f : Ldg → Ldg) (s : State) : (s.upLdg f).cmp = s.cmp := rfl
@[simp] theorem State.upLdg_seq (f : Ldg → Ldg) (s : State) : (s.upLdg f).seq = s.seq := rfl
@[simp] theorem State.upLdg_prn (f : Ldg → Ldg) (s : State) : (s.upLdg f).prn = s.prn := rfl
@[simp] theorem State.upLdg_ldg (f : Ldg → Ldg) (s : State) : (s.upLdg f).ldg = f s.ldg := rfl
@[simp] theorem State.upLdg_gau (f : Ldg → Ldg) (s : State) : (s.upLdg f).gau = s.gau := rfl
@[simp] theorem State.upLdg_flt (f : Ldg → Ldg) (s : State) : (s.upLdg f).flt = s.flt := rfl
@[simp] theorem State.upLdg_nvm (f : Ldg → Ldg) (s : State) : (s.upLdg f).nvm = s.nvm := rfl
@[simp] theorem State.upLdg_tw (f : Ldg → Ldg) (s : State) : (s.upLdg f).tw = s.tw := rfl
@[simp] theorem State.upLdg_hif (f : Ldg → Ldg) (s : State) : (s.upLdg f).hif = s.hif := rfl
@[simp] theorem State.upLdg_tap (f : Ldg → Ldg) (s : State) : (s.upLdg f).tap = s.tap := rfl

/-! ## gau -/

@[simp] theorem State.upGau_pending (f : Gau → Gau) (s : State) : (s.upGau f).pending = s.pending := rfl
@[simp] theorem State.upGau_freeCount (f : Gau → Gau) (s : State) : (s.upGau f).freeCount = s.freeCount := rfl
@[simp] theorem State.upGau_out (f : Gau → Gau) (s : State) : (s.upGau f).out = s.out := rfl
@[simp] theorem State.upGau_clk (f : Gau → Gau) (s : State) : (s.upGau f).clk = s.clk := rfl
@[simp] theorem State.upGau_pwr (f : Gau → Gau) (s : State) : (s.upGau f).pwr = s.pwr := rfl
@[simp] theorem State.upGau_tmr (f : Gau → Gau) (s : State) : (s.upGau f).tmr = s.tmr := rfl
@[simp] theorem State.upGau_regs (f : Gau → Gau) (s : State) : (s.upGau f).regs = s.regs := rfl
@[simp] theorem State.upGau_fab (f : Gau → Gau) (s : State) : (s.upGau f).fab = s.fab := rfl
@[simp] theorem State.upGau_adc (f : Gau → Gau) (s : State) : (s.upGau f).adc = s.adc := rfl
@[simp] theorem State.upGau_eng (f : Gau → Gau) (s : State) : (s.upGau f).eng = s.eng := rfl
@[simp] theorem State.upGau_pwm (f : Gau → Gau) (s : State) : (s.upGau f).pwm = s.pwm := rfl
@[simp] theorem State.upGau_fb (f : Gau → Gau) (s : State) : (s.upGau f).fb = s.fb := rfl
@[simp] theorem State.upGau_cmp (f : Gau → Gau) (s : State) : (s.upGau f).cmp = s.cmp := rfl
@[simp] theorem State.upGau_seq (f : Gau → Gau) (s : State) : (s.upGau f).seq = s.seq := rfl
@[simp] theorem State.upGau_prn (f : Gau → Gau) (s : State) : (s.upGau f).prn = s.prn := rfl
@[simp] theorem State.upGau_ldg (f : Gau → Gau) (s : State) : (s.upGau f).ldg = s.ldg := rfl
@[simp] theorem State.upGau_gau (f : Gau → Gau) (s : State) : (s.upGau f).gau = f s.gau := rfl
@[simp] theorem State.upGau_flt (f : Gau → Gau) (s : State) : (s.upGau f).flt = s.flt := rfl
@[simp] theorem State.upGau_nvm (f : Gau → Gau) (s : State) : (s.upGau f).nvm = s.nvm := rfl
@[simp] theorem State.upGau_tw (f : Gau → Gau) (s : State) : (s.upGau f).tw = s.tw := rfl
@[simp] theorem State.upGau_hif (f : Gau → Gau) (s : State) : (s.upGau f).hif = s.hif := rfl
@[simp] theorem State.upGau_tap (f : Gau → Gau) (s : State) : (s.upGau f).tap = s.tap := rfl

/-! ## nvm -/

@[simp] theorem State.upNvm_pending (f : Nvm → Nvm) (s : State) : (s.upNvm f).pending = s.pending := rfl
@[simp] theorem State.upNvm_freeCount (f : Nvm → Nvm) (s : State) : (s.upNvm f).freeCount = s.freeCount := rfl
@[simp] theorem State.upNvm_out (f : Nvm → Nvm) (s : State) : (s.upNvm f).out = s.out := rfl
@[simp] theorem State.upNvm_clk (f : Nvm → Nvm) (s : State) : (s.upNvm f).clk = s.clk := rfl
@[simp] theorem State.upNvm_pwr (f : Nvm → Nvm) (s : State) : (s.upNvm f).pwr = s.pwr := rfl
@[simp] theorem State.upNvm_tmr (f : Nvm → Nvm) (s : State) : (s.upNvm f).tmr = s.tmr := rfl
@[simp] theorem State.upNvm_regs (f : Nvm → Nvm) (s : State) : (s.upNvm f).regs = s.regs := rfl
@[simp] theorem State.upNvm_fab (f : Nvm → Nvm) (s : State) : (s.upNvm f).fab = s.fab := rfl
@[simp] theorem State.upNvm_adc (f : Nvm → Nvm) (s : State) : (s.upNvm f).adc = s.adc := rfl
@[simp] theorem State.upNvm_eng (f : Nvm → Nvm) (s : State) : (s.upNvm f).eng = s.eng := rfl
@[simp] theorem State.upNvm_pwm (f : Nvm → Nvm) (s : State) : (s.upNvm f).pwm = s.pwm := rfl
@[simp] theorem State.upNvm_fb (f : Nvm → Nvm) (s : State) : (s.upNvm f).fb = s.fb := rfl
@[simp] theorem State.upNvm_cmp (f : Nvm → Nvm) (s : State) : (s.upNvm f).cmp = s.cmp := rfl
@[simp] theorem State.upNvm_seq (f : Nvm → Nvm) (s : State) : (s.upNvm f).seq = s.seq := rfl
@[simp] theorem State.upNvm_prn (f : Nvm → Nvm) (s : State) : (s.upNvm f).prn = s.prn := rfl
@[simp] theorem State.upNvm_ldg (f : Nvm → Nvm) (s : State) : (s.upNvm f).ldg = s.ldg := rfl
@[simp] theorem State.upNvm_gau (f : Nvm → Nvm) (s : State) : (s.upNvm f).gau = s.gau := rfl
@[simp] theorem State.upNvm_flt (f : Nvm → Nvm) (s : State) : (s.upNvm f).flt = s.flt := rfl
@[simp] theorem State.upNvm_nvm (f : Nvm → Nvm) (s : State) : (s.upNvm f).nvm = f s.nvm := rfl
@[simp] theorem State.upNvm_tw (f : Nvm → Nvm) (s : State) : (s.upNvm f).tw = s.tw := rfl
@[simp] theorem State.upNvm_hif (f : Nvm → Nvm) (s : State) : (s.upNvm f).hif = s.hif := rfl
@[simp] theorem State.upNvm_tap (f : Nvm → Nvm) (s : State) : (s.upNvm f).tap = s.tap := rfl

/-! ## tw -/

@[simp] theorem State.upTw_pending (f : Tw → Tw) (s : State) : (s.upTw f).pending = s.pending := rfl
@[simp] theorem State.upTw_freeCount (f : Tw → Tw) (s : State) : (s.upTw f).freeCount = s.freeCount := rfl
@[simp] theorem State.upTw_out (f : Tw → Tw) (s : State) : (s.upTw f).out = s.out := rfl
@[simp] theorem State.upTw_clk (f : Tw → Tw) (s : State) : (s.upTw f).clk = s.clk := rfl
@[simp] theorem State.upTw_pwr (f : Tw → Tw) (s : State) : (s.upTw f).pwr = s.pwr := rfl
@[simp] theorem State.upTw_tmr (f : Tw → Tw) (s : State) : (s.upTw f).tmr = s.tmr := rfl
@[simp] theorem State.upTw_regs (f : Tw → Tw) (s : State) : (s.upTw f).regs = s.regs := rfl
@[simp] theorem State.upTw_fab (f : Tw → Tw) (s : State) : (s.upTw f).fab = s.fab := rfl
@[simp] theorem State.upTw_adc (f : Tw → Tw) (s : State) : (s.upTw f).adc = s.adc := rfl
@[simp] theorem State.upTw_eng (f : Tw → Tw) (s : State) : (s.upTw f).eng = s.eng := rfl
@[simp] theorem State.upTw_pwm (f : Tw → Tw) (s : State) : (s.upTw f).pwm = s.pwm := rfl
@[simp] theorem State.upTw_fb (f : Tw → Tw) (s : State) : (s.upTw f).fb = s.fb := rfl
@[simp] theorem State.upTw_cmp (f : Tw → Tw) (s : State) : (s.upTw f).cmp = s.cmp := rfl
@[simp] theorem State.upTw_seq (f : Tw → Tw) (s : State) : (s.upTw f).seq = s.seq := rfl
@[simp] theorem State.upTw_prn (f : Tw → Tw) (s : State) : (s.upTw f).prn = s.prn := rfl
@[simp] theorem State.upTw_ldg (f : Tw → Tw) (s : State) : (s.upTw f).ldg = s.ldg := rfl
@[simp] theorem State.upTw_gau (f : Tw → Tw) (s : State) : (s.upTw f).gau = s.gau := rfl
@[simp] theorem State.upTw_flt (f : Tw → Tw) (s : State) : (s.upTw f).flt = s.flt := rfl
@[simp] theorem State.upTw_nvm (f : Tw → Tw) (s : State) : (s.upTw f).nvm = s.nvm := rfl
@[simp] theorem State.upTw_tw (f : Tw → Tw) (s : State) : (s.upTw f).tw = f s.tw := rfl
@[simp] theorem State.upTw_hif (f : Tw → Tw) (s : State) : (s.upTw f).hif = s.hif := rfl
@[simp] theorem State.upTw_tap (f : Tw → Tw) (s : State) : (s.upTw f).tap = s.tap := rfl

/-! ## hif -/

@[simp] theorem State.upHif_pending (f : Hif → Hif) (s : State) : (s.upHif f).pending = s.pending := rfl
@[simp] theorem State.upHif_freeCount (f : Hif → Hif) (s : State) : (s.upHif f).freeCount = s.freeCount := rfl
@[simp] theorem State.upHif_out (f : Hif → Hif) (s : State) : (s.upHif f).out = s.out := rfl
@[simp] theorem State.upHif_clk (f : Hif → Hif) (s : State) : (s.upHif f).clk = s.clk := rfl
@[simp] theorem State.upHif_pwr (f : Hif → Hif) (s : State) : (s.upHif f).pwr = s.pwr := rfl
@[simp] theorem State.upHif_tmr (f : Hif → Hif) (s : State) : (s.upHif f).tmr = s.tmr := rfl
@[simp] theorem State.upHif_regs (f : Hif → Hif) (s : State) : (s.upHif f).regs = s.regs := rfl
@[simp] theorem State.upHif_fab (f : Hif → Hif) (s : State) : (s.upHif f).fab = s.fab := rfl
@[simp] theorem State.upHif_adc (f : Hif → Hif) (s : State) : (s.upHif f).adc = s.adc := rfl
@[simp] theorem State.upHif_eng (f : Hif → Hif) (s : State) : (s.upHif f).eng = s.eng := rfl
@[simp] theorem State.upHif_pwm (f : Hif → Hif) (s : State) : (s.upHif f).pwm = s.pwm := rfl
@[simp] theorem State.upHif_fb (f : Hif → Hif) (s : State) : (s.upHif f).fb = s.fb := rfl
@[simp] theorem State.upHif_cmp (f : Hif → Hif) (s : State) : (s.upHif f).cmp = s.cmp := rfl
@[simp] theorem State.upHif_seq (f : Hif → Hif) (s : State) : (s.upHif f).seq = s.seq := rfl
@[simp] theorem State.upHif_prn (f : Hif → Hif) (s : State) : (s.upHif f).prn = s.prn := rfl
@[simp] theorem State.upHif_ldg (f : Hif → Hif) (s : State) : (s.upHif f).ldg = s.ldg := rfl
@[simp] theorem State.upHif_gau (f : Hif → Hif) (s : State) : (s.upHif f).gau = s.gau := rfl
@[simp] theorem State.upHif_flt (f : Hif → Hif) (s : State) : (s.upHif f).flt = s.flt := rfl
@[simp] theorem State.upHif_nvm (f : Hif → Hif) (s : State) : (s.upHif f).nvm = s.nvm := rfl
@[simp] theorem State.upHif_tw (f : Hif → Hif) (s : State) : (s.upHif f).tw = s.tw := rfl
@[simp] theorem State.upHif_hif (f : Hif → Hif) (s : State) : (s.upHif f).hif = f s.hif := rfl
@[simp] theorem State.upHif_tap (f : Hif → Hif) (s : State) : (s.upHif f).tap = s.tap := rfl

/-! ## pwr -/

@[simp] theorem State.upPwr_pending (f : Pwr → Pwr) (s : State) : (s.upPwr f).pending = s.pending := rfl
@[simp] theorem State.upPwr_freeCount (f : Pwr → Pwr) (s : State) : (s.upPwr f).freeCount = s.freeCount := rfl
@[simp] theorem State.upPwr_out (f : Pwr → Pwr) (s : State) : (s.upPwr f).out = s.out := rfl
@[simp] theorem State.upPwr_clk (f : Pwr → Pwr) (s : State) : (s.upPwr f).clk = s.clk := rfl
@[simp] theorem State.upPwr_pwr (f : Pwr → Pwr) (s : State) : (s.upPwr f).pwr = f s.pwr := rfl
@[simp] theorem State.upPwr_tmr (f : Pwr → Pwr) (s : State) : (s.upPwr f).tmr = s.tmr := rfl
@[simp] theorem State.upPwr_regs (f : Pwr → Pwr) (s : State) : (s.upPwr f).regs = s.regs := rfl
@[simp] theorem State.upPwr_fab (f : Pwr → Pwr) (s : State) : (s.upPwr f).fab = s.fab := rfl
@[simp] theorem State.upPwr_adc (f : Pwr → Pwr) (s : State) : (s.upPwr f).adc = s.adc := rfl
@[simp] theorem State.upPwr_eng (f : Pwr → Pwr) (s : State) : (s.upPwr f).eng = s.eng := rfl
@[simp] theorem State.upPwr_pwm (f : Pwr → Pwr) (s : State) : (s.upPwr f).pwm = s.pwm := rfl
@[simp] theorem State.upPwr_fb (f : Pwr → Pwr) (s : State) : (s.upPwr f).fb = s.fb := rfl
@[simp] theorem State.upPwr_cmp (f : Pwr → Pwr) (s : State) : (s.upPwr f).cmp = s.cmp := rfl
@[simp] theorem State.upPwr_seq (f : Pwr → Pwr) (s : State) : (s.upPwr f).seq = s.seq := rfl
@[simp] theorem State.upPwr_prn (f : Pwr → Pwr) (s : State) : (s.upPwr f).prn = s.prn := rfl
@[simp] theorem State.upPwr_ldg (f : Pwr → Pwr) (s : State) : (s.upPwr f).ldg = s.ldg := rfl
@[simp] theorem State.upPwr_gau (f : Pwr → Pwr) (s : State) : (s.upPwr f).gau = s.gau := rfl
@[simp] theorem State.upPwr_flt (f : Pwr → Pwr) (s : State) : (s.upPwr f).flt = s.flt := rfl
@[simp] theorem State.upPwr_nvm (f : Pwr → Pwr) (s : State) : (s.upPwr f).nvm = s.nvm := rfl
@[simp] theorem State.upPwr_tw (f : Pwr → Pwr) (s : State) : (s.upPwr f).tw = s.tw := rfl
@[simp] theorem State.upPwr_hif (f : Pwr → Pwr) (s : State) : (s.upPwr f).hif = s.hif := rfl
@[simp] theorem State.upPwr_tap (f : Pwr → Pwr) (s : State) : (s.upPwr f).tap = s.tap := rfl

/-! ## clk -/

@[simp] theorem State.upClk_pending (f : Clk → Clk) (s : State) : (s.upClk f).pending = s.pending := rfl
@[simp] theorem State.upClk_freeCount (f : Clk → Clk) (s : State) : (s.upClk f).freeCount = s.freeCount := rfl
@[simp] theorem State.upClk_out (f : Clk → Clk) (s : State) : (s.upClk f).out = s.out := rfl
@[simp] theorem State.upClk_clk (f : Clk → Clk) (s : State) : (s.upClk f).clk = f s.clk := rfl
@[simp] theorem State.upClk_pwr (f : Clk → Clk) (s : State) : (s.upClk f).pwr = s.pwr := rfl
@[simp] theorem State.upClk_tmr (f : Clk → Clk) (s : State) : (s.upClk f).tmr = s.tmr := rfl
@[simp] theorem State.upClk_regs (f : Clk → Clk) (s : State) : (s.upClk f).regs = s.regs := rfl
@[simp] theorem State.upClk_fab (f : Clk → Clk) (s : State) : (s.upClk f).fab = s.fab := rfl
@[simp] theorem State.upClk_adc (f : Clk → Clk) (s : State) : (s.upClk f).adc = s.adc := rfl
@[simp] theorem State.upClk_eng (f : Clk → Clk) (s : State) : (s.upClk f).eng = s.eng := rfl
@[simp] theorem State.upClk_pwm (f : Clk → Clk) (s : State) : (s.upClk f).pwm = s.pwm := rfl
@[simp] theorem State.upClk_fb (f : Clk → Clk) (s : State) : (s.upClk f).fb = s.fb := rfl
@[simp] theorem State.upClk_cmp (f : Clk → Clk) (s : State) : (s.upClk f).cmp = s.cmp := rfl
@[simp] theorem State.upClk_seq (f : Clk → Clk) (s : State) : (s.upClk f).seq = s.seq := rfl
@[simp] theorem State.upClk_prn (f : Clk → Clk) (s : State) : (s.upClk f).prn = s.prn := rfl
@[simp] theorem State.upClk_ldg (f : Clk → Clk) (s : State) : (s.upClk f).ldg = s.ldg := rfl
@[simp] theorem State.upClk_gau (f : Clk → Clk) (s : State) : (s.upClk f).gau = s.gau := rfl
@[simp] theorem State.upClk_flt (f : Clk → Clk) (s : State) : (s.upClk f).flt = s.flt := rfl
@[simp] theorem State.upClk_nvm (f : Clk → Clk) (s : State) : (s.upClk f).nvm = s.nvm := rfl
@[simp] theorem State.upClk_tw (f : Clk → Clk) (s : State) : (s.upClk f).tw = s.tw := rfl
@[simp] theorem State.upClk_hif (f : Clk → Clk) (s : State) : (s.upClk f).hif = s.hif := rfl
@[simp] theorem State.upClk_tap (f : Clk → Clk) (s : State) : (s.upClk f).tap = s.tap := rfl

/-! ## tmr -/

@[simp] theorem State.upTmr_pending (f : Tmr → Tmr) (s : State) : (s.upTmr f).pending = s.pending := rfl
@[simp] theorem State.upTmr_freeCount (f : Tmr → Tmr) (s : State) : (s.upTmr f).freeCount = s.freeCount := rfl
@[simp] theorem State.upTmr_out (f : Tmr → Tmr) (s : State) : (s.upTmr f).out = s.out := rfl
@[simp] theorem State.upTmr_clk (f : Tmr → Tmr) (s : State) : (s.upTmr f).clk = s.clk := rfl
@[simp] theorem State.upTmr_pwr (f : Tmr → Tmr) (s : State) : (s.upTmr f).pwr = s.pwr := rfl
@[simp] theorem State.upTmr_tmr (f : Tmr → Tmr) (s : State) : (s.upTmr f).tmr = f s.tmr := rfl
@[simp] theorem State.upTmr_regs (f : Tmr → Tmr) (s : State) : (s.upTmr f).regs = s.regs := rfl
@[simp] theorem State.upTmr_fab (f : Tmr → Tmr) (s : State) : (s.upTmr f).fab = s.fab := rfl
@[simp] theorem State.upTmr_adc (f : Tmr → Tmr) (s : State) : (s.upTmr f).adc = s.adc := rfl
@[simp] theorem State.upTmr_eng (f : Tmr → Tmr) (s : State) : (s.upTmr f).eng = s.eng := rfl
@[simp] theorem State.upTmr_pwm (f : Tmr → Tmr) (s : State) : (s.upTmr f).pwm = s.pwm := rfl
@[simp] theorem State.upTmr_fb (f : Tmr → Tmr) (s : State) : (s.upTmr f).fb = s.fb := rfl
@[simp] theorem State.upTmr_cmp (f : Tmr → Tmr) (s : State) : (s.upTmr f).cmp = s.cmp := rfl
@[simp] theorem State.upTmr_seq (f : Tmr → Tmr) (s : State) : (s.upTmr f).seq = s.seq := rfl
@[simp] theorem State.upTmr_prn (f : Tmr → Tmr) (s : State) : (s.upTmr f).prn = s.prn := rfl
@[simp] theorem State.upTmr_ldg (f : Tmr → Tmr) (s : State) : (s.upTmr f).ldg = s.ldg := rfl
@[simp] theorem State.upTmr_gau (f : Tmr → Tmr) (s : State) : (s.upTmr f).gau = s.gau := rfl
@[simp] theorem State.upTmr_flt (f : Tmr → Tmr) (s : State) : (s.upTmr f).flt = s.flt := rfl
@[simp] theorem State.upTmr_nvm (f : Tmr → Tmr) (s : State) : (s.upTmr f).nvm = s.nvm := rfl
@[simp] theorem State.upTmr_tw (f : Tmr → Tmr) (s : State) : (s.upTmr f).tw = s.tw := rfl
@[simp] theorem State.upTmr_hif (f : Tmr → Tmr) (s : State) : (s.upTmr f).hif = s.hif := rfl
@[simp] theorem State.upTmr_tap (f : Tmr → Tmr) (s : State) : (s.upTmr f).tap = s.tap := rfl

/-! ## regs -/

@[simp] theorem State.upRegs_pending (f : Regs → Regs) (s : State) : (s.upRegs f).pending = s.pending := rfl
@[simp] theorem State.upRegs_freeCount (f : Regs → Regs) (s : State) : (s.upRegs f).freeCount = s.freeCount := rfl
@[simp] theorem State.upRegs_out (f : Regs → Regs) (s : State) : (s.upRegs f).out = s.out := rfl
@[simp] theorem State.upRegs_clk (f : Regs → Regs) (s : State) : (s.upRegs f).clk = s.clk := rfl
@[simp] theorem State.upRegs_pwr (f : Regs → Regs) (s : State) : (s.upRegs f).pwr = s.pwr := rfl
@[simp] theorem State.upRegs_tmr (f : Regs → Regs) (s : State) : (s.upRegs f).tmr = s.tmr := rfl
@[simp] theorem State.upRegs_regs (f : Regs → Regs) (s : State) : (s.upRegs f).regs = f s.regs := rfl
@[simp] theorem State.upRegs_fab (f : Regs → Regs) (s : State) : (s.upRegs f).fab = s.fab := rfl
@[simp] theorem State.upRegs_adc (f : Regs → Regs) (s : State) : (s.upRegs f).adc = s.adc := rfl
@[simp] theorem State.upRegs_eng (f : Regs → Regs) (s : State) : (s.upRegs f).eng = s.eng := rfl
@[simp] theorem State.upRegs_pwm (f : Regs → Regs) (s : State) : (s.upRegs f).pwm = s.pwm := rfl
@[simp] theorem State.upRegs_fb (f : Regs → Regs) (s : State) : (s.upRegs f).fb = s.fb := rfl
@[simp] theorem State.upRegs_cmp (f : Regs → Regs) (s : State) : (s.upRegs f).cmp = s.cmp := rfl
@[simp] theorem State.upRegs_seq (f : Regs → Regs) (s : State) : (s.upRegs f).seq = s.seq := rfl
@[simp] theorem State.upRegs_prn (f : Regs → Regs) (s : State) : (s.upRegs f).prn = s.prn := rfl
@[simp] theorem State.upRegs_ldg (f : Regs → Regs) (s : State) : (s.upRegs f).ldg = s.ldg := rfl
@[simp] theorem State.upRegs_gau (f : Regs → Regs) (s : State) : (s.upRegs f).gau = s.gau := rfl
@[simp] theorem State.upRegs_flt (f : Regs → Regs) (s : State) : (s.upRegs f).flt = s.flt := rfl
@[simp] theorem State.upRegs_nvm (f : Regs → Regs) (s : State) : (s.upRegs f).nvm = s.nvm := rfl
@[simp] theorem State.upRegs_tw (f : Regs → Regs) (s : State) : (s.upRegs f).tw = s.tw := rfl
@[simp] theorem State.upRegs_hif (f : Regs → Regs) (s : State) : (s.upRegs f).hif = s.hif := rfl
@[simp] theorem State.upRegs_tap (f : Regs → Regs) (s : State) : (s.upRegs f).tap = s.tap := rfl

/-! ## fab -/

@[simp] theorem State.upFab_pending (f : Fab → Fab) (s : State) : (s.upFab f).pending = s.pending := rfl
@[simp] theorem State.upFab_freeCount (f : Fab → Fab) (s : State) : (s.upFab f).freeCount = s.freeCount := rfl
@[simp] theorem State.upFab_out (f : Fab → Fab) (s : State) : (s.upFab f).out = s.out := rfl
@[simp] theorem State.upFab_clk (f : Fab → Fab) (s : State) : (s.upFab f).clk = s.clk := rfl
@[simp] theorem State.upFab_pwr (f : Fab → Fab) (s : State) : (s.upFab f).pwr = s.pwr := rfl
@[simp] theorem State.upFab_tmr (f : Fab → Fab) (s : State) : (s.upFab f).tmr = s.tmr := rfl
@[simp] theorem State.upFab_regs (f : Fab → Fab) (s : State) : (s.upFab f).regs = s.regs := rfl
@[simp] theorem State.upFab_fab (f : Fab → Fab) (s : State) : (s.upFab f).fab = f s.fab := rfl
@[simp] theorem State.upFab_adc (f : Fab → Fab) (s : State) : (s.upFab f).adc = s.adc := rfl
@[simp] theorem State.upFab_eng (f : Fab → Fab) (s : State) : (s.upFab f).eng = s.eng := rfl
@[simp] theorem State.upFab_pwm (f : Fab → Fab) (s : State) : (s.upFab f).pwm = s.pwm := rfl
@[simp] theorem State.upFab_fb (f : Fab → Fab) (s : State) : (s.upFab f).fb = s.fb := rfl
@[simp] theorem State.upFab_cmp (f : Fab → Fab) (s : State) : (s.upFab f).cmp = s.cmp := rfl
@[simp] theorem State.upFab_seq (f : Fab → Fab) (s : State) : (s.upFab f).seq = s.seq := rfl
@[simp] theorem State.upFab_prn (f : Fab → Fab) (s : State) : (s.upFab f).prn = s.prn := rfl
@[simp] theorem State.upFab_ldg (f : Fab → Fab) (s : State) : (s.upFab f).ldg = s.ldg := rfl
@[simp] theorem State.upFab_gau (f : Fab → Fab) (s : State) : (s.upFab f).gau = s.gau := rfl
@[simp] theorem State.upFab_flt (f : Fab → Fab) (s : State) : (s.upFab f).flt = s.flt := rfl
@[simp] theorem State.upFab_nvm (f : Fab → Fab) (s : State) : (s.upFab f).nvm = s.nvm := rfl
@[simp] theorem State.upFab_tw (f : Fab → Fab) (s : State) : (s.upFab f).tw = s.tw := rfl
@[simp] theorem State.upFab_hif (f : Fab → Fab) (s : State) : (s.upFab f).hif = s.hif := rfl
@[simp] theorem State.upFab_tap (f : Fab → Fab) (s : State) : (s.upFab f).tap = s.tap := rfl

/-! ## fb -/

@[simp] theorem State.upFb_pending (r : Rail) (f : FbRail → FbRail) (s : State) :
    (s.upFb r f).pending = s.pending := rfl
@[simp] theorem State.upFb_freeCount (r : Rail) (f : FbRail → FbRail) (s : State) :
    (s.upFb r f).freeCount = s.freeCount := rfl
@[simp] theorem State.upFb_out (r : Rail) (f : FbRail → FbRail) (s : State) :
    (s.upFb r f).out = s.out := rfl
@[simp] theorem State.upFb_clk (r : Rail) (f : FbRail → FbRail) (s : State) :
    (s.upFb r f).clk = s.clk := rfl
@[simp] theorem State.upFb_pwr (r : Rail) (f : FbRail → FbRail) (s : State) :
    (s.upFb r f).pwr = s.pwr := rfl
@[simp] theorem State.upFb_tmr (r : Rail) (f : FbRail → FbRail) (s : State) :
    (s.upFb r f).tmr = s.tmr := rfl
@[simp] theorem State.upFb_regs (r : Rail) (f : FbRail → FbRail) (s : State) :
    (s.upFb r f).regs = s.regs := rfl
@[simp] theorem State.upFb_fab (r : Rail) (f : FbRail → FbRail) (s : State) :
    (s.upFb r f).fab = s.fab := rfl
@[simp] theorem State.upFb_adc (r : Rail) (f : FbRail → FbRail) (s : State) :
    (s.upFb r f).adc = s.adc := rfl
@[simp] theorem State.upFb_eng (r : Rail) (f : FbRail → FbRail) (s : State) :
    (s.upFb r f).eng = s.eng := rfl
@[simp] theorem State.upFb_pwm (r : Rail) (f : FbRail → FbRail) (s : State) :
    (s.upFb r f).pwm = s.pwm := rfl
@[simp] theorem State.upFb_fb (r : Rail) (f : FbRail → FbRail) (s : State) :
    (s.upFb r f).fb = vmod s.fb r f := rfl
@[simp] theorem State.upFb_cmp (r : Rail) (f : FbRail → FbRail) (s : State) :
    (s.upFb r f).cmp = s.cmp := rfl
@[simp] theorem State.upFb_seq (r : Rail) (f : FbRail → FbRail) (s : State) :
    (s.upFb r f).seq = s.seq := rfl
@[simp] theorem State.upFb_prn (r : Rail) (f : FbRail → FbRail) (s : State) :
    (s.upFb r f).prn = s.prn := rfl
@[simp] theorem State.upFb_ldg (r : Rail) (f : FbRail → FbRail) (s : State) :
    (s.upFb r f).ldg = s.ldg := rfl
@[simp] theorem State.upFb_gau (r : Rail) (f : FbRail → FbRail) (s : State) :
    (s.upFb r f).gau = s.gau := rfl
@[simp] theorem State.upFb_flt (r : Rail) (f : FbRail → FbRail) (s : State) :
    (s.upFb r f).flt = s.flt := rfl
@[simp] theorem State.upFb_nvm (r : Rail) (f : FbRail → FbRail) (s : State) :
    (s.upFb r f).nvm = s.nvm := rfl
@[simp] theorem State.upFb_tw (r : Rail) (f : FbRail → FbRail) (s : State) :
    (s.upFb r f).tw = s.tw := rfl
@[simp] theorem State.upFb_hif (r : Rail) (f : FbRail → FbRail) (s : State) :
    (s.upFb r f).hif = s.hif := rfl
@[simp] theorem State.upFb_tap (r : Rail) (f : FbRail → FbRail) (s : State) :
    (s.upFb r f).tap = s.tap := rfl

/-! ## out -/

@[simp] theorem State.emit_pending (o : Out) (s : State) : (s.emit o).pending = s.pending := rfl
@[simp] theorem State.emit_freeCount (o : Out) (s : State) : (s.emit o).freeCount = s.freeCount := rfl
@[simp] theorem State.emit_out (o : Out) (s : State) : (s.emit o).out = o :: s.out := rfl
@[simp] theorem State.emit_clk (o : Out) (s : State) : (s.emit o).clk = s.clk := rfl
@[simp] theorem State.emit_pwr (o : Out) (s : State) : (s.emit o).pwr = s.pwr := rfl
@[simp] theorem State.emit_tmr (o : Out) (s : State) : (s.emit o).tmr = s.tmr := rfl
@[simp] theorem State.emit_regs (o : Out) (s : State) : (s.emit o).regs = s.regs := rfl
@[simp] theorem State.emit_fab (o : Out) (s : State) : (s.emit o).fab = s.fab := rfl
@[simp] theorem State.emit_adc (o : Out) (s : State) : (s.emit o).adc = s.adc := rfl
@[simp] theorem State.emit_eng (o : Out) (s : State) : (s.emit o).eng = s.eng := rfl
@[simp] theorem State.emit_pwm (o : Out) (s : State) : (s.emit o).pwm = s.pwm := rfl
@[simp] theorem State.emit_fb (o : Out) (s : State) : (s.emit o).fb = s.fb := rfl
@[simp] theorem State.emit_cmp (o : Out) (s : State) : (s.emit o).cmp = s.cmp := rfl
@[simp] theorem State.emit_seq (o : Out) (s : State) : (s.emit o).seq = s.seq := rfl
@[simp] theorem State.emit_prn (o : Out) (s : State) : (s.emit o).prn = s.prn := rfl
@[simp] theorem State.emit_ldg (o : Out) (s : State) : (s.emit o).ldg = s.ldg := rfl
@[simp] theorem State.emit_gau (o : Out) (s : State) : (s.emit o).gau = s.gau := rfl
@[simp] theorem State.emit_flt (o : Out) (s : State) : (s.emit o).flt = s.flt := rfl
@[simp] theorem State.emit_nvm (o : Out) (s : State) : (s.emit o).nvm = s.nvm := rfl
@[simp] theorem State.emit_tw (o : Out) (s : State) : (s.emit o).tw = s.tw := rfl
@[simp] theorem State.emit_hif (o : Out) (s : State) : (s.emit o).hif = s.hif := rfl
@[simp] theorem State.emit_tap (o : Out) (s : State) : (s.emit o).tap = s.tap := rfl

end Sys2Proof.Machine
end

