-- ==== Sys2Proof/Laws/Shared.lean ====
section
/-!
SUPPORT. What each operation that the commands share can do, said once: the end of a descriptor, its
waiting, a register write that passes, and the queue of the NV controller.
-/

namespace Sys2Proof.Machine

/-- What `ready` gives (R371). -/
theorem ready_some {s : State} {q : Ring} {op : Nat} {d : Desc} (h : ready s q op = some d) :
    ∃ e, s.hif.sq[q].exec = some e ∧ e.desc = d ∧ e.desc.opcode.toNat = op ∧ e.decided = false ∧
      domOn s pdFab = true ∧ domOn s pdHif = true ∧ blockedBy s e = false := by
  unfold ready at h
  split at h
  · rename_i e he
    split at h
    · rename_i hc
      cases h
      exact ⟨e, he, rfl, hc.2.2.1, hc.2.2.2.1, hc.1, hc.2.1, hc.2.2.2.2⟩
    · cases h
  · cases h

/-- What the end of a descriptor does. -/
theorem completeData_ends {q : Ring} {s : State} {e : Exec} (status result : Nat) (data : List Byte)
    (h : s.hif.sq[q].exec = some e) : EndsWith q status result data s (completeData q status result data s) := by
  refine ⟨e, h, ?_⟩
  unfold completeData
  rw [h]
  refine ⟨?_, ?_, ?_, ?_, rfl⟩
  · simp [State.upSq, State.upCq, State.upHif]
  · simp [State.upSq, State.upCq, State.upHif]
  · intro k hk
    simp [State.upSq, State.upCq, State.upHif, Ne.symm hk]
  · intro c hc
    exact vmod_other _ _ (Ne.symm hc)

theorem complete_ends {q : Ring} {s : State} {e : Exec} (status result : Nat)
    (h : s.hif.sq[q].exec = some e) : Ends q status result s (complete q status result s) :=
  completeData_ends status result [] h

/-- Without a descriptor in execution nothing ends. -/
theorem completeData_none {q : Ring} {s : State} (status result : Nat) (data : List Byte)
    (h : s.hif.sq[q].exec = none) : completeData q status result data s = s := by
  unfold completeData
  rw [h]

theorem complete_none {q : Ring} {s : State} (status result : Nat) (h : s.hif.sq[q].exec = none) :
    complete q status result s = s := completeData_none status result [] h

theorem act_waits {q : Ring} {s : State} {e : Exec} (h : s.hif.sq[q].exec = some e) :
    Waits q true s (act_ q s) := by
  refine ⟨e, h, ?_, ?_, rfl⟩
  · rw [Fin.getElem_fin] at h ⊢
    simp [act_, State.upSq, State.upHif, h]
  · intro k hk
    simp [act_, State.upSq, State.upHif, Ne.symm hk]

theorem decide_waits {q : Ring} {s : State} {e : Exec} (h : s.hif.sq[q].exec = some e) :
    Waits q false s (decide_ q s) := by
  refine ⟨e, h, ?_, ?_, rfl⟩
  · rw [Fin.getElem_fin] at h ⊢
    simp [decide_, State.upSq, State.upHif, h]
  · intro k hk
    simp [decide_, State.upSq, State.upHif, Ne.symm hk]

/-- A write that passes, to a register that the lock leaves open, with its reserved bits 0, acts. -/
theorem regWrite_pass {m : Master} {s : State} (off : Nat) {frozen : Bool} {v reserved : Word}
    (f : State → State) (h : WritesPass m s) (hl : frozen = true → s.regs.lock = false)
    (hv : v &&& reserved = 0) : regWrite m off frozen v reserved f s = f s := by
  obtain ⟨h1, h2, h3, h4, h5, h6⟩ := h
  have hm : ¬ (m = .tw1 ∨ m = .tw3) := by
    rcases h2 with rfl | rfl <;> simp
  have hp : ¬ (s.pwr.phase = .por ∨ s.pwr.phase = .supplyReset ∨ s.pwr.phase = .asleep ∨
      s.pwr.phase = .waking) := by
    simp [h3, h4, h5, h6]
  have hf : (frozen && s.regs.lock) = false := by
    cases frozen
    · rfl
    · simpa using hl rfl
  simp [regWrite, h1, hm, hp, hf, hv]

/-- The issue of markers splits those that wait into those issued now and those that go on waiting. -/
theorem issue_splits (s : State) (ms : List Marker) (q : Stream) :
    ∃ now wait : List Marker, now.Sublist ms ∧ wait.Sublist ms ∧ (now ++ wait).Perm ms ∧
      ms.foldl (issueNext s) q =
        { issued := q.issued ++ now.map (issuedNow s), waiting := q.waiting ++ wait } := by
  induction ms generalizing q with
  | nil => exact ⟨[], [], .slnil, .slnil, .nil, by simp⟩
  | cons m ms ih =>
    obtain ⟨now, wait, h1, h2, h3, h4⟩ := ih (issueNext s q m)
    rw [List.foldl_cons, h4]
    unfold issueNext
    split
    · exact ⟨m :: now, wait, h1.cons_cons m, h2.cons m, h3.cons m, by simp [issuedNow]⟩
    · exact ⟨now, m :: wait, h1.cons m, h2.cons_cons m, List.perm_middle.trans (h3.cons m), by simp⟩

/-- What the acceptance of markers does (R393). -/
theorem push_joined (ms : List Marker) (s : State) : Joined ms s (pushMarkers ms s) := by
  obtain ⟨now, wait, h1, h2, h3, h4⟩ := issue_splits (s.upFab fun f => { f with markers := f.markers ++ ms })
    ((s.fab.markers ++ ms).filter fun m => m.bstamp.isNone)
    { issued := (s.fab.markers ++ ms).filter fun m => m.bstamp.isSome, waiting := [] }
  refine ⟨rfl, now, wait, h1, h2, h3, ?_⟩
  simp only [pushMarkers, issueMarkers, State.upFab_fab]
  rw [h4]
  rfl

/-- What the rejection of a register write does (R379). -/
theorem reject_rejected (m : Master) (off code : Nat) (s : State) : Rejected m off code s (rejectWrite m off code s) := by
  unfold Rejected rejectWrite
  have : (if m = .host then 1 else if m = .tw0 then 2 else if m = .tw1 then 3 else 5 : BitVec 4) = BitVec.ofNat 4 (masterCode m) := by
    cases m <;> rfl
  rw [this]
  have h2 : ∀ x : BitVec 16, incSat x = if x = 0xFFFF then 0xFFFF else x + 1 := by
    intro x
    unfold incSat
    have := x.isLt
    by_cases h : x = 0xFFFF
    · subst h; rfl
    · rw [if_neg h, if_pos]
      have : x.toNat ≠ 0xFFFF := fun h' => h (BitVec.eq_of_toNat_eq h')
      omega
  simp only [← h2]
  exact raiseAccess_raised _ _ _ _ _ (by decide)

end Sys2Proof.Machine
end

