-- ==== Sys2Proof/WellFormed.lean ====
section
/-!
DEFINITION. Well-formed commands: the operands lie where the command's row can have them. An ill-formed
term stands for nothing that the outside of the part can send.
-/

namespace Sys2Proof

/-- What can be wrong with a command. -/
inductive Flaw where
  /-- An offset outside BAR0's 64 KiB (R1), or a read that is not of a word of BAR0, BAR2 or the configuration space. -/
  | offset
  /-- An offset outside the registers that the row writes. -/
  | window
  /-- A buffer that has not the length of its descriptor (R366, R367). -/
  | length
  /-- A ring entry that is not 64 bytes (R362). -/
  | entry
  /-- TW2 is no target port, TW0 and TW1 are no controllers (R447). -/
  | role
  /-- A bit code that no loss of arbitration has (R462). -/
  | code
  /-- A self-test that does not calibrate all 17 slices (R484). -/
  | slices
  /-- A frame with more or fewer clocks than R173 counts. -/
  | clock
  deriving DecidableEq, Repr

/-- An aligned word offset from lo, below hi. -/
def wordFrom (lo hi off : Nat) : Bool := decide (lo ≤ off) && decide (off < hi) && off % 4 = 0

/-- A target port. -/
def isTarget (p : Port) : Bool := p.val ≠ 2

/-- A controller port. -/
def isController (p : Port) : Bool := decide (2 ≤ p.val)

/-- The first flaw of a command, if it has one. -/
def Instr.flaw (i : Instr) : Option Flaw :=
  let need := fun (b : Bool) (f : Flaw) => if b then none else some f
  match i with
  | .adcSeqLoad _ buf => need (buf.length = 147) .length
  | .engBankLoad _ buf => need (buf.length = 32) .length
  | .engLastLoad _ buf => need (buf.length = 64) .length
  | .phasePlan _ buf => need (buf.length = 120) .length
  | .prnSet _ buf => need (buf.length = 37) .length
  | .cmpSet _ buf => need (buf.length = 84) .length
  | .seqSet _ buf => need (buf.length = 137) .length
  | .ldgSet _ buf => need (buf.length = 114) .length
  | .fltSet _ buf => need (buf.length = 141) .length
  | .nvWrite _ buf => need (decide (8 ≤ buf.length) && decide (buf.length ≤ 4096) && buf.length % 8 = 0) .length
  | .recCommit _ buf => need (decide (buf.length ≤ 240)) .length
  | .imgWrite _ buf => need (decide (32 ≤ buf.length) && decide (buf.length ≤ 16384)) .length
  | .twXfer _ buf => need (decide (buf.length ≤ 256)) .length
  | .descriptorFetch _ entries => need (entries.all fun e => e.length = 64) .entry
  | .engBankWordWrite _ off _ => need (wordFrom 0x4400 0x4C00 off) .window
  | .engLtldWrite _ off _ => need (wordFrom 0x4C00 0x4D00 off) .window
  | .ringRegisterWrite _ off _ => need (wordFrom 0xE000 0xF000 off) .window
  | .registerWrite _ off _ _ => need (decide (off < 0x10000)) .offset
  | .holdingRegisterRead m off => need (wordFrom 0 (if m = .host then 0x12000 else 0x10000) off) .offset
  | .kickWrite off _ => need (wordFrom 0 0x1000 off) .offset
  | .twTargetWrite p seen => need (isTarget p || match seen with
      | .mine _ => false
      | .other => true) .role
  | .twTargetRead p _ => need (isTarget p) .role
  | .twTargetInterrupted p _ _ => need (isTarget p) .role
  | .twWaitLimit p _ _ => need (isController p) .role
  | .twArbitrationLost p bit _ _ =>
    if isController p then need (decide (bit.toNat ≤ 11)) .code else some .role
  | .twBusStuck p _ _ => need (isController p) .role
  | .twTransferEnd p _ => need (isController p) .role
  | .twResetPulseEnd p _ _ => need (isController p) .role
  | .selfTestDone t => need (t.cals.length = 17) .slices
  | .frameStall _ clock => need (decide (1 ≤ clock) && decide (clock ≤ 105)) .clock
  | _ => none

/-- A well-formed command. -/
def Instr.wellFormed (i : Instr) : Bool := i.flaw.isNone

end Sys2Proof
end

