-- ==== Sys2Proof/Tests/Slice0.lean ====
section
/-!
SUPPORT. Tests: the form of commands, one small witness for the hypotheses of each statement and its
clauses, and the worked examples of the spec's files. Every test is about one command on a small state.
-/

set_option Elab.async false

namespace Sys2Proof.Tests

open Sys2Proof Sys2Proof.Machine

/-- A part in service: every domain on, the PLL locked, start-complete. -/
def live : State :=
  { State.reset with
    clk := { State.reset.clk with lock := true, xrefOk := true }
    pwr := { State.reset.pwr with on := 0x3FFF, phase := .run }
    hif := { State.reset.hif with up := true, bme := true } }

/-- s with these registers live, in the shadow and in force. -/
def setUp (ws : List (Nat × Word)) (s : State) : State :=
  let m := setWords [] ws
  { s with regs := { s.regs with live := m, shadow := m, acc := m } }

/-- A descriptor of an opcode with PARAM, LEN and EXT. -/
def desc (op : Nat) (param : Nat := 0) (len : Nat := 0) (ext : List Byte := []) : Desc :=
  { opcode := BitVec.ofNat 8 op, flags := 0, tag := 0x77, param := BitVec.ofNat 64 param, data := 0x1000
    len := BitVec.ofNat 32 len, ext := ext, clean := true }

/-- s with a descriptor in execution on ring q. -/
def holding (q : Ring) (d : Desc) (s : State) : State :=
  s.upSq q fun u => { u with
    en := true, state := .run, size := 4, exec := some { desc := d, ord := 0, decided := false, acted := false } }

/-- The state after a command. -/
def after (c : Instr) (s : State) : State :=
  match exec c s with
  | .next t => t
  | _ => s

/-- A command leaves s as it is, as far as a test compares: the converter array, the windows, the engine,
the phases and the NV bytes are long to compare and stay out. -/
def still (c : Instr) (s : State) : Bool :=
  let t := after c s
  decide (t.clk = s.clk) && decide (t.pwr = s.pwr) && decide (t.tmr = s.tmr) && decide (t.regs = s.regs) &&
    decide (t.fab = s.fab) && decide (t.fb = s.fb) &&
    decide (t.seq = s.seq) && decide (t.prn = s.prn) && decide (t.ldg = s.ldg) && decide (t.gau = s.gau) &&
    decide (t.flt = s.flt) && decide (t.tw = s.tw) && decide (t.hif = s.hif) && decide (t.out = s.out) &&
    decide (t.tap = s.tap) && decide (t.nvm.queue = s.nvm.queue)

/-- STATUS and RESULT of the completion that waits on completion ring 0. -/
def ended (s : State) : Option (Nat × Nat) :=
  s.hif.cq[0].held.getLast?.map fun c => (c.status.toNat, c.result.toNat)

/-- The descriptor in execution on ring q waits for its end. -/
def waits (q : Ring) (s : State) : Bool :=
  match s.hif.sq[q].exec with
  | some e => e.decided
  | none => false

/-- An event is pending. -/
def pending (e : Nat) (s : State) : Bool := hasBit s.flt.pend e

/-- The code and offset of the last rejected register write. -/
def rejected (s : State) : Nat × Nat := (s.regs.errCode.toNat, s.regs.errOff.toNat)

/-! ## Well-formed commands -/

theorem test_flaw_offset : (Instr.registerWrite .host 0x10000 0 .full).flaw = some .offset := by decide
theorem test_flaw_window : (Instr.engBankWordWrite .host 0x4C00 0).flaw = some .window := by decide
theorem test_flaw_length : (Instr.engBankLoad 0 []).flaw = some .length := by decide
theorem test_flaw_entry : (Instr.descriptorFetch 0 [[0]]).flaw = some .entry := by decide
theorem test_flaw_role : (Instr.twTargetRead 2 1).flaw = some .role := by decide
theorem test_flaw_code : (Instr.twArbitrationLost 2 12 0 0).flaw = some .code := by decide
theorem test_flaw_slices :
    (Instr.selfTestDone { pairFail := 0, cals := [], windowFail := [], steepFail := 0, heelFail := 0 }).flaw =
      some .slices := by decide
theorem test_flaw_clock : (Instr.frameStall 0 106).flaw = some .clock := by decide
theorem test_wellformed : (Instr.twXfer 0 []).wellFormed = true ∧
    (Instr.kickWrite 0xFFC 0).wellFormed = true ∧ (Instr.frameStall 0 105).wellFormed = true := by decide
theorem test_no_row_has_bits : decodeTableWord 32 0 = none := by decide

/-! ## The machine, the collector and the ledger's descriptors -/

theorem test_step_runs_front : step { live with pending := [.xrefLoss, .pllRelock] } =
    exec .xrefLoss { live with pending := [.pllRelock] } := by rfl
theorem test_idle_slot : (match step { live with clk := { live.clk with slot := 3 } } with
    | .next t => (t.clk.slot, t.tmr.now.toNat)
    | _ => (0, 0)) = (4, 1) := by decide
theorem test_idle_unlocked : step { live with clk := { live.clk with lock := false } } =
    .next { live with clk := { live.clk with lock := false, rc := live.clk.rc + 1 } } := by rfl
theorem test_idle_asleep : (match step State.reset with
    | .next t => t.tmr.gap
    | _ => 0) = 1 := by decide
theorem test_reset_safe : memoryOk State.reset = true ∧ tapOk State.reset = true ∧
    testModeOk State.reset = true ∧ stepOneOk State.reset = true := by decide
theorem test_live_safe : memoryOk live = true ∧ tapOk live = true ∧ testModeOk live = true ∧
    stepOneOk live = true := by decide

theorem test_nop : ready (holding 0 (desc 0) live) 0 0x00 = some (desc 0) ∧
    ended (after (.nop 0) (holding 0 (desc 0) live)) = some (0, 0) := by decide

/-- A pack of 4 cells that charges at 50 mA below an ITAPER of 100 mA. -/
def charging : State :=
  let s := setUp [(0xB000, 1), (0xB100, 4), (0xB10C, 100 * 0x10000)] live
  { s with gau := { s.gau with ipk := -50 } }

theorem test_charger_done :
    let s := holding 0 (desc 0x41 1) charging
    ready s 0 0x41 = some (desc 0x41 1) ∧ ended (after (.chargerDone 0) s) = some (0, 0) ∧
      (after (.chargerDone 0) s).gau.soce = 1 := by decide
theorem test_charger_not_charging :
    let s := holding 0 (desc 0x41 1) { charging with gau := { charging.gau with ipk := -100 } }
    ended (after (.chargerDone 0) s) = some (0x105, 0) := by decide
theorem test_captest_arm :
    let s := holding 0 (desc 0x41 2) { charging with gau := { charging.gau with fullseen := true } }
    ready s 0 0x41 = some (desc 0x41 2) ∧ (after (.captestArm 0) s).ldg.capArmed = true ∧
      ended (after (.captestArm 0) (holding 0 (desc 0x41 2) charging)) = some (0x105, 0) := by decide
theorem test_captest_disarm :
    let s := holding 0 (desc 0x41 3) { live with ldg := { live.ldg with capArmed := true } }
    ready s 0 0x41 = some (desc 0x41 3) ∧ (after (.captestDisarm 0) s).ldg.capArmed = false := by decide

/-- Event 0x51 pending with the capture taken. -/
def faulted : State := { live with flt := { live.flt with pend := 1 <<< 0x51, rstc := 2 } }

theorem test_flt_ack :
    let d := desc 0x48 5 0 (List.replicate 10 0 ++ [2, 0, 0, 0, 0, 0])
    let s := holding 0 d faulted
    ready s 0 0x48 = some d ∧ pending 0x51 s = true ∧ pending 0x51 (after (.fltAck 0) s) = false ∧
      (after (.fltAck 0) s).flt.rstc = 0 ∧ ended (after (.fltAck 0) s) = some (0, 0) := by decide
theorem test_flt_ack_preva :
    let s := holding 0 (desc 0x48 2) { faulted with flt := { faulted.flt with prevA := true } }
    (after (.fltAck 0) s).flt.prevA = false ∧ (after (.fltAck 0) s).flt.rstc = 2 := by decide
theorem test_flt_mode :
    let s := holding 0 (desc 0x49 1) live
    ready s 0 0x49 = some (desc 0x49 1) ∧ (after (.fltMode 0) s).flt.test = true ∧
      ended (after (.fltMode 0) s) = some (0, 0) := by decide
theorem test_flt_inject :
    let s := holding 0 (desc 0x4A 0x51) live
    ready s 0 0x4A = some (desc 0x4A 0x51) ∧ reservedEvent 0x51 = false ∧
      pending 0x51 (after (.fltInject 0) s) = true ∧ ended (after (.fltInject 0) s) = some (0, 0) := by decide
theorem test_flt_inject_reserved :
    let s := holding 0 (desc 0x4A 0x5B) live
    reservedEvent 0x5B = true ∧ ended (after (.fltInject 0) s) = some (0x102, 0) := by decide
/-- Of two raises in one tick the lower ID is captured (R339), and its entry alone is the first capture. -/
theorem test_capture_tick :
    let f := (raise 0x51 0 0 (raise 0x52 0 0 live)).flt
    f.first.map (·.event.toNat) = some 0x51 ∧ f.queue.map (·.first) = [false, true] ∧
      (raise 0x52 0 0 (raise 0x51 0 0 live)).flt.first.map (·.event.toNat) = some 0x51 ∧
      (raise 0x51 0 0 ((raise 0x52 0 0 live).upTmr fun t => { t with now := t.now + 1 })).flt.first.map
        (·.event.toNat) = some 0x52 := by decide
theorem test_flt_fclr : domOn faulted pdFab = true ∧ faulted.regs.lock = false ∧
    (after (.fltFclr .host 1) (after (.fltInject 0) (holding 0 (desc 0x4A 0x51) live))).flt.first = none ∧
    (after (.fltInject 0) (holding 0 (desc 0x4A 0x51) live)).flt.first ≠ none := by decide
theorem test_flt_pend_clear :
    pending 0x51 (after (.fltPendClear .host 2 (1 <<< 0x11)) faulted) = false := by decide

/-- STEP 1 of the ladder with its timer run out under an ESCWIN of 1 ms. -/
def climbing (n : Fin 5) : State :=
  let s := setUp [(0xC000, 1 * 0x10000)] { faulted with clk := { faulted.clk with slot := 256000 } }
  { s with flt := { s.flt with step := n, escStart := some 0, recov := true, pend := 1 <<< 0x50 } }

theorem test_ladder_steps : (after .escalationTimeout (climbing 1)).flt.step = 2 ∧
    (after .escalationTimeout (climbing 2)).flt.step = 3 ∧
    (after .escalationTimeout (climbing 0)).flt.step = 0 := by decide
theorem test_ladder_reset :
    let s := { climbing 3 with flt := { (climbing 3).flt with pend := 1 <<< 0x60 } }
    (after .escalationTimeout s).flt.step = 4 ∧ (after .escalationTimeout (climbing 3)).flt.step = 3 := by
  decide

/-! ## Sets, commits and the engine's set-up -/

/-- The words of some registers at their reset values, with some of them changed. -/
def words (offs : List Nat) (ws : List (Nat × Word) := []) : List Word := offs.map (wordIn (setWords [] ws))

/-- The hold-up voltages in their order. -/
def holdUp : List (Nat × Word) := [(0xB018, 100), (0xB01C, 300 * 0x10000 + 200)]

/-- A set descriptor is accepted with its markers on their way, and refused with a word less. -/
def setAccepted (op : Nat) (c : List Word → Instr) (ws : List Word) (markers : Nat) : Bool :=
  let s := holding 0 (desc op) live
  let t := after (c ws) s
  decide (ready s 0 op = some (desc op)) && waits 0 t && decide (t.fab.markers.length = markers) &&
    decide (ended (after (c (ws.drop 1)) s) = some (0x102, 0))

theorem test_flt_set : setAccepted 0x4B (.fltSet 0) (words (setOffs .flt)) 1 = true := by decide +kernel
theorem test_ldg_set : setAccepted 0x40 (.ldgSet 0) (words (setOffs .ldg) holdUp) 1 = true := by decide +kernel
theorem test_seq_set : setAccepted 0x38 (.seqSet 0) (words (setOffs .seq)) 1 = true := by decide +kernel
theorem test_cmp_set : setAccepted 0x31 (.cmpSet 0) (words (setOffs .cmp)) 1 = true := by decide +kernel
theorem test_prn_set : setAccepted 0x30 (.prnSet 0) (words (setOffs .prn)) 1 = true := by decide +kernel
theorem test_phase_plan : setAccepted 0x28 (.phasePlan 0) (words phasePlanOffs) 2 = true := by decide +kernel
theorem test_adc_seq_load : setAccepted 0x10 (.adcSeqLoad 0) (words seqLoadOffs) 1 = true := by decide +kernel
/-- The set-up of reset has carrier periods, and the checks pass it but for the ledger's. -/
theorem test_setup_checks : (∀ r < 8, live.cfg.period r ≠ 0) ∧ checkBlk live .tw live.cfg = none ∧
    checkBlk live .adc live.cfg = none ∧ checkBlk live .ldg live.cfg = some 0x103 ∧
    bankCheck (Vector.replicate 32 0) = some 0x103 := by decide +kernel
/-- VMIN above VMAX on an owned rail. -/
theorem test_prn_set_refused :
    ended (after (.prnSet 0 (words (setOffs .prn) [(0x8104, 5)])) (holding 0 (desc 0x30) live)) ≠ none := by decide +kernel
/-- A reserved channel in the regular sequence (R41). -/
theorem test_adc_seq_load_refused :
    ended (after (.adcSeqLoad 0 (words seqLoadOffs [(0x3080, 0x68)])) (holding 0 (desc 0x10) live)) =
      some (0x102, 0) := by decide +kernel

/-- A COMMIT of a shadow set that differs in some words of the block is accepted, and none after it until
its markers are applied. -/
def commits (b : Blk) (ws : List (Nat × Word)) : Bool :=
  let s := { live with regs := { live.regs with shadow := setWords [] ws } }
  let t := after (commitOf b .host 1) s
  decide (t.fab.markers ≠ []) && decide (rejected t = (0, 0)) && goOf t b && !goOf s b &&
    decide (rejected (after (commitOf b .host 1) t) = (0x104, commitOff b))

theorem test_adc_commit : commits .adc [(0x3060, 0x40)] = true := by decide +kernel
theorem test_eng_commit : commits .eng [(0x4000, 0x5300)] = true := by decide +kernel
theorem test_pwm_commit : commits .pwm [(0x5000, 0x10000)] = true := by decide +kernel
theorem test_cmp_commit : commits .cmp [(0x6000, 0x6400)] = true := by decide +kernel
theorem test_seq_commit : commits .seq [(0x7000, 0x6415)] = true := by decide +kernel
theorem test_prn_commit : commits .prn [(0x8000, 0)] = true := by decide +kernel
theorem test_tw_commit : commits .tw [(0x9010, 0x82364A1)] = true := by decide +kernel
theorem test_nvm_commit : commits .nvm [(0xA000, 1)] = true := by decide +kernel
theorem test_ldg_commit : commits .ldg holdUp = true := by decide +kernel
theorem test_flt_commit : commits .flt [(0xC000, 0x20000)] = true := by decide +kernel
/-- No difference between shadow and live, and a write of 0. -/
theorem test_commit_nothing : still (.fltCommit .host 1) live = true ∧
    still (.prnCommit .host 0) live = true := by decide +kernel
/-- A code that a check refuses: an effective address below 0x08 (R451). -/
theorem test_commit_refused :
    let s := { live with regs := { live.regs with shadow := setWord [] 0x9000 7 } }
    (rejected (after (.twCommit .host 1) s)).1 = 0x102 := by decide +kernel
/-- ENG_COMMIT moves a regulating rail of pair 0 to pair 1 after 64 samples. -/
theorem test_eng_commit_moves :
    let s := { live with regs := { live.regs with shadow := setWord [] 0x4020 0x60806E } }
    let s := { s with eng := { s.eng with rails := vmod s.eng.rails 0 fun e => { e with enabled := true } } }
    s.cfg.pair 0 = 0 ∧ ((after (.engCommit .host 1) s).eng.rails[0].assign.map (·.left)) = some 64 := by decide +kernel

theorem test_eng_bank_load :
    let s := holding 0 (desc 0x20 7) live
    let t := after (.engBankLoad 0 (List.replicate 32 9)) s
    ready s 0 0x20 = some (desc 0x20 7) ∧ t.eng.rails[7].inactive[31] = 9 ∧ ended t = some (0, 0) ∧
      ended (after (.engBankLoad 0 (List.replicate 31 9)) s) = some (0x102, 0) := by decide +kernel
theorem test_eng_last_load :
    let s := holding 0 (desc 0x22 7) live
    let t := after (.engLastLoad 0 (List.replicate 32 9 ++ List.replicate 32 8)) s
    ready s 0 0x22 = some (desc 0x22 7) ∧
      (t.eng.rails[7].ripple0[0], t.eng.rails[7].ripple1[0]) ≠ (0, 0) ∧ ended t = some (0, 0) := by decide +kernel

/-- Rail 0's and rail 7's inactive banks hold an identity law. -/
def banked : State :=
  let w := fun (k : Fin 32) => match k.val with
    | 13 => 1 | 22 => 0x10001 | 27 => 0x1000 | _ => (0 : Word)
  { live with eng := { live.eng with rails := live.eng.rails.map fun e => { e with bankB := Vector.ofFn w } } }

theorem test_eng_bank_swap :
    let d := desc 0x21 0x381
    let s := holding 0 d banked
    let t := after (.engBankSwap 0) s
    bankCheck s.eng.rails[0].inactive = none ∧ ready s 0 0x21 = some d ∧ waits 0 t = true ∧
      t.fab.markers.map (·.kind) = [.bankSwap, .lastTable] ∧ swPend t 7 = true ∧ ltPend t 0 = true ∧
      ended (after (.engBankSwap 1) (holding 1 d t)) = some (0x104, 0) := by decide +kernel
theorem test_eng_swap_writes :
    (after (.engSwapBanks .host 0x81) banked).fab.markers.map (·.tag) = [0xFFFD] ∧
      swPend (after (.engSwapBanks .host 0x81) banked) 7 = true ∧
      ltPend (after (.engSwapLastTables .host 0x8100) banked) 0 = true := by decide +kernel
theorem test_eng_bank_word :
    (after (.engBankWordWrite .host 0x4BF8 5) live).eng.rails[7].bankB[30] = 5 ∧
      rejected (after (.engBankWordWrite .host 0x4BFC 5) live) = (0x102, 0x4BFC) ∧
      rejected (after (.engBankWordWrite .host 0x4400 5) live) = (0x105, 0x4400) ∧
      rejected (after (.engBankWordWrite .host 0x4800 5) (after (.engSwapBanks .host 1) banked)) =
        (0x104, 0x4800) := by decide +kernel
theorem test_eng_ltld :
    let s := { live with eng := { live.eng with wsel := 7 } }
    (after (.engLtldWrite .host 0x4C00 5) s).eng.rails[7] ≠ s.eng.rails[7] ∧
      (after (.engLtldWrite .host 0x4CFC 5) s).eng.rails[7] ≠ s.eng.rails[7] ∧
      rejected (after (.engLtldWrite .host 0x4C80 5)
        (after (.engSwapLastTables .host 0x8000) s)) = (0x104, 0x4C80) := by decide +kernel
theorem test_eng_assign :
    let d := desc 0x23 0x17
    let s := holding 0 d live
    ready s 0 0x23 = some d ∧ waits 0 (after (.engAssign 0) s) = true ∧
      ended (after (.engAssign 1) (holding 1 d (after (.engAssign 0) s))) = some (0x104, 0) := by decide +kernel
theorem test_eng_assign_failed :
    let d := desc 0x23 0x17
    let s := { live with eng := { live.eng with pairs := vmod live.eng.pairs 1 fun p => { p with failed := true } } }
    ended (after (.engAssign 0) (holding 0 d s)) = some (0x105, 0) := by decide +kernel

/-! ## Registers, the lock, the time and the domains -/

theorem test_register_write :
    let t := after (.registerWrite .host 0xC000 0x20000 .full) live
    spanAt 0xC000 ≠ none ∧ wordIn t.regs.shadow 0xC000 = 0x20000 ∧ t.regs.live = [] := by decide +kernel
theorem test_register_write_refused :
    rejected (after (.registerWrite .tw1 0xC000 0 .full) live) = (0x107, 0xC000) ∧
      rejected (after (.registerWrite .host 0xC000 0 .wide) live) = (0x102, 0xC000) ∧
      rejected (after (.registerWrite .tw0 0xFFFC 0 .partialBytes) live) = (0x107, 0xFFFC) ∧
      rejected (after (.registerWrite .host 0xC000 8 .full) live) = (0x102, 0xC000) := by decide +kernel
theorem test_register_write_locked :
    let s := { live with regs := { live.regs with lock := true } }
    rejected (after (.registerWrite .host 0xC000 0x20000 .full) s) = (0x107, 0xC000) := by decide +kernel
theorem test_register_write_early :
    let s := { live with pwr := { live.pwr with phase := .supplyReset } }
    rejected (after (.registerWrite .host 0xC000 0x20000 .full) s) = (0x104, 0xC000) := by decide +kernel
/-- FLT_CFG between two other words; an offset without a register keeps its reset value. -/
theorem test_register_file :
    let m : RegMap := [(0xB000, 1), (0xD000, 3)]
    wordIn (setWord m 0xC000 0x20000) 0xC000 = 0x20000 ∧ wordIn (setWord m 0xC000 0x20000) 0xD000 = 3 ∧
      (setWord m 0xC000 0x20000).map (·.1) = [0xB000, 0xC000, 0xD000] ∧
      spanAt 0xF000 = none ∧ wordIn (setWord m 0xF000 5) 0xF000 = 0 := by decide +kernel

theorem test_setup_lock :
    let s := setUp [(0xC000, 0x20000)] live
    let s := { s with regs := { s.regs with shadow := [] } }
    let t := after (.hifSetupLock .host 1) s
    t.regs.lock = true ∧ t.regs.shadow = s.regs.live ∧
      rejected (after (.hifSetupLock .host 0) t) = (0x107, 0x4) ∧ still (.hifSetupLock .tw0 0) s = true := by
  decide +kernel
theorem test_tmr_set :
    let s := { live with tmr := { live.tmr with setLo := Vector.replicate 4 64000 } }
    (after (.tmrSet .host 0) s).tmr.setPend = some 64000 ∧
      rejected (after (.tmrSet .host 1) s) = (0x102, 0xD00C) := by decide +kernel
theorem test_tmr_set_apply :
    let s := { live with tmr := { live.tmr with now := 128000, coarse := true, setPend := some 64000 } }
    let late := { s with tmr := { s.tmr with now := 128001 } }
    (after .tmrSetApply s).tmr.now = 64000 ∧ (after .tmrSetApply s).tmr.coarse = false ∧
      still .tmrSetApply late = true := by decide +kernel

/-- Windows 31 and 79 latched, 79 still not-good. -/
def latched : State :=
  (live.upWin 31 fun w => { w with latch := true, low := false, high := false }).upWin 79 fun w => { w with latch := true, high := true }

theorem test_latch_clear :
    (after (.cmpLatchClear .host 0 0xFFFFFFFF) latched).cmp.win[31].latch = false ∧
      (after (.cmpLatchClear .host 0 0xFFFFFFFF) latched).cmp.win[79].latch = true ∧
      (after (.cmpLatchClear .host 2 0xFFFF) latched).cmp.win[79].latch = true := by decide +kernel
theorem test_shutoff_clear :
    let s := { live with seq := { live.seq with shutoff := true } }
    (after (.shutoffClear .host 0x10000) s).seq.shutoff = false ∧ still (.shutoffClear .host 0) s = true ∧
      rejected (after (.shutoffClear .host 0x10000) (s.upSeqRail 15 fun k => { k with state := .hold })) =
        (0x105, 0x7008) := by decide +kernel

/-- The read of a 64-bit register in two halves. -/
theorem test_holding_register :
    let s := { live with tmr := { live.tmr with now := 0x500000007, coarse := true } }
    let t := after (.holdingRegisterRead .host 0xD000) s
    let u := after (.holdingRegisterRead .host 0xD004) t
    wideView s 0xD000 ≠ none ∧ t.out = [.readData .host 7] ∧
      u.out = [.readData .host 0x80000005, .readData .host 7] ∧ u.regs.hold[masterIdx .host] = none ∧
      (after (.holdingRegisterRead .tw1 0xC000) (setUp [(0xC000, 0x20000)] live)).out =
        [.readData .tw1 0x20000] := by decide +kernel
theorem test_register_views : regValue live .host 0x0000 = 0x48085A43 ∧
    regValue live .host 0x1004 = 0x3FFF ∧ regValue faulted .host 0xC038 = 0x20000 := by decide +kernel

theorem test_domain_off :
    let s := holding 0 (desc 0x03 10) (setUp [(0x9010, 0x82364A4)] live)
    let t := after (.domain 0) s
    ready s 0 0x03 = some (desc 0x03 10) ∧ ended t = some (0, 0) ∧ domOn t 10 = false := by decide +kernel
theorem test_domain_refused :
    ended (after (.domain 0) (holding 0 (desc 0x03 5) live)) = some (0x105, 0) ∧
      ended (after (.domain 0) (holding 0 (desc 0x03 14) live)) = some (0x102, 0) ∧
      ended (after (.domain 0) (holding 0 (desc 0x03 10) live)) = some (0x105, 0) ∧
      ended (after (.domain 0) (holding 0 (desc 0x03 0x104) live)) = some (0, 0) := by decide +kernel
theorem test_pwr_dcmd :
    let s := { live with pwr := { live.pwr with on := 0x2FFF } }
    domOn (after (.pwrDcmd .host 0x10C) s) 12 = true ∧
      rejected (after (.pwrDcmd .host 15) s) = (0x102, 0x1008) ∧ still (.pwrDcmd .host 12) s = true := by
  decide +kernel

/-! ## The sequencer -/

/-- XRAIL0, rail 8, used in group 0, and XRAIL1, rail 9, used in group 1 with rail 8 as its prerequisite. -/
def sequenced : State := setUp [(0x7200, 0x80000000), (0x720C, 0x10040), (0x7220, 0x90000000), (0x7224, 0x88),
  (0x722C, 0x10040)] live

theorem test_seq_group :
    let s := holding 0 (desc 0x39 3) sequenced
    let t := after (.seqGroup 0) s
    ready s 0 0x39 = some (desc 0x39 3) ∧ ended t = some (0, 0) ∧ t.seq.groups[1].req = true ∧
      t.seq.rails[8].state = .delay ∧ t.seq.rails[9].state = .wait ∧ t.seq.rails[10].state = .off := by
  decide +kernel
theorem test_seq_group_refused :
    ended (after (.seqGroup 0) (holding 0 (desc 0x39 0x8080) sequenced)) = some (0x103, 0) ∧
      ended (after (.seqGroup 0) (holding 0 (desc 0x39 0x80) (setUp [(0x703C, 0xA26)] live))) =
        some (0x105, 0) ∧
      ended (after (.seqGroup 0) (holding 0 (desc 0x39 0x80)
        { live with seq := { live.seq with pfmem := 0x80 } })) = some (0x106, 0) := by decide +kernel
theorem test_seq_gcmd :
    (after (.seqGcmd .host 1) sequenced).seq.rails[8].state = .delay ∧
      rejected (after (.seqGcmd .host 1) { sequenced with seq := { sequenced.seq with shutoff := true } }) =
        (0x105, 0x7010) ∧
      (after (.seqGcmd .host 0x100) (after (.seqGcmd .host 1) sequenced)).seq.rails[8].state = .off := by
  decide +kernel
theorem test_start :
    let s := holding 0 (desc 0x01) { sequenced with pwr := { sequenced.pwr with phase := .waiting } }
    let t := after (.start 0) s
    ready s 0 0x01 = some (desc 0x01) ∧ ended t = some (0, 0) ∧ t.pwr.phase = .sequencing ∧
      t.seq.groups[1].req = true ∧ t.seq.groups[2].req = false := by decide +kernel
theorem test_start_held :
    let s := holding 0 (desc 0x01) { live with pwr := { live.pwr with phase := .selfTest } }
    let h := holding 0 (desc 0x01) { live with pwr := { live.pwr with phase := .halted } }
    (after (.start 0) s).pwr.startHeld = some 0 ∧ ended (after (.start 0) h) = some (0x105, 0) := by
  decide +kernel
theorem test_en_pin :
    let s := setUp [(0x703C, 0xA26)] live
    (after (.enPinChange true) s).seq.groups[7].req = true ∧
      (after (.enPinChange false) (after (.enPinChange true) s)).seq.groups[7].req = false ∧
      (after (.enPinChange true) State.reset).seq.en = true ∧
      (after (.enPinChange true) State.reset).seq.groups[7].req = false := by decide +kernel

/-- Rail 8 as it comes up: its states under its intervals. -/
def rising (k : RailState) : State :=
  (sequenced.upGroup 0 fun g => { g with req := true }).upSeqRail 8 fun r => { r with state := k }

theorem test_on_delay : wantOn (rising .delay) 8 = true ∧ freeToRise (rising .delay) 8 = true ∧
    (after (.onDelayEnd 8) (rising .delay)).seq.rails[8].state = .ramp ∧
    (after (.onDelayEnd 8) (rising .delay)).seq.rails[8].xen = true := by decide +kernel
/-- Rail 0 regulated: its loop starts with REF 0 and the target VBOOT. -/
theorem test_on_delay_regulated :
    let s := setUp [(0x7100, 0x80000000), (0x8108, 11520)] live
    let s := (s.upGroup 0 fun g => { g with req := true }).upSeqRail 0 fun r => { r with state := .delay }
    let t := after (.onDelayEnd 0) s
    wantOn s 0 = true ∧ t.eng.rails[0].enabled = true ∧ t.prn.rails[0].tgt = 11520 ∧
      t.prn.rails[0].seqown = true ∧ t.eng.rails[7].enabled = false := by decide +kernel
theorem test_ramp_time : (after (.rampTimeEnd 8) (rising .ramp)).seq.rails[8].state = .pgwait := by
  decide +kernel
theorem test_power_good :
    let s := (rising .pgwait).upWin 64 fun w => { w with low := false, high := false }
    (s.cmp.win[pgWindow 8]).live = false ∧ s.seq.rails[8].pgood = false ∧
      (after (.powerGoodChange 8 true) s).seq.rails[8].state = .on := by decide +kernel
theorem test_discharged :
    let s := ((rising .discharge).upGroup 0 fun g => { g with req := false }).upWin 64 fun w => { w with low := true }
    (s.cmp.win[pgWindow 8]).low = true ∧ (after (.discharged 8) s).seq.rails[8].state = .off := by
  decide +kernel
theorem test_seq_release :
    let s := holding 0 (desc 0x3B 8) ((rising .hold).upGroup 0 fun g => { g with req := false })
    ready s 0 0x3B = some (desc 0x3B 8) ∧ (after (.seqRelease 0) s).seq.rails[8].state = .off ∧
      ended (after (.seqRelease 0) (holding 0 (desc 0x3B 15) live)) = some (0x105, 0) := by decide +kernel
theorem test_power_good_timeout :
    let s := rising .pgwait
    let t := after (.powerGoodTimeout 8) s
    windowClosed 0x48 1 8 s = true ∧ pending 0x48 t = true ∧ t.seq.groups[0].retrying = true := by
  decide +kernel
theorem test_power_good_timeout_dependants :
    let s := rising .pgwait
    let s := { s with regs := { s.regs with live := setWord s.regs.live 0x7020 0xA07 } }
    s.cfg.policy 0 = true ∧ (after (.powerGoodTimeout 8) s).seq.rails[8].state = .discharge := by decide +kernel
theorem test_discharge_timeout :
    let s := (rising .discharge).upGroup 0 fun g => { g with req := false }
    let h := { s with regs := { s.regs with live := setWord s.regs.live 0x7210 0x8000 } }
    windowClosed 0x48 3 8 s = true ∧ (after (.dischargeTimeout 8) s).seq.rails[8].state = .off ∧
      (after (.dischargeTimeout 8) h).seq.rails[8].state = .hold := by decide +kernel
theorem test_reaction_timeout :
    let s := (rising .discharge).upSeqRail 8 fun r => { r with faultDown := true }
    (after .reactionTimeout s).seq.shutoff = true ∧ (after .reactionTimeout s).seq.groups[0].req = false := by
  decide +kernel
theorem test_core_mismatch :
    windowClosed 0x40 0xF 0 (rising .on) = true ∧ (after .seqCoreMismatch (rising .on)).seq.core = true ∧
      pending 0x40 (after .seqCoreMismatch (rising .on)) = true ∧
      (after .seqCoreMismatch (rising .on)).seq.rails[8].state = .off := by decide +kernel
theorem test_retry_delay :
    let s := (rising .off).upGroup 0 fun g => { g with retrying := true, retryc := 6 }
    let s := s.upSeqRail 8 fun r => { r with held := .groupRetry }
    (after (.retryDelayEnd (.group 0)) s).seq.groups[0].retryc = 7 ∧
      (after (.retryDelayEnd (.group 0)) s).seq.rails[8].state = .delay := by decide +kernel
theorem test_retry_delay_rail :
    let s := (rising .off).upSeqRail 8 fun r => { r with held := .railRetry 8 }
    (after (.retryDelayEnd (.rail 8)) s).seq.rails[8].held = .none ∧
      (after (.retryDelayEnd (.rail 8)) s).seq.rails[8].state = .delay := by decide +kernel
theorem test_retry_count :
    let s := (rising .on).upGroup 0 fun g => { g with retryc := 7 }
    (after (.retryCountReset (.group 0)) s).seq.groups[0].retryc = 0 ∧
      (after (.retryCountReset (.rail 8)) ((rising .on).upSeqRail 8 fun r => { r with retryc := 7 })).seq.rails[8].retryc
        = 0 := by decide +kernel
theorem test_take_down_order :
    let s := (rising .on).upSeqRail 9 fun r => { r with state := .on }
    dueToFall s 8 = false ∧ dueToFall (rising .on) 8 = true ∧ 9 ∈ dependants s.cfg 8 := by decide +kernel
theorem test_take_down_programmed :
    let s := setUp [(0x7020, 0xA16), (0x7200, 0x80000000), (0x7220, 0x81000000)] live
    let on := fun (i : SeqIdx) (s : State) => s.upSeqRail i fun r => { r with state := .on }
    dueToFall (on 8 (on 9 s)) 9 = false ∧ dueToFall (on 8 (on 9 s)) 8 = true := by decide +kernel

/-- Rails 0 and 7 ON. -/
def regulated : State :=
  (live.upSeqRail 0 fun r => { r with state := .on }).upSeqRail 7 fun r => { r with state := .on }

theorem test_seq_margin :
    let s := holding 0 (desc 0x3A 0x281) regulated
    let t := after (.seqMargin 0) s
    ready s 0 0x3A = some (desc 0x3A 0x281) ∧ mayAdmit s 0 false = true ∧ ended t = some (0, 0) ∧
      t.seq.rails[7].msel = 2 ∧ t.prn.rails[0].mrg = true ∧
      ended (after (.seqMargin 0) (holding 0 (desc 0x3A 0x381) regulated)) = some (0x102, 0) ∧
      ended (after (.seqMargin 0) (holding 0 (desc 0x3A 0x102) regulated)) = some (0x105, 0) := by
  decide +kernel
theorem test_seq_mcmd :
    (after (.seqMcmd .host 0x181) regulated).seq.rails[0].msel = 1 ∧
      (after (.seqMcmd .host 0x81) (after (.seqMcmd .host 0x181) regulated)).prn.rails[0].mrg = false ∧
      rejected (after (.seqMcmd .host 0x181) { regulated with ldg := { regulated.ldg with src := .spent } }) =
        (0x106, 0x7014) := by decide +kernel

/-! ## The converter array -/

/-- Every slice in service at position n with gain 1.0, slice 16 in steep. -/
def sampling : State :=
  { live with adc := { live.adc with
      slices := Vector.ofFn fun n => { live.adc.slices[n] with
        state := if n.val = 16 then .steep else .service, calOk := true } } }

theorem test_conversion :
    (convert sampling 0 0x58 0xFFE false).value = 32752 ∧ (convert sampling 0 0x58 0xFFF false).range = true ∧
      (convert sampling 0 0x00 0 false).value = -16384 ∧ (convert sampling 0 0x00 0 false).range = true ∧
      (convert sampling 0 0x58 0 false).range = false ∧ (convert sampling 0 0x58 5 true).stale = true ∧
      (convert sampling 0 0x58 5 true).value = 0 := by decide +kernel
/-- A code at the upper end of an ADC_RANGE word. -/
theorem test_conversion_range :
    let s := setUp [(0x3400 + 4 * 0x58, 800 * 0x10000)] sampling
    (convert s 0 0x58 100 false).range = false ∧ (convert s 0 0x58 101 false).range = true := by decide +kernel

/-- Two requests that fell due together, an older one, and one still to come. -/
def lanes : State :=
  { sampling with
    clk := { sampling.clk with slot := 103 }
    adc := { sampling.adc with
      due := [⟨.current 3 0, 100⟩, ⟨.error 2 0, 100⟩, ⟨.error 1 0, 100⟩, ⟨.current 47 0, 96⟩]
      targets := [⟨.error 0 0, 0, 103 * 64⟩, ⟨.error 5 0, 0, 103 * 64 + 1⟩] } }

theorem test_lane_arbiter :
    (pickLane lanes fun _ => true).map (·.req) = some (.current 47 0) ∧
      (pickLane { lanes with adc := { lanes.adc with due := lanes.adc.due.take 3 } } fun _ => true).map (·.req) =
        some (.error 1 0) ∧ pickLane sampling (fun _ => true) = none ∧
      (pickLane lanes fun d => decide (d.due = 100)).map (·.req) = some (.error 1 0) := by decide +kernel
theorem test_conversion_slot_lane :
    let t := after (.conversionSlot 0x800 ⟨false, false, false⟩) lanes
    t.clk.slot = 104 ∧ t.adc.due.length = 4 ∧ t.adc.targets.length = 1 ∧
      t.eng.sched.map (·.req) = [.current 47 0] := by decide +kernel
theorem test_conversion_slot_regular :
    let s := { sampling with adc := { sampling.adc with reg := { sampling.adc.reg with inRound := true } } }
    freeUse s = .regular ∧ (after (.conversionSlot 5 ⟨false, false, false⟩) s).adc.taken.map (·.use) = [.regular] := by decide +kernel
theorem test_conversion_slot_injected :
    let s := { sampling with adc := { sampling.adc with inj := { sampling.adc.inj with run := true } } }
    freeUse s = .injected ∧ (after (.conversionSlot 5 ⟨false, false, false⟩) s).adc.taken.map (·.use) = [.injected] := by decide +kernel
theorem test_conversion_slot_masked :
    let s := { lanes with adc := { lanes.adc with mask := 0x80 } }
    (after (.conversionSlot 5 ⟨false, false, false⟩) s).adc.due.length = 5 ∧
    (after (.conversionSlot 5 ⟨false, false, false⟩) s).eng.sched = [] := by
  decide +kernel
theorem test_conversion_slot_idle : freeUse sampling = .none ∧
    (after (.conversionSlot 5 ⟨true, false, false⟩) sampling).clk.slot = 1 := by decide +kernel
/-- A calibration takes the slots that the loop lane leaves, and a path test those that it leaves. -/
theorem test_conversion_slot_cal :
    let run : CalRun := { ring := 0, full := false, chan := 5, k := 2, target := 0, n := 3, sum := 0, min := 0
                          max := 0, result := none }
    let p : PathRun := { ring := 0, chan := 5, inject := true, a := 0, b := 1023, nchan := 6, k := 2, atB := false
                         n := Vector.replicate 4 0, sums := Vector.replicate 4 0, settled := 0, since := 0 }
    let s := { sampling with adc := { sampling.adc with cal := some run } }
    let u := { sampling with adc := { sampling.adc with ptest := some p } }
    freeUse s = .cal ∧ (after (.conversionSlot 0x801 ⟨false, false, false⟩) s).adc.taken.map (·.chan) = [5] ∧
      freeUse u = .ptest ∧ (after (.conversionSlot 0x801 ⟨false, false, false⟩) u).adc.taken.map (·.item) = [0] := by
  decide +kernel
theorem test_loop_lane_skip :
    let t := after .loopLaneSkip { lanes with clk := { lanes.clk with slot := 104 } }
    t.adc.llSkip = 1 ∧ pending 0x51 t = true ∧ t.adc.due.length = 5 ∧
      (after .loopLaneSkip lanes).adc.llSkip = 0 := by decide +kernel
theorem test_loop_lane_skip_error :
    let s := { lanes with clk := { lanes.clk with slot := 108 }
                          adc := { lanes.adc with due := lanes.adc.due.take 3 } }
    (after .loopLaneSkip s).adc.errCount[1] = 1 ∧
      (after .loopLaneSkip { s with clk := { s.clk with slot := 107 } }).adc.llSkip = 0 := by decide +kernel

/-- The regular sequence with one entry, PACE 2 µs, and the injected one with two. -/
def sequences : State := setUp [(0x3060, 0x81), (0x3064, 3), (0x3080, 0x458), (0x3100, 0x458)] sampling

theorem test_regular_round :
    let s := { sequences with adc := { sequences.adc with reg := { sequences.adc.reg with roundAt := some 0 } } }
    let at_ := fun n => { s with clk := { s.clk with slot := n } }
    (after .regularRoundStart (at_ 512)).adc.reg.inRound = true ∧
      (after .regularRoundStart (at_ 511)).adc.reg.inRound = false := by decide +kernel
theorem test_injected_trigger :
    let s := { sequences with adc := { sequences.adc with inj := { sequences.adc.inj with trig := 3 } } }
    let t := after .injectedTrigger s
    let u := { t with adc := { t.adc with inj := { t.adc.inj with trig := 3 } } }
    t.adc.inj.run = true ∧ t.adc.inj.runs = 1 ∧ t.adc.inj.src = 3 ∧ t.adc.injDrop = 0 ∧
      (after .injectedTrigger u).adc.injDrop = 2 ∧ pending 0x52 (after .injectedTrigger u) = true := by
  decide +kernel
theorem test_adc_inject :
    let s := holding 0 (desc 0x11) sequences
    let t := after (.adcInject 0) s
    ready s 0 0x11 = some (desc 0x11) ∧ waits 0 t = true ∧ t.adc.inj.trig = 4 ∧
      t.adc.inj.rings = [0] ∧ (after (.adcInject 1) (holding 1 (desc 0x11) t)).adc.inj.rings = [0, 1] ∧
      ended (after (.adcInject 1) (holding 1 (desc 0x11) (after .injectedTrigger t))) = some (0x104, 0) ∧
      ended (after (.adcInject 0) (holding 0 (desc 0x11) live)) = some (0x105, 0) := by decide +kernel

/-- One sample gathered, of VALUE −7, outside its range. -/
def gathered : Gather := { fresh := 1, sum := -7, range := true, tdac := false, at_ := 9, pos := 2 }

/-- That sample, under way for the first entry of a sequence. -/
def under (u : FreeUse) : Taken :=
  { use := u, item := 0, chan := 0x58, slice := 2, pos := 2, stamp := 9, tdac := false, built := 18
    conv := { vs := -7, value := -7, range := true, stale := false } }

theorem test_sequence_result :
    let s := { sequences with clk := { sequences.clk with slot := 18 }
                              adc := { sequences.adc with taken := [under .regular, under .injected] } }
    let t := after (.sequenceResult false) s
    t.adc.taken.map (·.use) = [.injected] ∧ hasBit t.adc.regWritten 0 = true ∧ pending 0x53 t = true ∧
      gather [under .regular] = gathered ∧ gathered.value = -7 ∧ resultBehind s 0x58 9 = false ∧
      still (.sequenceResult false) { s with clk := { s.clk with slot := 17 } } = true := by decide +kernel
theorem test_sequence_result_injected :
    let s := { sequences with clk := { sequences.clk with slot := 18 }
                              adc := { sequences.adc with
      taken := [under .injected], inj := { sequences.adc.inj with run := true, src := 4, rings := [0], runs := 7 } } }
    let s := holding 0 (desc 0x11) s
    let last := { s with adc := { s.adc with taken := [{ under .injected with item := 1 }] } }
    (after (.sequenceResult true) s).adc.inj.run = true ∧
      ended (after (.sequenceResult true) last) = some (0, 7) ∧
      (after (.sequenceResult true) last).adc.inj.run = false := by decide +kernel
/-- A marker at the ledger stands before a result of its channels that was sampled at its boundary or after. -/
theorem test_sequence_result_boundary :
    let m := fun b : Nat => { markerOf .setup 7 .internal none [.ldg] [] with bstamp := some b }
    let at_ := fun b => { sequences with clk := { sequences.clk with slot := 18 }
                                         fab := { sequences.fab with markers := [m b] }
                                         adc := { sequences.adc with taken := [under .regular] } }
    resultBehind (at_ 9) 0x58 9 = true ∧ (after (.sequenceResult false) (at_ 9)).adc.taken.length = 1 ∧
      (after (.sequenceResult false) (at_ 10)).adc.taken = [] := by decide +kernel
/-- No fresh sample: the result is stale, and only RCHK's event follows. -/
theorem test_sequence_result_stale :
    let g : Gather := { gathered with fresh := 0 }
    pending 0x53 (afterEntry g 0x58 true true live) = true ∧ (afterEntry g 0x58 false true live).flt = live.flt := by
  decide +kernel

theorem test_cal_zero :
    let s := holding 0 (desc 0x12 0x805) sampling
    let t := after (.calZero 0) s
    ready s 0 0x12 = some (desc 0x12 0x805) ∧ waits 0 t = true ∧ t.adc.cal.map (·.k) = some 8 ∧
      t.ldg.books.length = 1 ∧ ended (after (.calZero 1) (holding 1 (desc 0x12 0x805) t)) = some (0x104, 0) := by
  decide +kernel
theorem test_cal_zero_refused :
    let try_ := fun (p : Nat) (s : State) => ended (after (.calZero 0) (holding 0 (desc 0x12 p) s))
    try_ 0x68 sampling = some (0x102, 0) ∧ try_ 0x61 sampling = some (0x107, 0) ∧
      try_ 0x63 sampling = some (0x107, 0) ∧ try_ 0x67 sampling = none ∧
      try_ 0x30 (setUp [(0x3020, 0x800000)] (sampling.upEngRail 0 fun e => { e with mode := .digital })) =
        some (0x105, 0) ∧
      try_ 5 { sampling with ldg := { sampling.ldg with src := .spent } } = some (0x106, 0) := by decide +kernel
theorem test_cal_full :
    let s := { sampling with adc := { sampling.adc with m0 := vput sampling.adc.m0 5 (some 37) } }
    let t := after (.calFull 0) (holding 0 (desc 0x13 0x805) s)
    waits 0 t = true ∧ t.adc.cal.map (·.full) = some true ∧
      ended (after (.calFull 0) (holding 0 (desc 0x13 0x806) s)) = some (0x105, 0) := by decide +kernel

/-- The measurement of R77's worked example: m0 = 37, m1 = 29 812 and T = 30 030. -/
def measured (full : Bool) (m1 : Int) (t : Int) (spread : Int) : State :=
  let run : CalRun := { ring := 0, full := full, chan := 5, k := 0, target := BitVec.ofInt 16 t, n := 1
                        sum := m1, min := m1, max := m1 + spread, result := none }
  let s := holding 0 (desc 0x13 5) sampling
  { s with adc := { s.adc with cal := some run, m0 := vput s.adc.m0 5 (some 37) } }

theorem test_cal_full_example :
    let t := after .calMeasurementDone (measured true 29812 30030 256)
    t.adc.cal.map (·.result) = some (some (37, 33049)) ∧ t.nvm.queue.length = 1 := by decide +kernel
theorem test_cal_ends :
    let end_ := fun s => ended (after .calMeasurementDone s)
    end_ (measured true 29812 30030 257) = some (0x110, 0) ∧ end_ (measured false 29812 0 257) = some (0x110, 0) ∧
      end_ (measured true 4132 4132 0) = some (0x103, 0) ∧ end_ (measured true 29812 (-30030) 0) = some (0x103, 0) ∧
      end_ (measured true 29812 20000 0) = some (0x102, 0) ∧
      end_ (measured false (-5) 0 256) = some (0, 0xFFFB) := by decide +kernel

theorem test_path_test :
    let d := desc 0x14 (0x05 + 0x80 + 3 * 0x40000 + 6 * 0x10000000)
    let s := holding 0 d sampling
    let t := after (.adcPathTest 0) s
    ready s 0 0x14 = some d ∧ waits 0 t = true ∧ t.adc.ptest.map (·.settled) = some 512 ∧
      ended (after (.adcPathTest 1) (holding 1 d t)) = some (0x104, 0) ∧
      ended (after (.adcPathTest 0) (holding 0 (desc 0x14 0x63) sampling)) = some (0x102, 0) ∧
      ended (after (.adcPathTest 0) (holding 0 (desc 0x14 (0x30 + 480 * 0x100 + 545 * 0x40000)) sampling)) =
        some (0x102, 0) := by decide +kernel
theorem test_path_test_lane :
    let s := setUp [(0x3020, 0x800400), (0x5100, 8)] (sampling.upEngRail 0 fun e => { e with mode := .digital })
    let r := s.upPhase 0 fun p => { p with state := .racked }
    ended (after (.adcPathTest 0) (holding 0 (desc 0x14 0) s)) = some (0x105, 0) ∧
      waits 0 (after (.adcPathTest 0) (holding 0 (desc 0x14 0) r)) = true := by decide +kernel

/-- A test on channel 0x58 at the codes 0 and 512 that measured a step of 8192. -/
def pathDone (a b : BitVec 10) (step : Int) : State :=
  let p : PathRun := { ring := 0, chan := 0x58, inject := false, a := a, b := b, nchan := 0x5A, k := 0, atB := true
                       n := Vector.replicate 4 1, sums := Vector.ofFn fun i => if i.val = 2 then step else 0, settled := 0
                       since := 0 }
  let s := holding 0 (desc 0x14 0x58) sampling
  { s with adc := { s.adc with ptest := some p } }

theorem test_path_test_done :
    let t := after .pathTestDone (pathDone 0 512 16384)
    let u := after .pathTestDone (pathDone 0 512 16000)
    t.adc.pt.verdict = 1 ∧ pending 0x54 t = false ∧ u.adc.pt.verdict = 8 ∧ pending 0x54 u = true ∧
      ended t = some (0, 16384 * 65536 + 2 ^ 32) := by decide +kernel
/-- Equal codes: the step ratio is a free value. -/
theorem test_path_test_equal_codes :
    (pathDone 512 512 0).adc.ptest.map (·.full) = some true ∧
      expectedAt (pathDone 512 512 0).cfg 0x58 512 = expectedAt (pathDone 512 512 0).cfg 0x58 512 := by
  decide +kernel
theorem test_path_verdict :
    verdict true (9 / 10) true true = 2 ∧ verdict true (12 / 100) true true = 1 ∧
      verdict false (99 / 100) false false = 1 ∧ verdict false (1 / 3) true true = 0x38 := by decide +kernel

theorem test_slice_admit :
    let s := holding 0 (desc 0x15 16) (sampling.upSlice 16 fun a => { a with state := .failed })
    let t := after (.sliceAdmit 0) s
    ready s 0 0x15 = some (desc 0x15 16) ∧ waits 0 t = true ∧ t.adc.slices[16].state = .pitching ∧
      ended (after (.sliceAdmit 1) (holding 1 (desc 0x15 16) t)) = some (0x104, 0) := by decide +kernel
theorem test_slice_admit_others :
    let try_ := fun (p : Nat) (s : State) => ended (after (.sliceAdmit 0) (holding 0 (desc 0x15 p) s))
    try_ 17 sampling = some (0x102, 0) ∧ try_ 16 sampling = some (0, 0) ∧ try_ 0 sampling = some (0, 0) ∧
      try_ 0 live = some (0x105, 0) := by decide +kernel

/-- Readings of the test DAC and the internal reference by an exact slice, and by one that reads nothing. -/
def exactCal : AbsCal :=
  { sum0 := 128 * 4 * 8192 * 8, sum1 := 384 * 4 * 8192 * 8, sum2 := 640 * 4 * 8192 * 8
    sum3 := 896 * 4 * 8192 * 8, ref63 := 16380 }
def deadCal : AbsCal := { sum0 := 0, sum1 := 0, sum2 := 0, sum3 := 0, ref63 := 0 }
def touring (w : Fin 17) (done : Bool) : State :=
  { sampling with clk := { sampling.clk with slot := 600000 }, adc := { sampling.adc with
      tour := some { slice := 16, calDone := done, windows := w, missed := 0, startSlot := 0, lastOn := none, claimed := none } } }

theorem test_absolute_calibration :
    (absResult sampling.adc.ccal[0x63] exactCal).isSome = true ∧
      (after (.steepAbsoluteCalibrationDone 16 exactCal) (touring 0 false)).adc.tour.map (·.calDone) = some true ∧
      absResult sampling.adc.ccal[0x63] deadCal = none ∧
      (after (.steepAbsoluteCalibrationDone 16 deadCal) (touring 0 false)).adc.slices[16].state = .failed := by
  decide +kernel
theorem test_shadow_window :
    let pairs : List ShadowPair := [{ service := 8, steep := 0, slope := 0 }]
    let t := after (.shadowWindowEnd ⟨16, pairs⟩) (touring 15 true)
    beyond sampling.adc.slices[15] (estimate 1 pairs) = false ∧ t.adc.tour.map (·.windows) = some 16 ∧
      t.adc.slices[15].ofs = 2 := by decide +kernel
theorem test_rotation :
    let s := { touring 16 true with regs := { live.regs with live := [(0x3000, 0xFA2)] } }
    let at_ := fun n => { s with
      clk := { s.clk with slot := n }
      adc := { s.adc with tour := s.adc.tour.map fun t => { t with lastOn := some 0 } } }
    let t := after .rotation (at_ 256000000)
    s.cfg.roten = true ∧ oldestPos s = some 0 ∧ t.adc.tour.map (·.claimed) = some (some 0) ∧
      t.fab.markers.map (·.tag) = [0xFFFF] ∧ t.fab.markers.map (·.bstamp) = [some 256000016] ∧
      (after .rotation (at_ 255999999)).fab.markers = [] := by decide +kernel
theorem test_slice_fail :
    let s := sampling.upSlice 3 fun a => { a with mon := 0xF }
    (after (.sliceFail 3) s).adc.slices[3].state = .failed ∧ pending 0x50 (after (.sliceFail 3) s) = true ∧
      (after (.sliceFail 3) (sampling.upSlice 3 fun a => { a with mon := 7 })).adc.slices[3].state = .service := by
  decide +kernel

/-! ## The fabric and the control engine -/

/-- A record as the lane sends it: stamp, channel and VALUE, with its RANGE and STALE bits (R18, R19). -/
def record (chan stamp : Nat) (value : Int) (range stale : Bool) : BitVec 64 :=
  BitVec.ofNat 64 (stamp * 2 ^ 32 + chan * 2 ^ 16 + (BitVec.ofInt 16 value).toNat +
    (if range then 2 ^ 29 else 0) + (if stale then 2 ^ 30 else 0))

/-- A packet header of a kind with a SEQ, and a payload of two words. -/
def header (kind seq : Nat) (len : Nat := 2) : Word := BitVec.ofNat 32 (seq * 2 ^ 22 + len * 2 ^ 18 + kind * 2 ^ 14)

theorem test_packet_order :
    let at_ := fun w s => hear .pwm 1 anyLen w s
    let s := (at_ (header 1 1023) live).1
    (at_ (header 1 1023) live).2 = .inOrder ∧ (at_ (header 1 0) s).2 = .inOrder ∧
      (at_ (header 1 1) s).2 = .missing 1 ∧ (at_ (header 1 1023) s).2 = .repeated ∧
      (at_ (header 1 510) s).2 = .missing 510 ∧ (at_ (header 1 511) s).2 = .repeated ∧
      (at_ (header 2 0) s).2 = .refused ∧ (at_ (header 1 0 3) s).2 = .refused ∧
      (at_ (header 1 1) s).1.fab.seqErr = 1 := by
  decide +kernel

/-- R98's worked example: C = 6 000 000 and S = 16 on 218 counts. -/
theorem test_gain_example : (gain 0x0B71B010 218).val = 19958 ∧ (gain 0x0B71B010 218).ovf = false := by
  decide +kernel
theorem test_gain_saturates : (gain 0x7FFFFFE0 (2 ^ 31 - 1)).val = 2 ^ 31 - 1 ∧
    (gain 0x80000000 (2 ^ 31 - 1)).val = -(2 ^ 31) ∧ (gain 0x21 (-1)).val = 0 ∧
    (Sat.sum [Sat.of (2 ^ 31 - 1), Sat.of 1, Sat.of (-1)]).val = 2 ^ 31 - 2 := by decide +kernel

/-- A record that the array sent in slot 100, and that has crossed the fabric. -/
def sent (req : LaneReq) (chan : Nat) (rec_ : BitVec 64) : Expected :=
  { req := req, chan := BitVec.ofNat 7 chan, stamp := 100, inactive := false, slice := 4, rec_ := rec_
    built := 109, arrives := 111 }

/-- Rail 0 regulates in DIGITAL on pair 0 with one active phase, phase 0; an error sample and a current
sample of slot 100 are on their way. -/
def driving : State :=
  let s := setUp [(0x4020, 0x120806E), (0x5100, 8)] live
  let s := { s with
    clk := { s.clk with slot := 111, rc := 111 }
    eng := { s.eng with
      sched := [sent (.error 0 0) 0x30 (record 0x30 100 9 false false),
        sent (.current 0 0) 0 (record 0 100 9 false false)] } }
  let s := s.upEngRail 0 fun e => { e with
    mode := .digital, enabled := true, bankA := vput (vput e.bankA 27 0x1000) 26 100 }
  (s.upPwmRail 0 fun w => { w with opmode := .full, act := 1, actNext := 1 }).upPhase 0 fun p =>
    { p with state := .active, drive := .low }

/-- The records on their way in driving are these. -/
def records (error current : BitVec 64) (s : State) : State :=
  s.upEng fun e => { e with sched := [sent (.error 0 0) 0x30 error, sent (.current 0 0) 0 current] }

theorem test_error_sample :
    let t := after (.errorSample 0 (header 0 5) .sent) { driving with fb := vmod driving.fb 0 fun f => { f with stale := 3 } }
    worksOn driving 0 = some 0 ∧ onActive driving.fb[0] true = true ∧ t.fb[0].stale = 0 ∧
      t.eng.dutyQ.length = 1 ∧ t.fb[0].remote.last.map (·.value) = some 9 ∧
      worksOn live 1 = some 0 := by decide +kernel
theorem test_error_sample_stale :
    (after (.errorSample 0 (header 0 5) .sent) (records (record 0x30 100 0 false true) 0 driving)).fb[0].stale = 1 ∧
      (after (.errorSample 0 (header 0 5) (.garbled 0x31 100)) driving).fb[0].stale = 1 ∧
      (after (.errorSample 0 (header 0 5) .sent) { driving with clk := { driving.clk with slot := 113 } }).fb[0].stale = 1 ∧
      pending 0x64 (after (.errorSample 0 (header 1 5) .sent) driving) = true := by
  decide +kernel
theorem test_error_sample_no_pair :
    let s := driving.upPair 0 fun p => { p with failed := true }
    worksOn s 0 = none ∧ still (.errorSample 0 0 .sent) s = true ∧
      still (.errorSample 0 (header 0 5) .sent) { driving with clk := { driving.clk with slot := 110 } } = true := by
  decide +kernel
/-- A marker for the rail with BSTAMP 100 stands before the record of slot 100, which waits; the one with BSTAMP
101 stands behind it. A current packet that follows in SEQ takes its record; one that leaves a gap of one takes the
record after. -/
theorem test_error_sample_boundary :
    let m := fun b : Nat => { markerOf .bankSwap 7 .internal none [.rail 0] [.swapBanks] with bstamp := some b }
    let at_ := fun b => { driving with fab := { driving.fab with markers := [m b] } }
    let gap := after (.errorSample 0 (header 0 5) .sent) (records (record 0x30 100 0 false true) 0 driving)
    still (.errorSample 0 (header 0 5) .sent) (at_ 100) = true ∧
      (after (.errorSample 0 (header 0 5) .sent) (at_ 101)).eng.sched.length = 1 ∧
      gap.eng.sched.length = 1 ∧ (after (.currentSample 0 (header 0 6) .sent) gap).eng.sched = [] ∧
      (after (.currentSample 0 (header 0 7) .sent)
        (gap.upEng fun e => { e with sched := e.sched ++ [sent (.current 0 1) 0 (record 0 100 4 false false)] })).eng.sched = [] := by
  decide +kernel
theorem test_control_law :
    let t := runLaw 0 0 100 true driving
    t.eng.dutyQ.map (·.rail) = [0] ∧ t.fb[0].heads = 1 ∧ t.eng.rails[0].refPrev ≠ none ∧
      hasBit (engActive driving 0) 0 = true := by decide +kernel

/-- A SEQ one further on than the next makes the rail's first record stale and takes the second. -/
theorem test_error_sample_gap :
    let two := driving.upEng fun e => { e with sched := [sent (.error 0 0) 0x30 (record 0x30 100 9 false false),
      sent (.error 0 1) 0x30 (record 0x30 100 8 false false)] }
    let one := (hear (pairSeat 0) 0 (fun _ => true) (header 0 4) two).1
    let t := after (.errorSample 0 (header 0 6) .sent) one
    t.eng.sched = [] ∧ t.fb[0].stale = 0 ∧ t.fb[0].heads = 1 ∧ pending 0x64 t = true := by decide +kernel

theorem test_current_sample :
    let t := after (.currentSample 0 (header 0 5) .sent) driving
    t.pwm.phases[0].cur = some 9 ∧ t.eng.sched.length = 1 ∧
      (after (.currentSample 0 (header 0 5) .sent) (records 0 (record 0 100 0 false true) driving)).pwm.phases[0].cur =
        none ∧
      pending 0x64 (after (.currentSample 0 (header 1 5) .sent) driving) = true := by decide +kernel
theorem test_current_sample_pitching :
    let s := driving.upPhase 0 fun p => { p with state := .pitching, zCount := 255 }
    let t := after (.currentSample 0 (header 0 5) .sent) s
    let i := driving.upPhase 0 fun p => { p with state := .idle }
    railOff s 0 = false ∧ t.pwm.phases[0].zCount = 256 ∧ t.pwm.phases[0].zSum = 9 ∧
      (after (.currentSample 0 (header 0 5) .sent) i).pwm.phases[0].cur = some 9 := by
  decide +kernel

/-- The plausibility check racks at PLCNT fresh samples in a row too far from the target (R157). -/
theorem test_current_sample_plausible :
    let s := { driving with
      regs := { driving.regs with live := setWord (setWord driving.regs.live 0x5100 0x1008) 0x5314 0x210 } }
    let s := s.upPhase 0 fun p => { p with periods := 64, iTgt := 1000000, implausible := 1 }
    s.cfg.plen 0 = true ∧ s.cfg.plcnt 0 = 2 ∧ (plausible 0 9 s).pwm.phases[0].rkcause = 2 ∧
      (plausible 0 1000000 s).pwm.phases[0].implausible = 0 := by decide +kernel

theorem test_vbus_stale :
    let s := { driving with clk := { driving.clk with slot := 256000 } }
    let late := after (.vbusStale 0) s
    driving.cfg.ffv 0 = true ∧ railOff driving 0 = false ∧ pending 0x65 late = true ∧
      still (.vbusStale 0) late = true ∧ still (.vbusStale 0) driving = true := by decide +kernel

/-- A forecast of +10 A of the rail whose instant came two periods ago, taken at 5 A. -/
def foreseen (sumAt : Int) (past : Nat) : State :=
  let s := { driving with clk := { driving.clk with slot := 1000000 } }
  s.upEngRail 0 fun e => { e with
    fcConsec := past
    fcs := [{ dI := 10000, tAcc := 0, tStart := 0, tF := 0, level := 0, sumAt := sumAt }] }

theorem test_forecast_miss_check :
    let hit := after (.forecastMissCheck 0) (foreseen (-5000) 0)
    let miss := after (.forecastMissCheck 0) (foreseen (-4999) 0)
    let third := after (.forecastMissCheck 0) (foreseen 0 3)
    hit.eng.rails[0].fcMissc = 0 ∧ hit.eng.rails[0].fcs = [] ∧ miss.eng.rails[0].fcMissc = 1 ∧
      pending 0x63 miss = true ∧ driving.cfg.fcmiss = 4 ∧ third.eng.rails[0].fcsusp = true ∧
      still (.forecastMissCheck 0) driving = true := by decide +kernel
theorem test_forecast_suspend_end :
    let s := driving.upEngRail 0 fun e => { e with fcsusp := true, fcConsec := 4 }
    (after (.forecastSuspendEnd 0) s).eng.rails[0].fcsusp = false ∧
      still (.forecastSuspendEnd 0) driving = true := by decide +kernel

theorem test_checkpoint :
    let t := after (.checkpoint 0 [some (header 5 3 15), some (header 5 4 3)] 0) driving
    let u := after (.checkpoint 0 [some (header 5 5 15), some (header 5 6 3)] 1)
      { t with tmr := { t.tmr with now := 64000 } }
    driving.cfg.ckpen = true ∧ pairRuns driving 0 = true ∧ railsServed driving 0 = [0] ∧
      t.eng.rails[0].ckA.isSome = true ∧ t.eng.rails[0].ckNext = 1 ∧ u.eng.rails[0].ckB = none ∧
      pending 0x62 u = true ∧ pending 0x64 (after (.checkpoint 0 [some 0, some 0] 0) driving) = true ∧
      still (.checkpoint 0 [some (header 5 5 15), some (header 5 6 3)] 0) t = true := by decide +kernel
/-- No heel loop is enabled: the mismatch is a class A condition. -/
theorem test_lockstep_class_a :
    let t := after (.lockstepMismatch 0 21) driving
    heelAvail driving 0 = false ∧ regulating driving 0 = true ∧ t.flt.classA = true ∧ pending 0x60 t = true ∧
      t.eng.pairs[0].mismatches = 1 := by decide +kernel

/-- The same rail with its heel loop enabled, and its checkpoint taken. -/
def heeled : State :=
  let s := { driving with regs := { driving.regs with
    live := setWords driving.regs.live [(0x5800, 0x1001001 + 0x400000), (0x5804, 0x1414)] } }
  after (.checkpoint 0 [some (header 5 3 15), some (header 5 4 3)] 0) (s.upWin 56 fun w => { w with low := false, high := false })

theorem test_lockstep_heel :
    let t := after (.lockstepMismatch 0 0) heeled
    heelAvail heeled 0 = true ∧ t.eng.pairs[0].recov = true ∧ t.eng.rails[0].mode = .heel ∧
      t.fb[0].hcause = 1 ∧ t.eng.sched = [] ∧ t.flt.classA = false := by decide +kernel
/-- BLIND stale records in a row pass the rail to its heel loop for cause 2. -/
theorem test_error_sample_blind :
    let s := { heeled with regs := { heeled.regs with live := setWord heeled.regs.live 0x5808 0x1FFFFFF } }
    let t := after (.errorSample 0 (header 0 5) .sent) (records (record 0x30 100 0 false true) 0 s)
    s.cfg.blind 0 = 1 ∧ t.fb[0].hact = true ∧ t.fb[0].hcause = 2 ∧ t.eng.rails[0].mode = .heel := by
  decide +kernel
theorem test_lockstep_failed :
    let s := { heeled with regs := { heeled.regs with live := setWord heeled.regs.live 0x4000 0x1401 } }
    (after (.lockstepMismatch 0 0) s).eng.pairs[0].failed = true := by decide +kernel
theorem test_lane_pair_restore :
    let s := after (.lockstepMismatch 0 0) heeled
    let t := after (.lanePairRestore 0 true) s
    (newestCkpt s.eng.rails[0]).isSome = true ∧ t.eng.pairs[0].recov = false ∧ t.eng.rails[0].mode = .track ∧
      (after (.lanePairRestore 0 false) s).eng.pairs[0].failed = true := by decide +kernel
theorem test_track_end :
    let s := (after (.lanePairRestore 0 true) (after (.lockstepMismatch 0 0) heeled)).upEngRail 0 fun e =>
      { e with track := 64 }
    let t := after (.trackEnd 0) s
    t.eng.rails[0].mode = .digital ∧ t.fb[0].hact = false ∧ t.pwm.rails[0].act = 1 ∧
      still (.trackEnd 0) (s.upEngRail 0 fun e => { e with track := 63 }) = true := by decide +kernel

/-! ## The heel loop and the phases -/

/-- Rail 0 carried by its heel loop, its window below the valley. -/
def carried : State :=
  (passToHeel 0 2 heeled).upWin 56 fun w => { w with low := true }

theorem test_heel_entry :
    let t := passToHeel 0 5 heeled
    heeled.cfg.hen 0 = true ∧ heeled.fb[0].hact = false ∧ heeled.eng.rails[0].mode ≠ .off ∧
      t.fb[0].hcause = 5 ∧ t.fb[0].hent = 1 ∧ t.eng.rails[0].mode = .heel ∧ pending 0x67 t = true := by
  decide +kernel
/-- A rail in TRACK goes back to HEEL; one in HEEL that loses both paths takes cause 3. -/
theorem test_heel_again :
    let s := (passToHeel 0 1 heeled).upEngRail 0 fun e => { e with mode := .track }
    let t := passToHeel 0 2 s
    let u := passToHeel 0 3 t
    t.eng.rails[0].mode = .heel ∧ t.fb[0].hcause = 2 ∧ t.fb[0].hent = 2 ∧ u.fb[0].hcause = 3 ∧
      u.fb[0].path = .comparator ∧ (passToHeel 0 2 u).fb[0].hcause = 3 := by decide +kernel
theorem test_heel_blank :
    let t := after (.heelBlankExpiry 0) carried
    (rotation carried 0).find? (fun e => !carried.fb[0].firing.contains e.2 && restedFor carried 0 e.2) =
        some (0, 0) ∧ t.fb[0].firing = [0] ∧
      t.pwm.phases[0].pulse = some { onAt := 7104, offAt := 7104 + 128 * carried.cfg.hton 0, again := none } ∧
      still (.heelBlankExpiry 0) heeled = true := by decide +kernel
theorem test_heel_on_time :
    let s := after (.heelBlankExpiry 0) carried
    let one := after (.heelOnTimeEnd 0 0 false) s
    let two := after (.heelOnTimeEnd 0 0 false) { s with fb := vmod s.fb 0 fun f => { f with badPulses := 1 } }
    one.fb[0].badPulses = 1 ∧ one.fb[0].hact = true ∧ two.fb[0].hact = false ∧ two.fb[0].path = .none ∧
      pending 0x66 two = true ∧ (after (.heelOnTimeEnd 0 0 true) one).fb[0].badPulses = 1 := by decide +kernel
theorem test_heel_stall :
    let c := carried.upWin 56 fun w => { w with low := false, high := true }
    (after (.heelStall 0 false) carried).fb[0].path = .none ∧ pending 0x66 (after (.heelStall 0 false) carried) = true ∧
      (after (.heelStall 0 true) c).eng.rails[0].enabled = false := by decide +kernel
theorem test_heel_test_pulse :
    let one := after (.heelTestPulse 0 false) heeled
    let next := { one with tmr := { one.tmr with now := 64000 } }
    let two := after (.heelTestPulse 0 false) next
    domOn heeled pdPwm = true ∧ pending 0x66 one = false ∧ heelAvail one 0 = true ∧ heelAvail two 0 = false ∧
      pending 0x66 two = true ∧ (after (.heelTestPulse 0 true) next).fb[0].badPulses = 0 ∧
      (after (.heelTestPulse 0 true) one).fb[0].badPulses = 1 := by decide +kernel

/-- The header of a DUTY packet of rail 0 with one word (R14, R17). -/
def dutyHeader (kind seq : Nat) : Word := header kind seq 1 ||| 0x1000

/-- A DUTY packet of rail 0 on its way, with these 16 bits at position 0. -/
def commanded (bits : Word) : State :=
  let s := { driving with eng := { driving.eng with
    dutyQ := [{ rail := 0, stamp := 100, second := false, words := [bits], lost := false }] } }
  s.upPhase 0 fun p => { p with periods := 1 }

theorem test_duty :
    let run := fun bits => after (.duty 0 ⟨some (dutyHeader 8 1), none⟩) (commanded bits)
    let t := run 0xFFFF
    t.eng.dutyQ = [] ∧ t.pwm.phases[0].cmd = .on ∧ t.pwm.phases[0].drive = .pulses ∧
      (t.pwm.phases[0].pulse.any fun u => u.again.isSome) = true ∧
      (run 0xFFFE).pwm.phases[0].drive = .mid ∧ (run 0xFFFD).pwm.phases[0].cmd = .time 0xFFFD ∧
      (after (.duty 0 ⟨none, none⟩) (commanded 5)).eng.dutyQ.map (·.lost) = [true] := by
  decide +kernel
theorem test_duty_not_taken :
    pending 0x30 (after (.duty 0 ⟨some (dutyHeader 7 1), none⟩) (commanded 5)) = true ∧
      (after (.duty 0 ⟨some (dutyHeader 8 1), none⟩) driving).eng.dutyQ = [] ∧
      (after (.duty 0 ⟨some (dutyHeader 8 1), none⟩)
        { commanded 5 with fb := vmod driving.fb 0 fun f => { f with hact := true } }).pwm.phases[0].cmd =
        driving.pwm.phases[0].cmd := by decide +kernel

/-- s with these live words changed. -/
def rewire (ws : List (Nat × Word)) (s : State) : State :=
  { s with regs := { s.regs with live := setWords s.regs.live ws } }

/-- A DUTY packet waits behind a phase-plan marker that the PWM subsystem has still to take. -/
theorem test_duty_behind :
    let m := fun b : Nat => { markerOf .phasePlan 7 .internal none [.pwm] [] with bstamp := some b }
    let at_ := fun b => { commanded 5 with fab := { driving.fab with markers := [m b] } }
    (after (.duty 0 ⟨some (dutyHeader 8 1), none⟩) (at_ 100)).eng.dutyQ.length = 1 ∧
      (after (.duty 0 ⟨some (dutyHeader 8 1), none⟩) (at_ 101)).eng.dutyQ = [] := by decide +kernel
/-- A sample of 31 positions comes in two packets: position 30 stands in the second. -/
theorem test_duty_two_packets :
    let pkt := fun second words => ({ rail := 0, stamp := 100, second := second, words := words, lost := false } : DutyPkt)
    let s := { driving with eng := { driving.eng with dutyQ := [pkt false (List.replicate 15 5), pkt true [7]] } }
    let t := after (.duty 0 ⟨some (header 8 1 15 ||| 0x1000), some (header 8 2 1 ||| 0x1000)⟩) s
    t.eng.dutyQ = [] ∧ t.pwm.phases[0].cmd = .time 5 ∧ t.fab.seqErr = 0 := by decide +kernel

/-- Phase 0 at the end of a carrier period of 840 ticks of its rail. -/
def periodic : State :=
  let s := { driving with regs := { driving.regs with
    live := setWords driving.regs.live [(0x5300, 840 * 0x10000 + 1), (0x6100, 0x13FF0800)] } }
  let s := s.upPhase 0 fun p => { p with carrAt := 0, carrLen := 6720, cmd := .time 1000, trips := 0 }
  s.upWin 0 fun w => { w with low := false, high := false, latch := true }

theorem test_carrier_period :
    let t := after (.carrierPeriodStart 0) periodic
    domOn periodic pdPwm = true ∧ periodic.cfg.role 0 ≠ 0 ∧ t.pwm.phases[0].carrAt = 6720 ∧
      t.pwm.phases[0].periods = 1 ∧ t.pwm.phases[0].drive = .pulses ∧ t.cmp.win[0].latch = false := by
  decide +kernel
theorem test_carrier_period_trips :
    let s := periodic.upPhase 0 fun p => { p with tripped := true, trips := 0x4000, midNext := true }
    let t := after (.carrierPeriodStart 0) s
    t.pwm.phases[0].trips = 0x8001 ∧ t.pwm.phases[0].drive = .mid := by decide +kernel
theorem test_carrier_period_unused :
    let s := live.upWin 0 fun w => { w with low := false, high := false, latch := true }
    live.cfg.role 47 = 0 ∧ live.cfg.lmode 0 = true ∧ (after (.carrierPeriodStart 0) s).cmp.win[0].latch = false := by
  decide +kernel

/-- Phase 0 pitched on a rail that is off has its current asked for. -/
theorem test_carrier_period_pitched :
    let s := (rewire [(0x4020, 0x120846E), (0x3020, 0x800400)] periodic).upPhase 0 fun p => { p with state := .pitching }
    let s := s.upPwmRail 0 fun w => { w with opmode := .off }
    let t := after (.carrierPeriodStart 0) s
    t.adc.targets.map (·.req) = [.current 0 0] ∧ t.pwm.phases[0].carrAt = 6720 := by decide +kernel

/-- Phase 1 of rail 0 is idle, with stage faults enabled. -/
def idling : State :=
  let s := { driving with regs := { driving.regs with live := setWord driving.regs.live 0x5104 0x828 } }
  s.upPhase 1 fun p => { p with state := .idle }

theorem test_stage_fault :
    let t := after (.stageFault 1) idling
    idling.cfg.stfen 1 = true ∧ t.pwm.phases[1].state = .racked ∧ t.pwm.phases[1].rkcause = 3 ∧
      t.pwm.phases[1].drive = .mid ∧ pending 1 t = true ∧
      still (.stageFault 0) idling = true := by decide +kernel
theorem test_stage_fault_pitching :
    (after (.stageFault 1) (idling.upPhase 1 fun p => { p with state := .pitching })).pwm.phases[1].zFault =
      true := by decide +kernel

/-- An ACTIVE phase racked in the first and in the second half of its period, without a steep phase: what it carried
is lost, to fall from its second period on. -/
theorem test_stage_fault_active :
    let s := { driving with
      regs := { driving.regs with live := setWords driving.regs.live [(0x5100, 0x808), (0x5314, 0x2010), (0x5300, 840 * 0x10000 + 1)] } }
    let s := s.upPhase 0 fun p => { p with cur := some 100, carrAt := stepNow s }
    let late := s.upPhase 0 fun p => { p with carrAt := stepNow s - 4000 }
    let t := after (.stageFault 0) s
    t.pwm.phases[0].state = .racked ∧ t.pwm.phases[0].drive = .mid ∧ t.pwm.rails[0].loss.map (·.wait) = [some 2] ∧
      (after (.stageFault 0) late).pwm.phases[0].midNext = true ∧ freeSteep s 0 = [] ∧ pending 0 t = true := by
  decide +kernel

/-- Phase 1 racked, the rail in DIGITAL. -/
def racked : State := idling.upPhase 1 fun p => { p with state := .racked }

theorem test_phase_admit :
    let s := holding 0 (desc 0x29 1) racked
    let t := after (.phaseAdmit 0 false) s
    ready s 0 0x29 = some (desc 0x29 1) ∧ waits 0 t = true ∧ t.pwm.phases[1].state = .pitching ∧
      ended (after (.phaseAdmit 1 false) (holding 1 (desc 0x29 1) (t.upPhase 1 fun p => { p with state := .racked }))) =
        some (0x104, 0) := by decide +kernel
theorem test_phase_admit_refused :
    let try_ := fun (p : Nat) (high : Bool) (s : State) =>
      ended (after (.phaseAdmit 0 high) (holding 0 (desc 0x29 p) s))
    try_ 48 false racked = some (0x102, 0) ∧ try_ 47 false racked = some (0x105, 0) ∧
      try_ 1 true racked = some (0x105, 0) ∧
      try_ 1 false (racked.upEngRail 0 fun e => { e with mode := .track }) = some (0x105, 0) := by decide +kernel

/-- Phase 1 with its 256 offset samples. -/
def pitched (sum : Int) (fault : Bool) : State :=
  (after (.phaseAdmit 0 false) (holding 0 (desc 0x29 1)
      (racked.upEngRail 0 fun e => { e with mode := .off }))).upPhase 1 fun p =>
    { p with zCount := 256, zSum := sum, zFault := fault }

theorem test_phase_admit_offset :
    let t := after (.phaseAdmitOffsetDone 1) (pitched 1152 false)
    driving.cfg.pzmax = 64 ∧ t.pwm.phases[1].zofs = 5 ∧ t.pwm.phases[1].state = .idle ∧
      ended t = some (0, 5) ∧ ended (after (.phaseAdmitOffsetDone 1) (pitched (65 * 256) false)) = some (0x113, 0) ∧
      ended (after (.phaseAdmitOffsetDone 1) (pitched 0 true)) = some (0x113, 0) := by decide +kernel
theorem test_phase_admit_ramp :
    let s := (after (.phaseAdmit 0 false) (holding 0 (desc 0x29 1) racked)).upPhase 1 fun p =>
      { p with zofs := 5, weight := 64, ramp := true, state := .idle }
    let s := s.upPwmRail 0 fun w => { w with admission := some { ring := 0, phase := 1, ramping := true } }
    substituteOf s 1 = none ∧ ended (after (.phaseAdmitRampEnd 1) s) = some (0, 5) ∧
      (after (.phaseAdmitRampEnd 1) s).pwm.phases[1].ramp = false := by decide +kernel

/-! ## The comparators -/

/-- A window whose output is good. -/
def good (w : Window) (s : State) : State := s.upWin w fun x => { x with low := false, high := false }

theorem test_comparator :
    let s := good 79 (setUp [(0x6100 + 4 * 79, 0x20000000), (0x3068, 0xCF), (0x3064, 1)] live)
    let t := after (.comparatorTransition 79 true true) s
    s.cfg.trigWin = 79 ∧ t.cmp.win[79].high = true ∧ t.cmp.win[79].latch = true ∧ t.adc.inj.trig = 1 ∧
      still (.comparatorTransition 79 true false) s = true := by decide +kernel
/-- W74 is the monitor of VCC33 (R496). -/
theorem test_comparator_monitor :
    let s := good 74 live
    pending 0x7D (after (.comparatorTransition 74 false true) s) = true ∧
      pending 0x7D (after (.comparatorTransition 73 false true) (good 73 live)) = false := by decide +kernel
/-- Event 0x57 under EVEN, and its window of 1 ms. -/
theorem test_comparator_event :
    let s := good 0 (setUp [(0x6100, 0x33FF0800)] live)
    let t := after (.comparatorTransition 0 false true) s
    s.cfg.even 0 = true ∧ pending 0x57 t = true ∧ windowClosed 0x57 0 0 t = false := by decide +kernel
theorem test_comparator_phase :
    let s := good 0 (periodic.upPhase 0 fun p =>
      { p with drive := .pulses, pulse := some { onAt := 7103, offAt := 9000, again := none } })
    let i := good 0 (periodic.upPhase 0 fun p => { p with drive := .low, pulse := none })
    (after (.comparatorTransition 0 true true) s).pwm.phases[0].pulse = none ∧
      (after (.comparatorTransition 0 true true) s).pwm.phases[0].past.map (fun e => (e.1.onAt, e.2)) =
        [(7103, 7104)] ∧
      (after (.comparatorTransition 0 true true) s).pwm.phases[0].tripped = true ∧
      (after (.comparatorTransition 0 false true) i).pwm.phases[0].drive = .mid := by decide +kernel
theorem test_comparator_input :
    let s := { good 72 live with ldg := { live.ldg with src := .stored } }
    let u := s.upWin 72 fun x => { x with low := true }
    (after (.comparatorTransition 72 false false) u).seq.retqual = true ∧
      (after (.comparatorTransition 72 false true) s).seq.retqual = false := by decide +kernel

/-- An always-on comparator enabled for both turns, with its output good. -/
def alwaysOn : State :=
  { live with cmp := { live.cmp with
      aoCfg := vput live.cmp.aoCfg 2 0xCBFF8800, aoLow := Vector.replicate 3 false
      aoHigh := Vector.replicate 3 false } }

theorem test_ao_comparator :
    let z := { alwaysOn with pwr := { alwaysOn.pwr with phase := .asleep, on := 1, wake := 2 } }
    pending 0x5A (after (.aoComparatorChange 2 true true) alwaysOn) = true ∧
      (after (.aoComparatorChange 2 true true) z).pwr.wakeDue = true ∧
      still (.aoComparatorChange 0 true true) alwaysOn = true ∧
      still (.aoComparatorChange 2 false false) alwaysOn = true := by decide +kernel

/-- Proof tests on. -/
def proving : State :=
  (fins 80).foldl (fun s w => good w s) (setUp [(0x6000, 0x6401)] live)

theorem test_proof_cycle :
    let t := after .proofCycleStart proving
    proving.cfg.proofen = true ∧ t.cmp.cycle = true ∧ t.cmp.proof = some { win := 64, steep := 0, stage := 0, since := 0 } ∧
      t.cmp.left.length = 11 ∧ still .proofCycleStart t = true := by decide +kernel
theorem test_proof_cycle_no_steep :
    let s := { proving with cmp := { proving.cmp with steep := Vector.replicate 4 (.standsIn 79) } }
    steepLeft s = [] ∧ pending 0x58 (after .proofCycleStart s) = true ∧
      (after .proofCycleStart s).cmp.cycle = false := by decide +kernel
/-- Window 0 under test at a stage. -/
def atStage (n : Fin 9) : State :=
  let s := after .proofCycleStart proving
  { s with cmp := { s.cmp with proof := some { win := 0, steep := 0, stage := n, since := 0 } } }

theorem test_proof_stage :
    (after (.proofTestStageEnd .pass) (atStage 7)).cmp.proof.map (·.stage) = some 8 ∧
      (after (.proofTestStageEnd .pass) (atStage 8)).cmp.proof.map (·.win) = some 65 ∧
      stageFailure 4 1 = some (1, 3) ∧
      (after (.proofTestStageEnd (.fail 1)) (atStage 4)).cmp.win[0].failed = true ∧
      pending 0x56 (after (.proofTestStageEnd (.fail 1)) (atStage 4)) = true ∧
      (after (.proofTestStageEnd (.fail 0)) (atStage 0)).cmp.win[76].failed = true := by decide +kernel
/-- The sides that the test DAC gives the window, what the steep window takes over, and the hand-back. -/
theorem test_proof_stage_sides :
    let up := fun n => (atStage n).upWin 76 fun x => { x with high := true, latch := true }
    let a := after (.proofTestStageEnd .pass) (atStage 4)
    let b := after (.proofTestStageEnd .pass) ((up 8).upWin 0 fun x => { x with low := true })
    a.cmp.win[0].low = true ∧ a.cmp.win[0].high = true ∧ a.cmp.win[0].latch = true ∧
      b.cmp.win[0].low = false ∧ b.cmp.win[0].high = true ∧ b.cmp.win[0].latch = true ∧ b.cmp.win[76].latch = false ∧
      still (.proofTestStageEnd .pass) (up 3) = true ∧ wireWindow (atStage 4) 0 = 76 ∧
      wireWindow (atStage 3) 0 = 0 := by decide +kernel
theorem test_proof_stage_carrier :
    periodStarts (driving.upPhase 0 fun p => { p with carrAt := 7100 }) 0 = true ∧
      driving.pwm.rails[0].opmode ≠ .off ∧ periodStarts driving 0 = false := by decide +kernel
theorem test_proof_stage_waits :
    let p : PathRun := { ring := 0, chan := 5, inject := true, a := 0, b := 1023, nchan := 6, k := 2, atB := false
                         n := Vector.replicate 4 0, sums := Vector.replicate 4 0, settled := 0, since := 0 }
    let s := { atStage 4 with adc := { live.adc with ptest := some p } }
    still (.proofTestStageEnd .pass) s = true := by decide +kernel

/-- An adjudication of rail 0 on steep window 3. -/
def judged : State :=
  let s := { driving with cmp := { driving.cmp with steep := vput driving.cmp.steep 3 (.adjudicates 0) } }
  { s with clk := { s.clk with slot := 8192 } }.upFb 0 fun f => { f with adj := true, disagree := 4 }

theorem test_adjudication :
    let t := after (.adjudicationDone 0 0 0) judged
    let u := after (.adjudicationDone 0 1000000 0) judged
    let l := after (.adjudicationDone 0 0 1000000) judged
    frontFault judged 0 (ballError judged 0 judged.fb[0].remote 0) = false ∧ pending 0x38 t = true ∧
      t.fb[0].adj = false ∧ t.cmp.steep[3] = .free ∧ u.fb[0].rlost = true ∧ u.fb[0].lcause = 3 ∧
      l.fb[0].llost = true ∧
      still (.adjudicationDone 0 0 0) { judged with clk := { judged.clk with slot := 8191 } } = true := by decide +kernel

/-! ## The Pourn ports -/

/-- A frame with its CRC (R177). -/
def frame (body : Nat) : BitVec 64 :=
  BitVec.ofNat 64 (body * 256 + (crc8 (bitsHighFirst 56 body)).toNat)

/-- The port PN0 and rail 0 of the worked exchange, at 0.720 V. -/
def served : State :=
  let s := rewire [(0x8010, 0x4646603), (0x8100, 0x3C120), (0x8104, 12800 * 0x10000 + 10400)] driving
  (s.upPrnRail 0 fun e => { e with ref := 11520 * 65536, tgt := 11520 }).upPort 0 fun q =>
    { q with state := .live, eseq := 1 }

/-- The last response of a port. -/
def response (p : Port) (s : State) : Option Nat := s.prn.ports[p].resp.map (·.toNat)

/-- The worked exchange of chapter 05: the CRC of R177, the response and the new target. -/
theorem test_setpoint_example :
    let t := after (.setpoint 0 0x10082EE0C0000007) served
    frmGood 0x10082EE0C0000007 = true ∧ portHas served 0 0 = true ∧ owns served 0 0 = true ∧
      served.cfg.slewcap 0 = 4 ∧ response 0 t = some 0x05E418B4 ∧ t.prn.rails[0].tgt = 12000 ∧
      t.prn.rails[0].gcls = 4 ∧ t.prn.ports[0].eseq = 2 := by decide +kernel
theorem test_setpoint_refused :
    let try_ := fun (v : Nat) (s : State) =>
      (after (.setpoint 0 (frame (0x10080000000000 + v * 0x1000000))) s).prn.ports[0].last.map (·.status.toNat)
    try_ 12800 served = some 0 ∧ try_ 12801 served = some 0x14 ∧ try_ 10400 served = some 0 ∧
      try_ 10399 served = some 0x14 ∧
      try_ 12000 (served.upPrnRail 0 fun e => { e with seqown := true }) = some 5 ∧
      try_ 12000 (rewire [(0x8010, 0x4646601)] served) = some 7 := by decide +kernel
/-- A replay gets the last answer; another SEQ is out of order; a port that is not LIVE takes only SYNC. -/
theorem test_frame_sequence :
    let t := after (.setpoint 0 0x10082EE0C0000007) served
    let again := after (.setpoint 0 0x10082EE0C0000007) t
    let other := after (.query 0 (frame 0x40182000000000)) t
    response 0 again = some 0x05E418B4 ∧ again.prn.ports[0].eseq = 2 ∧ other.prn.ports[0].eseq = 2 ∧
      other.prn.ports[0].last = t.prn.ports[0].last ∧
      (after (.setpoint 1 0x10082EE0C0000007) served).prn = served.prn := by decide +kernel
theorem test_frame_form :
    let t := after (.setpoint 0 (frame 0x100E2EE0C00000)) served
    formCheck (frame 0x100E2EE0C00000) ≠ none ∧ pending 0x70 t = true ∧ t.prn.ports[0].eseq = 2 := by
  decide +kernel

/-- The forecast of the worked example of chapter 03: 28 phases over 137 units. -/
theorem test_forecast_ramp :
    let e := { served.eng.rails[0] with
      bankA := vput (vput (vput served.eng.rails[0].bankA 20 0x30D414) 22 (16 * 0x10000 + 625)) 23 400000 }
    let p := planRamp e 180000 200 28 63 0
    p.tr = 137 ∧ p.level = 293274 ∧ p.short = false := by decide +kernel
theorem test_state :
    let f := frame (0x30080000000000 + 3 * 0x1000000000 + 100 * 0x100000)
    let t := after (.state 0 f) { served with ldg := { served.ldg with ePlan := 100000 } }
    mayAdmit { served with ldg := { served.ldg with ePlan := 100000 } } 100 true = true ∧
      t.prn.ports[0].pstate = 3 ∧ t.prn.ports[0].cost = 100 ∧ t.ldg.books.map (·.mJ) = [100] ∧
      (after (.state 0 f) served).ldg.nref = 1 ∧
      (after (.state 0 f) { served with ldg := { served.ldg with src := .stored } }).prn.ports[0].pstate =
        served.prn.ports[0].pstate := by decide +kernel
/-- The fourth frame of the worked exchange: CUR at 330 A is 0x294. -/
theorem test_query : curItem 330000 = 0x294 ∧
    (after (.query 0 (frame 0x40082000000000)) (served.upPwmRail 0 fun w => { w with iAvg := 330000 })).prn.ports[0].last.map
      (·.grant) = some 0x294 ∧ railOff served 0 = false := by decide +kernel
theorem test_query_items :
    let ask := fun (n : Nat) (s : State) =>
      (after (.query 0 (frame (0x40080000000000 + n * 0x1000000000))) s).prn.ports[0].last.map (·.grant.toNat)
    let s := (served.upFb 0 fun f => f.upCheck true fun c => { c with last := some ⟨0, false, 0⟩ }).upPort 0 fun q =>
      { q with alert := 9, pstate := 3 }
    ask 0 s = some 360 ∧ ask 1 s = some 0 ∧ ask 3 s = some 0x7FF ∧ ask 4 s = some 9 ∧ ask 5 s = some 384 ∧
      (after (.query 0 (frame 0x40084000000000)) s).prn.ports[0].alert = 0 := by decide +kernel
theorem test_heartbeat :
    let u := served.upPort 0 fun q => { q with state := .lost, eseq := 9 }
    let t := after (.heartbeat 0 (frame 0x50020000000000)) u
    t.prn.ports[0].state = .live ∧ t.prn.ports[0].eseq = 1 ∧ hasBit t.prn.ports[0].alert 5 = true ∧
      (after (.heartbeat 0 (frame 0x50080000000000)) served).prn.ports[0].eseq = 2 ∧
      response 0 t ≠ none := by decide +kernel
theorem test_frame_check_failed :
    let t := after (.frameCheckFailed 0 0x10082EE0C0000006) served
    frmGood 0x10082EE0C0000006 = false ∧ t.prn.ports[0].crcerr = 1 ∧ pending 0x70 t = true ∧
      t.prn.ports[0].eseq = 1 := by decide +kernel
theorem test_frame_stall :
    let s := after (.setpoint 0 0x10082EE0C0000007) served
    (after (.frameStall 0 65) s).prn.ports[0].resp = none ∧
      (after (.frameStall 0 64) s).prn.ports[0].resp ≠ none ∧
      (after (.frameStall 0 105) s).prn.ports[0].stalls = 1 ∧ pending 0x70 (after (.frameStall 0 1) s) = true := by
  decide +kernel
theorem test_heartbeat_lost :
    let s := rewire [(0x8100, 0x3C320), (0x8108, 11000 * 0x10000 + 11520)] served
    let t := after (.heartbeatLost 0) s
    served.cfg.hbto 0 ≠ 0 ∧ t.prn.ports[0].state = .lost ∧ pending 0x70 t = true ∧ t.prn.rails[0].tgt = 11000 ∧
      still (.heartbeatLost 1) served = true := by decide +kernel
theorem test_port_reset :
    let s := { served with flt := { served.flt with brReq := [(8, 0, 0)] } }
    (after (.prnPortReset 0) s).prn.ports[0].state = .unsync ∧ (after (.prnPortReset 0) s).prn.ports[0].eseq = 0 ∧
      still (.prnPortReset 1) s = true := by decide +kernel
theorem test_slew_limiter :
    let s := { after (.setpoint 0 0x10082EE0C0000007) served with clk := { served.clk with slot := 128 } }
    let near := s.upPrnRail 0 fun e => { e with ref := 11999 * 65536, notify := true }
    (after .slewLimiterTick s).prn.rails[0].ref = 11540 * 65536 ∧
      (after .slewLimiterTick near).prn.rails[0].ref = 12000 * 65536 ∧
      (after .slewLimiterTick near).prn.rails[0].notify = false ∧
      still .slewLimiterTick { s with clk := { s.clk with slot := 129 } } = true := by decide +kernel

/-- Rail 0 with a planner that takes 180 A in 200 units, its port expecting SEQ 2. -/
def planning : State :=
  let s := (rewire [(0x4020, 0x128806E ||| 8)] served).upPort 0 fun q => { q with eseq := 2 }
  s.upEngRail 0 fun e => { e with
    bankA := vput (vput (vput (vput e.bankA 20 0x30D414) 21 180000) 22 (16 * 0x10000 + 625)) 23 400000 }

/-- The third frame of the worked exchange: +180 A in 200 units, PRI. -/
def third : BitVec 64 := frame 0x2014016800C800

theorem test_forecast :
    let t := after (.forecast 0 third) planning
    let none_ := after (.forecast 0 third) (rewire [(0x4020, 0)] planning)
    planning.cfg.fff 0 = true ∧ frmSeq third = 2 ∧ frmRail third = 0 ∧ signed 16 (frmPay third 24 16) = 360 ∧
      frmPay third 8 16 = 200 ∧ t.eng.rails[0].fcs.map (·.dI) = [180000] ∧
      t.eng.rails[0].fcs.map (·.tF) = [instantNow planning + 12800000] ∧
      none_.eng.rails[0].fcs = [] ∧ none_.prn.ports[0].eseq = 3 := by decide +kernel
theorem test_forecast_busy :
    let fc : Forecast := { dI := 1000, tAcc := 0, tStart := 0, tF := instantNow planning + 1, level := 0, sumAt := 0 }
    let s := planning.upEngRail 0 fun e => { e with fcs := [fc, fc] }
    (after (.forecast 0 third) s).prn.ports[0].last.map (·.status.toNat) = some 4 := by decide +kernel

/-! ## The ledger -/

theorem test_ledger_update :
    let s := setUp [(0xB000, 1), (0xB020, 5 * 0x10000 + 200), (0xB024, 100)] live
    let t := after .ledgerUpdate s
    s.cfg.pfen = true ∧ s.cfg.env = 200 ∧ s.cfg.floorJ = 5 ∧ s.cfg.sdmrg = 100 ∧ t.ldg.src = .input ∧
      t.ldg.eRes = 5200000 ∧ t.ldg.ride = 0xFFFFFFFF ∧
      domOn { live with pwr := { live.pwr with on := 0 } } pdGau = false := by decide +kernel

/-- A pack of 4 cells with QNOM 5000, KPI 1 and RATE 6 %/min that gives 1 A, with SoC_q and SoC_e at 0.5 and SOCR
at 0.6. -/
def discharging : State :=
  let s := setUp [(0xB100, 30 * 0x1000000 + 60 * 64 + 4), (0xB104, 5000), (0xB114, 256), (0xB000, 950 * 0x1000)] live
  { s with gau := { s.gau with
    fresh := false, socrInit := false, socq := 1 / 2, soce := 1 / 2, socr := 3 / 5, vpk := 13200000, r0 := 24000
    rp := 12000, tau := 20000, iNew := [{ slot := s.clk.slot, value := 1000 }] } }

theorem test_gauge_update :
    let t := (after .ledgerUpdate discharging).gau
    let none_ := after .ledgerUpdate (rewire [(0xB100, 0)] { discharging with ldg := { discharging.ldg with ePack := 5 } })
    discharging.cfg.ns = 4 ∧ discharging.cfg.pkeff = 950 ∧ packQ discharging = 5000 ∧ t.ipk = 1000 ∧ t.vp = 6 / 10 ∧
      t.ocvEst = 330600015 / 100 ∧ t.socq = 1 / 2 - 1 / 18000000 ∧
      t.socr = 3 / 5 - 1 / 18000000 - 1 / 1000000 ∧ t.disagree = false ∧ t.restTaken = false ∧ t.fullMs = 0 ∧
      none_.ldg.ePack = 0 := by decide +kernel

theorem test_gauge_stale_and_disagreement :
    let held := (after .ledgerUpdate { discharging with gau := { discharging.gau with stale := true, ipk := 7 } }).gau
    let low := (after .ledgerUpdate { discharging with gau := { discharging.gau with
      disagree := true, socq := 0, soce := 0, socr := 0 } }).gau
    let first := (after .ledgerUpdate { discharging with gau := { discharging.gau with
      socrInit := true, soce := 1 / 4 } }).gau
    held.ipk = 7 ∧ held.iNew = [] ∧ low.disagree = true ∧ low.socr = 1 / 100 ∧
      first.socr = 1 / 4 - 1 / 18000000 := by decide +kernel

/-- In STORED since slot 0 under PFEN with an RIDEMAX of 100 s and a stale channel. -/
def riding : State :=
  let s := setUp [(0xB000, 1), (0xB024, 100 * 0x10000)] live
  { s with ldg := { s.ldg with src := .stored, storedAt := 0, stale := true, pPlan := 10 } }

theorem test_ledger_energy_trigger :
    let t := after .ledgerUpdate riding
    let u := after .ledgerUpdate (rewire [(0xB000, 0)] riding)
    t.ldg.trig = 1 ∧ t.ldg.src = .spent ∧ pending 0x7E t = true ∧ t.ldg.updAt = some 0 ∧
    still .ledgerUpdate t = true ∧ u.ldg.src = .stored ∧
      u.ldg.pPlan = 10 := by decide +kernel

/-- The same with energy in the hold-up bank. -/
def hoarding (ms : Nat) : State :=
  let s := rewire [(0xB018, 1000 * 0x10000), (0xB01C, 2000)] riding
  { s with clk := { s.clk with slot := ms * 256000 }, ldg := { s.ldg with vbus := 12000000 } }

theorem test_ledger_time_trigger :
    (after .ledgerUpdate (hoarding 100000)).ldg.trig = 3 ∧ (after .ledgerUpdate (hoarding 99999)).ldg.src = .stored := by
  decide +kernel

/-- W72 not good on INPUT. -/
def dimmed : State :=
  (live.upWin 72 fun x => { x with low := true, high := false }).upPort 1 fun q => { q with state := .live }

theorem test_input_loss :
    let s := { dimmed with ldg := { dimmed.ldg with ePlan := 1000, eRes := 0, pPlan := 10 } }
    let t := after .inputLoss s
    s.ldg.src = .input ∧ t.ldg.src = .stored ∧ pending 0x7E t = true ∧ t.ldg.ride = 100 ∧
      hasBit t.prn.ports[1].alert 0 = true ∧ t.prn.ports[0].alert = 0 ∧
      t.ldg.blackout.map (·.trigger) = some 0 ∧ t.ldg.hold.lostAt = some 0 ∧
      still .inputLoss (good 72 live) = true := by decide +kernel
theorem test_input_return :
    let s := (good 72 { live with ldg := { live.ldg with src := .stored, storedAt := 5 } }).upPort 1 fun q =>
      { q with state := .live }
    let t := after .inputReturnQualified s
    let d := after .inputReturnQualified { s with ldg := { s.ldg with src := .down } }
    let z := after .inputReturnQualified { s with ldg := { s.ldg with src := .spent } }
    t.ldg.src = .input ∧ hasBit t.prn.ports[1].alert 1 = true ∧ pending 0x7E t = true ∧
      t.ldg.ride = 0xFFFFFFFF ∧ d.ldg.src = .input ∧ z.ldg.src = .input ∧ z.ldg.lastReturn = timeNow s ∧
      still .inputReturnQualified (dimmed.upLdg fun l => { l with src := .stored }) = true := by decide +kernel
/-- The gauge's samples and the ledger's are 10 ms old at slot 2 560 000. -/
theorem test_channel_stale :
    let at_ := fun (n : Nat) =>
      let s := setUp [(0xB100, 4)] { live with clk := { live.clk with slot := n } }
      let x : Option Sample := some { value := 0, slot := 0 }
      { s with gau := { s.gau with lastV := x, lastI := x, lastT := x }
               ldg := { s.ldg with lastV := x, lastI := x } }
    pending 0x7E (after (.channelStale true) (at_ 2560000)) = true ∧
      (after (.channelStale true) (at_ 2560000)).gau.stale = true ∧
      (after (.channelStale false) (at_ 2560000)).ldg.stale = true ∧
      pending 0x7E (after (.channelStale false) (at_ 2560000)) = true ∧
      (after (.channelStale false) (at_ 2559999)).ldg.stale = false := by decide +kernel
theorem test_ledger_reset :
    let ask := fun (g : Bool) => { live with
      flt := { live.flt with brReq := [resetKey (srcId 0xB (if g then 1 else 0) 0 0 0)] }
      ldg := { live.ldg with stale := true, restarted := false } }
    (after (.ldgGauBlockReset false) (ask false)).ldg.stale = false ∧
      (after (.ldgGauBlockReset false) (ask false)).ldg.restarted = true ∧
      (after (.ldgGauBlockReset false) (ask false)).flt.brReq = [] ∧
      (after (.ldgGauBlockReset true) (ask true)).flt.brReq = [] ∧
      still (.ldgGauBlockReset true) live = true := by decide +kernel

/-! ## The NV store -/

theorem test_nv_read :
    let d := fun (a n : Nat) => holding 0 (desc 0x50 a n) live
    ready (d 0x3FFFF 1) 0 0x50 = some (desc 0x50 0x3FFFF 1) ∧
      waits 0 (after (.nvRead 0) (d 0x3FFFF 1)) = true ∧
      (after (.nvRead 0) (d 0x3FFFF 1)).nvm.queue.map (·.work) = [.read 0 0x3FFFF 1] ∧
      ended (after (.nvRead 0) (d 0x3FFFF 2)) = some (0x102, 0) ∧
      ended (after (.nvRead 0) { d 0 8 with nvm := { live.nvm with refuse := true } }) = some (0x105, 0) := by
  decide +kernel
/-- Four bytes from 0x15006: two words of the array. BP 3 protects all but the settings area's start. -/
theorem test_nv_write :
    let d := fun (a n : Nat) (s : State) => holding 0 (desc 0x51 a n) s
    let bp := fun (n : Nat) => setUp [(0xA000, BitVec.ofNat 32 n)] live
    ready (d 0x15006 4 live) 0 0x51 = some (desc 0x51 0x15006 4) ∧
      (after (.nvWrite 0 [1, 2, 3, 4]) (d 0x15006 4 live)).nvm.queue.map (·.todo) =
        [[(0x15006, [1, 2]), (0x15008, [3, 4])]] ∧
      ended (after (.nvWrite 0 [1, 2, 3]) (d 0x15006 4 live)) = some (0x102, 0) ∧
      ended (after (.nvWrite 0 [1]) (d 0x14FFF 1 live)) = some (0x107, 0) ∧
      ended (after (.nvWrite 0 [1, 1]) (d 0x3FFFF 2 live)) = some (0x102, 0) ∧
      ended (after (.nvWrite 0 [1]) (d 0x30000 1 (bp 1))) = some (0x107, 0) ∧
      pending 0x7B (after (.nvWrite 0 [1]) (d 0x30000 1 (bp 1))) = true ∧
      (after (.nvWrite 0 [1]) (d 0x2FFFF 1 (bp 1))).nvm.queue.length = 1 ∧
      ended (after (.nvWrite 0 [1]) (d 0x15000 1 { live with pwr := { live.pwr with on := 1 } })) =
        none := by decide +kernel
theorem test_rec_read :
    let s := holding 0 (desc 0x52 5) live
    ready s 0 0x52 = some (desc 0x52 5) ∧ (after (.recRead 0) s).nvm.queue.map (·.work) = [.recRead 0 5 0] ∧
      ended (after (.recRead 0) { s with nvm := { s.nvm with refuse := true } }) = some (0x105, 0) := by
  decide +kernel
theorem test_rec_commit :
    let d := fun (k n : Nat) => holding 0 (desc 0x53 k n) live
    let go := fun (k n : Nat) => after (.recCommit 0 (List.replicate n 7)) (d k n)
    (go 2 240).nvm.queue.length = 1 ∧ ended (go 2 241) = some (0x102, 0) ∧ (go 16 48).nvm.queue.length = 1 ∧
      ended (go 16 49) = some (0x102, 0) ∧ ended (go 1 4) = some (0x107, 0) ∧ ended (go 8 4) = some (0x107, 0) ∧
      ended (go 15 4) = some (0x107, 0) ∧
      ended (after (.recCommit 0 [1]) (holding 0 (desc 0x53 2 1) (setUp [(0xA000, 3)] live))) =
        some (0x107, 0) := by decide +kernel
theorem test_counters :
    let inc := fun (k : Nat) (s : State) => after (.cntInc 0) (holding 0 (desc 0x54 k) s)
    let get := fun (k : Nat) (s : State) => after (.cntRead 0 []) (holding 0 (desc 0x55 k) s)
    ended (inc 15 live) = some (0x107, 0) ∧ (inc 16 live).nvm.queue.map (·.work) = [.counter 16] ∧
      ended (inc 16 (setUp [(0xA000, 3)] live)) = some (0x107, 0) ∧
      pending 0x7B (inc 16 (setUp [(0xA000, 3)] live)) = true ∧ ended (get 16 live) = some (0, 0) ∧
      ended (get 3 { live with nvm := { live.nvm with refuse := true } }) = some (0x105, 0) := by decide +kernel

/-- The header of an image of no section with sequence number n. -/
def imageOf (n : Nat) : List Byte :=
  let h := [4, 0x4C56485A, 0x00200100, 32, n, 0x48085A43, 0]
  let bs := (h.drop 1).flatMap fun x => (List.range 4).map fun i => BitVec.ofNat 8 (x / 256 ^ i)
  let bs := bs ++ List.replicate 4 0
  bs ++ (List.range 4).map fun i => BitVec.ofNat 8 ((crc32 bs).toNat / 256 ^ i)

theorem test_img_write :
    let go := fun (bs : List Byte) (s : State) => after (.imgWrite 0 bs) (holding 0 (desc 0x60 1 bs.length) s)
    (imageOf 5).length = 32 ∧ (go (imageOf 5) live).nvm.queue.length = 1 ∧
      ended (go (imageOf 5) { live with nvm := { live.nvm with loaded := some 1 } }) = some (0x105, 0) ∧
      ended (go ((imageOf 5).set 0 0) live) = some (0x11A, 0) ∧
      ended (go ((imageOf 5).set 12 6) live) = some (0x11A, 0) := by decide +kernel

/-- A waiting write of the last page of an NV_WRITE. -/
def writing : State :=
  let r := { nvReq 3 (some 0) (.write 0) with todo := [(0x15006, [1, 2]), (0x15008, [3, 4])] }
  { holding 0 (desc 0x51 0x15006 4) live with nvm := { live.nvm with queue := [r] } }

theorem test_page_operation :
    let t := after (.nvPageOperation []) writing
    pickReq writing.nvm.queue ≠ none ∧ ended t = some (0, 0) ∧ t.nvm.queue = [] ∧
      readBytes t.nvm.mem 0x15006 4 = [1, 2, 3, 4] ∧ readByte t.nvm.mem 0x1500A = 0 ∧
      still (.nvPageOperation []) live = true := by decide +kernel
theorem test_log_entry :
    let s := raise 0x51 (srcId 1 0 0 0 0) 0 live
    let t := after .logEntryWrite s
    memoryOk s = true ∧ s.flt.queue ≠ [] ∧ t.flt.queue.length + 1 = s.flt.queue.length ∧ t.flt.logHead = s.flt.logHead + 1 ∧
      t.nvm.mem ≠ [] ∧
      (after .logEntryWrite { s with nvm := { s.nvm with refuse := true } }).flt.drop = s.flt.drop + 1 ∧
      still (.nvPageOperation []) { s with nvm := writing.nvm } = true := by decide +kernel
/-- A batch that costs 200 mJ. -/
theorem test_scrub :
    let s := setUp [(0xA000, 0x10), (0xA00C, 8 * 0x10000 + 10), (0xB02C, 200)] live
    let rich := { s with ldg := { s.ldg with src := .input, ePlan := 1000000 } }
    let poor := { s with ldg := { s.ldg with src := .input } }
    s.cfg.scren = true ∧ (after .scrubInterval rich).nvm.queue.map (·.work) = [.scrub 8] ∧
      (after .scrubInterval rich).ldg.books.map (·.mJ) = [200] ∧
      (after .scrubInterval poor).ldg.nref = 1 ∧ (after .scrubInterval poor).nvm.queue = [] ∧
      still .scrubInterval (after .scrubInterval rich) = true ∧
      still .scrubInterval (setUp [(0xA000, 0)] live) = true := by decide +kernel
theorem test_nv_block_reset :
    let s := { live with
      flt := { live.flt with brReq := [resetKey (srcId 0xA 0x1 0 0 0)] }
      nvm := { live.nvm with queue := [nvReq 3 none (.counter 20)] } }
    (∀ r ∈ s.nvm.queue, (resetReq s r).isSome = true) ∧ (after .nvBlockReset s).flt.brReq = [] ∧
      still .nvBlockReset live = true := by decide +kernel
/-- The journal names the words at 0x15000 and 0x15008, with its marker bit. -/
theorem test_uvlo :
    let t := after .vcc33Uvlo writing
    let w := natAt (readBytes t.nvm.mem 0xBC00 8) 0 8
    memoryOk writing = true ∧ t.nvm.refuse = true ∧ w / 2 ^ 63 = 1 ∧ w % 2 ^ 18 = 0x15000 ∧ w / 2 ^ 18 % 2 ^ 18 = 0x15008 ∧
      (after .vcc33Uvlo live).nvm.mem = live.nvm.mem ∧ still .vcc33Uvlo t = true := by decide +kernel

/-! ## The two-wire ports -/

/-- Port 2 as a controller, idle on a free bus. -/
def wired : State := (setUp [(0x9018, 1)] live).upTwPort 2 fun x => { x with state := .idle, cfg := 1 }

/-- A TW_XFER of port 2 to address 0x50 with one retry, w bytes out and r bytes in. -/
def xferDesc (w r : Nat) : Desc :=
  desc 0x58 (2 + 0x50 * 2 ^ 8 + 2 ^ 16 + w * 2 ^ 32 + r * 2 ^ 48) (w + r) [0, 0x20, 0, 0, 0, 0, 0, 0]

/-- That transfer in execution and on port 2. -/
def xferring (st : TwState) (w r : Nat) : State :=
  let s := holding 0 (xferDesc w r) wired
  let s := s.upSq 0 fun u => { u with exec := u.exec.map fun e => { e with decided := true, acted := true } }
  s.upTwPort 2 fun x => { x with state := st, jobs := [.xfer 0 0x50 1 (List.replicate w 7) r], jobLoss := 0xF }

def noClear : BusClear := { clocks := 0, sdaHigh := true }

theorem test_tw_xfer :
    let go := fun (bs : List Byte) (s : State) => after (.twXfer 0 bs) (holding 0 (xferDesc 2 0) s)
    ready (holding 0 (xferDesc 2 0) wired) 0 0x58 = some (xferDesc 2 0) ∧ (xferDesc 2 0).pf 0 2 = 2 ∧
      (go [1, 2] wired).tw.ports[2].jobs = [.xfer 0 0x50 1 [1, 2] 0] ∧
      (go [1, 2] wired).tw.ports[2].state = .waitbus ∧ ended (go [1] wired) = some (0x102, 0) ∧
      ended (go [1, 2] (wired.upTwPort 2 fun x => { x with quar := true })) = some (0x10B, 0) ∧
      ended (go [1, 2] { wired with pwr := { wired.pwr with on := 0x1FFF } }) ≠ some (0, 0) := by decide +kernel
theorem test_tw_clear :
    let s := holding 0 (desc 0x59 2) wired
    let off := holding 0 (desc 0x59 2) (wired.upTwPort 2 fun x => { x with state := .off })
    ready s 0 0x59 = some (desc 0x59 2) ∧ (after (.twClear 0) s).tw.ports[2].jobs = [.clear 0] ∧
      ended (after (.twClear 0) off) = some (0x105, 0) := by decide +kernel
theorem test_tw_bus_free :
    let t := after (.twBusFree 2 noClear) (xferring .waitbus 2 0)
    let c := (holding 0 (desc 0x59 2) wired).upTwPort 2 fun x => { x with state := .waitbus, jobs := [.clear 0] }
    t.tw.ports[2].state = .controller ∧ t.tw.ports[2].busy = true ∧
      ended (after (.twBusFree 2 { clocks := 9, sdaHigh := true }) c) = some (0, 9) ∧
      (after (.twBusFree 2 { clocks := 9, sdaHigh := true }) c).tw.ports[2].clr = 1 ∧
      (after (.twBusFree 2 noClear) (wired.upTwPort 2 fun x => { x with busy := true })).tw.ports[2].busy = false := by
  decide +kernel
/-- The worked RESULT of chapter 14: two bytes written, one retry after a loss at bit 3. -/
theorem test_tw_result :
    let l := after (.twArbitrationLost 2 3 0 0) (xferring .controller 2 0)
    let b := after (.twBusFree 2 noClear) l
    let t := after (.twTransferEnd 2 (.done [])) b
    l.tw.ports[2].state = .waitbus ∧ l.tw.ports[2].arbl = 1 ∧ b.tw.ports[2].state = .controller ∧
      ended t = some (0, 0x0000001300000002) ∧ t.tw.ports[2].jobs = [] := by decide +kernel
theorem test_tw_arbitration_lost :
    let s := (xferring .controller 2 0).upTwPort 2 fun x => { x with retries := 1 }
    let t := after (.twArbitrationLost 2 11 1 2) s
    ended t = some (0x109, 0) ∧ pending 0x76 t = true ∧ t.tw.ports[2].lerr = 0x109 ∧
      t.tw.ports[2].lbit = 11 := by decide +kernel
theorem test_tw_nack :
    let s := xferring .controller 2 0
    let last := s.upTwPort 2 fun x => { x with retries := 1 }
    (after (.twTransferEnd 2 (.addressNack 0)) s).tw.ports[2].retries = 1 ∧
      ended (after (.twTransferEnd 2 (.addressNack 0)) last) = some (0x10A, 0) ∧
      ended (after (.twTransferEnd 2 (.dataNack 1 2)) s) = some (0x10A, 0) ∧
      pending 0x76 (after (.twTransferEnd 2 (.dataNack 1 2)) s) = true := by decide +kernel
theorem test_tw_read :
    let t := after (.twTransferEnd 2 (.done [1, 2])) (xferring .controller 0 2)
    ended t = some (0, 0xF00020000) ∧ t.out = [.twStop 2] ∧
      t.hif.cq[0].held.getLast?.map (fun c => (c.dataAt, c.data)) = some (some 0x2000, [1, 2]) := by decide +kernel
theorem test_tw_timeouts :
    let s := xferring .controller 2 0
    let low := s.upTwPort 2 fun x => { x with cfg := 2 }
    ended (after (.twWaitLimit 2 1 2) s) = some (0x10C, 0) ∧ pending 0x76 (after (.twWaitLimit 2 1 2) s) = true ∧
      still (.twWaitLimit 2 1 2) low = true ∧
      ended (after (.twClockLowTimeout 2 (.controller 1 2)) low) = some (0x10C, 0) ∧
      (after (.twWaitLimit 2 1 2) (xferring .waitbus 0 2)).tw.ports[2].lphase = 2 ∧
      (after (.twWaitLimit 2 1 2) (xferring .waitbus 2 0)).tw.ports[2].lphase = 0 := by decide +kernel
theorem test_tw_stuck :
    let t := after (.twBusStuck 2 true noClear) (xferring .waitbus 2 0)
    t.tw.ports[2].quar = true ∧ pending 0x76 t = true ∧ ended t = some (0x10B, 0) := by decide +kernel

/-- Port 0 as a target. -/
def targeted : State := live.upTwPort 0 fun x => { x with state := .target }

/-- The worked exchange of chapter 14: the set-up lock through TW0. -/
theorem test_tw_lock :
    let t := after (.twTargetWrite 0 (.mine [0x00, 0x04, 0x01, 0x00, 0x00, 0x00])) targeted
    twServes targeted 0 = true ∧ t.regs.lock = true ∧ t.tw.ports[0].ptr = 8 := by decide +kernel
theorem test_tw_pointer :
    (after (.twTargetWrite 0 (.mine [0x00, 0x1C])) targeted).tw.ports[0].ptr = 0x1C ∧
      (after (.twTargetWrite 0 (.mine [0x00, 0x1C, 0, 0, 0, 0])) targeted).tw.ports[0].ptr = 0 ∧
      (after (.twTargetWrite 2 .other) wired).tw.ports[2].busy = true := by decide +kernel
/-- The part identifier, in the order of its bytes. -/
theorem test_tw_target_read :
    let w := (readReg .tw0 0 targeted).2
    (after (.twTargetRead 0 4) targeted).out = [.twBytes 0
        [w.extractLsb' 0 8, w.extractLsb' 8 8, w.extractLsb' 16 8, w.extractLsb' 24 8]] ∧
      w.extractLsb' 0 8 = 0x43 ∧
      (after (.twTargetRead 0 4) targeted).tw.ports[0].ptr = 4 ∧
      still (.twTargetRead 2 4) live = true ∧ still (.twTargetWrite 2 (.mine [0, 0])) live = true := by decide +kernel
theorem test_tw_target_stops :
    let low := targeted.upTwPort 0 fun x => { x with cfg := 2 }
    pending 0x74 (after (.twTargetInterrupted 0 false [0, 4, 1]) targeted) = true ∧
      (after (.twTargetInterrupted 0 false [0, 4, 1]) targeted).regs.lock = false ∧
      pending 0x74 (after (.twClockLowTimeout 0 (.target true [0, 0])) low) = true ∧
      (after (.twClockLowTimeout 0 (.target true [0, 0])) low).tw.ports[0].tmo = 1 := by decide +kernel
theorem test_tw_block_reset :
    let ask := fun (p : Port) (s : State) =>
      { s with flt := { s.flt with brReq := [resetKey (srcId 0x9 0 p.val 0 0)] } }
    let s := ask 2 (xferring .controller 2 0)
    let r := ask 2 (wired.upTwPort 2 fun x => { x with cfg := 0x80000000 })
    let t := ask 0 (targeted.upTwPort 0 fun x => { x with ptr := 8 })
    ended (after (.twBlockReset 2 false noClear) s) = some (0x108, 0) ∧
      (after (.twBlockReset 2 false noClear) r).tw.ports[2].pulse = true ∧
      (after (.twResetPulseEnd 2 false noClear) (after (.twBlockReset 2 false noClear) r)).tw.ports[2].pulse = false ∧
      (after (.twBlockReset 0 false noClear) t).tw.ports[0].ptr = 0 ∧
      still (.twBlockReset 2 false noClear) wired = true ∧
      (after (.twBlockReset 2 false noClear) (ask 2 live)).flt.brReq = [] ∧
      still (.twResetPulseEnd 2 false noClear) wired = true := by decide +kernel
theorem test_tw0_wake :
    let s := { live with
      pwr := { live.pwr with phase := .asleep, on := 1, wake := 8 }
      tw := { live.tw with aoEn := true, aoAddr := 0x50 } }
    (after (.tw0WakeMatch 0x50 false) s).pwr.wakeDue = true ∧
      (after (.tw0WakeMatch 0x50 false) s).tw.wakeMissed = true ∧
      (after (.tw0WakeMatch 0x50 true) s).pwr.phase = .waking ∧ still (.tw0WakeMatch 0x51 true) s = true := by
  decide +kernel

/-! ## The rings and the host interface -/

/-- RING_SET of ring 3 over completion ring 1 with 16 entries each. -/
def ringDesc (start : Nat) (sizes : Nat := 0x44) (r : Nat := 3) : Desc :=
  desc 0x70 (r + 16 * start + sizes * 2 ^ 8 + 2 ^ 16 + 2 ^ 20 + 2 ^ 24 + 2 ^ 32) 0 (List.replicate 16 0)

theorem test_ring_start :
    let go := fun (q : Ring) (d : Desc) => after (.ringSetStart q) (holding q d live)
    let t := go 0 (ringDesc 1)
    ready (holding 0 (ringDesc 1) live) 0 0x70 = some (ringDesc 1) ∧ ended t = some (0, 0) ∧
      t.hif.sq[3].state = .run ∧ t.hif.sq[3].size = 4 ∧ t.hif.cq[1].state = .run ∧ t.hif.cq[1].p = true ∧
      ended (go 0 (ringDesc 1 0xCC)) = some (0, 0) ∧ entryCheck live.hif.sq[0] (ringDesc 1 0x43) = some 0x102 ∧
      entryCheck live.hif.sq[0] (ringDesc 1 0xD4) = some 0x102 ∧
      entryCheck live.hif.sq[0] (ringDesc 1 0x44 0) = some 0x102 ∧ ended (go 5 (ringDesc 1)) = some (0x105, 0) ∧
      ended (after (.ringSetStart 0) (holding 0 (ringDesc 1) t)) = some (0x105, 0) ∧
      ended (after (.ringSetStart 0) (holding 0 (ringDesc 1 0x54 4) t)) = some (0x103, 0) := by decide +kernel
theorem test_ring_stop :
    let run := holding 3 (desc 0) live
    let t := after (.ringSetStop 0) (holding 0 (ringDesc 0) run)
    ended (after (.ringSetStop 0) (holding 0 (ringDesc 0) live)) = some (0, 0) ∧ waits 0 t = true ∧
      t.hif.sq[3].stopping = true ∧
      ended (after (.ringSetStop 5) (holding 5 (ringDesc 0) live)) = some (0x105, 0) := by decide +kernel

/-- Ring 2 with 16 entries, three of them submitted. -/
def queued : State :=
  (live.upSq 2 fun x => { x with en := true, state := .run, size := 4, base := 0x8000, submitted := 3, tail := 3 }).upCq 0
    fun k => { k with en := true, state := .run, size := 4, base := 0x9000, p := true, agg := 1 }

/-- An entry of opcode 0 and TAG 9. -/
def entry : List Byte := [0, 0, 9, 0] ++ List.replicate 60 0

theorem test_descriptor_fetch :
    let t := after (.descriptorFetch 2 [entry, entry]) queued
    canIssue queued = true ∧ t.hif.sq[2].fetchedN = 2 ∧
      still (.descriptorFetch 2 [entry]) { queued with hif := { queued.hif with bme := false } } = true := by decide +kernel

/-- A completion waits on completion ring 0 at entry n. -/
def answering (n : Nat) (ien : Bool) (agg : Nat) : State :=
  let c : Completion := { result := 5, tag := 9, status := 0, sq := 2, ofDesc := true, dataAt := none, data := [] }
  let s := { queued with hif := { queued.hif with msixEn := true
                                                  msixTable := Vector.replicate 32 (Vector.replicate 4 0) } }
  s.upCq 0 fun k => { k with held := [c], tail := BitVec.ofNat 12 n, head := 4, ien := ien, agg := BitVec.ofNat 8 agg }

theorem test_completion_post :
    let t := after (.completionPost 0) (answering 15 true 1)
    let u := after (.completionPost 0) (answering 2 true 2)
    t.hif.cq[0].tail = 0 ∧ t.hif.cq[0].p = false ∧ t.hif.cq[0].held = [] ∧ t.hif.cq[0].sinceMsg = 0 ∧
      (Out.msix 1 ∈ t.out) ∧ t.hif.sq[2].lastTag = 9 ∧ t.hif.sq[2].head = 1 ∧ u.hif.cq[0].sinceMsg = 1 ∧
      u.hif.cq[0].p = true ∧ still (.completionPost 0) (answering 3 true 1) = true := by
  decide +kernel
theorem test_coalescing :
    let a := (answering 0 true 9).upCq 0 fun k => { k with agt := 1, sinceMsg := 2 }
    let s := { a with clk := { a.clk with slot := 256 } }
    let m := { s with hif := { s.hif with msixEn := false } }
    (after (.cqCoalescingTimeout 0) s).out = [.msix 1] ∧ (after (.cqCoalescingTimeout 0) s).hif.cq[0].sinceMsg = 0 ∧
      hasBit (after (.cqCoalescingTimeout 0) m).hif.pba 1 = true ∧
      still (.cqCoalescingTimeout 0) a = true ∧ still (.cqCoalescingTimeout 0) queued = true := by decide +kernel
theorem test_doorbell_poll :
    let page : List Word := [0, 0, 7] ++ List.replicate 13 0 ++ [5]
    let s := { queued with hif := { queued.hif with dbInFlight := true, dbAgain := true } }
    let t := after (.doorbellPoll page) s
    t.hif.sq[2].tail = 7 ∧ t.hif.sq[2].submitted = 7 ∧ t.hif.cq[0].head = 5 ∧ t.hif.dbAgain = false ∧
      t.hif.dbInFlight = true ∧ t.out = [.doorbellRead] := by decide +kernel
theorem test_kick :
    let s := after (.kickWrite 0x7FC 0) queued
    s.hif.dbInFlight = true ∧ s.out = [.doorbellRead] ∧ (after (.kickWrite 0 0) s).hif.dbAgain = true ∧
      still (.kickWrite 0x800 0) queued = true := by decide +kernel

theorem test_access_failed :
    let f := after (.hostMemoryAccessFailed (.fetch 2)) queued
    let d := holding 2 (desc 0x51 0x15000 8) queued
    let r := after (.hostMemoryAccessFailed (.dataRead 2)) d
    let c : Completion := { result := 5, tag := 9, status := 0, sq := 2, ofDesc := true, dataAt := some 0x1000
                            data := [1] }
    let h := queued.upCq 0 fun k => { k with held := [c] }
    pending 0x6A f = true ∧ f.hif.sq[2].state = .stopped ∧ ended f = some (0x117, 0x8000) ∧
      ended r = some (0x117, 0) ∧ ended (after (.hostMemoryAccessFailed (.dataWrite 2)) h) = some (0x117, 0) ∧
      (after (.hostMemoryAccessFailed (.completion 0)) h).hif.cq[0].state = .stopped ∧
      pending 0x6A (after (.hostMemoryAccessFailed (.shadow 2)) h) = true ∧
      pending 0x6A (after (.hostMemoryAccessFailed (.cqShadow 0)) h) = true ∧
      (after (.completionPost 0) h).out.getLast? = some (.hostWrite 0x1000 [1]) := by decide +kernel
theorem test_hif_reset :
    let s := { holding 2 (desc 0x51 0x15000 8) queued with flt := { queued.flt with brReq := [(0, 0, 0)] } }
    let t := after (.hifBlockReset .faultReaction) s
    let p := after (.hifBlockReset .perstn) queued
    pending 0x6C t = true ∧ t.hif.rcnt = 1 ∧ t.hif.lcause = 1 ∧ t.hif.sq[2].exec = none ∧ t.flt.brReq = [] ∧
      p.hif.lcause = 4 ∧ p.hif.up = false ∧ p.hif.bme = false ∧
      still (.hifBlockReset .faultReaction) queued = true ∧
      pending 0x68 (after .pcieUncorrectableError queued) = true := by decide +kernel

/-- The end of a reset with nothing in execution: what is fetched is flushed, and with nothing held the shadow words
are written and the doorbell page asked for. -/
theorem test_rings_resume :
    let r := { queued with hif := { queued.hif with recovering := true } }
    let f := after (.descriptorFetch 2 [entry, entry]) queued
    let u := ringsResume (hifReset { f with hif := { f.hif with bme := false } })
    canIssue r = true ∧ (∀ q : Ring, r.hif.sq[q].exec = none) ∧ (∀ c : Ring, r.hif.cq[c].held = []) ∧
      (ringsResume r).out.length = 3 ∧ (ringsResume r).hif.dbInFlight = true ∧ pending 0x6C (ringsResume r) = true ∧
      u.hif.cq[0].held.map (·.status) = [0x108, 0x108] ∧ u.out = [] := by decide +kernel

theorem test_ring_registers :
    let put := fun (off : Nat) (v : Word) (s : State) => after (.ringRegisterWrite .host off v) s
    (put 0xE000 64 live).hif.poll = 64 ∧ rejected (put 0xE000 65 live) = (0x102, 0xE000) ∧
      rejected (put 0xE000 0 live) = (0x102, 0xE000) ∧ (put 0xE000 1 live).hif.poll = 1 ∧
      rejected (put 0xE008 0x100 queued) = (0x105, 0xE008) ∧ rejected (put 0xE008 0x80 live) = (0x102, 0xE008) ∧
      (put 0xE008 0x100 live).hif.dbAddr = 0x100 ∧ (put 0xE014 7 live).hif.shAddr = 0x700000000 ∧
      rejected (put 0xE014 7 queued) = (0x105, 0xE014) := by decide +kernel
theorem test_queue_registers :
    let put := fun (off : Nat) (v : Word) (s : State) => after (.ringRegisterWrite .host off v) s
    (put 0xE110 0x1000 live).hif.sq[1].base = 0x1000 ∧ rejected (put 0xE110 0x800 live) = (0x102, 0xE110) ∧
      rejected (put 0xE120 0x1000 queued) = (0x105, 0xE120) ∧ rejected (put 0xE128 0x1104 queued) = (0x105, 0xE128) ∧
      rejected (put 0xE118 0x1114 queued) = (0x103, 0xE118) ∧ rejected (put 0xE118 0x110D queued) = (0x102, 0xE118) ∧
      rejected (put 0xE118 0x1103 queued) = (0x102, 0xE118) ∧ (put 0xE118 0x110C queued).hif.sq[1].state = .run ∧
      (put 0xE118 0x214 queued).hif.sq[1].cq = 1 ∧ rejected (put 0xE208 0x1814 queued) = (0x105, 0xE208) ∧
      (put 0xE218 0x1814 queued).hif.cq[1].state = .run ∧
      rejected (put 0xE218 0x1813 queued) = (0x102, 0xE218) := by decide +kernel
/-- EN 0: a ring with nothing to do is DISABLED at once, one with an entry in execution stops, and a completion ring
that no submission ring uses is DISABLED. -/
theorem test_queue_registers_stop :
    let put := fun (off : Nat) (v : Word) (s : State) => after (.ringRegisterWrite .host off v) s
    let busy := put 0xE128 0x215 (holding 2 (desc 0x51 0x15000 8) queued)
    let idle := put 0xE128 0x215 queued
    let spare := queued.upCq 1 fun k => { k with en := true, state := .run, size := 4 }
    busy.hif.sq[2].stopping = true ∧ busy.hif.sq[2].next = some (1, 5) ∧ busy.hif.sq[2].cq = 0 ∧
      idle.hif.sq[2].state = .disabled ∧ idle.hif.sq[2].cq = 1 ∧ idle.hif.sq[2].size = 5 ∧
      rejected (put 0xE128 0x203 queued) = (0x102, 0xE128) ∧
      (put 0xE218 0x1014 spare).hif.cq[1].state = .disabled ∧
      rejected (put 0xE218 0x1013 spare) = (0x102, 0xE218) := by decide +kernel
theorem test_pcie_space :
    let s := { answering 0 true 1 with hif := { (answering 0 true 1).hif with msixEn := false, pba := 8 } }
    let t := after (.pcieConfigurationWrite (.msixEnable true)) s
    let w := { s with hif := { s.hif with
      msixEn := true, msixTable := vput s.hif.msixTable 3 (vput (Vector.replicate 4 0) 3 1) } }
    t.hif.msixEn = true ∧ t.hif.pba = 0 ∧ t.out = [.msix 3] ∧
      (after (.pcieConfigurationWrite (.link 0)) live).hif.up = false ∧
      (after (.pcieConfigurationWrite (.busMaster false)) live).hif.bme = false ∧
      (after (.msixTableWrite 3 3 0) w).out = [.msix 3] ∧ (after (.msixTableWrite 3 3 1) w).out = [] := by
  decide +kernel

/-! ## Markers -/

/-- Two markers of ring 0's descriptor wait for rails 0 and 7. -/
def marked (c : Change) : State :=
  let m : Marker := { kind := .bankSwap, tag := 0x77, rails := 0x81, origin := .desc 0, owner := none
                      targets := [.rail 0], changes := [c], bstamp := some 0x123, lost := [], restamp := [] }
  let s := holding 0 (desc 0x23 0x81) live
  let s := s.upSq 0 fun u => { u with exec := u.exec.map fun e => { e with decided := true, acted := true } }
  { s with fab := { s.fab with markers := [m, { m with targets := [.rail 7] }] } }

/-- MARKER at a place with a header. -/
def mark (p : MarkerAt) (w : Word) : State → State := after (.marker p ⟨0, some w⟩)

theorem test_marker :
    let a := mark (.rail 0) (header 1 1) (marked .swapBanks)
    let b := mark (.rail 7) (header 1 1) a
    a.eng.rails[0].bank ≠ live.eng.rails[0].bank ∧ a.eng.ltag = 0x77 ∧ a.fab.markers.length = 1 ∧
      ended a = none ∧ ended b = some (0, 0x123) ∧ b.fab.markers = [] ∧ b.fab.heard = [] ∧
      still (.marker .pwm ⟨0, some (header 1 1)⟩) (marked .swapBanks) = true := by decide +kernel
/-- A gap of one shows the marker that went astray as lost: its descriptor ends with 0x0108 (R16). -/
theorem test_marker_lost :
    let s := mark (.rail 0) (header 1 1) { marked .swapBanks with fab := { (marked .swapBanks).fab with
      markers := ({ markerOf .bankSwap 7 .internal none [.rail 0] [.swapBanks] with bstamp := some 1 } : Marker) ::
        (marked .swapBanks).fab.markers } }
    let lost := after (.marker (.rail 0) ⟨0, none⟩) s
    let next := { lost with fab := { lost.fab with markers := lost.fab.markers ++
      [{ markerOf .lastTable 8 .internal none [.rail 0] [.swapTables] with bstamp := some 2 }] } }
    let t := mark (.rail 0) (header 1 3) next
    s.eng.ltag = 7 ∧ lost.fab.markers.map (·.lost) = [[.rail 0], []] ∧ pending 0x64 t = true ∧
      ended t = some (0x108, 0) ∧ t.eng.rails[0].table = true ∧ t.fab.markers.map (·.origin) = [.internal] := by
  decide +kernel
theorem test_marker_order :
    let s := mark (.rail 0) (header 1 5) (marked .swapTables)
    let again := mark (.rail 0) (header 1 5) s
    s.eng.rails[0].table ≠ live.eng.rails[0].table ∧ again.eng.rails[0].table = s.eng.rails[0].table ∧
      pending 0x64 again = true ∧ ended again = some (0x108, 0) ∧
      pending 0x64 (mark (.rail 0) (header 1 5 3) (marked .swapTables)) = true := by decide +kernel
theorem test_marker_held :
    let s := (marked .swapBanks).upPair 0 fun p => { p with recov := true }
    still (.marker (.rail 0) ⟨0, some (header 1 1)⟩) s = true := by decide +kernel
/-- A rail that regulates takes the marker from its boundary on, once no older record can still come. -/
theorem test_marker_boundary :
    let m : Marker := { markerOf .bankSwap 7 .internal none [.rail 0] [.swapBanks] with bstamp := some 101 }
    let s := { driving with fab := { driving.fab with markers := [m] } }
    let later := { s with clk := { s.clk with slot := 113 } }
    let early := { later with clk := { later.clk with slot := 100 } }
    nextMarker s (.rail 0) = none ∧ nextMarker later (.rail 0) = some m ∧ nextMarker early (.rail 0) = none := by
  decide +kernel
/-- One held through the reset of its pair takes, on a rail that consumes no samples, the slot of its delivery. -/
theorem test_marker_restamp :
    let m : Marker := { markerOf .bankSwap 7 (.desc 0) none [.rail 0] [.swapBanks] with
      bstamp := some 1, restamp := [.rail 0] }
    let s := { marked .swapBanks with fab := { live.fab with markers := [m] }, clk := { live.clk with slot := 500 } }
    ended (mark (.rail 0) (header 1 1) s) = some (0, 500) := by decide +kernel
theorem test_marker_words :
    let m : Marker := { markerOf .setup 9 (.commit .nvm) (some .nvm) [.nvm] [.words .nvm [(0xA000, 3)]] with
      bstamp := some 1 }
    let t := mark .nvm (header 1 1) { live with fab := { live.fab with markers := [m] } }
    t.cfg.bp = 3 ∧ t.nvm.ltag = 9 ∧ t.fab.markers = [] := by decide +kernel
theorem test_marker_slot_map :
    let m : Marker := { markerOf .slotPlan 9 (.desc 0) none [.adc] [.slotMap live.adc.slotmap live.adc.mask] with
      bstamp := some 1 }
    let at_ := fun n => { live with clk := { live.clk with slot := n }, fab := { live.fab with markers := [m] } }
    let t := mark .adc (header 1 1) (at_ 1)
    t.adc.ltag = 9 ∧ t.fab.markers = [] ∧ still (.marker .adc ⟨0, some (header 1 1)⟩) (at_ 0) = true := by
  decide +kernel
/-- Packets of other kinds: in order, repeated with its descriptor, and of a kind that no block takes. -/
theorem test_marker_other :
    let s := mark .nvm (header 6 4 5) (holding 0 (desc 0x50 0 8) live)
    let t := mark .nvm (header 6 4 5) s
    pending 0x7B s = false ∧ ended t = some (0x108, 0) ∧ pending 0x7B t = true ∧
      pending 0x59 (mark .cmp (header 9 4 5) live) = true := by decide +kernel

/-! ## Clocks, monitors and the test access port -/

theorem test_clock_reference :
    let l := after .xrefLoss live
    let h := after .pllHoldExpiry l
    let r := after .xrefReturn h
    l.clk.refsel = 1 ∧ l.clk.lossc = 1 ∧ h.clk.refsel = 2 ∧ pending 0x7C h = true ∧ r.clk.refsel = 0 ∧
      r.clk.xrefOk = true ∧ still .pllHoldExpiry live = true ∧ still .xrefReturn live = true ∧
      still .xrefLoss { live with pwr := { live.pwr with on := 1 } } = true := by
  decide +kernel
theorem test_clock_lock :
    let t := after .pllLockLoss driving
    t.clk.lock = false ∧ pending 0x7C t = true ∧ t.eng.rails[0].mode ≠ .digital ∧
      (after .pllRelock t).clk.lock = true ∧ still .pllLockLoss t = true := by decide +kernel
theorem test_monitors :
    pending 0x7D (after (.supTherm 6 3) live) = true ∧ still (.supTherm 0 0) live = true ∧
    still (.supTherm 5 0) live = true ∧ hasBit (after (.supTherm 7 13) live).pwr.lost 13 = true ∧
      hasBit (after (.supTherm 7 10) live).pwr.lost 10 = true ∧
      pending 0x7D (after (.supTherm 7 10) live) = true ∧
      still (.supTherm 7 10) { live with pwr := { live.pwr with on := 0x23FF } } = true ∧
      still (.supTherm 0 0) State.reset = true := by decide +kernel
/-- What a domain loses with its supply. -/
theorem test_monitors_domains :
    let go := fun (d : Fin 14) (s : State) => after (.supTherm 7 d) s
    (go 5 driving).pwm.rails[0].act = 0 ∧ (go 6 sampling).adc.slices[0].state = .off ∧
      (go 6 sampling).adc.slices[9].state = .service ∧ (go 7 sampling).adc.slices[9].state = .off ∧
      (go 1 queued).hif.sq[2].state = .disabled ∧
      (go 2 { driving with tmr := { driving.tmr with mirror := some 5 } }).tmr.mirror = some 5 ∧
      (go 2 driving).clk.lock = false ∧ (go 2 driving).regs.live = driving.regs.live ∧
      (go 3 heeled).eng.rails[0].ckA = none ∧ (go 8 live).cmp.win[0].low = Cmp.reset.win[0].low ∧
      (go 9 writing).nvm.queue = [] ∧ (go 0 alwaysOn).cmp.aoCfg[2] = 0x0BFF0800 := by decide +kernel
theorem test_tap :
    let go := fun (c : BitVec 5) (s : State) => (after (.testAccessPortInstruction (.instruction c)) s).tap.ir
    let m := { live with pwr := { live.pwr with tmode := true } }
    (go 0 live, go 1 live, go 2 live, go 3 live, go 4 live, go 5 live, go 30 live) = (31, 1, 2, 31, 31, 31, 31) ∧
      (go 0 m, go 3 m, go 4 m, go 5 m) = (0, 31, 4, 5) ∧
      (after (.testAccessPortInstruction (.instruction 1)) live).out.length = 1 ∧
      (after (.testAccessPortInstruction .trst) { live with tap := { live.tap with ir := 31 } }).tap.ir = 1 ∧
      (after (.testAccessPortInstruction (.scan 5 6)) (after (.testAccessPortInstruction (.instruction 2)) live)).tap.cells = 6 ∧
      (after (.testAccessPortInstruction (.scan 5 6)) (after (.testAccessPortInstruction (.instruction 2)) live)).out =
        [.tapScan 5] ∧
      still (.testAccessPortInstruction (.scan 5 6)) { live with tap := { live.tap with ir := 31 } } = true := by
  decide +kernel

/-! ## Resets, the start and sleep -/

def plain : StartSeen := { adsel := 2, tmode := false, xref := true }

theorem test_por :
    let s := { live with nvm := { live.nvm with mem := [(5, 7)], refuse := true }
                         seq := { live.seq with en := true }, flt := { live.flt with classA := true } }
    let a := after .vcc33AoPor s
    let b := after .vcc33Por s
    a.nvm.mem = [(5, 7)] ∧ a.pwr.phase = .por ∧ a.seq.en = true ∧ b.nvm.mem = [(5, 7)] ∧ b.nvm.refuse = false ∧
      b.flt.classA = false ∧ b.pwr.on = 1 := by decide +kernel
/-- The page operation that a POR cuts off, of two words, with the refusal off. -/
theorem test_por_cut : nvOpen writing = true ∧ (nextWords writing).length = 2 ∧ nvOpen live = true ∧
    nextWords live = [] := by decide +kernel
theorem test_supply_level :
    let s := { live with nvm := { live.nvm with refuse := true } }
    let t := after .supplyResetLevel s
    t.pwr.phase = .supplyReset ∧ t.nvm.refuse = true ∧ t.pwr.on = 1 ∧ t.pwr.coreGood = false ∧
      still .supplyResetLevel State.reset = true ∧
      (after (.supplyReturn plain []) live).pwr.coreGood = true := by decide +kernel
/-- The conditions of a start; the start itself reads the NV store and is too long for a test. -/
theorem test_starts :
    let m := after (.porRelease { plain with tmode := true } []) State.reset
    let s := after .supplyResetLevel live
    let r := { live with pwr := { live.pwr with resetDue := true } }
    State.reset.pwr.phase = .por ∧ State.reset.pwr.tmode = false ∧ m.pwr.tmode = true ∧ m.pwr.phase = .por ∧
      still (.porRelease plain []) m = true ∧ s.pwr.phase = .supplyReset ∧
      (after (.porRelease plain []) State.reset).pwr.phase = .supplyReset ∧
      (after (.porRelease plain []) State.reset).pwr.porWaits = true ∧
      (usedRails r.cfg).all (fun i => isDown (r.seq.rails[i].state)) = true ∧
      still (.chipReset plain []) live = true ∧ (flushLog (raise 0x51 0 0 live)).flt.queue = [] := by decide +kernel
/-- The lock of the PLL, and the example of chapter 15: M is the mirror and the gap is 34 ticks. -/
theorem test_start_pieces :
    let t := resumeTime { live with tmr := { live.tmr with mirror := some 1000, gap := 33 } }
    t.tmr.now = 1000 + 66406 ∧ t.tmr.coarse = true ∧ t.tmr.mirror = some (1000 + 66406) ∧ t.tmr.gap = 0 ∧
      (lockPll true State.reset).clk.refsel = 0 ∧ (lockPll false live).clk.refsel = 2 ∧
      pending 0x7C (lockPll false live) = true := by decide +kernel

/-- The self-test's outcome with every slice in its limits. -/
def passed : SelfTest :=
  { pairFail := 0, cals := List.replicate 18 { sum0 := 0, sum1 := 0, sum2 := 0, sum3 := 0, ref63 := 16380 }
    windowFail := [], steepFail := 0, heelFail := 0 }

theorem test_self_test :
    let s := { live with pwr := { live.pwr with phase := .selfTest } }
    let t := after (.selfTestDone { passed with pairFail := 2 }) s
    t.eng.pairs[1].failed = true ∧ t.eng.pairs[0].failed = false ∧ t.adc.slices[0].state = .failed ∧
      t.pwr.phase = .waiting ∧ still (.selfTestDone passed) live = true := by decide +kernel
theorem test_self_test_halts :
    let s := { live with pwr := { live.pwr with phase := .selfTest }, flt := { live.flt with rstc := 3 } }
    startHalts s = true ∧ (after (.selfTestDone passed) s).pwr.phase = .halted ∧
      (after (.selfTestDone passed) s).pwr.haltR = true ∧ (after (.selfTestDone passed) s).pwr.haltA = false := by
  decide +kernel
theorem test_start_complete :
    let s := { live with pwr := { live.pwr with phase := .sequencing }
                         flt := { live.flt with starting := true, rstc := 2 }
                         regs := { live.regs with autolock := true } }
    let t := after .startComplete s
    (∀ i : SeqIdx, s.cfg.use i.val = true → railSettled s i = true) ∧ t.pwr.phase = .run ∧ t.flt.rstc = 0 ∧
      t.flt.starting = false ∧ t.regs.lock = true ∧ still .startComplete live = true := by decide +kernel

theorem test_sleep :
    let go := fun (p : Nat) (s : State) => after (.sleep 0) (holding 0 (desc 0x02 p) s)
    let t := go 4 live
    ready (holding 0 (desc 0x02 4) live) 0 0x02 = some (desc 0x02 4) ∧ ended (go 0 live) = some (0x102, 0) ∧
      ended (go 1 live) = some (0x103, 0) ∧ ended (go (2 ^ 32 + 4) live) = some (0x103, 0) ∧
      waits 0 t = true ∧ t.pwr.enIgnored = true ∧ t.pwr.sleep.map (·.wake) = some 4 ∧
      ended (after (.sleep 3) (holding 3 (desc 0x02 4) t)) = some (0x104, 0) ∧
      (go (1 + 2 ^ 32) live).pwr.sleep.map (·.alarm) = some 1 := by decide +kernel

/-- A SLEEP on ring 0 with WAKEN as its source, every used rail down. -/
def drowsy : State := after (.sleep 0) (holding 0 (desc 0x02 4) live)

theorem test_sleep_entry :
    let t := after .sleepEntry drowsy
    let up := { drowsy with seq := { drowsy.seq with rails := vmod drowsy.seq.rails 0 fun r => { r with state := .on } } }
    let up := rewire [(0x7010, 0x80000000)] up
    t.pwr.phase = .asleep ∧ t.pwr.on = 1 ∧ t.pwr.wake = 4 ∧ t.pwr.wakeDue = false ∧
      still .sleepTimeout drowsy = true ∧ still .sleepEntry live = true ∧ still .sleepTimeout live = true ∧
      (up.cfg.use 0 = true → ended (after .sleepTimeout up) = some (0x10C, 0)) := by decide +kernel
theorem test_wake :
    let z := after .sleepEntry drowsy
    z.pwr.phase = .asleep ∧ wakeFires z .waken = true ∧ hasBit z.pwr.wake 2 = true ∧ z.tw.wakeMissed = false ∧
      still (.wake .perstn plain []) z = true ∧
      (after (.wake .waken plain []) drowsy).pwr.sleep.map (·.kept) = some true ∧
      still (.wake .alarm plain []) drowsy = true := by decide +kernel
theorem test_waking :
    let w := { live with pwr := { live.pwr with phase := .waking, wake := 8, on := 0x405 } }
    still (.wake .waken plain []) w = true ∧ hasBit w.pwr.wake (wakeBit .tw0) = true ∧
      rejected (after (.registerWrite .tw0 0x9000 0 .full) w) = (0x104, 0x9000) := by decide +kernel

/-! ## Rules stated whole -/

theorem test_doorbell_words :
    let page := fun (w : Word) => ([0, 0, w] ++ List.replicate 13 0 ++ [5] : List Word)
    let s := { queued with clk := { queued.clk with slot := 2048 } }
    let good_ := after (.doorbellPoll (page 15)) s
    let bad := after (.doorbellPoll (page 16)) s
    let high := after (.doorbellPoll (page 0x1003)) s
    good_.hif.sq[2].tail = 15 ∧ good_.flt = queued.flt ∧ still (.doorbellPoll (page 15)) queued = true ∧
    bad.hif.sq[2].tail = 3 ∧ pending 0x6B bad = true ∧
      bad.hif.sq[2].state = .run ∧ high.hif.sq[2].tail = 3 ∧ pending 0x6B high = true ∧
      windowClosed 0x6B 0 2 queued = true := by decide +kernel
theorem test_reserved_region :
    (after (.holdingRegisterRead .host 0xF000) live).out = [.readData .host 0] ∧
      (after (.holdingRegisterRead .host 0xFFFC) live).out = [.readData .host 0] ∧
      rejected (after (.registerWrite .host 0xF000 1 .full) live) = (0x107, 0xF000) ∧
      rejected (after (.registerWrite .host 0xFFFC 1 .full) live) = (0x107, 0xFFFC) := by decide +kernel

end Sys2Proof.Tests
end

section
/-!
Register writes (O12): what a sparse register file reads after a store, which writes `regWrite` lets
through, and how a write of a shadowed register is answered.
-/

namespace Sys2Proof.Machine

/-! ## Sparse register files -/

theorem RegMap.find_eq_none {m : RegMap} {off : Nat} (h : ∀ x ∈ m.map (·.1), x ≠ off) : m.find off = none := by
  induction m with
  | nil => rfl
  | cons e es ih =>
    rw [List.map_cons, List.forall_mem_cons] at h
    rw [RegMap.find, if_neg h.1, ih h.2]

/-- A word equal to the reset value is not kept: the file then holds nothing at its offset. -/
theorem RegMap.find_store_same {m : RegMap} (off : Nat) (d w : Word) (h : (m.map (·.1)).Pairwise (· < ·)) :
    (m.store off d w).find off = if w = d then none else some w := by
  induction m with
  | nil =>
    rw [RegMap.store]
    split <;> simp [RegMap.find]
  | cons e es ih =>
    obtain ⟨hlt, hes⟩ := List.pairwise_cons.mp h
    have tail_none (hle : off ≤ e.1) : RegMap.find es off = none :=
      RegMap.find_eq_none fun x hx => (hle.trans_lt (hlt x hx)).ne'
    rw [RegMap.store]
    rcases Nat.lt_trichotomy e.1 off with hlo | heq | hhi
    · rw [if_pos hlo, RegMap.find, if_neg hlo.ne, ih hes]
    · rw [if_neg heq.not_lt, if_pos heq]
      split
      · exact tail_none heq.ge
      · simp [RegMap.find]
    · rw [if_neg hhi.not_gt, if_neg hhi.ne']
      split
      · rw [RegMap.find, if_neg hhi.ne', tail_none hhi.le]
      · simp [RegMap.find]

theorem RegMap.find_store_other (m : RegMap) {off x : Nat} (d w : Word) (hx : x ≠ off) :
    (m.store off d w).find x = m.find x := by
  induction m with
  | nil =>
    rw [RegMap.store]
    split <;> simp [RegMap.find, hx.symm]
  | cons e es ih =>
    rw [RegMap.store]
    split
    · rw [RegMap.find, RegMap.find, ih]
    · split
      · next _ heq => split <;> simp [RegMap.find, heq, hx.symm]
      · split <;> simp [RegMap.find, hx.symm]

theorem RegMap.mem_store_keys {m : RegMap} {off x : Nat} {d w : Word}
    (h : x ∈ (m.store off d w).map (·.1)) : x = off ∨ x ∈ m.map (·.1) := by
  induction m with
  | nil =>
    rw [RegMap.store] at h
    split at h <;> simp_all
  | cons e es ih =>
    rw [RegMap.store] at h
    split at h
    · rw [List.map_cons, List.mem_cons] at h ⊢
      exact h.elim (fun he => .inr (.inl he)) fun hs => (ih hs).imp_right .inr
    · split at h
      · split at h <;> simp_all
      · split at h <;> simp_all

theorem RegMap.store_sorted {m : RegMap} (off : Nat) (d w : Word) (h : (m.map (·.1)).Pairwise (· < ·)) :
    ((m.store off d w).map (·.1)).Pairwise (· < ·) := by
  induction m with
  | nil =>
    rw [RegMap.store]
    split <;> simp
  | cons e es ih =>
    obtain ⟨hlt, hes⟩ := List.pairwise_cons.mp h
    rw [RegMap.store]
    rcases Nat.lt_trichotomy e.1 off with hlo | heq | hhi
    · rw [if_pos hlo]
      refine List.pairwise_cons.mpr ⟨fun x hx => ?_, ih hes⟩
      rcases RegMap.mem_store_keys hx with rfl | hx
      · exact hlo
      · exact hlt x hx
    · rw [if_neg heq.not_lt, if_pos heq]
      split
      · exact hes
      · exact List.pairwise_cons.mpr ⟨heq ▸ hlt, hes⟩
    · rw [if_neg hhi.not_gt, if_neg hhi.ne']
      split
      · exact h
      · refine List.pairwise_cons.mpr ⟨List.forall_mem_cons.mpr ⟨hhi, fun x hx => ?_⟩, h⟩
        exact hhi.trans (hlt x hx)

/-! ## Register words -/

theorem writable_of_spanAt {off : Nat} {p : Span} (h : spanAt off = some p) (old v : Word) :
    writable off old v = (v &&& p.rw) ||| (old &&& p.ro) := by
  rw [writable, h]

theorem writable_of_spanAt_none {off : Nat} (h : spanAt off = none) (old v : Word) :
    writable off old v = old := by
  rw [writable, h]

theorem reservedBits_of_spanAt {off : Nat} {p : Span} (h : spanAt off = some p) :
    reservedBits off = ~~~(p.rw ||| p.ro) := by
  rw [reservedBits, h]

/-- A register reads what was written, but for its read-only fields, which keep their reset values. -/
theorem wordIn_setWord_same {m : RegMap} (off : Nat) (w : Word) (h : (m.map (·.1)).Pairwise (· < ·)) :
    wordIn (setWord m off w) off = writable off (resetWord off) w := by
  rw [wordIn, setWord, RegMap.find_store_same _ _ _ h]
  split
  · next hreset => exact hreset.symm
  · rfl

theorem wordIn_setWord_other (m : RegMap) {off x : Nat} (w : Word) (h : x ≠ off) :
    wordIn (setWord m off w) x = wordIn m x := by
  rw [wordIn, setWord, RegMap.find_store_other _ _ _ h, wordIn]

theorem setWord_sorted {m : RegMap} (off : Nat) (w : Word) (h : (m.map (·.1)).Pairwise (· < ·)) :
    ((setWord m off w).map (·.1)).Pairwise (· < ·) :=
  RegMap.store_sorted _ _ _ h

/-! ## The gate of a register write -/

/-- TW1 and TW3 may not write (R399). -/
theorem regWrite_protected {m : Master} {s : State} (off : Nat) (frozen : Bool) (v reserved : Word)
    (f : State → State) (hfab : domOn s pdFab = true) (hm : m = .tw1 ∨ m = .tw3) :
    regWrite m off frozen v reserved f s = rejectWrite m off codeProtected s := by
  simp [regWrite, hfab, hm]

/-- Before the image is loaded no master may write (R472). -/
theorem regWrite_unloaded {m : Master} {s : State} (off : Nat) (frozen : Bool) (v reserved : Word)
    (f : State → State) (hfab : domOn s pdFab = true) (hm : m = .host ∨ m = .tw0)
    (hp : s.pwr.phase = .por ∨ s.pwr.phase = .supplyReset ∨ s.pwr.phase = .asleep ∨ s.pwr.phase = .waking) :
    regWrite m off frozen v reserved f s = rejectWrite m off codeBusy s := by
  have hm : ¬ (m = .tw1 ∨ m = .tw3) := by
    rcases hm with rfl | rfl <;> simp
  simp only [regWrite, hfab, Bool.not_true, Bool.false_eq_true, if_false, if_neg hm, if_pos hp]

/-- A write that passes meets the lock (R397) and then its reserved bits (R4). -/
theorem regWrite_of_pass {m : Master} {s : State} (off : Nat) (frozen : Bool) (v reserved : Word)
    (f : State → State) (h : WritesPass m s) :
    regWrite m off frozen v reserved f s =
      if s.regs.lock = true ∧ frozen = true then rejectWrite m off codeProtected s
      else if v &&& reserved ≠ 0 then rejectWrite m off codeRange s
      else f s := by
  obtain ⟨hfab, hm, hpor, hsupply, hasleep, hwaking⟩ := h
  have hm : ¬ (m = .tw1 ∨ m = .tw3) := by
    rcases hm with rfl | rfl <;> simp
  simp only [regWrite, hfab, hm, hpor, hsupply, hasleep, hwaking, Bool.not_true, Bool.false_eq_true, or_self,
    if_false, Bool.and_eq_true, and_comm (a := frozen = true)]

/-- The lock leaves HIF_SETUP_LOCK, FLT_FCLR and the two words of TMR_SET open (R397). -/
theorem frozenAt_iff (off : Nat) :
    frozenAt off = true ↔ off / 4 ≠ 1 ∧ off / 4 ≠ 0x3004 ∧ off / 4 ≠ 0x3402 ∧ off / 4 ≠ 0x3403 := by
  simp only [frozenAt, Bool.not_eq_true', List.contains_eq_mem, List.mem_cons, List.not_mem_nil,
    or_false, decide_eq_false_iff_not]
  omega

/-! ## Writes of shadowed registers -/

theorem blkAt_some {off : Nat} {b : Blk} (h : blkAt off = some b) : 3 ≤ off / 0x1000 ∧ off / 0x1000 ≤ 0xC := by
  unfold blkAt at h
  split at h
  case h_11 => cases h
  all_goals omega

/-- The shadowed registers lie in the pages of ADC to FLT (R387). -/
theorem spanAt_some_page {off : Nat} {p : Span} (h : spanAt off = some p) :
    3 ≤ off / 0x1000 ∧ off / 0x1000 ≤ 0xC := by
  unfold spanAt at h
  split at h
  · next b hb => exact blkAt_some hb
  · cases h

theorem spanAt_commitOff (b : Blk) : spanAt (commitOff b) = none := by
  cases b <;> decide

/-- A shadowed register is no COMMIT register. -/
theorem goAt_of_spanAt {off : Nat} {p : Span} (h : spanAt off = some p) : goAt off = none := by
  refine List.find?_eq_none.mpr fun b _ hb => ?_
  rw [← of_decide_eq_true hb, spanAt_commitOff] at h
  cases h

theorem writeReg_of_spanAt {off : Nat} {p : Span} (h : spanAt off = some p) (m : Master) (v : Word) (s : State) :
    writeReg m off v s = writeShadowed p.blk m off v s := by
  obtain ⟨hlo, hhi⟩ := spanAt_some_page h
  unfold writeReg
  rw [if_neg (by omega), if_neg (by omega)]
  simp only [goAt_of_spanAt h, h]

theorem exec_registerWrite_full {off : Nat} (m : Master) (v : Word) (s : State) (hoff : off < 0x10000)
    (hal : off % 4 = 0) : exec (.registerWrite m off v .full) s = .next (writeReg m off v s) := by
  simp only [exec, execRegisterWrite, if_neg hoff.not_ge, hal, decide_true, Bool.and_self, if_true]

/-- A write that is no full aligned word is rejected behind the gate (R352, R379). -/
theorem exec_registerWrite_broken {off : Nat} (m : Master) (v : Word) {w : Width} (s : State)
    (hoff : off < 0x10000) (hw : w ≠ .full ∨ off % 4 ≠ 0) :
    exec (.registerWrite m off v w) s = .next (regWrite m off (frozenAt off) v 0
      (rejectWrite m off (if 0xF000 ≤ off then codeProtected else codeRange)) s) := by
  have hw : ¬ (decide (w = .full) && decide (off % 4 = 0)) = true := by
    simpa [← not_or, imp_iff_not_or] using hw
  simp only [exec, execRegisterWrite, if_neg hoff.not_ge, if_neg hw]

/-- A broken write and a write of a shadowed register both act through the gate alone. -/
theorem exec_registerWrite_gated {off : Nat} (m : Master) (v : Word) {w : Width} (s : State)
    (hoff : off < 0x10000) (hw : w ≠ .full ∨ (spanAt off).isSome = true) :
    ∃ frozen reserved f, exec (.registerWrite m off v w) s = .next (regWrite m off frozen v reserved f s) := by
  by_cases hb : w ≠ .full ∨ off % 4 ≠ 0
  · exact ⟨_, _, _, exec_registerWrite_broken m v s hoff hb⟩
  · obtain ⟨hfull, hal⟩ := not_or.mp hb
    obtain ⟨p, hp⟩ := Option.isSome_iff_exists.mp (hw.resolve_left hfull)
    rw [not_ne_iff.mp hfull, exec_registerWrite_full m v s hoff (not_ne_iff.mp hal), writeReg_of_spanAt hp]
    exact ⟨_, _, _, rfl⟩

/-- How a write that passes to a shadowed register is answered (R392, R393, R397). -/
theorem writeShadowed_of_pass {m : Master} {s : State} {off : Nat} {p : Span} (v : Word)
    (hp : spanAt off = some p) (h : WritesPass m s) :
    writeShadowed p.blk m off v s =
      if s.regs.lock = true then rejectWrite m off codeProtected s
      else if v &&& ~~~(p.rw ||| p.ro) ≠ 0 then rejectWrite m off codeRange s
      else if goOf s p.blk = true then rejectWrite m off codeBusy s
      else { s with regs := { s.regs with
        shadow := setWord s.regs.shadow off ((v &&& p.rw) ||| (wordIn s.regs.shadow off &&& p.ro)) } } := by
  simp only [writeShadowed, regWrite_of_pass _ _ _ _ _ h, reservedBits_of_spanAt hp, writable_of_spanAt hp,
    State.upRegs, and_true]

/-! ## The answers to a register write -/

/-- The answer to a broken write that passes (R352, R379, R388, R397). -/
theorem registerWrite_broken_rejected {m : Master} {s : State} {off : Nat} (v : Word) {w : Width}
    (hoff : off < 0x10000) (h : WritesPass m s) (hw : w ≠ .full ∨ off % 4 ≠ 0) :
    ∃ t, exec (.registerWrite m off v w) s = .next t ∧
      Rejected m off (if 0xF000 ≤ off then 0x0107
        else if s.regs.lock = true ∧ off / 4 ≠ 1 ∧ off / 4 ≠ 0x3004 ∧ off / 4 ≠ 0x3402 ∧ off / 4 ≠ 0x3403 then 0x0107
        else 0x0102) s t := by
  refine ⟨_, exec_registerWrite_broken m v s hoff hw, ?_⟩
  have hv : v &&& 0 = 0 := BitVec.and_zero
  simp only [regWrite_of_pass _ _ _ _ _ h, if_neg (not_not.mpr hv), frozenAt_iff]
  by_cases hlock : s.regs.lock = true ∧ off / 4 ≠ 1 ∧ off / 4 ≠ 0x3004 ∧ off / 4 ≠ 0x3402 ∧ off / 4 ≠ 0x3403
  · rw [if_pos hlock, if_pos hlock, ite_self]
    exact reject_rejected m off _ s
  · rw [if_neg hlock, if_neg hlock]
    exact reject_rejected m off _ s

/-- The answer to a write of a shadowed register that passes (R392, R393, R397). -/
theorem registerWrite_shadowed {m : Master} {s : State} {off : Nat} {p : Span} (v : Word)
    (hoff : off < 0x10000) (hp : spanAt off = some p) (hal : off % 4 = 0) (h : WritesPass m s) :
    ∃ t, exec (.registerWrite m off v .full) s = .next t ∧
      if s.regs.lock = true then Rejected m off 0x0107 s t
      else if v &&& ~~~(p.rw ||| p.ro) ≠ 0 then Rejected m off 0x0102 s t
      else if goOf s p.blk = true then Rejected m off 0x0104 s t
      else t = { s with regs := { s.regs with
        shadow := setWord s.regs.shadow off ((v &&& p.rw) ||| (wordIn s.regs.shadow off &&& p.ro)) } } := by
  refine ⟨_, exec_registerWrite_full m v s hoff hal, ?_⟩
  rw [writeReg_of_spanAt hp, writeShadowed_of_pass v hp h]
  split
  · exact reject_rejected m off _ s
  split
  · exact reject_rejected m off _ s
  split
  · exact reject_rejected m off _ s
  · rfl

/-- Settles O12: the writes that it rejects before the register is looked at go through the gate `regWrite` alone,
a shadowed register is written through `writeShadowed`, and the register file is kept in rising order by
`RegMap.store`. -/
theorem registerWrites : Obligations.RegisterWrites := by
  unfold Obligations.RegisterWrites
  refine ⟨fun m off v s hoff hfab => ⟨fun hm w hw => ?_, fun hm hphase w hw => ?_, fun h w hw => ?_,
    fun p hp hal h => ?_⟩, fun m off w hsorted => ⟨fun p hp => ?_, fun hp => ?_, fun x hx => ?_, ?_⟩⟩
  · obtain ⟨frozen, reserved, f, hexec⟩ := exec_registerWrite_gated m v s hoff hw
    rw [regWrite_protected off frozen v reserved f hfab hm] at hexec
    exact ⟨_, hexec, reject_rejected m off _ s⟩
  · obtain ⟨frozen, reserved, f, hexec⟩ := exec_registerWrite_gated m v s hoff hw
    rw [regWrite_unloaded off frozen v reserved f hfab hm hphase] at hexec
    exact ⟨_, hexec, reject_rejected m off _ s⟩
  · exact registerWrite_broken_rejected v hoff h hw
  · exact registerWrite_shadowed v hoff hp hal h
  · rw [wordIn_setWord_same off w hsorted, writable_of_spanAt hp]
  · rw [wordIn_setWord_same off w hsorted, writable_of_spanAt_none hp]
  · exact wordIn_setWord_other m w hx
  · exact setWord_sorted off w hsorted

end Sys2Proof.Machine
end

section
/-!
The idle step (O2) and the books of SEQ at a receiver (O28).
-/

namespace Sys2Proof.Machine

/-! ## The idle step -/

theorem lt_nextEdge (rc : Nat) : rc < nextEdge rc := by
  unfold nextEdge aoEdges
  omega

theorem aoEdges_nextEdge (rc : Nat) : aoEdges (nextEdge rc) = aoEdges rc + 1 := by
  unfold nextEdge aoEdges
  omega

theorem aoEdges_of_lt_nextEdge {rc k : Nat} (hk : rc ≤ k) (hlt : k < nextEdge rc) : aoEdges k = aoEdges rc := by
  unfold nextEdge aoEdges at *
  omega

theorem onlyAo_iff (s : State) :
    onlyAo s = true ↔ s.pwr.phase = .por ∨ s.pwr.phase = .supplyReset ∨ s.pwr.phase = .asleep := by
  simp [onlyAo, or_assoc]

/-- The time that passes with PD_FAB on: the clocks and the time-stamp go on (R27, R481). -/
theorem passSlots_fabOn {s : State} (n : Nat) (hf : domOn s pdFab = true) :
    passSlots n s =
      let t : State := { s with
        clk := { s.clk with rc := s.clk.rc + n, slot := if s.clk.lock = true then s.clk.slot + n else s.clk.slot }
        tmr := { s.tmr with now := s.tmr.now + BitVec.ofNat 63 (stampTicks n s) } }
      if aoEdges (s.clk.rc + n) = aoEdges s.clk.rc then t else aoEdge t := by
  simp only [passSlots, hf, Bool.true_and, if_true]
  rfl

/-- The time that passes with PD_FAB off: the RC oscillator alone goes on (R31). -/
theorem passSlots_fabOff {s : State} (n : Nat) (hf : domOn s pdFab = false) :
    passSlots n s =
      let t : State := { s with clk := { s.clk with rc := s.clk.rc + n } }
      if aoEdges (s.clk.rc + n) = aoEdges s.clk.rc then t else aoEdge t := by
  simp only [passSlots, hf, Bool.false_and, Bool.false_eq_true, if_false]
  rfl

theorem aoEdge_fabOn {t : State} (hao : domOn t 0 = true) (hf : domOn t pdFab = true) :
    aoEdge t = { t with tmr := { t.tmr with mirror := some t.tmr.now, gap := 0 } } := by
  simp only [aoEdge, hao, hf, Bool.not_true, Bool.false_eq_true, if_false, if_true]
  rfl

theorem aoEdge_fabOff {t : State} (hao : domOn t 0 = true) (hf : domOn t pdFab = false) :
    aoEdge t = { t with tmr := { t.tmr with gap := t.tmr.gap + 1 } } := by
  simp only [aoEdge, hao, hf, Bool.not_true, Bool.false_eq_true, if_false]
  rfl

/-- What the passing of n slots gives, with and without PD_FAB, with and without an AO edge at its end. -/
theorem passSlots_cases (n : Nat) (s : State) :
    let rc := s.clk.rc + n
    let now := s.tmr.now + BitVec.ofNat 63 (stampTicks n s)
    let clk := { s.clk with rc := rc, slot := if s.clk.lock = true then s.clk.slot + n else s.clk.slot }
    (domOn s pdFab = true → aoEdges rc = aoEdges s.clk.rc →
      passSlots n s = { s with clk := clk, tmr := { s.tmr with now := now } }) ∧
    (domOn s pdFab = true → aoEdges rc ≠ aoEdges s.clk.rc → domOn s 0 = true →
      passSlots n s = { s with clk := clk, tmr := { s.tmr with now := now, mirror := some now, gap := 0 } }) ∧
    (domOn s pdFab = false → aoEdges rc = aoEdges s.clk.rc →
      passSlots n s = { s with clk := { s.clk with rc := rc } }) ∧
    (domOn s pdFab = false → aoEdges rc ≠ aoEdges s.clk.rc → domOn s 0 = true →
      passSlots n s = { s with clk := { s.clk with rc := rc }, tmr := { s.tmr with gap := s.tmr.gap + 1 } }) := by
  refine ⟨fun hf he => ?_, fun hf he hao => ?_, fun hf he => ?_, fun hf he hao => ?_⟩
  · rw [passSlots_fabOn n hf]
    exact if_pos he
  · rw [passSlots_fabOn n hf]
    exact (if_neg he).trans (aoEdge_fabOn hao hf)
  · rw [passSlots_fabOff n hf]
    exact if_pos he
  · rw [passSlots_fabOff n hf]
    exact (if_neg he).trans (aoEdge_fabOff hao hf)

/-- How many slots an idle step lets pass (log 1). -/
def idleSlots (s : State) : Nat := if onlyAo s = true then nextEdge s.clk.rc - s.clk.rc else 1

theorem idleSlot_eq (s : State) : idleSlot s = passSlots (idleSlots s) s := by
  unfold idleSlot idleSlots waitEdge endSlot
  split <;> rfl

/-- Settles O2: an idle step is `passSlots` over `idleSlots`, whose cases are PD_FAB and the AO edge. -/
theorem idleStepPassesTime : Obligations.IdleStepPassesTime := by
  unfold Obligations.IdleStepPassesTime
  intro s hs edges aoOnly
  refine ⟨idleSlot s, idleSlots s, by rw [step, hs], fun h => ?_, fun h => ?_, ?_⟩
  · exact if_neg ((onlyAo_iff s).not.mpr h)
  · have hn : idleSlots s = nextEdge s.clk.rc - s.clk.rc := if_pos ((onlyAo_iff s).mpr h)
    have hlt := lt_nextEdge s.clk.rc
    have hend : s.clk.rc + idleSlots s = nextEdge s.clk.rc := by omega
    refine ⟨by omega, ?_, fun k hk => aoEdges_of_lt_nextEdge (by omega) (by omega)⟩
    rw [hend]
    exact aoEdges_nextEdge s.clk.rc
  · rw [idleSlot_eq]
    exact passSlots_cases (idleSlots s) s

/-! ## The check of packet headers -/

/-- An entry of the books of R16 is the one of a header's sender, at a receiver and for a kind. -/
def SeqSeen.isFor (e : SeqSeen) (place : MarkerAt) (kind : Nat) (hdr : Word) : Prop :=
  e.at_ = place ∧ e.src = hdrSrc hdr ∧ e.kind.toNat = kind

/-- A packet that R15 lets a receiver take: of the kind, and of a length that the kind and the place have. -/
def PacketFits (kind : Nat) (fits : Nat → Bool) (hdr : Word) : Prop :=
  hdrKind hdr = kind ∧ lenFits kind (hdrLen hdr) = true ∧ fits (hdrLen hdr) = true

/-- The SEQ of a packet taken has become its sender's last. -/
def noteSeq (place : MarkerAt) (kind : Nat) (hdr : Word) (s : State) : State :=
  s.upFab fun f => { f with
    lastSeq := { at_ := place, src := hdrSrc hdr, kind := BitVec.ofNat 4 kind, seq := hdrSeq hdr } ::
      f.lastSeq.filter fun e => !(e.at_ == place && e.src == hdrSrc hdr && e.kind.toNat == kind) }

/-- A gap or a repeat has been counted. -/
def countSeq (s : State) : State := s.upFab fun f => { f with seqErr := incSat f.seqErr }

theorem lenFits_iff (kind len : Nat) :
    lenFits kind len = true ↔ ((kind = 0 ∨ kind = 1 ∨ kind = 4) → len = 2) ∧ (kind = 5 → 2 ≤ len) ∧
      1 ≤ len ∧ kind ≤ 8 := by
  unfold lenFits
  split
  case h_5 h0 h1 h4 h5 =>
    have hfixed : ¬ (kind = 0 ∨ kind = 1 ∨ kind = 4) := fun h => h.elim h0 fun h => h.elim h1 h4
    have hfive : kind ≠ 5 := h5
    simp [hfixed, hfive, and_comm]
  all_goals
    simp
    omega

/-- Counting up to the end of the range (R5). -/
theorem incSat_word (x : Word) : incSat x = if x = 0xFFFFFFFF then x else x + 1 := by
  unfold incSat
  by_cases h : x = 0xFFFFFFFF
  · rw [h]
    rfl
  · have : x.toNat ≠ 0xFFFFFFFF := fun hn => h (BitVec.eq_of_toNat_eq hn)
    rw [if_neg h, if_pos (by omega)]

section Hear
variable {place : MarkerAt} {kind : Nat} {fits : Nat → Bool} {hdr : Word} {s : State}

theorem hear_unfit (h : ¬ PacketFits kind fits hdr) : hear place kind fits hdr s = (s, .refused) := by
  unfold hear
  refine if_pos ?_
  by_contra hc
  simp only [not_or, ne_eq, not_not, Bool.not_eq_false] at hc
  exact h hc

/-- The sender's last packet, by which R16 judges this one. -/
def lastOf (place : MarkerAt) (kind : Nat) (hdr : Word) (s : State) : Option SeqSeen :=
  s.fab.lastSeq.find? fun e => e.at_ == place && e.src == hdrSrc hdr && e.kind.toNat == kind

/-- How far a packet's SEQ lies ahead of the sender's last. -/
def seqAhead (hdr : Word) (e : SeqSeen) : Nat := (hdrSeq hdr - e.seq).toNat

theorem hear_fit (h : PacketFits kind fits hdr) :
    hear place kind fits hdr s = match lastOf place kind hdr s with
      | none => (noteSeq place kind hdr s, .inOrder)
      | some e =>
        if seqAhead hdr e = 1 then (noteSeq place kind hdr s, .inOrder)
        else if seqAhead hdr e = 0 ∨ 512 ≤ seqAhead hdr e then (countSeq s, .repeated)
        else (countSeq (noteSeq place kind hdr s), .missing (seqAhead hdr e - 1)) := by
  obtain ⟨hk, hl, hf⟩ := h
  unfold hear
  rw [if_neg (by simp [hk, hl, hf])]
  rfl

theorem hear_first (h : PacketFits kind fits hdr) (hl : lastOf place kind hdr s = none) :
    hear place kind fits hdr s = (noteSeq place kind hdr s, .inOrder) := by
  rw [hear_fit h, hl]

theorem hear_next {e : SeqSeen} (h : PacketFits kind fits hdr) (hl : lastOf place kind hdr s = some e)
    (ha : seqAhead hdr e = 1) : hear place kind fits hdr s = (noteSeq place kind hdr s, .inOrder) := by
  simp only [hear_fit h, hl, if_pos ha]

theorem hear_again {e : SeqSeen} (h : PacketFits kind fits hdr) (hl : lastOf place kind hdr s = some e)
    (ha : seqAhead hdr e = 0 ∨ 512 ≤ seqAhead hdr e) :
    hear place kind fits hdr s = (countSeq s, .repeated) := by
  simp only [hear_fit h, hl, if_neg (show seqAhead hdr e ≠ 1 by omega), if_pos ha]

theorem hear_gap {e : SeqSeen} (h : PacketFits kind fits hdr) (hl : lastOf place kind hdr s = some e)
    (ha : 2 ≤ seqAhead hdr e ∧ seqAhead hdr e < 512) :
    hear place kind fits hdr s = (countSeq (noteSeq place kind hdr s), .missing (seqAhead hdr e - 1)) := by
  simp only [hear_fit h, hl, if_neg (show seqAhead hdr e ≠ 1 by omega),
    if_neg (show ¬ (seqAhead hdr e = 0 ∨ 512 ≤ seqAhead hdr e) by omega)]

/-- All that the check of R16 can do. -/
theorem hear_cases (place : MarkerAt) (kind : Nat) (fits : Nat → Bool) (hdr : Word) (s : State) :
    (¬ PacketFits kind fits hdr ∧ hear place kind fits hdr s = (s, .refused)) ∨
    (PacketFits kind fits hdr ∧
      (hear place kind fits hdr s = (noteSeq place kind hdr s, .inOrder) ∨
       hear place kind fits hdr s = (countSeq s, .repeated) ∨
       ∃ n, hear place kind fits hdr s = (countSeq (noteSeq place kind hdr s), .missing n))) := by
  by_cases h : PacketFits kind fits hdr
  · refine .inr ⟨h, ?_⟩
    cases hl : lastOf place kind hdr s with
    | none => exact .inl (hear_first h hl)
    | some e =>
      by_cases ha : seqAhead hdr e = 1
      · exact .inl (hear_next h hl ha)
      by_cases hb : seqAhead hdr e = 0 ∨ 512 ≤ seqAhead hdr e
      · exact .inr (.inl (hear_again h hl hb))
      · exact .inr (.inr ⟨_, hear_gap h hl (by omega)⟩)
  · exact .inl ⟨h, hear_unfit h⟩

end Hear

theorem bitsOf_lt (w : Word) (lo len : Nat) : bitsOf w lo len < 2 ^ len := Nat.mod_lt _ (by positivity)

theorem hdrSeq_toNat (hdr : Word) : (hdrSeq hdr).toNat = bitsOf hdr 22 10 := by
  rw [hdrSeq, BitVec.toNat_ofNat, Nat.mod_eq_of_lt (bitsOf_lt hdr 22 10)]

/-- The distance of two SEQs, which count modulo 1024. -/
theorem seqAhead_eq {hdr : Word} {e : SeqSeen} {k : Nat} (hk : k < 1024)
    (h : bitsOf hdr 22 10 = (e.seq.toNat + k) % 1024) : seqAhead hdr e = k := by
  have he := e.seq.isLt
  rw [seqAhead, BitVec.toNat_sub, hdrSeq_toNat, h]
  omega

theorem isFor_iff (e : SeqSeen) (place : MarkerAt) (kind : Nat) (hdr : Word) :
    (e.at_ == place && e.src == hdrSrc hdr && e.kind.toNat == kind) = true ↔ e.isFor place kind hdr := by
  simp [SeqSeen.isFor, and_assoc]

theorem lastOf_eq_none {place : MarkerAt} {kind : Nat} {hdr : Word} {s : State}
    (h : ∀ e ∈ s.fab.lastSeq, ¬ e.isFor place kind hdr) : lastOf place kind hdr s = none :=
  List.find?_eq_none.mpr fun e he hm => h e he ((isFor_iff e place kind hdr).mp hm)

/-- What the books hold after a packet of a kind that R15 knows has been taken. -/
theorem noteSeq_books {place : MarkerAt} {kind : Nat} (hdr : Word) (s : State) (hk : kind ≤ 8) :
    (∀ e ∈ (noteSeq place kind hdr s).fab.lastSeq, e.isFor place kind hdr → e.seq = hdrSeq hdr) ∧
    (∃ e ∈ (noteSeq place kind hdr s).fab.lastSeq, e.isFor place kind hdr) ∧
    ∀ e, ¬ e.isFor place kind hdr → (e ∈ (noteSeq place kind hdr s).fab.lastSeq ↔ e ∈ s.fab.lastSeq) := by
  have hnew : SeqSeen.isFor ⟨place, hdrSrc hdr, BitVec.ofNat 4 kind, hdrSeq hdr⟩ place kind hdr :=
    ⟨rfl, rfl, by rw [BitVec.toNat_ofNat]; omega⟩
  have hmem : ∀ e, e ∈ (noteSeq place kind hdr s).fab.lastSeq ↔
      e = ⟨place, hdrSrc hdr, BitVec.ofNat 4 kind, hdrSeq hdr⟩ ∨ (e ∈ s.fab.lastSeq ∧ ¬ e.isFor place kind hdr) := by
    intro e
    simp only [noteSeq, State.upFab_fab, List.mem_cons, List.mem_filter, Bool.not_eq_true',
      ← isFor_iff, Bool.not_eq_true]
  refine ⟨fun e he hfor => ?_, ⟨_, (hmem _).mpr (.inl rfl), hnew⟩, fun e hfor => ?_⟩
  · obtain rfl | ⟨-, hnot⟩ := (hmem e).mp he
    · rfl
    · exact absurd hfor hnot
  · rw [hmem]
    refine ⟨fun h => ?_, fun h => .inr ⟨h, hfor⟩⟩
    obtain rfl | ⟨h, -⟩ := h
    · exact absurd hnew hfor
    · exact h

/-- Settles O28: `hear` refuses a packet that does not fit, and judges one that does by its distance from the
sender's last SEQ. -/
theorem packetOrder : Obligations.PacketOrder := by
  unfold Obligations.PacketOrder
  intro place kind fits hdr s src seen lens taken u found counted
  have htaken : taken ↔ PacketFits kind fits hdr := by
    simp only [taken, lens, PacketFits, lenFits_iff, hdrKind, hdrLen]
    tauto
  have hlast : (s.fab.lastSeq.find? fun e => decide (seen e)) = lastOf place kind hdr s := by
    refine congrArg (fun p => s.fab.lastSeq.find? p) (funext fun e => ?_)
    exact Bool.eq_iff_iff.mpr ((decide_eq_true_iff).trans (isFor_iff e place kind hdr).symm)
  have hcount : (countSeq s).fab.seqErr = counted := incSat_word s.fab.seqErr
  refine ⟨?_, fun h => ?_, fun h hno => ?_, fun h e he => ⟨fun hk => ?_, fun hk => ?_, fun k h2 h512 hk => ?_,
    fun k h512 h1024 hk => ?_⟩, ?_⟩
  · obtain ⟨-, h⟩ | ⟨-, h | h | ⟨n, h⟩⟩ := hear_cases place kind fits hdr s <;> simp only [u, h] <;> rfl
  · simp only [found, u, hear_unfit (htaken.not.mp h), and_self]
  · simp only [found, hear_first (htaken.mp h) (lastOf_eq_none hno)]
  · simp only [found, hear_next (htaken.mp h) (hlast.symm.trans he) (seqAhead_eq (by omega) hk)]
  · have ha : seqAhead hdr e = 0 := seqAhead_eq (by omega) (by have := e.seq.isLt; omega)
    simp only [found, hear_again (htaken.mp h) (hlast.symm.trans he) (.inl ha)]
  · have ha : seqAhead hdr e = k := seqAhead_eq (by omega) hk
    simp only [found, hear_gap (htaken.mp h) (hlast.symm.trans he) (by omega), ha]
  · have ha : seqAhead hdr e = k := seqAhead_eq h1024 hk
    simp only [found, hear_again (htaken.mp h) (hlast.symm.trans he) (by omega)]
  · obtain ⟨-, h⟩ | ⟨hfit, h | h | ⟨n, h⟩⟩ := hear_cases place kind fits hdr s
    · simp [found, h]
    · have hk : kind ≤ 8 := ((lenFits_iff _ _).mp hfit.2.1).2.2.2
      obtain ⟨hseq, hin, hrest⟩ := noteSeq_books (place := place) hdr s hk
      simp only [found, u, h]
      refine ⟨by simp, by simp, fun _ => rfl, fun _ => ⟨fun e he hs => ?_, hin, hrest⟩⟩
      rw [hseq e he hs, hdrSeq_toNat]
    · simp only [found, u, h]
      exact ⟨fun _ => ⟨rfl, hcount⟩, by simp, by simp, by simp⟩
    · have hk : kind ≤ 8 := ((lenFits_iff _ _).mp hfit.2.1).2.2.2
      obtain ⟨hseq, hin, hrest⟩ := noteSeq_books (place := place) hdr s hk
      simp only [found, u, h]
      refine ⟨by simp, fun _ => hcount, by simp, fun _ => ⟨fun e he hs => ?_, hin, hrest⟩⟩
      rw [hseq e he hs, hdrSeq_toNat]

end Sys2Proof.Machine
end

section
/-!
The switching of domains (O15): what a domain loses with its supply, and that the set-up, the time and the clocks
stay.
-/

namespace Sys2Proof.Machine

/-! ## The set-up, the clocks and the time -/

/-- The register file, the clocks and the time-stamp. -/
def timing (s : State) : Regs × Clk × Tmr := (s.regs, s.clk, s.tmr)

@[simp] theorem State.upEng_timing (f : Eng → Eng) (s : State) : timing (s.upEng f) = timing s := rfl
@[simp] theorem State.upPwm_timing (f : Pwm → Pwm) (s : State) : timing (s.upPwm f) = timing s := rfl
@[simp] theorem State.upPrn_timing (f : Prn → Prn) (s : State) : timing (s.upPrn f) = timing s := rfl
@[simp] theorem State.upTw_timing (f : Tw → Tw) (s : State) : timing (s.upTw f) = timing s := rfl
@[simp] theorem State.upLdg_timing (f : Ldg → Ldg) (s : State) : timing (s.upLdg f) = timing s := rfl
@[simp] theorem State.upGau_timing (f : Gau → Gau) (s : State) : timing (s.upGau f) = timing s := rfl
@[simp] theorem State.upFab_timing (f : Fab → Fab) (s : State) : timing (s.upFab f) = timing s := rfl
@[simp] theorem State.upNvm_timing (f : Nvm → Nvm) (s : State) : timing (s.upNvm f) = timing s := rfl
@[simp] theorem State.upPwr_timing (f : Pwr → Pwr) (s : State) : timing (s.upPwr f) = timing s := rfl

theorem timing_of_quiet {s t : State} (h : quiet t = quiet s) : timing t = timing s := by
  obtain ⟨-, -, hclk, htmr, hregs, -⟩ := Quiet.of_quiet h
  rw [timing, timing, hclk, htmr, hregs]

theorem timing_ite {c : Prop} [Decidable c] (a b : State) :
    timing (if c then a else b) = if c then timing a else timing b := apply_ite timing c a b

theorem timing_each {α : Type} (xs : List α) (f : α → State → State) (s : State)
    (h : ∀ x s, timing (f x s) = timing s) : timing (State.each xs f s) = timing s := by
  unfold State.each
  induction xs generalizing s with
  | nil => rfl
  | cons x xs ih => rw [List.foldl_cons, ih, h]

theorem timing_foldl {α : Type} (xs : List α) (f : State → α → State) (s : State)
    (h : ∀ s x, timing (f s x) = timing s) : timing (xs.foldl f s) = timing s :=
  timing_each xs (fun x s => f s x) s fun x s => h s x

@[simp] theorem complete_timing (q : Ring) (status result : Nat) (s : State) :
    timing (complete q status result s) = timing s := timing_of_quiet (complete_quiet q status result s)

@[simp] theorem raise_timing (e : Nat) (src : Word) (code : Nat) (s : State) :
    timing (raise e src code s) = timing s := timing_of_quiet (raise_quiet e src code s)

@[simp] theorem raiseEnergy_timing (blk elem cause hi : Nat) (s : State) :
    timing (raiseEnergy blk elem cause hi s) = timing s := by
  unfold raiseEnergy
  exact timing_of_quiet (raiseLimited_quiet _ _ _ _ _ _ s)

/-! ## What a domain loses -/

@[simp] theorem forgetSeq_timing (p : MarkerAt → Bool) (s : State) : timing (forgetSeq p s) = timing s := rfl

@[simp] theorem losePairs_timing (ps : List PairNo) (s : State) : timing (losePairs ps s) = timing s := by
  unfold losePairs
  refine timing_each _ _ _ fun p s => ?_
  rw [timing_each, timing_each] <;> simp [blockPair]

@[simp] theorem disablePort_timing (p : Port) (s : State) : timing (disablePort p s) = timing s := by
  simp [disablePort, dropReservation, dropBook]

@[simp] theorem losePrn_timing (s : State) : timing (losePrn s) = timing s := by
  simp [losePrn, timing_each]

@[simp] theorem loseTw_timing (s : State) : timing (loseTw s) = timing s := by
  simp [loseTw, timing_foldl, endTwJob]

@[simp] theorem loseGau_timing (s : State) : timing (loseGau s) = timing s := by
  simp only [loseGau, disqualify, timing_ite, forgetSeq_timing, State.upGau_timing, State.upLdg_timing,
    raiseEnergy_timing, ite_self]

/-- The loss of a domain leaves the set-up and the time (R33). -/
theorem loseDomain_timing (d : Nat) (s : State) : timing (loseDomain d s) = timing s := by
  simp only [loseDomain, timing_ite, losePairs_timing, losePrn_timing, loseTw_timing, loseGau_timing, ite_self]

/-! ## What a domain comes on with -/

@[simp] theorem followPorts_timing (s : State) : timing (followPorts s) = timing s := by
  refine timing_each _ _ s fun p s => ?_
  simp [timing_ite]

@[simp] theorem endTwJobs_timing (n : Port) (code : Nat) (p : TwJob → Bool) (s : State) :
    timing (endTwJobs n code p s) = timing s := by
  simp [endTwJobs, timing_foldl, endTwJob]

@[simp] theorem followTw_timing (p : Port) (s : State) : timing (followTw p s) = timing s := by
  simp [followTw, twRest, timing_ite]

@[simp] theorem followTwAll_timing (s : State) : timing (followTwAll s) = timing s := by
  simp [followTwAll, timing_each]

@[simp] theorem noteCopy_timing (n : Fin 64) (k : Fin 2) (c : CopySeen) (s : State) :
    timing (noteCopy n k c s) = timing s := by
  unfold noteCopy
  split
  · simp [timing_ite]
  · rfl

@[simp] theorem recLook_timing (ecc : EccReport) (n : Fin 64) (s : State) :
    timing (recLook ecc n s).s = timing s := by
  unfold recLook
  split
  · rfl
  · split
    · rfl
    · dsimp only
      split <;> simp

@[simp] theorem gaugeBoot_timing (ecc : EccReport) (s : State) : timing (gaugeBoot ecc s) = timing s := by
  have hstart : timing (gaugeStart ecc s) = timing s := by
    unfold gaugeStart
    dsimp only
    split <;> simp [gaugeFrom, gaugeNew]
  unfold gaugeBoot
  split
  · simp [gaugeNew]
  · dsimp only
    split <;> simp [hstart]

/-- So does the return of a domain. -/
theorem raiseDomain_timing (d : Nat) (s : State) : timing (raiseDomain d s) = timing s := by
  simp [raiseDomain, timing_ite]

/-! ## Updates of several entries of a vector -/

/-- v with the entries at these places changed, one after the other. -/
def modEach {α : Type} {n : Nat} (is : List (Fin n)) (f : Fin n → α → α) (v : Vector α n) : Vector α n :=
  is.foldl (fun v i => vmod v i (f i)) v

theorem modEach_get {α : Type} {n : Nat} {is : List (Fin n)} (h : is.Nodup) (f : Fin n → α → α) (v : Vector α n)
    (k : Fin n) : (modEach is f v)[k] = if k ∈ is then f k v[k] else v[k] := by
  unfold modEach
  induction is generalizing v with
  | nil => simp
  | cons i is ih =>
    obtain ⟨hi, his⟩ := List.nodup_cons.mp h
    rw [List.foldl_cons, ih his]
    by_cases hk : k = i
    · rw [hk, if_neg hi, if_pos List.mem_cons_self, vmod_same]
    · rw [vmod_other v _ (Ne.symm hk)]
      simp only [List.mem_cons, hk, false_or]

theorem nodup_fins (n : Nat) : (fins n).Nodup := List.nodup_ofFn.mpr Function.injective_id

theorem mem_fins {n : Nat} (i : Fin n) : i ∈ fins n := List.mem_ofFn.mpr ⟨i, rfl⟩

theorem mem_filter_fins {n : Nat} (i : Fin n) (p : Fin n → Bool) : i ∈ (fins n).filter p ↔ p i = true := by
  simp [mem_fins]

theorem each_upEngRail (rs : List Rail) (f : Rail → EngRail → EngRail) (s : State) :
    State.each rs (fun r => State.upEngRail r (f r)) s = s.upEng fun e => { e with rails := modEach rs f e.rails } := by
  induction rs generalizing s with
  | nil => rfl
  | cons r rs ih => exact ih (s.upEngRail r (f r))

theorem each_upPhase (hs : List Phase) (f : Phase → Phasor → Phasor) (s : State) :
    State.each hs (fun h => State.upPhase h (f h)) s = s.upPwm fun p => { p with phases := modEach hs f p.phases } := by
  induction hs generalizing s with
  | nil => rfl
  | cons h hs ih => exact ih (s.upPhase h (f h))

/-! ## Lane pairs that lose their supply -/

/-- What one lane pair loses with its domain (R91, R128). -/
def losePair (mirror : Bool) (p : PairNo) (s : State) : State :=
  ((blockPair p s).upEng fun e => { e with
    pairs := vmod e.pairs p fun k => { Pair.reset with failed := k.failed }
    rails := modEach ((fins 8).filter fun r => pairOf s r == p) (fun _ => EngRail.lost mirror) e.rails }).upPwm fun w =>
      { w with
        phases := modEach ((fins 48).filter fun h => pairOf s (railOf s.cfg h) == p) (fun _ => Phasor.noTrim) w.phases }

theorem losePairs_eq (ps : List PairNo) (s : State) :
    losePairs ps s = State.each ps (losePair (domOn s pdEngA)) s := by
  unfold losePairs
  dsimp only
  refine congrArg (fun f => State.each ps f s) (funext fun p => funext fun u => ?_)
  rw [each_upEngRail, each_upPhase]
  rfl

theorem losePair_pairs (mirror : Bool) (p q : PairNo) (s : State) :
    (losePair mirror p s).eng.pairs[q] =
      if q = p then { Pair.reset with failed := s.eng.pairs[q].failed } else s.eng.pairs[q] := by
  have h : (losePair mirror p s).eng.pairs = vmod s.eng.pairs p fun k => { Pair.reset with failed := k.failed } := rfl
  rw [h]
  by_cases hq : q = p
  · rw [hq, if_pos rfl, vmod_same]
  · rw [if_neg hq, vmod_other _ _ (Ne.symm hq)]

theorem losePair_rails (mirror : Bool) (p : PairNo) (r : Rail) (s : State) :
    (losePair mirror p s).eng.rails[r] =
      if pairOf s r = p then EngRail.lost mirror s.eng.rails[r] else s.eng.rails[r] := by
  have h : (losePair mirror p s).eng.rails =
      modEach ((fins 8).filter fun r => pairOf s r == p) (fun _ => EngRail.lost mirror) s.eng.rails := rfl
  rw [h, modEach_get ((nodup_fins 8).filter _)]
  simp only [mem_filter_fins, beq_iff_eq]

/-- The lane pairs of a lost domain are as at reset, but for FAILED (R128). -/
theorem losePairs_pairs (ps : List PairNo) (q : PairNo) (s : State) :
    (losePairs ps s).eng.pairs[q] =
      if q ∈ ps then { Pair.reset with failed := s.eng.pairs[q].failed } else s.eng.pairs[q] := by
  rw [losePairs_eq]
  generalize domOn s pdEngA = mirror
  unfold State.each
  induction ps generalizing s with
  | nil => simp
  | cons p ps ih =>
    rw [List.foldl_cons, ih, losePair_pairs]
    by_cases hq : q = p <;> simp [hq]

/-- Their rails keep what EngRail.lost names (R91, R125). -/
theorem losePairs_rails {ps : List PairNo} (hps : ps.Nodup) (r : Rail) (s : State) :
    (losePairs ps s).eng.rails[r] =
      if pairOf s r ∈ ps then EngRail.lost (domOn s pdEngA) s.eng.rails[r] else s.eng.rails[r] := by
  rw [losePairs_eq]
  generalize domOn s pdEngA = mirror
  unfold State.each
  induction ps generalizing s with
  | nil => simp
  | cons p ps ih =>
    obtain ⟨hp, hps⟩ := List.nodup_cons.mp hps
    have hpair : pairOf (losePair mirror p s) r = pairOf s r := rfl
    rw [List.foldl_cons, ih hps, losePair_rails, hpair]
    by_cases hr : pairOf s r = p
    · simp [hr, hp]
    · simp [hr]

/-! ## Ports that follow their domain -/

/-- A run over places none of which but k touches what g shows, shows what its step at k does. -/
theorem each_at {β : Type} {n : Nat} {is : List (Fin n)} (f : Fin n → State → State) (g : State → β) {k : Fin n}
    (s : State) (his : is.Nodup) (hk : k ∈ is) (h : ∀ i u, i ≠ k → g (f i u) = g u) :
    ∃ u, g u = g s ∧ g (State.each is f s) = g (f k u) := by
  have hrest (is : List (Fin n)) (u : State) (hnot : k ∉ is) : g (State.each is f u) = g u := by
    unfold State.each
    induction is generalizing u with
    | nil => rfl
    | cons i is ih =>
      obtain ⟨hi, his⟩ := List.ne_and_not_mem_of_not_mem_cons hnot
      rw [List.foldl_cons, ih _ his, h i u (Ne.symm hi)]
  induction is generalizing s with
  | nil => exact absurd hk List.not_mem_nil
  | cons i is ih =>
    obtain ⟨hi, his⟩ := List.nodup_cons.mp his
    by_cases he : i = k
    · exact ⟨s, rfl, he ▸ hrest is (f i s) (he ▸ hi)⟩
    · obtain ⟨u, hu, hg⟩ := ih (f i s) his ((List.mem_cons.mp hk).resolve_left (Ne.symm he))
      exact ⟨u, hu.trans (h i s he), hg⟩

/-- What a port's following of its domain looks at, and changes. -/
def portView (k : Port) (s : State) : PrnPort × Regs × Pwr := (s.prn.ports[k], s.regs, s.pwr)

/-- One port follows its EN and its domain (R182). -/
def followPort (p : Port) (s : State) : State :=
  let on := s.cfg.portEn p.val && domOn s pdPrn && domOn s pdFab
  if on && s.prn.ports[p].state == .disabled then s.upPort p fun q => { q with state := .unsync }
  else if !on && s.prn.ports[p].state != .disabled then disablePort p s
  else s

theorem followPorts_eq (s : State) : followPorts s = State.each (fins 4) followPort s := rfl

theorem disablePort_view_other {p k : Port} (h : p ≠ k) (s : State) :
    portView k (disablePort p s) = portView k s := by
  simp [portView, disablePort, dropReservation, dropBook, h]

theorem followPort_view_other {p k : Port} (h : p ≠ k) (s : State) : portView k (followPort p s) = portView k s := by
  unfold followPort
  dsimp only
  split
  · simp [portView, h]
  split
  · exact disablePort_view_other h s
  · rfl

/-- A disabled port of a domain that is on comes to UNSYNC where it is enabled (R182). -/
theorem followPorts_disabled {s : State} {p : Port} (hprn : domOn s pdPrn = true) (hfab : domOn s pdFab = true)
    (hp : s.prn.ports[p].state = .disabled) : (followPorts s).prn.ports[p] =
      { s.prn.ports[p] with state := if s.cfg.portEn p.val then .unsync else .disabled } := by
  obtain ⟨u, hu, hg⟩ := each_at followPort (portView p) s (nodup_fins 4) (mem_fins p)
    fun i u hi => followPort_view_other hi u
  simp only [portView, Prod.mk.injEq] at hu hg
  obtain ⟨hport, hregs, hpwr⟩ := hu
  have hcfg : u.cfg = s.cfg := congrArg (fun g : Regs => Setup.of g.live) hregs
  have hdom (d : Nat) : domOn u d = domOn s d := by rw [domOn, domOn, hpwr]
  rw [followPorts_eq, hg.1, ← hport]
  unfold followPort
  simp only [hcfg, hdom, hprn, hfab, hport, hp, Bool.and_true]
  by_cases hen : s.cfg.portEn p.val = true
  · rw [Fin.getElem_fin, Fin.getElem_fin] at hport
    simp [hen, hport]
  · simp [hen, hport, ← hp]

/-! ## DOMAIN and PWR_DCMD -/

theorem hostDomain_iff (d : Nat) : hostDomain d = true ↔ HostSwitched d := by
  simp only [hostDomain, HostSwitched, Bool.or_eq_true, decide_eq_true_eq]
  unfold pdEngB pdPrn pdTw pdGau
  omega

theorem disqualify_newPack (reason : Nat) (s : State) : (disqualify reason s).gau.newPack = s.gau.newPack := by
  unfold disqualify
  split
  · rfl
  · dsimp only
    split
    · have hq : quiet (raiseEnergy 1 2 11 reason (s.upGau fun u => { u with learn := none })) =
          quiet (s.upGau fun u => { u with learn := none }) := by
        unfold raiseEnergy
        exact raiseLimited_quiet _ _ _ _ _ _ _
      obtain ⟨-, -, -, -, -, -, -, -, -, hgau, -⟩ := Quiet.of_quiet hq
      rw [hgau]
      rfl
    · rfl

/-- A domain that the host switches off (R32, R33). -/
theorem dropDomain_switched {d : Nat} {s : State} (hd : HostSwitched d) : Switched d false s (dropDomain d s) := by
  have hk : kept (loseDomain d s) = kept s := loseDomain_kept d s
  have ht : timing (loseDomain d s) = timing s := loseDomain_timing d s
  simp only [kept, timing, Prod.mk.injEq] at hk ht
  obtain ⟨-, htap, -, -, hon, hmem⟩ := hk
  obtain ⟨hregs, hclk, htmr⟩ := ht
  refine ⟨?_, hregs, hclk, htmr, hmem, htap, fun _ => ?_, fun h4 => ⟨fun p => ?_, fun r => ?_⟩, nofun, fun h _ => ?_,
    fun h _ => ?_, nofun, fun h _ => ?_⟩
  · simp only [dropDomain, State.upPwr_pwr, hon]
  · have hlt : d < 14 := by
      unfold HostSwitched at hd
      omega
    simp only [dropDomain, State.upPwr_pwr]
    exact hasBit_putBit_same _ false hlt
  · subst h4
    have hin : p ∈ ([2, 3] : List PairNo) ↔ 2 ≤ p.val := by
      revert p
      decide
    simp only [dropDomain, State.upPwr_eng, loseDomain, pdEngB, if_true, losePairs_pairs, hin, true_and]
  · subst h4
    have hin : pairOf s r ∈ ([2, 3] : List PairNo) ↔ 2 ≤ (pairOf s r).val := by
      generalize pairOf s r = p
      revert p
      decide
    have hps : ([2, 3] : List PairNo).Nodup := by decide
    simp only [dropDomain, State.upPwr_eng, loseDomain, pdEngB, if_true, losePairs_rails hps, hin, true_and]
  · subst h
    rfl
  · subst h
    rfl
  · subst h
    refine ⟨rfl, ?_⟩
    exact congrArg (fun b => { Gau.reset with newPack := b }) (disqualify_newPack 0 s)

/-- A domain that the host switches on (R32). -/
theorem raiseDomain_switched {d : Nat} {s : State} (hd : HostSwitched d) (hfab : domOn s pdFab = true) :
    Switched d true s (raiseDomain d s) := by
  have ht : timing (raiseDomain d s) = timing s := raiseDomain_timing d s
  simp only [timing, Prod.mk.injEq] at ht
  obtain ⟨hregs, hclk, htmr⟩ := ht
  have hk : kept (raiseDomain d s) = kept (s.upPwr fun p => { p with on := putBit p.on d true }) := by
    unfold raiseDomain
    dsimp only
    split
    · exact followPorts_kept _
    split
    · exact followTwAll_kept _
    split
    · exact gaugeBoot_kept _ _
    · rfl
  simp only [kept, Prod.mk.injEq] at hk
  obtain ⟨-, htap, -, -, hon, hmem⟩ := hk
  refine ⟨hon, hregs, hclk, htmr, hmem, htap, nofun, fun h4 => ⟨fun p => ?_, fun r => ?_⟩, fun h4 _ => ?_, nofun,
    nofun, fun h _ hlost p hp => ?_, nofun⟩
  · subst h4
    rfl
  · subst h4
    rfl
  · subst h4
    rfl
  · subst h
    have hraise : raiseDomain 11 s = followPorts (s.upPwr fun p => { p with on := putBit p.on 11 true }) := rfl
    have hbit (k : Nat) : domOn (s.upPwr fun p => { p with on := putBit p.on 11 true }) k =
        (hasBit (putBit s.pwr.on 11 true) k && !hasBit s.pwr.lost k) := rfl
    rw [hraise]
    refine followPorts_disabled ?_ ?_ hp
    · rw [hbit, pdPrn, hasBit_putBit_same _ _ (by omega), hlost]
      rfl
    · rw [hbit, pdFab, hasBit_putBit_other _ _ (by omega)]
      exact hfab

/-- The code of a request for a domain (R32, R369). -/
def domainCode (s : State) (d : Nat) (on : Bool) : Option Nat :=
  if 14 ≤ d then some 0x0102
  else if ¬ HostSwitched d then some 0x0105
  else if on = false ∧ hasBit s.pwr.on d = true ∧ domInUse s d = true then some 0x0105
  else none

theorem domainCheck_eq (s : State) (d : Nat) (on : Bool) : domainCheck s d on = domainCode s d on := by
  unfold domainCheck domainCode
  simp only [Bool.not_eq_true', Bool.and_eq_true, ← hostDomain_iff, Bool.not_eq_true, and_assoc]
  rfl

theorem domainCode_none {s : State} {d : Nat} {on : Bool} (h : domainCode s d on = none) : HostSwitched d := by
  by_contra hd
  unfold domainCode at h
  rw [if_pos hd] at h
  split at h <;> cases h

/-- An accepted request leaves a domain that is already so, and switches another. -/
theorem switchDomain_switched {s : State} {d : Nat} {on : Bool} (h : domainCode s d on = none)
    (hfab : domOn s pdFab = true) :
    if hasBit s.pwr.on d = on then switchDomain d on s = s else Switched d on s (switchDomain d on s) := by
  have hd := domainCode_none h
  unfold switchDomain
  by_cases hon : hasBit s.pwr.on d = on
  · rw [if_pos hon, if_pos (beq_iff_eq.mpr hon)]
  · rw [if_neg hon, if_neg (mt beq_iff_eq.mp hon)]
    cases on
    · exact dropDomain_switched hd
    · exact raiseDomain_switched hd hfab

/-- What PWR_DCMD holds for a domain and the direction of its switch (R390). -/
theorem dcmd_fields {v : Word} {d : Nat} {on : Bool} (hd : d < 16) (hv : v.toNat = d + 256 * on.toNat) :
    bitsOf v 0 4 = d ∧ hasBit v 8 = on ∧ v &&& 0xFFFFFEF0 = 0 := by
  have hall : ∀ (d : Fin 16) (on : Bool), let v := BitVec.ofNat 32 (d.val + 256 * on.toNat)
      bitsOf v 0 4 = d.val ∧ hasBit v 8 = on ∧ v &&& 0xFFFFFEF0 = 0 := by decide
  rw [BitVec.eq_of_toNat_eq (x := v) (y := BitVec.ofNat 32 (d + 256 * on.toNat)) (by
    rw [BitVec.toNat_ofNat, hv]
    cases on <;> simp <;> omega)]
  exact hall ⟨d, hd⟩ on

/-- Settles O15: both commands go through `domainCheck` and `switchDomain`. -/
theorem domainSwitches : Obligations.DomainSwitches := by
  unfold Obligations.DomainSwitches
  intro s d on hd code
  have hcheck : domainCheck s d on = code := domainCheck_eq s d on
  refine ⟨fun q x hx hpf hon => ?_, fun m v hpass hlock hv => ?_⟩
  · obtain ⟨e, he, -, -, -, hfab, -⟩ := ready_some hx
    have hdir : decide (x.pf 8 1 = 1) = on := by
      cases on <;> simp [hon]
    refine ⟨_, rfl, ?_⟩
    simp only [hx, hpf, hdir, hcheck]
    cases hcode : code with
    | some c => exact complete_ends c 0 he
    | none =>
      have hsw := switchDomain_switched hcode hfab
      dsimp only
      split
      · next h =>
        rw [if_pos h] at hsw
        rw [hsw]
        exact complete_ends 0 0 he
      · next h =>
        rw [if_neg h] at hsw
        exact ⟨_, hsw, rfl⟩
  · obtain ⟨hdom, hbit, hres⟩ := dcmd_fields hd hv
    refine ⟨_, rfl, ?_⟩
    rw [writeDcmd, regWrite_pass 0x1008 _ hpass (fun _ => hlock) hres]
    simp only [hdom, hbit, hcheck]
    cases hcode : code with
    | some c => exact reject_rejected m 0x1008 c s
    | none =>
      have hsw := switchDomain_switched hcode hpass.1
      dsimp only
      split
      · next h => rwa [if_pos h] at hsw
      · next h => rwa [if_neg h] at hsw

end Sys2Proof.Machine
end

section
/-!
Comparators (O37): the turn of a window and what follows on the wires that it drives, the wires of a phase's window,
and the always-on comparators.
-/

namespace Sys2Proof.Machine

/-! ## The turn of a window -/

/-- A window has turned one of its comparators; the latch is set where the output turns not-good (R233, R236). -/
def turnWindow (w : Window) (high notGood : Bool) (s : State) : State :=
  s.upWin w fun x => { x with
    high := if high then notGood else x.high, low := if high then x.low else notGood
    latch := x.latch || (notGood && !x.low && !x.high) }

/-- The window trigger of the injected sequence has arrived (R67). -/
def markTrigger (s : State) : State :=
  { s with adc := { s.adc with inj := { s.adc.inj with trig := putBit s.adc.inj.trig 0 true } } }

theorem windowTrigger_eq (v : Window) (s : State) :
    windowTrigger v s =
      if s.cfg.wen = true ∧ s.cfg.injEn = true ∧ s.cfg.trigWin = v.val then markTrigger s else s := by
  unfold windowTrigger triggerInjected
  by_cases hen : s.cfg.injEn = true
  · simp only [hen, true_and, Bool.and_eq_true, decide_eq_true_eq]
    rfl
  · simp [hen]

/-- A window that drives no wires. -/
theorem drives_eq_none {s : State} {w : Window} (h : ∀ k : Window, k.val < 76 → wireWindow s k ≠ w) :
    drives s w = none := by
  refine List.find?_eq_none.mpr fun k _ => ?_
  simpa using h k

/-- A window that drives the wires of one window alone. -/
theorem drives_eq_some {s : State} {w k : Window} (hk : k.val < 76) (hw : wireWindow s k = w)
    (h : ∀ l : Window, l.val < 76 → wireWindow s l = w → l = k) : drives s w = some k := by
  cases hd : drives s w with
  | none =>
    have := List.find?_eq_none.mp hd k (mem_fins k)
    simp [hk, hw] at this
  | some l =>
    have hl := List.find?_some hd
    simp only [Bool.and_eq_true, decide_eq_true_eq] at hl
    rw [h l hl.1 hl.2]

/-- What the turn of a window leaves before its wires. -/
def afterTurn (w : Window) (high notGood : Bool) (s : State) : State :=
  if (notGood && !s.cmp.win[w].live) = true ∧ 76 ≤ w.val then windowTrigger w (turnWindow w high notGood s)
  else turnWindow w high notGood s

theorem exec_comparatorTransition {s : State} {w : Window} {high notGood : Bool} (hcmp : domOn s pdCmp = true)
    (hside : (if high then s.cmp.win[w].high else s.cmp.win[w].low) = !notGood) :
    exec (.comparatorTransition w high notGood) s = .next (match drives s w with
      | some v => onWires v high notGood (notGood && !s.cmp.win[w].live) (afterTurn w high notGood s)
      | none => afterTurn w high notGood s) := by
  have hturn : (s.upWin w fun x =>
      let y := if high then { x with high := notGood } else { x with low := notGood }
      { y with latch := y.latch || (notGood && !s.cmp.win[w].live) }) = turnWindow w high notGood s := by
    cases high <;> simp [turnWindow, State.upCmp, vmod, Win.live, Bool.and_assoc]
  have hdrives : drives (afterTurn w high notGood s) w = drives s w := by
    unfold afterTurn
    rw [windowTrigger_eq]
    split
    · split <;> rfl
    · rfl
  have hne : ((if high then s.cmp.win[w].high else s.cmp.win[w].low) == notGood) = false := by
    rw [hside]
    cases notGood <;> rfl
  show Host.Outcome.next _ = _
  simp only [hcmp, hne, Bool.not_true, Bool.or_self, Bool.false_eq_true, if_false, hturn, Bool.and_eq_true,
    decide_eq_true_eq]
  rw [← hdrives]
  simp only [afterTurn, Bool.and_eq_true] <;> rfl

theorem onWires_still (k : Window) (high notGood : Bool) (s : State) :
    onWires k high notGood false s = windowWires k high notGood s := rfl

theorem onWires_turned (k : Window) (high notGood : Bool) (s : State) :
    onWires k high notGood true s =
      windowWires k high notGood (windowMonitor k (windowTrigger k (latchTrip k high s))) := rfl

theorem latchTrip_raised {k : Window} (high : Bool) {s : State} (h : s.cfg.even k.val = true) :
    RaisedOnce 0x57 0 k.val s (latchTrip k high s) := by
  rw [latchTrip, if_pos h]
  exact raiseLimited_raised _ _ _ _ _ _ _ (by decide)

theorem latchTrip_masked {k : Window} (high : Bool) {s : State} (h : s.cfg.even k.val = false) :
    latchTrip k high s = s := by
  simp [latchTrip, h]

theorem latchTrip_cfg (k : Window) (high : Bool) (s : State) : (latchTrip k high s).cfg = s.cfg := by
  unfold latchTrip
  split
  · have hq := timing_of_quiet (raiseLimited_quiet 0x57 0 k.val (winSrc k.val (bit high) 0) 0 noAccess s)
    exact congrArg (fun g : Regs => Setup.of g.live) (congrArg Prod.fst hq)
  · rfl

theorem windowMonitor_supply {k : Window} {s : State} (h : k.val = 74) :
    RaisedOnce 0x7D 1 0 s (windowMonitor k s) := by
  rw [windowMonitor, if_pos h]
  exact raiseLimited_raised _ _ _ _ _ _ _ (by decide)

theorem windowMonitor_heat {k : Window} {s : State} (h : k.val = 75) :
    RaisedOnce 0x7D 6 5 s (windowMonitor k s) := by
  rw [windowMonitor, if_neg (by omega), if_pos h]
  exact raiseLimited_raised _ _ _ _ _ _ _ (by decide)

theorem windowMonitor_other {k : Window} (s : State) (h74 : k.val ≠ 74) (h75 : k.val ≠ 75) :
    windowMonitor k s = s := by
  rw [windowMonitor, if_neg h74, if_neg h75]

/-! ## Wires (R12, R156) -/

theorem windowWires_none {w : Window} (high notGood : Bool) (s : State) (h48 : 48 ≤ w.val)
    (hheel : w.val < 56 ∨ 64 ≤ w.val) (h72 : w.val ≠ 72) : windowWires w high notGood s = s := by
  unfold windowWires
  rw [dif_neg (by omega), if_neg (by omega), if_neg h72]

theorem windowWires_return {w : Window} (high notGood : Bool) (s : State) (h72 : w.val = 72) :
    windowWires w high notGood s = s.upSeq fun q => { q with
      retqual := !(wires s w).low && !(wires s w).high && s.ldg.src != .input } := by
  unfold windowWires
  rw [dif_neg (by omega), if_neg (by omega), if_pos h72, Win.live, Bool.not_or]

section PhaseWires
variable {w : Window} {h : Phase} {s : State}

theorem windowWires_highClears (hw : w.val = h.val) : windowWires w true false s = s := by
  have hlt : w.val < 48 := by omega
  simp [windowWires, hlt]

theorem windowWires_lowClears (hw : w.val = h.val) : windowWires w false false s = lowClears h s := by
  have hlt : w.val < 48 := by omega
  have hh : (⟨w.val, hlt⟩ : Phase) = h := Fin.ext hw
  simp [windowWires, hlt, hh]

theorem windowWires_highTrip (hw : w.val = h.val) : windowWires w true true s = highTrip h s := by
  have hlt : w.val < 48 := by omega
  have hh : (⟨w.val, hlt⟩ : Phase) = h := Fin.ext hw
  simp [windowWires, hlt, hh]

theorem windowWires_lowTrip (hw : w.val = h.val) : windowWires w false true s = lowTrip h s := by
  have hlt : w.val < 48 := by omega
  have hh : (⟨w.val, hlt⟩ : Phase) = h := Fin.ext hw
  simp [windowWires, hlt, hh]

theorem Pulse.lastBy_single {u : Pulse} (t : Nat) (hu : u.again = none) : u.lastBy t = u := by
  simp [Pulse.lastBy, hu]

theorem Phasor.single_of_single {p : Phasor} (now : Nat) (hp : ∀ a ∈ p.pulse, a.again = none) : p.single now = p := by
  unfold Phasor.single
  split
  · rfl
  · next u hu => rw [if_pos (by rw [hp u hu, Option.isNone_none])]

/-- A phase is between the edges of a pulse that stands alone. -/
theorem inPulse_single (hp : ∀ a ∈ s.pwm.phases[h].pulse, a.again = none) :
    inPulse s h = s.pwm.phases[h].pulse.any fun a =>
      decide (a.onAt ≤ s.clk.rc * 64) && decide (s.clk.rc * 64 < a.offAt) := by
  unfold inPulse rcNow
  cases hu : s.pwm.phases[h].pulse with
  | none => rfl
  | some u => simp only [Option.any_some, Pulse.lastBy_single _ (hp u hu)]

theorem vmod_id {α : Type} {n : Nat} {v : Vector α n} {i : Fin n} {f : α → α} (hf : f v[i] = v[i]) :
    vmod v i f = v := by
  rw [vmod, hf]
  exact Vector.set_getElem_self i.isLt

/-- No part of a correction is under way on the rail, so that the high side takes none away. -/
theorem dropFiring_none {r : Rail} (hfire : s.fb[r].firing = []) :
    (s.upFb r fun b => { b with firing := b.firing.filter (· != h) }) = s := by
  have : vmod s.fb r (fun b => { b with firing := b.firing.filter (· != h) }) = s.fb := by
    refine vmod_id ?_
    generalize s.fb[r] = b at hfire
    cases b
    cases hfire
    rfl
  rw [State.upFb, this]

theorem cutPulse_single (hp : ∀ a ∈ s.pwm.phases[h].pulse, a.again = none) :
    cutPulse h s = if inPulse s h = true then s.upPhase h fun p => p.level (rcNow s) .pulses else s := by
  have hagain : s.pwm.phases[h].pulse.any (·.again.isSome) = false := by
    cases hu : s.pwm.phases[h].pulse with
    | none => rfl
    | some u => simp [hp u hu]
  unfold cutPulse
  cases inPulse s h
  · rfl
  · simp only [Bool.not_true, Bool.false_eq_true, if_false, if_true, State.upPhase, State.upPwm, vmod, hagain]

/-- Two updates of a phase agree where they make the same of what it is. -/
theorem upPhase_congr {f g : Phasor → Phasor} (hfg : f s.pwm.phases[h] = g s.pwm.phases[h]) :
    s.upPhase h f = s.upPhase h g := by
  simp only [State.upPhase, State.upPwm, vmod, hfg]

/-- The phase of an update that has been made of the phase before it. -/
theorem upPhase_same (f : Phasor → Phasor) : (s.upPhase h f).pwm.phases[h] = f s.pwm.phases[h] :=
  vmod_same ..

theorem highTrip_single (hp : ∀ a ∈ s.pwm.phases[h].pulse, a.again = none)
    (hfire : s.fb[railOf s.cfg h].firing = []) (hlight : s.pwm.rails[railOf s.cfg h].opmode ≠ .light) :
    highTrip h s = s.upPhase h fun p =>
      if inPulse s h = true then
        { p with tripped := true, drive := .pulses, pulse := none, past := (p.retire (rcNow s)).past }
      else { p with tripped := true } := by
  have hmode : ((cutPulse h s).upPhase h fun p => { p with tripped := true }).pwm.rails = s.pwm.rails := by
    rw [cutPulse_single hp]
    split <;> rfl
  dsimp only [highTrip]
  rw [dropFiring_none hfire, if_neg (by rw [hmode, beq_false_of_ne hlight]; simp), cutPulse_single hp]
  cases inPulse s h
  · rfl
  · simp [State.upPwm, State.upPhase, vmod, Phasor.level, Phasor.retire]

theorem lowTrip_single (hp : ∀ a ∈ s.pwm.phases[h].pulse, a.again = none) :
    lowTrip h s = s.upPhase h fun p =>
      let q := { p with tripped := p.tripped || !(s.pwm.rails[railOf s.cfg h].opmode == .light &&
        hasBit s.pwm.rails[railOf s.cfg h].act h.val) }
      if p.drive = .low ∨ (p.drive = .pulses ∧ inPulse s h = false) then
        { q with drive := .mid, pulse := none, past := (p.retire (rcNow s)).past }
      else if p.drive = .pulses then { q with drive := .pulsesMid } else q := by
  unfold lowTrip
  simp only [State.upPhase, State.upPwm, vmod]
  cases hd : s.pwm.phases[h].drive
  case low => simp [Phasor.level, Phasor.retire]
  case pulses =>
    cases inPulse s h
    · simp [Phasor.level, Phasor.retire]
    · simp only [Bool.not_true, Bool.false_eq_true, if_false, and_false, or_false, reduceCtorEq, if_true]
      rw [Phasor.single_of_single]
      exact hp
  all_goals simp

end PhaseWires

/-! ## Always-on comparators (R243, R244) -/

/-- One side of an always-on comparator has turned. -/
def turnAo (k : Fin 3) (high notGood : Bool) (s : State) : State :=
  s.upCmp fun c => { c with
    aoHigh := if high then vput c.aoHigh k notGood else c.aoHigh
    aoLow := if high then c.aoLow else vput c.aoLow k notGood }

theorem exec_aoComparatorChange_off {s : State} {k : Fin 3} {high notGood : Bool}
    (h : (if high then s.cmp.aoHigh[k] else s.cmp.aoLow[k]) = notGood ∨ hasBit s.cmp.aoCfg[k] 15 = false) :
    exec (.aoComparatorChange k high notGood) s = .next s := by
  show Host.Outcome.next _ = _
  rw [if_pos (by rcases h with h | h <;> simp [-Fin.getElem_fin, h])]

/-- What an always-on comparator that has turned brings about. -/
def afterAo (k : Fin 3) (high notGood : Bool) (s : State) : State :=
  let v := turnAo k high notGood s
  if aoLive s k = aoLive v k then v
  else if s.pwr.phase = .asleep then
    if aoWakes s k (aoLive v k) && hasBit s.pwr.wake 1 then v.upPwr fun p => { p with wakeDue := true } else v
  else
    let w := if aoWakes s k (aoLive v k) then v.upPwr fun p =>
        { p with sleep := p.sleep.map fun j => if hasBit j.wake 1 then { j with kept := true } else j }
      else v
    if aoLive v k && domOn s pdFab then raise 0x5A (srcId 0x6 0x2 k.val 0 0) 0 w else w

theorem exec_aoComparatorChange_on {s : State} {k : Fin 3} {high notGood : Bool}
    (hside : (if high then s.cmp.aoHigh[k] else s.cmp.aoLow[k]) ≠ notGood) (hen : hasBit s.cmp.aoCfg[k] 15 = true) :
    exec (.aoComparatorChange k high notGood) s = .next (afterAo k high notGood s) := by
  have hturn : (s.upCmp fun c =>
      if high then { c with aoHigh := vput c.aoHigh k notGood }
      else { c with aoLow := vput c.aoLow k notGood }) = turnAo k high notGood s := by
    cases high <;> rfl
  have hdom : ∀ (b : Bool) (f : Pwr → Option SleepJob),
      domOn (if b = true then (turnAo k high notGood s).upPwr fun p => { p with sleep := f p }
        else turnAo k high notGood s) pdFab = domOn s pdFab := by
    intro b f
    cases b <;> rfl
  show Host.Outcome.next _ = _
  rw [if_neg (by simp [-Fin.getElem_fin, hside, hen])]
  simp only [hturn, beq_iff_eq, hdom]
  rfl

/-- WAKE selects the side that the comparator has turned to. -/
theorem aoWakes_iff (s : State) (k : Fin 3) (notGood : Bool) :
    aoWakes s k notGood = true ↔ bitsOf s.cmp.aoCfg[k] 30 2 = 3 ∨
      (bitsOf s.cmp.aoCfg[k] 30 2 = 1 ∧ notGood = true) ∨ (bitsOf s.cmp.aoCfg[k] 30 2 = 2 ∧ notGood = false) := by
  unfold aoWakes
  split
  · next h => simp [-Fin.getElem_fin, h]
  · next h => simp [-Fin.getElem_fin, h]
  · next h => simp [-Fin.getElem_fin, h]
  · next h1 h2 h3 =>
    have hne (n : Nat) (h : bitsOf s.cmp.aoCfg[k] 30 2 = n → False) : (bitsOf s.cmp.aoCfg[k] 30 2 = n) = False :=
      eq_false h
    simp [-Fin.getElem_fin, hne 1 h1, hne 2 h2, hne 3 h3]

theorem aoWakes_decide (s : State) (k : Fin 3) (notGood b : Bool) :
    (aoWakes s k notGood && b) = decide ((bitsOf s.cmp.aoCfg[k] 30 2 = 3 ∨
      (bitsOf s.cmp.aoCfg[k] 30 2 = 1 ∧ notGood = true) ∨ (bitsOf s.cmp.aoCfg[k] 30 2 = 2 ∧ notGood = false)) ∧
        b = true) := by
  rw [Bool.eq_iff_iff, Bool.and_eq_true, aoWakes_iff, decide_eq_true_eq]

/-- No sleep is under way whose wake condition could be kept. -/
theorem keepWake_none {s : State} (h : s.pwr.sleep = none) (f : SleepJob → SleepJob) :
    (s.upPwr fun p => { p with sleep := p.sleep.map f }) = s := by
  have : ({ s.pwr with sleep := s.pwr.sleep.map f } : Pwr) = s.pwr := by
    generalize s.pwr = p at h
    cases p
    cases h
    rfl
  rw [State.upPwr, this]

theorem afterAo_still {s : State} {k : Fin 3} {high notGood : Bool}
    (hl : aoLive s k = aoLive (turnAo k high notGood s) k) : afterAo k high notGood s = turnAo k high notGood s :=
  if_pos hl

theorem afterAo_asleep {s : State} {k : Fin 3} {high notGood wakes : Bool}
    (hl : aoLive s k ≠ aoLive (turnAo k high notGood s) k) (ha : s.pwr.phase = .asleep)
    (hw : (aoWakes s k (aoLive (turnAo k high notGood s) k) && hasBit s.pwr.wake 1) = wakes) :
    afterAo k high notGood s =
      { turnAo k high notGood s with pwr := { s.pwr with wakeDue := s.pwr.wakeDue || wakes } } := by
  unfold afterAo
  rw [if_neg hl, if_pos ha, hw]
  cases wakes
  · rw [Bool.or_false]
    rfl
  · rw [Bool.or_true]
    rfl

theorem afterAo_awake {s : State} {k : Fin 3} {high notGood : Bool}
    (hl : aoLive s k ≠ aoLive (turnAo k high notGood s) k) (ha : s.pwr.phase ≠ .asleep) (hn : s.pwr.sleep = none) :
    afterAo k high notGood s =
      if (aoLive (turnAo k high notGood s) k && domOn s pdFab) = true then
        raise 0x5A (srcId 0x6 0x2 k.val 0 0) 0 (turnAo k high notGood s)
      else turnAo k high notGood s := by
  have hkeep (f : SleepJob → SleepJob) :
      ((turnAo k high notGood s).upPwr fun p => { p with sleep := p.sleep.map f }) = turnAo k high notGood s :=
    keepWake_none (s := turnAo k high notGood s) hn f
  unfold afterAo
  rw [if_neg hl, if_neg ha]
  simp only [hkeep, ite_self]

theorem afterAo_raised {s : State} {k : Fin 3} {high notGood : Bool}
    (hl : aoLive s k ≠ aoLive (turnAo k high notGood s) k) (ha : s.pwr.phase ≠ .asleep) (hn : s.pwr.sleep = none)
    (hv : aoLive (turnAo k high notGood s) k = true) (hd : domOn s pdFab = true) :
    Raised 0x5A (turnAo k high notGood s) (afterAo k high notGood s) := by
  rw [afterAo_awake hl ha hn, if_pos ((Bool.and_eq_true ..).mpr ⟨hv, hd⟩)]
  exact raise_raised _ _ _ _ (by decide)

theorem afterAo_silent {s : State} {k : Fin 3} {high notGood : Bool}
    (hl : aoLive s k ≠ aoLive (turnAo k high notGood s) k) (ha : s.pwr.phase ≠ .asleep) (hn : s.pwr.sleep = none)
    (hvd : aoLive (turnAo k high notGood s) k = false ∨ domOn s pdFab = false) :
    afterAo k high notGood s = turnAo k high notGood s := by
  rw [afterAo_awake hl ha hn]
  rcases hvd with h | h <;> simp only [h, Bool.false_and, Bool.and_false, Bool.false_eq_true, if_false]

/-- The turn of a window that drives the wires of one window. -/
theorem turn_drives {s : State} {w k : Window} {high notGood : Bool} (hcmp : domOn s pdCmp = true)
    (hside : (if high then s.cmp.win[w].high else s.cmp.win[w].low) = !notGood) (hk : k.val < 76)
    (hw : wireWindow s k = w) (hone : ∀ l : Window, l.val < 76 → wireWindow s l = w → l = k) :
    exec (.comparatorTransition w high notGood) s = .next
      (onWires k high notGood (notGood && !s.cmp.win[w].live) (afterTurn w high notGood s)) := by
  rw [exec_comparatorTransition hcmp hside, drives_eq_some hk hw hone]

theorem afterTurn_cfg (w : Window) (high notGood : Bool) (s : State) : (afterTurn w high notGood s).cfg = s.cfg := by
  unfold afterTurn
  rw [windowTrigger_eq]
  split
  · split <;> rfl
  · rfl

/-- The model's text of the state before the wires. -/
theorem afterTurn_eq (w : Window) (high notGood : Bool) (s : State) :
    afterTurn w high notGood s =
      if 76 ≤ w.val ∧ (notGood = true ∧ s.cmp.win[w].low = false ∧ s.cmp.win[w].high = false) ∧
        s.cfg.wen = true ∧ s.cfg.injEn = true ∧ s.cfg.trigWin = w.val
      then markTrigger (turnWindow w high notGood s) else turnWindow w high notGood s := by
  have hcfg : (turnWindow w high notGood s).cfg = s.cfg := rfl
  unfold afterTurn
  rw [windowTrigger_eq, hcfg]
  simp only [Win.live, Bool.and_eq_true, Bool.not_eq_true', Bool.or_eq_false_iff, ← ite_and]
  exact if_congr (by tauto) rfl rfl

/-- The output of a window turns not-good (R236). -/
def TurnsNotGood (w : Window) (notGood : Bool) (s : State) : Prop :=
  notGood = true ∧ s.cmp.win[w].low = false ∧ s.cmp.win[w].high = false

theorem turnsNotGood_iff (w : Window) (notGood : Bool) (s : State) :
    (notGood && !s.cmp.win[w].live) = true ↔ TurnsNotGood w notGood s := by
  simp [-Fin.getElem_fin, TurnsNotGood, Win.live]

/-- The steps of a turned window, on the way to its wires (R236, R67, R496). -/
theorem onWires_steps {k : Window} {high notGood turned : Bool} {T : Prop} {s a : State} (hT : turned = true ↔ T)
    (hcfg : a.cfg = s.cfg) :
    ∃ v z y, onWires k high notGood turned a = windowWires k high notGood y ∧
      (T → s.cfg.even k.val = true → RaisedOnce 0x57 0 k.val a v) ∧
      (¬ T ∨ s.cfg.even k.val = false → v = a) ∧
      (T ∧ s.cfg.wen = true ∧ s.cfg.injEn = true ∧ s.cfg.trigWin = k.val → z = markTrigger v) ∧
      (¬ (T ∧ s.cfg.wen = true ∧ s.cfg.injEn = true ∧ s.cfg.trigWin = k.val) → z = v) ∧
      (T → k.val = 74 → RaisedOnce 0x7D 1 0 z y) ∧ (T → k.val = 75 → RaisedOnce 0x7D 6 5 z y) ∧
      (¬ T ∨ k.val ≠ 74 ∧ k.val ≠ 75 → y = z) := by
  rw [← hT]
  cases turned with
  | false => exact ⟨a, a, a, onWires_still .., by simp⟩
  | true =>
    have hcfg' : (latchTrip k high a).cfg = s.cfg := (latchTrip_cfg ..).trans hcfg
    refine ⟨latchTrip k high a, _, _, onWires_turned .., fun _ he => latchTrip_raised _ (hcfg ▸ he),
      fun he => latchTrip_masked _ (by simpa [hcfg] using he), fun hs => ?_, fun hs => ?_,
      fun _ => windowMonitor_supply, fun _ => windowMonitor_heat, fun hk => ?_⟩
    · rw [windowTrigger_eq, hcfg', if_pos hs.2]
    · rw [windowTrigger_eq, hcfg', if_neg fun h => hs ⟨rfl, h⟩]
    · obtain ⟨h74, h75⟩ := hk.resolve_left (by simp)
      exact windowMonitor_other _ h74 h75

/-! ## The obligation -/

theorem turn_same {s : State} {w : Window} {high notGood : Bool}
    (h : domOn s pdCmp = false ∨ (if high then s.cmp.win[w].high else s.cmp.win[w].low) = notGood) :
    exec (.comparatorTransition w high notGood) s = .next s := by
  show Host.Outcome.next _ = _
  rw [if_pos (by rcases h with h | h <;> simp [-Fin.getElem_fin, h])]

/-- Settles O37: each clause is one case of the two executions above, with the windows' wires as they are. -/
theorem comparators : Obligations.Comparators := by
  unfold Obligations.Comparators
  refine ⟨fun s w high notGood => ⟨turn_same, fun hcmp hside => ⟨fun hk => ?_, fun k hk76 hkw hone => ?_⟩,
      fun h48 hheel h72 => windowWires_none _ _ _ h48 hheel h72, fun h72 => windowWires_return _ _ _ h72,
      fun h hw => ⟨windowWires_highClears hw, fun hp => ⟨?_, fun hfire hlight => ⟨_, rfl, ?_⟩, _, rfl, ?_⟩⟩⟩,
    fun s k high notGood => ⟨exec_aoComparatorChange_off, fun hside hen => ⟨_, exec_aoComparatorChange_on hside hen,
      afterAo_still, fun hl ha => afterAo_asleep hl ha (aoWakes_decide ..), fun hl ha hn =>
        ⟨afterAo_raised hl ha hn, afterAo_silent hl ha hn⟩⟩⟩⟩
  · rw [exec_comparatorTransition hcmp hside, drives_eq_none hk, afterTurn_eq]
    rfl
  · obtain ⟨v, z, y, hy, hsteps⟩ := onWires_steps (k := k) (high := high) (notGood := notGood)
      (turnsNotGood_iff w notGood s) (afterTurn_cfg w high notGood s)
    rw [afterTurn_eq] at hsteps
    exact ⟨v, z, y, by rw [turn_drives hcmp hside hk76 hkw hone, hy], hsteps⟩
  · rw [windowWires_lowClears hw, lowClears, inPulse_single hp]
    simp only [beq_iff_eq]
  · rw [windowWires_highTrip hw, highTrip_single hp hfire hlight, inPulse_single hp]
    refine upPhase_congr ?_
    simp only [upPhase_same]
    unfold rcNow
    split
    · rfl
    · rfl
  · rw [windowWires_lowTrip hw, lowTrip_single hp, inPulse_single hp]
    refine upPhase_congr ?_
    simp only [upPhase_same]
    unfold rcNow
    split
    · rfl
    · rfl

end Sys2Proof.Machine
end

section
/-!
DUTY packets and carrier periods (O35): what a packet loads into the compare registers of a phase, and what a start of
a carrier's period brings.
-/

namespace Sys2Proof.Machine

/-! ## What hearing a packet leaves -/

/-- The check of a packet touches the books of SEQ alone. -/
theorem hear_frame (place : MarkerAt) (kind : Nat) (fits : Nat → Bool) (hdr : Word) (s : State) :
    (hear place kind fits hdr s).1 = { s with fab := (hear place kind fits hdr s).1.fab } := by
  rcases hear_cases place kind fits hdr s with ⟨-, h⟩ | ⟨-, h | h | ⟨n, h⟩⟩ <;> rw [h] <;> rfl

/-! ## A command on its way into a phase (R141 to R143) -/

/-- A command makes the same of a phase in two states that agree on the clocks, the set-up and the rails. -/
theorem loadCmd_congr {s t : State} (hclk : t.clk = s.clk) (hcfg : t.cfg = s.cfg) (hrails : t.pwm.rails = s.pwm.rails)
    (r : Rail) (c : Cmd) (p : Phasor) : loadCmd t r c p = loadCmd s r c p := by
  have hnow : rcNow t = rcNow s := by rw [rcNow, hclk, rcNow]
  have hlead : rcLead t = rcLead s := by rw [rcLead, hclk, rcLead]
  have htick : nextTick t = nextTick s := by rw [nextTick, hnow, nextTick]
  have hmin : tonMin t r = tonMin s r := by rw [tonMin, hcfg, tonMin]
  have hmax : tonMax t r = tonMax s r := by rw [tonMax, hcfg, tonMax]
  have hoff : toffMin t r = toffMin s r := by rw [toffMin, hcfg, toffMin]
  have hbound : boundOn t r = boundOn s r := funext fun n => by rw [boundOn, hmin, hmax, boundOn]
  cases c with
  | mid => rw [loadCmd, hnow, loadCmd]
  | on =>
    have htrain : trainFrom t r = trainFrom s r := funext fun a => by rw [trainFrom, hmax, hoff, trainFrom]
    have hafter : afterOff t r = afterOff s r :=
      funext fun p => funext fun a => by rw [afterOff, hnow, hoff, afterOff]
    have hforce : forceOn t r p = forceOn s r p := by
      unfold forceOn
      rw [hnow, htick, htrain, hafter]
    rw [loadCmd, hforce, loadCmd]
  | time n =>
    have hskip : lightSkips t r n = lightSkips s r n := by rw [lightSkips, hmin, hrails, lightSkips]
    have hpulse : pulseOf t r = pulseOf s r := by
      unfold pulseOf
      rw [hcfg, hlead, hoff]
    have hretime : retime t r n = retime s r n := by
      unfold retime
      rw [hcfg, hpulse, hbound, hmin, hmax, hoff, htick]
    have hplan : replanPulse t r n = replanPulse s r n := by
      unfold replanPulse
      rw [hpulse, hbound, hskip, hnow, htick]
    have hload : loadTime t r n p = loadTime s r n p := by
      unfold loadTime
      rw [hnow, hlead, hcfg, hretime, hplan]
    rw [loadCmd, hload, loadCmd]

/-- What of a phase says whether it takes a packet's command, and from which position. -/
def Phasor.plan (p : Phasor) : PhState × Option Phase × Bool := (p.state, p.subfor, p.midNext)

theorem Phasor.retire_plan (now : Nat) (p : Phasor) : (p.retire now).plan = p.plan := rfl

theorem Phasor.single_plan (now : Nat) (p : Phasor) : (p.single now).plan = p.plan := by
  unfold Phasor.single
  split
  · rfl
  · split <;> rfl

theorem forceOn_plan (s : State) (r : Rail) (p : Phasor) : (forceOn s r p).plan = p.plan := by
  simp only [forceOn, Phasor.retire]
  split_ifs <;> rfl

theorem replanPulse_plan (s : State) (r : Rail) (n : Nat) (p : Phasor) : (replanPulse s r n p).plan = p.plan := by
  simp only [replanPulse, Phasor.level, Phasor.retire]
  split_ifs <;> rfl

theorem loadTime_plan (s : State) (r : Rail) (n : Nat) (p : Phasor) : (loadTime s r n p).plan = p.plan := by
  rw [← Phasor.single_plan (rcNow s) p]
  dsimp only [loadTime]
  split
  · split_ifs
    · exact replanPulse_plan ..
    · rfl
    · rfl
  · split_ifs
    · rfl
    · exact replanPulse_plan ..
    · rfl

theorem loadCmd_plan (s : State) (r : Rail) (c : Cmd) (p : Phasor) : (loadCmd s r c p).plan = p.plan := by
  cases c with
  | mid => rfl
  | on => exact forceOn_plan s r p
  | time n => exact loadTime_plan s r n p

/-! ## DUTY packets in the compare registers (R17, R141) -/

/-- A phase takes what a packet carries at its position: active, and not about to drive MID. -/
def takesDuty (s : State) (r : Rail) (h : Phase) : Bool :=
  hasBit s.pwm.rails[r].act h.val && s.pwm.phases[h].state == .active && !s.pwm.phases[h].midNext

/-- A phase behind packets. -/
def loadedPhase (r : Rail) (ps : List DutyPkt) (s : State) (h : Phase) (p : Phasor) : Phasor :=
  if takesDuty s r h then
    match codeAt ps (dutyPlace s h) with
    | some n => loadCmd s r (cmdOf n) p
    | none => p
  else p

theorem dutyPlace_congr {s t : State} (hcfg : t.cfg = s.cfg)
    (hplan : ∀ k : Phase, t.pwm.phases[k].plan = s.pwm.phases[k].plan) (h : Phase) :
    dutyPlace t h = dutyPlace s h := by
  have hstate (k : Phase) : t.pwm.phases[k].state = s.pwm.phases[k].state := congrArg Prod.fst (hplan k)
  have hsub (k : Phase) : t.pwm.phases[k].subfor = s.pwm.phases[k].subfor := congrArg (·.2.1) (hplan k)
  unfold dutyPlace outOfService
  simp only [hcfg, hstate, hsub]

theorem takesDuty_congr {s t : State} {h : Phase} {r : Rail} (hrails : t.pwm.rails = s.pwm.rails)
    (hplan : t.pwm.phases[h].plan = s.pwm.phases[h].plan) : takesDuty t r h = takesDuty s r h := by
  have hstate : t.pwm.phases[h].state = s.pwm.phases[h].state := congrArg Prod.fst hplan
  have hmid : t.pwm.phases[h].midNext = s.pwm.phases[h].midNext := congrArg (·.2.2) hplan
  rw [takesDuty, hrails, hstate, hmid, takesDuty]

theorem loadedPhase_plan (r : Rail) (ps : List DutyPkt) (s : State) (h : Phase) (p : Phasor) :
    (loadedPhase r ps s h p).plan = p.plan := by
  unfold loadedPhase
  split
  · split
    · exact loadCmd_plan ..
    · rfl
  · rfl

/-- Two runs agree where their steps agree on what holds throughout the second. -/
theorem each_congr {α : Type} {P : State → Prop} {f g : α → State → State} (hfg : ∀ x u, P u → f x u = g x u)
    (hP : ∀ x u, P u → P (g x u)) (xs : List α) (s : State) (hs : P s) : State.each xs f s = State.each xs g s := by
  unfold State.each
  induction xs generalizing s with
  | nil => rfl
  | cons x xs ih => rw [List.foldl_cons, List.foldl_cons, hfg x s hs, ih _ (hP x s hs)]

/-- A state on the way of a run that loads phases: the others are as they were, and each has its plan. -/
def LoadsPhases (s u : State) : Prop :=
  u.clk = s.clk ∧ u.cfg = s.cfg ∧ u.pwm.rails = s.pwm.rails ∧ ∀ k : Phase, u.pwm.phases[k].plan = s.pwm.phases[k].plan

theorem upPhase_get (h k : Phase) (f : Phasor → Phasor) (s : State) :
    (s.upPhase h f).pwm.phases[k] = if k = h then f s.pwm.phases[k] else s.pwm.phases[k] := by
  split
  · next hk =>
    subst hk
    exact upPhase_same f
  · next hk => exact vmod_other _ _ (Ne.symm hk)

/-- DUTY packets, as one update of the phases. -/
theorem loadDuty_eq (r : Rail) (ps : List DutyPkt) (s : State) :
    loadDuty r ps s = if pwmDriven s r then
      s.upPwm fun w => { w with phases := modEach (fins 48) (loadedPhase r ps s) w.phases } else s := by
  have hstep (h : Phase) (u : State) (hu : LoadsPhases s u) :
      (if hasBit u.pwm.rails[r].act h.val && u.pwm.phases[h].state == .active && !u.pwm.phases[h].midNext then
        match codeAt ps (dutyPlace u h) with
        | some n => u.upPhase h (loadCmd u r (cmdOf n))
        | none => u
      else u) = u.upPhase h (loadedPhase r ps s h) := by
    obtain ⟨hclk, hcfg, hrails, hplan⟩ := hu
    have hid : u = u.upPhase h fun p => p := by simp [State.upPwm, vmod]
    have htakes := takesDuty_congr (r := r) hrails (hplan h)
    rw [dutyPlace_congr hcfg hplan]
    show (if takesDuty u r h then _ else _) = _
    rw [htakes]
    unfold loadedPhase
    split
    · cases hc : codeAt ps (dutyPlace s h) with
      | some n => exact congrArg (fun f => u.upPhase h f) (funext fun p => loadCmd_congr hclk hcfg hrails r _ p)
      | none => exact hid
    · exact hid
  have hkeep (h : Phase) (u : State) (hu : LoadsPhases s u) :
      LoadsPhases s (u.upPhase h (loadedPhase r ps s h)) := by
    obtain ⟨hclk, hcfg, hrails, hplan⟩ := hu
    refine ⟨hclk, hcfg, hrails, fun k => ?_⟩
    rw [upPhase_get]
    split
    · rw [loadedPhase_plan, hplan]
    · exact hplan k
  unfold loadDuty
  cases pwmDriven s r
  · rfl
  · rw [if_pos rfl, ← each_upPhase]
    exact each_congr hstep hkeep (fins 48) s ⟨rfl, rfl, rfl, fun _ => rfl⟩

/-- A phase of a driven rail takes a packet's command (R17, R141). -/
def TakesDuty (s : State) (r : Rail) (h : Phase) : Prop :=
  s.fb[r].hact = false ∧ s.fb[r].path ≠ .none ∧ s.pwm.rails[r].opmode ≠ .off ∧
    hasBit s.pwm.rails[r].act h.val = true ∧ s.pwm.phases[h].state = .active ∧ s.pwm.phases[h].midNext = false

theorem takesDuty_iff (s : State) (r : Rail) (h : Phase) :
    TakesDuty s r h ↔ pwmDriven s r = true ∧ takesDuty s r h = true := by
  unfold TakesDuty pwmDriven takesDuty
  simp only [Bool.and_eq_true, bne_iff_ne, Bool.not_eq_true', beq_iff_eq]
  tauto

/-- The state with the packets that the PWM subsystem has heard off the stream. -/
def heardDuty (f : Fab) (q : List DutyPkt) (s : State) : State := { s with fab := f, eng := { s.eng with dutyQ := q } }

theorem loadDuty_none (r : Rail) (s : State) : loadDuty r [] s = s := by
  unfold loadDuty State.each
  split
  · rfl
  · exact List.foldl_fixed' (fun h => ite_self s) (fins 48)

theorem loadDuty_frame (r : Rail) (ps : List DutyPkt) (s : State) :
    loadDuty r ps s = { s with pwm := { s.pwm with phases := (loadDuty r ps s).pwm.phases } } := by
  rw [loadDuty_eq]
  split <;> rfl

theorem loadDuty_takes {r : Rail} {ps : List DutyPkt} {s : State} {h : Phase} {n : Nat} (f : Fab) (q : List DutyPkt)
    (ht : TakesDuty s r h) (hc : codeAt ps (dutyPlace s h) = some n) :
    (loadDuty r ps (heardDuty f q s)).pwm.phases[h] = loadCmd s r (cmdOf n) s.pwm.phases[h] := by
  obtain ⟨hdriven, htakes⟩ := (takesDuty_iff s r h).mp ht
  have hload (p : Phasor) : loadedPhase r ps (heardDuty f q s) h p = loadCmd s r (cmdOf n) p := by
    have hplace : dutyPlace (heardDuty f q s) h = dutyPlace s h := rfl
    unfold loadedPhase
    rw [hplace, hc, if_pos (show takesDuty (heardDuty f q s) r h = true from htakes)]
    exact loadCmd_congr (s := s) (t := heardDuty f q s) rfl rfl rfl r (cmdOf n) p
  rw [loadDuty_eq, if_pos (show pwmDriven (heardDuty f q s) r = true from hdriven)]
  show (modEach _ _ s.pwm.phases)[h] = _
  rw [modEach_get (nodup_fins 48), if_pos (mem_fins h), hload]

theorem loadDuty_passes {r : Rail} {ps : List DutyPkt} {s : State} {h : Phase} (f : Fab) (q : List DutyPkt)
    (ht : ¬ TakesDuty s r h ∨ codeAt ps (dutyPlace s h) = none) :
    (loadDuty r ps (heardDuty f q s)).pwm.phases[h] = s.pwm.phases[h] := by
  rw [loadDuty_eq]
  split
  · next hdriven =>
    have hload (p : Phasor) : loadedPhase r ps (heardDuty f q s) h p = p := by
      have hplace : dutyPlace (heardDuty f q s) h = dutyPlace s h := rfl
      unfold loadedPhase
      rcases ht with ht | hc
      · exact if_neg fun htakes => ht ((takesDuty_iff s r h).mpr ⟨hdriven, htakes⟩)
      · rw [hplace, hc]
        exact ite_self p
    show (modEach _ _ s.pwm.phases)[h] = _
    rw [modEach_get (nodup_fins 48), if_pos (mem_fins h), hload]
  · rfl

/-! ## What the PWM subsystem hears (R16, R17, R24) -/

/-- The packets of a rail that are on their way. -/
def dutyOf (s : State) (r : Rail) : List DutyPkt :=
  s.eng.dutyQ.filter fun d => decide (d.rail = r ∧ d.lost = false)

theorem nextDuty_eq (s : State) (r : Rail) :
    nextDuty s r = match dutyOf s r with
      | [] => []
      | d :: ds => d :: ds.filter fun e => decide (e.stamp = d.stamp) := by
  have hmine : (s.eng.dutyQ.filter fun d => d.rail = r && !d.lost) = dutyOf s r := by
    unfold dutyOf
    refine congrArg (fun p => s.eng.dutyQ.filter p) (funext fun d => ?_)
    cases d.lost <;> simp
  unfold nextDuty
  rw [hmine]
  cases dutyOf s r with
  | nil => rfl
  | cons d ds => simp

theorem rail_of_dutyOf {s : State} {r : Rail} {d : DutyPkt} (h : d ∈ dutyOf s r) : d.rail = r := by
  have := (List.mem_filter.mp h).2
  simp only [decide_eq_true_eq] at this
  exact this.1

/-- A marker that the engine has taken and the PWM subsystem is still to stands before a packet (R24). -/
theorem behindMarker_iff (s : State) (d : DutyPkt) :
    behindMarker s d = true ↔ ∃ m ∈ s.fab.markers, .pwm ∈ m.targets ∧ .engine ∉ m.targets ∧
      .rail d.rail ∉ m.targets ∧ (m.rails = 0 ∨ hasBit m.rails d.rail.val = true) ∧
      ∃ b, m.bstamp = some b ∧ b ≤ d.stamp := by
  unfold behindMarker
  simp only [List.any_eq_true, Bool.and_eq_true, List.contains_iff_mem, Bool.not_eq_true', Bool.or_eq_true,
    decide_eq_true_eq, Option.any_eq_true, ← Bool.not_eq_true, and_assoc]

theorem exec_duty_waits {s : State} {r : Rail} {hdrs : DutyHeaders} (h : dutyOf s r = [] ∨ domOn s pdPwm = false) :
    exec (.duty r hdrs) s = .next s := by
  show Host.Outcome.next _ = _
  rw [nextDuty_eq]
  rcases h with h | h
  · rw [h]
  · cases dutyOf s r with
    | nil => rfl
    | cons d ds => exact congrArg _ (if_pos (by rw [h]; rfl))

theorem exec_duty_behind {s : State} {r : Rail} {hdrs : DutyHeaders} {d : DutyPkt} {ds : List DutyPkt}
    (h : dutyOf s r = d :: ds) (hb : behindMarker s d = true) : exec (.duty r hdrs) s = .next s := by
  show Host.Outcome.next _ = _
  rw [nextDuty_eq, h]
  exact congrArg _ (if_pos (by rw [hb, Bool.or_true]))

section Heard
variable {s : State} {r : Rail} {d : DutyPkt} {ds : List DutyPkt} (h : dutyOf s r = d :: ds)
  (hdom : domOn s pdPwm = true) (hb : behindMarker s d = false) (hfirst : d.second = false)
include h hdom hb hfirst

/-- The one packet of a sample on its way. -/
theorem exec_duty_one (hone : ∀ e ∈ ds, e.stamp ≠ d.stamp) (hdrs : DutyHeaders) :
    exec (.duty r hdrs) s = .next (loadDuty r (hearDuty d hdrs.first s).2 (hearDuty d hdrs.first s).1) := by
  have hds : (ds.filter fun e => decide (e.stamp = d.stamp)) = [] :=
    List.filter_eq_nil_iff.mpr fun e he => by simpa using hone e he
  show Host.Outcome.next _ = _
  rw [nextDuty_eq, h]
  simp only [hds, hdom, hb, hfirst, Bool.not_true, Bool.or_self, Bool.false_eq_true, if_false, List.append_nil]

/-- The two packets of a sample on their way. -/
theorem exec_duty_two {e : DutyPkt} {es : List DutyPkt}
    (htwo : (ds.filter fun e => decide (e.stamp = d.stamp)) = e :: es) (hdrs : DutyHeaders) :
    exec (.duty r hdrs) s = .next (
      let a := hearDuty d hdrs.first s
      let b := hearDuty e hdrs.second a.1
      loadDuty r (a.2 ++ b.2) b.1) := by
  show Host.Outcome.next _ = _
  rw [nextDuty_eq, h]
  simp only [htwo, hdom, hb, hfirst, Bool.not_true, Bool.or_self, Bool.false_eq_true, if_false]

end Heard

/-- What the receiver of DUTY packets makes of the SEQ of a packet. -/
def hearPwm (d : DutyPkt) (w : Word) (s : State) : State × Heard :=
  hear .pwm 8 (fun len => decide (len = d.words.length)) w s

/-- The state behind a packet that has left the stream. -/
theorem heardDuty_eq (d : DutyPkt) (w : Word) (q : List DutyPkt) (s : State) :
    { (hearPwm d w s).1 with eng := { s.eng with dutyQ := q } } = heardDuty (hearPwm d w s).1.fab q s := by
  rw [hearPwm, hear_frame]
  rfl

theorem hear_heard {place : MarkerAt} {kind : Nat} {fits : Nat → Bool} {hdr : Word} {s u : State} {f : Fab}
    {q : List DutyPkt} (hu : u = heardDuty f q s) :
    (hear place kind fits hdr u).1 =
      { s with fab := (hear place kind fits hdr u).1.fab, eng := { s.eng with dutyQ := q } } := by
  subst hu
  exact hear_frame ..

section HearDuty
variable {s : State} {r : Rail} {d : DutyPkt} {w : Word}

theorem hearDuty_lost (d : DutyPkt) (s : State) :
    hearDuty d none s =
      ({ s with eng := { s.eng with dutyQ := s.eng.dutyQ.map fun x => if x = d then { x with lost := true } else x } },
        []) := rfl

theorem dropDuty_heard (d e : DutyPkt) (w : Word) (s : State) :
    dropDuty e (hearPwm d w s).1 = heardDuty (hearPwm d w s).1.fab (s.eng.dutyQ.erase e) s := by
  rw [hearPwm, hear_frame]
  rfl

theorem hearDuty_named (hr : d.rail = r) (hw : bitsOf w 10 4 = 4 ∧ bitsOf w 0 6 = r.val) :
    hearDuty d (some w) s = match (hearPwm d w s).2 with
      | .inOrder => (dropDuty d (hearPwm d w s).1, [d])
      | .missing n => (missDuty r n (raiseFabric .pwm r 0 (dropDuty d (hearPwm d w s).1)), [d])
      | .repeated => (raiseFabric .pwm r 0 (hearPwm d w s).1, [])
      | .refused => (raiseFabric .pwm r 0 (hearPwm d w s).1, []) := by
  have hn : namesRail w d.rail = true := by
    rw [hr, namesRail, hw.1, hw.2]
    simp
  subst hr
  unfold hearDuty hearPwm
  simp only [hn, Bool.not_true, Bool.false_eq_true, if_false] <;> rfl

theorem hearDuty_inOrder (hr : d.rail = r) (hw : bitsOf w 10 4 = 4 ∧ bitsOf w 0 6 = r.val)
    (hk : (hearPwm d w s).2 = .inOrder) :
    hearDuty d (some w) s = (heardDuty (hearPwm d w s).1.fab (s.eng.dutyQ.erase d) s, [d]) := by
  rw [hearDuty_named hr hw, hk, dropDuty_heard]

end HearDuty

theorem raiseFabric_pwm_raised (r : Rail) (s : State) : Raised (0x30 + r.val) s (raiseFabric .pwm r 0 s) :=
  raise_raised _ _ _ s (by omega)

theorem codeAt_first {d : DutyPkt} {ds : List DutyPkt} {k : Nat} {x : Word} (hd : d.second = false)
    (hx : d.words[k / 2]? = some x) : codeAt (d :: ds) k = some (bitsOf x (16 * (k % 2)) 16) := by
  simp [codeAt, hd, hx]

theorem codeAt_first_none {d : DutyPkt} {k : Nat} (hd : d.second = false) (hx : d.words[k / 2]? = none) :
    codeAt [d] k = none := by
  simp [codeAt, hd, hx]

theorem codeAt_second {d e : DutyPkt} {es : List DutyPkt} {k : Nat} {x : Word} (hd : d.second = false)
    (he : e.second = true) (hlen : d.words.length = 15) (hk : 30 ≤ k) (hx : e.words[(k - 30) / 2]? = some x) :
    codeAt (d :: e :: es) k = some (bitsOf x (16 * (k % 2)) 16) := by
  have hnone : d.words[k / 2]? = none := List.getElem?_eq_none (by omega)
  have hbit : (k - 30) % 2 = k % 2 := by omega
  simp [codeAt, hd, he, hnone, hx, hbit, Nat.not_lt.mpr hk]

/-- The two packets of a sample carry the first 30 positions and the rest. -/
theorem codeAt_pair {d e : DutyPkt} {k : Nat} {y : Word} (hd : d.second = false) (he : e.second = true)
    (hlen : d.words.length = 15) (hy : y ∈ (if k < 30 then d.words[k / 2]? else e.words[(k - 30) / 2]?)) :
    codeAt [d, e] k = some (bitsOf y (16 * (k % 2)) 16) := by
  split at hy
  · exact codeAt_first hd hy
  · next hk => exact codeAt_second hd he hlen (by omega) hy

/-! ## Commands (R141 to R143) -/

theorem boundOn_eq (s : State) (r : Rail) (n : Nat) :
    boundOn s r n = min (max n (8 * s.cfg.tonmin r.val)) (8 * s.cfg.tonmax r.val) := by
  rw [boundOn, tonMin, tonMax, Nat.mul_comm 8, Nat.mul_comm 8]

theorem trainFrom_eq (s : State) (r : Rail) (a : Nat) :
    trainFrom s r a =
      { onAt := a, offAt := a + 8 * s.cfg.tonmax r.val, again := some (8 * s.cfg.toffmin r.val) } := by
  rw [trainFrom, tonMax, toffMin, Nat.mul_comm _ 8, Nat.mul_comm _ 8]

theorem toffMin_eq (s : State) (r : Rail) : toffMin s r = 8 * s.cfg.toffmin r.val := Nat.mul_comm ..

theorem tonMin_eq (s : State) (r : Rail) : tonMin s r = 8 * s.cfg.tonmin r.val := Nat.mul_comm ..

theorem tonMax_eq (s : State) (r : Rail) : tonMax s r = 8 * s.cfg.tonmax r.val := Nat.mul_comm ..

section Commands
variable {s : State} {r : Rail} {p : Phasor}

theorem loadCmd_cmd (s : State) (r : Rail) (c : Cmd) (p : Phasor) : (loadCmd s r c p).cmd = c := by
  cases c <;> rfl

theorem loadCmd_on_rests (h : p.periods = 0 ∨ (p.cmd ≠ .mid ∧ p.drive = .mid)) :
    loadCmd s r .on p = { p with cmd := .on } := by
  have hrest : (p.periods = 0 || p.rests (rcNow s) || p.pulse.any (·.again.isSome)) = true := by
    rcases h with h | ⟨hc, hd⟩
    · simp [h]
    · simp [Phasor.rests, hc, hd]
  dsimp only [loadCmd, forceOn]
  rw [if_pos hrest]

theorem lt_afterOff (s : State) (r : Rail) (p : Phasor) {a : Nat} (h : rcNow s < a) : rcNow s < afterOff s r p a := by
  unfold afterOff
  split
  · exact h
  · exact lt_max_of_lt_left h

theorem loadCmd_on_fires (hper : p.periods ≠ 0) (hp : p.pulse = none) (hcmd : p.cmd = .mid ∨ p.drive ≠ .mid)
    (hd : p.drive ≠ .pulsesMid) :
    ∃ u, (loadCmd s r .on p).pulse = some u ∧ (loadCmd s r .on p).drive = .pulses ∧ rcNow s < u.onAt ∧
      u.offAt = u.onAt + 8 * s.cfg.tonmax r.val ∧ u.again = some (8 * s.cfg.toffmin r.val) := by
  have hrest : (p.periods = 0 || p.rests (rcNow s) || p.pulse.any (·.again.isSome)) = false := by
    rcases hcmd with h | h <;> simp [Phasor.rests, hper, hp, hd, h]
  have hload : loadCmd s r .on p =
      { p.retire (rcNow s) with
        cmd := .on, drive := .pulses, pulse := some (trainFrom s r (afterOff s r p (nextTick s))) } := by
    dsimp only [loadCmd, forceOn]
    rw [hrest, hp]
    simp [hd]
  rw [hload, trainFrom_eq]
  exact ⟨_, rfl, rfl, lt_afterOff s r p (Nat.lt_add_of_pos_right (by decide)), rfl, rfl⟩

/-- The off-edge that a command gives a single-edge pulse in progress (R141, R143; log 52). -/
theorem loadCmd_time_retimes {u : Pulse} (n : Nat) (hp : p.pulse = some u) (hu : u.again = none)
    (hon : u.onAt ≤ rcNow s) (hoff : rcNow s < u.offAt) :
    ∃ v, (loadCmd s r (.time n) p).pulse = some v ∧ v.onAt = u.onAt ∧ rcNow s < v.offAt ∧
      let k := min (max n (8 * s.cfg.tonmin r.val)) (8 * s.cfg.tonmax r.val)
      (s.cfg.dual r.val = false → u.onAt + k + 8 * s.cfg.toffmin r.val ≤ p.carrAt + rcLead s + p.carrLen →
        v.offAt = max (u.onAt + k) (nextTick s)) := by
  have hsingle : p.single (rcNow s) = p := Phasor.single_of_single _ (by simp [hp, hu])
  have hload : (loadCmd s r (.time n) p).pulse = (retime s r n u p).pulse := by
    dsimp only [loadCmd, loadTime]
    rw [hsingle, hp]
    dsimp only
    rw [if_neg (by omega), if_pos hoff]
  rw [← boundOn_eq, ← toffMin_eq]
  refine ⟨_, hload, rfl, lt_of_lt_of_le (Nat.lt_add_of_pos_right (by decide)) (le_max_right _ _), fun hdual hfits => ?_⟩
  dsimp only [retime, pulseOf]
  rw [hdual]
  simp only [Bool.false_eq_true, if_false]
  rw [min_eq_left (by omega)]

end Commands

/-! ## Carriers without a running rail (R59, R236, R522) -/

/-- The window that a phase's own stands for. -/
def phaseWin (h : Phase) : Window := ⟨h.val, by omega⟩

/-- A start of a carrier's period clears the latch of a good window in PERIOD mode (R236). -/
def latchCleared (h : Phase) (s : State) (w : Window) : Win :=
  if w = wireWindow s (phaseWin h) ∧ s.cfg.lmode h.val = true ∧ (wires s (phaseWin h)).low = false ∧
      (wires s (phaseWin h)).high = false then
    { s.cmp.win[w] with latch := false }
  else s.cmp.win[w]

theorem clearPeriodLatch_frame (h : Phase) (s : State) :
    clearPeriodLatch h s = { s with cmp := { s.cmp with win := (clearPeriodLatch h s).cmp.win } } := by
  unfold clearPeriodLatch
  dsimp only
  split <;> rfl

/-- The latch of a phase's window may clear at a start of its carrier's period. -/
def latchClears (h : Phase) (s : State) : Prop :=
  s.cfg.lmode h.val = true ∧ (wires s (phaseWin h)).low = false ∧ (wires s (phaseWin h)).high = false

theorem clearPeriodLatch_good {h : Phase} {s : State} (hc : latchClears h s) :
    clearPeriodLatch h s = s.upWin (wireWindow s (phaseWin h)) fun x => { x with latch := false } := by
  obtain ⟨hm, hlow, hhigh⟩ := hc
  have hlive : (wires s (phaseWin h)).live = false := by rw [Win.live, hlow, hhigh]; rfl
  exact if_pos (by rw [hm]; exact (Bool.not_eq_true' _).mpr hlive)

theorem clearPeriodLatch_bad {h : Phase} {s : State} (hc : ¬ latchClears h s) : clearPeriodLatch h s = s := by
  refine if_neg fun hx => hc ?_
  obtain ⟨hm, hlive⟩ := (Bool.and_eq_true ..).mp hx
  exact ⟨hm, Bool.or_eq_false_iff.mp ((Bool.not_eq_true' _).mp hlive)⟩

theorem upWin_get (v w : Window) (f : Win → Win) (s : State) :
    (s.upWin v f).cmp.win[w] = if w = v then f s.cmp.win[w] else s.cmp.win[w] := by
  split
  · next hw =>
    subst hw
    exact vmod_same ..
  · next hw => exact vmod_other _ _ (Ne.symm hw)

theorem clearPeriodLatch_win (h : Phase) (s : State) (w : Window) :
    (clearPeriodLatch h s).cmp.win[w] = latchCleared h s w := by
  by_cases hc : latchClears h s
  · rw [clearPeriodLatch_good hc, upWin_get]
    exact if_congr (and_iff_left hc).symm rfl rfl
  · rw [clearPeriodLatch_bad hc]
    exact (if_neg fun hx => hc hx.2).symm

theorem exec_carrier_idle {s : State} {h : Phase} (hdom : domOn s pdPwm = true)
    (hoff : s.cfg.role h.val = 0 ∨ s.pwm.rails[railOf s.cfg h].opmode = .off) (hp : s.pwm.phases[h].state ≠ .pitching) :
    exec (.carrierPeriodStart h) s = .next (clearPeriodLatch h s) := by
  show Host.Outcome.next _ = _
  rw [if_neg (by rw [hdom]; decide), if_neg (by rcases hoff with h | h <;> simp [-Fin.getElem_fin, h]),
    if_neg (by simpa using hp)]

theorem exec_carrier_pitching {s : State} {h : Phase} (hdom : domOn s pdPwm = true)
    (hoff : s.cfg.role h.val = 0 ∨ s.pwm.rails[railOf s.cfg h].opmode = .off) (hp : s.pwm.phases[h].state = .pitching) :
    exec (.carrierPeriodStart h) s = .next (clearPeriodLatch h (newPeriod h s)) := by
  show Host.Outcome.next _ = _
  rw [if_neg (by rw [hdom]; decide), if_neg (by rcases hoff with h | h <;> simp [-Fin.getElem_fin, h]),
    if_pos (by rw [hp]; rfl)]

theorem exec_carrier_runs {s : State} {h : Phase} (hdom : domOn s pdPwm = true)
    (hrole : s.cfg.role h.val ≠ 0) (hon : s.pwm.rails[railOf s.cfg h].opmode ≠ .off) :
    exec (.carrierPeriodStart h) s = .next (carrierStarts h s) := by
  show Host.Outcome.next _ = _
  rw [if_neg (by rw [hdom]; decide), if_pos (by simp [-Fin.getElem_fin, hrole, hon])]

/-- The period begins where the last one ends (R150). -/
theorem periodStart_due {s : State} {h : Phase} (hlen : s.pwm.phases[h].carrLen ≠ 0)
    (hlo : s.pwm.phases[h].carrAt + s.pwm.phases[h].carrLen ≤ stepNow s + s.cfg.period (railOf s.cfg h).val * 8)
    (hhi : stepNow s ≤ s.pwm.phases[h].carrAt + s.pwm.phases[h].carrLen + s.cfg.period (railOf s.cfg h).val * 8) :
    periodStart s h = s.pwm.phases[h].carrAt + s.pwm.phases[h].carrLen :=
  if_pos (by simp only [Bool.and_eq_true, decide_eq_true_eq]; exact ⟨⟨hlen, hlo⟩, hhi⟩)

/-- The targets of a carrier once its period has begun (R59). -/
def renewedTargets (s : State) (h : Phase) (start : Nat) : List LaneTarget :=
  (s.adc.targets.map fun g => if g.carrier = h then { g with instant := min g.instant start } else g) ++
    laneTargets s h start

/-- What a carrier's walk sets (R150). -/
theorem walk_eq (g : Setup) (r : Nat) (p : Phasor) :
    walk g r p = { p with prevLen := p.carrLen, carrLen := (walk g r p).carrLen, offset := (walk g r p).offset } := by
  unfold walk
  dsimp only
  split_ifs <;> rfl

/-- A phase at the start of its carrier's period (R150). -/
def walked (s : State) (h : Phase) (p : Phasor) : Phasor :=
  walk s.cfg (railOf s.cfg h).val { p with carrAt := periodStart s h }

theorem walked_eq (s : State) (h : Phase) (p : Phasor) :
    walked s h p = { p with
      carrAt := periodStart s h, carrLen := (walked s h p).carrLen, prevLen := p.carrLen
      offset := (walked s h p).offset } := walk_eq ..

theorem newPeriod_eq (h : Phase) (s : State) :
    newPeriod h s = { s with
      adc := { s.adc with targets := renewedTargets s h (periodStart s h) }
      pwm := { s.pwm with phases := vmod s.pwm.phases h (walked s h) } } := rfl

/-- A walk of k steps ahead changes the offset by what it adds to the period. -/
theorem walk_ahead (x per k : Nat) : (x + k) % per % per = (x + (per + k)) % per := by
  rw [Nat.mod_mod, ← Nat.add_assoc, Nat.add_right_comm, Nat.add_mod_right]

theorem walk_offset (g : Setup) (r : Nat) (p : Phasor) :
    (walk g r p).offset % periodSteps g r = (p.offset + (walk g r p).carrLen) % periodSteps g r := by
  unfold walk
  dsimp only
  generalize hd : (p.target + periodSteps g r - p.offset) % periodSteps g r = d
  generalize hper : periodSteps g r = per at *
  split_ifs with h0 h1
  · exact (Nat.add_mod_right _ _).symm
  · exact walk_ahead ..
  · have hk : min (per * g.angrate r / 1024) (per - d) ≤ per := le_trans (min_le_right _ _) (Nat.sub_le _ _)
    dsimp only
    rw [Nat.mod_mod, Nat.add_sub_assoc hk]

theorem mem_laneTargets (s : State) (h : Phase) (start : Nat) (g : LaneTarget) :
    g ∈ laneTargets s h start ↔ g.carrier = h ∧ s.cfg.llen (railOf s.cfg h).val = true ∧
      ((∃ k, g.req = .error (railOf s.cfg h) k ∧ k.val < errPer s.cfg (railOf s.cfg h).val ∧ s.cfg.order h.val = 0 ∧
          s.pwm.rails[railOf s.cfg h].opmode ≠ .off ∧
          g.instant = start + errTarget s.cfg (railOf s.cfg h).val k.val) ∨
        (∃ j, g.req = .current h j ∧ j.val < curPer s.cfg (railOf s.cfg h).val ∧
          g.instant = start + curTarget s.cfg (railOf s.cfg h).val j.val)) := by
  obtain ⟨req, carrier, instant⟩ := g
  unfold laneTargets
  dsimp only
  cases hl : s.cfg.llen (railOf s.cfg h).val
  · simp
  · simp only [Bool.not_true, Bool.false_eq_true, if_false, List.mem_append, List.mem_ite_nil_right, List.mem_map,
      mem_filter_fins, Bool.and_eq_true, bne_iff_ne, decide_eq_true_eq, LaneTarget.mk.injEq]
    constructor
    · rintro (⟨⟨ho, hon⟩, k, hk, rfl, rfl, rfl⟩ | ⟨j, hj, rfl, rfl, rfl⟩)
      · exact ⟨rfl, trivial, .inl ⟨k, rfl, hk, ho, hon, rfl⟩⟩
      · exact ⟨rfl, trivial, .inr ⟨j, rfl, hj, rfl⟩⟩
    · rintro ⟨rfl, -, ⟨k, rfl, hk, ho, hon, rfl⟩ | ⟨j, rfl, hj, rfl⟩⟩
      · exact .inl ⟨⟨ho, hon⟩, k, hk, rfl, rfl, rfl⟩
      · exact .inr ⟨j, hj, rfl, rfl, rfl⟩

/-! ## A running carrier's period (R141 to R143, R156, R159) -/

/-- The window trips of the last periods, with the one that has ended. -/
def nextTrips (p : Phasor) : BitVec 16 := (p.trips <<< 1) ||| (if p.tripped then 1 else 0)

theorem nextTrips_eq (p : Phasor) : (p.trips <<< 1) ||| BitVec.ofNat 16 (bit p.tripped) = nextTrips p := by
  unfold nextTrips
  cases p.tripped <;> rfl

/-- A carrier's period has begun, up to the pulse that its phase drives from then on. -/
def carrierDrives (h : Phase) (s : State) : State :=
  (newPeriod h s).upPhase h fun p =>
    drivePeriod (newPeriod h s) (railOf s.cfg h) (wires s (phaseWin h)).low (wires s (phaseWin h)).high
      { p with trips := nextTrips s.pwm.phases[h] }

/-- A carrier's period has begun, but for the racking that its trips may ask for and the period of the rail. -/
def carrierOpens (h : Phase) (s : State) : State :=
  let u := clearPeriodLatch h (firstPulse (railOf s.cfg h) h (carrierDrives h s))
  u.upPhase h fun p => { p with tripped := tripsNow u (railOf s.cfg h) h }

theorem carrierStarts_eq (h : Phase) (s : State) :
    carrierStarts h s =
      let v := if s.cfg.rktrip (railOf s.cfg h).val ≤
          ((List.range (s.cfg.rkwin (railOf s.cfg h).val)).filter fun k => hasBit (nextTrips s.pwm.phases[h]) k).length
        then rackPhase h 1 (carrierOpens h s) else carrierOpens h s
      if s.cfg.order h.val = 0 then railPeriod (railOf s.cfg h) v else v := by
  unfold carrierStarts countTrips
  dsimp only
  rw [nextTrips_eq]
  rfl

theorem firstPulse_frame (r : Rail) (h : Phase) (s : State) :
    firstPulse r h s = { s with pwm := { s.pwm with rails := (firstPulse r h s).pwm.rails } } := by
  unfold firstPulse
  split <;> rfl

theorem carrierOpens_frame (h : Phase) (s : State) :
    carrierOpens h s = { s with
      adc := { s.adc with targets := (carrierOpens h s).adc.targets }
      pwm := { s.pwm with phases := (carrierOpens h s).pwm.phases, rails := (carrierOpens h s).pwm.rails }
      cmp := { s.cmp with win := (carrierOpens h s).cmp.win } } := by
  unfold carrierOpens
  rw [clearPeriodLatch_frame, firstPulse_frame]
  rfl

theorem carrierOpens_targets (h : Phase) (s : State) :
    (carrierOpens h s).adc.targets = renewedTargets s h (periodStart s h) := by
  unfold carrierOpens
  rw [clearPeriodLatch_frame, firstPulse_frame]
  rfl

theorem carrierOpens_win (h : Phase) (s : State) (w : Window) :
    (carrierOpens h s).cmp.win[w] = latchCleared h s w := by
  show (clearPeriodLatch h (firstPulse (railOf s.cfg h) h (carrierDrives h s))).cmp.win[w] = _
  rw [clearPeriodLatch_win, firstPulse_frame]
  rfl

theorem carrierOpens_other (s : State) {h k : Phase} (hk : k ≠ h) :
    (carrierOpens h s).pwm.phases[k] = s.pwm.phases[k] := by
  unfold carrierOpens
  rw [upPhase_get, if_neg hk, clearPeriodLatch_frame, firstPulse_frame]
  show (carrierDrives h s).pwm.phases[k] = _
  rw [carrierDrives, upPhase_get, if_neg hk]
  exact vmod_other _ _ (Ne.symm hk)

/-- A part of i_lost behind a pulse of the substitute on its position (rule 7 of R159). -/
def Loss.begun (sub : Option Phase) (l : Loss) : Loss :=
  if sub = some l.pos ∧ l.wait = none then { l with wait := some 0 } else l

/-- The parts of i_lost of a rail behind an on-pulse of a phase. -/
def lossBehind (r : Rail) (h : Phase) (s : State) (k : Rail) : List Loss :=
  if k = r ∧ s.pwm.phases[h].state = .active ∧ s.pwm.phases[h].pulse.isSome = true then
    s.pwm.rails[r].loss.map (Loss.begun s.pwm.phases[h].subfor)
  else s.pwm.rails[k].loss

theorem upPwmRail_get (r k : Rail) (f : PwmRail → PwmRail) (s : State) :
    (s.upPwmRail r f).pwm.rails[k] = if k = r then f s.pwm.rails[k] else s.pwm.rails[k] := by
  split
  · next hk =>
    subst hk
    exact vmod_same ..
  · next hk => exact vmod_other _ _ (Ne.symm hk)

theorem beginFall_rails (r k : Rail) (h : Phase) (s : State) :
    (beginFall r h s).pwm.rails[k] = if k = r then
      { s.pwm.rails[k] with loss := s.pwm.rails[k].loss.map (Loss.begun s.pwm.phases[h].subfor) } else s.pwm.rails[k] := by
  unfold beginFall
  rw [upPwmRail_get]
  simp only [Bool.and_eq_true, beq_iff_eq, Option.isNone_iff_eq_none]
  rfl

theorem firstPulse_rails (r k : Rail) (h : Phase) (s : State) :
    (firstPulse r h s).pwm.rails[k] = { s.pwm.rails[k] with loss := lossBehind r h s k } := by
  unfold firstPulse lossBehind
  by_cases hp : s.pwm.phases[h].state = .active ∧ s.pwm.phases[h].pulse.isSome = true
  · rw [if_pos (by simpa using hp), beginFall_rails]
    simp only [hp, and_self, and_true]
    split
    · next hk => rw [hk]
    · rfl
  · rw [if_neg (by simpa using hp), if_neg fun hx => hp hx.2]

theorem carrierOpens_rails (h : Phase) (k : Rail) (s : State) :
    (carrierOpens h s).pwm.rails[k] =
      { s.pwm.rails[k] with loss := lossBehind (railOf s.cfg h) h (carrierDrives h s) k } := by
  show (clearPeriodLatch h (firstPulse (railOf s.cfg h) h (carrierDrives h s))).pwm.rails[k] = _
  rw [clearPeriodLatch_frame]
  exact firstPulse_rails ..

theorem clearPeriodLatch_wires (h : Phase) (s : State) (w : Window) :
    (wires (clearPeriodLatch h s) w).low = (wires s w).low ∧ (wires (clearPeriodLatch h s) w).high = (wires s w).high := by
  have hw : wireWindow (clearPeriodLatch h s) w = wireWindow s w := by
    rw [clearPeriodLatch_frame]
    rfl
  unfold wires
  rw [clearPeriodLatch_win, hw, latchCleared]
  split <;> exact ⟨rfl, rfl⟩

/-- Whether the window of a phase counts as tripped, before and behind the clearing of its latch. -/
theorem carrierOpens_trips (h : Phase) (s : State) :
    tripsNow (clearPeriodLatch h (firstPulse (railOf s.cfg h) h (carrierDrives h s))) (railOf s.cfg h) h =
      tripsNow s (railOf s.cfg h) h := by
  have hwin := clearPeriodLatch_wires h (firstPulse (railOf s.cfg h) h (carrierDrives h s)) (phaseWin h)
  have hfirst : wires (firstPulse (railOf s.cfg h) h (carrierDrives h s)) (phaseWin h) = wires s (phaseWin h) := by
    rw [firstPulse_frame]
    rfl
  have hrail : (clearPeriodLatch h (firstPulse (railOf s.cfg h) h (carrierDrives h s))).pwm.rails[railOf s.cfg h] =
      { s.pwm.rails[railOf s.cfg h] with
        loss := lossBehind (railOf s.cfg h) h (carrierDrives h s) (railOf s.cfg h) } := carrierOpens_rails ..
  rw [hfirst] at hwin
  unfold tripsNow
  dsimp only
  rw [hrail, show (⟨h.val, by omega⟩ : Window) = phaseWin h from rfl, hwin.1, hwin.2]

theorem carrierDrives_phase (h : Phase) (s : State) :
    (carrierDrives h s).pwm.phases[h] =
      drivePeriod (newPeriod h s) (railOf s.cfg h) (wires s (phaseWin h)).low (wires s (phaseWin h)).high
        { walked s h s.pwm.phases[h] with trips := nextTrips s.pwm.phases[h] } := by
  rw [carrierDrives, upPhase_same, newPeriod_eq]
  dsimp only
  rw [vmod_same]

/-- The phase whose carrier's period has begun. -/
theorem carrierOpens_phase (h : Phase) (s : State) :
    (carrierOpens h s).pwm.phases[h] =
      { (carrierDrives h s).pwm.phases[h] with tripped := tripsNow s (railOf s.cfg h) h } := by
  have hdrives : (clearPeriodLatch h (firstPulse (railOf s.cfg h) h (carrierDrives h s))).pwm.phases[h] =
      (carrierDrives h s).pwm.phases[h] := by
    rw [clearPeriodLatch_frame, firstPulse_frame]
  unfold carrierOpens
  dsimp only
  rw [upPhase_same, hdrives, carrierOpens_trips]

/-! ## The pulse of a period (R141 to R143, R156) -/

theorem Phasor.single_frame (now : Nat) (p : Phasor) :
    p.single now = { p with pulse := (p.single now).pulse, past := (p.single now).past } := by
  unfold Phasor.single
  split
  · rfl
  · split <;> rfl

/-- A new pulse changes what a phase drives alone. -/
theorem newPulse_frame (s : State) (r : Rail) (low high : Bool) (q : Phasor) :
    newPulse s r low high q = { q with
      drive := (newPulse s r low high q).drive
      pulse := (newPulse s r low high q).pulse
      past := (newPulse s r low high q).past } := by
  unfold newPulse
  dsimp only
  split
  · rfl
  · split_ifs <;> rfl
  · split_ifs
    · rfl
    · rfl
    · rw [Phasor.single_frame]
      rfl
    · rw [Phasor.single_frame]
      rfl

/-- An active phase counts its periods, and its weight moves by its step (R155). -/
def Phasor.counted (p : Phasor) : Phasor :=
  if p.state = .active then
    { p with weight := (clampInt 0 64 ((p.weight : Int) + p.wStep)).toNat, periods := p.periods + 1 }
  else p

theorem Phasor.counted_frame (p : Phasor) :
    p.counted = { p with weight := p.counted.weight, periods := p.counted.periods } := by
  unfold Phasor.counted
  split <;> rfl

theorem Phasor.counted_midNext (p : Phasor) : p.counted.midNext = p.midNext := by
  rw [p.counted_frame]

theorem Phasor.counted_state (p : Phasor) : p.counted.state = p.state := by
  rw [p.counted_frame]

theorem Phasor.counted_subfor (p : Phasor) : p.counted.subfor = p.subfor := by
  rw [p.counted_frame]

theorem Phasor.counted_cur (p : Phasor) : p.counted.cur = p.cur := by
  rw [p.counted_frame]

theorem Phasor.counted_cmd (p : Phasor) : p.counted.cmd = p.cmd := by
  rw [p.counted_frame]

theorem Phasor.counted_periods (p : Phasor) :
    p.counted.periods = if p.state = .active then p.periods + 1 else p.periods := by
  unfold Phasor.counted
  split <;> rfl

theorem clampInt_eq {lo hi : Int} (h : lo ≤ hi) (x : Int) : clampInt lo hi x = max lo (min hi x) := by
  unfold clampInt
  split_ifs <;> omega

theorem Phasor.counted_weight {p : Phasor} (h : p.state = .active) :
    (p.counted.weight : Int) = max 0 (min 64 ((p.weight : Int) + p.wStep)) := by
  unfold Phasor.counted
  rw [if_pos h, ← clampInt_eq (by decide)]
  exact Int.toNat_of_nonneg (by rw [clampInt_eq (by decide)]; exact le_max_left _ _)

theorem drivePeriod_eq (s : State) (r : Rail) (low high : Bool) (p : Phasor) :
    drivePeriod s r low high p =
      if p.midNext = true then { p.counted.level (rcNow s) .mid with midNext := false }
      else if p.state = .active ∧ pwmDriven s r = true then newPulse s r low high p.counted
      else p.counted := by
  have hcount : (if p.state == .active then
      { p with weight := (clampInt 0 64 ((p.weight : Int) + p.wStep)).toNat, periods := p.periods + 1 }
      else p) = p.counted := by
    unfold Phasor.counted
    simp only [beq_iff_eq]
  unfold drivePeriod
  rw [hcount]
  dsimp only
  rw [Phasor.counted_midNext, Phasor.counted_state]
  simp only [Bool.and_eq_true, beq_iff_eq]

/-- The start of a period changes of a phase what it counts, what it drives, and that MID is due. -/
theorem drivePeriod_frame (s : State) (r : Rail) (low high : Bool) (p : Phasor) :
    drivePeriod s r low high p = { p.counted with
      midNext := false
      drive := (drivePeriod s r low high p).drive
      pulse := (drivePeriod s r low high p).pulse
      past := (drivePeriod s r low high p).past } := by
  have hid {q x : Phasor} (hq : q.midNext = false)
      (hx : x = { q with drive := x.drive, pulse := x.pulse, past := x.past }) :
      x = { q with midNext := false, drive := x.drive, pulse := x.pulse, past := x.past } := by
    cases q
    cases hq
    exact hx
  rw [drivePeriod_eq]
  split
  · rfl
  · next hm =>
    have hq : p.counted.midNext = false := by rw [Phasor.counted_midNext]; simpa using hm
    split
    · exact hid hq (newPulse_frame ..)
    · exact hid hq rfl

section Pulse
variable {s : State} {r : Rail} {low high : Bool} {p : Phasor}

theorem drivePeriod_mid (hm : p.midNext = true) :
    (drivePeriod s r low high p).drive = .mid ∧ (drivePeriod s r low high p).pulse = none := by
  rw [drivePeriod_eq, if_pos hm]
  exact ⟨rfl, rfl⟩

theorem drivePeriod_active (hm : p.midNext = false) (ha : p.state = .active) (hd : pwmDriven s r = true) :
    drivePeriod s r low high p = newPulse s r low high p.counted := by
  rw [drivePeriod_eq, if_neg (by rw [hm]; decide), if_pos ⟨ha, hd⟩]

theorem newPulse_mid (hc : p.cmd = .mid) :
    (newPulse s r low high p).drive = .mid ∧ (newPulse s r low high p).pulse = none := by
  unfold newPulse
  rw [hc]
  exact ⟨rfl, rfl⟩

theorem le_afterOff (s : State) (r : Rail) (p : Phasor) (a : Nat) : a ≤ afterOff s r p a := by
  unfold afterOff
  split
  · exact le_rfl
  · exact le_max_left _ _

/-- A pulse that the boost band forces on, by what the window's comparators say (R143, R156; log 67). -/
theorem newPulse_on (hc : p.cmd = .on) :
    if high = true then (newPulse s r low high p).drive = .pulses ∧ (newPulse s r low high p).pulse = none
    else if low = true then ∃ a, p.carrAt + rcLead s ≤ a ∧ (newPulse s r low high p).drive = .pulsesMid ∧
      (newPulse s r low high p).pulse = some { onAt := a, offAt := a + tonMax s r, again := none }
    else if ∃ u ∈ p.pulse, u.again.isSome = true then newPulse s r low high p = p
    else ∃ a, p.carrAt + rcLead s ≤ a ∧ (newPulse s r low high p).drive = .pulses ∧
      (newPulse s r low high p).pulse = some { onAt := a, offAt := a + tonMax s r, again := some (toffMin s r) } := by
  have hany : p.pulse.any (·.again.isSome) = true ↔ ∃ u ∈ p.pulse, u.again.isSome = true := Option.any_eq_true ..
  unfold newPulse
  rw [hc]
  dsimp only
  cases high
  · cases low
    · simp only [Bool.false_eq_true, if_false, ← hany]
      split
      · rfl
      · exact ⟨_, le_afterOff .., rfl, rfl⟩
    · exact ⟨_, le_afterOff .., rfl, rfl⟩
  · exact ⟨rfl, rfl⟩

/-- A timed pulse (R141, R142, R154). -/
theorem newPulse_time {n : Nat} (hc : p.cmd = .time n) :
    if n < tonMin s r ∧ s.pwm.rails[r].opmode = .light then
      (newPulse s r low high p).drive = .mid ∧ (newPulse s r low high p).pulse = none
    else if high = true then (newPulse s r low high p).drive = .pulses ∧ (newPulse s r low high p).pulse = none
    else (newPulse s r low high p).drive = (if low = true then .pulsesMid else .pulses) ∧
      (newPulse s r low high p).pulse = some (pulseOf s r p (boundOn s r n)) := by
  have hskip : lightSkips s r n = true ↔ n < tonMin s r ∧ s.pwm.rails[r].opmode = .light := by
    simp [lightSkips, -Fin.getElem_fin]
  unfold newPulse
  rw [hc]
  dsimp only
  simp only [← hskip]
  cases lightSkips s r n
  · cases high
    · exact ⟨rfl, rfl⟩
    · exact ⟨rfl, rfl⟩
  · exact ⟨rfl, rfl⟩

end Pulse

/-! ## The phase whose carrier's period has begun -/

/-- What the start of a carrier's period leaves of its phase, but for what it drives from then on. -/
theorem carrierOpens_phase_frame (h : Phase) (s : State) :
    (carrierOpens h s).pwm.phases[h] = { s.pwm.phases[h].counted with
      carrAt := periodStart s h
      carrLen := (walked s h s.pwm.phases[h]).carrLen
      prevLen := s.pwm.phases[h].carrLen
      offset := (walked s h s.pwm.phases[h]).offset
      trips := nextTrips s.pwm.phases[h]
      tripped := tripsNow s (railOf s.cfg h) h
      midNext := false
      drive := (carrierOpens h s).pwm.phases[h].drive
      pulse := (carrierOpens h s).pwm.phases[h].pulse
      past := (carrierOpens h s).pwm.phases[h].past } := by
  have hcount (p q : Phasor) (hpq : q = { p with
      carrAt := q.carrAt, carrLen := q.carrLen, prevLen := q.prevLen, offset := q.offset, trips := q.trips }) :
      q.counted = { p.counted with
        carrAt := q.carrAt, carrLen := q.carrLen, prevLen := q.prevLen, offset := q.offset, trips := q.trips } := by
    rw [hpq]
    unfold Phasor.counted
    dsimp only
    split <;> rfl
  have hwalk := walked_eq s h s.pwm.phases[h]
  have hat : (walked s h s.pwm.phases[h]).carrAt = periodStart s h := congrArg Phasor.carrAt hwalk
  have hprev : (walked s h s.pwm.phases[h]).prevLen = s.pwm.phases[h].carrLen := congrArg Phasor.prevLen hwalk
  rw [carrierOpens_phase, carrierDrives_phase, drivePeriod_frame, hcount s.pwm.phases[h] _ (by rw [hwalk])]
  dsimp only
  rw [hat, hprev]

/-! ## The obligation -/

/-- A marker of a rail that the engine has taken and the PWM subsystem has not, with a BSTAMP before a packet's. -/
def MarkerBefore (s : State) (r : Rail) (d : DutyPkt) : Prop :=
  ∃ m ∈ s.fab.markers, .pwm ∈ m.targets ∧ .engine ∉ m.targets ∧ .rail r ∉ m.targets ∧
    (m.rails = 0 ∨ hasBit m.rails r.val = true) ∧ ∃ b, m.bstamp = some b ∧ b ≤ d.stamp

section Duty
variable {s : State} {r : Rail} {d : DutyPkt} {ds : List DutyPkt} (h : dutyOf s r = d :: ds)
include h

theorem first_rail : d.rail = r := rail_of_dutyOf (s := s) (by rw [h]; exact List.mem_cons_self)

theorem behindMarker_first : behindMarker s d = true ↔ MarkerBefore s r d := by
  have hr := first_rail h
  subst hr
  exact behindMarker_iff s d

theorem duty_behind (hb : MarkerBefore s r d) (hdrs : DutyHeaders) : exec (.duty r hdrs) s = .next s :=
  exec_duty_behind h ((behindMarker_first h).mpr hb)

variable (hdom : domOn s pdPwm = true) (hb : ¬ MarkerBefore s r d) (hfirst : d.second = false)
include hdom hb hfirst

section One
variable (hone : ∀ e ∈ ds, e.stamp ≠ d.stamp)
include hone

theorem duty_one (hdrs : DutyHeaders) :
    exec (.duty r hdrs) s = .next (loadDuty r (hearDuty d hdrs.first s).2 (hearDuty d hdrs.first s).1) :=
  exec_duty_one h hdom (Bool.eq_false_iff.mpr fun hx => hb ((behindMarker_first h).mp hx)) hfirst hone hdrs

theorem duty_lost (b : Option Word) :
    exec (.duty r ⟨none, b⟩) s = .next { s with eng := { s.eng with
      dutyQ := s.eng.dutyQ.map fun x => if x = d then { x with lost := true } else x } } := by
  rw [duty_one h hdom hb hfirst hone]
  dsimp only
  rw [hearDuty_lost, loadDuty_none]

variable {w : Word} (hw : bitsOf w 10 4 = 4 ∧ bitsOf w 0 6 = r.val)
include hw

/-- A packet that must be discarded. -/
theorem duty_discarded (b : Option Word) (hk : (hearPwm d w s).2 = .repeated ∨ (hearPwm d w s).2 = .refused) :
    ∃ t, exec (.duty r ⟨some w, b⟩) s = .next t ∧ Raised (0x30 + r.val) (hearPwm d w s).1 t := by
  refine ⟨raiseFabric .pwm r 0 (hearPwm d w s).1, ?_, raiseFabric_pwm_raised ..⟩
  rw [duty_one h hdom hb hfirst hone]
  dsimp only
  rw [hearDuty_named (first_rail h) hw]
  rcases hk with hk | hk <;> rw [hk] <;> exact congrArg _ (loadDuty_none ..)

/-- A packet behind a gap. -/
theorem duty_missing (b : Option Word) {n : Nat} (hk : (hearPwm d w s).2 = .missing n) :
    ∃ v, Raised (0x30 + r.val) { (hearPwm d w s).1 with eng := { s.eng with dutyQ := s.eng.dutyQ.erase d } } v ∧
      exec (.duty r ⟨some w, b⟩) s = .next (loadDuty r [d] (missDuty r n v)) := by
  refine ⟨_, raiseFabric_pwm_raised .., ?_⟩
  rw [duty_one h hdom hb hfirst hone, heardDuty_eq]
  dsimp only
  rw [hearDuty_named (first_rail h) hw, hk, dropDuty_heard]

theorem duty_inOrder (b : Option Word) (hk : (hearPwm d w s).2 = .inOrder) :
    exec (.duty r ⟨some w, b⟩) s =
      .next (loadDuty r [d] (heardDuty (hearPwm d w s).1.fab (s.eng.dutyQ.erase d) s)) := by
  rw [duty_one h hdom hb hfirst hone]
  dsimp only
  rw [hearDuty_inOrder (first_rail h) hw hk]

end One

/-- Both packets of a sample whose headers are in order. -/
theorem duty_two_inOrder {e : DutyPkt} {es : List DutyPkt} {w x : Word} {u : State}
    (htwo : (ds.filter fun e => decide (e.stamp = d.stamp)) = e :: es)
    (hw : bitsOf w 10 4 = 4 ∧ bitsOf w 0 6 = r.val) (hx : bitsOf x 10 4 = 4 ∧ bitsOf x 0 6 = r.val)
    (hk : (hearPwm d w s).2 = .inOrder) (hu : u = heardDuty (hearPwm d w s).1.fab (s.eng.dutyQ.erase d) s)
    (hl : (hearPwm e x u).2 = .inOrder) :
    exec (.duty r ⟨some w, some x⟩) s =
      .next (loadDuty r [d, e] (heardDuty (hearPwm e x u).1.fab ((s.eng.dutyQ.erase d).erase e) s)) := by
  have he : e.rail = r := rail_of_dutyOf (s := s) (by
    rw [h]
    exact List.mem_cons_of_mem _ (List.mem_of_mem_filter (htwo ▸ List.mem_cons_self)))
  have hbehind : behindMarker s d = false := Bool.eq_false_iff.mpr fun hx => hb ((behindMarker_first h).mp hx)
  subst hu
  rw [exec_duty_two h hdom hbehind hfirst htwo]
  dsimp only
  rw [hearDuty_inOrder (first_rail h) hw hk]
  dsimp only
  rw [hearDuty_inOrder he hx hl]
  rfl

end Duty

/-- What loaded packets leave: the phases, behind what the receiver has heard. -/
theorem loadDuty_heard_frame {s k : State} {f : Fab} {e : Eng} (r : Rail) (ps : List DutyPkt) (q : List DutyPkt)
    (hk : k = { s with fab := f, eng := e }) :
    loadDuty r ps (heardDuty f q s) = { k with
      eng := { s.eng with dutyQ := q }
      pwm := { s.pwm with phases := (loadDuty r ps (heardDuty f q s)).pwm.phases } } := by
  subst hk
  exact loadDuty_frame ..

/-- The phase as its new pulse finds it, but for what it counts. -/
def startedPhase (s : State) (h : Phase) : Phasor :=
  { walked s h s.pwm.phases[h] with trips := nextTrips s.pwm.phases[h] }

/-- The phase as its new pulse finds it. -/
def pulsedPhase (s : State) (h : Phase) : Phasor := (startedPhase s h).counted

theorem pulsedPhase_carrAt (s : State) (h : Phase) : (pulsedPhase s h).carrAt = periodStart s h := by
  rw [pulsedPhase, Phasor.counted_frame, startedPhase, walked_eq]

theorem pulsedPhase_carrLen (s : State) (h : Phase) :
    (pulsedPhase s h).carrLen = (carrierOpens h s).pwm.phases[h].carrLen := by
  rw [pulsedPhase, Phasor.counted_frame, startedPhase, carrierOpens_phase_frame]

theorem pulsedPhase_cmd (s : State) (h : Phase) : (pulsedPhase s h).cmd = s.pwm.phases[h].cmd := by
  rw [pulsedPhase, Phasor.counted_frame, startedPhase, walked_eq]

theorem pulsedPhase_pulse (s : State) (h : Phase) : (pulsedPhase s h).pulse = s.pwm.phases[h].pulse := by
  rw [pulsedPhase, Phasor.counted_frame, startedPhase, walked_eq]

theorem pulsedPhase_drive (s : State) (h : Phase) : (pulsedPhase s h).drive = s.pwm.phases[h].drive := by
  rw [pulsedPhase, Phasor.counted_frame, startedPhase, walked_eq]

/-- What the phase drives where MID is due. -/
theorem carrierOpens_mid {h : Phase} {s : State} (hm : s.pwm.phases[h].midNext = true) :
    (carrierOpens h s).pwm.phases[h].drive = .mid ∧ (carrierOpens h s).pwm.phases[h].pulse = none := by
  have hmid : (walked s h s.pwm.phases[h]).midNext = true := by rw [walked_eq]; exact hm
  rw [carrierOpens_phase, carrierDrives_phase]
  exact drivePeriod_mid hmid

/-- What an active phase of a driven rail drives. -/
theorem carrierOpens_pulse {h : Phase} {s : State} (hm : s.pwm.phases[h].midNext = false)
    (ha : s.pwm.phases[h].state = .active) (hd : pwmDriven s (railOf s.cfg h) = true) :
    (carrierOpens h s).pwm.phases[h] =
      { newPulse (newPeriod h s) (railOf s.cfg h) (wires s (phaseWin h)).low (wires s (phaseWin h)).high
          (pulsedPhase s h) with tripped := tripsNow s (railOf s.cfg h) h } := by
  have hmid : (walked s h s.pwm.phases[h]).midNext = false := by rw [walked_eq]; exact hm
  have hact : (walked s h s.pwm.phases[h]).state = .active := by rw [walked_eq]; exact ha
  have hpulse := (carrierDrives_phase h s).trans
    (drivePeriod_active (s := newPeriod h s) (p := startedPhase s h) hmid hact hd)
  rw [carrierOpens_phase, hpulse]
  rfl

theorem carrierOpens_offset (h : Phase) (s : State) :
    (carrierOpens h s).pwm.phases[h].offset % (s.cfg.period (railOf s.cfg h).val * 8) =
      (s.pwm.phases[h].offset + (carrierOpens h s).pwm.phases[h].carrLen) %
        (s.cfg.period (railOf s.cfg h).val * 8) := by
  have hp := carrierOpens_phase_frame h s
  rw [show (carrierOpens h s).pwm.phases[h].offset = _ from congrArg Phasor.offset hp,
    show (carrierOpens h s).pwm.phases[h].carrLen = _ from congrArg Phasor.carrLen hp]
  exact walk_offset ..

/-- The pulse of a command that the boost band gives. -/
theorem carrierOpens_on {h : Phase} {s : State} {x : Phasor} (hx : s.pwm.phases[h] = x) (hm : x.midNext = false)
    (ha : x.state = .active) (hd : pwmDriven s (railOf s.cfg h) = true) (hc : x.cmd = .on) :
    let p := (carrierOpens h s).pwm.phases[h]
    let begins := rcLead s + periodStart s h
    if (wires s (phaseWin h)).high = true then p.drive = .pulses ∧ p.pulse = none
    else if (wires s (phaseWin h)).low = true then
      ∃ a, begins ≤ a ∧ p.drive = .pulsesMid ∧
        p.pulse = some { onAt := a, offAt := a + 8 * s.cfg.tonmax (railOf s.cfg h).val, again := none }
    else if ∃ u ∈ x.pulse, u.again.isSome = true then p.pulse = x.pulse ∧ p.drive = x.drive
    else ∃ a, begins ≤ a ∧ p.drive = .pulses ∧ p.pulse = some
      { onAt := a, offAt := a + 8 * s.cfg.tonmax (railOf s.cfg h).val
        again := some (8 * s.cfg.toffmin (railOf s.cfg h).val) } := by
  subst hx
  have hnew := newPulse_on (s := newPeriod h s) (r := railOf s.cfg h) (low := (wires s (phaseWin h)).low)
    (high := (wires s (phaseWin h)).high) ((pulsedPhase_cmd s h).trans hc)
  rw [tonMax_eq, toffMin_eq, pulsedPhase_pulse, pulsedPhase_carrAt, Nat.add_comm] at hnew
  dsimp only
  rw [carrierOpens_pulse hm ha hd]
  dsimp only
  split at hnew
  · next hh => rwa [if_pos hh]
  · next hh =>
    rw [if_neg hh]
    split at hnew
    · next hl => rwa [if_pos hl]
    · next hl =>
      rw [if_neg hl]
      split at hnew
      · next hu =>
        rw [if_pos hu, hnew]
        exact ⟨pulsedPhase_pulse s h, pulsedPhase_drive s h⟩
      · next hu => rwa [if_neg hu]

/-- The pulse of a timed command. -/
theorem carrierOpens_time {h : Phase} {s : State} {n : Nat} (hm : s.pwm.phases[h].midNext = false)
    (ha : s.pwm.phases[h].state = .active) (hd : pwmDriven s (railOf s.cfg h) = true)
    (hc : s.pwm.phases[h].cmd = .time n) :
    let p := (carrierOpens h s).pwm.phases[h]
    let begins := rcLead s + periodStart s h
    let k := min (max n (8 * s.cfg.tonmin (railOf s.cfg h).val)) (8 * s.cfg.tonmax (railOf s.cfg h).val)
    let on := if s.cfg.dual (railOf s.cfg h).val then
      begins + periodSteps s.cfg (railOf s.cfg h).val / 2 - k / 2 else begins
    if n < 8 * s.cfg.tonmin (railOf s.cfg h).val ∧ s.pwm.rails[railOf s.cfg h].opmode = .light then
      p.drive = .mid ∧ p.pulse = none
    else if (wires s (phaseWin h)).high = true then p.drive = .pulses ∧ p.pulse = none
    else p.drive = (if (wires s (phaseWin h)).low = true then .pulsesMid else .pulses) ∧ p.pulse = some
      { onAt := on, offAt := min (on + k) (on + p.carrLen - 8 * s.cfg.toffmin (railOf s.cfg h).val), again := none } := by
  have hnew := newPulse_time (s := newPeriod h s) (r := railOf s.cfg h) (low := (wires s (phaseWin h)).low)
    (high := (wires s (phaseWin h)).high) ((pulsedPhase_cmd s h).trans hc)
  rw [tonMin_eq, boundOn_eq, pulseOf, toffMin_eq, pulsedPhase_carrLen, pulsedPhase_carrAt,
    Nat.add_comm (periodStart s h)] at hnew
  dsimp only
  rw [carrierOpens_pulse hm ha hd] at hnew ⊢
  exact hnew

/-- A pulse of a substitute ends the wait of its part of i_lost (rule 7 of R159). -/
theorem carrierOpens_loss (h : Phase) (k : Rail) (s : State) :
    (carrierOpens h s).pwm.rails[k].loss =
      if k = railOf s.cfg h ∧ s.pwm.phases[h].state = .active ∧
          (carrierOpens h s).pwm.phases[h].pulse.isSome = true then
        s.pwm.rails[railOf s.cfg h].loss.map (Loss.begun s.pwm.phases[h].subfor)
      else s.pwm.rails[k].loss := by
  have hframe := carrierOpens_phase_frame h s
  have hphase := carrierOpens_phase h s
  have hstate : (carrierDrives h s).pwm.phases[h].state = s.pwm.phases[h].state :=
    (congrArg Phasor.state hphase).symm.trans ((congrArg Phasor.state hframe).trans (Phasor.counted_state _))
  have hpulse : (carrierDrives h s).pwm.phases[h].pulse = (carrierOpens h s).pwm.phases[h].pulse :=
    (congrArg Phasor.pulse hphase).symm
  have hsub : (carrierDrives h s).pwm.phases[h].subfor = s.pwm.phases[h].subfor :=
    (congrArg Phasor.subfor hphase).symm.trans ((congrArg Phasor.subfor hframe).trans (Phasor.counted_subfor _))
  rw [carrierOpens_rails, lossBehind, hstate, hpulse, hsub]
  rfl

/-- A carrier of a phase that is pitched on a rail that is off (log 51). -/
theorem pitched_frame {s : State} {h : Phase} :
    let t := clearPeriodLatch h (newPeriod h s)
    t = { s with
      adc := { s.adc with targets := t.adc.targets }
      pwm := { s.pwm with phases := vmod s.pwm.phases h fun p => { p with
        carrAt := periodStart s h, carrLen := t.pwm.phases[h].carrLen, prevLen := s.pwm.phases[h].carrLen
        offset := t.pwm.phases[h].offset } }
      cmp := { s.cmp with win := t.cmp.win } } := by
  have hphase : (clearPeriodLatch h (newPeriod h s)).pwm.phases[h] = walked s h s.pwm.phases[h] := by
    rw [clearPeriodLatch_frame]
    exact vmod_same ..
  have hvmod : vmod s.pwm.phases h (fun p => { p with
      carrAt := periodStart s h, carrLen := (walked s h s.pwm.phases[h]).carrLen, prevLen := s.pwm.phases[h].carrLen
      offset := (walked s h s.pwm.phases[h]).offset }) = vmod s.pwm.phases h (walked s h) :=
    congrArg (s.pwm.phases.set h.val ·) (walked_eq s h s.pwm.phases[h]).symm
  have htargets : (clearPeriodLatch h (newPeriod h s)).adc.targets = renewedTargets s h (periodStart s h) := by
    rw [clearPeriodLatch_frame]
    rfl
  dsimp only
  rw [hphase, hvmod, htargets]
  exact clearPeriodLatch_frame ..

theorem pitched_targets {s : State} {h : Phase} {start : Nat} (hstart : periodStart s h = start) (g : LaneTarget)
    (hg : g ∈ laneTargets s h start) : g ∈ (clearPeriodLatch h (newPeriod h s)).adc.targets := by
  subst hstart
  rw [clearPeriodLatch_frame]
  exact List.mem_append_right _ hg

/-- Settles O35: the packets by what the receiver hears, a command by the phase that it finds, and the carrier by the
phase whose period it opens. -/
theorem dutyAndCarrier : Obligations.DutyAndCarrier := by
  unfold Obligations.DutyAndCarrier
  refine ⟨fun s r => ⟨fun a b hwait => exec_duty_waits hwait, fun d ds h hdom => ⟨fun hb a b => duty_behind h hb _,
    fun hb hfirst hone => ⟨fun b => ⟨_, duty_lost h hdom hb hfirst hone b, rfl⟩, fun w b hw =>
      ⟨duty_discarded h hdom hb hfirst hone hw b, fun n => duty_missing h hdom hb hfirst hone hw b, fun hk =>
        ⟨_, duty_inOrder h hdom hb hfirst hone hw b hk, loadDuty_heard_frame (e := s.eng) r _ _ (hear_frame ..), fun p =>
          ⟨fun hno => loadDuty_passes _ _ (hno.imp_right (codeAt_first_none hfirst)), fun x ht hx =>
            loadDuty_takes _ _ ht (codeAt_first hfirst hx)⟩⟩⟩⟩,
    fun e es w x hb hfirst hsecond hlen htwo hw hx hk hl =>
      ⟨_, duty_two_inOrder h hdom hb hfirst htwo hw hx hk (heardDuty_eq ..) hl,
        loadDuty_heard_frame r _ _ (hear_heard (heardDuty_eq ..)), fun p ht y hy =>
          loadDuty_takes _ _ ht (codeAt_pair hfirst hsecond hlen hy)⟩⟩,
    fun h p hp => ⟨fun c => loadCmd_cmd s r c p, ⟨rfl, rfl⟩, loadCmd_on_rests, loadCmd_on_fires,
      fun n u => loadCmd_time_retimes n⟩⟩,
    fun s h hdom => ⟨fun hoff hp => ⟨_, exec_carrier_idle hdom hoff hp, clearPeriodLatch_frame ..,
        fun w => clearPeriodLatch_win h s w⟩,
      fun hoff hp hlen hlo hhi => ⟨_, exec_carrier_pitching hdom hoff hp, ?_,
        pitched_targets (periodStart_due hlen hlo hhi)⟩, fun g => mem_laneTargets s h _ g,
      fun hrole hon hlen hlo hhi => ⟨carrierOpens h s,
        (exec_carrier_runs hdom hrole hon).trans (by rw [carrierStarts_eq]; rfl),
        carrierOpens_frame .., fun w => carrierOpens_win h s w, ?_, fun k => carrierOpens_other s, ?_, ?_, ?_⟩⟩⟩
  · rw [← periodStart_due hlen hlo hhi]
    exact pitched_frame
  · rw [← periodStart_due hlen hlo hhi]
    exact carrierOpens_targets ..
  · intro k
    rw [carrierOpens_rails]
  · exact fun k => carrierOpens_loss h k s
  · have hstart := periodStart_due hlen hlo hhi
    have hp := carrierOpens_phase_frame h s
    refine ⟨(congrArg Phasor.carrAt hp).trans hstart, congrArg Phasor.prevLen hp, congrArg Phasor.trips hp,
      (congrArg Phasor.state hp).trans (Phasor.counted_state _), (congrArg Phasor.cur hp).trans (Phasor.counted_cur _),
      (congrArg Phasor.cmd hp).trans (Phasor.counted_cmd _), congrArg Phasor.midNext hp, congrArg Phasor.tripped hp,
      (congrArg Phasor.periods hp).trans (Phasor.counted_periods _), fun ha => ?_, fun hm => ?_, fun hm ha hd => ?_, ?_⟩
    · exact (congrArg (fun p : Phasor => (p.weight : Int)) hp).trans (Phasor.counted_weight ha)
    · exact carrierOpens_mid hm
    · have hdriven : pwmDriven s (railOf s.cfg h) = true := by simp [pwmDriven, -Fin.getElem_fin, hon, hd]
      split
      · next hc =>
        rw [carrierOpens_pulse hm ha hdriven]
        exact newPulse_mid ((pulsedPhase_cmd s h).trans hc)
      · next hc =>
        have hpulse := carrierOpens_on rfl hm ha hdriven hc
        rw [hstart] at hpulse
        exact hpulse
      · next n hc =>
        have hpulse := carrierOpens_time hm ha hdriven hc
        rw [hstart] at hpulse
        exact hpulse
    · exact carrierOpens_offset h s

end Sys2Proof.Machine
end

section
/-!
Current samples (O31): the record of a phase on its way to its lane pair, and what a fresh one does.
-/

namespace Sys2Proof.Machine

/-! ## A fresh record of a phase (R107, R116, R157, R162) -/

section Fresh
variable {s : State} {h : Phase} {value : Int}

/-- The sign of a phase's current after a value (R116). -/
def signAfter (s : State) (h : Phase) (value : Int) : Bool :=
  let i := value - s.pwm.phases[h].zofs.toInt
  let hys : Int := bitsOf (s.eng.rails[railOf s.cfg h].word 29) 0 16
  if s.pwm.phases[h].sinking = true then decide (i ≤ hys) else decide (i < -hys)

theorem newSign_eq (s : State) (h : Phase) (value : Int) :
    newSign (bitsOf (s.eng.rails[railOf s.cfg h].word 29) 0 16) s.pwm.phases[h].sinking
      (value - s.pwm.phases[h].zofs.toInt) = signAfter s h value := by
  unfold newSign signAfter
  dsimp only
  split
  · rw [← decide_not]
    exact decide_eq_decide.mpr not_lt
  · rfl

theorem upPhase_upPhase (f g : Phasor → Phasor) : (s.upPhase h f).upPhase h g = s.upPhase h fun p => g (f p) := by
  simp [State.upPwm, vmod]

/-- A phase that is in service, or whose offset has its samples, takes a fresh value as its current. -/
theorem freshCurrent_served (hp : s.pwm.phases[h].state = .pitching → 256 ≤ s.pwm.phases[h].zCount) :
    freshCurrent h value s =
      let u := s.upPhase h fun p => { p with cur := some value, sinking := signAfter s h value }
      if s.pwm.phases[h].state = .active then
        plausible h (value - s.pwm.phases[h].zofs.toInt) (trimUpdate h (value - s.pwm.phases[h].zofs.toInt) u)
      else u := by
  have hif : (s.pwm.phases[h].state == .pitching && decide (s.pwm.phases[h].zCount < 256)) = false := by
    by_cases hs : s.pwm.phases[h].state = .pitching
    · simp [-Fin.getElem_fin, Nat.not_lt.mpr (hp hs)]
    · simp [-Fin.getElem_fin, hs]
  have hu : (s.upPhase h fun p =>
      let p := { p with
        cur := some value
        sinking := newSign (bitsOf (s.eng.rails[railOf s.cfg h].word 29) 0 16) p.sinking
          (value - s.pwm.phases[h].zofs.toInt) }
      if p.state == .pitching && p.zCount < 256 then { p with zCount := p.zCount + 1, zSum := p.zSum + value } else p) =
      s.upPhase h fun p => { p with cur := some value, sinking := signAfter s h value } := by
    refine upPhase_congr ?_
    dsimp only
    rw [hif, newSign_eq]
    rfl
  unfold freshCurrent
  dsimp only at hu ⊢
  rw [hu, upPhase_same]
  simp only [beq_iff_eq]

theorem freshCurrent_pitching (hp : s.pwm.phases[h].state = .pitching) (hn : s.pwm.phases[h].zCount < 256) :
    freshCurrent h value s = s.upPhase h fun p =>
      { p with cur := some value, sinking := signAfter s h value, zCount := p.zCount + 1, zSum := p.zSum + value } := by
  have hif : (s.pwm.phases[h].state == .pitching && decide (s.pwm.phases[h].zCount < 256)) = true := by
    simp [-Fin.getElem_fin, hp, hn]
  have hu : (s.upPhase h fun p =>
      let p := { p with
        cur := some value
        sinking := newSign (bitsOf (s.eng.rails[railOf s.cfg h].word 29) 0 16) p.sinking
          (value - s.pwm.phases[h].zofs.toInt) }
      if p.state == .pitching && p.zCount < 256 then { p with zCount := p.zCount + 1, zSum := p.zSum + value } else p) =
      s.upPhase h fun p => { p with
        cur := some value, sinking := signAfter s h value, zCount := p.zCount + 1, zSum := p.zSum + value } := by
    refine upPhase_congr ?_
    dsimp only
    rw [hif, newSign_eq]
    rfl
  unfold freshCurrent
  dsimp only at hu ⊢
  rw [hu, upPhase_same, hp]
  rfl

end Fresh

/-! ## The balance trim (R107) -/

/-- The limit of a phase's balance trim. -/
def trimLimit (s : State) (h : Phase) : Int := (s.eng.rails[railOf s.cfg h].word 26).toInt

theorem clampInt_bounds {lim : Int} (h : 0 ≤ lim) (x : Int) :
    -lim ≤ clampInt (-lim) lim x ∧ clampInt (-lim) lim x ≤ lim := by
  rw [clampInt_eq (by omega)]
  omega

theorem noteOverflow_cases (r : Rail) (ovf : Bool) (s : State) :
    noteOverflow r ovf s = s ∨ (s.eng.rails[r].ovf = false ∧
      Raised 0x61 (s.upEngRail r fun e => { e with ovf := true }) (noteOverflow r ovf s)) := by
  unfold noteOverflow
  split
  · next hc =>
    obtain ⟨-, ho⟩ := (Bool.and_eq_true ..).mp hc
    exact .inr ⟨(Bool.not_eq_true' _).mp ho, raise_raised _ _ _ _ (by decide)⟩
  · exact .inl rfl

/-- The trim moves within its limit, and an overflow on the way is noted. -/
theorem trimUpdate_cases (h : Phase) (i : Int) (s : State) :
    ∃ v ti tr, v = s.upPhase h (fun p => { p with trimI := ti, trim := tr }) ∧
      (0 ≤ trimLimit s h → (-trimLimit s h ≤ tr ∧ tr ≤ trimLimit s h) ∧ -trimLimit s h ≤ ti ∧ ti ≤ trimLimit s h) ∧
      (trimUpdate h i s = v ∨ (v.eng.rails[railOf s.cfg h].ovf = false ∧
        Raised 0x61 (v.upEngRail (railOf s.cfg h) fun e => { e with ovf := true }) (trimUpdate h i s))) :=
  ⟨_, _, _, rfl, fun h0 => ⟨clampInt_bounds h0 _, clampInt_bounds h0 _⟩, noteOverflow_cases ..⟩

/-! ## The plausibility check (R157) -/

section Plausible
variable {s : State} {h : Phase} {i : Int}

/-- The check is made of a phase: in DIGITAL, with PLEN, 64 periods after it joined. -/
def plausTested (s : State) (h : Phase) : Prop :=
  s.eng.rails[railOf s.cfg h].mode = .digital ∧ s.cfg.plen h.val = true ∧ 64 ≤ s.pwm.phases[h].periods

/-- A current lies further from the phase's target than PLAUS allows. -/
def plausFar (s : State) (h : Phase) (i : Int) : Prop :=
  ((s.cfg.plaus (railOf s.cfg h).val * 16 : Nat) : Int) < ((i - s.pwm.phases[h].iTgt).natAbs : Int)

theorem plausTested_iff (s : State) (h : Phase) :
    plausTested s h ↔ ¬ (s.eng.rails[railOf s.cfg h].mode != .digital || !s.cfg.plen h.val ||
      decide (s.pwm.phases[h].periods < 64)) = true := by
  unfold plausTested
  simp only [Bool.or_eq_true, bne_iff_ne, Bool.not_eq_true', decide_eq_true_eq, not_or, not_not, Nat.not_lt,
    Bool.not_eq_false, and_assoc]

theorem plausible_untested (ht : ¬ plausTested s h) : plausible h i s = s :=
  if_pos (not_not.mp ((plausTested_iff s h).not.mp ht))

theorem plausible_near (ht : plausTested s h) (hi : ¬ plausFar s h i) :
    plausible h i s = s.upPhase h fun p => { p with implausible := 0 } := by
  rw [plausFar, Nat.cast_mul] at hi
  exact (if_neg ((plausTested_iff s h).mp ht)).trans (if_neg hi)

theorem plausible_far (ht : plausTested s h) (hi : plausFar s h i) :
    plausible h i s =
      if s.cfg.plcnt (railOf s.cfg h).val ≤ s.pwm.phases[h].implausible + 1 then rackPhase h 2 s
      else s.upPhase h fun p => { p with implausible := p.implausible + 1 } := by
  rw [plausFar, Nat.cast_mul] at hi
  exact (if_neg ((plausTested_iff s h).mp ht)).trans (if_pos hi)

end Plausible

/-! ## The record on its way (R15, R16, R21, R23) -/

/-- The entries of the schedule that are a phase's. -/
def samplesOf (h : Phase) (e : Expected) : Bool :=
  match e.req with
  | .error _ _ => false
  | .current k _ => k == h

/-- The entries of the schedule that reach a pair, in order. -/
def pairLine (s : State) (p : PairNo) : List Expected :=
  s.eng.sched.filter fun e => worksOn s (reqRail s.cfg e.req) == some p

/-- What the seat of a pair makes of the header of a loop-lane packet. -/
def hearPair (p : PairNo) (hdr : Word) (s : State) : State × Heard := hear (pairSeat p) 0 (fun _ => true) hdr s

/-- A marker of the rail's stream stands before a record (R23 to R25). -/
def recordBehind (s c : State) (r : Rail) (stamp : Nat) : Prop :=
  (s.eng.rails[r].mode = .digital ∨ s.eng.rails[r].mode = .track) ∧
    ∃ m ∈ c.fab.markers, (∃ b, m.bstamp = some b ∧ b ≤ stamp) ∧
      ((.rail r ∈ m.targets ∧ s.eng.pairs[markerPair c r m].recov = false) ∨ .engine ∈ m.targets ∨
        (.pwm ∈ m.targets ∧ ∃ ws, .words .pwm ws ∈ m.changes))

theorem planPassing_iff (m : Marker) : planPassing m = true ↔ .pwm ∈ m.targets ∧ ∃ ws, .words .pwm ws ∈ m.changes := by
  unfold planPassing
  simp only [Bool.and_eq_true, List.contains_iff_mem, List.any_eq_true]
  refine and_congr_right fun _ => ⟨?_, ?_⟩
  · rintro ⟨c, hc, hcw⟩
    split at hcw
    · exact ⟨_, hc⟩
    · exact absurd hcw (by decide)
  · rintro ⟨ws, hc⟩
    exact ⟨_, hc, rfl⟩

theorem behindBoundary_iff {s c : State} {r : Rail} {stamp : Nat} (hc : c.eng = s.eng) :
    behindBoundary c r stamp = true ↔ recordBehind s c r stamp := by
  unfold behindBoundary recordBehind consumes markerHeld
  simp only [Bool.and_eq_true, Bool.or_eq_true, List.any_eq_true, beq_iff_eq, planPassing_iff, List.contains_iff_mem,
    Bool.not_eq_true', Option.any_eq_true, decide_eq_true_eq, hc]
  refine and_congr_right fun _ => exists_congr fun m => and_congr_right fun _ => ?_
  tauto

/-- The record as it is taken in: those before it are missing, and its entry leaves the schedule. -/
def takeRecord (line : List Expected) (n : Nat) (e : Expected) (y : State) : State :=
  dropExpected e (missRecords (line.take n) y)

section Arrives
variable {s heard : State} {p : PairNo} {r : Rail} {mine : Expected → Bool} {n : Nat} {event : State → State}

theorem arrives_none (h : ((pairLine s p).drop n).find? mine = none) :
    arrives p r mine n event s heard = (s, none) := by
  unfold arrives
  dsimp only
  rw [show s.eng.sched.filter (servesEntry s p) = pairLine s p from rfl, h]

variable {e : Expected} (h : ((pairLine s p).drop n).find? mine = some e)
include h

theorem arrives_early (ht : s.clk.slot < e.arrives) : arrives p r mine n event s heard = (s, none) := by
  unfold arrives
  dsimp only
  rw [show s.eng.sched.filter (servesEntry s p) = pairLine s p from rfl, h]
  exact if_pos ht

theorem arrives_behind (ht : e.arrives ≤ s.clk.slot)
    (hb : behindBoundary (restampPairBy p e.stamp heard) r e.stamp = true) :
    arrives p r mine n event s heard = (restampPairBy p e.stamp s, none) := by
  unfold arrives
  dsimp only
  rw [show s.eng.sched.filter (servesEntry s p) = pairLine s p from rfl, h]
  exact (if_neg (Nat.not_lt.mpr ht)).trans (if_pos hb)

theorem arrives_taken (ht : e.arrives ≤ s.clk.slot)
    (hb : behindBoundary (restampPairBy p e.stamp heard) r e.stamp = false) :
    arrives p r mine n event s heard =
      (takeRecord (pairLine s p) n e
        (event ((restampPairBy p e.stamp heard).upPair p fun k => { k with refused := 0 })), some e) := by
  unfold arrives
  dsimp only
  rw [show s.eng.sched.filter (servesEntry s p) = pairLine s p from rfl, h]
  exact (if_neg (Nat.not_lt.mpr ht)).trans (if_neg (ne_true_of_eq_false hb))

end Arrives

section Sample
variable {s : State} {h : Phase} {hdr : Word} {seen : LaneSeen} {p : PairNo}

theorem raiseFabric_rail_raised (r : Rail) (s : State) : Raised 0x64 s (raiseFabric (.rail r) r 0 s) :=
  raise_raised _ _ _ s (by decide)

theorem exec_currentSample_idle (hp : worksOn s (railOf s.cfg h) = none) :
    exec (.currentSample h hdr seen) s = .next s := by
  show Host.Outcome.next (match worksOn s (railOf s.cfg h) with | none => _ | some p => _) = _
  rw [hp]

/-- What a record that has been heard brings. -/
def sampleHeard (h : Phase) (seen : LaneSeen) (s : State) (k : State × Option Expected) : State :=
  match k.2 with
  | none => k.1
  | some e =>
    if agrees s e (seenRecord e.rec_ seen) then freshCurrent h (recValue (seenRecord e.rec_ seen)) k.1 else k.1

theorem exec_currentSample_heard (hp : worksOn s (railOf s.cfg h) = some p) :
    exec (.currentSample h hdr seen) s =
      .next (sampleHeard h seen s (hearSample p (railOf s.cfg h) (samplesOf h) hdr id s)) := by
  show Host.Outcome.next (match worksOn s (railOf s.cfg h) with | none => _ | some p => _) = _
  rw [hp]
  rfl

theorem hearSample_repeated {r : Rail} {mine : Expected → Bool} (hk : (hearPair p hdr s).2 = .repeated) :
    hearSample p r mine hdr id s = (raiseFabric (.rail r) r 0 (hearPair p hdr s).1, none) := by
  unfold hearSample
  dsimp only
  rw [show hear (pairSeat p) 0 anyLen hdr s = hearPair p hdr s from rfl, hk]
  rfl

theorem hearSample_refused_none {r : Rail} {mine : Expected → Bool} (hk : (hearPair p hdr s).2 = .refused)
    (he : ∀ e ∈ s.eng.sched, mine e = true → s.clk.slot < e.arrives) :
    hearSample p r mine hdr id s = (raiseFabric (.rail r) r 0 s, none) := by
  have hnone : (s.eng.sched.find? fun e => mine e && decide (e.arrives ≤ s.clk.slot)) = none :=
    List.find?_eq_none.mpr fun e hmem => by
      intro hc
      obtain ⟨hm, ht⟩ := (Bool.and_eq_true ..).mp hc
      exact absurd (of_decide_eq_true ht) (Nat.not_le.mpr (he e hmem hm))
  unfold hearSample
  dsimp only
  rw [show hear (pairSeat p) 0 anyLen hdr s = hearPair p hdr s from rfl, hk, hnone]

theorem hearSample_refused {r : Rail} {mine : Expected → Bool} {e : Expected} (hk : (hearPair p hdr s).2 = .refused)
    (he : (s.eng.sched.find? fun e => mine e && decide (e.arrives ≤ s.clk.slot)) = some e) :
    hearSample p r mine hdr id s =
      (raiseFabric (.rail r) r 0 (dropExpected e (s.upPair p fun k => { k with refused := k.refused + 1 })), none) := by
  unfold hearSample
  dsimp only
  rw [show hear (pairSeat p) 0 anyLen hdr s = hearPair p hdr s from rfl, hk, he]
  rfl

/-- A record that is not discarded is one that n others of its pair should have preceded. -/
theorem hearSample_arrives {r : Rail} {mine : Expected → Bool} {n : Nat}
    (hn : ((hearPair p hdr s).2 = .inOrder ∧ n = 0) ∨
      ∃ j, (hearPair p hdr s).2 = .missing j ∧ n = j - s.eng.pairs[p].refused) :
    ∃ event : State → State, hearSample p r mine hdr id s = arrives p r mine n event s (hearPair p hdr s).1 ∧
      ((hearPair p hdr s).2 = .inOrder → event = id) ∧
      ((∃ j, (hearPair p hdr s).2 = .missing j) → ∀ x, Raised 0x64 x (event x)) := by
  unfold hearSample
  dsimp only
  rw [show hear (pairSeat p) 0 anyLen hdr s = hearPair p hdr s from rfl]
  rcases hn with ⟨hk, rfl⟩ | ⟨j, hk, rfl⟩
  · exact ⟨id, by rw [hk], fun _ => rfl, fun ⟨j, hj⟩ => by simp [hk] at hj⟩
  · exact ⟨raiseFabric (.rail r) r 0, by rw [hk], fun hi => by simp [hk] at hi,
      fun _ => raiseFabric_rail_raised r⟩

theorem agrees_iff (s : State) (e : Expected) (rec_ : BitVec 64) :
    agrees s e rec_ = true ↔ (rec_.extractLsb' 16 7).toNat = e.chan.toNat ∧
      rec_.extractLsb' 32 32 = BitVec.ofNat 32 e.stamp ∧ s.clk.slot - e.stamp ≤ (if s.cfg.lpm then 39 else 12) ∧
        rec_.getLsbD 30 = false := by
  unfold agrees recChan recStamp recStale maxAge
  simp only [Bool.and_eq_true, beq_iff_eq, decide_eq_true_eq, Bool.not_eq_true', and_assoc]

/-- What a fresh value leaves of an active phase (R107, R157). -/
theorem freshCurrent_active {u : State} {value : Int} (ha : u.pwm.phases[h].state = .active) :
    ∃ v w, v = u.upPhase h (fun p => { p with
        cur := some value, sinking := signAfter u h value
        trimI := v.pwm.phases[h].trimI, trim := v.pwm.phases[h].trim }) ∧
      (0 ≤ trimLimit u h → -trimLimit u h ≤ v.pwm.phases[h].trim ∧ v.pwm.phases[h].trim ≤ trimLimit u h ∧
        -trimLimit u h ≤ v.pwm.phases[h].trimI ∧ v.pwm.phases[h].trimI ≤ trimLimit u h) ∧
      (w = v ∨ (u.eng.rails[railOf u.cfg h].ovf = false ∧
        Raised 0x61 (v.upEngRail (railOf u.cfg h) fun e => { e with ovf := true }) w)) ∧
      freshCurrent h value u = plausible h (value - u.pwm.phases[h].zofs.toInt) w := by
  obtain ⟨v, ti, tr, hv, hlim, hw⟩ := trimUpdate_cases h (value - u.pwm.phases[h].zofs.toInt)
    (u.upPhase h fun p => { p with cur := some value, sinking := signAfter u h value })
  rw [upPhase_upPhase] at hv
  have hphase : v.pwm.phases[h] = { u.pwm.phases[h] with
      cur := some value, sinking := signAfter u h value, trimI := ti, trim := tr } := by rw [hv, upPhase_same]
  refine ⟨v, _, ?_, fun h0 => ?_, ?_, freshCurrent_served (by rw [ha]; nofun) |>.trans (if_pos ha)⟩
  · rw [hphase]
    exact hv
  · rw [hphase]
    exact and_assoc.mp (hlim h0)
  · rw [hv] at hw ⊢
    exact hw

theorem hearPair_eng (p : PairNo) (hdr : Word) (stamp : Nat) (s : State) :
    (restampPairBy p stamp (hearPair p hdr s).1).eng = s.eng := by
  rw [hearPair, hear_frame]
  rfl

section Taken
variable {n : Nat} {e : Expected} (hp : worksOn s (railOf s.cfg h) = some p)
  (hn : ((hearPair p hdr s).2 = .inOrder ∧ n = 0) ∨
    ∃ j, (hearPair p hdr s).2 = .missing j ∧ n = j - s.eng.pairs[p].refused)
include hp hn

theorem sample_none (he : ((pairLine s p).drop n).find? (samplesOf h) = none) :
    exec (.currentSample h hdr seen) s = .next s := by
  obtain ⟨event, harr, -⟩ := hearSample_arrives (r := railOf s.cfg h) (mine := samplesOf h) hn
  rw [exec_currentSample_heard hp, harr, arrives_none he]
  rfl

variable (he : ((pairLine s p).drop n).find? (samplesOf h) = some e)
include he

theorem sample_early (ht : s.clk.slot < e.arrives) : exec (.currentSample h hdr seen) s = .next s := by
  obtain ⟨event, harr, -⟩ := hearSample_arrives (r := railOf s.cfg h) (mine := samplesOf h) hn
  rw [exec_currentSample_heard hp, harr, arrives_early he ht]
  rfl

theorem sample_behind (ht : e.arrives ≤ s.clk.slot)
    (hb : recordBehind s (restampPairBy p e.stamp (hearPair p hdr s).1) (railOf s.cfg h) e.stamp) :
    exec (.currentSample h hdr seen) s = .next (restampPairBy p e.stamp s) := by
  obtain ⟨event, harr, -⟩ := hearSample_arrives (r := railOf s.cfg h) (mine := samplesOf h) hn
  have hbound := (behindBoundary_iff (hearPair_eng p hdr e.stamp s)).mpr hb
  rw [exec_currentSample_heard hp, harr, arrives_behind he ht hbound]
  rfl

/-- A record that is taken in, behind those that went before it. -/
theorem sample_taken (ht : e.arrives ≤ s.clk.slot)
    (hb : ¬ recordBehind s (restampPairBy p e.stamp (hearPair p hdr s).1) (railOf s.cfg h) e.stamp) :
    ∃ y, ((hearPair p hdr s).2 = .inOrder →
        y = (restampPairBy p e.stamp (hearPair p hdr s).1).upPair p fun k => { k with refused := 0 }) ∧
      ((∃ j, (hearPair p hdr s).2 = .missing j) → Raised 0x64
        ((restampPairBy p e.stamp (hearPair p hdr s).1).upPair p fun k => { k with refused := 0 }) y) ∧
      (agrees s e (seenRecord e.rec_ seen) = false →
        exec (.currentSample h hdr seen) s = .next (takeRecord (pairLine s p) n e y)) ∧
      (agrees s e (seenRecord e.rec_ seen) = true → exec (.currentSample h hdr seen) s =
        .next (freshCurrent h (recValue (seenRecord e.rec_ seen)) (takeRecord (pairLine s p) n e y))) := by
  obtain ⟨event, harr, hid, hraise⟩ := hearSample_arrives (r := railOf s.cfg h) (mine := samplesOf h) hn
  have hbound := Bool.eq_false_iff.mpr ((behindBoundary_iff (hearPair_eng p hdr e.stamp s)).not.mpr hb)
  refine ⟨event _, fun hi => by rw [hid hi]; rfl, fun hm => hraise hm _, fun ha => ?_, fun ha => ?_⟩
  · rw [exec_currentSample_heard hp, harr, arrives_taken he ht hbound, sampleHeard]
    exact congrArg _ (if_neg (ne_true_of_eq_false ha))
  · rw [exec_currentSample_heard hp, harr, arrives_taken he ht hbound, sampleHeard]
    exact congrArg _ (if_pos ha)

end Taken

end Sample

/-- Settles O31: a record by what the receiver hears of it, a fresh one by the state of its phase. -/
theorem currentSamples : Obligations.CurrentSamples := by
  unfold Obligations.CurrentSamples
  intro s h hdr seen
  refine ⟨exec_currentSample_idle, fun p hp => ⟨fun hk => ⟨_, raiseFabric_rail_raised (railOf s.cfg h) _, ?_⟩,
    fun hk => ⟨fun he => ⟨_, raiseFabric_rail_raised (railOf s.cfg h) _, ?_⟩,
      fun e he => ⟨_, _, rfl, raiseFabric_rail_raised (railOf s.cfg h) _, ?_⟩⟩,
    fun n hn => ⟨sample_none hp hn, fun e he => ⟨sample_early hp hn he, sample_behind hp hn he, fun ht hb => ?_⟩⟩⟩,
    fun i => ⟨plausible_untested, plausible_near, fun ht hf hc => ?_, fun ht hf hc => ?_⟩⟩
  · rw [exec_currentSample_heard hp, hearSample_repeated hk]
    rfl
  · rw [exec_currentSample_heard hp, hearSample_refused_none (mine := samplesOf h) hk he]
    rfl
  · rw [exec_currentSample_heard hp, hearSample_refused (mine := samplesOf h) hk he]
    rfl
  · obtain ⟨y, hin, hmiss, hstale, hfresh⟩ := sample_taken (seen := seen) hp hn he ht hb
    have hagrees := agrees_iff s e (seenRecord e.rec_ seen)
    refine ⟨y, _, hin, hmiss, rfl, fun hf => hstale (Bool.eq_false_iff.mpr (hagrees.not.mpr hf)), fun hf hp hz => ?_,
      fun hf hn hz => ?_, fun hf ha => ?_⟩
    · exact (hfresh (hagrees.mpr hf)).trans (congrArg _ (freshCurrent_pitching hp hz))
    · exact (hfresh (hagrees.mpr hf)).trans (congrArg _ ((freshCurrent_served hz).trans (if_neg hn)))
    · obtain ⟨v, w, hv, hlim, hw, hx⟩ := freshCurrent_active ha
      exact ⟨v, w, hv, hlim, hw, (hfresh (hagrees.mpr hf)).trans (congrArg _ hx)⟩
  · exact (plausible_far ht hf).trans (if_neg (Nat.not_le.mpr hc))
  · exact (plausible_far ht hf).trans (if_pos hc)

end Sys2Proof.Machine
end

section
/-!
Checkpoints and lockstep (O33), first part: the passage of a rail to its heel loop leaves what an event leaves, and a
class A condition stands behind its raise.
-/

namespace Sys2Proof.Machine

/-! ## The passage to the heel loop (R216, R217) -/

theorem setWeight_quiet (h : Phase) (w : Nat) (s : State) : quiet (setWeight h w s) = quiet s := by
  unfold setWeight
  simp only [State.upPhase_quiet]

theorem endAdmit_quiet (r : Rail) (h : Phase) (code : Nat) (s : State) : quiet (endAdmit r h code s) = quiet s := by
  unfold endAdmit
  split
  · split
    · rw [complete_quiet, State.upPwmRail_quiet]
    · rfl
  · rfl

theorem floorCheck_quiet (r : Rail) (before : Nat) (s : State) : quiet (floorCheck r before s) = quiet s := by
  unfold floorCheck
  simp only [quiet_ite, ite_self, raise_quiet, runningFault_quiet]

theorem beginFall_quiet (r : Rail) (h : Phase) (s : State) : quiet (beginFall r h s) = quiet s := by
  unfold beginFall
  simp only [State.upPwmRail_quiet]

theorem heelFire_quiet (r : Rail) (s : State) : quiet (heelFire r s) = quiet s := by
  unfold heelFire
  split
  · rfl
  · split
    · rfl
    · simp only [State.upPhase_quiet, State.upFb_quiet, beginFall_quiet]

theorem heelPhases_quiet (r : Rail) (s : State) : quiet (heelPhases r s) = quiet s := by
  unfold heelPhases
  exact quiet_each _ _ _ fun h u => State.upPhase_quiet ..

theorem stopPitching_quiet (code : Nat) (r : Rail) (s : State) : quiet (stopPitching code r s) = quiet s := by
  unfold stopPitching
  split
  · rfl
  · rw [floorCheck_quiet, endAdmit_quiet, State.upPwmRail_quiet]
    split <;> simp only [quiet_ite, ite_self, setWeight_quiet, saveHealth_quiet, State.upPhase_quiet]

theorem holdSetpoint_quiet (r : Rail) (s : State) : quiet (holdSetpoint r s) = quiet s := by
  unfold holdSetpoint
  simp only [quiet_ite, ite_self, State.upPrnRail_quiet, alertPorts_quiet]

theorem heelEntry_quiet (r : Rail) (cause : Nat) (s : State) : quiet (heelEntry r cause s) = quiet s := by
  unfold heelEntry
  simp only [State.upEngRail_quiet, State.upPwmRail_quiet, State.upFb_quiet, clearForecasts_quiet, refreshCodes_quiet,
    refreshPhases_quiet, raise_quiet, heelFire_quiet, heelPhases_quiet, stopPitching_quiet, holdSetpoint_quiet]

theorem heelAgain_quiet (r : Rail) (cause : Nat) (s : State) : quiet (heelAgain r cause s) = quiet s := by
  unfold heelAgain
  simp only [quiet_ite, ite_self, State.upEngRail_quiet, State.upFb_quiet, raise_quiet, holdSetpoint_quiet]

theorem feedbackNone_quiet (r : Rail) (event : State → State) (s : State) (h : ∀ s, quiet (event s) = quiet s) :
    quiet (feedbackNone r event s) = quiet s := by
  unfold feedbackNone
  simp only [State.upEngRail_quiet, State.upFb_quiet, clearForecasts_quiet, driveHeld_quiet, refreshCodes_quiet,
    refreshPhases_quiet, freeAdjudication_quiet, settle_quiet, runningFault_quiet, stopPitching_quiet, h]

/-- The passage of a rail to its heel loop leaves what an event leaves. -/
theorem passToHeel_quiet (r : Rail) (cause : Nat) (s : State) : quiet (passToHeel r cause s) = quiet s := by
  unfold passToHeel
  simp only [quiet_ite, ite_self, State.upFb_quiet, heelEntry_quiet, heelAgain_quiet,
    feedbackNone_quiet r _ s fun u => raise_quiet ..]

theorem lockstepRail_quiet (r : Rail) (s : State) : quiet (lockstepRail r s) = quiet s := by
  unfold lockstepRail
  simp only [quiet_ite, ite_self, State.upFb_quiet, heelEntry_quiet, heelAgain_quiet]

theorem cfg_of_quiet {s t : State} (h : quiet t = quiet s) : t.cfg = s.cfg :=
  congrArg (fun g : Regs => Setup.of g.live) (congrArg Prod.fst (timing_of_quiet h))

/-! ## A class A condition (R325, R327) -/

/-- Class A holds. -/
def inClassA (s : State) : Prop := s.flt.classA = true

theorem nvAsk_flt (r : NvReq) (s : State) : (nvAsk r s).flt = s.flt := by
  unfold nvAsk
  split <;> rfl

theorem sendMsix_flt (v : Fin 32) (s : State) : (sendMsix v s).1.flt = s.flt := by
  unfold sendMsix
  split
  · rfl
  · split <;> rfl

theorem noteKey_classA {s : State} (e : Nat) (src : Word) (hs : inClassA s) : inClassA (noteKey e src s) := by
  unfold noteKey
  split
  · exact hs
  · exact hs

section Taking
variable {t : Taking} (ht : inClassA t.s)
include ht

theorem send_classA (v : Fin 32) : inClassA (t.send v).s := by
  unfold inClassA Taking.send
  rw [sendMsix_flt]
  exact ht

theorem takeInterrupt_classA (e : Nat) (ladder : Bool) : inClassA (takeInterrupt e ladder t).s := by
  unfold takeInterrupt
  dsimp only
  generalize hu : (if ladder = true then { t with s := t.s.upFlt fun f => { f with ladderInt := putBit f.ladderInt e true } }
    else t) = u
  have hu : inClassA u.s := by
    rw [← hu]
    split <;> exact ht
  split
  · exact ht
  · split
    · exact hu
    · split
      · exact hu
      · exact send_classA (t := u.note 0) hu _

theorem takeAlert_classA (e : Nat) : inClassA (takeAlert e t).s :=
  send_classA (t := Taking.note { t with s := t.s.upFlt fun f => { f with alertTook := putBit f.alertTook e true } } 1) ht 0

/-- Under class A no chip reset is asked for (R327, R332). -/
theorem reactNormal_classA (e : Nat) (src : Word) (was : Bool) : inClassA (reactNormal e src was t).s := by
  unfold reactNormal
  dsimp only
  generalize hu : (if was = true then t else takeInterrupt e false t) = u
  have hu : inClassA u.s := by
    rw [← hu]
    split
    · exact ht
    · exact takeInterrupt_classA ht e false
  generalize hv : (if (!was && t.s.cfg.rxAlert e) = true then takeAlert e u else u) = v
  have hv : inClassA v.s := by
    rw [← hv]
    split
    · exact takeAlert_classA hu e
    · exact hu
  generalize hw : (if (t.s.cfg.rxBrst e && brstAllowed e) = true then
    Taking.note { v with s := askBlockReset src v.s } 2 else v) = w
  have hw : inClassA w.s := by
    rw [← hw]
    split <;> exact hv
  have hcrst : (t.s.cfg.rxCrst e && !w.s.flt.classA) = false := by
    rw [show w.s.flt.classA = true from hw]
    exact Bool.and_false _
  rw [hcrst]
  split <;> exact hw

theorem reactEscalated_classA (e : Nat) (was : Bool) : inClassA (reactEscalated e was t).s := by
  unfold reactEscalated
  dsimp only
  generalize hu : (if t.s.cfg.rxErrn e = true then takeErrn e t else t) = u
  have hu : inClassA u.s := by
    rw [← hu]
    split <;> exact ht
  generalize hv : (if u.s.flt.step.val ≤ 3 then takeInterrupt e true u else u) = v
  have hv : inClassA v.s := by
    rw [← hv]
    split
    · exact takeInterrupt_classA hu e true
    · exact hu
  split
  · exact hu
  split
  · exact takeInterrupt_classA hu e false
  split
  · exact takeInterrupt_classA
      (t := { u with s := u.s.upFlt fun f => { f with step := 1, escStart := some u.s.clk.slot } }) hu e true
  split
  · exact takeAlert_classA hv e
  · exact hv

end Taking

/-- A class A condition holds from its own reaction on. -/
theorem actClassA_classA (e : Nat) (src : Word) (t : Taking) : inClassA (actClassA e src t).s := by
  unfold actClassA
  dsimp only
  generalize hu : (shutOff t.s).upFlt (fun f => { f with classA := true }) = u
  have hu : inClassA u := by
    rw [← hu]
    rfl
  generalize hv : countUp 3 (recordCommit 12 _ u) = v
  have hv : inClassA v := by
    rw [← hv]
    unfold inClassA countUp recordCommit
    rw [nvAsk_flt, nvAsk_flt]
    exact hu
  split
  · exact send_classA (t := ({ t with s := v } : Taking).note 4 |>.note 1) hv 0
  · exact hv

/-- The log entry of a raise leaves the class A condition. -/
theorem raiseOne_entry {s : State} (hs : inClassA s) (entry : LogEntry) :
    inClassA (if s.flt.queue.length < 32 then s.upFlt fun f => { f with queue := f.queue ++ [entry] }
      else countDrop s) := by
  split <;> exact hs

theorem raiseOne_keeps_classA {s : State} (e : Nat) (src : Word) (code : Nat) (acc : Access) (injected : Bool)
    (hs : inClassA s) : inClassA (raiseOne e src code acc false injected s).1 := by
  unfold raiseOne
  split
  · exact hs
  · refine raiseOne_entry ?_ _
    rw [if_neg (by rw [Bool.false_and]; exact Bool.false_ne_true)]
    unfold react
    split
    · exact absurd ‹_› Bool.false_ne_true
    · split
      · refine reactEscalated_classA (noteKey_classA e src ?_) e _
        exact hs
      · refine reactNormal_classA (noteKey_classA e src ?_) e src _
        exact hs

theorem raiseUnsent_classA {s : State} (vs : List (Fin 32)) (hs : inClassA s) : inClassA (raiseUnsent vs s) := by
  unfold raiseUnsent State.each
  induction vs generalizing s with
  | nil => exact hs
  | cons v vs ih => exact ih (raiseOne_keeps_classA _ _ _ _ _ hs)

section ClassARaise
variable {s : State} (e : Nat) (src : Word) (hs : s.flt.classA = false) (hf : domOn s pdFab = true)
include hs hf

theorem raiseOne_classA : inClassA (raiseOne e src 0 noAccess true false s).1 := by
  unfold raiseOne
  rw [if_neg (by rw [hf]; decide)]
  refine raiseOne_entry ?_ _
  rw [if_neg (by rw [hs]; decide)]
  unfold react
  rw [if_pos rfl]
  dsimp only
  split
  · exact actClassA_classA ..
  · exact reactNormal_classA (actClassA_classA ..) e src _

theorem raiseOne_classA_pends : pends (raiseOne e src 0 noAccess true false s).1 = putBit s.flt.pend e true := by
  have hentry (u : State) (entry : LogEntry) :
      pends (if u.flt.queue.length < 32 then u.upFlt fun f => { f with queue := f.queue ++ [entry] } else countDrop u) =
        pends u := by
    split <;> rfl
  unfold raiseOne
  rw [if_neg (by rw [hf]; exact Bool.false_ne_true)]
  refine (hentry _ _).trans ?_
  rw [if_neg (by rw [hs, Bool.and_false]; exact Bool.false_ne_true), react_pends, noteKey_pends]
  rfl

theorem raiseClassA_classA (he : e ≠ 0x6D) : inClassA (raiseClassA e src s) := by
  unfold raiseClassA raiseFull
  dsimp only
  rw [if_neg he]
  exact raiseUnsent_classA _ (raiseOne_classA e src hs hf)

theorem raiseClassA_pend (he : e ≠ 0x6D) (hlt : e < 128) : hasBit (raiseClassA e src s).flt.pend e = true := by
  have hp : (raiseOne e src 0 noAccess true false s).1.flt.pend = putBit s.flt.pend e true :=
    raiseOne_classA_pends e src hs hf
  unfold raiseClassA raiseFull
  dsimp only
  rw [if_neg he]
  exact raiseUnsent_keeps _ _ _ (by rw [hp]; exact hasBit_putBit_same _ _ hlt)

end ClassARaise

/-- What the raise of a class A condition does where none holds (R31, R320, R325). -/
theorem raiseClassA_raised {e : Nat} (src : Word) {s : State} (hs : s.flt.classA = false) (he : e ≠ 0x6D)
    (hlt : e < 128) :
    Raised e s (raiseClassA e src s) := by
  unfold Raised
  split
  · next hf => exact ⟨raiseClassA_pend e src hs hf he hlt, Quiet.of_quiet (raiseClassA_quiet e src s)⟩
  · next hf =>
    have hoff : raiseOne e src 0 noAccess true false s = (s, []) := if_pos (by rw [Bool.eq_false_iff.mpr hf]; rfl)
    unfold raiseClassA raiseFull
    rw [hoff]
    exact if_neg he

end Sys2Proof.Machine
end

section
/-!
Checkpoints and lockstep (O33), second part: mismatches, recovery and the return to DIGITAL.
-/

namespace Sys2Proof.Machine

/-! ## Lockstep mismatches (R126 to R130) -/

section Mismatch
variable {s : State} {p : PairNo}

/-- The mismatches of the last 10 s, with one in the present slot. -/
def recentMismatches (s : State) (p : PairNo) : List Nat :=
  (s.clk.slot :: s.eng.pairs[p].times).filter fun x => decide (s.clk.slot - x < 2560000000)

/-- A pair whose outputs are blocked: it is in recovery, with the mismatch dated and counted. -/
def blockedPair (p : PairNo) (s : State) : State :=
  { s with
    eng := { s.eng with
      pairs := vmod s.eng.pairs p fun k => { k with
        recov := true, times := recentMismatches s p
        mismatches := if k.mismatches = 0xFF then 0xFF else k.mismatches + 1 }
      dutyQ := s.eng.dutyQ.filter fun m => !(pairOf s m.rail == p)
      sched := s.eng.sched.filter fun x => !(pairOf s (reqRail s.cfg x.req) == p) }
    fab := { s.fab with lastSeq := s.fab.lastSeq.filter fun e => !(e.at_ == pairSeat p) } }

/-- A rail of the pair that its heel loop cannot take (R130). -/
def graveMismatch (s : State) (p : PairNo) : Bool :=
  (railsServed s p).any fun r => regulating s r && !heelAvail s r

theorem graveMismatch_iff : graveMismatch s p = true ↔ ∃ r : Rail, s.cfg.engEn r.val = true ∧
    (pairOf s r == p) = true ∧ regulating s r = true ∧ heelAvail s r = false := by
  unfold graveMismatch railsServed
  simp only [List.any_eq_true, mem_filter_fins, Bool.and_eq_true, Bool.not_eq_true', and_assoc]

theorem incSat_byte (x : BitVec 8) : incSat x = if x = 0xFF then 0xFF else x + 1 := by
  unfold incSat
  by_cases h : x = 0xFF
  · rw [h]
    rfl
  · have : x.toNat ≠ 0xFF := fun hn => h (BitVec.eq_of_toNat_eq hn)
    rw [if_neg h, if_pos (by omega)]

/-- The source of a pair's event 0x60. -/
def mismatchSrc (s : State) (p : PairNo) (cycle : Fin 22) : Word := srcId 0x4 p.val (pairUnit s p) 2 cycle.val

/-- What a mismatch raises, and the passage of the pair's rails. -/
def afterMismatch (p : PairNo) (cycle : Fin 22) (s : State) : State :=
  if graveMismatch s p = true then raiseClassA 0x60 (mismatchSrc s p cycle) (blockedPair p s)
  else State.each (railsServed s p) lockstepRail (raise 0x60 (mismatchSrc s p cycle) 0 (blockedPair p s))

theorem afterMismatch_cfg (cycle : Fin 22) : (afterMismatch p cycle s).cfg = s.cfg := by
  unfold afterMismatch
  split
  · exact cfg_of_quiet (s := blockedPair p s) (raiseClassA_quiet ..)
  · exact cfg_of_quiet (s := blockedPair p s) ((quiet_each _ _ _ lockstepRail_quiet).trans (raise_quiet ..))

theorem exec_lockstepMismatch (cycle : Fin 22) (hr : pairRuns s p = true) :
    exec (.lockstepMismatch p cycle) s = .next (
      if s.cfg.mmlim ≤ (recentMismatches s p).length then pairFails p (afterMismatch p cycle s)
      else afterMismatch p cycle s) := by
  have hblocked : blockPair p (s.upPair p fun k => { k with
      recov := true, times := recentMismatches s p, mismatches := incSat k.mismatches }) = blockedPair p s := by
    simp only [incSat_byte]
    rfl
  rw [← afterMismatch_cfg cycle]
  show Host.Outcome.next _ = _
  rw [if_neg (by rw [hr]; decide)]
  unfold afterMismatch
  rw [← hblocked]
  rfl

theorem pairFails_raised (p : PairNo) (s : State) :
    Raised 0x60 (s.upPair p fun k => { k with recov := false, failed := true }) (pairFails p s) :=
  raise_raised _ _ _ _ (by decide)

/-- The clauses of a mismatch. -/
theorem mismatch_clauses (cycle : Fin 22) (hr : pairRuns s p = true) :
    ∃ w x t, exec (.lockstepMismatch p cycle) s = .next t ∧
      (graveMismatch s p = true → s.flt.classA = false →
        Raised 0x60 (blockedPair p s) w ∧ (domOn s pdFab = true → w.flt.classA = true) ∧ x = w) ∧
      (¬ graveMismatch s p = true →
        Raised 0x60 (blockedPair p s) w ∧ x = State.each (railsServed s p) lockstepRail w) ∧
      ((recentMismatches s p).length < s.cfg.mmlim → t = x) ∧
      (s.cfg.mmlim ≤ (recentMismatches s p).length →
        Raised 0x60 (x.upPair p fun k => { k with recov := false, failed := true }) t) := by
  have hx := exec_lockstepMismatch cycle hr
  by_cases hg : graveMismatch s p = true
  · refine ⟨_, afterMismatch p cycle s, _, hx, fun _ hc =>
      ⟨raiseClassA_raised (mismatchSrc s p cycle) hc (by decide) (by decide),
      fun hf => raiseClassA_classA (s := blockedPair p s) 0x60 _ hc hf (by decide), if_pos hg⟩, fun hn => absurd hg hn,
      fun hlt => if_neg (Nat.not_le.mpr hlt), fun hle => ?_⟩
    rw [if_pos hle]
    exact pairFails_raised ..
  · refine ⟨_, afterMismatch p cycle s, _, hx, fun hn => absurd hn hg, fun _ =>
      ⟨raise_raised 0x60 (mismatchSrc s p cycle) 0 _ (by decide), if_neg hg⟩,
      fun hlt => if_neg (Nat.not_le.mpr hlt), fun hle => ?_⟩
    rw [if_pos hle]
    exact pairFails_raised ..

theorem exec_lockstepMismatch_off (cycle : Fin 22) (hr : pairRuns s p = false) :
    exec (.lockstepMismatch p cycle) s = .next s := by
  show Host.Outcome.next _ = _
  rw [if_pos (by rw [hr]; rfl)]

end Mismatch

section LockstepRail
variable {s : State} {r : Rail}

theorem lockstepRail_off (h : s.eng.rails[r].mode = .off) : lockstepRail r s = s :=
  if_pos (by unfold regulating; rw [h]; rfl)

theorem lockstepRail_digital (h : s.eng.rails[r].mode = .digital) (ha : s.fb[r].hact = false) :
    lockstepRail r s = heelEntry r 1 s := by
  unfold lockstepRail regulating
  rw [h, ha]
  rfl

theorem lockstepRail_heel (h : s.eng.rails[r].mode = .heel) (ha : s.fb[r].hact = true) (h3 : s.fb[r].hcause ≠ 3)
    (h5 : s.fb[r].hcause ≠ 5) : lockstepRail r s = s.upFb r fun f => { f with hcause := 1, freshRun := 0 } := by
  have hkeep : (decide (s.fb[r].hcause = 3) || decide (s.fb[r].hcause = 5)) = false := by
    rw [decide_eq_false h3, decide_eq_false h5]
    rfl
  unfold lockstepRail regulating
  dsimp only
  rw [h, ha, hkeep]
  rfl

end LockstepRail

/-! ## Recovery (R109, R126, R127) -/

/-- A run of one update over places, made so that a second one at a place changes nothing. -/
theorem modEach_get_idem {α : Type} {n : Nat} (is : List (Fin n)) (f : Fin n → α → α) (hf : ∀ k x, f k (f k x) = f k x)
    (v : Vector α n) (k : Fin n) : (modEach is f v)[k] = if k ∈ is then f k v[k] else v[k] := by
  unfold modEach
  induction is generalizing v with
  | nil => simp
  | cons i is ih =>
    rw [List.foldl_cons, ih]
    by_cases hk : k = i
    · subst hk
      rw [vmod_same, hf, ite_self, if_pos List.mem_cons_self]
    · rw [vmod_other v _ (Ne.symm hk)]
      exact if_congr (by simp [hk]) rfl rfl

theorem vmod_congr {α : Type} {n : Nat} {v : Vector α n} {i : Fin n} {f g : α → α} (h : f v[i] = g v[i]) :
    vmod v i f = vmod v i g := by
  rw [vmod, vmod, h]

theorem vmod_vmod {α : Type} {n : Nat} (v : Vector α n) (i : Fin n) (f g : α → α) :
    vmod (vmod v i f) i g = vmod v i fun x => g (f x) := by
  simp [vmod, Vector.set_set]

/-- The phases of two states agree but for their trims. -/
def TrimsOnly (v w : Vector Phasor 48) : Prop :=
  ∀ h : Phase, w[h] = { v[h] with trim := w[h].trim, trimI := w[h].trimI }

theorem TrimsOnly.refl (v : Vector Phasor 48) : TrimsOnly v v := fun _ => rfl

theorem TrimsOnly.trans {u v w : Vector Phasor 48} (h1 : TrimsOnly u v) (h2 : TrimsOnly v w) :
    TrimsOnly u w := fun h => by
  rw [h2 h, h1 h]

theorem trimsOnly_vmod (v : Vector Phasor 48) (h : Phase) (a b : Int) :
    TrimsOnly v (vmod v h fun p => { p with trim := a, trimI := b }) := fun k => by
  by_cases hk : k = h
  · subst hk
    rw [vmod_same]
  · rw [vmod_other v _ (Ne.symm hk)]

/-- Trims that a checkpoint gives back. -/
theorem each_trims (ts : List (Phase × Int)) (f : Int → Int) (s : State) :
    ∃ v, TrimsOnly s.pwm.phases v ∧
      State.each ts (fun t => State.upPhase t.1 fun p => { p with trim := f t.2, trimI := f t.2 }) s =
      { s with pwm := { s.pwm with phases := v } } := by
  induction ts generalizing s with
  | nil => exact ⟨_, TrimsOnly.refl _, rfl⟩
  | cons t ts ih =>
    obtain ⟨v, hv, hs⟩ := ih (s.upPhase t.1 fun p => { p with trim := f t.2, trimI := f t.2 })
    have ht : TrimsOnly s.pwm.phases (s.upPhase t.1 fun p => { p with trim := f t.2, trimI := f t.2 }).pwm.phases :=
      trimsOnly_vmod _ _ _ _
    exact ⟨v, ht.trans hv, hs⟩

/-- A rail's state as its newest checkpoint gives it (R126, R127). -/
def EngRail.reloaded (c : Ckpt) (e : EngRail) : EngRail :=
  { e with
    boost := c.boost, boostCount := c.boostCount, fcConsec := c.misses, fcsusp := c.fcsusp, integ := c.integ
    s11 := c.s11, s12 := c.s12, s21 := c.s21, s22 := c.s22, vbus := c.vbus, rvb := c.rvb, iLost := c.iLost
    lastD := c.lastD, refPrev := none }

theorem reloadRail_some {s : State} {r : Rail} {c : Ckpt} (h : newestCkpt s.eng.rails[r] = some c) :
    ∃ v, TrimsOnly s.pwm.phases v ∧
      reloadRail r s = { s with
        eng := { s.eng with rails := vmod s.eng.rails r (EngRail.reloaded c) }
        pwm := { s.pwm with phases := v } } := by
  obtain ⟨v, hv, hs⟩ := each_trims c.trims (· * 4096) (s.upEngRail r (EngRail.reloaded c))
  refine ⟨v, hv, ?_⟩
  unfold reloadRail
  rw [h]
  exact hs

/-- A rail's state without a checkpoint (R109). -/
def EngRail.cleared (e : EngRail) : EngRail :=
  { e with
    boost := .armed, boostCount := 0, integ := 0, s11 := 0, s12 := 0, s21 := 0, s22 := 0, ff := 0, iLost := 0
    refPrev := none }

/-- A rail without a checkpoint, before its event. -/
def clearRail (r : Rail) (s : State) : State :=
  State.each (held s r.val) (fun h => State.upPhase h fun p => { p with trim := 0, trimI := 0 })
    (s.upEngRail r EngRail.cleared)

theorem reloadRail_none {s : State} {r : Rail} (h : newestCkpt s.eng.rails[r] = none) :
    Raised 0x62 (clearRail r s) (reloadRail r s) := by
  unfold reloadRail
  rw [h]
  exact raise_raised _ _ _ (clearRail r s) (by decide)

theorem clearRail_eq (r : Rail) (s : State) :
    clearRail r s = { s with
      eng := { s.eng with rails := vmod s.eng.rails r EngRail.cleared }
      pwm := { s.pwm with
        phases := modEach (held s r.val) (fun _ p => { p with trim := 0, trimI := 0 }) s.pwm.phases } } := by
  unfold clearRail
  rw [each_upPhase]
  rfl

/-- The state of a rail as its pair takes it over, and its return by TRACK. -/
def EngRail.restored (f : FbRail) (c : Ckpt) (e : EngRail) : EngRail :=
  let back := e.mode = .heel ∧ f.hcause = 1 ∧ f.path ≠ .comparator
  { e.reloaded c with mode := if back then .track else e.mode, track := if back then 0 else e.track }

theorem restoreRail_some {s : State} {r : Rail} {c : Ckpt} (h : newestCkpt s.eng.rails[r] = some c) :
    ∃ v, TrimsOnly s.pwm.phases v ∧
      restoreRail r s = { s with
        eng := { s.eng with rails := vmod s.eng.rails r (EngRail.restored s.fb[r] c) }
        pwm := { s.pwm with phases := v } } := by
  obtain ⟨v, hv, hs⟩ := reloadRail_some h
  refine ⟨v, hv, ?_⟩
  have hmode : (vmod s.eng.rails r (EngRail.reloaded c))[r].mode = s.eng.rails[r].mode := by
    rw [vmod_same]
    rfl
  have hcase : restoreRail r s = if s.eng.rails[r].mode = .heel ∧ s.fb[r].hcause = 1 ∧ s.fb[r].path ≠ .comparator then
      (reloadRail r s).upEngRail r fun e => { e with mode := .track, track := 0 } else reloadRail r s := by
    unfold restoreRail enterTrack
    rw [hs]
    dsimp only
    rw [hmode]
    by_cases h1 : s.eng.rails[r].mode = .heel <;> by_cases h2 : s.fb[r].hcause = 1 <;>
      by_cases h3 : s.fb[r].path = .comparator <;> simp [-Fin.getElem_fin, h1, h2, h3]
  have hmode : ∀ e, EngRail.restored s.fb[r] c e =
      if e.mode = .heel ∧ s.fb[r].hcause = 1 ∧ s.fb[r].path ≠ .comparator then
        { EngRail.reloaded c e with mode := .track, track := 0 } else EngRail.reloaded c e := fun e => by
    by_cases hb : e.mode = .heel ∧ s.fb[r].hcause = 1 ∧ s.fb[r].path ≠ .comparator
    · simp only [EngRail.restored, if_pos hb]
    · simp only [EngRail.restored, if_neg hb]
      rfl
  rw [hcase, hs]
  split
  next hb =>
    have hrails : vmod s.eng.rails r (EngRail.restored s.fb[r] c) =
        vmod (vmod s.eng.rails r (EngRail.reloaded c)) r fun e => { e with mode := .track, track := 0 } := by
      rw [vmod_vmod]
      exact vmod_congr (by rw [hmode, if_pos hb])
    rw [hrails]
    rfl
  next hb =>
    have hrails : vmod s.eng.rails r (EngRail.restored s.fb[r] c) = vmod s.eng.rails r (EngRail.reloaded c) :=
      vmod_congr (by rw [hmode, if_neg hb])
    rw [hrails]

/-- What a pair makes of a rail that has a checkpoint. -/
def takenBack (fb : Vector FbRail 8) (r : Rail) (e : EngRail) : EngRail :=
  match newestCkpt e with
  | some c => e.restored fb[r] c
  | none => e

theorem takenBack_some {fb : Vector FbRail 8} {r : Rail} {e : EngRail} {c : Ckpt} (h : newestCkpt e = some c) :
    takenBack fb r e = e.restored fb[r] c := by
  rw [takenBack, h]

/-- All the rails that a pair takes over come from their checkpoints. -/
theorem each_restoreRail {rs : List Rail} (hrs : rs.Nodup) {s : State}
    (hc : ∀ r ∈ rs, (newestCkpt s.eng.rails[r]).isSome = true) :
    ∃ v, TrimsOnly s.pwm.phases v ∧
      State.each rs restoreRail s = { s with
        eng := { s.eng with rails := modEach rs (takenBack s.fb) s.eng.rails }
        pwm := { s.pwm with phases := v } } := by
  induction rs generalizing s with
  | nil => exact ⟨_, TrimsOnly.refl _, rfl⟩
  | cons r rs ih =>
    obtain ⟨hr, hrest⟩ := List.nodup_cons.mp hrs
    obtain ⟨c, hcr⟩ := Option.isSome_iff_exists.mp (hc r List.mem_cons_self)
    obtain ⟨v, hv, hone⟩ := restoreRail_some hcr
    have hrail : vmod s.eng.rails r (EngRail.restored s.fb[r] c) = vmod s.eng.rails r (takenBack s.fb r) :=
      vmod_congr (takenBack_some hcr).symm
    rw [hrail] at hone
    obtain ⟨w, hw, hall⟩ := ih hrest (s := restoreRail r s) fun k hk => by
      have hne : r ≠ k := fun h => hr (h ▸ hk)
      rw [hone]
      dsimp only
      rw [vmod_other _ _ hne]
      exact hc k (List.mem_cons_of_mem _ hk)
    rw [hone] at hw hall
    refine ⟨w, hv.trans hw, ?_⟩
    show State.each rs restoreRail (restoreRail r s) = _
    rw [hone, hall]
    rfl

section Restore
variable {s : State} {p : PairNo}

/-- A pair out of its recovery. -/
def recovered (p : PairNo) (s : State) : State := s.upPair p fun k => { k with recov := false }

/-- The rails that a pair takes back at the end of its recovery. -/
def rejoining (s : State) (p : PairNo) : List Rail := (railsServed s p).filter fun r => s.eng.rails[r].enabled

theorem mem_rejoining {r : Rail} : r ∈ rejoining s p ↔
    (pairOf s r == p) = true ∧ s.cfg.engEn r.val = true ∧ s.eng.rails[r].enabled = true := by
  unfold rejoining railsServed
  rw [List.mem_filter, mem_filter_fins, Bool.and_eq_true]
  tauto

theorem nodup_rejoining : (rejoining s p).Nodup := ((nodup_fins _).filter _).filter _

theorem exec_lanePairRestore_off (h : s.eng.pairs[p].recov = false ∨ domOn s (pairDom p) = false) (passed : Bool) :
    exec (.lanePairRestore p passed) s = .next s := by
  show Host.Outcome.next _ = _
  rw [if_pos]
  rcases h with h | h <;> simp [-Fin.getElem_fin, h]

theorem exec_lanePairRestore_failed (hr : s.eng.pairs[p].recov = true) (hd : domOn s (pairDom p) = true) :
    exec (.lanePairRestore p false) s = .next (pairFails p s) := by
  show Host.Outcome.next _ = _
  rw [if_neg (by simp [-Fin.getElem_fin, hr, hd])]
  rfl

theorem exec_lanePairRestore_passed (hr : s.eng.pairs[p].recov = true) (hd : domOn s (pairDom p) = true) :
    exec (.lanePairRestore p true) s =
      .next (restampPair p (State.each (rejoining s p) restoreRail (recovered p s))) := by
  show Host.Outcome.next _ = _
  rw [if_neg (by simp [-Fin.getElem_fin, hr, hd])]
  rfl

/-- What an end of the recovery leaves where all its rails have checkpoints. -/
theorem restored_eq (hc : ∀ r ∈ rejoining s p, (newestCkpt s.eng.rails[r]).isSome = true) :
    ∃ v, TrimsOnly s.pwm.phases v ∧
      restampPair p (State.each (rejoining s p) restoreRail (recovered p s)) =
        { (restampPair p (recovered p s)) with
          eng := { (recovered p s).eng with rails := modEach (rejoining s p) (takenBack s.fb) s.eng.rails }
          pwm := { s.pwm with phases := v } } := by
  obtain ⟨v, hv, hs⟩ := each_restoreRail nodup_rejoining (s := recovered p s) hc
  refine ⟨v, hv, ?_⟩
  rw [hs]
  rfl

theorem rejoined_rail (r : Rail) :
    (modEach (rejoining s p) (takenBack s.fb) s.eng.rails)[r] =
      if r ∈ rejoining s p then takenBack s.fb r s.eng.rails[r] else s.eng.rails[r] :=
  modEach_get nodup_rejoining _ _ r

end Restore

/-! ## The return to DIGITAL (R127) -/

theorem upEngRail_congr {r : Rail} {s : State} {f g : EngRail → EngRail} (h : f s.eng.rails[r] = g s.eng.rails[r]) :
    s.upEngRail r f = s.upEngRail r g := by
  simp only [State.upEngRail, State.upEng, vmod_congr h]

theorem upEngRail_same (r : Rail) (f : EngRail → EngRail) (s : State) :
    (s.upEngRail r f).eng.rails[r] = f s.eng.rails[r] :=
  vmod_same ..

theorem upEngRail_upEngRail (r : Rail) (s : State) (f g : EngRail → EngRail) :
    (s.upEngRail r f).upEngRail r g = s.upEngRail r fun e => g (f e) := by
  simp only [State.upEngRail, State.upEng, vmod_vmod]

/-- What the phases, the comparators and the ports have no part in. -/
def apartPhases (s : State) :=
  (s.clk, s.eng, s.fb, s.pwm.rails, s.seq, s.adc, s.flt, s.regs, s.nvm, s.pwr)

theorem apartPhases_ite {c : Prop} [Decidable c] (a b : State) :
    apartPhases (if c then a else b) = if c then apartPhases a else apartPhases b := apply_ite apartPhases c a b

theorem apartPhases_each {α : Type} (xs : List α) (f : α → State → State) (s : State)
    (h : ∀ x s, apartPhases (f x s) = apartPhases s) : apartPhases (State.each xs f s) = apartPhases s := by
  unfold State.each
  induction xs generalizing s with
  | nil => rfl
  | cons x xs ih => rw [List.foldl_cons, ih, h]

theorem of_apartPhases {s t : State} (h : apartPhases t = apartPhases s) :
    t.eng = s.eng ∧ t.fb = s.fb ∧ t.pwm.rails = s.pwm.rails ∧ t.seq = s.seq ∧ t.adc = s.adc ∧ t.flt = s.flt ∧
      t.regs = s.regs ∧ t.nvm = s.nvm ∧ t.pwr = s.pwr := by
  simp only [apartPhases, Prod.mk.injEq] at h
  exact h.2

theorem upPhase_apart (h : Phase) (f : Phasor → Phasor) (s : State) : apartPhases (s.upPhase h f) = apartPhases s := rfl

theorem upPrnRail_apart (r : Rail) (f : PrnRail → PrnRail) (s : State) :
    apartPhases (s.upPrnRail r f) = apartPhases s := rfl

theorem freeSub_apart (h : Phase) (s : State) : apartPhases (freeSub h s) = apartPhases s := by
  unfold freeSub
  split <;> rfl

theorem freeSubs_apart (r : Rail) (s : State) : apartPhases (freeSubs r s) = apartPhases s :=
  apartPhases_each _ _ _ fun h s => by
    split
    · rw [apartPhases_ite, freeSub_apart, ite_self]
    · rfl

theorem showStates_apart (r : Rail) (s : State) : apartPhases (showStates r s) = apartPhases s :=
  apartPhases_each _ _ _ fun _ _ => rfl

theorem retarget_apart (r : Rail) (fresh : BitVec 48) (s : State) :
    apartPhases (retarget r fresh s) = apartPhases s :=
  apartPhases_each _ _ _ fun e s => by
    split
    · rw [apartPhases_ite]
      exact ite_self _
    · rfl

/-- A change of the active phases is a change of the rail's record and of phases. -/
theorem setActive_apart (r : Rail) (act : BitVec 48) (s : State) :
    apartPhases (setActive r act s) = apartPhases (s.upPwmRail r fun w => { w with act := act, actNext := act }) := by
  unfold setActive
  rw [retarget_apart, showStates_apart, freeSubs_apart]

theorem putCodes_apart (w : Window) (c : BitVec 10 × BitVec 10) (s : State) :
    apartPhases (putCodes w c s) = apartPhases s := by
  unfold putCodes
  dsimp only
  split <;> rfl

theorem refreshCodes_apart (r : Rail) (s : State) : apartPhases (refreshCodes r s) = apartPhases s := by
  unfold refreshCodes
  rw [putCodes_apart, putCodes_apart]

theorem refreshPhases_apart (r : Rail) (s : State) : apartPhases (refreshPhases r s) = apartPhases s :=
  apartPhases_each _ _ _ fun _ s => putCodes_apart _ _ s

theorem alertPorts_apart (p : Port → Bool) (cause : Nat) (s : State) :
    apartPhases (alertPorts p cause s) = apartPhases s :=
  apartPhases_each _ _ _ fun _ _ => rfl

theorem setTarget_apart (r : Rail) (code : BitVec 16) (cls : Nat) (notify : Bool) (s : State) :
    apartPhases (setTarget r code cls notify s) = apartPhases s := by
  unfold setTarget
  rw [apartPhases_ite, alertPorts_apart]
  exact ite_self _

theorem followBoot_apart (r : Rail) (s : State) : apartPhases (followBoot r s) = apartPhases s := by
  unfold followBoot
  dsimp only
  rw [apartPhases_ite, setTarget_apart]
  exact ite_self _

/-- The active phases of a rail as its return to DIGITAL sets them (R127). -/
def returnActive (r : Rail) (s : State) : BitVec 48 :=
  if s.cfg.pwmMode r.val = 0 then phaseSet (held s r.val) else lowest s r.val (ruleOne s r s.pwm.rails[r].iAvg)

/-- A rail back at its law, with its phases in service. -/
def backAtLaw (r : Rail) (s : State) : State :=
  setActive r (returnActive r s) <|
    (s.upEngRail r fun e => { e with mode := .digital, track := 0 }).upFb r fun f =>
      { f with hact := false, blind := false, firing := [], firedAt := none, freshRun := 0, stale := 0 }

/-- The waiting parts of i_lost reach the head (R161). -/
def lossReaches (r : Rail) (s : State) : State :=
  let u := sendLoss r <| s.upPwmRail r fun w => { w with loss := w.loss.map fun l => { l with sent := true } }
  if u.eng.rails[r].iLost != s.eng.rails[r].iLost then updateFeedForward r u else u

theorem heelReturn_apart (r : Rail) (s : State) :
    apartPhases (heelReturn r s) = apartPhases (lossReaches r (backAtLaw r s)) := by
  have hact : heelReturn r s = refreshPhases r (refreshCodes r (
      if (lossReaches r (backAtLaw r s)).prn.rails[r].safe.any fun n =>
          (lossReaches r (backAtLaw r s)).cfg.ownen r.val && (lossReaches r (backAtLaw r s)).prn.ports[n].state == .lost
      then applySafe r (lossReaches r (backAtLaw r s))
      else followBoot r ((lossReaches r (backAtLaw r s)).upPrnRail r fun p => { p with safe := none }))) := rfl
  rw [hact, refreshPhases_apart, refreshCodes_apart, apartPhases_ite, applySafe, setTarget_apart, followBoot_apart,
    upPrnRail_apart, ite_self]

/-- The parts of a rail's i_lost have all been sent. -/
def PwmRail.lossSent (w : PwmRail) : PwmRail := { w with loss := w.loss.map fun l => { l with sent := true } }

/-- The rail with its i_lost as the phase subsystem gives it. -/
def lossTaken (r : Rail) (s : State) : State :=
  (s.upPwmRail r PwmRail.lossSent).upEngRail r fun e => { e with iLost := lossSum s.pwm.rails[r].lossSent }

theorem lossTaken_rail (r : Rail) (s : State) :
    (lossTaken r s).eng.rails[r] = { s.eng.rails[r] with iLost := lossSum s.pwm.rails[r].lossSent } := vmod_same ..

theorem lossReaches_eq (r : Rail) (s : State) :
    lossReaches r s = if lossSum s.pwm.rails[r].lossSent = s.eng.rails[r].iLost then lossTaken r s
      else updateFeedForward r (lossTaken r s) := by
  have hsend : sendLoss r (s.upPwmRail r PwmRail.lossSent) = lossTaken r s := by
    unfold sendLoss
    rw [show (s.upPwmRail r PwmRail.lossSent).pwm.rails[r] = s.pwm.rails[r].lossSent from vmod_same ..]
    rfl
  show (if (sendLoss r (s.upPwmRail r PwmRail.lossSent)).eng.rails[r].iLost != s.eng.rails[r].iLost then
    updateFeedForward r (sendLoss r (s.upPwmRail r PwmRail.lossSent)) else sendLoss r (s.upPwmRail r PwmRail.lossSent)) = _
  rw [hsend, lossTaken_rail]
  by_cases h : lossSum s.pwm.rails[r].lossSent = s.eng.rails[r].iLost
  · rw [if_pos h, if_neg (by simp [-Fin.getElem_fin, h])]
  · rw [if_neg h, if_pos (by simp [-Fin.getElem_fin, h])]

/-- Where nothing has waited for the head, or the saturation of the rail has been told, nothing is raised. -/
theorem lossReaches_silent {r : Rail} {s : State}
    (h : (s.pwm.rails[r].loss = [] ∧ s.eng.rails[r].iLost = 0) ∨ s.eng.rails[r].ovf = true) :
    ∃ x y, lossReaches r s = (s.upPwmRail r PwmRail.lossSent).upEngRail r fun e => { e with iLost := x, ff := y } := by
  rw [lossReaches_eq]
  split
  next heq =>
    exact ⟨lossSum s.pwm.rails[r].lossSent, s.eng.rails[r].ff, upEngRail_congr rfl⟩
  next hne =>
    have hovf : s.eng.rails[r].ovf = true := h.resolve_left fun ⟨hl, hi⟩ => hne (by rw [hi, PwmRail.lossSent, hl]; rfl)
    refine ⟨lossSum s.pwm.rails[r].lossSent, (feedForward (lossTaken r s).cfg r.val (lossTaken r s).eng.rails[r]
      (nextSampleSlot (lossTaken r s) r.val (lossTaken r s).clk.slot)).val, ?_⟩
    unfold updateFeedForward noteOverflow
    dsimp only
    rw [if_neg]
    · exact upEngRail_upEngRail ..
    · rw [upEngRail_same, lossTaken_rail]
      dsimp only
      rw [hovf, Bool.not_true, Bool.and_false]
      decide

section TrackEnd
variable {s : State} {r : Rail}

theorem exec_trackEnd (hm : s.eng.rails[r].mode = .track) (ht : 64 ≤ s.eng.rails[r].track)
    (ha : s.eng.rails[r].assign = none) : exec (.trackEnd r) s = .next (heelReturn r s) := by
  show Host.Outcome.next _ = _
  rw [if_pos (by simp [-Fin.getElem_fin, hm, ht, ha])]

theorem exec_trackEnd_off
    (h : s.eng.rails[r].mode ≠ .track ∨ s.eng.rails[r].track < 64 ∨ s.eng.rails[r].assign ≠ none) :
    exec (.trackEnd r) s = .next s := by
  show Host.Outcome.next _ = _
  rw [if_neg]
  simp only [Bool.and_eq_true, beq_iff_eq, decide_eq_true_eq, Option.isNone_iff_eq_none]
  rintro ⟨⟨hm, ht⟩, ha⟩
  exact h.elim (· hm) fun h => h.elim (Nat.not_lt.mpr ht) (· ha)

/-- A rail with its law and its loop as they are at the return (R127). -/
def lawState (r : Rail) (s : State) : State :=
  ((s.upEngRail r fun e => { e with mode := .digital, track := 0 }).upFb r fun f =>
      { f with hact := false, blind := false, firing := [], firedAt := none, freshRun := 0, stale := 0 }).upPwmRail r
    fun w => { w with act := returnActive r s, actNext := returnActive r s }

theorem lawState_eng (r : Rail) (s : State) :
    (lawState r s).eng.rails = vmod s.eng.rails r fun e => { e with mode := .digital, track := 0 } := rfl

theorem lawState_fb (r : Rail) (s : State) : (lawState r s).fb = vmod s.fb r fun f =>
    { f with hact := false, blind := false, firing := [], firedAt := none, freshRun := 0, stale := 0 } := rfl

theorem lawState_pwm (r : Rail) (s : State) : (lawState r s).pwm.rails = vmod s.pwm.rails r fun w =>
    { w with act := returnActive r s, actNext := returnActive r s } := rfl

theorem lawState_rest (r : Rail) (s : State) : (lawState r s).seq = s.seq ∧ (lawState r s).adc = s.adc ∧
    (lawState r s).flt = s.flt ∧ (lawState r s).regs = s.regs := ⟨rfl, rfl, rfl, rfl⟩

theorem backAtLaw_apart (r : Rail) (s : State) : apartPhases (backAtLaw r s) = apartPhases (lawState r s) :=
  setActive_apart ..

/-- A return to DIGITAL that raises nothing. -/
theorem heelReturn_silent (h : (s.pwm.rails[r].loss = [] ∧ s.eng.rails[r].iLost = 0) ∨ s.eng.rails[r].ovf = true) :
    ∃ x y, apartPhases (heelReturn r s) =
      apartPhases (((lawState r s).upPwmRail r PwmRail.lossSent).upEngRail r fun e => { e with iLost := x, ff := y }) := by
  obtain ⟨heng, hfb, hrails, hseq, hadc, hflt, hregs, hnvm, hpwr⟩ := of_apartPhases (backAtLaw_apart r s)
  have hrail : (lawState r s).eng.rails[r] = { s.eng.rails[r] with mode := .digital, track := 0 } := vmod_same ..
  have hpwm : (lawState r s).pwm.rails[r].loss = s.pwm.rails[r].loss := by
    rw [lawState_pwm, vmod_same]
  have hb : ((backAtLaw r s).pwm.rails[r].loss = [] ∧ (backAtLaw r s).eng.rails[r].iLost = 0) ∨
      (backAtLaw r s).eng.rails[r].ovf = true := by
    rw [heng, hrails, hrail, hpwm]
    exact h
  obtain ⟨x, y, hxy⟩ := lossReaches_silent hb
  refine ⟨x, y, ?_⟩
  rw [heelReturn_apart, hxy]
  have hclk : (backAtLaw r s).clk = (lawState r s).clk := congrArg Prod.fst (backAtLaw_apart r s)
  simp only [apartPhases, State.upEngRail_eq, State.upEng, State.upPwmRail, State.upPwm, hclk, heng, hfb, hrails, hseq,
    hadc, hflt, hregs, hnvm, hpwr]

/-- The clause of a return to DIGITAL. -/
theorem heelReturn_clause (h : (s.pwm.rails[r].loss = [] ∧ s.eng.rails[r].iLost = 0) ∨ s.eng.rails[r].ovf = true) :
    (heelReturn r s).eng.rails[r].mode = .digital ∧ (heelReturn r s).eng.rails[r].track = 0 ∧
    (heelReturn r s).fb[r] = { s.fb[r] with
      hact := false, blind := false, firing := [], firedAt := none, freshRun := 0, stale := 0 } ∧
    (heelReturn r s).pwm.rails[r].act = returnActive r s ∧
    (∀ k : Rail, k ≠ r → (heelReturn r s).eng.rails[k] = s.eng.rails[k] ∧ (heelReturn r s).fb[k] = s.fb[k]) ∧
    (heelReturn r s).seq = s.seq ∧ (heelReturn r s).adc = s.adc ∧ (heelReturn r s).flt = s.flt ∧
    (heelReturn r s).regs = s.regs := by
  obtain ⟨x, y, hxy⟩ := heelReturn_silent h
  obtain ⟨heng, hfb, hrails, hseq, hadc, hflt, hregs, -⟩ := of_apartPhases hxy
  have hengs : (heelReturn r s).eng.rails = vmod (lawState r s).eng.rails r fun e => { e with iLost := x, ff := y } :=
    congrArg Eng.rails heng
  have hpwm : (heelReturn r s).pwm.rails = vmod (lawState r s).pwm.rails r PwmRail.lossSent := hrails
  have hfbs : (heelReturn r s).fb = (lawState r s).fb := hfb
  have hrail : (heelReturn r s).eng.rails[r] =
      { s.eng.rails[r] with mode := .digital, track := 0, iLost := x, ff := y } := by
    rw [hengs, lawState_eng, vmod_same, vmod_same]
  have hact : (heelReturn r s).pwm.rails[r].act = returnActive r s := by
    rw [hpwm, lawState_pwm, vmod_same, vmod_same, PwmRail.lossSent]
  obtain ⟨hseq', hadc', hflt', hregs'⟩ := lawState_rest r s
  refine ⟨congrArg EngRail.mode hrail, congrArg EngRail.track hrail, ?_, hact, fun k hk => ⟨?_, ?_⟩, hseq.trans hseq',
    hadc.trans hadc', hflt.trans hflt', hregs.trans hregs'⟩
  · rw [hfbs, lawState_fb, vmod_same]
  · rw [hengs, lawState_eng, vmod_other _ _ (Ne.symm hk), vmod_other _ _ (Ne.symm hk)]
  · rw [hfbs, lawState_fb, vmod_other _ _ (Ne.symm hk)]

end TrackEnd

end Sys2Proof.Machine
end

section
/-!
Checkpoints and lockstep (O33), last part: the checkpoint store and the settlement.
-/

namespace Sys2Proof.Machine

/-! ## Packets in order -/

/-- A sender's packets at the checkpoint store, of these lengths, with SEQs from n on. -/
def InOrderFrom (src : BitVec 14) (n : Nat) (lens : List Nat) (ws : List Word) : Prop :=
  ws.length = lens.length ∧ ∀ i w, ws[i]? = some w → bitsOf w 0 14 = src.toNat ∧ bitsOf w 14 4 = 5 ∧
    lens[i]? = some (bitsOf w 18 4) ∧ bitsOf w 22 10 = (n + i) % 1024

/-- The checkpoint store expects n as the next SEQ of a sender, or knows none. -/
def NextSeq (src : BitVec 14) (n : Nat) (s : State) : Prop :=
  ∀ e ∈ s.fab.lastSeq, e.at_ = .engine → e.src = src → e.kind = 5 → n % 1024 = (e.seq.toNat + 1) % 1024

section InOrder
variable {src : BitVec 14} {n len : Nat} {lens as bs : List Nat} {w : Word} {ws : List Word} {s : State}

theorem InOrderFrom.head (h : InOrderFrom src n (len :: lens) (w :: ws)) :
    hdrSrc w = src ∧ hdrKind w = 5 ∧ hdrLen w = len ∧ bitsOf w 22 10 = n % 1024 := by
  obtain ⟨hsrc, hkind, hlen, hseq⟩ := h.2 0 w rfl
  refine ⟨?_, hkind, (Option.some.inj hlen).symm, hseq⟩
  rw [hdrSrc, hsrc, BitVec.ofNat_toNat, BitVec.setWidth_eq]

theorem InOrderFrom.tail (h : InOrderFrom src n (len :: lens) (w :: ws)) : InOrderFrom src (n + 1) lens ws := by
  obtain ⟨hl, hall⟩ := h
  refine ⟨Nat.succ.inj hl, fun i x hx => ?_⟩
  obtain ⟨hsrc, hkind, hlen, hseq⟩ := hall (i + 1) x hx
  exact ⟨hsrc, hkind, hlen, by rw [hseq]; congr 1; omega⟩

theorem InOrderFrom.take (h : InOrderFrom src n (as ++ bs) ws) : InOrderFrom src n as (ws.take as.length) := by
  obtain ⟨hl, hall⟩ := h
  rw [List.length_append] at hl
  refine ⟨by rw [List.length_take]; omega, fun i x hx => ?_⟩
  rw [List.getElem?_take] at hx
  obtain ⟨hi, hx⟩ := Option.ite_none_right_eq_some.mp hx
  obtain ⟨hsrc, hkind, hlen, hseq⟩ := hall i x hx
  exact ⟨hsrc, hkind, by rwa [List.getElem?_append_left hi] at hlen, hseq⟩

theorem InOrderFrom.drop (h : InOrderFrom src n (as ++ bs) ws) :
    InOrderFrom src (n + as.length) bs (ws.drop as.length) := by
  obtain ⟨hl, hall⟩ := h
  rw [List.length_append] at hl
  refine ⟨by rw [List.length_drop]; omega, fun i x hx => ?_⟩
  rw [List.getElem?_drop] at hx
  obtain ⟨hsrc, hkind, hlen, hseq⟩ := hall (as.length + i) x hx
  rw [List.getElem?_append_right (Nat.le_add_right ..), Nat.add_sub_cancel_left] at hlen
  exact ⟨hsrc, hkind, hlen, by rw [hseq, Nat.add_assoc]⟩

theorem lastOf_isFor {place : MarkerAt} {kind : Nat} {e : SeqSeen} (h : lastOf place kind w s = some e) :
    (e.at_ == place && e.src == hdrSrc w && e.kind.toNat == kind) = true :=
  List.find?_some (p := fun e : SeqSeen => e.at_ == place && e.src == hdrSrc w && e.kind.toNat == kind) h

/-- A packet of the sequence is in order. -/
theorem hear_inOrder (h : InOrderFrom src n (len :: lens) (w :: ws)) (hn : NextSeq src n s) (h2 : 2 ≤ len) :
    hear .engine 5 (fun l => decide (l = len)) w s = (noteSeq .engine 5 w s, .inOrder) := by
  obtain ⟨hsrc, hkind, hlen, hseq⟩ := h.head
  have hfits : PacketFits 5 (fun l => decide (l = len)) w :=
    ⟨hkind, (lenFits_iff _ _).mpr ⟨by omega, fun _ => by omega, by omega, by omega⟩, decide_eq_true hlen⟩
  cases hl : lastOf .engine 5 w s with
  | none => exact hear_first hfits hl
  | some e =>
    obtain ⟨hat, hfrom, hof⟩ := (isFor_iff e .engine 5 w).mp (lastOf_isFor hl)
    have hnext := hn e (List.mem_of_find?_eq_some hl) hat (hfrom.trans hsrc) (BitVec.eq_of_toNat_eq hof)
    exact hear_next hfits hl (seqAhead_eq (by omega) (by rw [hseq, hnext]))

theorem nextSeq_noteSeq (h : InOrderFrom src n (len :: lens) (w :: ws)) :
    NextSeq src (n + 1) (noteSeq .engine 5 w s) := fun e he hat hfrom hof => by
  obtain ⟨hsrc, -, -, hseq⟩ := h.head
  obtain ⟨hbooks, -⟩ := noteSeq_books (place := .engine) w s (show 5 ≤ 8 by omega)
  rw [hbooks e he ⟨hat, hfrom.trans hsrc.symm, by rw [hof]; rfl⟩, hdrSeq_toNat, hseq]
  omega

/-- A checkpoint whose packets are in order is whole, and only the books of SEQ change. -/
theorem hearCheckpoint_inOrder (r : Rail) (h : InOrderFrom src n lens ws) (hn : NextSeq src n s)
    (h2 : ∀ l ∈ lens, 2 ≤ l) :
    ∃ l, hearCheckpoint r lens (ws.map some) s = ({ s with fab := { s.fab with lastSeq := l } }, true) ∧
      NextSeq src (n + lens.length) { s with fab := { s.fab with lastSeq := l } } := by
  induction lens generalizing n ws s with
  | nil => exact ⟨s.fab.lastSeq, by simp [hearCheckpoint], hn⟩
  | cons len lens ih =>
    cases ws with
    | nil => exact absurd h.1 (by simp)
    | cons w ws =>
      obtain ⟨l, hl, hnl⟩ := ih h.tail (nextSeq_noteSeq (s := s) h) fun x hx => h2 x (List.mem_cons_of_mem _ hx)
      refine ⟨l, ?_, ?_⟩
      · rw [List.map_cons, hearCheckpoint, hear_inOrder h hn (h2 len List.mem_cons_self)]
        dsimp only
        rw [if_pos (show (Heard.inOrder == Heard.inOrder) = true from rfl), hl]
        rfl
      · rw [List.length_cons, show n + (lens.length + 1) = n + 1 + lens.length by omega]
        exact hnl

end InOrder

/-! ## The copies -/

/-- A checkpoint of a rail goes to the copy that its sequence number names. -/
def EngRail.putCopy (v : Option Ckpt) (e : EngRail) : EngRail :=
  if e.ckNext.toNat % 2 = 0 then { e with ckA := v, ckNext := e.ckNext + 1 }
  else { e with ckB := v, ckNext := e.ckNext + 1 }

section Copies
variable {s : State} {r : Rail}

theorem writeCheckpoint_good (whole : Bool) :
    writeCheckpoint r whole false s =
      s.upEngRail r (EngRail.putCopy (if whole = true then some (checkpointOf s r) else none)) := by
  unfold writeCheckpoint
  dsimp only
  rw [if_neg Bool.false_ne_true]
  cases whole <;> exact upEngRail_congr rfl

theorem writeCheckpoint_bad (whole : Bool) :
    Raised 0x62 (s.upEngRail r (EngRail.putCopy none)) (writeCheckpoint r whole true s) := by
  have hput : s.upEngRail r (EngRail.putCopy none) = s.upEngRail r fun e =>
      if (checkpointOf s r).seq.toNat % 2 = 0 then { e with ckA := none, ckNext := e.ckNext + 1 }
      else { e with ckB := none, ckNext := e.ckNext + 1 } := upEngRail_congr rfl
  rw [hput]
  exact raise_raised _ _ _ _ (by decide)

theorem two_le_checkpointLens : ∀ l ∈ checkpointLens s r, 2 ≤ l := by
  unfold checkpointLens
  dsimp only
  split <;> simp

theorem modEach_congr {α : Type} {n : Nat} {is : List (Fin n)} {f g : Fin n → α → α} (h : ∀ k ∈ is, f k = g k)
    (v : Vector α n) : modEach is f v = modEach is g v := by
  unfold modEach
  induction is generalizing v with
  | nil => rfl
  | cons i is ih =>
    rw [List.foldl_cons, List.foldl_cons, h i List.mem_cons_self]
    exact ih (fun k hk => h k (List.mem_cons_of_mem _ hk)) _

/-- All packets in order: every rail has its copy. -/
theorem takeCheckpoints_inOrder {src : BitVec 14} {rs : List Rail} (hrs : rs.Nodup) {n : Nat} {ws : List Word}
    (h : InOrderFrom src n (rs.flatMap (checkpointLens s)) ws) (hn : NextSeq src n s) :
    ∃ l, takeCheckpoints 0 rs (ws.map some) s = { s with
      eng := { s.eng with rails := modEach rs (fun r => EngRail.putCopy (some (checkpointOf s r))) s.eng.rails }
      fab := { s.fab with lastSeq := l } } := by
  induction rs generalizing s n ws with
  | nil => exact ⟨s.fab.lastSeq, rfl⟩
  | cons r rs ih =>
    obtain ⟨hr, hrest⟩ := List.nodup_cons.mp hrs
    rw [List.flatMap_cons] at h
    obtain ⟨l, hl, hnl⟩ := hearCheckpoint_inOrder r h.take hn two_le_checkpointLens
    have hbad : hasBit (0 : BitVec 8) r.val = false := by simp [hasBit]
    obtain ⟨m, hm⟩ := ih hrest (s := { s with
      eng := { s.eng with rails := vmod s.eng.rails r (EngRail.putCopy (some (checkpointOf s r))) }
      fab := { s.fab with lastSeq := l } }) h.drop hnl
    refine ⟨m, ?_⟩
    have hsame : ∀ k ∈ rs, EngRail.putCopy (some (checkpointOf { s with
        eng := { s.eng with rails := vmod s.eng.rails r (EngRail.putCopy (some (checkpointOf s r))) }
        fab := { s.fab with lastSeq := l } } k)) = EngRail.putCopy (some (checkpointOf s k)) := fun k hk => by
      have hne : r ≠ k := fun he => hr (he ▸ hk)
      unfold checkpointOf
      dsimp only
      rw [vmod_other _ _ hne]
      rfl
    rw [takeCheckpoints, ← List.map_take, hl, ← List.map_drop, hbad, writeCheckpoint_good]
    exact hm.trans (by rw [modEach_congr hsame]; rfl)

theorem checkpointLens_eq (s : State) (r : Rail) :
    checkpointLens s r = if ((held s r.val).length + 1) / 2 ≤ 13 then [15, ((held s r.val).length + 1) / 2 + 2]
      else [15, 15, ((held s r.val).length + 1) / 2 - 12] := by
  unfold checkpointLens
  dsimp only
  split
  · rfl
  · rw [show ((held s r.val).length + 1) / 2 - 14 + 2 = ((held s r.val).length + 1) / 2 - 12 by omega]

/-- One rail's checkpoint with a CRC that fails. -/
theorem takeCheckpoints_bad {src : BitVec 14} {n : Nat} {ws : List Word} {bad : BitVec 8}
    (h : InOrderFrom src n ([r].flatMap (checkpointLens s)) ws) (hn : NextSeq src n s) (hb : hasBit bad r.val = true) :
    ∃ u, Raised 0x62 ({ s with fab := u }.upEngRail r (EngRail.putCopy none))
      (takeCheckpoints bad [r] (ws.map some) s) := by
  rw [List.flatMap_cons] at h
  obtain ⟨l, hl, -⟩ := hearCheckpoint_inOrder r h.take hn two_le_checkpointLens
  refine ⟨{ s.fab with lastSeq := l }, ?_⟩
  rw [takeCheckpoints, ← List.map_take, hl, hb]
  exact writeCheckpoint_bad ..

/-- One rail's checkpoint of which no packet comes. -/
theorem takeCheckpoints_none {bad : BitVec 8} (hb : hasBit bad r.val = false) :
    takeCheckpoints bad [r] [] s = s.upEngRail r (EngRail.putCopy none) := by
  have hlost : hearCheckpoint r (checkpointLens s r) [] s = (s, false) := by
    rw [checkpointLens_eq]
    split <;> rfl
  rw [takeCheckpoints, List.take_nil, hlost, hb, writeCheckpoint_good]
  rfl

end Copies

section Checkpoint
variable {s : State} {p : PairNo}

/-- A pair whose checkpoint of this time has begun. -/
def checkpointed (p : PairNo) (s : State) : State := s.upPair p fun k => { k with ckAt := some s.tmr.now }

theorem exec_checkpoint (hck : s.cfg.ckpen = true) (hp : pairRuns s p = true) (hd : domOn s pdEngA = true)
    (ht : s.tmr.now.toNat % 64000 = 0) (hne : s.eng.pairs[p].ckAt ≠ some s.tmr.now) (hdrs : List (Option Word))
    (bad : BitVec 8) :
    exec (.checkpoint p hdrs bad) s = .next (takeCheckpoints bad (rejoining s p) hdrs (checkpointed p s)) := by
  show Host.Outcome.next _ = _
  rw [if_neg (by simp [-Fin.getElem_fin, hck, hp, hd, onGrid, ht, hne])]
  rfl

theorem exec_checkpoint_again (h : s.eng.pairs[p].ckAt = some s.tmr.now) (hdrs : List (Option Word)) (bad : BitVec 8) :
    exec (.checkpoint p hdrs bad) s = .next s := by
  show Host.Outcome.next _ = _
  rw [if_pos (by simp [-Fin.getElem_fin, onGrid, h])]

/-- A checkpoint of all the pair's rails. -/
theorem checkpoint_clause {src : BitVec 14} {n : Nat} {ws : List Word}
    (h : InOrderFrom src n ((rejoining s p).flatMap (checkpointLens s)) ws) (hn : NextSeq src n s) :
    ∃ t, takeCheckpoints 0 (rejoining s p) (ws.map some) (checkpointed p s) = t ∧
      t = { checkpointed p s with
        eng := { (checkpointed p s).eng with rails := t.eng.rails }
        fab := { s.fab with lastSeq := t.fab.lastSeq } } ∧
      ∀ r : Rail, t.eng.rails[r] =
        if s.cfg.engEn r.val = true ∧ s.eng.rails[r].enabled = true ∧ pairOf s r = p then
          s.eng.rails[r].putCopy (some (checkpointOf s r)) else s.eng.rails[r] := by
  obtain ⟨l, hl⟩ := takeCheckpoints_inOrder (s := checkpointed p s) (nodup_rejoining (s := s) (p := p)) h hn
  refine ⟨_, hl, rfl, fun r => ?_⟩
  have hget := modEach_get (nodup_rejoining (s := s) (p := p))
    (fun r => EngRail.putCopy (some (checkpointOf (checkpointed p s) r))) s.eng.rails r
  refine hget.trans (if_congr ?_ rfl rfl)
  rw [mem_rejoining, beq_iff_eq]
  tauto

end Checkpoint

/-! ## The settlement -/

theorem TrimsOnly.get {v w : Vector Phasor 48} (h : TrimsOnly v w) (k : Phase) :
    w[k] = { v[k] with trim := w[k].trim, trimI := w[k].trimI } := h k

/-- The clause of a recovery with all its checkpoints. -/
theorem restore_clause {s : State} {p : PairNo} (hc : ∀ r ∈ rejoining s p, (newestCkpt s.eng.rails[r]).isSome = true) :
    ∃ t, restampPair p (State.each (rejoining s p) restoreRail (recovered p s)) = t ∧
      t = { restampPair p (recovered p s) with
        eng := { s.eng with rails := t.eng.rails, pairs := vmod s.eng.pairs p fun k => { k with recov := false } }
        pwm := { s.pwm with phases := t.pwm.phases } } ∧
      TrimsOnly s.pwm.phases t.pwm.phases ∧
      ∀ r : Rail, t.eng.rails[r] = if r ∈ rejoining s p then takenBack s.fb r s.eng.rails[r] else s.eng.rails[r] := by
  obtain ⟨v, hv, ht⟩ := restored_eq hc
  exact ⟨_, ht, rfl, hv, rejoined_rail⟩

/-- A rail of the pair that its checkpoint gives back. -/
theorem rejoined_some {s : State} {p : PairNo} {r : Rail} (hm : (pairOf s r == p) = true)
    (hen : s.cfg.engEn r.val = true) (hon : s.eng.rails[r].enabled = true) {c : Ckpt} (hc : newestCkpt s.eng.rails[r] = some c) {t : State}
    (ht : t.eng.rails[r] = if r ∈ rejoining s p then takenBack s.fb r s.eng.rails[r] else s.eng.rails[r]) :
    t.eng.rails[r] = s.eng.rails[r].restored s.fb[r] c := by
  rw [ht, if_pos (mem_rejoining.mpr ⟨hm, hen, hon⟩), takenBack_some hc]

theorem rejoined_not {s : State} {p : PairNo} {r : Rail}
    (h : (pairOf s r == p) = false ∨ s.cfg.engEn r.val = false ∨ s.eng.rails[r].enabled = false) {t : State}
    (ht : t.eng.rails[r] = if r ∈ rejoining s p then takenBack s.fb r s.eng.rails[r] else s.eng.rails[r]) :
    t.eng.rails[r] = s.eng.rails[r] := by
  refine ht.trans (if_neg fun hmem => ?_)
  obtain ⟨hm, hen, hon⟩ := mem_rejoining.mp hmem
  simp only [hm, hen, hon, reduceCtorEq, or_self] at h

/-- The clause of a rail without a checkpoint. -/
theorem reloadRail_clause {s : State} {r : Rail} (h : newestCkpt s.eng.rails[r] = none) :
    ∃ v : State, Raised 0x62 v (reloadRail r s) ∧
      v = { s with eng := { s.eng with rails := v.eng.rails }, pwm := { s.pwm with phases := v.pwm.phases } } ∧
      v.eng.rails[r] = s.eng.rails[r].cleared ∧
      ∀ h ∈ held s r.val, v.pwm.phases[h] = { s.pwm.phases[h] with trim := 0, trimI := 0 } := by
  have hclear := clearRail_eq r s
  refine ⟨_, reloadRail_none h, ?_, ?_, fun k hk => ?_⟩
  · rw [hclear]
  · rw [hclear]
    exact vmod_same ..
  · rw [hclear]
    exact (modEach_get_idem _ (fun _ p => { p with trim := 0, trimI := 0 }) (fun _ _ => rfl) s.pwm.phases k).trans
      (if_pos hk)

/-- Settles O33: a checkpoint takes its packets rail by rail, a mismatch blocks the pair, a restore brings its rails
back from their copies, and a return to DIGITAL changes the rail it is about. -/
theorem checkpointsAndLockstep : Obligations.CheckpointsAndLockstep := by
  unfold Obligations.CheckpointsAndLockstep
  refine ⟨?_, ?_⟩
  · intro s p hs src n hck hp hd ht once put rs lens inOrder
    have hlens : lens = (rejoining s p).flatMap (checkpointLens s) :=
      congrArg (fun f => (rejoining s p).flatMap f) (funext fun r => (checkpointLens_eq s r).symm)
    have hseqs (h : inOrder) : InOrderFrom src n ((rejoining s p).flatMap (checkpointLens s)) hs ∧
        NextSeq src n (checkpointed p s) := by
      obtain ⟨hl, hn, hw⟩ := h
      refine ⟨hlens ▸ ⟨hl, hw⟩, fun e he hat hsrc hkind => ?_⟩
      rw [hn e he hat hsrc hkind, Nat.mod_mod]
    refine ⟨fun h bad => exec_checkpoint_again h _ bad, fun hne => ⟨fun h => ?_, fun h r bad hrs hb => ?_,
      fun r bad hrs hb => ?_⟩⟩
    · obtain ⟨t, ht', hframe, hrails⟩ := checkpoint_clause (hseqs h).1 (hseqs h).2
      exact ⟨t, (exec_checkpoint hck hp hd ht hne _ 0).trans (congrArg _ ht'), hframe, hrails⟩
    · have hrs : rejoining s p = [r] := hrs
      obtain ⟨hin, hn⟩ := hseqs h
      rw [hrs] at hin
      obtain ⟨u, hu⟩ := takeCheckpoints_bad (s := checkpointed p s) hin hn hb
      refine ⟨_, u, (exec_checkpoint hck hp hd ht hne _ bad), ?_⟩
      rw [hrs]
      exact hu
    · have hrs : rejoining s p = [r] := hrs
      rw [exec_checkpoint hck hp hd ht hne, hrs, takeCheckpoints_none hb]
      rfl
  · intro s p mine times grave
    refine ⟨fun cycle hr => ?_, fun cycle hr => exec_lockstepMismatch_off cycle hr,
      fun r => ⟨lockstepRail_off, lockstepRail_digital, lockstepRail_heel⟩, fun hr hd => ⟨?_, fun hall => ?_⟩,
      fun h => exec_lanePairRestore_off h, fun r => ⟨reloadRail_clause, fun hm h64 ha => ?_, exec_trackEnd_off⟩⟩
    · have hgrave : grave ↔ graveMismatch s p = true := graveMismatch_iff.symm
      obtain ⟨w, x, t, ht, hclause⟩ := mismatch_clauses cycle hr
      rw [← hgrave] at hclause
      exact ⟨blockedPair p s, w, x, t, ht, rfl, hclause⟩
    · exact ⟨_, exec_lanePairRestore_failed hr hd, pairFails_raised p s⟩
    · obtain ⟨t, ht, hframe, htrims, hrails⟩ := restore_clause (s := s) (p := p) fun r hmem => by
        obtain ⟨hmine, hen, hon⟩ := mem_rejoining.mp hmem
        exact hall r hmine hen hon
      exact ⟨t, (exec_lanePairRestore_passed hr hd).trans (congrArg _ ht), hframe, htrims, fun r =>
        ⟨fun hmine hen hon c hc => rejoined_some hmine hen hon hc (hrails r), fun h => rejoined_not h (hrails r)⟩⟩
    · exact ⟨_, exec_trackEnd hm h64 ha, heelReturn_clause⟩

end Sys2Proof.Machine
end

section
/-!
Supply monitors (O53), first part: neither an event nor the passage of a rail to its heel loop touches the lane pairs,
the NV array with its controller's refusal, or the domains that have lost their supply.
-/

namespace Sys2Proof.Machine

/-- The lane pairs, the NV array with its controller's refusal, and the domains without a supply. -/
def steady (s : State) := (s.eng.pairs, s.nvm.mem, s.nvm.dead, s.nvm.refuse, s.pwr.lost)

theorem steady_ite {c : Prop} [Decidable c] (a b : State) :
    steady (if c then a else b) = if c then steady a else steady b := apply_ite steady c a b

theorem steady_ite_s {c : Prop} [Decidable c] (a b : Taking) :
    steady (if c then a else b).s = if c then steady a.s else steady b.s := apply_ite (fun t => steady t.s) c a b

theorem steady_each {α : Type} (xs : List α) (f : α → State → State) (s : State)
    (h : ∀ x s, steady (f x s) = steady s) : steady (State.each xs f s) = steady s := by
  unfold State.each
  induction xs generalizing s with
  | nil => rfl
  | cons x xs ih => rw [List.foldl_cons, ih, h]

theorem steady_of_apart {s t : State} (h : apartPhases t = apartPhases s) : steady t = steady s := by
  obtain ⟨heng, -, -, -, -, -, -, hnvm, hpwr⟩ := of_apartPhases h
  rw [steady, steady, heng, hnvm, hpwr]

/-! ## Updates of the state -/

theorem upFlt_steady (f : Flt → Flt) (s : State) : steady (s.upFlt f) = steady s := rfl

theorem upCmp_steady (f : Cmp → Cmp) (s : State) : steady (s.upCmp f) = steady s := rfl

theorem upSeq_steady (f : Seq → Seq) (s : State) : steady (s.upSeq f) = steady s := rfl

theorem upLdg_steady (f : Ldg → Ldg) (s : State) : steady (s.upLdg f) = steady s := rfl

theorem upSeqRail_steady (i : SeqIdx) (f : SeqRail → SeqRail) (s : State) : steady (s.upSeqRail i f) = steady s := rfl

theorem upGroup_steady (j : Group) (f : SeqGroup → SeqGroup) (s : State) : steady (s.upGroup j f) = steady s := rfl

theorem upPrnRail_steady (r : Rail) (f : PrnRail → PrnRail) (s : State) : steady (s.upPrnRail r f) = steady s := rfl

theorem upEngRail_steady (r : Rail) (f : EngRail → EngRail) (s : State) : steady (s.upEngRail r f) = steady s := rfl

theorem upPhase_steady (h : Phase) (f : Phasor → Phasor) (s : State) : steady (s.upPhase h f) = steady s := rfl

theorem upPwmRail_steady (r : Rail) (f : PwmRail → PwmRail) (s : State) : steady (s.upPwmRail r f) = steady s := rfl

theorem upFb_steady (r : Rail) (f : FbRail → FbRail) (s : State) : steady (s.upFb r f) = steady s := rfl

/-! ## Phases -/

theorem nvAsk_steady (r : NvReq) (s : State) : steady (nvAsk r s) = steady s := by
  unfold nvAsk
  split <;> rfl

theorem saveHealth_steady (s : State) : steady (saveHealth s) = steady s := by
  unfold saveHealth recordCommit
  rw [steady_ite, nvAsk_steady, ite_self]

theorem complete_steady (q : Ring) (code result : Nat) (s : State) : steady (complete q code result s) = steady s := by
  unfold complete completeData
  split <;> rfl

theorem freeSub_steady (h : Phase) (s : State) : steady (freeSub h s) = steady s := steady_of_apart (freeSub_apart h s)

theorem setActive_steady (r : Rail) (act : BitVec 48) (s : State) : steady (setActive r act s) = steady s :=
  (steady_of_apart (setActive_apart r act s)).trans (upPwmRail_steady ..)

theorem showStates_steady (r : Rail) (s : State) : steady (showStates r s) = steady s :=
  steady_of_apart (showStates_apart r s)

theorem substituteAll_steady (r : Rail) (s : State) : steady (substituteAll r s) = steady s :=
  steady_each _ _ _ fun h s => by
    unfold substitute
    split
    · split <;> rfl
    · rfl

theorem driveHeld_steady (r : Rail) (d : Drive) (s : State) : steady (driveHeld r d s) = steady s :=
  steady_each _ _ _ fun _ _ => rfl

theorem endHalf_steady (r : Rail) (s : State) : steady (endHalf r s) = steady s := steady_each _ _ _ fun _ _ => rfl

theorem anchorCarrier_steady (r : Rail) (s : State) : steady (anchorCarrier r s) = steady s := by
  unfold anchorCarrier
  split <;> rfl

theorem enablePhases_steady (r : Rail) (s : State) : steady (enablePhases r s) = steady s := by
  unfold enablePhases
  rw [setActive_steady, upPwmRail_steady, anchorCarrier_steady, substituteAll_steady]

theorem disableAdmit_steady (r : Rail) (s : State) : steady (disableAdmit r s) = steady s := by
  unfold disableAdmit
  split
  · rfl
  · rw [complete_steady, saveHealth_steady, freeSub_steady, upPhase_steady, upPwmRail_steady]

theorem disablePhases_steady (r : Rail) (s : State) : steady (disablePhases r s) = steady s := by
  unfold disablePhases
  rw [driveHeld_steady, showStates_steady, disableAdmit_steady, endHalf_steady, upPwmRail_steady]

/-! ## Comparators -/

theorem putCodes_steady (w : Window) (c : BitVec 10 × BitVec 10) (s : State) : steady (putCodes w c s) = steady s :=
  steady_of_apart (putCodes_apart w c s)

theorem refreshCodes_steady (r : Rail) (s : State) : steady (refreshCodes r s) = steady s :=
  steady_of_apart (refreshCodes_apart r s)

theorem refreshPhases_steady (r : Rail) (s : State) : steady (refreshPhases r s) = steady s :=
  steady_of_apart (refreshPhases_apart r s)

theorem handBack_steady (p : Proof) (s : State) : steady (handBack p s) = steady s := by
  unfold handBack
  split <;> rfl

theorem freeDac_steady (p : Proof) (s : State) : steady (freeDac p s) = steady s := by
  unfold freeDac
  split <;> rfl

theorem takeSteep_steady (r : Rail) (s : State) : steady (takeSteep r s) = steady s := by
  unfold takeSteep
  split
  · rfl
  · dsimp only
    rw [upCmp_steady, upFb_steady]
    split
    · rw [upCmp_steady, freeDac_steady, handBack_steady]
    · rfl

theorem beginProof_steady (s : State) : steady (beginProof s) = steady s := by
  unfold beginProof
  dsimp only
  split
  · rfl
  · split <;> rfl

theorem serveSteep_steady (s : State) : steady (serveSteep s) = steady s := by
  unfold serveSteep
  rw [beginProof_steady]
  exact steady_each _ _ _ fun r s => by rw [steady_ite, takeSteep_steady, ite_self]

theorem freeAdjudication_steady (r : Rail) (s : State) : steady (freeAdjudication r s) = steady s := by
  unfold freeAdjudication
  rw [serveSteep_steady, upCmp_steady, upFb_steady]

/-! ## The sequencer -/

theorem alertPorts_steady (p : Port → Bool) (cause : Nat) (s : State) : steady (alertPorts p cause s) = steady s :=
  steady_of_apart (alertPorts_apart p cause s)

theorem leaveOn_steady (i : SeqIdx) (s : State) : steady (leaveOn i s) = steady s := by
  unfold leaveOn marginNone dropBook
  split
  · simp only [steady_ite, alertPorts_steady, upPrnRail_steady, upSeqRail_steady, upLdg_steady, ite_self]
  · rfl

theorem disableLoop_steady (r : Rail) (s : State) : steady (disableLoop r s) = steady s := by
  unfold disableLoop
  rw [refreshPhases_steady, refreshCodes_steady, disablePhases_steady, freeAdjudication_steady, upFb_steady,
    upEngRail_steady]

theorem alertShdn_steady (r : Rail) (s : State) : steady (alertShdn r s) = steady s := alertPorts_steady ..

theorem setRailState_steady (i : SeqIdx) (q : RailState) (s : State) : steady (setRailState i q s) = steady s := rfl

theorem followDiscode_steady (i : SeqIdx) (s : State) : steady (followDiscode i s) = steady s := by
  unfold followDiscode
  split
  · exact refreshCodes_steady ..
  · exact putCodes_steady ..

theorem enterDischarge_steady (i : SeqIdx) (s : State) : steady (enterDischarge i s) = steady s := by
  unfold enterDischarge
  dsimp only
  split
  · rw [disableLoop_steady, upPrnRail_steady, upSeqRail_steady]
  · rw [followDiscode_steady, upSeqRail_steady]

theorem enterStop_steady (i : SeqIdx) (r : Rail) (s : State) : steady (enterStop i r s) = steady s := by
  unfold enterStop
  rw [alertShdn_steady, upPrnRail_steady, setRailState_steady]

theorem reachOff_steady (i : SeqIdx) (s : State) : steady (reachOff i s) = steady s := by
  unfold reachOff restRail
  dsimp only
  rw [upSeqRail_steady]
  split
  · rw [driveHeld_steady, upPrnRail_steady]
  · rfl

theorem railStep_steady (i : SeqIdx) (s : State) : steady (railStep i s) = steady s := by
  unfold railStep
  simp only []
  split
  all_goals simp only [steady_ite, ite_self, upSeqRail_steady, setRailState_steady, followDiscode_steady]
  case h_1 =>
    split
    · rfl
    · split <;> simp only [steady_ite, ite_self, upSeqRail_steady, setRailState_steady]
  all_goals cases regRail i <;> simp only [steady_ite, ite_self, upSeqRail_steady, upPrnRail_steady, setRailState_steady,
    enterStop_steady, enterDischarge_steady, leaveOn_steady]

theorem settleRounds_steady (n : Nat) (s : State) : steady (settleRounds n s) = steady s := by
  induction n generalizing s with
  | zero => rfl
  | succ n ih =>
    have hround : steady (State.each (usedRails s.cfg) railStep s) = steady s := steady_each _ _ _ railStep_steady
    simp only [settleRounds, steady_ite, ih, hround, ite_self]

theorem releaseIdle_steady (s : State) : steady (releaseIdle s) = steady s := steady_each _ _ _ fun _ _ => rfl

theorem settle_steady (s : State) : steady (settle s) = steady s := by
  unfold settle
  rw [releaseIdle_steady, steady_ite, settleRounds_steady, ite_self]

theorem requestOff_steady (j : Group) (s : State) : steady (requestOff j s) = steady s := by
  unfold requestOff
  split
  · rfl
  · exact steady_each _ _ _ fun _ _ => rfl

theorem markDown_steady (fault : Bool) (i : SeqIdx) (s : State) : steady (markDown fault i s) = steady s := by
  unfold markDown
  split <;> rfl

theorem takeGroup_steady (j : Group) (s : State) : steady (takeGroup j s) = steady s := by
  unfold takeGroup
  dsimp only
  rw [settle_steady, steady_each _ _ _ fun i s => (upSeqRail_steady ..).trans (markDown_steady true i s),
    steady_each _ _ _ (markDown_steady true), requestOff_steady]

theorem takeRetry_steady (i : SeqIdx) (s : State) : steady (takeRetry i s) = steady s := by
  unfold takeRetry
  rw [settle_steady]
  exact steady_each _ _ _ fun j s => by
    simp only [steady_ite, upSeqRail_steady, ite_self]

theorem takeSysrst_steady (s : State) : steady (takeSysrst s) = steady s := by
  unfold takeSysrst
  rw [settle_steady, upSeq_steady, steady_each _ _ _ (markDown_steady true), steady_each _ _ _ requestOff_steady]

theorem shutOff_steady (s : State) : steady (shutOff s) = steady s := by
  unfold shutOff
  dsimp only
  rw [upSeq_steady, steady_each, steady_each]
  · exact fun _ _ => rfl
  · intro i s
    repeat' split
    all_goals simp only [setRailState_steady, alertShdn_steady, enterDischarge_steady, leaveOn_steady, reachOff_steady,
      upSeqRail_steady]

/-! ## Events -/

theorem send_steady (t : Taking) (v : Fin 32) : steady (t.send v).s = steady t.s := by
  unfold Taking.send sendMsix
  dsimp only
  split
  · rfl
  · split <;> rfl

theorem note_steady (t : Taking) (k : Nat) : steady (t.note k).s = steady t.s := rfl

theorem takeInterrupt_steady (e : Nat) (ladder : Bool) (t : Taking) :
    steady (takeInterrupt e ladder t).s = steady t.s := by
  unfold takeInterrupt
  simp only [steady_ite_s, send_steady, note_steady, upFlt_steady, ite_self]

theorem takeAlert_steady (e : Nat) (t : Taking) : steady (takeAlert e t).s = steady t.s := by
  unfold takeAlert
  rw [send_steady, note_steady, upFlt_steady]

theorem takeErrn_steady (e : Nat) (t : Taking) : steady (takeErrn e t).s = steady t.s := rfl

theorem noteKey_steady (e : Nat) (src : Word) (s : State) : steady (noteKey e src s) = steady s := by
  unfold noteKey
  split <;> rfl

theorem askChipReset_steady (s : State) : steady (askChipReset s) = steady s := by
  unfold askChipReset
  dsimp only
  rw [steady_ite, takeSysrst_steady]
  exact ite_self _

theorem reactNormal_steady (e : Nat) (src : Word) (was : Bool) (t : Taking) :
    steady (reactNormal e src was t).s = steady t.s := by
  unfold reactNormal
  dsimp only
  rw [steady_ite_s, takeErrn_steady, ite_self, steady_ite_s, note_steady, askChipReset_steady, ite_self, steady_ite_s,
    note_steady, askBlockReset, askReset, upFlt_steady, ite_self, steady_ite_s, takeAlert_steady, ite_self, steady_ite_s,
    takeInterrupt_steady, ite_self]

theorem reactEscalated_steady (e : Nat) (was : Bool) (t : Taking) :
    steady (reactEscalated e was t).s = steady t.s := by
  unfold reactEscalated
  simp only [steady_ite_s, ite_self, takeErrn_steady, takeAlert_steady, takeInterrupt_steady, upFlt_steady]

theorem actClassA_steady (e : Nat) (src : Word) (t : Taking) : steady (actClassA e src t).s = steady t.s := by
  unfold actClassA countUp recordCommit
  dsimp only
  rw [steady_ite_s, send_steady, ite_self, note_steady, note_steady, nvAsk_steady, nvAsk_steady, upFlt_steady,
    shutOff_steady]

theorem react_steady (e : Nat) (src : Word) (classA was esc : Bool) (t : Taking) :
    steady (react e src classA was esc t).s = steady t.s := by
  unfold react
  simp only [steady_ite_s, ite_self, actClassA_steady, reactNormal_steady, reactEscalated_steady]

theorem raiseOne_steady (e : Nat) (src : Word) (code : Nat) (acc : Access) (classA injected : Bool) (s : State) :
    steady (raiseOne e src code acc classA injected s).1 = steady s := by
  unfold raiseOne
  split
  · rfl
  · dsimp only
    rw [steady_ite, countDrop, upFlt_steady, upFlt_steady, ite_self, steady_ite_s, react_steady, noteKey_steady,
      upFlt_steady, ite_self]

theorem raiseFull_steady (e : Nat) (src : Word) (code : Nat) (acc : Access) (classA injected : Bool) (s : State) :
    steady (raiseFull e src code acc classA injected s) = steady s := by
  unfold raiseFull raiseUnsent
  dsimp only
  rw [steady_ite, steady_each _ _ _ fun _ _ => raiseOne_steady .., raiseOne_steady, ite_self]

theorem raise_steady (e : Nat) (src : Word) (code : Nat) (s : State) : steady (raise e src code s) = steady s :=
  raiseFull_steady ..

theorem raiseLimited_steady (e cause unit : Nat) (src : Word) (code : Nat) (acc : Access) (s : State) :
    steady (raiseLimited e cause unit src code acc s) = steady s := by
  unfold raiseLimited
  rw [steady_ite, raiseFull_steady, openWindow, upFlt_steady, ite_self]

theorem raiseSeq_steady (i : SeqIdx) (cause elem : Nat) (s : State) : steady (raiseSeq i cause elem s) = steady s := by
  unfold raiseSeq
  rw [raiseLimited_steady, upSeqRail_steady]

theorem runningFault_steady (i : SeqIdx) (cause elem : Nat) (atLeast : Bool) (s : State) :
    steady (runningFault i cause elem atLeast s) = steady s := by
  unfold runningFault
  dsimp only
  split
  · rfl
  generalize hu : raiseSeq i cause elem s = u
  have hu : steady u = steady s := by rw [← hu, raiseSeq_steady]
  generalize (if (atLeast && decide (u.cfg.runrx i.val < 2)) = true then 2 else u.cfg.runrx i.val) = rx
  split
  · exact hu
  split
  · exact hu
  · rw [steady_ite, raiseSeq_steady, takeGroup_steady, takeRetry_steady, upSeqRail_steady, ite_self, hu]
  · rw [takeGroup_steady, hu]
  · rw [takeSysrst_steady, hu]

/-! ## The passage to the heel loop -/

theorem endAdmit_steady (r : Rail) (h : Phase) (code : Nat) (s : State) : steady (endAdmit r h code s) = steady s := by
  unfold endAdmit
  split
  · split
    · rw [complete_steady, upPwmRail_steady]
    · rfl
  · rfl

theorem stopPitching_steady (code : Nat) (r : Rail) (s : State) : steady (stopPitching code r s) = steady s := by
  unfold stopPitching floorCheck
  split
  · rfl
  · dsimp only
    rw [steady_ite, runningFault_steady, raise_steady, ite_self, endAdmit_steady, upPwmRail_steady]
    split
    · rw [setWeight, upPhase_steady, steady_ite, saveHealth_steady, upPhase_steady, ite_self]
    · rw [steady_ite, saveHealth_steady, upPhase_steady, ite_self]

theorem holdSetpoint_steady (r : Rail) (s : State) : steady (holdSetpoint r s) = steady s := by
  unfold holdSetpoint
  dsimp only
  rw [alertPorts_steady, steady_ite, upPrnRail_steady, ite_self]

theorem heelFire_steady (r : Rail) (s : State) : steady (heelFire r s) = steady s := by
  unfold heelFire
  split
  · rfl
  · split <;> rfl

theorem heelPhases_steady (r : Rail) (s : State) : steady (heelPhases r s) = steady s :=
  steady_each _ _ _ fun _ _ => rfl

theorem heelEntry_steady (r : Rail) (cause : Nat) (s : State) : steady (heelEntry r cause s) = steady s := by
  unfold heelEntry clearForecasts
  simp only [raise_steady, heelFire_steady, refreshPhases_steady, refreshCodes_steady, holdSetpoint_steady,
    heelPhases_steady, upPwmRail_steady, stopPitching_steady, upFb_steady, upEngRail_steady]

theorem heelAgain_steady (r : Rail) (cause : Nat) (s : State) : steady (heelAgain r cause s) = steady s := by
  unfold heelAgain
  simp only [raise_steady, upFb_steady, upEngRail_steady, steady_ite, holdSetpoint_steady, ite_self]

theorem feedbackNone_steady {event : State → State} (h : ∀ s, steady (event s) = steady s) (r : Rail) (s : State) :
    steady (feedbackNone r event s) = steady s := by
  unfold feedbackNone clearForecasts
  simp only [settle_steady, runningFault_steady, refreshPhases_steady, refreshCodes_steady, h, driveHeld_steady,
    stopPitching_steady, upEngRail_steady, freeAdjudication_steady, upFb_steady]

/-- The passage of a rail to its heel loop leaves the lane pairs as they are. -/
theorem passToHeel_steady (r : Rail) (cause : Nat) (s : State) : steady (passToHeel r cause s) = steady s := by
  unfold passToHeel
  simp only [steady_ite, ite_self, heelAgain_steady, heelEntry_steady, upFb_steady,
    feedbackNone_steady (event := raise _ _ _) fun u => raise_steady ..]

end Sys2Proof.Machine
end

section
/-!
Clocks, monitors and the test access port (O53), last part.
-/

namespace Sys2Proof.Machine

/-! ## The reference and the PLL (R27 to R30, R216) -/

theorem raiseClock_raised (blk : Nat) (s : State) : Raised 0x7C s (raiseClock blk s) := raise_raised _ _ _ _ (by decide)

section Clock
variable {s : State}

theorem clock_off (hf : domOn s pdFab = false) :
    exec .xrefLoss s = .next s ∧ exec .pllHoldExpiry s = .next s ∧ exec .xrefReturn s = .next s ∧
      exec .pllLockLoss s = .next s ∧ exec .pllRelock s = .next s := by
  have hpre (b : Bool) : (!domOn s pdFab || b) = true := by rw [hf]; rfl
  exact ⟨congrArg _ (if_pos (hpre _)), congrArg _ (if_pos (hpre _)), congrArg _ (if_pos (hpre _)),
    congrArg _ (if_pos (hpre _)), congrArg _ (if_neg (by rw [hf]; decide))⟩

theorem xrefLoss_on (hf : domOn s pdFab = true) (hx : s.clk.xrefOk = true) : exec .xrefLoss s = .next { s with
    clk := { s.clk with
      xrefOk := false, lossc := s.clk.lossc + 1, refsel := if s.clk.refsel = 0 then 1 else s.clk.refsel } } :=
  congrArg _ (if_neg (by rw [hf, hx]; decide))

theorem pllHoldExpiry_holding (hf : domOn s pdFab = true) (hr : s.clk.refsel = 1) :
    exec .pllHoldExpiry s = .next (raiseClock 1 { s with clk := { s.clk with refsel := 2 } }) :=
  congrArg _ (if_neg (by rw [hf, hr]; decide))

theorem pllHoldExpiry_other (hr : s.clk.refsel ≠ 1) : exec .pllHoldExpiry s = .next s :=
  congrArg _ (if_pos ((Bool.or_eq_true ..).mpr (.inr (decide_eq_true hr))))

theorem xrefReturn_away (hf : domOn s pdFab = true) (hr : s.clk.refsel ≠ 0) :
    exec .xrefReturn s = .next (raiseClock 1 { s with clk := { s.clk with refsel := 0, xrefOk := true } }) :=
  congrArg _ (if_neg (by simpa [hf] using hr))

theorem xrefReturn_there (hr : s.clk.refsel = 0) : exec .xrefReturn s = .next s := congrArg _ (if_pos (by simp [hr]))

theorem pllLockLoss_locked (hf : domOn s pdFab = true) (hl : s.clk.lock = true) :
    exec .pllLockLoss s = .next (State.each (fins 8) (fun r => passToHeel r 4)
      (raiseClock 0 { s with clk := { s.clk with lock := false } })) := by
  show Host.Outcome.next _ = _
  rw [if_neg (by rw [hf, hl]; decide)]
  rfl

theorem pllLockLoss_unlocked (hl : s.clk.lock = false) : exec .pllLockLoss s = .next s :=
  congrArg _ (if_pos (by simp [hl]))

theorem pllRelock_on (hf : domOn s pdFab = true) :
    exec .pllRelock s = .next { s with clk := { s.clk with lock := true } } := congrArg _ (if_pos hf)

end Clock

/-! ## The test access port (R507, R508) -/

section Tap
variable {s : State}

theorem tapInstruction_eq (tmode : Bool) (code : BitVec 5) :
    tapInstruction tmode code = if code = 1 ∨ code = 2 then code
      else if (code = 0 ∨ code = 4 ∨ code = 5) ∧ tmode = true then code else 31 := by
  revert code
  cases tmode <;> decide

theorem tap_instruction (code : BitVec 5) :
    exec (.testAccessPortInstruction (.instruction code)) s = .next { s with
      tap := { s.tap with ir := tapInstruction s.pwr.tmode code }
      out := if tapInstruction s.pwr.tmode code = 1 then .tapData idcode :: s.out else s.out } := by
  show Host.Outcome.next (if tapInstruction s.pwr.tmode code = 1 then _ else _) = _
  split <;> rfl

theorem scan_cells (levels shifted : BitVec 90) (h : s.tap.ir = 2 ∨ s.tap.ir = 0) :
    exec (.testAccessPortInstruction (.scan levels shifted)) s = .next { s with
      tap := { s.tap with cells := shifted }, out := .tapScan levels :: s.out } :=
  congrArg _ (if_pos h)

theorem scan_idcode (levels shifted : BitVec 90) (h : s.tap.ir = 1) :
    exec (.testAccessPortInstruction (.scan levels shifted)) s = .next { s with out := .tapData idcode :: s.out } :=
  congrArg _ ((if_neg (by rw [h]; decide)).trans (if_pos h))

theorem scan_bypass (levels shifted : BitVec 90) (h0 : s.tap.ir ≠ 0) (h1 : s.tap.ir ≠ 1) (h2 : s.tap.ir ≠ 2) :
    exec (.testAccessPortInstruction (.scan levels shifted)) s = .next s :=
  congrArg _ ((if_neg (not_or.mpr ⟨h2, h0⟩)).trans (if_neg h1))

end Tap

/-! ## The supply and thermal monitors (R496, R224) -/

section Monitor
variable {s : State}

theorem supTherm_off (hf : domOn s pdFab = false) (cause : Fin 8) (dom : Fin 14) :
    exec (.supTherm cause dom) s = .next s := congrArg _ (if_pos (by rw [hf]; decide))

theorem supTherm_window (hf : domOn s pdFab = true) {cause : Fin 8} (hc : cause.val = 0 ∨ cause.val = 5)
    (dom : Fin 14) :
    exec (.supTherm cause dom) s = .next s :=
  congrArg _ ((if_neg (by rw [hf]; decide)).trans (if_pos (by omega)))

theorem supTherm_raises (hf : domOn s pdFab = true) {cause : Fin 8} (h7 : cause.val < 7) (h0 : cause.val ≠ 0)
    (h5 : cause.val ≠ 5) (dom : Fin 14) : exec (.supTherm cause dom) s = .next (raiseMonitor (cause.val + 1) s) :=
  congrArg _ ((if_neg (by rw [hf]; decide)).trans ((if_neg (by omega)).trans (if_pos (by omega))))

theorem supTherm_gone (hf : domOn s pdFab = true) {cause : Fin 8} (h7 : cause.val = 7) {dom : Fin 14}
    (hd : domOn s dom.val = false) : exec (.supTherm cause dom) s = .next s :=
  congrArg _ ((if_neg (by rw [hf]; decide)).trans ((if_neg (by omega)).trans ((if_neg (by omega)).trans
    (if_pos (by rw [hd]; decide)))))

/-- The event of a domain's loss of its supply. -/
def supplyEvent (d : Nat) (s : State) : State := raiseLimited 0x7D 8 d (srcId 0x1 0x4 d 0 8) 0 noAccess s

theorem supTherm_loses (hf : domOn s pdFab = true) {cause : Fin 8} (h7 : cause.val = 7) {dom : Fin 14}
    (hd : domOn s dom.val = true) :
    exec (.supTherm cause dom) s = .next (loseSupply dom.val (supplyEvent dom.val s)) :=
  congrArg _ ((if_neg (by rw [hf]; decide)).trans ((if_neg (by omega)).trans ((if_neg (by omega)).trans
    (if_neg (by rw [hd]; decide)))))

theorem supplyEvent_raised (d : Nat) (s : State) : RaisedOnce 0x7D 8 d s (supplyEvent d s) :=
  raiseLimited_raised _ _ _ _ _ _ _ (by decide)

/-- A domain marked as without its supply. -/
def marked (d : Nat) (s : State) : State := { s with pwr := { s.pwr with lost := putBit s.pwr.lost d true } }

theorem loseSupply_ao (s : State) : loseSupply 0 s = { marked 0 s with
    cmp := { s.cmp with aoLow := Cmp.reset.aoLow, aoHigh := Cmp.reset.aoHigh, aoCfg := Cmp.reset.aoCfg }
    flt := { s.flt with classA := false, rstc := 0 }
    tmr := { s.tmr with mirror := none, gap := 0 }
    pwr := { (marked 0 s).pwr with wake := 0, alarm := 0, wakeDue := false } } := rfl

theorem loseSupply_hif (s : State) : loseSupply 1 s = { marked 1 s with hif := Hif.reset } := rfl

theorem loseDomain_fab (s : State) : loseDomain 2 s = s := rfl

theorem loseSupply_fab (s : State) : loseSupply 2 s = marked 2 (loseFab s) := by
  unfold loseSupply
  simp only [pdEngA, pdEngB, pdFab, pdAdc0, pdAdc1, pdHif, pdPwm, pdCmp, pdSeq, pdNvm, Nat.reduceEqDiff,
    OfNat.ofNat_ne_zero, if_false, if_true, loseDomain_fab]
  rfl

theorem loseSupply_engA (s : State) :
    loseSupply 3 s = dropCheckpoints (losePairs [0, 1] (marked 3 (noCheckpoints (stopPairs [0, 1] s)))) := rfl

theorem loseSupply_engB (s : State) : loseSupply 4 s = losePairs [2, 3] (marked 4 (stopPairs [2, 3] s)) := rfl

theorem loseSupply_pwm (s : State) : loseSupply 5 s = losePwm (marked 5 s) := rfl

theorem loseSupply_adc0 (s : State) : loseSupply 6 s = loseFrontEnds (stopSlices 6 (marked 6 s)) := rfl

theorem loseSupply_adc1 (s : State) : loseSupply 7 s = losePlanner (stopSlices 7 (marked 7 s)) := rfl

theorem loseSupply_cmp (s : State) : loseSupply 8 s = loseCmp (marked 8 s) := rfl

theorem loseSupply_nvm (s : State) : loseSupply 9 s = loseNvm (marked 9 s) := rfl

theorem loseSupply_host {d : Nat} (h : d = 10 ∨ d = 11 ∨ d = 12) (s : State) :
    loseSupply d s = loseDomain d (marked d s) := by
  obtain rfl | rfl | rfl := h <;> rfl

theorem loseSupply_seq (s : State) : loseSupply 13 s = loseSeq (marked 13 s) := rfl

end Monitor

/-! ## What each supply takes with it (R31, R33, R224) -/

theorem marked_lost {d : Nat} (hd : d < 14) (s : State) : hasBit (marked d s).pwr.lost d = true :=
  hasBit_putBit_same _ true hd

theorem lost_of_steady {s t : State} (h : steady t = steady s) : t.pwr.lost = s.pwr.lost := by
  simp only [steady, Prod.mk.injEq] at h
  exact h.2.2.2.2

theorem pairs_of_steady {s t : State} (h : steady t = steady s) : t.eng.pairs = s.eng.pairs := congrArg Prod.fst h

section Supply
variable (s : State)

/-- PD_FAB (R216, R481). -/
theorem loseSupply_fab_clause :
    hasBit (loseSupply 2 s).pwr.lost 2 = true ∧ (loseSupply 2 s).fab = Fab.reset ∧
    (loseSupply 2 s).tmr = { Tmr.reset with mirror := s.tmr.mirror, gap := s.tmr.gap } ∧
    (loseSupply 2 s).clk = { s.clk with refsel := 0, lock := false, xrefOk := false, lossc := 0 } ∧
    (loseSupply 2 s).regs = { Regs.reset with live := s.regs.live, acc := s.regs.live } := by
  have hq : timing (State.each (fins 8) (fun r => passToHeel r 4) s) = timing s :=
    timing_of_quiet (quiet_each _ _ _ fun r u => passToHeel_quiet r 4 u)
  simp only [timing, Prod.mk.injEq] at hq
  obtain ⟨hregs, hclk, htmr⟩ := hq
  rw [loseSupply_fab]
  refine ⟨marked_lost (by decide) _, rfl, ?_, ?_, ?_⟩
  · rw [← htmr]
    rfl
  · rw [← hclk]
    rfl
  · rw [← hregs]
    rfl

theorem stopPairs_steady (ps : List PairNo) : steady (stopPairs ps s) = steady s :=
  steady_each _ _ _ fun p u => by
    dsimp only
    rw [steady_each _ _ _ fun r v => passToHeel_steady r 5 v, steady_ite, raise_steady, ite_self]

theorem noCheckpoints_steady : steady (noCheckpoints s) = steady s := steady_each _ _ _ fun _ _ => raise_steady ..

theorem losePairs_pwr (ps : List PairNo) : (losePairs ps s).pwr = s.pwr := by
  rw [losePairs_eq]
  generalize domOn s pdEngA = mirror
  unfold State.each
  induction ps generalizing s with
  | nil => rfl
  | cons p ps ih => exact ih (losePair mirror p s)

/-- PD_ENGA (R31, R125). -/
theorem loseSupply_engA_clause :
    hasBit (loseSupply 3 s).pwr.lost 3 = true ∧
    (∀ p : PairNo, p.val < 2 → (loseSupply 3 s).eng.pairs[p] = { Pair.reset with failed := s.eng.pairs[p].failed }) ∧
    ∀ r : Rail, (loseSupply 3 s).eng.rails[r].ckA = none ∧ (loseSupply 3 s).eng.rails[r].ckB = none := by
  have hpairs : (marked 3 (noCheckpoints (stopPairs [0, 1] s))).eng.pairs = s.eng.pairs :=
    (pairs_of_steady (noCheckpoints_steady _)).trans (pairs_of_steady (stopPairs_steady s _))
  rw [loseSupply_engA]
  refine ⟨?_, fun p hp => ?_, fun r => ?_⟩
  · show hasBit (losePairs _ _).pwr.lost 3 = true
    rw [losePairs_pwr]
    exact marked_lost (by decide) _
  · have hin : p ∈ ([0, 1] : List PairNo) := by
      revert p
      decide
    show (losePairs _ _).eng.pairs[p] = _
    rw [losePairs_pairs, if_pos hin, hpairs]
  · unfold dropCheckpoints
    simp

/-- PD_ENGB. -/
theorem loseSupply_engB_clause :
    hasBit (loseSupply 4 s).pwr.lost 4 = true ∧
    ∀ p : PairNo, 2 ≤ p.val → (loseSupply 4 s).eng.pairs[p] = { Pair.reset with failed := s.eng.pairs[p].failed } := by
  have hpairs : (marked 4 (stopPairs [2, 3] s)).eng.pairs = s.eng.pairs :=
    (pairs_of_steady (stopPairs_steady s [2, 3]) : (stopPairs [2, 3] s).eng.pairs = _)
  rw [loseSupply_engB]
  refine ⟨?_, fun p hp => ?_⟩
  · rw [losePairs_pwr]
    exact marked_lost (by decide) _
  · have hin : p ∈ ([2, 3] : List PairNo) := by
      revert p
      decide
    rw [losePairs_pairs, if_pos hin, hpairs]

theorem complete_frame (q : Ring) (code result : Nat) :
    complete q code result s = { s with hif := (complete q code result s).hif } := by
  unfold complete completeData
  split <;> rfl

theorem each_hif {α : Type} {f : α → State → State} (hf : ∀ x u, ∃ h, f x u = { u with hif := h }) (xs : List α) :
    ∃ h, State.each xs f s = { s with hif := h } := by
  unfold State.each
  induction xs generalizing s with
  | nil => exact ⟨s.hif, rfl⟩
  | cons x xs ih =>
    obtain ⟨h, hx⟩ := hf x s
    rw [List.foldl_cons, hx]
    exact ih _

/-- The descriptors that end take nothing but their places in the host interface. -/
theorem flushAt_frame (p : Nat → Bool) : ∃ h, flushAt p s = { s with hif := h } :=
  each_hif s (fun q u => by
    split
    · split
      · exact ⟨_, complete_frame ..⟩
      · exact ⟨u.hif, rfl⟩
    · exact ⟨u.hif, rfl⟩) _

theorem each_upFb (rs : List Rail) (f : Rail → FbRail → FbRail) :
    State.each rs (fun r => State.upFb r (f r)) s = { s with fb := modEach rs f s.fb } := by
  unfold State.each
  induction rs generalizing s with
  | nil => rfl
  | cons r rs ih => exact ih (s.upFb r (f r))

/-- What stays of a rail's feedback state without PD_PWM (R33, R207). -/
def FbRail.unpowered (f : FbRail) : FbRail :=
  { FbRail.reset with
    adj := f.adj, adjAt := f.adjAt, remote := f.remote, local_ := f.local_, lfsr := f.lfsr, d := f.d, heads := f.heads
    recent := f.recent, disagree := f.disagree, stale := f.stale, freshRun := f.freshRun, ovp := f.ovp
    testAt := f.testAt }

theorem losePwm_eq : ∃ h, losePwm s = { s with
    hif := h, fb := modEach (fins 8) (fun _ => FbRail.unpowered) s.fb, pwm := Pwm.reset } := by
  obtain ⟨h, hh⟩ := flushAt_frame s (· = 0x5)
  refine ⟨h, ?_⟩
  unfold losePwm
  rw [hh]
  exact congrArg (fun u : State => u.upPwm fun _ => Pwm.reset)
    (each_upFb { s with hif := h } (fins 8) fun _ => FbRail.unpowered)

/-- PD_PWM (R33, R136, R207). -/
theorem loseSupply_pwm_clause :
    hasBit (loseSupply 5 s).pwr.lost 5 = true ∧ (loseSupply 5 s).pwm = Pwm.reset ∧ (loseSupply 5 s).regs = s.regs ∧
    ∀ r : Rail, (loseSupply 5 s).fb[r] = s.fb[r].unpowered := by
  obtain ⟨h, hh⟩ := losePwm_eq (marked 5 s)
  rw [loseSupply_pwm, hh]
  exact ⟨marked_lost (by decide) s, rfl, rfl, fun r =>
    (modEach_get (nodup_fins 8) (fun _ => FbRail.unpowered) s.fb r).trans (if_pos (mem_fins r))⟩

/-- PD_CMP (R33). -/
theorem loseSupply_cmp_clause :
    hasBit (loseSupply 8 s).pwr.lost 8 = true ∧
    (loseSupply 8 s).cmp = { Cmp.reset with aoLow := s.cmp.aoLow, aoHigh := s.cmp.aoHigh, aoCfg := s.cmp.aoCfg } := by
  obtain ⟨h, hh⟩ := flushAt_frame (marked 8 s) (· = 0x6)
  rw [loseSupply_cmp, loseCmp, hh]
  dsimp only
  rw [each_upFb]
  exact ⟨marked_lost (by decide) s, rfl⟩

/-- PD_SEQ (R33, R251). -/
theorem loseSupply_seq_clause :
    hasBit (loseSupply 13 s).pwr.lost 13 = true ∧ (loseSupply 13 s).seq = { Seq.reset with en := s.seq.en } := by
  obtain ⟨h, hh⟩ := flushAt_frame (marked 13 s) (· = 0x7)
  rw [loseSupply_seq, loseSeq, hh]
  exact ⟨marked_lost (by decide) s, rfl⟩

theorem killCommit_steady (code : Nat) (q : NvReq) : steady (killCommit code q s) = steady s := by
  unfold killCommit
  split
  · split
    · unfold calRefused endCal
      split
      · split
        · rw [complete_steady]
          rfl
        · rfl
      · rfl
    · rfl
  · split
    · exact raiseLimited_steady ..
    · rfl
  · rfl

theorem killCommits_steady (code : Nat) : steady (killCommits code s) = steady s :=
  (steady_each _ _ _ fun q u => killCommit_steady u code q).trans rfl

/-- PD_NVM (R33). -/
theorem loseSupply_nvm_clause :
    hasBit (loseSupply 9 s).pwr.lost 9 = true ∧
    (loseSupply 9 s).nvm = { Nvm.reset with mem := s.nvm.mem, dead := s.nvm.dead, refuse := s.nvm.refuse } := by
  obtain ⟨h, hh⟩ := flushAt_frame (marked 9 s) (· = 0xA)
  have hk : steady (killCommits codeFlushed (flushAt (· = 0xA) (marked 9 s))) = steady (marked 9 s) := by
    rw [killCommits_steady, hh]
    rfl
  rw [loseSupply_nvm, loseNvm]
  simp only [steady, Prod.mk.injEq] at hk
  obtain ⟨-, hmem, hdead, hrefuse, hlost⟩ := hk
  have hbit := marked_lost (d := 9) (by decide) s
  rw [← hlost] at hbit
  generalize killCommits codeFlushed (flushAt (· = 0xA) (marked 9 s)) = k at hmem hdead hrefuse hbit ⊢
  refine ⟨hbit, ?_⟩
  show ({ Nvm.reset with mem := k.nvm.mem, dead := k.nvm.dead, refuse := k.nvm.refuse } : Nvm) = _
  rw [hmem, hdead, hrefuse]
  rfl

/-! ### Slices -/

theorem pushMarkers_steady (ms : List Marker) : steady (pushMarkers ms s) = steady s := rfl

theorem claim_steady (p : Pos) : steady (claim p s) = steady s := by
  unfold claim
  split <;> rfl

theorem replaceSlice_steady (n : SliceNo) : steady (replaceSlice n s) = steady s := by
  unfold replaceSlice
  split
  · rfl
  · split
    · exact claim_steady ..
    · split <;> rfl

theorem endSliceAdmit_steady (code : Nat) : steady (endSliceAdmit code s) = steady s := by
  unfold endSliceAdmit
  split
  · exact (complete_steady ..).trans rfl
  · rfl

theorem sliceFails_steady (n : SliceNo) : steady (sliceFails n s) = steady s := by
  have hraise : steady (staleUnbuilt (fun sl _ => sl == n) (raise 0x50 (sliceSrc n) 0
      (s.upSlice n fun a => { a with state := .failed, mon := 0, good := 0 }))) = steady s :=
    (raise_steady ..).trans rfl
  unfold sliceFails
  dsimp only
  split
  · exact (replaceSlice_steady ..).trans hraise
  · exact hraise
  · exact (endSliceAdmit_steady ..).trans hraise
  · exact hraise
  · exact hraise

theorem each_upSlice (ns : List SliceNo) (f : SliceNo → Slice → Slice) :
    State.each ns (fun n => State.upSlice n (f n)) s = s.upAdc fun a => { a with slices := modEach ns f a.slices } := by
  unfold State.each
  induction ns generalizing s with
  | nil => rfl
  | cons n ns ih => exact ih (s.upSlice n (f n))

theorem mem_slicesOf {d : Nat} {n : SliceNo} (h : sliceDom n = d) : n ∈ slicesOf s d := by
  unfold slicesOf
  dsimp only
  rw [List.mem_append, or_iff_not_imp_left]
  intro hn
  rw [List.mem_filter, mem_filter_fins]
  refine ⟨decide_eq_true h, ?_⟩
  rw [Bool.not_eq_true', ← Bool.not_eq_true, List.contains_iff_mem]
  exact hn

/-- The slices of a lost domain are off, and the domain stays marked. -/
theorem stopSlices_off (d : Nat) :
    (stopSlices d s).pwr.lost = s.pwr.lost ∧
    ∀ n : SliceNo, sliceDom n = d → (stopSlices d s).adc.slices[n].state = .off := by
  unfold stopSlices
  dsimp only
  rw [each_upSlice]
  generalize hu : State.each _ sliceFails s = u
  refine ⟨?_, fun n hn => ?_⟩
  · rw [← hu]
    exact lost_of_steady (steady_each _ _ _ fun n v => sliceFails_steady v n)
  · show (modEach (slicesOf s d) _ u.adc.slices)[n].state = _
    rw [modEach_get_idem _ (fun _ (a : Slice) => { a with state := .off }) fun _ _ => rfl, if_pos (mem_slicesOf s hn)]

theorem sliceDom_eq (n : SliceNo) : sliceDom n = if n.val < 9 then 6 else 7 := rfl

/-- PD_ADC0 and PD_ADC1 (R31, R224). -/
theorem loseSupply_adc_clause {d : Nat} (hd : d = 6 ∨ d = 7) :
    hasBit (loseSupply d s).pwr.lost d = true ∧
    ∀ n : SliceNo, (if n.val < 9 then 6 else 7) = d → (loseSupply d s).adc.slices[n].state = .off := by
  obtain ⟨hlost, hoff⟩ := stopSlices_off (marked d s) d
  have hbit : hasBit (stopSlices d (marked d s)).pwr.lost d = true := by
    rw [hlost]
    exact marked_lost (by omega) s
  obtain rfl | rfl := hd
  · exact ⟨hbit, hoff⟩
  · obtain ⟨h, hh⟩ := flushAt_frame (staleUnbuilt (fun _ _ => true) (stopSlices 7 (marked 7 s))) (· = 0x3)
    rw [loseSupply_adc1, losePlanner, hh]
    exact ⟨hbit, hoff⟩

end Supply

/-! ## The settlement -/

/-- Settles O53: each clock command and monitor by its cases, and a lost supply by the domain it belongs to. -/
theorem clocksMonitorsTap : Obligations.ClocksMonitorsTap := by
  unfold Obligations.ClocksMonitorsTap
  refine ⟨fun s => ⟨clock_off, fun hf => ⟨xrefLoss_on hf, fun hr => ⟨_, pllHoldExpiry_holding hf hr, raiseClock_raised ..⟩,
    pllHoldExpiry_other, fun hr => ⟨_, xrefReturn_away hf hr, raiseClock_raised ..⟩, xrefReturn_there,
    fun hl => ⟨_, raiseClock_raised .., pllLockLoss_locked hf hl⟩, pllLockLoss_unlocked, pllRelock_on hf⟩⟩,
    fun s => ⟨fun cause dom hf => supTherm_off hf cause dom, fun cause dom hf => ⟨fun hc => supTherm_window hf hc dom,
      fun h7 h0 h5 => ⟨_, supTherm_raises hf h7 h0 h5 dom, ?_⟩, fun h7 hd => supTherm_gone hf h7 hd, fun h7 hd => ?_⟩,
      fun code => ?_, rfl, fun levels shifted => ⟨scan_cells levels shifted, scan_idcode levels shifted,
        scan_bypass levels shifted⟩⟩⟩
  · exact raiseLimited_raised _ _ _ _ _ _ _ (by decide)
  · refine ⟨supplyEvent dom.val s, _, supTherm_loses hf h7 hd, supplyEvent_raised .., ?_⟩
    generalize supplyEvent dom.val s = u
    generalize dom.val = d
    refine ⟨?_, ?_, ?_, ?_, ?_, ?_, ?_, ?_, ?_, fun h => loseSupply_host h u, ?_⟩
    · rintro rfl
      exact loseSupply_ao u
    · rintro rfl
      exact loseSupply_hif u
    · rintro rfl
      exact loseSupply_fab_clause u
    · rintro rfl
      exact loseSupply_engA_clause u
    · rintro rfl
      exact loseSupply_engB_clause u
    · rintro rfl
      exact loseSupply_pwm_clause u
    · exact loseSupply_adc_clause u
    · rintro rfl
      exact loseSupply_cmp_clause u
    · rintro rfl
      exact loseSupply_nvm_clause u
    · rintro rfl
      exact loseSupply_seq_clause u
  · intro ir
    have hir : tapInstruction s.pwr.tmode code = ir := tapInstruction_eq ..
    rw [tap_instruction, hir]

end Sys2Proof.Machine
end

section
/-!
Markers (O52), first part: the stream, and the descriptor behind a packet that comes twice.
-/

namespace Sys2Proof.Machine

/-! ## Packets at a place -/

section Exec
variable {s : State} {place : MarkerAt} {unit : Fin 16} {w : Word}

theorem exec_marker_off (hf : domOn s pdFab = false) (hdr : Option Word) :
    exec (.marker place ⟨unit, hdr⟩) s = .next s := congrArg _ (if_pos (by rw [hf]; rfl))

theorem exec_marker_none (hf : domOn s pdFab = true) (hn : nextMarker s place = none) :
    exec (.marker place ⟨unit, none⟩) s = .next s := by
  show Host.Outcome.next _ = _
  rw [if_neg (by rw [hf]; decide)]
  dsimp only
  rw [hn]

theorem exec_marker_strays {m : Marker} (hf : domOn s pdFab = true) (hn : nextMarker s place = some m) :
    exec (.marker place ⟨unit, none⟩) s = .next (straysFrom place m s) := by
  show Host.Outcome.next _ = _
  rw [if_neg (by rw [hf]; decide)]
  dsimp only
  rw [hn]

theorem exec_marker_packet (hf : domOn s pdFab = true) (hk : hdrKind w = 1) :
    exec (.marker place ⟨unit, some w⟩) s = .next (hearMarker place unit w s) := by
  show Host.Outcome.next _ = _
  rw [if_neg (by rw [hf]; decide)]
  exact congrArg _ (if_pos hk)

theorem exec_marker_other (hf : domOn s pdFab = true) (hk : hdrKind w ≠ 1) :
    exec (.marker place ⟨unit, some w⟩) s = .next (hearOther place unit w s) := by
  show Host.Outcome.next _ = _
  rw [if_neg (by rw [hf]; decide)]
  exact congrArg _ (if_neg hk)

/-- The rail that an event of a place names. -/
def eventRail (s : State) (place : MarkerAt) : Rail := ((nextMarker s place).map markerRail).getD (placeRail place)

theorem hearMarker_without (hn : nextMarker s place = none)
    (hh : (hear place 1 anyLen w s).2 = .inOrder ∨ ∃ k, (hear place 1 anyLen w s).2 = .missing k) :
    hearMarker place unit w s = s := by
  unfold hearMarker
  dsimp only
  obtain hh | ⟨k, hh⟩ := hh
  · rw [hh, hn]
  · rw [hh, hn]

theorem hearMarker_refused (hh : (hear place 1 anyLen w s).2 = .refused) :
    hearMarker place unit w s = raiseFabric place (eventRail s place) unit (hear place 1 anyLen w s).1 := by
  unfold hearMarker
  dsimp only
  rw [hh, eventRail]

theorem hearMarker_repeated (hh : (hear place 1 anyLen w s).2 = .repeated) :
    hearMarker place unit w s =
      flushHeard place w (raiseFabric place (eventRail s place) unit (hear place 1 anyLen w s).1) := by
  unfold hearMarker
  dsimp only
  rw [hh, eventRail]

theorem hearMarker_inOrder {m : Marker} (hn : nextMarker s place = some m)
    (hh : (hear place 1 anyLen w s).2 = .inOrder) :
    hearMarker place unit w s = takeMarker place w m (hear place 1 anyLen w s).1 := by
  unfold hearMarker
  dsimp only
  rw [hh, hn]

/-! ### Packets of other kinds (R15; log 46) -/

/-- The kinds of packet that a block takes besides MARKER. -/
def blockKind (k : Nat) : Prop := k = 2 ∨ k = 3 ∨ k = 4 ∨ k = 6 ∨ k = 7

theorem hearOther_inOrder (hk : blockKind (hdrKind w)) (hh : (hear place (hdrKind w) anyLen w s).2 = .inOrder) :
    hearOther place unit w s = (hear place (hdrKind w) anyLen w s).1 := by
  unfold blockKind at hk
  unfold hearOther
  dsimp only
  rw [if_pos hk, hh]

theorem hear_refused_same {kind : Nat} (hh : (hear place kind anyLen w s).2 = .refused) :
    (hear place kind anyLen w s).1 = s := by
  obtain ⟨-, h⟩ | ⟨-, h | h | ⟨n, h⟩⟩ := hear_cases place kind anyLen w s
  · rw [h]
  all_goals
    rw [h] at hh
    cases hh

theorem hearOther_refused (hk : blockKind (hdrKind w)) (hh : (hear place (hdrKind w) anyLen w s).2 = .refused) :
    hearOther place unit w s = raiseFabric place (placeRail place) unit s := by
  unfold blockKind at hk
  unfold hearOther
  dsimp only
  rw [if_pos hk, hh, hear_refused_same hh]

/-- No packet has kind 16, so that none fits a block that takes none of its kind. -/
theorem hearOther_unknown (hk : ¬ blockKind (hdrKind w)) :
    hearOther place unit w s = raiseFabric place (placeRail place) unit s := by
  have hunfit : ¬ PacketFits 16 anyLen w := fun h => by
    have hlt : hdrKind w < 2 ^ 4 := bitsOf_lt ..
    rw [h.1] at hlt
    omega
  unfold blockKind at hk
  unfold hearOther
  dsimp only
  rw [if_neg hk, hear_unfit hunfit]

end Exec

/-! ## The event of a receiver (R323) -/

theorem raiseFabric_quiet (place : MarkerAt) (r : Rail) (unit : Fin 16) (s : State) :
    quiet (raiseFabric place r unit s) = quiet s := by
  unfold raiseFabric
  cases place <;> simp only [quiet_ite, ite_self, raise_quiet, raiseSeq_quiet, raiseLimited_quiet, countDrop_quiet]

theorem fab_of_quiet {s t : State} (h : quiet t = quiet s) : t.fab = s.fab := by
  obtain ⟨-, -, -, -, -, hfab, -⟩ := Quiet.of_quiet h
  exact hfab

theorem raiseFabric_fab (place : MarkerAt) (r : Rail) (unit : Fin 16) (s : State) :
    (raiseFabric place r unit s).fab = s.fab := fab_of_quiet (raiseFabric_quiet ..)

/-! ## The descriptor behind a packet (R16) -/

section DropWork
variable (q : Ring) (s : State)

/-- The zero calibration of a ring is given up. -/
def dropCal : State :=
  match s.adc.cal with
  | some k =>
    if k.ring = q then
      if k.full then dropTaken .cal (s.upAdc fun a => { a with cal := none })
      else dropNewest (.cal k.chan) (dropTaken .cal (s.upAdc fun a => { a with cal := none }))
    else s
  | none => s

/-- The path test of a ring is given up. -/
def dropPath : State :=
  match s.adc.ptest with
  | some p => if p.ring = q then endPath p s else s
  | none => s

/-- The array's queues without a ring. -/
def Adc.withoutRing (a : Adc) : Adc :=
  { a with
    admission := a.admission.filter (· != q)
    inj := { a.inj with rings := a.inj.rings.filter (· != q) } }

theorem dropArrayWork_eq : dropArrayWork q s = (dropPath q (dropCal q s)).upAdc (Adc.withoutRing q) := rfl

theorem dropCal_cal : ∀ k, (dropCal q s).adc.cal = some k → k.ring ≠ q := by
  unfold dropCal
  intro k hk
  split at hk
  next j hj =>
    split at hk
    · split at hk <;> cases hk
    · rw [hj] at hk
      cases hk
      assumption
  next hj =>
    rw [hj] at hk
    cases hk

theorem dropCal_frame : ∃ a l, dropCal q s = { s with adc := a, ldg := l } := by
  unfold dropCal
  split
  · split
    · split
      · exact ⟨_, s.ldg, rfl⟩
      · exact ⟨_, _, rfl⟩
    · exact ⟨s.adc, s.ldg, rfl⟩
  · exact ⟨s.adc, s.ldg, rfl⟩

theorem dropPath_frame : ∃ a c, dropPath q s = { s with adc := a, cmp := c } ∧ a.cal = s.adc.cal := by
  unfold dropPath
  split
  · split
    · exact ⟨_, _, rfl, rfl⟩
    · exact ⟨s.adc, s.cmp, rfl, rfl⟩
  · exact ⟨s.adc, s.cmp, rfl, rfl⟩

/-- What the array was doing for a ring lies in the array, the ledger and the comparators. -/
theorem dropArrayWork_frame : ∃ a l c, dropArrayWork q s = { s with adc := a, ldg := l, cmp := c } ∧
    ∀ k, a.cal = some k → k.ring ≠ q := by
  obtain ⟨a, l, hcal⟩ := dropCal_frame q s
  obtain ⟨b, c, hpath, hkeep⟩ := dropPath_frame q (dropCal q s)
  rw [dropArrayWork_eq, hpath]
  refine ⟨b.withoutRing q, l, c, ?_, fun k hk => dropCal_cal q s k (hkeep.symm.trans hk)⟩
  rw [hcal]
  rfl

/-- The rails whose pitching a ring has asked for. -/
def pitchesOf : List Rail := (fins 8).filter fun r => s.pwm.rails[r].admission.any (·.ring == q)

/-- The pitchings of a ring are given up. -/
def dropPitches : State := State.each (pitchesOf q s) (stopPitching codeFlushed) s

/-- A rail that no move of a ring is under way for. -/
def EngRail.withoutMove (e : EngRail) : EngRail := { e with assign := e.assign.filter (·.ring != some q) }

theorem dropWork_eq : dropWork q s =
    ((dropWaiting q (dropArrayWork q (dropPitches q s))).upEng fun e =>
      { e with rails := modEach (fins 8) (fun _ => EngRail.withoutMove q) e.rails }).upPwr fun p =>
        { p with sleep := p.sleep.filter (·.ring != q) } := by
  unfold dropWork
  rw [← each_upEngRail]
  rfl

theorem dropPitches_fab : (dropPitches q s).fab = s.fab :=
  fab_of_quiet (quiet_each _ _ _ fun r u => stopPitching_quiet codeFlushed r u)

theorem dropWork_fab : (dropWork q s).fab = s.fab := by
  obtain ⟨a, l, c, harr, -⟩ := dropArrayWork_frame q (dropPitches q s)
  rw [dropWork_eq, harr]
  exact dropPitches_fab q s

theorem dropPitches_none (h : ∀ r : Rail, s.pwm.rails[r].admission = none) : dropPitches q s = s := by
  have hnone : pitchesOf q s = [] := List.filter_eq_nil_iff.mpr fun r _ => by
    rw [h r]
    exact Bool.false_ne_true
  rw [dropPitches, hnone]
  rfl

theorem dropWork_hif (h : ∀ r : Rail, s.pwm.rails[r].admission = none) : (dropWork q s).hif = s.hif := by
  obtain ⟨a, l, c, harr, -⟩ := dropArrayWork_frame q s
  rw [dropWork_eq, dropPitches_none q s h, harr]
  rfl

/-- Nothing of a ring is left at the blocks. -/
theorem dropWork_done :
    (∀ k, (dropWork q s).adc.cal = some k → k.ring ≠ q) ∧ (∀ x ∈ (dropWork q s).nvm.queue, x.ring ≠ some q) ∧
    q ∉ (dropWork q s).pwr.startHeld ∧ (∀ j, (dropWork q s).pwr.sleep = some j → j.ring ≠ q) ∧
    (∀ (r : Rail) a, (dropWork q s).eng.rails[r].assign = some a → a.ring ≠ some q) ∧
    ∀ (p : Port), ∀ j ∈ (dropWork q s).tw.ports[p].jobs, j.ring ≠ q := by
  obtain ⟨a, l, c, harr, hcal⟩ := dropArrayWork_frame q (dropPitches q s)
  rw [dropWork_eq, harr]
  refine ⟨hcal, fun x hx => ?_, fun hq => ?_, fun j hj => ?_, fun r b hb => ?_, fun p j hj => ?_⟩
  · exact bne_iff_ne.mp (List.mem_filter.mp hx).2
  · have hq : q ∈ (dropPitches q s).pwr.startHeld.filter (· != q) := hq
    exact absurd rfl (bne_iff_ne.mp (Option.filter_eq_some_iff.mp hq).2)
  · exact bne_iff_ne.mp (Option.filter_eq_some_iff.mp hj).2
  · have hrail : (modEach (fins 8) (fun _ => EngRail.withoutMove q) (dropPitches q s).eng.rails)[r] =
        EngRail.withoutMove q (dropPitches q s).eng.rails[r] :=
      (modEach_get (nodup_fins 8) (fun _ => EngRail.withoutMove q) _ r).trans (if_pos (mem_fins r))
    have hb : (modEach (fins 8) (fun _ => EngRail.withoutMove q) (dropPitches q s).eng.rails)[r].assign = some b := hb
    rw [hrail] at hb
    exact bne_iff_ne.mp (Option.filter_eq_some_iff.mp hb).2
  · have hport : ((dropPitches q s).tw.ports.map (TwPort.dropJobs q))[p] =
        TwPort.dropJobs q (dropPitches q s).tw.ports[p] :=
      Vector.getElem_map ..
    have hj : j ∈ ((dropPitches q s).tw.ports.map (TwPort.dropJobs q))[p].jobs := hj
    rw [hport] at hj
    exact bne_iff_ne.mp (List.mem_filter.mp hj).2

end DropWork

/-! ### A packet that comes twice -/

section Twice
variable {s : State} {place : MarkerAt} {w : Word}

theorem flushHeard_unknown (h : ∀ e ∈ s.fab.heard, ¬ (e.at_ = place ∧ e.src = hdrSrc w ∧ e.seq = hdrSeq w)) :
    flushHeard place w s = s := by
  have hnone : (s.fab.heard.find? fun e => e.at_ == place && e.src == hdrSrc w && e.seq == hdrSeq w) = none :=
    List.find?_eq_none.mpr fun e he hm => h e he (by simpa [and_assoc] using hm)
  unfold flushHeard
  rw [hnone]

theorem flushHeard_known {e : HeardMarker} (hs : s.fab.heard = [e]) (hat : e.at_ = place) (hsrc : e.src = hdrSrc w)
    (hseq : e.seq = hdrSeq w) : flushHeard place w s = flushOrigin e.origin s := by
  have hsome : (s.fab.heard.find? fun e => e.at_ == place && e.src == hdrSrc w && e.seq == hdrSeq w) = some e := by
    rw [hs]
    exact List.find?_cons_of_pos (by simp [hat, hsrc, hseq])
  unfold flushHeard
  rw [hsome]

/-- The descriptor of a ring ends with 0x0108 and leaves nothing at the blocks. -/
theorem flushOrigin_desc {q : Ring} {e : HeardMarker} (hs : s.fab.heard = [e]) (ho : e.origin = .desc q) :
    ∃ v t, flushOrigin (.desc q) s = t ∧ t.fab.heard = [] ∧ t = { v with fab := t.fab } ∧
      v = complete q 0x0108 0 (dropWork q s) ∧
      (∀ k, v.adc.cal = some k → k.ring ≠ q) ∧ (∀ x ∈ v.nvm.queue, x.ring ≠ some q) ∧
      q ∉ v.pwr.startHeld ∧ (∀ j, v.pwr.sleep = some j → j.ring ≠ q) ∧
      (∀ (r : Rail) a, v.eng.rails[r].assign = some a → a.ring ≠ some q) ∧
      (∀ (p : Port), ∀ j ∈ v.tw.ports[p].jobs, j.ring ≠ q) ∧
      (s.hif.sq[q].exec ≠ none → (∀ r : Rail, s.pwm.rails[r].admission = none) →
        Ends q 0x0108 0 (dropWork q s) v) := by
  have hframe := complete_frame (dropWork q s) q 0x0108 0
  have hheard : (complete q 0x0108 0 (dropWork q s)).fab.heard = [e] := by
    rw [hframe]
    show (dropWork q s).fab.heard = [e]
    rw [dropWork_fab, hs]
  refine ⟨complete q 0x0108 0 (dropWork q s), _, rfl, ?_, rfl, rfl, ?_⟩
  · show (complete q 0x0108 0 (dropWork q s)).fab.heard.filter _ = []
    rw [hheard]
    exact List.filter_eq_nil_iff.mpr fun x hx => by simp [List.mem_singleton.mp hx, ho]
  · rw [hframe]
    obtain ⟨hcal, hnvm, hheld, hsleep, hassign, hjobs⟩ := dropWork_done q s
    refine ⟨hcal, hnvm, hheld, hsleep, hassign, hjobs, fun hex hadm => ?_⟩
    rw [← hframe]
    rw [← dropWork_hif q s hadm] at hex
    obtain ⟨x, hx⟩ := Option.ne_none_iff_exists'.mp hex
    exact complete_ends 0x0108 0 hx

end Twice

end Sys2Proof.Machine
end

section
/-!
Markers (O52), last part: the next marker of a place, its loss on the way and its application.
-/

namespace Sys2Proof.Machine

/-! ## The next marker (R22 to R26) -/

section Next
variable {s : State} {place : MarkerAt} {m : Marker}

theorem nextMarker_some (h : nextMarker s place = some m) :
    (∃ a c, s.fab.markers = a ++ m :: c ∧ ∀ e ∈ a, e.bstamp = none ∨ place ∉ e.targets) ∧ m.bstamp.isSome = true ∧
      place ∈ m.targets ∧ hasCome s place m = true := by
  obtain ⟨hfind, hcome⟩ := Option.filter_eq_some_iff.mp h
  obtain ⟨hm, a, c, hsplit, hbefore⟩ := List.find?_eq_some_iff_append.mp hfind
  obtain ⟨hstamp, htarget⟩ := (Bool.and_eq_true ..).mp hm
  refine ⟨⟨a, c, hsplit, fun e he => ?_⟩, hstamp, List.contains_iff_mem.mp htarget, hcome⟩
  have := hbefore e he
  simpa [Bool.and_eq_false_iff, or_iff_not_imp_left] using this

/-- What has to be so for a place to take a marker. -/
theorem hasCome_clauses (h : hasCome s place m = true) :
    ∃ b, m.bstamp = some b ∧ (place = .adc ∨ place = .engine → b ≤ s.clk.slot) ∧
      (place = .ldg → domOn s pdGau = true → b ≤ s.clk.slot) ∧
      ∀ r, place = .rail r → s.eng.pairs[markerPair s r m].recov = false ∧
        (s.eng.rails[r].mode = .digital ∨ s.eng.rails[r].mode = .track → b ≤ s.clk.slot ∧
          ∀ e ∈ s.eng.sched, reqRail s.cfg e.req = r → e.stamp < b → e.stamp + maxAge s.cfg < s.clk.slot) := by
  unfold hasCome at h
  split at h
  · cases h
  next b hb =>
    refine ⟨b, hb, ?_, ?_, ?_⟩
    · rintro (rfl | rfl)
      · exact of_decide_eq_true h
      · simp only [Bool.and_eq_true] at h
        exact of_decide_eq_true h.1.1
    · rintro rfl hg
      simp only [hg, Bool.not_true, Bool.false_or, Bool.and_eq_true] at h
      exact of_decide_eq_true h.1.2
    · rintro r rfl
      simp only [Bool.and_eq_true, Bool.not_eq_true'] at h
      obtain ⟨⟨hheld, -⟩, hrest⟩ := h
      refine ⟨hheld, fun hmode => ?_⟩
      have hc : consumes s r = true := by
        unfold consumes
        obtain hmode | hmode := hmode <;> rw [hmode] <;> rfl
      rw [hc, Bool.not_true, Bool.false_or, Bool.and_eq_true, Bool.and_eq_true, Bool.not_eq_true'] at hrest
      obtain ⟨⟨hslot, hold⟩, -⟩ := hrest
      refine ⟨of_decide_eq_true hslot, fun e he hr hlt => ?_⟩
      have := List.any_eq_false.mp hold e he
      simp only [hr, beq_self_eq_true, hlt, decide_true, Bool.true_and, decide_eq_true_eq] at this
      exact Nat.lt_of_not_le this

/-- The first member that is x is replaced where it stands. -/
theorem replaceFirst_split (x y : Marker) {a : List Marker} (c : List Marker) (h : x ∉ a) :
    replaceFirst x y (a ++ x :: c) = a ++ y :: c := by
  induction a with
  | nil => exact if_pos rfl
  | cons e a ih =>
    obtain ⟨he, ha⟩ := not_or.mp (mt List.mem_cons.mpr h)
    rw [List.cons_append, replaceFirst, if_neg (Ne.symm he), ih ha]
    rfl

/-- A marker that stands in the stream for a place, or has been missed by one. -/
def Marker.stands (m : Marker) : Bool := !(m.targets.isEmpty && m.lost.isEmpty)

theorem stands_of_target (h : place ∈ m.targets) : m.stands = true := by
  unfold Marker.stands
  cases hm : m.targets with
  | nil =>
    rw [hm] at h
    cases h
  | cons _ _ => rfl

theorem changeMarker_split {x y : Marker} {a c : List Marker} (hs : s.fab.markers = a ++ x :: c) (h : x ∉ a) :
    changeMarker x y s = { s with fab := { s.fab with markers := (a ++ y :: c).filter Marker.stands } } := by
  unfold changeMarker
  rw [State.upFab, hs, replaceFirst_split x y c h]
  rfl

/-- A marker that goes astray (R16, R24). -/
def strayed (place : MarkerAt) (m : Marker) : Marker :=
  { m with
    targets := m.targets.filter fun k => k != place &&
      !(k == .pwm && (place == .engine || (fins 8).any fun r => place == .rail r))
    lost := m.lost ++ [place] }

/-- The engine and its rails forward what the phase subsystem takes (R24). -/
def forwardsFrom (place : MarkerAt) : Bool := place == .engine || (fins 8).any fun r => place == .rail r

theorem straysFrom_forwards : straysFrom place m s = changeMarker m (
    if forwardsFrom place = true then ({ m.without place with lost := m.lost ++ [place] } : Marker).without .pwm
    else { m.without place with lost := m.lost ++ [place] }) s := by
  cases place with
  | rail r =>
    have hr : forwardsFrom (.rail r) = true := by
      revert r
      decide
    rw [hr]
    rfl
  | _ => rfl

theorem strayed_eq : strayed place m =
    if forwardsFrom place = true then ({ m.without place with lost := m.lost ++ [place] } : Marker).without .pwm
    else { m.without place with lost := m.lost ++ [place] } := by
  unfold strayed Marker.without
  rw [← forwardsFrom]
  cases forwardsFrom place
  · simp
  · simp [List.filter_filter, Bool.and_comm, bne]

theorem straysFrom_eq {a c : List Marker} (hs : s.fab.markers = a ++ m :: c) (h : m ∉ a) :
    straysFrom place m s =
      { s with fab := { s.fab with markers := (a ++ strayed place m :: c).filter Marker.stands } } := by
  rw [straysFrom_forwards, ← strayed_eq, changeMarker_split hs h]

end Next

/-! ## A marker that arrives in order -/

/-- The boundary of a marker as its place takes it (R26; log 48). -/
def takenAt (s : State) (place : MarkerAt) (m : Marker) : Nat :=
  if place ∈ m.restamp then s.clk.slot else m.bstamp.getD 0

/-- A marker with its boundary, before its place has taken it. -/
def boundedMarker (s : State) (place : MarkerAt) (m : Marker) : Marker :=
  { m with bstamp := some (takenAt s place m), restamp := m.restamp.filter (· != place) }

theorem bounded_eq {s : State} {place : MarkerAt} {m : Marker} (hb : m.bstamp.isSome = true) :
    bounded s place m = boundedMarker s place m := by
  unfold bounded boundedMarker takenAt
  by_cases h : place ∈ m.restamp
  · rw [if_pos (List.contains_iff_mem.mpr h), if_pos h]
  · have hkeep : m.restamp.filter (· != place) = m.restamp := List.filter_eq_self.mpr fun x hx =>
      bne_iff_ne.mpr fun he => h (he ▸ hx)
    obtain ⟨b, hm⟩ := Option.isSome_iff_exists.mp hb
    rw [if_neg (mt List.contains_iff_mem.mp h), if_neg h, hkeep]
    cases m
    cases hm
    rfl

section Take
variable {s : State} {place : MarkerAt} {m : Marker} {w : Word} {a c : List Marker}

/-- The state in which a marker's changes are made. -/
def beforeChanges (s : State) (place : MarkerAt) (m : Marker) (w : Word) : State :=
  changeMarker (boundedMarker s place m) ((boundedMarker s place m).without place)
    (noteHeard place w m (changeMarker m (boundedMarker s place m) s))

/-- The state that a marker's changes leave. -/
def afterChanges (s : State) (place : MarkerAt) (m : Marker) (w : Word) : State :=
  noteTag place m.tag (m.changes.foldl (fun s c => applyChange place c s) (beforeChanges s place m w))

theorem takeMarker_eq (hb : m.bstamp.isSome = true) :
    takeMarker place w m s = issueMarkers (endOrigin (boundedMarker s place m) (afterChanges s place m w)) := by
  unfold takeMarker
  rw [bounded_eq hb]
  rfl

theorem noteHeard_frame : ∃ l, noteHeard place w m s = { s with fab := { s.fab with heard := l } } := by
  unfold noteHeard
  split
  · exact ⟨_, rfl⟩
  · exact ⟨s.fab.heard, rfl⟩

/-- The stream loses a place of the marker; nothing else changes but the list of those received. -/
theorem beforeChanges_eq (hs : s.fab.markers = a ++ m :: c) (ha : ∀ e ∈ a, e.bstamp = none ∨ place ∉ e.targets)
    (hb : m.bstamp.isSome = true) (hp : place ∈ m.targets) :
    ∃ l, beforeChanges s place m w = { s with fab := { s.fab with
      markers := (a ++ (boundedMarker s place m).without place :: c).filter Marker.stands, heard := l } } := by
  have hnot (x : Marker) (hx : x.bstamp.isSome = true) (hxp : place ∈ x.targets) : x ∉ a := fun hmem => by
    obtain h | h := ha x hmem
    · rw [h] at hx
      cases hx
    · exact h hxp
  have hstands : (boundedMarker s place m).stands = true := stands_of_target (place := place) hp
  obtain ⟨l, hl⟩ := noteHeard_frame (s := changeMarker m (boundedMarker s place m) s) (place := place) (m := m) (w := w)
  refine ⟨l, ?_⟩
  unfold beforeChanges
  rw [hl, changeMarker_split hs (hnot m hb hp)]
  have hsplit : (a ++ boundedMarker s place m :: c).filter Marker.stands =
      a.filter Marker.stands ++ boundedMarker s place m :: c.filter Marker.stands := by
    rw [List.filter_append, List.filter_cons_of_pos hstands]
  rw [hsplit]
  refine (changeMarker_split (a := a.filter Marker.stands) (c := c.filter Marker.stands) rfl fun hmem =>
    hnot (boundedMarker s place m) rfl hp (List.mem_of_mem_filter hmem)).trans ?_
  have hagain : (a.filter Marker.stands ++ (boundedMarker s place m).without place :: c.filter Marker.stands).filter
      Marker.stands = (a ++ (boundedMarker s place m).without place :: c).filter Marker.stands := by
    simp only [List.filter_append, List.filter_cons, List.filter_filter, Bool.and_self]
  rw [hagain]

/-- The change of one kind leaves the stream as it is. -/
theorem applyChange_fab {k : Change} (hk : k = .swapBanks ∨ k = .swapTables ∨ ∃ ws, k = .words .nvm ws) :
    (applyChange place k s).fab = s.fab := by
  obtain rfl | rfl | ⟨ws, rfl⟩ := hk <;> cases place <;> rfl

theorem noteTag_fab (tag : BitVec 16) : (noteTag place tag s).fab = s.fab := by
  cases place <;> rfl

theorem endOrigin_held {q : Ring} (ho : m.origin = .desc q) (h : ∃ x ∈ s.fab.markers, x.origin = m.origin) :
    endOrigin m s = s := by
  have hany : (s.fab.markers.any fun x => x.origin == m.origin) = true := by
    obtain ⟨x, hx, he⟩ := h
    exact List.any_eq_true.mpr ⟨x, hx, beq_iff_eq.mpr he⟩
  unfold endOrigin
  rw [hany, ho]
  rfl

theorem endOrigin_last {q : Ring} (ho : m.origin = .desc q) (h : ∀ x ∈ s.fab.markers, x.origin ≠ m.origin) :
    endOrigin m s = complete q 0 (markerResult m)
      { s with fab := { s.fab with heard := s.fab.heard.filter fun e => e.origin != m.origin } } := by
  have hany : (s.fab.markers.any fun x => x.origin == m.origin) = false :=
    List.any_eq_false.mpr fun x hx he => h x hx (beq_iff_eq.mp he)
  unfold endOrigin
  rw [hany, ho]
  rfl

theorem endOrigin_other (h : ∀ q, m.origin ≠ .desc q) : endOrigin m s = s := by
  unfold endOrigin
  split
  next q hq => exact absurd hq (h q)
  next => rfl

theorem markerResult_slot (h : ∀ k o g, m.changes ≠ [.calibrate k o g]) :
    markerResult m = m.bstamp.getD 0 % 2 ^ 32 := by
  unfold markerResult
  dsimp only
  split
  next k o g hk => exact absurd hk (h k o g)
  next => rfl

theorem claimMasked_apart : (claimMasked s).regs = s.regs ∧ (claimMasked s).eng = s.eng ∧ (claimMasked s).pwm = s.pwm ∧
    (claimMasked s).adc.slotmap = s.adc.slotmap := by
  unfold claimMasked
  split
  · unfold claim
    split <;> exact ⟨rfl, rfl, rfl, rfl⟩
  · exact ⟨rfl, rfl, rfl, rfl⟩

/-- A slot map takes the position that its tour has claimed, and nothing outside the array and the stream. -/
theorem applyMap_clause (map : Vector SliceNo 16) (mask : BitVec 16) :
    (applyMap map mask s).regs = s.regs ∧ (applyMap map mask s).eng = s.eng ∧ (applyMap map mask s).pwm = s.pwm ∧
    ∀ x p, s.adc.tour = some x → x.claimed = some p →
      (applyMap map mask s).adc.slotmap = vput s.adc.slotmap p map[p] := by
  unfold applyMap
  split
  next ht =>
    refine ⟨rfl, rfl, rfl, fun x p hx => ?_⟩
    rw [ht] at hx
    cases hx
  next t ht =>
    split
    next hc =>
      refine ⟨rfl, rfl, rfl, fun x p hx hp => ?_⟩
      rw [ht] at hx
      cases hx
      rw [hc] at hp
      cases hp
    next p hp =>
      have hsame : ∀ x k, s.adc.tour = some x → x.claimed = some k → k = p := fun x k hx hk => by
        rw [ht] at hx
        cases hx
        rw [hp] at hk
        exact (Option.some.inj hk).symm
      dsimp only
      split
      · obtain ⟨hregs, heng, hpwm, hmap⟩ := claimMasked_apart (s := _)
        refine ⟨hregs, heng, hpwm, fun x k hx hk => ?_⟩
        rw [hsame x k hx hk]
        exact hmap
      · refine ⟨rfl, rfl, rfl, fun x k hx hk => ?_⟩
        rw [hsame x k hx hk]
        rfl

end Take

/-! ## The settlement -/

section Settle
variable {s : State} {place : MarkerAt} {unit : Fin 16} {m : Marker} {w : Word}

/-- A marker that its place has taken. -/
def takenMarker (s : State) (place : MarkerAt) (m : Marker) : Marker := (boundedMarker s place m).without place

theorem hear_inOrder_keeps (hh : (hear place 1 anyLen w s).2 = .inOrder) :
    (hear place 1 anyLen w s).1.fab.markers = s.fab.markers ∧ (hear place 1 anyLen w s).1.fab.seqErr = s.fab.seqErr := by
  obtain ⟨-, h⟩ | ⟨-, h | h | ⟨n, h⟩⟩ := hear_cases place 1 anyLen w s
  · rw [h] at hh
    cases hh
  · rw [h]
    exact ⟨rfl, rfl⟩
  · rw [h] at hh
    cases hh
  · rw [h] at hh
    cases hh

theorem hear_keepsHeard (kind : Nat) : (hear place kind anyLen w s).1.fab.heard = s.fab.heard := by
  obtain ⟨-, h⟩ | ⟨-, h | h | ⟨n, h⟩⟩ := hear_cases place kind anyLen w s <;> rw [h] <;> rfl

/-- The clauses of a marker that arrives in order. -/
theorem marker_taken (hn : nextMarker s place = some m) (hf : domOn s pdFab = true) {a c : List Marker}
    (hs : s.fab.markers = a ++ m :: c) (ha : ∀ e ∈ a, e.bstamp = none ∨ place ∉ e.targets) (hk : hdrKind w = 1)
    (hh : (hear place 1 anyLen w s).2 = .inOrder) :
    ∃ u v, exec (.marker place ⟨unit, some w⟩) s = .next (issueMarkers v) ∧
      ((∃ k, m.changes = [k] ∧ (k = .swapBanks ∨ k = .swapTables ∨ ∃ ws, k = .words .nvm ws)) →
        u.fab.markers = (a ++ takenMarker s place m :: c).filter Marker.stands ∧ u.fab.seqErr = s.fab.seqErr) ∧
      (∀ q, m.origin = .desc q → (∃ x ∈ u.fab.markers, x.origin = m.origin) → v = u) ∧
      (∀ q, m.origin = .desc q → (∀ x ∈ u.fab.markers, x.origin ≠ m.origin) →
        v = complete q 0 (markerResult (takenMarker s place m))
          { u with fab := { u.fab with heard := u.fab.heard.filter fun e => e.origin != m.origin } }) ∧
      ((∀ q, m.origin ≠ .desc q) → v = u) ∧
      (∀ r, place = .rail r → m.changes = [.swapBanks] → u = { (hear place 1 anyLen w s).1 with
        fab := u.fab
        eng := { s.eng with
          ltag := m.tag
          rails := vmod s.eng.rails r fun e => { e with bank := !e.bank, ovf := false } } }) ∧
      (∀ r, place = .rail r → m.changes = [.swapTables] → u = { (hear place 1 anyLen w s).1 with
        fab := u.fab
        eng := { s.eng with
          ltag := m.tag, rails := vmod s.eng.rails r fun e => { e with table := !e.table } } }) ∧
      (∀ ws, place = .nvm → m.changes = [.words .nvm ws] → u = { (hear place 1 anyLen w s).1 with
        fab := u.fab, nvm := { s.nvm with ltag := m.tag }
        regs := { s.regs with live := setWords s.regs.live ws } }) ∧
      (∀ map mask, place = .adc → m.changes = [.slotMap map mask] →
        u.adc.ltag = m.tag ∧ u.regs = s.regs ∧ u.eng = s.eng ∧ u.pwm = s.pwm ∧
        ∀ x p, s.adc.tour = some x → x.claimed = some p → u.adc.slotmap = vput s.adc.slotmap p map[p]) := by
  obtain ⟨-, hstamp, htarget, -⟩ := nextMarker_some hn
  obtain ⟨hmarkers, hseq⟩ := hear_inOrder_keeps hh
  have hframe := hear_frame place 1 anyLen w s
  have hexec : exec (.marker place ⟨unit, some w⟩) s = .next (takeMarker place w m (hear place 1 anyLen w s).1) :=
    (exec_marker_packet hf hk).trans (congrArg _ (hearMarker_inOrder hn hh))
  generalize (hear place 1 anyLen w s).1 = h at hmarkers hseq hframe hexec ⊢
  have hbound : boundedMarker h place m = boundedMarker s place m := by
    rw [hframe]
    rfl
  obtain ⟨l, hl⟩ := beforeChanges_eq (w := w) (hmarkers.trans hs) ha hstamp htarget
  rw [takeMarker_eq hstamp, hbound] at hexec
  rw [hbound] at hl
  refine ⟨afterChanges h place m w, _, hexec, ?_,
    fun q ho hsome => endOrigin_held (m := boundedMarker s place m) ho hsome,
    fun q ho hnone => endOrigin_last (m := boundedMarker s place m) ho hnone,
    fun ho => endOrigin_other (m := boundedMarker s place m) ho, ?_, ?_, ?_, ?_⟩
  · rintro ⟨k, hc, hkind⟩
    have hfab : (afterChanges h place m w).fab = (beforeChanges h place m w).fab := by
      unfold afterChanges
      rw [hc, noteTag_fab]
      exact applyChange_fab hkind
    rw [hfab, hl]
    exact ⟨rfl, hseq⟩
  · rintro r rfl hc
    unfold afterChanges
    rw [hc, hl, hframe]
    rfl
  · rintro r rfl hc
    unfold afterChanges
    rw [hc, hl, hframe]
    rfl
  · rintro ws rfl hc
    unfold afterChanges
    rw [hc, hl, hframe]
    rfl
  · rintro map mask rfl hc
    have hbefore : (beforeChanges h .adc m w).regs = s.regs ∧ (beforeChanges h .adc m w).eng = s.eng ∧
        (beforeChanges h .adc m w).pwm = s.pwm ∧ (beforeChanges h .adc m w).adc = s.adc := by
      rw [hl, hframe]
      exact ⟨rfl, rfl, rfl, rfl⟩
    unfold afterChanges
    rw [hc]
    generalize beforeChanges h .adc m w = x at hbefore ⊢
    obtain ⟨hregs, heng, hpwm, hadc⟩ := hbefore
    obtain ⟨hregs', heng', hpwm', hmap⟩ := applyMap_clause (s := x) map mask
    rw [hadc] at hmap
    exact ⟨rfl, hregs'.trans hregs, heng'.trans heng, hpwm'.trans hpwm, hmap⟩

end Settle

/-- Settles O52: a packet meets the check of its kind, and the next marker of the place is lost or taken. -/
theorem markerApplied : Obligations.MarkerApplied := by
  unfold Obligations.MarkerApplied
  intro s place unit run
  refine ⟨fun hf hdr => exec_marker_off hf hdr, fun hf => ⟨exec_marker_none hf, fun w hk => ?_, fun w k hkind hk => ?_,
    fun m hn => ?_⟩⟩
  · refine ⟨fun hh hn => ?_, fun hh => ⟨eventRail s place, ?_⟩, fun hh => ⟨eventRail s place, fun hnone => ?_,
      fun e q hone hat hsrc hseq ho => ?_⟩⟩
    · exact (exec_marker_packet hf hk).trans (congrArg _ (hearMarker_without hn hh))
    · exact (exec_marker_packet hf hk).trans (congrArg _ (hearMarker_refused hh))
    all_goals
      have hheard : (raiseFabric place (eventRail s place) unit (hear place 1 anyLen w s).1).fab.heard = s.fab.heard := by
        rw [raiseFabric_fab, hear_keepsHeard]
    · refine (exec_marker_packet hf hk).trans (congrArg _ ((hearMarker_repeated hh).trans (flushHeard_unknown ?_)))
      rw [hheard]
      exact hnone
    · have hone := hheard.trans hone
      obtain ⟨v, t, ht, hempty, hframe, hv, hcal, hnvm, hheld, hsleep, hassign, hjobs, hends⟩ := flushOrigin_desc hone ho
      refine ⟨v, t, (exec_marker_packet hf hk).trans (congrArg _ ((hearMarker_repeated hh).trans
        ((flushHeard_known hone hat hsrc hseq).trans ?_))), hempty, hframe, hv, hcal, hnvm, hheld, hsleep, hassign, hjobs,
        fun hex _ _ hadm => hends hex hadm⟩
      rw [ho]
      exact ht
  · have hne : hdrKind w ≠ 1 := fun h => hk (hkind.symm.trans h)
    subst hkind
    refine ⟨fun hb hh => ?_, fun hb hh => ⟨placeRail place, ?_⟩, fun hb => ⟨placeRail place, ?_⟩⟩
    · exact (exec_marker_other hf hne).trans (congrArg _ (hearOther_inOrder hb hh))
    · exact (exec_marker_other hf hne).trans (congrArg _ (hearOther_refused hb hh))
    · exact (exec_marker_other hf hne).trans (congrArg _ (hearOther_unknown hb))
  · obtain ⟨⟨a, c, hs, ha⟩, hstamp, htarget, hcome⟩ := nextMarker_some hn
    have hnot : m ∉ a := fun hmem => by
      obtain h | h := ha m hmem
      · rw [h] at hstamp
        cases hstamp
      · exact h htarget
    refine ⟨hs ▸ List.mem_append_right _ List.mem_cons_self, htarget, hasCome_clauses hcome, a, c, hs, ha,
      ⟨_, exec_marker_strays hf hn, straysFrom_eq hs hnot⟩, fun w hk hh => ?_⟩
    obtain ⟨u, v, hexec, hstream, hheld, hlast, hother, hbanks, htables, hwords, hmap⟩ :=
      marker_taken (unit := unit) hn hf hs ha hk hh
    exact ⟨u, v, hexec, fun hc => ⟨fun _ => (hstream hc).1, (hstream hc).2⟩, hheld, hlast, hother,
      fun hc => markerResult_slot (m := takenMarker s place m) hc, hbanks, htables, hwords, hmap⟩

end Sys2Proof.Machine
end

section
/-!
The state after reset (O6), and the value of a conversion (O22).
-/

namespace Sys2Proof.Machine

/-! ## Reset -/

theorem safe_reset : Safe State.reset := ⟨rfl, rfl, rfl, rfl⟩

/-- TW0 is the one port that stands enabled after reset (R477). -/
theorem reset_twPort (p : Port) :
    State.reset.tw.ports[p].cfg = (if p = 0 then 0x82364A5 else 0x82364A4) ∧ State.reset.tw.ports[p].taddr = 0 := by
  revert p
  decide

/-- Settles O6: the vectors of the reset state repeat one entry each, but for the ports and the windows. -/
theorem resetState : Obligations.ResetState := by
  unfold Obligations.ResetState
  refine ⟨safe_reset, rfl, rfl, fun q => ⟨?_, ?_⟩, fun n => ⟨?_, ?_⟩, fun c => ?_, fun k => ?_, fun w => ?_, rfl, rfl,
    fun p => (reset_twPort p).1, fun p => (reset_twPort p).2, rfl⟩
  · exact congrArg Sq.state (Vector.getElem_replicate q.isLt)
  · exact congrArg Cq.state (Vector.getElem_replicate q.isLt)
  · exact congrArg Slice.gain (Vector.getElem_replicate n.isLt)
  · exact congrArg Slice.state (Vector.getElem_replicate n.isLt)
  · exact Vector.getElem_replicate c.isLt
  · exact Vector.getElem_replicate k.isLt
  · exact congrArg Win.latch (Vector.getElem_ofFn w.isLt)

/-- An entry that is named by its number. -/
theorem getElem_ofNat_val {α : Type} {n : Nat} [NeZero n] (v : Vector α n) (i : Fin n) : v[Fin.ofNat n i.val] = v[i] :=
  congrArg (fun k => v[k]) (Fin.ofNat_val_eq_self i)

theorem getElem_ofNat_of_eq {α : Type} {n : Nat} [NeZero n] (v : Vector α n) {k : Nat} {i : Fin n} (h : k = i.val) :
    v[Fin.ofNat n k] = v[i] := by
  subst h
  exact getElem_ofNat_val v i

/-! ## The arithmetic of a conversion (R44 to R46) -/

theorem bipolar_iff (c : Nat) : bipolar c = true ↔ c < 0x40 ∨ c = 0x59 ∨ c = 0x5B := by
  simp [bipolar, or_assoc]

/-- The rounding of R44: the addition of 2^14 and the shift by 15. -/
theorem round15_eq_shift (x : Int) : (x + 2 ^ 14) / 2 ^ 15 = (x + 16384) >>> (15 : Nat) := by
  rw [Int.shiftRight_eq_div_pow]
  rfl

theorem staleConv_iff (s : State) (n : SliceNo) (c : Nat) (flagged : Bool) :
    staleConv s n c flagged = true ↔ flagged = true ∨ s.adc.slices[n].state ≠ .service ∨
      domOn s (if n.val < 9 then 6 else 7) = false ∨ (0x30 ≤ c ∧ c < 0x40 ∧ domOn s 6 = false) := by
  simp [staleConv, errorChannel, sliceDom, pdAdc0, pdAdc1, or_assoc, and_assoc]

theorem sliceValue_eq (a : Slice) (c : Nat) (code : BitVec 12) :
    sliceValue a c code =
      let r : Int := if c < 0x40 ∨ c = 0x59 ∨ c = 0x5B then 8 * ((code.toNat : Int) - 2048) else 8 * (code.toNat : Int)
      let x : Int := ((r - a.ofs.toInt) * (a.gain.toNat : Int) + 16384) >>> (15 : Nat)
      if c = 0x61 then Config.dieTemperature x else x := by
  simp only [sliceValue, bipolar_iff, round15_eq_shift]

theorem channelValue_eq (k : ChanCal) (vs : Int) :
    channelValue k vs = ((vs - k.cofs.toInt) * (k.cgain.toNat : Int) + 16384) >>> (15 : Nat) :=
  round15_eq_shift _

theorem spanLo_eq (c : Nat) : spanLo c = if c < 0x40 ∨ c = 0x59 ∨ c = 0x5B then -16384 else 0 := by
  simp only [spanLo, bipolar_iff]

theorem spanHi_eq (c : Nat) : spanHi c = if c < 0x40 ∨ c = 0x59 ∨ c = 0x5B then 16376 else 32760 := by
  simp only [spanHi, bipolar_iff]

theorem spanLo_le_spanHi (c : Nat) : spanLo c ≤ spanHi c := by
  rw [spanLo_eq, spanHi_eq]
  split <;> decide

theorem clampInt_ne_iff {lo hi : Int} (h : lo ≤ hi) (x : Int) : clampInt lo hi x ≠ x ↔ x < lo ∨ hi < x := by
  rw [clampInt_eq h]
  omega

section Convert
variable (s : State) (n : SliceNo) (c : Nat) (code : BitVec 12) (flagged : Bool)

/-- The channel's value before saturation. -/
def rawValue : Int := channelValue s.adc.ccal[Fin.ofNat 104 c] (sliceValue s.adc.slices[n] c code)

/-- What a conversion shows: nothing under STALE, else the two corrections and the saturated value. -/
theorem convert_shows :
    (convert s n c code flagged).stale = staleConv s n c flagged ∧
    (convert s n c code flagged).value =
      (if staleConv s n c flagged = true then 0 else clampInt (spanLo c) (spanHi c) (rawValue s n c code)) ∧
    (convert s n c code flagged).vs =
      if staleConv s n c flagged = true then 0 else sliceValue s.adc.slices[n] c code := by
  unfold convert
  split
  · next h => simp [h]
  · next h => simp [h, rawValue]

theorem convert_range :
    (convert s n c code flagged).range = true ↔ code = 0xFFF ∨ (code = 0 ∧ bipolar c = true) ∨
      clampInt (spanLo c) (spanHi c) (rawValue s n c code) ≠ rawValue s n c code ∨
      (convert s n c code flagged).value < s.cfg.rangeLo c ∨ s.cfg.rangeHi c < (convert s n c code flagged).value := by
  cases h : staleConv s n c flagged
  · simp [convert, h, rawValue, or_assoc]
  · simp [convert, h, rawValue, or_assoc]

end Convert

/-- Settles O22: STALE, the two corrections and RANGE of `convert`, each in the words of R44 to R46. -/
theorem conversionValue : Obligations.ConversionValue := by
  unfold Obligations.ConversionValue
  intro s n c code flagged wide a k r x1 vs v lo hi sat x
  have hvs : sliceValue s.adc.slices[n] c.val code = vs := sliceValue_eq ..
  have hv : rawValue s n c.val code = v := by
    rw [rawValue, hvs, channelValue_eq, getElem_ofNat_val]
  have hlo : spanLo c.val = lo := spanLo_eq _
  have hhi : spanHi c.val = hi := spanHi_eq _
  have hle : lo ≤ hi := hlo ▸ hhi ▸ spanLo_le_spanHi c.val
  have hsat : clampInt lo hi v = sat := (clampInt_eq hle v).trans (by omega)
  obtain ⟨hstale, hvalue, hshown⟩ := convert_shows s n c.val code flagged
  have hrange := convert_range s n c.val code flagged
  rw [hlo, hhi, hv] at hvalue
  rw [hlo, hhi, hv, clampInt_ne_iff hle, bipolar_iff, or_assoc] at hrange
  rw [hsat] at hvalue
  rw [hvs] at hshown
  rw [← hstale] at hvalue hshown
  exact ⟨hstale ▸ staleConv_iff .., hvalue, hshown, hrange⟩

end Sys2Proof.Machine
end

section
/-!
Set descriptors (O9): what `runSet` does with accepted content, and what the marker of a phase plan carries.
-/

namespace Sys2Proof.Machine

/-- A set descriptor's content that passes, but for the engine's, which no descriptor carries. -/
theorem runSet_accepted {b : Blk} {offs : List Nat} {check : State → List (Nat × Word) → Option Nat} {q : Ring}
    {buf : List Word} {d : Desc} {s : State} (hb : b ≠ .eng) (h : buf.length = offs.length)
    (hc : check s (offs.zip buf) = none) :
    runSet b offs check q buf d s =
      pushMarkers
        (setMarkers (act_ q (s.upRegs fun g => { g with shadow := setWords g.shadow (offs.zip buf) })) b d.tag (.desc q)
          (offs.zip buf))
        (InForce (offs.zip buf)
          (act_ q (s.upRegs fun g => { g with shadow := setWords g.shadow (offs.zip buf) }))) := by
  simp only [runSet, acceptSet, ne_eq, h, not_true_eq_false, if_false, hc, hb]
  rfl

/-- Markers that join an empty stream bring their changes, and nothing else does. -/
theorem Joined.changes_perm {ms : List Marker} {s t : State} (h : Joined ms s t) (hs : s.fab.markers = [])
    (hms : ∀ m ∈ ms, m.bstamp = none) : (t.fab.markers.map (·.changes)).Perm (ms.map (·.changes)) := by
  obtain ⟨-, now, wait, -, -, hperm, ht⟩ := h
  have hnone : (ms.filter fun m => m.bstamp.isNone) = ms :=
    List.filter_eq_self.mpr fun m hm => by rw [hms m hm]; rfl
  have hsome : (ms.filter fun m => m.bstamp.isSome) = [] :=
    List.filter_eq_nil_iff.mpr fun m hm => by rw [hms m hm]; decide
  rw [hs, List.nil_append, hnone] at hperm
  rw [hs, List.nil_append, hsome, List.nil_append] at ht
  have hmap : t.fab.markers.map (·.changes) = (now ++ wait).map (·.changes) := by
    rw [ht, List.map_append, List.map_append, List.map_map]
    rfl
  exact hmap ▸ hperm.map _

/-! ## The phase plan that every rail has after reset -/

/-- PHASE_PLAN on ring 0. -/
def planDesc : Desc :=
  { opcode := 0x28, flags := 0, tag := 0, param := 0, data := 0, len := 0, ext := [], clean := true }

/-- A part in service with PHASE_PLAN in execution on ring 0. -/
def planState : State :=
  { State.reset with
    clk := { Clk.reset with lock := true }
    pwr := { Pwr.reset with on := 0x3FFF, phase := .run }
    hif := { Hif.reset with sq := vput Hif.reset.sq 0 { Sq.reset with
      exec := some { desc := planDesc, ord := 0, decided := false, acted := false } } } }

/-- The plan's words as they stand after reset. -/
def planWords : List Word := phasePlanOffs.map resetWord

theorem planState_ready : ready planState 0 0x28 = some planDesc := by decide

theorem planState_passes : checkRegulating planState .pwm (phasePlanOffs.zip planWords) = none := by decide +kernel

/-- Refutes O9: the statement gives the slot-plan marker of PHASE_PLAN a change of the block ADC, and the model's carries
its loop-lane words as a change of the block PWM. The counterexample is the plan of reset on a part in service. -/
theorem not_setDescriptors : ¬ Obligations.SetDescriptors := by
  unfold Obligations.SetDescriptors
  intro h
  obtain ⟨t, ht, -, -, hpass⟩ := h 0 planState planWords planDesc _ (.tail _ (.head _)) planState_ready
  have hlen : planWords.length = phasePlanOffs.length := List.length_map _
  obtain ⟨u, ⟨-, -, -, -, hu⟩, hjoined⟩ := hpass hlen planState_passes
  have hmarkers : u.fab.markers = [] := hu ▸ rfl
  have hexec : exec (.phasePlan 0 planWords) planState = .next (runSet .pwm phasePlanOffs
      (fun s ws => checkRegulating s .pwm ws) 0 planWords planDesc planState) := by
    simp only [exec, execPhasePlan, planState_ready]
  have hrun : t = _ := (Host.Outcome.next.inj (ht.symm.trans hexec)).trans
    (runSet_accepted (by decide) hlen planState_passes)
  have hperm := (hjoined.changes_perm hmarkers (by simp [markerOf])).symm.trans
    ((hrun ▸ push_joined _ _ : Joined _ _ t).changes_perm rfl (by simp [setMarkers, markerOf]))
  have hmem := hperm.subset (List.mem_map_of_mem (.head _))
  simp [setMarkers, markerOf] at hmem

end Sys2Proof.Machine
end

section
/-!
Register reads (O14): the holding registers, the three spaces that one command reads, and what some registers show.
-/

namespace Sys2Proof.Machine

/-! ## BAR0 (R70, R392) -/

section Read
variable {m : Master} {off : Nat} {s : State}

theorem exec_read_bar0 (hf : domOn s pdFab = true) (hal : off % 4 = 0) (hoff : off < 0x10000) :
    exec (.holdingRegisterRead m off) s = .next ((readReg m off s).1.emit (.readData m (readReg m off s).2)) := by
  simp only [exec, execHoldingRegisterRead, hal, ne_eq, not_true_eq_false, if_false, if_neg hoff.not_ge, hf,
    Bool.not_true, Bool.false_eq_true]

theorem readReg_low {x : BitVec 64} (hx : wideView s off = some x) :
    readReg m off s = (s.upRegs fun g =>
      { g with hold := vput g.hold (masterIdx m) (some { off := off, copy := highOf x }) }, lowOf x) := by
  simp only [readReg, hx]

theorem readReg_high {h : HeldRead} (hx : wideView s off = none) (hh : s.regs.hold[masterIdx m] = some h)
    (ho : h.off + 4 = off) :
    readReg m off s = (s.upRegs fun g => { g with hold := vput g.hold (masterIdx m) none }, h.copy) := by
  simp only [readReg, hx, hh, if_pos ho]

theorem readReg_plain (hx : wideView s off = none) (hh : ∀ h, s.regs.hold[masterIdx m] = some h → h.off + 4 ≠ off) :
    readReg m off s = (s, regValue s m off) := by
  cases hold : s.regs.hold[masterIdx m] with
  | none => simp only [readReg, hx, hold]
  | some h => simp only [readReg, hx, hold, if_neg (hh h hold)]

theorem regValue_shadowed (h : (spanAt off).isSome = true) :
    regValue s m off =
      wordIn (if s.regs.rdsel[masterIdx m] = true then s.regs.live else s.regs.shadow) off := by
  obtain ⟨p, hp⟩ := Option.isSome_iff_exists.mp h
  simp only [regValue, hp]

/-- A register of one word, neither shadowed nor a COMMIT register, shows its block's view. -/
theorem regValue_view (hspan : spanAt off = none) (hgo : goAt off = none) (hlow : wideView s off = none)
    (hhigh : 4 ≤ off → wideView s (off - 4) = none) : regValue s m off = viewWord s m off := by
  have hhigh : (if 4 ≤ off then wideView s (off - 4) else none) = none := by
    split
    · next h => exact hhigh h
    · rfl
  simp only [regValue, hspan, hgo, hlow, hhigh]

end Read

/-! ## BAR2 and the configuration space (R350, R352) -/

theorem exec_read_beyond {off : Nat} {s : State} (hh : domOn s pdHif = true) (hal : off % 4 = 0) (hlo : 0x10000 ≤ off)
    (hhi : off < 0x12000) : exec (.holdingRegisterRead .host off) s = .next (readBeyond off s) := by
  simp only [exec, execHoldingRegisterRead, hal, ne_eq, not_true_eq_false, if_false, if_pos hlo, hhi, hh, and_self,
    if_true]

theorem readBeyond_bar2 {off : Nat} (s : State) (h : off < 0x1000) :
    readBeyond (0x10000 + off) s = s.emit (.readData .host (readBar2 s off)) := by
  rw [readBeyond, if_pos (by omega), Nat.add_sub_cancel_left]

theorem readBar2_eq {off : Nat} (s : State) :
    readBar2 s off =
      if h : 0x800 ≤ off ∧ off < 0xA00 then
        (s.hif.msixTable[(off - 0x800) / 16]'(by omega))[off % 16 / 4]'(by omega)
      else if off = 0xC00 then s.hif.pba else 0 := by
  unfold readBar2
  split
  · next h =>
    have hrow : (off - 0x800) / 16 % 32 = (off - 0x800) / 16 := Nat.mod_eq_of_lt (by omega)
    have hword : off % 16 / 4 % 4 = off % 16 / 4 := Nat.mod_eq_of_lt (by omega)
    simp only [Fin.getElem_fin, Fin.val_ofNat, hrow, hword]
  · rfl

theorem exec_read_config {k : Nat} {w : Word} {s : State} (hh : domOn s pdHif = true) (hal : k % 4 = 0)
    (hk : k < 0x1000) (hw : readConfig s k = some w) :
    exec (.holdingRegisterRead .host (0x11000 + k)) s = .next (s.emit (.readData .host w)) := by
  rw [exec_read_beyond hh (by omega) (by omega) (by omega), readBeyond, if_neg (by omega), Nat.add_sub_cancel_left, hw]

/-- Two halves of a word. -/
theorem packWord_halves (hi lo : BitVec 16) : packWord [(16, 16, hi.toNat), (0, 16, lo.toNat)] = hi ++ lo := by
  apply BitVec.eq_of_toNat_eq
  have hhi := hi.isLt
  have hlo := lo.isLt
  rw [BitVec.toNat_append, ← Nat.shiftLeft_add_eq_or_of_lt hlo, Nat.shiftLeft_eq]
  simp only [packWord, List.foldl_cons, List.foldl_nil, BitVec.toNat_ofNat]
  omega

/-- The device number stands above the vendor's (R350). -/
theorem identity_word (v : BitVec 16) : 0x4808#16 ++ v = 0x48080000#32 ||| v.setWidth 32 := by
  apply BitVec.eq_of_toNat_eq
  have hv := v.isLt
  rw [BitVec.toNat_append, BitVec.toNat_or, BitVec.toNat_setWidth, Nat.mod_eq_of_lt (by omega)]
  rfl

theorem readConfig_identity (s : State) :
    readConfig s 0 = some (0x48080000#32 ||| Config.vendorId.setWidth 32) := by
  rw [← identity_word, ← packWord_halves]
  rfl

/-! ## What some registers show -/

theorem regValue_pend (s : State) (m : Master) (k : Fin 4) :
    regValue s m (0xC030 + 4 * k.val) = s.flt.pend.extractLsb' (32 * k.val) 32 := by
  fin_cases k <;> exact regValue_view (by decide) (by decide) rfl fun _ => rfl

/-- Settles O14: a read of BAR0 goes through `readReg`, the host's other reads through `readBeyond`. -/
theorem registerReads : Obligations.RegisterReads := by
  unfold Obligations.RegisterReads
  refine ⟨fun m off s hf hal hoff => ⟨fun x hx => ?_, fun c hx h4 hh => ?_, fun hx hh => ?_, regValue_shadowed⟩,
    fun off s hh hal hoff => ?_, fun s hh => ⟨?_, ?_, ?_⟩, fun m s => ⟨?_, ?_, ?_, fun k => ?_, rfl, ?_⟩⟩
  · rw [exec_read_bar0 hf hal hoff, readReg_low hx]
    rfl
  · rw [exec_read_bar0 hf hal hoff, readReg_high hx hh (Nat.sub_add_cancel h4)]
    rfl
  · rw [exec_read_bar0 hf hal hoff, readReg_plain hx hh]
    rfl
  · rw [exec_read_beyond hh (by omega) (by omega) (by omega), readBeyond_bar2 s hoff, readBar2_eq]
    rfl
  · exact exec_read_config (k := 0) hh rfl (by decide) (readConfig_identity s)
  · exact exec_read_config (k := 8) hh rfl (by decide) rfl
  · exact exec_read_config (k := 0x2C) hh rfl (by decide) (congrArg some (packWord_halves _ _))
  · exact regValue_view (by decide) (by decide) rfl fun h => rfl
  · exact regValue_view (by decide) (by decide) rfl fun h => rfl
  · exact regValue_view (by decide) (by decide) rfl fun h => rfl
  · exact regValue_pend s m k
  · exact regValue_view (by decide) (by decide) rfl fun h => rfl

end Sys2Proof.Machine
end

section
/-!
The self-test and start-complete (O55): what the tests of the self-test leave alone, what those of the lane pairs and of
the slices set, and the conditions of start-complete.
-/

namespace Sys2Proof.Machine

/-! ## What the self-test's parts keep -/

/-- The register file, the clocks, the powered domains and the channels' calibrations. -/
def bench (s : State) : Regs × Clk × BitVec 14 × BitVec 14 × Vector ChanCal 104 :=
  (s.regs, s.clk, s.pwr.on, s.pwr.lost, s.adc.ccal)

/-- These with the slices and the lane pairs. -/
def wholeBench (s : State) := (bench s, s.adc.slices, s.eng.pairs)

theorem wholeBench_of {s t : State} (hq : quiet t = quiet s) (hs : steady t = steady s) (hk : kept t = kept s) :
    wholeBench t = wholeBench s := by
  obtain ⟨-, -, hclk, -, hregs, -, hadc, -⟩ := Quiet.of_quiet hq
  have hccal : t.adc.ccal = s.adc.ccal := by rw [hadc]
  have hslices : t.adc.slices = s.adc.slices := by rw [hadc]
  simp only [kept, Prod.mk.injEq] at hk
  obtain ⟨-, -, -, -, hon, -⟩ := hk
  simp only [wholeBench, bench, hclk, hregs, hccal, hslices, hon, lost_of_steady hs, pairs_of_steady hs]

theorem raise_wholeBench (e : Nat) (src : Word) (code : Nat) (s : State) :
    wholeBench (raise e src code s) = wholeBench s :=
  wholeBench_of (raise_quiet ..) (raise_steady ..) (raise_kept ..)

theorem wholeBench_ite {c : Prop} [Decidable c] (a b : State) :
    wholeBench (if c then a else b) = if c then wholeBench a else wholeBench b := apply_ite wholeBench c a b

/-- A run keeps what each of its steps keeps. -/
theorem each_keeps {α β : Type} {xs : List α} (f : α → State → State) (g : State → β) (s : State)
    (h : ∀ x ∈ xs, ∀ u, g (f x u) = g u) : g (State.each xs f s) = g s := by
  unfold State.each
  induction xs generalizing s with
  | nil => rfl
  | cons x xs ih =>
    obtain ⟨hx, hxs⟩ := List.forall_mem_cons.mp h
    rw [List.foldl_cons, ih _ hxs, hx]

/-! ## Windows, heel loops and the sequences -/

theorem raiseNoSteep_wholeBench (s : State) : wholeBench (raiseNoSteep s) = wholeBench s := by
  unfold raiseNoSteep
  rw [wholeBench_ite, raise_wholeBench]
  exact ite_self _

theorem nextProof_wholeBench (s : State) : wholeBench (nextProof s) = wholeBench s := by
  unfold nextProof
  rw [wholeBench_ite, raiseNoSteep_wholeBench,
    wholeBench_of (beginProof_quiet s) (beginProof_steady s) (beginProof_kept s)]
  exact ite_self _

theorem windowFails_wholeBench (p : Proof) (elem cell : Nat) (s : State) :
    wholeBench (windowFails p elem cell s) = wholeBench s := by
  unfold windowFails
  rw [nextProof_wholeBench, raise_wholeBench]
  refine (wholeBench_of (freeDac_quiet p _) (freeDac_steady p _) (freeDac_kept p _)).trans ?_
  split <;> split <;> rfl

theorem testWindow_wholeBench (w : Window) (stage : Fin 9) (elem : Fin 5) (s : State) :
    wholeBench (testWindow w stage elem s) = wholeBench s := by
  unfold testWindow
  split
  · rw [wholeBench_ite, windowFails_wholeBench, ite_self]
  · rfl

theorem testWindows_wholeBench (fails : List (Window × Fin 9 × Fin 5)) (steep : BitVec 4) (s : State) :
    wholeBench (testWindows fails steep s) = wholeBench s := by
  unfold testWindows
  dsimp only
  rw [wholeBench_ite, raiseNoSteep_wholeBench, ite_self,
    each_keeps _ wholeBench _ fun f _ u => testWindow_wholeBench f.1 f.2.1 f.2.2 u]
  exact each_keeps _ wholeBench s fun n _ u => raise_wholeBench 0x56 _ 0 _

theorem testHeels_wholeBench (fail : BitVec 8) (s : State) : wholeBench (testHeels fail s) = wholeBench s := by
  refine each_keeps _ _ _ fun r _ u => ?_
  unfold heelChange
  rw [wholeBench_ite, raise_wholeBench, ite_self]
  rfl

theorem complete_wholeBench (q : Ring) (code result : Nat) (s : State) :
    wholeBench (complete q code result s) = wholeBench s := by
  rw [complete_frame s q code result]
  rfl

theorem restartSequences_wholeBench (s : State) : wholeBench (restartSequences s) = wholeBench s := by
  have hrings := each_keeps (fun q s => complete q codeFlushed 0 s) wholeBench s
    (fun q _ u => complete_wholeBench q codeFlushed 0 u) (xs := s.adc.inj.rings)
  unfold State.each at hrings
  unfold restartSequences
  generalize s.adc.inj.rings.foldl (fun s q => complete q codeFlushed 0 s) s = u at hrings ⊢
  exact hrings

/-! ## Lane pairs (R128, R484) -/

theorem pairFails_keeps (p : PairNo) (s : State) :
    bench (pairFails p s) = bench s ∧ (pairFails p s).adc.slices = s.adc.slices ∧
      (pairFails p s).eng.pairs = vmod s.eng.pairs p fun k => { k with recov := false, failed := true } := by
  have h := raise_wholeBench 0x60 (srcId 0x4 p.val (pairUnit s p) 0 0) 0
    (s.upPair p fun k => { k with recov := false, failed := true })
  simp only [wholeBench, Prod.mk.injEq] at h
  exact h

theorem testPairs_keeps (fail : BitVec 4) (s : State) :
    bench (testPairs fail s) = bench s ∧ (testPairs fail s).adc.slices = s.adc.slices :=
  ⟨each_keeps _ _ _ fun p _ u => (pairFails_keeps p u).1, each_keeps _ (·.adc.slices) _ fun p _ u => (pairFails_keeps p u).2.1⟩

theorem testPairs_fails {fail : BitVec 4} {s : State} {p : PairNo} (hp : hasBit fail p.val = true)
    (hd : domOn s (pairDom p) = true) : (testPairs fail s).eng.pairs[p].failed = true := by
  obtain ⟨u, -, hu⟩ := each_at (is := (fins 4).filter fun p => hasBit fail p.val && domOn s (pairDom p)) pairFails
    (·.eng.pairs[p]) s ((nodup_fins 4).filter _) ((mem_filter_fins p _).mpr (by rw [hp, hd]; rfl)) fun q u hq => by
      rw [(pairFails_keeps q u).2.2, vmod_other _ _ hq]
  rw [testPairs, hu, (pairFails_keeps p u).2.2, vmod_same]

theorem testPairs_passes {fail : BitVec 4} (s : State) {p : PairNo} (hp : hasBit fail p.val = false) :
    (testPairs fail s).eng.pairs[p] = s.eng.pairs[p] := by
  refine each_keeps pairFails (·.eng.pairs[p]) s fun q hq u => ?_
  have hne : q ≠ p := by
    rintro rfl
    have hmine := (mem_filter_fins q _).mp hq
    rw [hp, Bool.false_and] at hmine
    cases hmine
  rw [(pairFails_keeps q u).2.2, vmod_other _ _ hne]

/-! ## Slices (R47, R484) -/

/-- The outcome of a slice's absolute calibration in the self-test. -/
def testOutcome (cals : List AbsCal) (s : State) (n : SliceNo) : Option (BitVec 16 × BitVec 16) :=
  if domOn s (sliceDom n) then (cals[n.val]?).bind (absResult s.adc.ccal[0x63]) else none

/-- The slices that pass, in their order. -/
def testGood (cals : List AbsCal) (s : State) : List SliceNo := (fins 17).filter fun n => (testOutcome cals s n).isSome

/-- One slice takes its outcome. -/
def testSlice (cals : List AbsCal) (s : State) (n : SliceNo) (u : State) : State :=
  match testOutcome cals s n with
  | some r => u.upSlice n fun a =>
      { a with state := if (testGood cals s).idxOf n < 16 then .service else .steep, ofs := r.1, gain := r.2
               calAt := u.clk.slot, calOk := true }
  | none =>
    if domOn u (sliceDom n) then raise 0x50 (sliceSrc n) 0 (u.upSlice n fun a => { a with state := .failed }) else u

/-- The positions take the slices that pass, and the one left over begins a tour (R47). -/
def testPlaced (good : List SliceNo) (now : Nat) (u : State) : State :=
  let u := u.upAdc fun a =>
    { a with slotmap := Vector.ofFn fun p => good.getD p.val (Fin.ofNat 17 p.val)
             mask := maskOf 16 fun p => decide (good.length ≤ p.val), rotAt := now }
  match good[16]? with
  | some n => u.upAdc fun a => { a with tour := some (newTour u n) }
  | none => u

theorem testPlaced_keeps (good : List SliceNo) (now : Nat) (u : State) :
    bench (testPlaced good now u) = bench u ∧ (testPlaced good now u).eng.pairs = u.eng.pairs ∧
      (testPlaced good now u).adc.slices = u.adc.slices := by
  unfold testPlaced
  split
  · simp only [bench, State.upAdc_regs, State.upAdc_clk, State.upAdc_pwr, State.upAdc_eng, State.upAdc_adc, and_self]
  · simp only [bench, State.upAdc_regs, State.upAdc_clk, State.upAdc_pwr, State.upAdc_eng, State.upAdc_adc, and_self]

theorem testSlices_eq (cals : List AbsCal) (s : State) :
    testSlices cals s = testPlaced (testGood cals s) (State.each (fins 17) (testSlice cals s) s).clk.slot
      (State.each (fins 17) (testSlice cals s) s) := by
  unfold testSlices testPlaced State.each testSlice testGood testOutcome
  rfl

theorem testSlices_slices (cals : List AbsCal) (s : State) :
    bench (testSlices cals s) = bench (State.each (fins 17) (testSlice cals s) s) ∧
    (testSlices cals s).eng.pairs = (State.each (fins 17) (testSlice cals s) s).eng.pairs ∧
    (testSlices cals s).adc.slices = (State.each (fins 17) (testSlice cals s) s).adc.slices := by
  rw [testSlices_eq]
  exact testPlaced_keeps ..

theorem testSlice_keeps (cals : List AbsCal) (s : State) (n : SliceNo) (u : State) :
    bench (testSlice cals s n u) = bench u ∧ (testSlice cals s n u).eng.pairs = u.eng.pairs ∧
      ∀ k, n ≠ k → (testSlice cals s n u).adc.slices[k] = u.adc.slices[k] := by
  unfold testSlice
  split
  · exact ⟨rfl, rfl, fun k hk => vmod_other _ _ hk⟩
  split
  · have h := raise_wholeBench 0x50 (sliceSrc n) 0 (u.upSlice n fun a => { a with state := .failed })
    simp only [wholeBench, Prod.mk.injEq] at h
    obtain ⟨hbench, hslices, hpairs⟩ := h
    exact ⟨hbench, hpairs, fun k hk => (congrArg (·[k]) hslices).trans (vmod_other _ _ hk)⟩
  · exact ⟨rfl, rfl, fun _ _ => rfl⟩

theorem domOn_of_bench {s t : State} (h : bench t = bench s) (d : Nat) : domOn t d = domOn s d := by
  simp only [bench, Prod.mk.injEq] at h
  obtain ⟨-, -, hon, hlost, -⟩ := h
  rw [domOn, domOn, hon, hlost]

theorem testSlices_keeps (cals : List AbsCal) (s : State) :
    bench (testSlices cals s) = bench s ∧ (testSlices cals s).eng.pairs = s.eng.pairs := by
  obtain ⟨hbench, hpairs, -⟩ := testSlices_slices cals s
  exact ⟨hbench.trans (each_keeps _ _ _ fun n _ u => (testSlice_keeps cals s n u).1),
    hpairs.trans (each_keeps _ (·.eng.pairs) _ fun n _ u => (testSlice_keeps cals s n u).2.1)⟩

/-- A powered slice serves with its new corrections, or has failed. -/
theorem testSlices_slice {s : State} {n : SliceNo} (cals : List AbsCal) (hd : domOn s (sliceDom n) = true) :
    match (cals[n.val]?).bind (absResult s.adc.ccal[(0x63 : Fin 104)]) with
    | some r => ((testSlices cals s).adc.slices[n].state = .service ∨ (testSlices cals s).adc.slices[n].state = .steep) ∧
        (testSlices cals s).adc.slices[n].ofs = r.1 ∧ (testSlices cals s).adc.slices[n].gain = r.2 ∧
        (testSlices cals s).adc.slices[n].calOk = true
    | none => (testSlices cals s).adc.slices[n].state = .failed := by
  obtain ⟨-, -, hslices⟩ := testSlices_slices cals s
  obtain ⟨u, hu, hafter⟩ := each_at (testSlice cals s) (fun u => (bench u, u.adc.slices[n])) s (nodup_fins 17) (mem_fins n)
    fun k u hk => by
      obtain ⟨hbench, -, hother⟩ := testSlice_keeps cals s k u
      rw [hbench, hother n hk]
  have hon : domOn u (sliceDom n) = true := (domOn_of_bench (Prod.mk.inj hu).1 _).trans hd
  rw [hslices, (Prod.mk.inj hafter).2]
  have hout : testOutcome cals s n = (cals[n.val]?).bind (absResult s.adc.ccal[(0x63 : Fin 104)]) := if_pos hd
  rw [← hout]
  unfold testSlice
  cases testOutcome cals s n with
  | some r =>
    simp only [State.upSlice_eq, State.upAdc_adc, vmod_same, and_true]
    split
    · exact .inl rfl
    · exact .inr rfl
  | none =>
    have h := raise_wholeBench 0x50 (sliceSrc n) 0 (u.upSlice n fun a => { a with state := .failed })
    simp only [wholeBench, Prod.mk.injEq] at h
    obtain ⟨-, hraised, -⟩ := h
    dsimp only
    rw [if_pos hon, hraised, State.upSlice_eq, State.upAdc_adc, vmod_same]

/-! ## The two commands -/

/-- The state after the self-test, before the start halts or waits. -/
def tested (x : SelfTest) (s : State) : State :=
  restartSequences (testHeels x.heelFail (testWindows x.windowFail x.steepFail
    (testSlices x.cals (testPairs x.pairFail s))))

theorem exec_selfTestDone (x : SelfTest) {s : State} (h : s.pwr.phase = .selfTest) :
    exec (.selfTestDone x) s = .next (if startHalts (tested x s) then { tested x s with pwr := { (tested x s).pwr with
        phase := .halted, haltA := haltsByA (tested x s), haltR := haltsByRstc (tested x s) } }
      else beginWait (tested x s)) :=
  congrArg _ (if_neg (not_not_intro h))

theorem tested_wholeBench (x : SelfTest) (s : State) :
    wholeBench (tested x s) = wholeBench (testSlices x.cals (testPairs x.pairFail s)) := by
  rw [tested, restartSequences_wholeBench, testHeels_wholeBench, testWindows_wholeBench]

/-- What start-complete waits for (R486). -/
def startDone (s : State) : Prop :=
  s.pwr.phase = .sequencing ∧ (∀ j : Group, ¬ (s.seq.groups[j].req = true ∧ s.seq.groups[j].retrying = true)) ∧
    ∀ i : SeqIdx, s.cfg.use i.val = true → railSettled s i = true

theorem startDone_iff (s : State) :
    startDone s ↔ ¬ (s.pwr.phase ≠ .sequencing ||
      ((fins 8).any fun j => s.seq.groups[j].req && s.seq.groups[j].retrying) ||
      !(usedRails s.cfg).all (railSettled s)) = true := by
  simp [startDone, usedRails, mem_fins, and_assoc]

theorem exec_startComplete_waits {s : State} (h : ¬ startDone s) : exec .startComplete s = .next s :=
  congrArg _ (if_pos (not_not.mp ((startDone_iff s).not.mp h)))

/-- AUTOLOCK locks a set-up that is not locked yet, and the shadow set takes the live one (R396). -/
theorem autolock_regs (s : State) :
    (if s.regs.autolock then setLock s else s) = { s with regs := { s.regs with
      lock := s.regs.lock || s.regs.autolock
      shadow := if s.regs.autolock = true ∧ s.regs.lock = false then s.regs.live else s.regs.shadow } } := by
  unfold setLock
  cases ha : s.regs.autolock
  · rw [if_neg (by decide), Bool.or_false, if_neg (by simp)]
  rw [if_pos rfl, Bool.or_true]
  cases hl : s.regs.lock
  · rw [if_neg (by decide), if_pos ⟨rfl, rfl⟩]
    rfl
  · rw [if_pos rfl, if_neg (by simp)]
    conv_rhs => rw [← hl]

theorem leaveEscalation_frame (s : State) : ∃ e, leaveEscalation s = { s with flt := { s.flt with escStart := e } } ∧
    (escMode s = false → e = none) := by
  unfold leaveEscalation
  split
  · next h => exact ⟨s.flt.escStart, rfl, fun hn => absurd h (by rw [hn]; decide)⟩
  · exact ⟨none, rfl, fun _ => rfl⟩

/-- The start ends: the part runs, and RSTC and the start's escalation mode end (R335, R338, R486). -/
def startEnds (s : State) : State :=
  leaveEscalation ((s.upPwr fun p => { p with phase := .run }).upFlt fun f => { f with starting := false, rstc := 0 })

theorem exec_startComplete_ends {s : State} (h : startDone s) :
    exec .startComplete s = .next (if s.regs.autolock then setLock (startEnds s) else startEnds s) := by
  have hregs : (startEnds s).regs = s.regs := by
    obtain ⟨e, he, -⟩ := leaveEscalation_frame
      ((s.upPwr fun p => { p with phase := .run }).upFlt fun f => { f with starting := false, rstc := 0 })
    rw [startEnds, he]
    rfl
  refine congrArg Host.Outcome.next ((if_neg ((startDone_iff s).mp h)).trans ?_)
  rw [← hregs]
  rfl

theorem exec_startComplete_done {s : State} (h : startDone s) : ∃ t, exec .startComplete s = .next t ∧
    t = { s with
      pwr := { s.pwr with phase := .run }
      flt := { s.flt with starting := false, rstc := 0, escStart := t.flt.escStart }
      regs := { s.regs with
        lock := s.regs.lock || s.regs.autolock
        shadow := if s.regs.autolock = true ∧ s.regs.lock = false then s.regs.live else s.regs.shadow } } ∧
    (s.cfg.testCfg = false → s.flt.test = false → s.flt.recov = false → t.flt.escStart = none) := by
  obtain ⟨e, he, hnone⟩ := leaveEscalation_frame
    ((s.upPwr fun p => { p with phase := .run }).upFlt fun f => { f with starting := false, rstc := 0 })
  have hends : startEnds s = _ := he
  have hexec := exec_startComplete_ends h
  have hregs : (startEnds s).regs = s.regs := by rw [hends]; rfl
  rw [← hregs, autolock_regs, hends] at hexec
  refine ⟨_, hexec, rfl, fun hcfg htest hrecov => hnone ?_⟩
  show (false || s.cfg.testCfg || s.flt.test || s.flt.recov) = false
  rw [hcfg, htest, hrecov]
  rfl

/-- Settles O55: the self-test runs through tests that each keep what the others set, and start-complete acts on its
three conditions alone. -/
theorem selfTestAndStartComplete : Obligations.SelfTestAndStartComplete := by
  unfold Obligations.SelfTestAndStartComplete
  refine fun s => ⟨fun t h => congrArg _ (if_pos h), fun x h => ⟨tested x s, exec_selfTestDone x h, ?_⟩,
    exec_startComplete_waits, exec_startComplete_done⟩
  obtain ⟨hbench, hslices⟩ := testPairs_keeps x.pairFail s
  obtain ⟨hbench', hpairs⟩ := testSlices_keeps x.cals (testPairs x.pairFail s)
  have hall := tested_wholeBench x s
  simp only [wholeBench, Prod.mk.injEq] at hall
  obtain ⟨hb, hsl, hpr⟩ := hall
  have hsame : bench (tested x s) = bench s := hb.trans (hbench'.trans hbench)
  refine ⟨congrArg Prod.fst hsame, congrArg (·.2.1) hsame, fun p hp hd => ?_, fun p hp => ?_, fun n hd => ?_⟩
  · rw [hpr, hpairs]
    exact testPairs_fails hp hd
  · rw [hpr, hpairs]
    exact testPairs_passes s hp
  · have hccal : (testPairs x.pairFail s).adc.ccal = s.adc.ccal := congrArg (·.2.2.2.2) hbench
    dsimp only
    rw [hsl, ← hccal]
    exact testSlices_slice x.cals ((domOn_of_bench hbench _).trans hd)

end Sys2Proof.Machine
end

section
/-!
System calibration (O25): requests, the booking of CAL_ZERO, and the end of a measurement.
-/

namespace Sys2Proof.Machine

/-! ## Requests (R41, R75, R76, R79) -/

/-- A descriptor's command, once its descriptor is ready. -/
theorem exec_of_ready {q : Ring} {s : State} {op : Nat} {i : Instr} {d : Desc} {f : Desc → State}
    (hi : exec i s = .next (match ready s q op with | none => s | some d => f d)) (hr : ready s q op = some d) :
    exec i s = .next (f d) := by
  rw [hi, hr]

/-- A booking after the point of no return is one before it, where the ledger is on (R288, R292). -/
theorem book_act (f : BookFor) (mJ : Nat) (q : Ring) (s : State) :
    book f mJ (act_ q s) = act_ q (s.upLdg fun l =>
      { l with books := if domOn s pdGau = true then { for_ := f, mJ := mJ } :: l.books else l.books }) := by
  have hdom : domOn (act_ q s) pdGau = domOn s pdGau := rfl
  unfold book
  rw [hdom]
  cases domOn s pdGau
  · rfl
  · rfl

/-- The measurement that a request on a channel begins. -/
def calRun (q : Ring) (full : Bool) (d : Desc) (c : Fin 104) : CalRun :=
  { ring := q, full := full, chan := BitVec.ofNat 7 c.val, k := BitVec.ofNat 4 (d.pf 8 4)
    target := BitVec.ofNat 16 (d.pf 16 16), n := 0, sum := 0, min := 0, max := 0, result := none }

section Request
variable {q : Ring} {s : State} {d : Desc} {c : Fin 104}

theorem calZero_answered (hc : d.pf 0 7 ≤ 0x67 → d.pf 0 7 = c.val) (hr : ready s q 0x12 = some d) :
    ∃ t, exec (.calZero q) s = .next t ∧
      if 0x67 < d.pf 0 7 then Ends q 0x0102 0 s t
      else if 0x61 ≤ c.val ∧ c.val ≤ 0x63 then Ends q 0x0107 0 s t
      else if inLiveLane s c.val = true then Ends q 0x0105 0 s t
      else if s.adc.cal ≠ none then Ends q 0x0104 0 s t
      else if mayAdmit s s.cfg.costcal false = false then
        Ends q 0x0106 0 (s.upLdg fun l => { l with nref := l.nref + 1 }) t
      else Waits q true ((s.upAdc fun a => { a with cal := some (calRun q false d c) }).upLdg fun l =>
        { l with books := if domOn s pdGau = true then
            { for_ := .cal (BitVec.ofNat 7 c.val), mJ := s.cfg.costcal } :: l.books else l.books }) t := by
  obtain ⟨e, he, -⟩ := ready_some hr
  refine ⟨_, exec_of_ready rfl hr, ?_⟩
  dsimp only
  by_cases hrange : 0x67 < d.pf 0 7
  · simp only [if_pos hrange]
    exact complete_ends _ _ he
  have hchan : d.pf 0 7 = c.val := hc (by omega)
  rw [hchan] at hrange
  simp only [hchan, if_neg hrange, newCal]
  by_cases htrim : 0x61 ≤ c.val ∧ c.val ≤ 0x63
  · simp only [if_pos htrim]
    exact complete_ends _ _ he
  simp only [if_neg htrim]
  by_cases hlive : inLiveLane s c.val = true
  · simp only [if_pos hlive]
    exact complete_ends _ _ he
  simp only [if_neg hlive]
  cases hcal : s.adc.cal with
  | some k => exact complete_ends _ _ he
  | none =>
    cases hadmit : mayAdmit s s.cfg.costcal false with
    | false => exact complete_ends (s := countRefusal s) _ _ he
    | true =>
      simp only [Option.isSome_none, Bool.false_eq_true, if_false, Bool.not_true, ne_eq, not_true_eq_false, book_act,
        Bool.true_eq_false]
      exact act_waits he

theorem calFull_answered (hc : d.pf 0 7 ≤ 0x67 → d.pf 0 7 = c.val) (hr : ready s q 0x13 = some d) :
    ∃ t, exec (.calFull q) s = .next t ∧
      if 0x67 < d.pf 0 7 then Ends q 0x0102 0 s t
      else if s.adc.m0[c] = none ∨ inLiveLane s c.val = true then Ends q 0x0105 0 s t
      else if s.adc.cal ≠ none then Ends q 0x0104 0 s t
      else Waits q true (s.upAdc fun a => { a with cal := some (calRun q true d c) }) t := by
  obtain ⟨e, he, -⟩ := ready_some hr
  refine ⟨_, exec_of_ready rfl hr, ?_⟩
  dsimp only
  by_cases hrange : 0x67 < d.pf 0 7
  · simp only [if_pos hrange]
    exact complete_ends _ _ he
  have hchan : d.pf 0 7 = c.val := hc (by omega)
  rw [hchan] at hrange
  simp only [hchan, if_neg hrange, newCal, getElem_ofNat_val]
  by_cases hzero : s.adc.m0[c] = none
  · rw [if_pos hzero, if_pos (.inl hzero)]
    exact complete_ends _ _ he
  rw [if_neg hzero]
  by_cases hlive : inLiveLane s c.val = true
  · rw [if_pos hlive, if_pos (.inr hlive)]
    exact complete_ends _ _ he
  rw [if_neg hlive, if_neg (not_or.mpr ⟨hzero, hlive⟩)]
  cases hcal : s.adc.cal with
  | some k => exact complete_ends _ _ he
  | none => exact act_waits he

end Request

/-! ## The end of a measurement (R75 to R77) -/

/-- The measurement is over: the array is free for another, without the conversions of this one. -/
def calFreed (s : State) : State := s.upAdc fun a => { a with cal := none, taken := a.taken.filter fun x => x.use != .cal }

/-- The mean of a measurement (R75). -/
def calMean (k : CalRun) : Int := (k.sum + (2 ^ k.k.toNat / 2 : Nat)) >>> k.k.toNat

theorem calMean_eq (k : CalRun) : (k.sum + 2 ^ k.k.toNat / 2) / 2 ^ k.k.toNat = calMean k := by
  rw [calMean, Int.shiftRight_eq_div_pow]
  push_cast
  rfl

section Done
variable {before : State} {k : CalRun} {c : Fin 104}

theorem exec_calMeasurementDone (hk : (land before).adc.cal = some k) (hn : 2 ^ k.k.toNat ≤ k.n)
    (hres : k.result = none) : exec .calMeasurementDone before = .next (
      if k.full = true then (if 256 < k.max - k.min then endCal k 0x0110 0 (land before)
        else decideFull k (calMean k) (land before))
      else if 256 < k.max - k.min then dropNewest (.cal k.chan) (endCal k 0x0110 0 (land before))
      else endCal k 0 (BitVec.ofInt 16 (calMean k)).toNat ((keepNewest (.cal k.chan) (land before)).upAdc fun a =>
        { a with m0 := vput a.m0 (Fin.ofNat 104 k.chan.toNat) (some (BitVec.ofInt 16 (calMean k))) })) := by
  have hgo : ¬ ((decide (k.n < 2 ^ k.k.toNat) || k.result.isSome) = true) := by
    rw [hres]
    simp [hn]
  show Host.Outcome.next _ = _
  dsimp only
  rw [hk]
  dsimp only
  rw [if_neg hgo, calMean_eq]
  simp only [decide_eq_true_eq]
  rfl

theorem decideFull_none (hc : k.chan.toNat = c.val) {s : State} (m1 : Int) (hz : s.adc.m0[c] = none) :
    decideFull k m1 s = complete k.ring 0x0105 0 (calFreed s) := by
  rw [decideFull, getElem_ofNat_of_eq _ hc, hz]
  rfl

theorem decideFull_some (hc : k.chan.toNat = c.val) {s : State} (m1 : Int) {z : BitVec 16} (hz : s.adc.m0[c] = some z) :
    decideFull k m1 s = decideFrom k z.toInt m1 s := by
  rw [decideFull, getElem_ofNat_of_eq _ hc, hz]

variable {m0 m1 : Int} {s : State}

theorem decideFrom_inconsistent (h : (m1 - m0).natAbs < 4096 ∨ k.target.toInt * (m1 - m0) ≤ 0) :
    decideFrom k m0 m1 s = complete k.ring 0x0103 0 (calFreed s) := by
  unfold decideFrom
  dsimp only
  simp only [Bool.or_eq_true, decide_eq_true_eq, if_pos h]
  rfl

theorem decideFrom_range (h : ¬ ((m1 - m0).natAbs < 4096 ∨ k.target.toInt * (m1 - m0) ≤ 0))
    (hr : 4096 < m0.natAbs ∨ calGain k.target.toInt (m1 - m0) < 0x7000 ∨ 0x9000 < calGain k.target.toInt (m1 - m0)) :
    decideFrom k m0 m1 s = complete k.ring 0x0102 0 (calFreed s) := by
  unfold decideFrom
  dsimp only
  simp only [Bool.or_eq_true, decide_eq_true_eq, if_neg h, or_assoc, if_pos hr]
  rfl

/-- The record of the channel is asked of the NV store (R77, R78). -/
theorem decideFrom_commits (h : ¬ ((m1 - m0).natAbs < 4096 ∨ k.target.toInt * (m1 - m0) ≤ 0))
    (hr : ¬ (4096 < m0.natAbs ∨ calGain k.target.toInt (m1 - m0) < 0x7000 ∨
      0x9000 < calGain k.target.toInt (m1 - m0))) (ho : nvOpen s = true) :
    ∃ r, r.ring = some k.ring ∧ r.prec = 2 ∧
      decideFrom k m0 m1 s = (s.upNvm fun n => { n with queue := n.queue ++ [r] }).upAdc fun a =>
        { a with cal := some { k with
          result := some (BitVec.ofInt 16 m0, BitVec.ofInt 16 (calGain k.target.toInt (m1 - m0))) } } := by
  unfold decideFrom
  dsimp only
  simp only [Bool.or_eq_true, decide_eq_true_eq, or_assoc, if_neg h, if_neg hr, ho, Bool.not_true, Bool.false_eq_true,
    if_false]
  exact ⟨_, rfl, rfl, if_pos ho⟩

end Done

/-- Settles O25: each request by its checks in their order, and the end of a measurement by its spread and, for CAL_FULL,
by the pending zero. -/
theorem calibrations : Obligations.Calibrations := by
  unfold Obligations.Calibrations
  refine ⟨fun q s d c hc => ⟨calZero_answered hc, calFull_answered hc⟩, fun before k c => ?_⟩
  intro s hk hc hn hres m1 t free
  refine ⟨_, exec_calMeasurementDone hk hn hres, fun hf hw => ?_, fun hf hw => ?_, fun hf hw => ?_, fun hf hw hz => ?_,
    fun hf hw z hz => ⟨fun h => ?_, fun hd hs hr => ?_, fun hd hs h0 hlo hhi hrefuse hdom => ?_⟩⟩
  · rw [if_neg (by rw [hf]; decide), if_pos hw]
    rfl
  · rw [if_neg (by rw [hf]; decide), if_neg hw.not_gt, hc, Fin.ofNat_val_eq_self]
    exact ⟨_, rfl⟩
  · rw [if_pos hf, if_pos hw]
    rfl
  · rw [if_pos hf, if_neg hw.not_gt]
    exact decideFull_none hc m1 hz
  all_goals rw [if_pos hf, if_neg hw.not_gt, decideFull_some hc _ hz]
  · exact decideFrom_inconsistent h
  · exact decideFrom_range (not_or.mpr ⟨hd.not_gt, hs.not_ge⟩) hr
  · exact decideFrom_commits (not_or.mpr ⟨hd.not_gt, hs.not_ge⟩)
      (not_or.mpr ⟨h0.not_gt, not_or.mpr ⟨hlo.not_gt, hhi.not_gt⟩⟩) (by rw [nvOpen, hrefuse, hdom]; rfl)

end Sys2Proof.Machine
end

section
/-!
The input-path test (O26): its request, the end of the test with its means and verdict, and the verdict's bits.
-/

namespace Sys2Proof.Machine

/-! ## Its request (R80 to R83) -/

theorem resumeCal_frame (since : Nat) (s : State) : ∃ a b, resumeCal since s =
    { s with adc := { s.adc with tour := a, pitch := b } } := ⟨_, _, rfl⟩

/-- What a path test takes the test DAC from: a proof test's stage that has it. -/
def dacFreed (s : State) : State :=
  match s.cmp.proof with
  | some p => if p.usesDac = true then resumeCal p.since s else s
  | none => s

theorem freeDac_eq {s : State} (h : s.adc.ptest = none) :
    (match s.cmp.proof with | some p => freeDac p s | none => s) = dacFreed s := by
  unfold dacFreed freeDac
  rw [h]
  simp only [Option.isNone_none, Bool.and_true]

theorem dacFreed_frame (s : State) : ∃ a b, dacFreed s = { s with adc := { s.adc with tour := a, pitch := b } } := by
  unfold dacFreed
  split
  · split
    · exact resumeCal_frame _ s
    · exact ⟨_, _, rfl⟩
  · exact ⟨_, _, rfl⟩

/-- The bookings once a channel's pending zero is discarded: that of a CAL_ZERO which runs on the channel stays
(R75, R288). -/
def booksWithout (c : BitVec 7) (s : State) : List Booking :=
  match s.ldg.books.find? fun b => b.for_ == .cal c with
  | some b =>
    (if s.adc.cal.any (fun k => !k.full && k.chan == c) then [b] else []) ++ s.ldg.books.filter fun x => x.for_ != .cal c
  | none => s.ldg.books

theorem dropZero_eq (c : BitVec 7) (s : State) : dropZero c s =
    (s.upLdg fun l => { l with books := booksWithout c s }).upAdc fun a =>
      { a with m0 := vput a.m0 (Fin.ofNat 104 c.toNat) none } := by
  have hrun : (s.adc.cal.any fun k => !k.full && decide (k.chan = c)) = s.adc.cal.any fun k => !k.full && k.chan == c := by
    congr 1
  unfold dropZero booksWithout
  simp only [State.upAdc_adc, hrun]
  cases hf : s.ldg.books.find? fun b => b.for_ == .cal c with
  | none =>
    have hkept : (s.ldg.books.filter fun b => b.for_ != .cal c) = s.ldg.books :=
      List.filter_eq_self.mpr fun b hb => by
        have hne := List.find?_eq_none.mp hf b hb
        simpa using hne
    split
    · simp only [keepNewest, State.upLdg, State.upAdc, hf]
    · simp only [dropBook, State.upLdg, State.upAdc, hkept]
  | some b =>
    split
    · simp only [keepNewest, State.upLdg, State.upAdc, hf, List.singleton_append]
    · simp only [dropBook, State.upLdg, State.upAdc, List.nil_append]

/-- The test that a request begins. -/
def pathRun (q : Ring) (d : Desc) (s : State) (chan : BitVec 7) : PathRun :=
  { ring := q, chan := chan, inject := d.pf 7 1 = 1, a := BitVec.ofNat 10 (d.pf 8 10)
    b := BitVec.ofNat 10 (d.pf 18 10), nchan := BitVec.ofNat 7 (d.pf 28 7), k := BitVec.ofNat 4 (d.pf 36 4), atB := false
    n := Vector.replicate 4 0, sums := Vector.replicate 4 0, settled := s.clk.slot + 512, since := s.clk.slot }

/-- The state in which the test has begun, but for its descriptor. -/
def pathBegun (q : Ring) (d : Desc) (c : Fin 104) (s : State) : State :=
  ((dacFreed s).upLdg fun l => { l with books := booksWithout (BitVec.ofNat 7 c.val) s }).upAdc fun a =>
    { a with m0 := vput a.m0 c none, ptest := some (pathRun q d s (BitVec.ofNat 7 c.val)) }

theorem toNat_channel (c : Fin 104) : (BitVec.ofNat 7 c.val).toNat = c.val := by
  rw [BitVec.toNat_ofNat, Nat.mod_eq_of_lt (by have := c.isLt; omega)]

theorem pathBegun_eq (q : Ring) (d : Desc) (c : Fin 104) (s : State) :
    (act_ q (dropZero (BitVec.ofNat 7 c.val) (dacFreed s))).upAdc
      (fun k => { k with ptest := some (pathRun q d s (BitVec.ofNat 7 c.val)) }) = act_ q (pathBegun q d c s) := by
  have hbooks : booksWithout (BitVec.ofNat 7 c.val) (dacFreed s) = booksWithout (BitVec.ofNat 7 c.val) s := by
    obtain ⟨a, b, h⟩ := dacFreed_frame s
    rw [h]
    rfl
  rw [dropZero_eq, hbooks, toNat_channel, Fin.ofNat_val_eq_self]
  rfl

theorem pathBegun_hif (q : Ring) (d : Desc) (c : Fin 104) (s : State) : (pathBegun q d c s).hif = s.hif := by
  obtain ⟨a, b, h⟩ := dacFreed_frame s
  rw [pathBegun, h]
  rfl

theorem adcPathTest_answered {q : Ring} {s : State} {d : Desc} {c : Fin 104} (hr : ready s q 0x14 = some d)
    (hc : d.pf 0 7 ≤ 0x67 → d.pf 0 7 = c.val) :
    ∃ t, exec (.adcPathTest q) s = .next t ∧
      if pathRefused (d.pf 0 7) (d.pf 28 7) (d.pf 8 10) (d.pf 18 10) = true then Ends q 0x0102 0 s t
      else if inLiveLane s c.val = true ∧ rackedChan s c.val = false then Ends q 0x0105 0 s t
      else if s.adc.ptest ≠ none then Ends q 0x0104 0 s t
      else if s.adc.tour.any (fun x => x.claimed.isSome) = true then t = s
      else Waits q true (pathBegun q d c s) t := by
  obtain ⟨e, he, -⟩ := ready_some hr
  refine ⟨_, exec_of_ready rfl hr, ?_⟩
  dsimp only
  by_cases href : pathRefused (d.pf 0 7) (d.pf 28 7) (d.pf 8 10) (d.pf 18 10) = true
  · simp only [if_pos href]
    exact complete_ends _ _ he
  have hrange : d.pf 0 7 ≤ 0x67 := by
    by_contra hbig
    exact href (by simp [pathRefused, Nat.lt_of_not_le hbig])
  rw [hc hrange] at href
  simp only [hc hrange, if_neg href, Bool.and_eq_true, Bool.not_eq_true']
  by_cases hlive : inLiveLane s c.val = true ∧ rackedChan s c.val = false
  · simp only [if_pos hlive]
    exact complete_ends _ _ he
  simp only [if_neg hlive]
  cases htest : s.adc.ptest with
  | some p => exact complete_ends _ _ he
  | none =>
    simp only [Option.isSome_none, Bool.false_eq_true, if_false, ne_eq, not_true_eq_false]
    by_cases hclaim : s.adc.tour.any (fun x => x.claimed.isSome) = true
    · rw [if_pos hclaim, if_pos hclaim]
    · rw [if_neg hclaim, if_neg hclaim]
      refine Eq.subst (motive := Waits q true (pathBegun q d c s)) ?_ (act_waits (by rw [pathBegun_hif]; exact he))
      rw [← pathBegun_eq, ← freeDac_eq htest]
      rfl

/-! ## The end of a test (R82) -/

theorem Raised.freeCount {e : Nat} {s t : State} (h : Raised e s t) : t.freeCount = s.freeCount := by
  unfold Raised at h
  split at h
  · obtain ⟨-, -, hfree, -⟩ := h
    exact hfree
  · rw [h]

theorem Raised.ptest {e : Nat} {s t : State} (h : Raised e s t) : t.adc.ptest = s.adc.ptest := by
  unfold Raised at h
  split at h
  · obtain ⟨-, -, -, -, -, -, -, hadc, -⟩ := h
    exact congrArg (·.ptest) hadc
  · rw [h]

/-- The mean of a path test's samples at a place, rounded half up (log 56). -/
def pathMean (p : PathRun) (i : Fin 4) : Int := (p.sums[i] + (2 ^ p.k.toNat / 2 : Nat)) / (2 ^ p.k.toNat : Nat)

/-- The result registers of a path test. -/
def pathResult (p : PathRun) (v : BitVec 6) : PathResult :=
  { chan := p.chan, inject := p.inject, verdict := v, meanA := BitVec.ofInt 16 (pathMean p 0)
    meanB := BitVec.ofInt 16 (pathMean p 2), nmeanA := BitVec.ofInt 16 (pathMean p 1)
    nmeanB := BitVec.ofInt 16 (pathMean p 3) }

/-- A test ends with a verdict: its result stands, and event 0x54 is raised but for PASS. -/
def pathEnded (p : PathRun) (v : BitVec 6) (s : State) : State :=
  let w := endPath p (s.upAdc fun a => { a with pt := pathResult p v })
  if hasBit v 0 = true then w else raise 0x54 (srcId 0x3 0x4 0 0 0) 0 w

/-- RESULT of a test (R82). -/
def pathWord (p : PathRun) (v : BitVec 6) : Nat :=
  (BitVec.ofInt 16 (pathMean p 0)).toNat + (BitVec.ofInt 16 (pathMean p 2)).toNat * 65536 + v.toNat * 2 ^ 32

/-- The verdict of a test's means for a step ratio, with its first expected VALUE and the expected step. -/
def pathVerdict (p : PathRun) (k : Rat) (e step : Int) : BitVec 6 :=
  verdict p.inject k (decide (64 < (pathMean p 0 - e).natAbs))
    (decide (step.natAbs ≤ 2 * (pathMean p 3 - pathMean p 1).natAbs))

theorem PathRun.full_iff (p : PathRun) :
    p.full = true ↔ p.atB = true ∧ 2 ^ p.k.toNat ≤ p.n[2] ∧ 2 ^ p.k.toNat ≤ p.n[3] := by
  unfold PathRun.full
  rw [Bool.and_eq_true, Bool.and_eq_true, decide_eq_true_eq, decide_eq_true_eq, and_assoc]

theorem exec_pathTestDone {before : State} {p : PathRun} (hp : (land before).adc.ptest = some p)
    (hfull : p.full = true) :
    let s := land before
    let e := expectedAt s.cfg p.chan.toNat p.a.toNat
    let step := expectedAt s.cfg p.chan.toNat p.b.toNat - e
    let k : Rat := if step = 0 then ((takeFree s).1.toInt : Rat) else ((pathMean p 2 - pathMean p 0 : Int) : Rat) / (step : Rat)
    exec .pathTestDone before = .next (complete p.ring 0 (pathWord p (pathVerdict p k e step))
      (pathEnded p (pathVerdict p k e step) (if step = 0 then (takeFree s).2 else s))) := by
  have hmean : ∀ i : Fin 4, (p.sums[i] + (2 ^ p.k.toNat / 2 : Int)) / (2 ^ p.k.toNat : Int) = pathMean p i := by
    intro i
    rw [pathMean]
    push_cast
    rfl
  intro s e step k
  show Host.Outcome.next _ = _
  dsimp only
  rw [hp]
  dsimp only
  rw [hfull]
  simp only [Bool.not_true, Bool.false_eq_true, if_false, hmean]
  rfl

theorem pathEnded_raised (p : PathRun) (v : BitVec 6) (s : State) :
    let w := endPath p (s.upAdc fun a => { a with pt := pathResult p v })
    if hasBit v 0 = true then pathEnded p v s = w else Raised 0x54 w (pathEnded p v s) := by
  intro w
  unfold pathEnded
  split
  · rfl
  · exact raise_raised _ _ _ _ (by decide)

theorem endPath_ptest (p : PathRun) (s : State) : (endPath p s).adc.ptest = none := rfl

theorem endPath_freeCount (p : PathRun) (s : State) : (endPath p s).freeCount = s.freeCount := rfl

theorem pathEnded_frees (p : PathRun) (v : BitVec 6) (s : State) :
    (pathEnded p v s).adc.ptest = none ∧ (pathEnded p v s).freeCount = s.freeCount := by
  have hnone := endPath_ptest p (s.upAdc fun a => { a with pt := pathResult p v })
  have hcount := endPath_freeCount p (s.upAdc fun a => { a with pt := pathResult p v })
  rw [State.upAdc_freeCount] at hcount
  unfold pathEnded
  dsimp only
  generalize endPath p (s.upAdc fun a => { a with pt := pathResult p v }) = w at hnone hcount ⊢
  split
  · exact ⟨hnone, hcount⟩
  · have h : Raised 0x54 w (raise 0x54 (srcId 0x3 0x4 0 0 0) 0 w) := raise_raised _ _ _ _ (by decide)
    exact ⟨h.ptest.trans hnone, h.freeCount.trans hcount⟩

/-! ## The end of a test's hold on the test DAC (R83) -/

theorem SameTour.map {f : Tour → Tour} (h : ∀ t, { f t with startSlot := 0 } = { t with startSlot := 0 })
    (a : Option Tour) : SameTour a (a.map f) := by
  cases a with
  | none => rfl
  | some t => exact congrArg some (h t)

/-- A calibration goes on after a pause: only its start moves. -/
theorem resumeCal_tours (since : Nat) (s : State) :
    SameTour s.adc.tour (resumeCal since s).adc.tour ∧ SameTour s.adc.pitch (resumeCal since s).adc.pitch := by
  refine ⟨SameTour.map ?_ _, SameTour.map ?_ _⟩ <;>
  · intro t
    dsimp only
    split <;> rfl

theorem resumeCal_tour {since : Nat} {s : State} {x : Tour} (hx : s.adc.tour = some x) (hcal : x.calDone = false)
    (hstart : x.startSlot ≤ since) :
    (resumeCal since s).adc.tour = some { x with startSlot := x.startSlot + (s.clk.slot - since) } := by
  unfold resumeCal
  simp only [State.upAdc_adc, hx, Option.map_some, hcal, Bool.false_eq_true, if_false, Nat.max_eq_left hstart]

theorem endPath_frees (p : PathRun) (s : State) : let t := endPath p s
    t.adc.ptest = none ∧ t.adc.taken = s.adc.taken.filter (fun x => x.use != .ptest) ∧ t.adc.pt = s.adc.pt ∧
      SameTour s.adc.tour t.adc.tour ∧ SameTour s.adc.pitch t.adc.pitch ∧ t.flt = s.flt ∧
      ∀ x, s.adc.tour = some x → x.calDone = false → x.startSlot ≤ p.since → p.since ≤ s.clk.slot →
        t.adc.tour = some { x with startSlot := x.startSlot + (s.clk.slot - p.since) } := by
  obtain ⟨htour, hpitch⟩ := resumeCal_tours p.since s
  exact ⟨rfl, rfl, rfl, htour, hpitch, rfl, fun x hx hcal hstart _ => resumeCal_tour hx hcal hstart⟩

/-! ## The verdict (R82) -/

/-- Six truth values as the bits of a number. -/
theorem getLsbD_bits (a b c d e f : Bool) :
    let v := BitVec.ofNat 6 (bit a + 2 * bit b + 4 * bit c + 8 * bit d + 16 * bit e + 32 * bit f)
    v.getLsbD 0 = a ∧ v.getLsbD 1 = b ∧ v.getLsbD 2 = c ∧ v.getLsbD 3 = d ∧ v.getLsbD 4 = e ∧ v.getLsbD 5 = f := by
  revert a b c d e f
  decide

theorem verdict_bits (inject offset mux : Bool) (k : Rat) :
    let v := verdict inject k offset mux
    (v.getLsbD 1 = true ↔ inject = true ∧ 9 / 10 ≤ k) ∧
    (v.getLsbD 2 = true ↔ inject = true ∧ 12 / 100 < k ∧ k < 9 / 10) ∧
    (v.getLsbD 3 = true ↔ inject = false ∧ (k < 99 / 100 ∨ 101 / 100 < k)) ∧
    (v.getLsbD 4 = true ↔ inject = false ∧ offset = true) ∧
    (v.getLsbD 5 = true ↔ inject = false ∧ (k < 1 / 2 ∨ mux = true)) ∧
    (v.getLsbD 0 = true ↔ v.getLsbD 1 = false ∧ v.getLsbD 2 = false ∧ v.getLsbD 3 = false ∧
      v.getLsbD 4 = false ∧ v.getLsbD 5 = false) := by
  obtain ⟨hpass, hopen, hpart, hgain, hoff, hmux⟩ := getLsbD_bits
    (!((inject && decide (9 / 10 ≤ k)) || (inject && decide (12 / 100 < k) && decide (k < 9 / 10)) ||
      (!inject && (decide (k < 99 / 100) || decide (101 / 100 < k))) || (!inject && offset) ||
      (!inject && (decide (k < 1 / 2) || mux))))
    (inject && decide (9 / 10 ≤ k)) (inject && decide (12 / 100 < k) && decide (k < 9 / 10))
    (!inject && (decide (k < 99 / 100) || decide (101 / 100 < k))) (!inject && offset)
    (!inject && (decide (k < 1 / 2) || mux))
  intro v
  have hv0 : v.getLsbD 0 = _ := hpass
  have hv1 : v.getLsbD 1 = _ := hopen
  have hv2 : v.getLsbD 2 = _ := hpart
  have hv3 : v.getLsbD 3 = _ := hgain
  have hv4 : v.getLsbD 4 = _ := hoff
  have hv5 : v.getLsbD 5 = _ := hmux
  rw [hv0, ← hv1, ← hv2, ← hv3, ← hv4, ← hv5]
  refine ⟨?_, ?_, ?_, ?_, ?_, ?_⟩
  · rw [hv1, Bool.and_eq_true, decide_eq_true_eq]
  · rw [hv2, Bool.and_eq_true, Bool.and_eq_true, decide_eq_true_eq, decide_eq_true_eq, and_assoc]
  · rw [hv3, Bool.and_eq_true, Bool.or_eq_true, decide_eq_true_eq, decide_eq_true_eq, Bool.not_eq_true']
  · rw [hv4, Bool.and_eq_true, Bool.not_eq_true']
  · rw [hv5, Bool.and_eq_true, Bool.or_eq_true, decide_eq_true_eq, Bool.not_eq_true']
  · simp only [Bool.not_eq_true', Bool.or_eq_false_iff, and_assoc]

/-- Settles O26: the request by its checks in their order, the end of a test by the two codes it had, and the verdict
bit by bit. -/
theorem pathTests : Obligations.PathTests := by
  unfold Obligations.PathTests
  refine ⟨fun s q d c hr hc => ?_, fun before => ?_, endPath_frees, verdict_bits⟩
  · obtain ⟨t, hexec, ht⟩ := adcPathTest_answered hr hc
    refine ⟨t, hexec, ?_⟩
    iterate 4
      split at ht <;> rename_i hcase
      · rw [if_pos hcase]
        exact ht
      rw [if_neg hcase]
    exact ⟨booksWithout (BitVec.ofNat 7 c.val) s, dacFreed s, rfl, ht, rfl⟩
  intro s
  refine ⟨?_, ?_⟩
  · intro p hp hatB h2 h3 hne m e step v
    have hstep : step ≠ 0 := sub_ne_zero.mpr hne
    refine ⟨pathEnded p v s, ?_, pathEnded_raised p v s⟩
    have hexec := exec_pathTestDone hp (p.full_iff.mpr ⟨hatB, h2, h3⟩)
    dsimp only at hexec
    rw [if_neg hstep, if_neg hstep] at hexec
    exact hexec
  · intro p hp hatB h2 h3 heq
    have hstep : expectedAt s.cfg p.chan.toNat p.b.toNat - expectedAt s.cfg p.chan.toNat p.a.toNat = 0 :=
      sub_eq_zero.mpr heq
    have hexec := exec_pathTestDone hp (p.full_iff.mpr ⟨hatB, h2, h3⟩)
    dsimp only at hexec
    rw [if_pos hstep, if_pos hstep] at hexec
    obtain ⟨hnone, hcount⟩ := pathEnded_frees p _ (takeFree s).2
    exact ⟨_, _, hexec, hnone, hcount⟩

end Sys2Proof.Machine
end

section
/-!
The slices (O27): SLICE_ADMIT, the failure of a slice, calibration, shadow windows and rotation.
-/

namespace Sys2Proof.Machine

/-! ## SLICE_ADMIT (R55) -/

/-- A slice that is being pitched. -/
def pitched (q : Ring) (n : SliceNo) (s : State) : State :=
  (s.upSlice n fun a => { a with state := .pitching, good := 0, mon := 0 }).upAdc fun a =>
    { a with admission := some q, pitch := some (newTour s n) }

theorem sliceAdmit_answered {q : Ring} {s : State} {d : Desc} {n : SliceNo} (hr : ready s q 0x15 = some d)
    (hn : d.pf 0 5 ≤ 16 → d.pf 0 5 = n.val) :
    ∃ t, exec (.sliceAdmit q) s = .next t ∧
      if 16 < d.pf 0 5 then Ends q 0x0102 0 s t
      else match s.adc.slices[n].state with
      | .service => Ends q 0 0 s t
      | .steep => Ends q 0 0 s t
      | .pitching => Ends q 0x0104 0 s t
      | .off => Ends q 0x0105 0 s t
      | .failed =>
        if domOn s (sliceDom n) = false ∨ s.adc.pitch ≠ none then Ends q 0x0105 0 s t
        else Waits q true (pitched q n s) t := by
  obtain ⟨e, he, -⟩ := ready_some hr
  refine ⟨_, exec_of_ready rfl hr, ?_⟩
  dsimp only
  by_cases hbig : 16 < d.pf 0 5
  · rw [if_pos hbig, dif_neg (by omega)]
    exact complete_ends _ _ he
  have hlt : d.pf 0 5 < 17 := by omega
  obtain rfl : n = ⟨d.pf 0 5, hlt⟩ := Fin.ext (hn (by omega)).symm
  rw [if_neg hbig, dif_pos hlt]
  cases hstate : s.adc.slices[(⟨d.pf 0 5, hlt⟩ : SliceNo)].state with
  | service => exact complete_ends _ _ he
  | steep => exact complete_ends _ _ he
  | pitching => exact complete_ends _ _ he
  | off => exact complete_ends _ _ he
  | failed =>
    dsimp only
    have hcond : (!domOn s (sliceDom ⟨d.pf 0 5, hlt⟩) || s.adc.pitch.isSome) = true ↔
        domOn s (sliceDom ⟨d.pf 0 5, hlt⟩) = false ∨ s.adc.pitch ≠ none := by
      rw [Bool.or_eq_true, Bool.not_eq_true', Option.isSome_iff_ne_none]
    by_cases hbusy : domOn s (sliceDom ⟨d.pf 0 5, hlt⟩) = false ∨ s.adc.pitch ≠ none
    · rw [if_pos hbusy, if_pos (hcond.mpr hbusy)]
      exact complete_ends _ _ he
    · rw [if_neg hbusy, if_neg (hcond.not.mpr hbusy)]
      exact act_waits (s := pitched q _ s) he

/-! ## A slice fails (R53, R54) -/

/-- The slices and the pending events, which the replacement of a slice leaves alone. -/
def slicesAndPends (s : State) : Vector Slice 17 × BitVec 128 := (s.adc.slices, s.flt.pend)

theorem claim_slices (p : Pos) (s : State) : slicesAndPends (claim p s) = slicesAndPends s := by
  unfold claim
  split <;> rfl

theorem replaceSlice_slices (n : SliceNo) (s : State) : slicesAndPends (replaceSlice n s) = slicesAndPends s := by
  unfold replaceSlice
  split
  · rfl
  · split
    · exact claim_slices ..
    · split <;> rfl

theorem endSliceAdmit_slices (code : Nat) (s : State) : slicesAndPends (endSliceAdmit code s) = slicesAndPends s := by
  unfold endSliceAdmit
  split
  · rw [complete_frame]
    rfl
  · rfl

theorem Raised.slices {e : Nat} {s t : State} (h : Raised e s t) : t.adc.slices = s.adc.slices := by
  unfold Raised at h
  split at h
  · obtain ⟨-, -, -, -, -, -, -, hadc, -⟩ := h
    exact congrArg (·.slices) hadc
  · rw [h]

theorem Raised.pend {e : Nat} {s t : State} (h : Raised e s t) (hf : domOn s pdFab = true) :
    hasBit t.flt.pend e = true := by
  rw [Raised, if_pos hf] at h
  exact h.1

/-- A slice declared failed, before anything takes its place. -/
def sliceFailed (n : SliceNo) (s : State) : State :=
  staleUnbuilt (fun sl _ => sl == n)
    (raise 0x50 (sliceSrc n) 0 (s.upSlice n fun a => { a with state := .failed, mon := 0, good := 0 }))

theorem sliceFails_slices (n : SliceNo) (s : State) :
    slicesAndPends (sliceFails n s) = slicesAndPends (sliceFailed n s) := by
  unfold sliceFails
  dsimp only
  split
  · exact replaceSlice_slices ..
  · rfl
  · exact (endSliceAdmit_slices ..).trans rfl
  · rfl
  · rfl

theorem sliceFails_fails (n : SliceNo) {s : State} (hf : domOn s pdFab = true) :
    hasBit (sliceFails n s).flt.pend 0x50 = true ∧ (sliceFails n s).adc.slices[n].state = .failed := by
  have hraised : Raised 0x50 (s.upSlice n fun a => { a with state := .failed, mon := 0, good := 0 })
      (raise 0x50 (sliceSrc n) 0 (s.upSlice n fun a => { a with state := .failed, mon := 0, good := 0 })) :=
    raise_raised _ _ _ _ (by decide)
  have hsame := sliceFails_slices n s
  obtain ⟨hslices, hpend⟩ := Prod.mk.inj hsame
  constructor
  · rw [hpend]
    exact hraised.pend hf
  · rw [hslices]
    have hset : (sliceFailed n s).adc.slices = vmod s.adc.slices n fun a => { a with state := .failed, mon := 0, good := 0 } :=
      hraised.slices
    rw [hset, vmod_same]

theorem sliceFail_fails {sl : SliceNo} {s : State} (hf : domOn s pdFab = true)
    (hmon : 4 ≤ countBits s.adc.slices[sl].mon) (hstate : s.adc.slices[sl].state = .service ∨
      s.adc.slices[sl].state = .steep ∨ s.adc.slices[sl].state = .pitching) :
    ∃ u, exec (.sliceFail sl) s = .next u ∧ hasBit u.flt.pend 0x50 = true ∧ u.adc.slices[sl].state = .failed := by
  refine ⟨sliceFails sl s, ?_, sliceFails_fails sl hf⟩
  refine congrArg Host.Outcome.next (if_pos ?_)
  rw [Bool.and_eq_true, Bool.or_eq_true, Bool.or_eq_true, beq_iff_eq, beq_iff_eq, beq_iff_eq, or_assoc,
    decide_eq_true_eq]
  exact ⟨hmon, hstate⟩

/-! ## Tours -/

theorem tourOf_tour {s : State} {t : Tour} {sl : SliceNo} (ht : s.adc.tour = some t) (hs : t.slice = sl) :
    tourOf s sl = some t := by
  simp [tourOf, ht, hs]

theorem tourOf_pitch {s : State} {t : Tour} {sl : SliceNo} (ht : s.adc.pitch = some t) (hs : t.slice = sl)
    (hother : ∀ x, s.adc.tour = some x → x.slice ≠ sl) : tourOf s sl = some t := by
  have hnone : s.adc.tour.filter (fun x => x.slice == sl) = none := by
    rw [Option.filter_eq_none_iff]
    intro x hx
    simp [hother x hx]
  rw [tourOf, hnone, ht]
  simp [hs]

/-- The conversions of a slice's work can have been made (log 54). -/
def workDone (s : State) (t : Tour) (n : Nat) : Prop := t.startSlot + n * (if s.cfg.lpm then 64 else 16) ≤ s.clk.slot

section Tour
variable {s : State} {t : Tour} {sl : SliceNo}

theorem exec_calibrationDone (ht : tourOf s sl = some t) (hclaim : t.claimed = none) (hplan : plannerOn s = true)
    (hcal : t.calDone = false) (hdac : dacTaken s = false) (hdone : workDone s t 32768) (cal : AbsCal) :
    exec (.steepAbsoluteCalibrationDone sl cal) s = .next (match absResult s.adc.ccal[(0x63 : Fin 104)] cal with
      | none => sliceFails sl s
      | some r => putTour { t with calDone := true, startSlot := s.clk.slot } (s.upSlice sl fun a =>
          { a with ofs := r.1, gain := r.2, calAt := s.clk.slot, calOk := true })) := by
  have hgo : ¬ (t.calDone || t.claimed.isSome || dacTaken s || !plannerOn s ||
      decide (s.clk.slot < t.startSlot + sliceSlots s.cfg 32768)) = true := by
    have hslots : ¬ s.clk.slot < t.startSlot + sliceSlots s.cfg 32768 := Nat.not_lt.mpr hdone
    simp [hcal, hclaim, hdac, hplan, hslots]
  show Host.Outcome.next _ = _
  dsimp only
  rw [ht]
  dsimp only
  rw [if_neg hgo]
  rfl

theorem exec_shadowWindowEnd (ht : tourOf s sl = some t) (hclaim : t.claimed = none) (hplan : plannerOn s = true)
    (hcal : t.calDone = true) (hdone : workDone s t 4096) (hsteep : s.adc.slices[sl].state = .steep) {p : Pos}
    (hpos : shadowPos s t = some p) (pairs : List ShadowPair) :
    exec (.shadowWindowEnd ⟨sl, pairs⟩) s = .next (steepWindow t p pairs s) := by
  have hgo : ¬ (!t.calDone || t.claimed.isSome || !plannerOn s ||
      decide (s.clk.slot < t.startSlot + sliceSlots s.cfg 4096)) = true := by
    have hslots : ¬ s.clk.slot < t.startSlot + sliceSlots s.cfg 4096 := Nat.not_lt.mpr hdone
    simp [hcal, hclaim, hplan, hslots]
  have hnot : ¬ (s.adc.slices[sl].state == .pitching) = true := by
    rw [hsteep]
    decide
  show Host.Outcome.next _ = _
  dsimp only
  rw [ht]
  dsimp only
  rw [if_neg hgo, if_neg hnot, hpos]

/-- The tour after a window at a position (R51). -/
def windowed (t : Tour) (p : Pos) (slot : Nat) : Tour :=
  { t with windows := if t.windows.val < 16 then t.windows + 1 else 16, startSlot := slot
           lastOn := if t.windows.val < 16 then none else some p }

theorem steepWindow_judges {p : Pos} {n : SliceNo} {pairs : List ShadowPair} (hn : s.adc.slotmap[p] = n)
    (hpairs : pairs ≠ []) (hserves : s.adc.slices[n].state = .service) (hmask : hasBit s.adc.mask p.val = false) :
    steepWindow t p pairs s = judge n (estimate 1 pairs) (putTour (windowed t p s.clk.slot) s) := by
  subst hn
  have hgo : ¬ (pairs.isEmpty || s.adc.slices[s.adc.slotmap[p]].state != .service || hasBit s.adc.mask p.val) = true := by
    rw [hserves, hmask, List.isEmpty_eq_false_iff.mpr hpairs]
    decide
  exact if_neg hgo

theorem judge_within {n : SliceNo} {e : Estimate} (h : beyond s.adc.slices[n] e = false) :
    judge n e s = s.upSlice n fun a => correct a e :=
  if_neg (by rw [h]; decide)

theorem judge_beyond {n : SliceNo} {e : Estimate} (h : beyond s.adc.slices[n] e = true) :
    judge n e s = sliceFails n s := if_pos h

/-! ## Rotation (R50, R51) -/

theorem boundaryFor_after (s : State) (p : Pos) : s.clk.slot + 16 ≤ boundaryFor s p := by
  unfold boundaryFor ceilDiv
  dsimp only
  split <;> omega

theorem boundaryFor_pos (s : State) (p : Pos) : (boundaryFor s p / (if s.cfg.lpm then 4 else 1)) % 16 = p.val := by
  have hp := p.isLt
  unfold boundaryFor ceilDiv
  dsimp only
  split <;> omega

theorem steepFree_of_tour (ht : s.adc.tour = some t) (hsteep : s.adc.slices[t.slice].state = .steep)
    (hclaim : t.claimed = none) : steepFree s = some t := by
  unfold steepFree
  rw [ht]
  dsimp only
  rw [hsteep, hclaim]
  rfl

/-- The marker that gives the slice in steep a position. -/
def claimMarker (p : Pos) (t : Tour) (s : State) : Marker :=
  { markerOf .slotPlan tagArray .internal none [.adc]
      [.slotMap (vput (nextMap s).1 p t.slice) (putBit (nextMap s).2 p.val false)] with
    bstamp := some (boundaryFor s p) }

theorem claim_joins {p : Pos} (ht : s.adc.tour = some t) :
    Joined [claimMarker p t s] (s.upAdc fun a => { a with tour := some { t with claimed := some p } }) (claim p s) := by
  unfold claim
  rw [ht]
  exact push_joined _ _

theorem exec_rotation {p : Pos} (ht : s.adc.tour = some t) (hsteep : s.adc.slices[t.slice].state = .steep)
    (hclaim : t.claimed = none) (hen : s.cfg.roten = true) (htour : 16 ≤ t.windows.val)
    (hok : s.adc.slices[t.slice].calOk = true) (htest : s.adc.ptest = none)
    (hdue : s.adc.rotAt + s.cfg.rotper * 256000 ≤ s.clk.slot) (hplan : plannerOn s = true)
    (hold : oldestPos s = some p) (hlast : t.lastOn = some p) :
    exec .rotation s = .next (claim p (s.upAdc fun a => { a with rotAt := s.clk.slot })) := by
  have hgo : ¬ (!s.cfg.roten || decide (t.windows.val < 16) || !s.adc.slices[t.slice].calOk || s.adc.ptest.isSome ||
      !rotationDue s || !plannerOn s) = true := by
    have hnow : rotationDue s = true := decide_eq_true hdue
    rw [hok]
    simp [hen, htour, htest, hnow, hplan]
  show Host.Outcome.next _ = _
  rw [steepFree_of_tour ht hsteep hclaim]
  dsimp only
  rw [if_neg hgo, hold]
  exact congrArg Host.Outcome.next (if_pos (by rw [hlast]; exact beq_self_eq_true _))

end Tour

/-- Settles O27: the request by the state of its slice, each end of a slice's work by what it finds, and each failure
through the one lemma that says what it leaves. -/
theorem slicePool : Obligations.SlicePool := by
  unfold Obligations.SlicePool
  refine ⟨fun q s d n hr hn => sliceAdmit_answered hr hn, fun s t sl =>
    ⟨sliceFail_fails, tourOf_tour, tourOf_pitch, fun ht hclaim hfab hlock hadc => ?_, ?_⟩⟩
  · have hplan : plannerOn s = true := by
      rw [plannerOn, hfab, hlock, show domOn s pdAdc1 = true from hadc]
      rfl
    refine ⟨fun cal hcal hdac hdone r hres => ?_, fun cal hcal hdac hdone hres => ?_,
      fun pairs p n hcal hdone hpos hn hpairs hsteep hserves hmask => ?_⟩
    · rw [exec_calibrationDone ht hclaim hplan hcal hdac hdone, hres]
    · rw [exec_calibrationDone ht hclaim hplan hcal hdac hdone, hres]
      exact ⟨_, rfl, sliceFails_fails sl hfab⟩
    · refine ⟨_, exec_shadowWindowEnd ht hclaim hplan hcal hdone hsteep hpos pairs, ?_⟩
      rw [steepWindow_judges hn hpairs hserves hmask]
      refine ⟨fun h => judge_within h, fun h => ?_⟩
      rw [judge_beyond (s := putTour (windowed t p s.clk.slot) s) h]
      exact sliceFails_fails n hfab
  · intro p ht hsteep hclaim hen htour hok htest hdue hfab hlock hadc hold hlast
    have hplan : plannerOn s = true := by
      rw [plannerOn, hfab, hlock, show domOn s pdAdc1 = true from hadc]
      rfl
    exact ⟨_, _, exec_rotation ht hsteep hclaim hen htour hok htest hdue hplan hold hlast, claim_joins ht, rfl, rfl, rfl,
      boundaryFor s p, rfl, boundaryFor_after s p, boundaryFor_pos s p, rfl⟩

end Sys2Proof.Machine
end

section
/-!
The slots of the converter array (O23): the arbiter of the loop lane, one conversion slot, and the requests that are
skipped.
-/

namespace Sys2Proof.Machine

/-! ## The arbiter (R60) -/

/-- The first request of a list comes before the others in the arbiter's order. -/
def LeastFirst (g : Setup) (xs : List LaneDue) : Prop := ∀ x ∈ xs.head?, ∀ y ∈ xs, laneKey g x ≤ laneKey g y

theorem mem_laneInsert {g : Setup} {d x : LaneDue} {xs : List LaneDue} : x ∈ laneInsert g d xs ↔ x = d ∨ x ∈ xs := by
  induction xs with
  | nil => simp [laneInsert]
  | cons e es ih =>
    unfold laneInsert
    split
    · exact List.mem_cons
    · rw [List.mem_cons, ih, List.mem_cons]
      exact or_left_comm

theorem leastFirst_laneInsert {g : Setup} (d : LaneDue) {xs : List LaneDue} (h : LeastFirst g xs) :
    LeastFirst g (laneInsert g d xs) := by
  cases xs with
  | nil =>
    intro x hx y hy
    simp only [laneInsert, List.head?_cons, Option.mem_def, Option.some.injEq, List.mem_singleton] at hx hy
    rw [← hx, hy]
  | cons e es =>
    have he : ∀ y ∈ e :: es, laneKey g e ≤ laneKey g y := h e rfl
    unfold laneInsert
    split
    · rename_i hlt
      rintro x ⟨⟩ y hy
      rcases List.mem_cons.mp hy with rfl | hy
      · exact le_rfl
      · exact hlt.le.trans (he y hy)
    · rename_i hge
      rintro x ⟨⟩ y hy
      rcases List.mem_cons.mp hy with rfl | hy
      · exact le_rfl
      · rcases mem_laneInsert.mp hy with rfl | hy
        · exact Nat.le_of_not_lt hge
        · exact he y (List.mem_cons_of_mem _ hy)

/-- The requests of a list in the arbiter's order, behind those already placed. -/
def laneSort (g : Setup) (xs acc : List LaneDue) : List LaneDue := xs.foldl (fun xs d => laneInsert g d xs) acc

theorem mem_laneSort {g : Setup} {x : LaneDue} {xs acc : List LaneDue} : x ∈ laneSort g xs acc ↔ x ∈ xs ∨ x ∈ acc := by
  induction xs generalizing acc with
  | nil => simp [laneSort]
  | cons d ds ih =>
    refine (ih (acc := laneInsert g d acc)).trans ?_
    rw [mem_laneInsert, List.mem_cons]
    tauto

theorem leastFirst_laneSort {g : Setup} (xs : List LaneDue) {acc : List LaneDue} (h : LeastFirst g acc) :
    LeastFirst g (laneSort g xs acc) := by
  induction xs generalizing acc with
  | nil => exact h
  | cons d ds ih => exact ih (leastFirst_laneInsert d h)

section Pick
variable {s : State} {may : LaneDue → Bool}

theorem mem_ordered {x : LaneDue} : x ∈ laneSort s.cfg (s.adc.due.filter may) [] ↔ x ∈ s.adc.due ∧ may x = true := by
  rw [mem_laneSort, List.mem_filter, or_iff_left List.not_mem_nil]

theorem pickLane_eq : pickLane s may = (laneSort s.cfg (s.adc.due.filter may) []).head? := rfl

theorem pickLane_none_iff : pickLane s may = none ↔ ∀ d ∈ s.adc.due, may d = false := by
  rw [pickLane_eq, List.head?_eq_none_iff, List.eq_nil_iff_forall_not_mem]
  simp only [mem_ordered, not_and, Bool.not_eq_true]

theorem pickLane_some {d : LaneDue} (h : pickLane s may = some d) :
    d ∈ s.adc.due ∧ may d = true ∧ ∀ e ∈ s.adc.due, may e = true → laneKey s.cfg d ≤ laneKey s.cfg e := by
  rw [pickLane_eq] at h
  obtain ⟨hmem, hmay⟩ := mem_ordered.mp (List.mem_of_mem_head? h)
  have hleast : LeastFirst s.cfg (laneSort s.cfg (s.adc.due.filter may) []) :=
    leastFirst_laneSort _ fun x hx => absurd hx (by simp)
  exact ⟨hmem, hmay, fun e he hm => hleast d h e (mem_ordered.mpr ⟨he, hm⟩)⟩

end Pick

/-- What the arbiter's order says of two requests (R60). -/
theorem served_first_of_laneKey_le {g : Setup} {d e : LaneDue} (h : laneKey g d ≤ laneKey g e) :
    d.due < e.due ∨ (d.due = e.due ∧
      match d.req, e.req with
      | .error r _, .error r' _ => r.val ≤ r'.val
      | .error _ _, .current _ _ => True
      | .current _ _, .error _ _ => False
      | .current h _, .current h' _ => (railOf g h).val < (railOf g h').val ∨
          (railOf g h = railOf g h' ∧ h.val ≤ h'.val)) := by
  obtain ⟨a, x⟩ := d
  obtain ⟨b, y⟩ := e
  cases a with
  | error r k =>
    cases b with
    | error r' k' =>
      have := r.isLt
      have := r'.isLt
      simp only [laneKey] at h ⊢
      omega
    | current p j =>
      have := r.isLt
      have := (railOf g p).isLt
      have := p.isLt
      simp only [laneKey, and_true] at h ⊢
      omega
  | current p j =>
    have := (railOf g p).isLt
    have := p.isLt
    cases b with
    | error r' k' =>
      have := r'.isLt
      simp only [laneKey, and_false, or_false] at h ⊢
      omega
    | current p' j' =>
      have := (railOf g p').isLt
      have := p'.isLt
      simp only [laneKey, Fin.ext_iff] at h ⊢
      omega

/-! ## Requests fall due (R59, R73) -/

theorem dueSlot_eq (g : Setup) (x : Nat) : dueSlot g x = if g.lpm = true then 4 * ((x + 255) / 256) else (x + 63) / 64 := by
  unfold dueSlot ceilDiv
  split
  · rw [show x + 256 - 1 = x + 255 from by omega]
  · rw [show x + 64 - 1 = x + 63 from by omega]

section Slot
variable (s : State)

/-- The samples that have been formed have joined their work, and the slot's requests fall due. -/
def slotBegun : State := fallDue (land s)

theorem slotBegun_frame : slotBegun s = { s with adc := { s.adc with
    targets := (slotBegun s).adc.targets, due := (slotBegun s).adc.due, taken := (slotBegun s).adc.taken
    cal := (slotBegun s).adc.cal, ptest := (slotBegun s).adc.ptest } } := rfl

theorem slotBegun_taken : (slotBegun s).adc.taken = s.adc.taken.filter fun x =>
    !((x.use == .cal || x.use == .ptest) && decide (x.built ≤ s.clk.slot)) := by
  refine List.filter_congr fun x _ => ?_
  show (!(x.use == .cal && decide (x.built ≤ s.clk.slot)) && !(x.use == .ptest && decide (x.built ≤ s.clk.slot))) = _
  cases x.use == .cal <;> cases x.use == .ptest <;> cases decide (x.built ≤ s.clk.slot) <;> rfl

variable {s}

theorem due_slotBegun {d : LaneDue} (h : d ∈ s.adc.due) : d ∈ (slotBegun s).adc.due := List.mem_append_left _ h

theorem target_slotBegun {g : LaneTarget} (h : g ∈ s.adc.targets) :
    if dueSlot s.cfg g.instant ≤ s.clk.slot then { req := g.req, due := dueSlot s.cfg g.instant } ∈ (slotBegun s).adc.due
    else g ∈ (slotBegun s).adc.targets := by
  split
  · rename_i hdue
    exact List.mem_append_right _ (List.mem_map.mpr ⟨g, List.mem_filter.mpr ⟨h, decide_eq_true hdue⟩, rfl⟩)
  · rename_i hnot
    refine List.mem_filter.mpr ⟨h, ?_⟩
    show (!decide (dueSlot s.cfg g.instant ≤ s.clk.slot)) = true
    rw [decide_eq_false hnot]
    rfl

/-! ## The slices outside service (R48, R52) -/

theorem monitor_eq (n : SliceNo) (flagged : Bool) : monitor n flagged s =
    s.upSlice n fun a => { a with mon := (a.mon <<< 1) ||| (if flagged = true then 1 else 0) } := by
  cases flagged <;> rfl

theorem monitor_calAt (n k : SliceNo) (flagged : Bool) :
    (monitor n flagged s).adc.slices[k].calAt = s.adc.slices[k].calAt := by
  simp only [monitor_eq, State.upSlice, State.upAdc_adc]
  by_cases h : n = k
  · rw [h, vmod_same]
  · rw [vmod_other _ _ h]

/-- A state with the same positions and calibration slots has the same oldest position. -/
theorem oldestPos_congr {t : State} (hmap : t.adc.slotmap = s.adc.slotmap) (hmask : t.adc.mask = s.adc.mask)
    (hcal : ∀ k : SliceNo, t.adc.slices[k].calAt = s.adc.slices[k].calAt) : oldestPos t = oldestPos s := by
  unfold oldestPos
  simp only [hmap, hmask, hcal]

theorem shadowPos_congr {t : State} (hmap : t.adc.slotmap = s.adc.slotmap) (hmask : t.adc.mask = s.adc.mask)
    (hcal : ∀ k : SliceNo, t.adc.slices[k].calAt = s.adc.slices[k].calAt) (x : Tour) : shadowPos t x = shadowPos s x := by
  unfold shadowPos
  rw [oldestPos_congr hmap hmask hcal]

theorem shadowMonitor_some (t : Tour) (p : Pos) (flagged : Bool) :
    shadowMonitor (some t) p flagged s = if shadowPos s t = some p then monitor t.slice flagged s else s := by
  simp only [shadowMonitor, beq_iff_eq]

theorem shadowMonitor_frame (t : Option Tour) (p : Pos) (flagged : Bool) : shadowMonitor t p flagged s =
    { s with adc := { s.adc with slices := (shadowMonitor t p flagged s).adc.slices } } := by
  cases t with
  | none => rfl
  | some t =>
    rw [shadowMonitor_some]
    split <;> rfl

theorem shadowMonitor_calAt (t : Option Tour) (p : Pos) (flagged : Bool) (k : SliceNo) :
    (shadowMonitor t p flagged s).adc.slices[k].calAt = s.adc.slices[k].calAt := by
  cases t with
  | none => rfl
  | some t =>
    rw [shadowMonitor_some]
    split
    · exact monitor_calAt ..
    · rfl

theorem shadowMonitor_other {t : Option Tour} {p : Pos} {flagged : Bool} {k : SliceNo}
    (h : ∀ x, t = some x → x.slice ≠ k) : (shadowMonitor t p flagged s).adc.slices[k] = s.adc.slices[k] := by
  cases t with
  | none => rfl
  | some t =>
    rw [shadowMonitor_some]
    split
    · rw [monitor_eq]
      exact vmod_other _ _ (h t rfl)
    · rfl

theorem shadowMonitor_own (t : Tour) (p : Pos) (flagged : Bool) :
    (shadowMonitor (some t) p flagged s).adc.slices[t.slice] =
      if shadowPos s t = some p then
        { s.adc.slices[t.slice] with mon := (s.adc.slices[t.slice].mon <<< 1) ||| (if flagged = true then 1 else 0) }
      else s.adc.slices[t.slice] := by
  rw [shadowMonitor_some]
  split
  · rw [monitor_eq]
    exact vmod_same ..
  · rfl

theorem shadowPos_shadowMonitor (t : Option Tour) (p : Pos) (flagged : Bool) (x : Tour) :
    shadowPos (shadowMonitor t p flagged s) x = shadowPos s x := by
  have h := shadowMonitor_frame (s := s) t p flagged
  refine shadowPos_congr ?_ ?_ (shadowMonitor_calAt t p flagged) x
  · rw [h]
  · rw [h]

/-- Both slices outside service convert in the slot. -/
def slotShadowed (s : State) (p : Pos) (steep pitching : Bool) : State :=
  shadowMonitor s.adc.pitch p pitching (shadowMonitor s.adc.tour p steep s)

theorem slotShadowed_frame (p : Pos) (steep pitching : Bool) : slotShadowed s p steep pitching =
    { s with adc := { s.adc with slices := (slotShadowed s p steep pitching).adc.slices } } := by
  have h := shadowMonitor_frame (s := s) s.adc.tour p steep
  have k := shadowMonitor_frame (s := shadowMonitor s.adc.tour p steep s) s.adc.pitch p pitching
  rw [slotShadowed]
  generalize shadowMonitor s.adc.tour p steep s = x at h k ⊢
  generalize shadowMonitor s.adc.pitch p pitching x = y at k ⊢
  rw [k, h]

theorem slotShadowed_slice {t : Tour} {p : Pos} {steep pitching q : Bool}
    (h : (s.adc.tour = some t ∧ q = steep ∧ ∀ x, s.adc.pitch = some x → x.slice ≠ t.slice) ∨
      (s.adc.pitch = some t ∧ q = pitching ∧ ∀ x, s.adc.tour = some x → x.slice ≠ t.slice)) :
    (slotShadowed s p steep pitching).adc.slices[t.slice] =
      if shadowPos s t = some p then
        { s.adc.slices[t.slice] with mon := (s.adc.slices[t.slice].mon <<< 1) ||| (if q = true then 1 else 0) }
      else s.adc.slices[t.slice] := by
  unfold slotShadowed
  rcases h with ⟨ht, rfl, hother⟩ | ⟨ht, rfl, hother⟩
  · rw [shadowMonitor_other hother, ht, shadowMonitor_own]
  · rw [ht, shadowMonitor_own, shadowPos_shadowMonitor, shadowMonitor_other hother]

end Slot

/-! ## One slot (R37, R38, R63, R73) -/

/-- The state in which the slot's conversion is made. -/
def slotReady (s : State) (steep pitching : Bool) : State := slotShadowed (slotBegun s) (slotPos s) steep pitching

section Convert
variable {s : State} {steep pitching : Bool} (code : BitVec 12) (flagged : Bool)

theorem sampleSlot_iff : sampleSlot s = true ↔ s.cfg.lpm = false ∨ s.clk.slot % 4 = 0 := by
  rw [sampleSlot, Bool.or_eq_true, Bool.not_eq_true', decide_eq_true_eq]

theorem convertSlot_some {w : State} {d : LaneDue} (n : SliceNo) (p : Pos)
    (h : pickLane w (fun d => !laneLate w d) = some d) :
    convertSlot n p code flagged w = monitor n flagged (serveLane d n p code flagged w) := by
  rw [convertSlot, h]

theorem convertSlot_none {w : State} (n : SliceNo) (p : Pos) (h : pickLane w (fun d => !laneLate w d) = none) :
    convertSlot n p code flagged w =
      if freeUse w = .none then w else monitor n flagged (freeSlot (freeUse w) n p code flagged w) := by
  rw [convertSlot, h]

/-- What the conversion of a request leaves but for the mark of its slice's monitor. -/
theorem serveLane_eq (d : LaneDue) (n : SliceNo) (p : Pos) (w : State) : serveLane d n p code flagged w =
    { w with
      adc := { w.adc with
        due := w.adc.due.erase d
        errCount := match d.req with
          | .error r _ => vmod w.adc.errCount r (· + 1)
          | .current _ _ => w.adc.errCount }
      eng := { w.eng with
        sched := if (worksOn w (reqRail w.cfg d.req)).isSome then w.eng.sched ++ [laneConversion w d n p code flagged]
          else w.eng.sched } } := by
  unfold serveLane
  generalize laneConversion w d n p code flagged = x
  obtain ⟨req, due⟩ := d
  cases req with
  | error r k =>
    show (if (worksOn w (reqRail w.cfg (.error r k))).isSome = true then _ else _) = _
    split <;> rfl
  | current h j =>
    show (if (worksOn w (reqRail w.cfg (.current h j))).isSome = true then _ else _) = _
    split <;> rfl

/-- A sample of a free slot. -/
def slotSample (s w : State) (u : FreeUse) (item chan : Nat) (n : SliceNo) (p : Pos) : Taken :=
  { use := u, item := item, chan := BitVec.ofNat 7 chan, slice := n, pos := BitVec.ofNat 4 p.val
    stamp := s.clk.slot, tdac := s.adc.ptest.isSome, conv := convert w n chan code flagged
    built := s.clk.slot + if s.cfg.lpm then 36 else 9 }

theorem slotReady_frame : slotReady s steep pitching = { s with adc := { s.adc with
    targets := (slotBegun s).adc.targets, due := (slotBegun s).adc.due, taken := (slotBegun s).adc.taken
    cal := (slotBegun s).adc.cal, ptest := (slotBegun s).adc.ptest
    slices := (slotReady s steep pitching).adc.slices } } := by
  have h := slotShadowed_frame (s := slotBegun s) (slotPos s) steep pitching
  rw [slotReady]
  generalize slotShadowed (slotBegun s) (slotPos s) steep pitching = w at h ⊢
  rw [h]
  rfl

theorem slotReady_same : (slotReady s steep pitching).clk = s.clk ∧ (slotReady s steep pitching).cfg = s.cfg ∧
    (slotReady s steep pitching).adc.ptest.isSome = s.adc.ptest.isSome ∧
    (slotReady s steep pitching).adc.slotmap = s.adc.slotmap ∧ (slotReady s steep pitching).adc.mask = s.adc.mask ∧
    ∀ r, worksOn (slotReady s steep pitching) r = worksOn s r := by
  have h := slotReady_frame (s := s) (steep := steep) (pitching := pitching)
  generalize slotReady s steep pitching = w at h ⊢
  rw [h]
  exact ⟨rfl, rfl, Option.isSome_map, rfl, rfl, fun _ => rfl⟩

theorem exec_conversionSlot (hplan : plannerOn s = true) {p : Pos} (hp : slotPos s = p) {n : SliceNo}
    (hn : s.adc.slotmap[p] = n) :
    exec (.conversionSlot code ⟨flagged, steep, pitching⟩) s = .next (
      if !sampleSlot s then endSlot s else if arrayMarkerDue s then s
      else endSlot (if hasBit s.adc.mask p.val then slotReady s steep pitching
        else convertSlot n p code flagged (slotReady s steep pitching))) := by
  subst hp hn
  obtain ⟨-, -, -, hmap, hmask, -⟩ := slotReady_same (s := s) (steep := steep) (pitching := pitching)
  have h : (!plannerOn s || !sampleSlot s) = !sampleSlot s := by
    rw [hplan]
    rfl
  rw [← hmask]
  simp only [← hmap]
  show Host.Outcome.next _ = _
  dsimp only
  rw [h]
  rfl

end Convert

section Work
variable {s w : State} {n : SliceNo} {p : Pos} {code : BitVec 12} {flagged : Bool}
variable (hclk : w.clk = s.clk) (hcfg : w.cfg = s.cfg) (htest : w.adc.ptest.isSome = s.adc.ptest.isSome)
include hclk hcfg htest

/-- The record that the schedule expects of a request (R18, R38, R61). -/
theorem laneConversion_eq (d : LaneDue) : laneConversion w d n p code flagged =
    { req := d.req, chan := BitVec.ofNat 7 (reqChan w d.req).1, stamp := s.clk.slot, inactive := (reqChan w d.req).2
      slice := n
      rec_ := packRecord (BitVec.ofNat 32 s.clk.slot) s.adc.ptest.isSome
        (convert w n (reqChan w d.req).1 code flagged).stale (convert w n (reqChan w d.req).1 code flagged).range false
        p.val (reqChan w d.req).1 (convert w n (reqChan w d.req).1 code flagged).value
      built := s.clk.slot + (if s.cfg.lpm then 36 else 9), arrives := s.clk.slot + (if s.cfg.lpm then 38 else 11) } := by
  unfold laneConversion stampNow tdacOn buildSlots arriveSlots
  rw [hclk, hcfg, htest]

theorem takeSample_eq (u : FreeUse) (item chan : Nat) : takeSample u item chan n p code flagged w =
    w.upAdc fun a => { a with taken := a.taken ++ [slotSample code flagged s w u item chan n p] } := by
  unfold takeSample slotSample tdacOn buildSlots
  rw [hclk, hcfg, htest]

theorem freeSlot_injected : freeSlot .injected n p code flagged w = w.upAdc fun a => { a with
    taken := a.taken ++
      [slotSample code flagged s w .injected a.inj.cur.val (s.cfg.injChan a.inj.cur.val) n p]
    inj := if a.inj.n.val + 1 < 2 ^ s.cfg.injAvg a.inj.cur.val then { a.inj with n := a.inj.n + 1 }
      else { a.inj with n := 0, cur := a.inj.cur + 1 } } := by
  rw [freeSlot, takeSample_eq hclk hcfg htest, ← hcfg]
  rfl

theorem freeSlot_regular : freeSlot .regular n p code flagged w = w.upAdc fun a => { a with
    taken := a.taken ++
      [slotSample code flagged s w .regular a.reg.cur.val (s.cfg.regChan a.reg.cur.val) n p]
    reg := if a.reg.n.val + 1 < 2 ^ s.cfg.regAvg a.reg.cur.val then { a.reg with n := a.reg.n + 1 }
      else { a.reg with n := 0, cur := if s.cfg.regLen ≤ a.reg.cur.val then 0 else a.reg.cur + 1
                        inRound := !decide (s.cfg.regLen ≤ a.reg.cur.val) } } := by
  rw [freeSlot, takeSample_eq hclk hcfg htest, ← hcfg]
  have hset : ∀ f, (w.upAdc f).cfg = w.cfg := fun _ => rfl
  simp only [countRegular, regNeed, hset, State.upAdc_adc, decide_eq_true_eq]
  rfl

theorem freeSlot_cal {k : CalRun} (hk : w.adc.cal = some k) : freeSlot .cal n p code flagged w = w.upAdc fun a =>
    { a with taken := a.taken ++ [slotSample code flagged s w .cal 0 k.chan.toNat n p] } := by
  rw [freeSlot, hk]
  exact takeSample_eq hclk hcfg htest ..

theorem freeSlot_ptest {k : PathRun} {i : Fin 4} (hk : w.adc.ptest = some k) (hi : pathPlace w k = some i) :
    freeSlot .ptest n p code flagged w = w.upAdc fun a => { a with taken := a.taken ++
      [slotSample code flagged s w .ptest i.val (if i.val % 2 = 0 then k.chan.toNat else k.nchan.toNat) n p] } := by
  rw [freeSlot, hk, Option.bind_some, hi]
  exact takeSample_eq hclk hcfg htest ..

end Work

/-! ## Who takes a free slot (R63) -/

theorem freeUse_cases (s : State) :
    (freeUse s = .injected → s.adc.inj.run = true) ∧
    (freeUse s = .cal → s.adc.inj.run = false ∧ s.adc.cal ≠ none) ∧
    (freeUse s = .ptest → s.adc.inj.run = false ∧ s.adc.ptest ≠ none) ∧
    (freeUse s = .regular → s.adc.reg.inRound = true ∧
      (s.adc.inj.run = true → s.adc.reg.n ≠ 0 ∧ s.adc.inj.cur = 0 ∧ s.adc.inj.n = 0)) := by
  unfold freeUse
  dsimp only
  split
  · rename_i hrun
    split
    · rename_i hfin
      simp only [regFinishing, Bool.and_eq_true, bne_iff_ne, decide_eq_true_eq] at hfin
      obtain ⟨⟨⟨hround, hn⟩, hcur⟩, hinj⟩ := hfin
      exact ⟨nofun, nofun, nofun, fun _ => ⟨hround, fun _ => ⟨hn, hcur, hinj⟩⟩⟩
    · split
      · exact ⟨fun _ => hrun, nofun, nofun, nofun⟩
      · exact ⟨nofun, nofun, nofun, nofun⟩
  · rename_i hrun
    have hidle : s.adc.inj.run = false := Bool.eq_false_iff.mpr hrun
    split
    · rename_i hcal
      exact ⟨nofun, fun _ => ⟨hidle, fun h => by simp [h] at hcal⟩, nofun, nofun⟩
    · split
      · rename_i htest
        exact ⟨nofun, nofun, fun _ => ⟨hidle, fun h => by simp [h] at htest⟩, nofun⟩
      · split
        · rename_i hround
          exact ⟨nofun, nofun, nofun, fun _ => ⟨hround, fun h => absurd h hrun⟩⟩
        · exact ⟨nofun, nofun, nofun, nofun⟩

/-! ## A request is skipped (R60) -/

/-- A late request no longer waits: it is counted, and event 0x51 is raised. -/
def laneSkipped (d : LaneDue) (w : State) : State :=
  raise 0x51 (srcId 0x3 0x1 0 0 0) 0 (removeDue d (w.upAdc fun a => { a with llSkip := incSat a.llSkip }))

theorem laneSkipped_raised (d : LaneDue) (w : State) : Raised 0x51 (w.upAdc fun a => { a with
    due := a.due.erase d, llSkip := if a.llSkip = 0xFFFFFFFF then a.llSkip else a.llSkip + 1 }) (laneSkipped d w) := by
  have hskip : removeDue d (w.upAdc fun a => { a with llSkip := incSat a.llSkip }) = w.upAdc fun a => { a with
      due := a.due.erase d, llSkip := if a.llSkip = 0xFFFFFFFF then a.llSkip else a.llSkip + 1 } := by
    simp only [removeDue, State.upAdc, incSat_word]
  rw [laneSkipped, hskip]
  exact raise_raised _ _ _ _ (by decide)

theorem exec_loopLaneSkip {s : State} {d : LaneDue} (h : pickLane (fallDue s) (laneLate (fallDue s)) = some d) :
    exec .loopLaneSkip s = .next (match d.req with
      | .error r _ => staleError r (countError r (laneSkipped d (fallDue s)))
      | .current _ _ => laneSkipped d (fallDue s)) := by
  show Host.Outcome.next _ = _
  dsimp only
  rw [h]
  rfl

/-- Settles O23: the arbiter by its key, the slot by who takes it, and a skipped request by the arbiter's choice among
those that are late. -/
theorem conversionSlots : Obligations.ConversionSlots := by
  unfold Obligations.ConversionSlots
  refine ⟨fun s may => ⟨pickLane_none_iff, fun d hd => ?_⟩, fun s code flagged steep pitching hfab hlock hadc => ?_,
    freeUse_cases, fun s d => ?_⟩
  · obtain ⟨hmem, hmay, hfirst⟩ := pickLane_some hd
    exact ⟨hmem, hmay, fun e he hm => served_first_of_laneKey_le (hfirst e he hm)⟩
  rotate_left
  · intro w hd
    refine ⟨_, _, exec_loopLaneSkip hd, laneSkipped_raised d w, ?_⟩
    obtain ⟨req, due⟩ := d
    cases req <;> rfl
  intro u p n w first built pick noted sample
  have hplan : plannerOn s = true := by
    rw [plannerOn, hfab, hlock, show domOn s pdAdc1 = true from hadc]
    rfl
  have hfirst : ∀ x, first x = dueSlot s.cfg x := fun x => (dueSlot_eq s.cfg x).symm
  obtain ⟨hclk, hcfg, htest, -, -, hworks⟩ := slotReady_same (s := s) (steep := steep) (pitching := pitching)
  have hnoted : ∀ v, monitor n flagged v = noted v := fun v => monitor_eq n flagged
  have hexec := exec_conversionSlot (steep := steep) (pitching := pitching) code flagged hplan (p := p) rfl (n := n) rfl
  refine ⟨slotBegun_frame s, slotBegun_taken s, fun d hd => due_slotBegun hd, fun g hg => ?_, fun d => ?_,
    slotShadowed_frame p steep pitching, fun t q h => slotShadowed_slice h, fun hlpm hslot => ?_, fun hs hmark => ?_,
    fun hs hmark => ?_⟩
  · rw [hfirst]
    exact target_slotBegun hg
  · rw [laneLate, decide_eq_true_eq, laneLimit]
    rw [show w.cfg = s.cfg from hcfg, show w.clk = s.clk from hclk]
  · have hnot : sampleSlot s = false := by
      rw [Bool.eq_false_iff, ne_eq, sampleSlot_iff, hlpm]
      simpa using hslot
    rw [hexec, hnot]
    rfl
  · rw [hexec, sampleSlot_iff.mpr hs, hmark]
    rfl
  rw [hexec, sampleSlot_iff.mpr hs, hmark]
  have hmade : ∀ hm : hasBit s.adc.mask p.val = false,
      (if hasBit s.adc.mask p.val then slotReady s steep pitching
        else convertSlot n p code flagged (slotReady s steep pitching)) = convertSlot n p code flagged w :=
    fun hm => if_neg (by rw [hm]; decide)
  refine ⟨_, rfl, fun hm => if_pos hm, fun hm d hd => ?_, fun hm hd => ?_⟩
  · intro chan c x
    rw [(hmade hm).trans ((convertSlot_some _ _ _ _ hd).trans (hnoted _)), serveLane_eq,
      laneConversion_eq (w := w) (s := s) hclk hcfg htest d]
    refine congrArg noted ?_
    rw [show worksOn w = worksOn s from funext hworks, show w.cfg = s.cfg from hcfg]
    obtain ⟨req, due⟩ := d
    cases req <;> rfl
  · rw [(hmade hm).trans (convertSlot_none _ _ _ _ hd)]
    refine ⟨fun hu => if_pos hu, fun hu => ?_, fun hu => ?_, fun hu k hk => ?_, fun hu k i hk hi => ?_⟩
    all_goals
      rw [if_neg (show ¬ freeUse w = .none by rw [hu]; decide), hnoted, hu]
      refine congrArg noted ?_
    · exact freeSlot_injected hclk hcfg htest
    · exact freeSlot_regular hclk hcfg htest
    · exact freeSlot_cal hclk hcfg htest hk
    · exact freeSlot_ptest hclk hcfg htest hk hi

end Sys2Proof.Machine
end

section
/-!
The checks of whole set-ups (O57): a check's conditions in turn, the rules that several blocks share, and the exact sums
of the loop lane and the lane pairs.
-/

namespace Sys2Proof.Machine

/-! ## Conditions in turn -/

/-- A row of a check, and the rows after it for a set that meets it. -/
theorem Tests.cons {p : Prop} {b : Bool} {c : Nat} {ps : List (Prop × Nat)} {bs : List (Bool × Nat)}
    (h : b = false ↔ p) (ht : p → Tests ps (firstBad bs)) : Tests ((p, c) :: ps) (firstBad ((b, c) :: bs)) := by
  refine ⟨fun hp => ?_, fun hp => if_pos (by simpa using h.not.mpr hp)⟩
  rw [firstBad, h.mpr hp]
  exact ht hp

/-- The last row of a check. -/
theorem Tests.last {p : Prop} {b : Bool} {c : Nat} (h : b = false ↔ p) : Tests [(p, c)] (firstBad [(b, c)]) :=
  Tests.cons h fun _ => rfl

/-- A check that goes on with further rows. -/
theorem firstBad_append (xs ys : List (Bool × Nat)) :
    (match firstBad xs with | some c => some c | none => firstBad ys) = firstBad (xs ++ ys) := by
  induction xs with
  | nil => rfl
  | cons x xs ih =>
    rw [List.cons_append, firstBad, firstBad]
    by_cases hx : x.1 = true
    · rw [if_pos hx, if_pos hx]
    · rw [if_neg hx, if_neg hx, ih]

/-! ## Conditions over lists -/

theorem any_false_iff {α : Type} {xs : List α} {p : α → Bool} : xs.any p = false ↔ ∀ x ∈ xs, p x = false := by
  simp only [List.any_eq_false, Bool.not_eq_true]

theorem any_range_false_iff {n : Nat} {p : Nat → Bool} : (List.range n).any p = false ↔ ∀ k < n, p k = false := by
  simp only [any_false_iff, List.mem_range]

theorem anyRail_false_iff {p : Nat → Bool} : anyRail p = false ↔ ∀ r < 8, p r = false := any_range_false_iff

theorem anyRail_false_iff_fin {p : Nat → Bool} : anyRail p = false ↔ ∀ r : Rail, p r.val = false :=
  anyRail_false_iff.trans ⟨fun h r => h r.val r.isLt, fun h r hr => h ⟨r, hr⟩⟩

/-- A number lies in a range. -/
def Within (lo hi x : Nat) : Prop := lo ≤ x ∧ x ≤ hi

theorem outside_false_iff {lo hi x : Nat} : outside lo hi x = false ↔ Within lo hi x := by
  simp only [outside, Within, Bool.or_eq_false_iff, decide_eq_false_iff_not, not_lt]

theorem usedRails_any_false_iff {g : Setup} {p : SeqIdx → Bool} :
    (usedRails g).any p = false ↔ ∀ i : SeqIdx, g.use i.val = true → p i = false := by
  simp only [any_false_iff, usedRails, mem_filter_fins]

theorem anyPair_false_iff {α : Type} {p : α → α → Bool} {xs : List α} :
    anyPair p xs = false ↔ xs.Pairwise fun a b => p a b = false := by
  induction xs with
  | nil => simp [anyPair]
  | cons x xs ih => rw [anyPair, Bool.or_eq_false_iff, any_false_iff, ih, List.pairwise_cons]

/-! ## Rules that several blocks share -/

section Shared
variable (g : Setup)

/-- The phases of a rail that the plan makes ACTIVE. -/
def activeOf (r : Nat) : Nat := ((fins 48).filter fun h => g.role h.val == 1 && g.phRail h.val == r).length

theorem nActPlan_eq (r : Nat) : nActPlan g r = activeOf g r := by
  rw [nActPlan, planned, List.filter_filter, activeOf]
  congr 2
  funext h
  by_cases hrole : g.role h.val = 1 <;> simp [hrole]

/-- The levels of R220. -/
def LevelsFit : Prop := ∀ r < 8, ∀ x, x = g.hlo r ∨ x = g.hhi r ∨ x = g.plim r → x + 10 ≤ 2 * g.tband r

theorem bad220_false_iff : bad220 g = false ↔ LevelsFit g := by
  simp only [bad220, LevelsFit, anyRail_false_iff, Bool.or_eq_false_iff, decide_eq_false_iff_not, not_lt, forall_eq_or_imp,
    forall_eq, and_assoc]

/-- The windows of R232. -/
def WindowsFit : Prop := ∀ r < 8, ∀ w, w = 48 + r ∨ w = 56 + r →
  g.thrLo w ≤ 2 * g.tband r ∧ g.thrHi w ≤ 2 * g.tband r ∧ g.hlo r < g.thrLo w ∧ g.hhi r < g.thrHi w

theorem bad232_false_iff : bad232 g = false ↔ WindowsFit g := by
  simp only [bad232, WindowsFit, windowBad, anyRail_false_iff, Bool.or_eq_false_iff, decide_eq_false_iff_not, not_lt, not_le,
    forall_eq_or_imp, forall_eq, and_assoc]

/-- The phases of R236. -/
def PhasesLimited : Prop := ∀ h < 48, g.role h ≠ 0 → g.lmode h = true

theorem bad236_false_iff : bad236 g = false ↔ PhasesLimited g := by
  simp only [bad236, PhasesLimited, any_range_false_iff, Bool.and_eq_false_imp, bne_iff_ne, Bool.not_eq_false']

/-- The rails of R277. -/
def RailsServed : Prop := ∀ i : SeqIdx, g.use i.val = true → i.val < 8 →
  g.engEn i.val = true ∧ activeOf g i.val ≠ 0

theorem usedUnserved_false_iff : usedUnserved g = false ↔ RailsServed g := by
  simp only [usedUnserved, RailsServed, usedRails_any_false_iff, Bool.and_eq_false_imp, decide_eq_true_eq, Bool.or_eq_false_iff,
    Bool.not_eq_false', decide_eq_false_iff_not, nActPlan_eq]

/-- The steps of R256 and R277. -/
def StepsFit : Prop :=
  (∀ r < 8, g.vmax r * (1000 + g.mhi r) ≤ 65535 * 1000) ∧ ∀ i : SeqIdx, g.use i.val = true → i.val < 8 →
    g.vboot i.val * 65536 / (if g.rampu i.val = true then g.ramp i.val * 8000 else g.ramp i.val * 8) ≤ 160 * 65536

theorem beyondSteps_false_iff : beyondSteps g = false ↔ StepsFit g := by
  have hone : ∀ x : Nat, max 1 x ≤ 160 * 65536 ↔ x ≤ 160 * 65536 := fun x => by omega
  simp only [beyondSteps, Bool.or_eq_false_iff, usedRails_any_false_iff, Bool.and_eq_false_imp, decide_eq_true_eq,
    decide_eq_false_iff_not, not_lt, anyRail_false_iff]
  simp only [seqStep, limiterTicks, hone, StepsFit]
  exact and_comm

/-- A quotient rounded up stays within a bound where the number stays within its multiple. -/
theorem ceilDiv_le_iff {n m v : Nat} (hm : 0 < m) : ceilDiv n m ≤ v ↔ n ≤ m * v := by
  rw [ceilDiv, ← Nat.lt_succ_iff, Nat.div_lt_iff_lt_mul hm, Nat.succ_mul, Nat.mul_comm v m]
  omega

/-- The absolute checks of R349. -/
def AbsoluteFit : Prop := ∀ r < 8, g.oven r = true →
  g.vmax r * (1000 + g.mhi r) * (1000 + g.tband r) ≤ 1000000 * g.vabs r

theorem bad349_false_iff : bad349 g = false ↔ AbsoluteFit g := by
  simp only [bad349, anyRail_false_iff, Bool.and_eq_false_imp, decide_eq_false_iff_not, not_lt]
  simp only [AbsoluteFit, vabsFloor, ceilDiv_le_iff (show 0 < 1000000 by decide)]

/-- The take-down of R319. -/
theorem badPfen_false_iff : badPfen g = false ↔ (g.pfen = true → g.thrLo 72 ≠ 0) := by
  simp only [badPfen, Bool.and_eq_false_imp, decide_eq_false_iff_not, ne_eq]

theorem inRegular_iff (c : Nat) : inRegular g c = true ↔ ∃ n ≤ g.regLen, g.regChan n = c := by
  simp only [inRegular, List.any_eq_true, List.mem_range, decide_eq_true_eq, Nat.lt_succ_iff]

/-- The energy inputs of R279. -/
def EnergyRegular : Prop :=
  (g.pfen = true → (∃ n ≤ g.regLen, g.regChan n = 0x58) ∧ ∃ n ≤ g.regLen, g.regChan n = 0x59) ∧
  (g.ns ≠ 0 → (∃ n ≤ g.regLen, g.regChan n = 0x5A) ∧ (∃ n ≤ g.regLen, g.regChan n = 0x5B) ∧
    ∃ n ≤ g.regLen, g.regChan n = 0x5C) ∧ (g.pfen = true ∨ g.ns ≠ 0 → g.pace ≤ 100)

theorem bad279_false_iff : bad279 g = false ↔ EnergyRegular g := by
  simp only [EnergyRegular, ← inRegular_iff]
  unfold bad279
  cases hp : g.pfen <;> by_cases hn : g.ns = 0 <;> simp [hn, and_assoc]

/-- The reset outputs of R471. -/
def OutputsReset : Prop :=
  (∀ p, p = 2 ∨ p = 3 → g.rsten p = true → g.xmode (8 + g.rstx p) = true) ∧
    ¬ (g.rsten 2 = true ∧ g.rsten 3 = true ∧ g.rstx 2 = g.rstx 3)

theorem bad471_false_iff : bad471 g = false ↔ OutputsReset g := by
  simp only [bad471, OutputsReset, Bool.or_eq_false_iff, any_false_iff, List.mem_cons, List.not_mem_nil, or_false,
    Bool.and_eq_false_imp, Bool.not_eq_false', Bool.and_eq_true, beq_eq_false_iff_ne, ne_eq, not_and, and_imp]

end Shared

/-! ## Exact sums (R57, R93) -/

/-- The fraction of a step of the sum. -/
theorem sumFrac_step (xs : List (Nat × Nat)) (h : ∀ x ∈ xs, x.2 ≠ 0) (a : Nat × Nat) (ha : a.2 ≠ 0) :
    let f := xs.foldl (fun a x => (a.1 * x.2 + x.1 * a.2, a.2 * x.2)) a
    f.2 ≠ 0 ∧ (f.1 : Rat) / f.2 = (a.1 : Rat) / a.2 + (xs.map fun x => (x.1 : Rat) / x.2).sum := by
  induction xs generalizing a with
  | nil => exact ⟨ha, (add_zero _).symm⟩
  | cons x xs ih =>
    have hx : x.2 ≠ 0 := h x List.mem_cons_self
    obtain ⟨hne, hsum⟩ := ih (fun y hy => h y (List.mem_cons_of_mem _ hy)) (a.1 * x.2 + x.1 * a.2, a.2 * x.2)
      (Nat.mul_ne_zero ha hx)
    refine ⟨hne, hsum.trans ?_⟩
    have ha' : (a.2 : Rat) ≠ 0 := Nat.cast_ne_zero.mpr ha
    have hx' : (x.2 : Rat) ≠ 0 := Nat.cast_ne_zero.mpr hx
    rw [List.map_cons, List.sum_cons, ← add_assoc, div_add_div _ _ ha' hx']
    push_cast
    ring

/-- A sum of fractions is exact. -/
theorem sumFrac_eq {xs : List (Nat × Nat)} (h : ∀ x ∈ xs, x.2 ≠ 0) :
    (sumFrac xs).2 ≠ 0 ∧ ((sumFrac xs).1 : Rat) / (sumFrac xs).2 = (xs.map fun x => (x.1 : Rat) / x.2).sum := by
  obtain ⟨hne, hsum⟩ := sumFrac_step xs h (0, 1) Nat.one_ne_zero
  refine ⟨hne, hsum.trans ?_⟩
  simp

/-- A sum of fractions stays within a whole bound. -/
theorem sumFrac_le_iff {xs : List (Nat × Nat)} (h : ∀ x ∈ xs, x.2 ≠ 0) (k : Nat) :
    decide (k * (sumFrac xs).2 < (sumFrac xs).1) = false ↔ (xs.map fun x => (x.1 : Rat) / x.2).sum ≤ k := by
  obtain ⟨hne, hsum⟩ := sumFrac_eq h
  have hpos : (0 : Rat) < (sumFrac xs).2 := Nat.cast_pos.mpr (Nat.pos_of_ne_zero hne)
  rw [decide_eq_false_iff_not, not_lt, ← hsum, div_le_iff₀ hpos]
  exact_mod_cast Iff.rfl

theorem sum_map_filter {α : Type} (p : α → Bool) (f : α → Rat) (xs : List α) :
    ((xs.filter p).map f).sum = (xs.map fun x => if p x = true then f x else 0).sum := by
  induction xs with
  | nil => rfl
  | cons x xs ih =>
    rw [List.map_cons, List.sum_cons, ← ih, List.filter_cons]
    split <;> simp

/-- The load of the loop lane is within its budget (R57, R58). -/
def BudgetFits (g : Setup) : Prop :=
  ((List.range 8).map fun r => if g.llen r = true then
    ((2048 * (2 ^ g.errpp r + g.curpp r * (planned g r).length) : Nat) : Rat) / (g.period r : Rat) else 0).sum ≤
    if g.lpm = true then 48 else 192

section Sums
variable {g : Setup} (hper : ∀ r < 8, g.period r ≠ 0)
include hper

theorem overLane_false_iff : overLane g = false ↔ BudgetFits g := by
  have hne : ∀ x ∈ (rails8.filter g.llen).map fun r =>
      (2048 * (errPer g r + curPer g r * phasesOf g r), g.period r), x.2 ≠ 0 := by
    simp only [List.mem_map, List.mem_filter, forall_exists_index, and_imp]
    rintro x r hr - rfl
    exact hper r (List.mem_range.mp hr)
  refine (sumFrac_le_iff hne _).trans ?_
  rw [List.map_map, BudgetFits, ← sum_map_filter]
  cases g.lpm <;> exact Iff.rfl

/-- The load of a lane pair (R93). -/
theorem pairLoad_le_iff (p : Nat) :
    decide (448000000 * (pairLoad g p).2 < (pairLoad g p).1) = false ↔
      ((railsOn g p).map fun r => 2000000 + if g.llen r = true then
        ((2048000000 * (16 * 2 ^ g.errpp r + 4 * g.curpp r * (planned g r).length) : Nat) : Rat) / (g.period r : Rat)
        else 0).sum ≤ 448000000 := by
  have hrail : ∀ r ∈ railsOn g p, g.period r ≠ 0 := fun r hr =>
    hper r (List.mem_range.mp (List.mem_of_mem_filter hr))
  have hne : ∀ x ∈ (railsOn g p).map fun r => if g.llen r then
      (2048000000 * (16 * errPer g r + 4 * curPer g r * phasesOf g r) + 2000000 * g.period r, g.period r)
      else (2000000, 1), x.2 ≠ 0 := by
    simp only [List.mem_map, forall_exists_index, and_imp]
    rintro x r hr rfl
    split
    · exact hrail r hr
    · exact Nat.one_ne_zero
  refine (sumFrac_le_iff hne 448000000).trans ?_
  rw [List.map_map]
  refine Eq.to_iff (congrArg₂ (fun (x : List Rat) (k : Rat) => x.sum ≤ k) (List.map_congr_left fun r hr => ?_) (by norm_num))
  have hpos : (g.period r : Rat) ≠ 0 := Nat.cast_ne_zero.mpr (hrail r hr)
  dsimp only [Function.comp_apply]
  split
  · rw [Nat.cast_add, add_div, Nat.cast_mul 2000000, mul_div_cancel_right₀ _ hpos, add_comm]
    rfl
  · simp

end Sums

/-! ## The loop lane and the lane pairs (R58, R71, R94) -/

/-- The loop lane of R71. -/
def LaneFits (g : Setup) : Prop :=
  (∀ r < 8, planned g r ≠ [] ↔ g.llen r = true) ∧ (g.lpm = true → ∀ r < 8, g.errpp r ≠ 3)

theorem loopLaneBad_false_iff (g : Setup) : loopLaneBad g = false ↔ LaneFits g := by
  have hrail : ∀ r, ((phasesOf g r != 0) != g.llen r) = false ↔ (planned g r ≠ [] ↔ g.llen r = true) := fun r => by
    rw [bne_eq_false_iff_eq, Bool.eq_iff_iff, bne_iff_ne, phasesOf, ne_eq, List.length_eq_zero_iff]
  simp only [LaneFits, loopLaneBad, Bool.or_eq_false_iff, anyRail_false_iff, hrail, Bool.and_eq_false_imp,
    decide_eq_false_iff_not, ne_eq]

/-- A list holds a symmetric and reflexive relation pairwise where all its members do. -/
theorem pairwise_iff_forall {α : Type} {R : α → α → Prop} (hsymm : ∀ a b, R a b → R b a) (hrefl : ∀ a, R a a)
    {xs : List α} : xs.Pairwise R ↔ ∀ a ∈ xs, ∀ b ∈ xs, R a b := by
  have : Std.Symm R := ⟨hsymm⟩
  have : Std.Refl R := ⟨hrefl⟩
  exact ⟨fun h a ha b hb => h.forall_of_forall (fun x _ => hrefl x) ha hb,
    fun h => List.pairwise_of_reflexive_of_forall_ne fun a ha b hb _ => h a ha b hb⟩

/-- The rails of a pair that have a loop lane share their period and their rate (R94). -/
theorem anyPair_rates_false_iff {g : Setup} {rs : List Nat} :
    anyPair (fun a b => g.period a != g.period b || g.errpp a != g.errpp b) (rs.filter g.llen) = false ↔
      ∀ a ∈ rs, ∀ b ∈ rs, g.llen a = true → g.llen b = true → g.period a = g.period b ∧ g.errpp a = g.errpp b := by
  rw [anyPair_false_iff]
  simp only [Bool.or_eq_false_iff, bne_eq_false_iff_eq]
  rw [pairwise_iff_forall (fun a b h => ⟨h.1.symm, h.2.symm⟩) (fun a => ⟨rfl, rfl⟩)]
  simp only [List.mem_filter, and_imp]
  exact ⟨fun h a ha b hb hla hlb => h a ha hla b hb hlb, fun h a ha hla b hb hlb => h a ha b hb hla hlb⟩

/-- Two instants lie at least 8 slots apart, both ways round the period. -/
theorem tooClose_false_iff (period a b : Nat) : tooClose period a b = false ↔
    ∀ d, d = (a + 2048 - b) % 2048 ∨ d = 2048 - (a + 2048 - b) % 2048 → 64 * 2048 ≤ d * period := by
  rw [tooClose, decide_eq_false_iff_not, not_lt, ← Nat.mul_min_mul_right, Nat.le_min]
  simp only [forall_eq_or_imp, forall_eq]

/-- The instants of a pair's error samples, each with its rail's period. -/
def timedInstants (g : Setup) (rs : List Nat) : List (Nat × Nat) :=
  rs.flatMap fun r => (List.range (2 ^ g.errpp r)).map fun k =>
    ((8 * (g.rofs r + g.errpos r) + k * (2048 / 2 ^ g.errpp r)) % 2048, g.period r)

/-- The instants of rails of one period (R94). -/
theorem anyPair_tooClose_false_iff {g : Setup} {rs : List Nat} {period : Nat} (h : ∀ r ∈ rs, g.period r = period) :
    anyPair (tooClose period) (rs.flatMap (errInstants g)) = false ↔
      (timedInstants g rs).Pairwise fun a b => ∀ d, d = (a.1 + 2048 - b.1) % 2048 ∨
        d = 2048 - (a.1 + 2048 - b.1) % 2048 → 64 * 2048 ≤ d * a.2 := by
  have htimed : timedInstants g rs = (rs.flatMap (errInstants g)).map fun x => (x, period) := by
    rw [timedInstants, List.map_flatMap]
    refine List.flatMap_congr fun r hr => ?_
    rw [errInstants, List.map_map, h r hr]
    rfl
  rw [htimed, anyPair_false_iff, List.pairwise_map]
  simp only [tooClose_false_iff]

/-- A lane pair carries its rails (R93, R94). -/
def PairFits (g : Setup) (p : Nat) : Prop :=
  ((railsOn g p).map fun r => 2000000 + if g.llen r = true then
    ((2048000000 * (16 * 2 ^ g.errpp r + 4 * g.curpp r * (planned g r).length) : Nat) : Rat) / (g.period r : Rat)
    else 0).sum ≤ 448000000 ∧
  (∀ a ∈ railsOn g p, ∀ b ∈ railsOn g p, g.llen a = true → g.llen b = true →
    g.period a = g.period b ∧ g.errpp a = g.errpp b) ∧
  (timedInstants g ((railsOn g p).filter g.llen)).Pairwise fun a b => ∀ d, d = (a.1 + 2048 - b.1) % 2048 ∨
    d = 2048 - (a.1 + 2048 - b.1) % 2048 → 64 * 2048 ≤ d * a.2

section Engine
variable {g : Setup} (hper : ∀ r < 8, g.period r ≠ 0)
include hper

theorem pairBad_false_iff (p : Nat) : pairBad g p = false ↔ PairFits g p := by
  rw [PairFits, pairBad, Bool.or_eq_false_iff, Bool.or_eq_false_iff, pairLoad_le_iff hper, anyPair_rates_false_iff, and_assoc]
  refine and_congr_right fun _ => and_congr_right fun hsame => ?_
  have hrate : ∀ r ∈ (railsOn g p).filter g.llen, ∀ r' ∈ (railsOn g p).filter g.llen, g.period r = g.period r' := by
    intro r hr r' hr'
    obtain ⟨hm, hl⟩ := List.mem_filter.mp hr
    obtain ⟨hm', hl'⟩ := List.mem_filter.mp hr'
    exact (hsame r hm r' hm' hl hl').1
  generalize (railsOn g p).filter g.llen = rs at hrate ⊢
  cases rs with
  | nil => simp [timedInstants]
  | cons r rs => exact anyPair_tooClose_false_iff fun r' hr' => hrate r' hr' r List.mem_cons_self

theorem engineBad_false_iff : engineBad g = false ↔ ∀ p < 4, PairFits g p :=
  any_range_false_iff.trans (forall₂_congr fun p _ => pairBad_false_iff hper p)

end Engine

/-! ## The order of a rail's phases (R144) -/

section Order
variable {g : Setup} {r : Nat}

theorem phaseAt_some {k : Nat} {h : Phase} (hh : phaseAt g r k = some h) : h ∈ planned g r ∧ g.order h.val = k :=
  ⟨List.mem_of_find?_eq_some hh, by simpa using List.find?_some hh⟩

theorem phaseAt_isNone_false_iff (k : Nat) : (phaseAt g r k).isNone = false ↔ ∃ h ∈ planned g r, g.order h.val = k := by
  rw [Option.isNone_eq_false_iff, phaseAt, List.find?_isSome]
  simp only [decide_eq_true_eq]

/-- Where every place of the order is taken, no place is taken twice. -/
theorem order_injective (h : ∀ k < (planned g r).length, ∃ h ∈ planned g r, g.order h.val = k) {a b : Phase}
    (ha : a ∈ planned g r) (hb : b ∈ planned g r) (hab : g.order a.val = g.order b.val) : a = b := by
  have hsub : List.range (planned g r).length ⊆ (planned g r).map fun h => g.order h.val := by
    intro k hk
    obtain ⟨x, hx, hxk⟩ := h k (List.mem_range.mp hk)
    exact List.mem_map.mpr ⟨x, hx, hxk⟩
  have hperm : (List.range (planned g r).length).Perm ((planned g r).map fun h => g.order h.val) :=
    (List.nodup_range.subperm hsub).perm_of_length_le (by simp)
  exact List.inj_on_of_nodup_map (hperm.nodup_iff.mp List.nodup_range) ha hb hab

/-- The order of a rail (R144). -/
theorem orderBad_false_iff : orderBad g r = false ↔
    (∀ k < (planned g r).length, ∃ h ∈ planned g r, g.order h.val = k) ∧
    (∀ h ∈ planned g r, g.order h.val < activeOf g r → g.role h.val = 1) ∧
    (planned g r).length - activeOf g r ≤ 4 ∧ (activeOf g r = 0 → (planned g r).length = 0) := by
  rw [← nActPlan_eq]
  simp only [orderBad, Bool.or_eq_false_iff, any_range_false_iff, phaseAt_isNone_false_iff, decide_eq_false_iff_not,
    not_lt, Bool.and_eq_false_imp, decide_eq_true_eq, bne_eq_false_iff_eq, and_assoc]
  refine and_congr_right fun hfull => and_congr_left fun _ => ⟨fun h x hx hlt => ?_, fun h k hk => ?_⟩
  · obtain ⟨y, hy⟩ := Option.isSome_iff_exists.mp
      (Option.isNone_eq_false_iff.mp ((phaseAt_isNone_false_iff (g := g) (r := r) _).mpr ⟨x, hx, rfl⟩))
    obtain ⟨hmem, hord⟩ := phaseAt_some hy
    have hact := h _ hlt
    rw [hy, order_injective hfull hmem hx hord] at hact
    simpa using hact
  · cases hp : phaseAt g r k with
    | none => rfl
    | some x =>
      obtain ⟨hmem, hord⟩ := phaseAt_some hp
      simpa using h x hmem (by rw [hord]; exact hk)

end Order

end Sys2Proof.Machine
end

section
/-!
The check of each block's set-up, row by row (O57).
-/

namespace Sys2Proof.Machine

/-! ## The two-wire ports and the NV store -/

/-- A relation on the distinct members of a list. -/
theorem pairwise_iff_forall_ne {α : Type} {R : α → α → Prop} (hsymm : ∀ a b, R a b → R b a) {xs : List α}
    (hn : xs.Nodup) : xs.Pairwise R ↔ ∀ a ∈ xs, ∀ b ∈ xs, a ≠ b → R a b := by
  have : Std.Symm R := ⟨hsymm⟩
  exact ⟨fun h a ha b hb => h.forall ha hb, hn.pairwise_of_forall_ne⟩

theorem targetPorts_apart_iff {g : Setup} {place : Nat → Nat} :
    anyPair (fun a b => place a == place b) ([0, 1, 3].filter g.twEn) = false ↔
      ∀ p q, p = 0 ∨ p = 1 ∨ p = 3 → q = 0 ∨ q = 1 ∨ q = 3 → p ≠ q → g.twEn p = true → g.twEn q = true →
        place p ≠ place q := by
  have hn : ([0, 1, 3].filter g.twEn).Nodup := List.Nodup.filter _ (by decide)
  simp only [anyPair_false_iff, beq_eq_false_iff_ne]
  rw [pairwise_iff_forall_ne (fun a b h => h.symm) hn]
  simp only [List.mem_filter, List.mem_cons, List.not_mem_nil, or_false, and_imp]
  exact ⟨fun h p q hp hq hne hep heq => h p hp hep q hq heq hne, fun h p hp hep q hq heq hne => h p q hp hq hne hep heq⟩

theorem checkTw_tests (on : Bool) (adsel : BitVec 2) (g : Setup) : Tests [
    ((∀ p < 4, g.twSpeed p ≠ 3 ∧ g.tout p ≤ 5 ∧ g.stuckt p ≠ 0 ∧ g.hangto p ≠ 0 ∧ g.rstw p ≠ 0) ∧
      g.rsten 0 = false ∧ g.rsten 1 = false ∧ ∀ p, p = 0 ∨ p = 1 ∨ p = 3 → Within 0x08 0x77 (effAddr g adsel p), 0x0102),
    ((∀ p q, p = 0 ∨ p = 1 ∨ p = 3 → q = 0 ∨ q = 1 ∨ q = 3 → p ≠ q → g.twEn p = true → g.twEn q = true →
        effAddr g adsel p ≠ effAddr g adsel q) ∧
      (∀ p, p = 2 ∨ p = 3 → g.twEn p = true → g.stuckt p < g.hangto p) ∧ OutputsReset g, 0x0103),
    (on = true ∨ ∀ p < 4, g.twEn p = false, 0x0105)] (checkTw on adsel g) := by
  refine Tests.cons ?_ fun _ => Tests.cons ?_ fun _ => Tests.last ?_
  · have hplace : ∀ x : Nat, (8 ≤ x ∧ x < 0x78) ↔ Within 8 0x77 x := fun x => by
      rw [Within]
      omega
    simp only [Bool.or_eq_false_iff, any_false_iff, decide_eq_false_iff_not, not_lt, not_le, List.mem_range, List.mem_cons, List.not_mem_nil, or_false, hplace, and_assoc, ne_eq]
  · simp only [Bool.or_eq_false_iff, targetPorts_apart_iff, any_false_iff, List.mem_cons, List.not_mem_nil, or_false,
      Bool.and_eq_false_imp, decide_eq_false_iff_not, not_le, bad471_false_iff, and_assoc]
  · rw [Bool.and_eq_false_iff, Bool.not_eq_false', any_range_false_iff]

theorem checkNvm_tests (g : Setup) :
    Tests [(Within 10 60000 g.scrInterval ∧ g.scrBatch ≠ 0, 0x0102)] (checkNvm g) := by
  refine Tests.last ?_
  simp only [Bool.or_eq_false_iff, outside_false_iff, decide_eq_false_iff_not, ne_eq]

/-! ## Events and comparators -/

theorem checkFlt_tests (g : Setup) : Tests [
    (Within 1 1000 g.escwin ∧ (∀ e < 128, reservedEvent e = true → g.get (0xC200 + 4 * e) = 0 ∧ g.masked e = false) ∧
      ∀ e < 128, reservedEvent e = false → g.rxVec e ≠ 0, 0x0102),
    ((∀ e < 128, g.rxBrst e = true → brstAllowed e = true) ∧ AbsoluteFit g, 0x0103)] (checkFlt g) := by
  have hevent : ∀ e, (if reservedEvent e then (g.get (0xC200 + 4 * e) != 0) || g.masked e else decide (g.rxVec e = 0)) =
      false ↔ (reservedEvent e = true → g.get (0xC200 + 4 * e) = 0 ∧ g.masked e = false) ∧
        (reservedEvent e = false → g.rxVec e ≠ 0) := fun e => by
    cases reservedEvent e <;> simp
  refine Tests.cons ?_ fun _ => Tests.last ?_
  · simp only [Bool.or_eq_false_iff, outside_false_iff, any_range_false_iff, hevent]
    simp only [imp_and, forall_and]
  · simp only [Bool.or_eq_false_iff, any_range_false_iff, Bool.and_eq_false_imp, Bool.not_eq_false', bad349_false_iff]

/-- A range of indices, counted from its start. -/
theorem forall_from_iff {p : Nat → Prop} (a n : Nat) : (∀ k < n, p (a + k)) ↔ ∀ w < a + n, a ≤ w → p w := by
  refine ⟨fun h w hw ha => ?_, fun h k hk => h (a + k) (by omega) (by omega)⟩
  obtain ⟨k, rfl⟩ := Nat.exists_eq_add_of_le ha
  exact h k (by omega)

theorem absWindows_any_false_iff {p : Nat → Bool} : absWindows.any p = false ↔ ∀ w < 76, 64 ≤ w → p w = false := by
  rw [absWindows, List.any_map, any_range_false_iff]
  exact forall_from_iff (p := fun w => p w = false) 64 12

theorem checkCmp_tests (g : Setup) : Tests [
    (Within 4 1000 g.proofper ∧ (∀ w < 76, 48 ≤ w → g.lmode w = false) ∧
      ∀ w < 64, 48 ≤ w → g.thrLo w ≠ 0 ∧ g.thrHi w ≠ 0, 0x0102),
    ((∀ w < 76, 64 ≤ w → g.thrLo w + 2 * g.thrHys w < g.thrHi w) ∧
      (∀ k < 3, g.aoEn k = true → g.aoLo k + 2 * g.aoHys k < g.aoHi k) ∧ PhasesLimited g ∧ WindowsFit g ∧
      (g.pfen = true → g.thrLo 72 ≠ 0), 0x0103)] (checkCmp g) := by
  refine Tests.cons ?_ fun _ => Tests.last ?_
  · simp only [Bool.or_eq_false_iff, outside_false_iff, any_range_false_iff, decide_eq_false_iff_not, ne_eq, and_assoc]
    exact and_congr_right fun _ => and_congr (forall_from_iff (p := fun w => g.lmode w = false) 48 28)
      (forall_from_iff (p := fun w => ¬ g.thrLo w = 0 ∧ ¬ g.thrHi w = 0) 48 16)
  · simp only [Bool.or_eq_false_iff, absWindows_any_false_iff, any_range_false_iff, Bool.and_eq_false_imp,
      decide_eq_false_iff_not, not_le, bad236_false_iff, bad232_false_iff, badPfen_false_iff, and_assoc]

/-! ## Setpoints -/

theorem targetOf_any_false_iff {s : State} {r : Rail} {p : Nat → Bool} :
    (targetOf s r.val).any p = false ↔ (s.eng.rails[r].enabled = true → p s.prn.rails[r].tgt.toNat = false) := by
  unfold targetOf
  simp only [Fin.ofNat_val_eq_self]
  cases s.eng.rails[r].enabled <;> simp

theorem checkPrn_tests (s : State) (g : Setup) : Tests [
    ((∀ p < 4, Within 1 50 (g.fnom p)) ∧ ∀ r < 8, Within 5 100 (g.tband r), 0x0102),
    ((∀ r : Rail, g.vmin r ≤ g.vmax r ∧ Within (g.vmin r) (g.vmax r) (g.vboot r) ∧
        Within (g.vmin r) (g.vmax r) (g.vsafe r) ∧
        (g.ownen r = true → g.portEn (g.owner r) = true ∧ Nat.testBit (g.portRails (g.owner r)) r = true) ∧
        (s.eng.rails[r].enabled = true → Within (g.vmin r) (g.vmax r) s.prn.rails[r].tgt.toNat)) ∧
      LevelsFit g ∧ WindowsFit g ∧ StepsFit g ∧ AbsoluteFit g, 0x0103)] (checkPrn (targetOf s) g) := by
  refine Tests.cons ?_ fun _ => Tests.last ?_
  · simp only [Bool.or_eq_false_iff, any_range_false_iff, anyRail_false_iff, outside_false_iff]
  · simp only [Bool.or_eq_false_iff, anyRail_false_iff_fin, decide_eq_false_iff_not, not_lt, Bool.not_eq_false',
      Bool.and_eq_true, Bool.and_eq_false_imp, decide_eq_true_eq, targetOf_any_false_iff, bad220_false_iff,
      bad232_false_iff, beyondSteps_false_iff, bad349_false_iff, and_assoc]
    simp only [Within, and_assoc]

/-! ## The ledger and the gauge (R298, R299, R319) -/

theorem rising_iff {xs : List Int} : rising xs = true ↔ xs.IsChain (· < ·) := by
  induction xs with
  | nil => simp [rising]
  | cons x xs ih =>
    cases xs with
    | nil => simp [rising]
    | cons y ys =>
      rw [List.isChain_cons_cons, ← ih]
      simp [rising]

theorem rising_range_iff {f : Nat → Int} (n : Nat) :
    rising ((List.range (n + 1)).map f) = true ↔ ∀ k < n, f k < f (k + 1) := by
  rw [rising_iff, List.isChain_map, List.isChain_range_succ]

theorem falling_range_iff {f : Nat → Int} (n : Nat) :
    rising ((List.range (n + 1)).map f).reverse = true ↔ ∀ k < n, f (k + 1) < f k := by
  rw [rising_iff, List.isChain_reverse, List.isChain_map, List.isChain_range_succ]

/-- The tables of R298 and R299. -/
theorem tablesBad_false_iff (g : Setup) : tablesBad g = false ↔
    g.spt 0 = 0 ∧ g.spt 31 = 10000 ∧ (∀ k < 31, g.spt k < g.spt (k + 1)) ∧ (∀ n < 3, g.tpt n < g.tpt (n + 1)) ∧
      (∀ t < 4, ∀ k < 31, g.ocv (32 * t + k) ≤ g.ocv (32 * t + k + 1)) ∧
      ((∀ n < 15, g.ttabValue n < g.ttabValue (n + 1)) ∨ ∀ n < 15, g.ttabValue (n + 1) < g.ttabValue n) := by
  have hpoints := rising_range_iff (f := fun k => (g.spt k : Int)) 31
  simp only [tablesBad, Bool.or_eq_false_iff, Bool.not_eq_false', Bool.and_eq_true, Bool.or_eq_true, decide_eq_true_eq,
    any_range_false_iff, decide_eq_false_iff_not, not_lt, hpoints, rising_range_iff 3, rising_range_iff 15,
    falling_range_iff 15, and_assoc, Nat.cast_lt]

theorem any_words_false_iff {old g : Setup} {xs : List Nat} :
    (xs.any fun off => old.get off != g.get off) = false ↔ ∀ off ∈ xs, old.get off = g.get off := by
  simp only [any_false_iff, bne_eq_false_iff_eq]

theorem mem_words {off base n : Nat} : off ∈ words base n ↔ ∃ k < n, off = base + 4 * k := by
  simp only [words, List.mem_map, List.mem_range, eq_comm]

theorem mem_words_one {off base : Nat} : off ∈ words base 1 ↔ off = base := by
  simp [words]

theorem gaugeMoves_false_iff (old g : Setup) : gaugeMoves old g = false ↔
    old.ns = g.ns ∧ ∀ off, off = 0xB104 ∨ off = 0xB120 ∨
      (∃ k < 16, off = 0xB140 + 4 * k ∨ off = 0xB300 + 4 * k) ∨ (∃ k < 64, off = 0xB400 + 4 * k) →
      old.get off = g.get off := by
  have htables : ∀ off, ((∃ k < 16, off = 0xB140 + 4 * k) ∨ ∃ k < 16, off = 0xB300 + 4 * k) ↔
      ∃ k < 16, off = 0xB140 + 4 * k ∨ off = 0xB300 + 4 * k := fun off => by
    simp only [and_or_left, exists_or]
  rw [gaugeMoves, Bool.or_eq_false_iff, bne_eq_false_iff_eq, any_words_false_iff]
  simp only [List.mem_append, mem_words_one, mem_words (n := 16), mem_words (n := 64), or_assoc, ← htables]

theorem checkLdg_tests (old : Setup) (onInput : Bool) (g : Setup) : Tests [
    (Within 500 1000 g.pkeff ∧ g.env ≠ 0 ∧ (g.ns = 0 ∨ Within 4 16 g.ns) ∧ Within 1 50 g.rate ∧
      g.dislim ≠ 0 ∧ g.nrh ≠ 0 ∧ g.rest ≠ 0 ∧ Within 100 60000 g.tstep, 0x0102),
    (g.cv2 < g.cv1 ∧ g.vhmin < g.cv2 ∧ (g.pfen = true → g.thrLo 72 ≠ 0) ∧ EnergyRegular g ∧ (g.ns ≠ 0 →
      g.qnom ≠ 0 ∧ g.kpv ≠ 0 ∧ g.kpi ≠ 0 ∧ g.vcut < g.vfull ∧ g.spt 0 = 0 ∧ g.spt 31 = 10000 ∧
      (∀ k < 31, g.spt k < g.spt (k + 1)) ∧ (∀ n < 3, g.tpt n < g.tpt (n + 1)) ∧
      (∀ t < 4, ∀ k < 31, g.ocv (32 * t + k) ≤ g.ocv (32 * t + k + 1)) ∧
      ((∀ n < 15, g.ttabValue n < g.ttabValue (n + 1)) ∨ ∀ n < 15, g.ttabValue (n + 1) < g.ttabValue n)), 0x0103),
    (onInput = true ∨ (old.ns = g.ns ∧ ∀ off, off = 0xB104 ∨ off = 0xB120 ∨
      (∃ k < 16, off = 0xB140 + 4 * k ∨ off = 0xB300 + 4 * k) ∨ (∃ k < 64, off = 0xB400 + 4 * k) →
      old.get off = g.get off), 0x0105)] (checkLdg old onInput g) := by
  have hcells : (g.ns != 0 && outside 4 16 g.ns) = false ↔ g.ns = 0 ∨ Within 4 16 g.ns := by
    rw [Bool.and_eq_false_iff, bne_eq_false_iff_eq, outside_false_iff]
  refine Tests.cons ?_ fun _ => Tests.cons ?_ fun _ => Tests.last ?_
  · simp only [Bool.or_eq_false_iff, hcells]
    simp only [outside_false_iff, decide_eq_false_iff_not, ne_eq, and_assoc]
  · simp only [Bool.or_eq_false_iff, Bool.and_eq_false_imp, decide_eq_false_iff_not, not_le, badPfen_false_iff,
      bne_iff_ne, tablesBad_false_iff, bad279_false_iff, and_assoc, ne_eq]
    exact and_congr_right fun _ => and_congr_right fun _ => and_congr_right fun _ => and_comm
  · rw [Bool.and_eq_false_iff, Bool.not_eq_false', gaugeMoves_false_iff]

/-! ## The sequencer (R256, R277, R471) -/

/-- A fold that keeps a bit keeps it over its whole list. -/
theorem hasBit_foldl_keep {α : Type} {f : BitVec 16 → α → BitVec 16} {k : Nat}
    (h : ∀ m x, hasBit m k = true → hasBit (f m x) k = true) (xs : List α) (m : BitVec 16) (hm : hasBit m k = true) :
    hasBit (xs.foldl f m) k = true := by
  induction xs generalizing m with
  | nil => exact hm
  | cons x xs ih => exact ih _ (h m x hm)

/-- A fold that keeps what sets a bit at a member of its list, and keeps that bit, ends with it. -/
theorem hasBit_foldl_sets {α : Type} {f : BitVec 16 → α → BitVec 16} {k : Nat} {x : α} (P : BitVec 16 → Prop)
    (hk : ∀ m y, hasBit m k = true → hasBit (f m y) k = true) (hP : ∀ m y, P m → P (f m y))
    (hx : ∀ m, P m → hasBit (f m x) k = true) {xs : List α} (hmem : x ∈ xs) (m : BitVec 16) (hm : P m) :
    hasBit (xs.foldl f m) k = true := by
  induction xs generalizing m with
  | nil => exact absurd hmem List.not_mem_nil
  | cons y ys ih =>
    rcases List.mem_cons.mp hmem with rfl | hmem
    · exact hasBit_foldl_keep hk ys _ (hx m hm)
    · exact ih hmem _ (hP m y hm)

theorem hasBit_putBit_true {m : BitVec 16} {i : SeqIdx} {k : Nat} (h : hasBit m k = true) :
    hasBit (putBit m i.val true) k = true := by
  by_cases hk : k = i.val
  · rw [hk]
    exact hasBit_putBit_same _ _ i.isLt
  · rw [hasBit_putBit_other _ _ hk, h]

theorem hasBit_ite_putBit {c : Prop} [Decidable c] {m : BitVec 16} {i : SeqIdx} {k : Nat} (h : hasBit m k = true) :
    hasBit (if c then putBit m i.val true else m) k = true := by
  split
  · exact hasBit_putBit_true h
  · exact h

theorem addDependants_keeps (g : Setup) {m : BitVec 16} {k : Nat} (h : hasBit m k = true) :
    hasBit (addDependants g m) k = true :=
  hasBit_foldl_keep (fun _ _ hm => hasBit_ite_putBit hm) _ _ h

theorem mem_usedRails {g : Setup} {i : SeqIdx} : i ∈ usedRails g ↔ g.use i.val = true := by
  rw [usedRails, mem_filter_fins]

/-- A rail that names a rail of the set joins it. -/
theorem addDependants_adds {g : Setup} {m : BitVec 16} {i : SeqIdx} {p : Nat} (hi : g.use i.val = true)
    (hdep : p ∈ g.deps i.val) (hp : hasBit m p = true) : hasBit (addDependants g m) i.val = true := by
  refine hasBit_foldl_sets (k := i.val) (fun m => hasBit m p = true) (fun _ _ hm => hasBit_ite_putBit hm)
    (fun _ _ hm => hasBit_ite_putBit hm) (fun m hm => ?_) (mem_usedRails.mpr hi) m hp
  rw [if_pos (List.any_eq_true.mpr ⟨p, hdep, hm⟩)]
  exact hasBit_putBit_same _ _ i.isLt

/-- Two used rails that name each other lie on a cycle. -/
theorem onCycle_of_mutual {g : Setup} {i j : SeqIdx} (hi : g.use i.val = true) (hj : g.use j.val = true)
    (hij : j.val ∈ g.deps i.val) (hji : i.val ∈ g.deps j.val) : onCycle g i = true := by
  unfold onCycle
  dsimp only
  have hfirst : hasBit ((usedRails g).foldl
      (fun m k => if (g.deps k.val).contains i.val then putBit m k.val true else m) (0 : BitVec 16)) j.val = true := by
    refine hasBit_foldl_sets (k := j.val) (fun _ => True) (fun _ _ hm => hasBit_ite_putBit hm) (fun _ _ h => h)
      (fun m _ => ?_) (mem_usedRails.mpr hj) _ trivial
    rw [if_pos (List.contains_iff_mem.mpr hji)]
    exact hasBit_putBit_same _ _ j.isLt
  generalize (usedRails g).foldl (fun m k => if (g.deps k.val).contains i.val then putBit m k.val true else m)
    (0 : BitVec 16) = m at hfirst
  rw [List.range_succ, List.foldl_append]
  exact addDependants_adds hi hij (hasBit_foldl_keep (fun _ _ hm => addDependants_keeps g hm) _ _ hfirst)

/-- What R277 fixes while a rail is not OFF. -/
theorem seqMoves_false_iff (old g : Setup) (st : SeqIdx → RailState) : seqMoves old g st = false ↔
    ∀ i, st i ≠ .off →
      (∀ k < 5, old.get (0x7100 + 0x20 * i.val + 4 * k) = g.get (0x7100 + 0x20 * i.val + 4 * k)) ∧
      old.enpin (groupOf old i).val = g.enpin (groupOf old i).val ∧
      ∀ k : SeqIdx, old.use k.val = true ∨ g.use k.val = true →
        (groupOf old k = groupOf old i ↔ groupOf g k = groupOf old i) := by
  have hwords : ∀ i : SeqIdx, (∀ off ∈ words (0x7100 + 0x20 * i.val) 5, old.get off = g.get off) ↔
      ∀ k < 5, old.get (0x7100 + 0x20 * i.val + 4 * k) = g.get (0x7100 + 0x20 * i.val + 4 * k) := fun i => by
    simp only [mem_words, forall_exists_index, and_imp]
    exact ⟨fun h k hk => h _ k hk rfl, fun h off k hk he => he ▸ h k hk⟩
  have hgroup : ∀ i k : SeqIdx, ((groupOf old k == groupOf old i) != (groupOf g k == groupOf old i) &&
      (old.use k.val || g.use k.val)) = false ↔ (old.use k.val = true ∨ g.use k.val = true →
        (groupOf old k = groupOf old i ↔ groupOf g k = groupOf old i)) := fun i k => by
    rw [Bool.and_comm, Bool.and_eq_false_imp, Bool.or_eq_true, bne_eq_false_iff_eq]
    refine imp_congr_right fun _ => ?_
    rw [Bool.eq_iff_iff, beq_iff_eq, beq_iff_eq]
  simp only [seqMoves, Bool.or_eq_false_iff, any_false_iff, mem_filter_fins, bne_iff_ne, mem_fins, forall_const,
    hgroup, bne_eq_false_iff_eq]
  simp only [hwords, ← forall_and, ne_eq]

theorem checkSeqBase_rows (g : Setup) : ∃ b₁ b₂ : Bool, checkSeqBase g = firstBad [(b₁, 0x0102), (b₂, 0x0103)] ∧
    (b₁ = false ↔ Within 1 100 g.retq ∧ g.rxto ≠ 0 ∧
      (∀ i < 16, g.mhi i ≤ 100 ∧ g.mlo i ≤ 100 ∧ (8 ≤ i → g.mhi i = 0 ∧ g.mlo i = 0) ∧
        (g.xmode i = true → 8 ≤ i ∧ g.use i = false)) ∧
      ∀ i : SeqIdx, g.use i.val = true → (i.val < 8 → g.ramp i.val ≠ 0) ∧ g.pgto i.val ≠ 0) ∧
    (b₂ = false ↔ (∀ i : SeqIdx, g.use i.val = true → onCycle g i = false ∧
        ∀ p ∈ g.deps i.val, p ≠ i.val ∧ g.use p = true) ∧
      (∀ p : SeqIdx, g.use p.val = true → ∀ d ∈ dependants g p, groupOf g d = groupOf g p →
        g.ordmode (groupOf g p).val = true → g.offpos d.val < g.offpos p.val) ∧
      RailsServed g ∧ StepsFit g ∧ OutputsReset g ∧ AbsoluteFit g) := by
  refine ⟨_, _, rfl, ?_, ?_⟩
  · simp only [Bool.or_eq_false_iff, outside_false_iff, any_range_false_iff, usedRails_any_false_iff,
      Bool.and_eq_false_imp, decide_eq_false_iff_not, decide_eq_true_eq, not_lt, bne_eq_false_iff_eq, and_assoc, ne_eq]
  · simp only [Bool.or_eq_false_iff, any_false_iff, mem_usedRails, Bool.and_eq_true, Bool.and_eq_false_imp,
      decide_eq_false_iff_not, not_le, beq_eq_false_iff_ne, beq_iff_eq, Bool.not_eq_false', usedUnserved_false_iff,
      beyondSteps_false_iff, bad471_false_iff, bad349_false_iff, and_assoc, and_imp]
    rw [← and_assoc, ← forall₂_and]
    simp only [and_comm]

theorem checkSeq_tests (old : Setup) (st : SeqIdx → RailState) (g : Setup) : Tests [
    (Within 1 100 g.retq ∧ g.rxto ≠ 0 ∧
      (∀ i < 16, g.mhi i ≤ 100 ∧ g.mlo i ≤ 100 ∧ (8 ≤ i → g.mhi i = 0 ∧ g.mlo i = 0) ∧
        (g.xmode i = true → 8 ≤ i ∧ g.use i = false)) ∧
      ∀ i : SeqIdx, g.use i.val = true → (i.val < 8 → g.ramp i.val ≠ 0) ∧ g.pgto i.val ≠ 0, 0x0102),
    ((∀ i : SeqIdx, g.use i.val = true → onCycle g i = false ∧ ∀ p ∈ g.deps i.val, p ≠ i.val ∧ g.use p = true) ∧
      (∀ p : SeqIdx, g.use p.val = true → ∀ d ∈ dependants g p, groupOf g d = groupOf g p →
        g.ordmode (groupOf g p).val = true → g.offpos d.val < g.offpos p.val) ∧
      RailsServed g ∧ StepsFit g ∧ OutputsReset g ∧ AbsoluteFit g, 0x0103),
    (∀ i, st i ≠ .off →
      (∀ k < 5, old.get (0x7100 + 0x20 * i.val + 4 * k) = g.get (0x7100 + 0x20 * i.val + 4 * k)) ∧
      old.enpin (groupOf old i).val = g.enpin (groupOf old i).val ∧
      ∀ k : SeqIdx, old.use k.val = true ∨ g.use k.val = true →
        (groupOf old k = groupOf old i ↔ groupOf g k = groupOf old i), 0x0105)] (checkSeq old st g) := by
  obtain ⟨b₁, b₂, hbase, h₁, h₂⟩ := checkSeqBase_rows g
  rw [checkSeq, hbase]
  refine Eq.subst (motive := Tests _) (firstBad_append [(b₁, 0x0102), (b₂, 0x0103)] _).symm ?_
  exact Tests.cons h₁ fun _ => Tests.cons h₂ fun _ => Tests.last (seqMoves_false_iff old g st)

end Sys2Proof.Machine
end

section
/-!
The checks that sum over the loop lane and the lane pairs, and the bank check (O57).
-/

namespace Sys2Proof.Machine

/-! ## The converter array -/

theorem checkAdc_tests {g : Setup} (hper : ∀ r < 8, g.period r ≠ 0) : Tests [
    (Within 8 1000 g.rotper ∧ g.trigWin ≤ 79 ∧ (∀ r < 8, g.curpp r ≠ 3) ∧ (∀ n < 32, g.regChan n ≤ 0x67) ∧
      ∀ n < 8, g.injChan n ≤ 0x67, 0x0102),
    (LaneFits g ∧ (∀ c < 104, g.rangeLo c ≤ g.rangeHi c) ∧ EnergyRegular g, 0x0103), (BudgetFits g, 0x010D),
    (∀ p < 4, PairFits g p, 0x0112)] (checkAdc g) := by
  refine Tests.cons ?_ fun _ => Tests.cons ?_ fun _ =>
    Tests.cons (overLane_false_iff hper) fun _ => Tests.last (engineBad_false_iff hper)
  · simp only [Bool.or_eq_false_iff, outside_false_iff, anyRail_false_iff, any_range_false_iff, decide_eq_false_iff_not,
      not_lt, ne_eq, and_assoc]
  · simp only [Bool.or_eq_false_iff, loopLaneBad_false_iff, any_range_false_iff, decide_eq_false_iff_not, not_lt,
      bad279_false_iff, and_assoc]

/-! ## Banks (R97, R110, R111) -/

theorem bitsOf_eq (w : Word) (lo len : Nat) : bitsOf w lo len = (w.extractLsb' lo len).toNat := by
  rw [bitsOf, BitVec.extractLsb'_toNat, Nat.shiftRight_eq_div_pow]

/-- The high half of a word is clear. -/
theorem and_highHalf_eq_zero_iff (w : Word) : w &&& 0xFFFF0000 = 0 ↔ w.extractLsb' 16 16 = 0 := by
  have hbit : ∀ i < 32, (0xFFFF0000 : Word).getLsbD i = decide (16 ≤ i) := by decide
  refine ⟨fun h => BitVec.eq_of_getLsbD_eq fun i hi => ?_, fun h => BitVec.eq_of_getLsbD_eq fun i hi => ?_⟩
  · have hi' : (w &&& 0xFFFF0000).getLsbD (16 + i) = (0 : Word).getLsbD (16 + i) := by rw [h]
    rw [BitVec.getLsbD_and, hbit _ (by omega)] at hi'
    simpa [hi] using hi'
  · rw [BitVec.getLsbD_and, hbit i hi]
    by_cases hlow : 16 ≤ i
    · have hi' := congrArg (fun x : BitVec 16 => x.getLsbD (i - 16)) h
      simpa [hlow, show i - 16 < 16 by omega] using hi'
    · simp [hlow]

theorem bankReserved_eq_zero {k : Nat} (h : k ≠ 17 ∧ k ≠ 29 ∧ k ≠ 31) : bankReserved k = 0 := by
  obtain ⟨h17, h29, h31⟩ := h
  rw [bankReserved, if_neg (not_or.mpr ⟨h17, h29⟩), if_neg h31]

theorem bankReservedSet_false_iff (b : Vector Word 32) : bankReservedSet b = false ↔
    b[17].extractLsb' 16 16 = 0 ∧ b[29].extractLsb' 16 16 = 0 ∧ b[31] = 0 := by
  simp only [bankReservedSet, any_false_iff, mem_fins, forall_const, bne_eq_false_iff_eq]
  refine ⟨fun h => ⟨(and_highHalf_eq_zero_iff _).mp (h 17), (and_highHalf_eq_zero_iff _).mp (h 29), ?_⟩, fun h k => ?_⟩
  · have h31 := h 31
    exact (BitVec.and_allOnes (x := b[31])).symm.trans h31
  · obtain ⟨h17, h29, h31⟩ := h
    by_cases hk : k = 17 ∨ k = 29 ∨ k = 31
    · rcases hk with rfl | rfl | rfl
      · exact (and_highHalf_eq_zero_iff _).mpr h17
      · exact (and_highHalf_eq_zero_iff _).mpr h29
      · exact (congrArg (· &&& bankReserved 31) h31).trans (by decide)
    · have hne : k.val ≠ 17 ∧ k.val ≠ 29 ∧ k.val ≠ 31 := by
        simp only [not_or, Fin.ext_iff] at hk
        exact hk
      rw [bankReserved_eq_zero hne]
      exact BitVec.and_zero

theorem bankCheck_tests (b : Vector Word 32) : Tests [
    (b[17].extractLsb' 16 16 = 0 ∧ b[29].extractLsb' 16 16 = 0 ∧ b[31] = 0, 0x0102),
    (b[14].toInt < b[13].toInt ∧ 0 ≤ b[28].toInt ∧ b[28].toInt < b[27].toInt ∧ b[27].toInt ≤ 0x7F000000 ∧
      0 ≤ b[15].toInt ∧ (0 < b[15].toInt → 0 < b[16].toInt ∧ b[16].toInt < b[15].toInt ∧
        b[17].extractLsb' 0 8 ≠ 0 ∧ b[17].extractLsb' 8 8 ≠ 0) ∧
      0 ≤ b[21].toInt ∧ 0 ≤ b[23].toInt ∧ 0 ≤ b[26].toInt ∧ b[22].extractLsb' 16 16 ≠ 0 ∧
      (b[22].extractLsb' 16 16).toNat ≤ (b[22].extractLsb' 0 16).toNat, 0x0103)] (bankCheck b) := by
  have hpos : ∀ {n : Nat} (x : BitVec n), 1 ≤ x.toNat ↔ x ≠ 0 := fun x => by
    rw [Nat.one_le_iff_ne_zero, ne_eq, ne_eq, ← BitVec.toNat_inj]
    rfl
  refine Tests.cons (bankReservedSet_false_iff b) fun _ => Tests.last ?_
  simp only [Bool.or_eq_false_iff, Bool.not_eq_false', Bool.and_eq_true, Bool.and_eq_false_imp, decide_eq_true_eq,
    decide_eq_false_iff_not, not_lt, bitsOf_eq, hpos, and_assoc]
  exact Iff.rfl

/-! ## The control engine (R91, R111, R134, R135) -/

section Eng
variable {banks : Rail → Vector Word 32} {on : Nat → Bool} {g : Setup}

/-- The ranges of the engine's words (R134). -/
def EngRanges (g : Setup) : Prop := g.mmlim ≠ 0 ∧ g.fcmiss ≠ 0 ∧ ∀ r < 8, 110 ≤ g.vbmin r

theorem engRanges_iff : (g.mmlim = 0 || g.fcmiss = 0 || anyRail (fun r => decide (g.vbmin r < 110))) = false ↔
    EngRanges g := by
  simp only [EngRanges, Bool.or_eq_false_iff, anyRail_false_iff, decide_eq_false_iff_not, not_lt, ne_eq, and_assoc]

theorem checkEng_outside (h : ¬ EngRanges g) : checkEng banks on g = some 0x0102 := by
  have hbad : (g.mmlim = 0 || g.fcmiss = 0 || anyRail (fun r => decide (g.vbmin r < 110))) = true := by
    rw [← Bool.not_eq_false]
    exact engRanges_iff.not.mpr h
  rw [checkEng, firstBad, if_pos hbad]
  rfl

theorem checkEng_ranges (h : EngRanges g) : checkEng banks on g = match banksCheck banks g with
    | some c => some c
    | none => firstBad [(usedUnserved g, codeInconsistent), (pairOff on g, codeState), (engineBad g, codeEngine)] := by
  rw [checkEng, firstBad, engRanges_iff.mpr h]
  rfl

theorem banksCheck_none_iff : banksCheck banks g = none ↔ ∀ r : Rail, g.engEn r.val = true → bankCheck (banks r) = none := by
  simp only [banksCheck, List.findSome?_eq_none_iff, mem_filter_fins]

theorem banksCheck_some {c : Nat} (h : banksCheck banks g = some c) :
    ∃ r : Rail, g.engEn r.val = true ∧ bankCheck (banks r) = some c := by
  obtain ⟨r, hr, hc⟩ := List.exists_of_findSome?_eq_some h
  exact ⟨r, (mem_filter_fins r _).mp hr, hc⟩

theorem checkEng_bank (h : EngRanges g) (hb : ¬ ∀ r : Rail, g.engEn r.val = true → bankCheck (banks r) = none) :
    ∃ r : Rail, g.engEn r.val = true ∧ bankCheck (banks r) ≠ none ∧ checkEng banks on g = bankCheck (banks r) := by
  obtain ⟨c, hc⟩ := Option.ne_none_iff_exists'.mp (banksCheck_none_iff.not.mpr hb)
  obtain ⟨r, hr, hrc⟩ := banksCheck_some hc
  refine ⟨r, hr, by rw [hrc]; exact nofun, ?_⟩
  rw [checkEng_ranges h, hc, hrc]

theorem checkEng_tests (hper : ∀ r < 8, g.period r ≠ 0) (h : EngRanges g)
    (hb : ∀ r : Rail, g.engEn r.val = true → bankCheck (banks r) = none) : Tests [(RailsServed g, 0x0103),
      (∀ r < 8, g.engEn r = true → on (if g.pair r < 2 then pdEngA else pdEngB) = true, 0x0105),
      (∀ p < 4, PairFits g p, 0x0112)] (checkEng banks on g) := by
  rw [checkEng_ranges h, banksCheck_none_iff.mpr hb]
  refine Tests.cons (usedUnserved_false_iff g) fun _ => Tests.cons ?_ fun _ => Tests.last (engineBad_false_iff hper)
  simp only [pairOff, anyRail_false_iff, Bool.and_eq_false_imp, Bool.not_eq_false']

end Eng

/-! ## The PWM subsystem (R146, R220) -/

/-- What R146 fixes of a rail that is not off. -/
def PlanStands (old g : Setup) (r : Nat) : Prop :=
  old.period r = g.period r ∧ old.dual r = g.dual r ∧ old.rofs r = g.rofs r ∧
    ∀ h < 48, (old.role h ≠ 0 ∧ old.phRail h = r ↔ g.role h ≠ 0 ∧ g.phRail h = r) ∧
      (old.role h ≠ 0 → old.phRail h = r → old.role h = g.role h ∧ old.order h = g.order h)

theorem plannedMoves_false_iff (old g : Setup) (r : Nat) : plannedMoves old g r = false ↔ PlanStands old g r := by
  have hin : ∀ a : Setup, ∀ h, (a.role h != 0 && a.phRail h == r) = true ↔ a.role h ≠ 0 ∧ a.phRail h = r := fun a h => by
    rw [Bool.and_eq_true, bne_iff_ne, beq_iff_eq]
  simp only [plannedMoves, PlanStands, Bool.or_eq_false_iff, bne_eq_false_iff_eq, any_false_iff, mem_fins, forall_const,
    Bool.and_eq_false_imp, and_assoc, Fin.forall_iff]
  refine and_congr_right fun _ => and_congr_right fun _ => and_congr_right fun _ => forall₂_congr fun h _ => and_congr ?_ ?_
  · rw [Bool.eq_iff_iff, hin, hin]
  · rw [hin, and_imp]

/-- What R146 fixes of a rail whose phase is being admitted. -/
def PlanHeld (old g : Setup) (r : Nat) : Prop :=
  (∀ off, (∃ k < 8, off = 0x5300 + 0x20 * r + 4 * k) ∨ (∃ k < 4, off = 0x5800 + 0x20 * r + 4 * k) ∨
    off = 0x3020 + 4 * r → old.get off = g.get off) ∧
  ∀ h < 48, old.phRail h = r ∨ g.phRail h = r → old.get (0x5100 + 4 * h) = g.get (0x5100 + 4 * h)

theorem planChanges_false_iff (old g : Setup) (r : Nat) : planChanges old g r = false ↔ PlanHeld old g r := by
  have hword : ∀ h, (old.get (0x5100 + 4 * h) != g.get (0x5100 + 4 * h) && (old.phRail h == r || g.phRail h == r)) = false ↔
      (old.phRail h = r ∨ g.phRail h = r → old.get (0x5100 + 4 * h) = g.get (0x5100 + 4 * h)) := fun h => by
    rw [Bool.and_comm, Bool.and_eq_false_imp, Bool.or_eq_true, beq_iff_eq, beq_iff_eq, bne_eq_false_iff_eq]
  rw [planChanges, PlanHeld, Bool.or_eq_false_iff, any_words_false_iff, any_false_iff]
  simp only [List.mem_append, mem_words_one, mem_words (n := 8), mem_words (n := 4), or_assoc, mem_fins, forall_const,
    hword, Fin.forall_iff]

/-- The ranges of a phase plan (R146). -/
def PlanRanges (g : Setup) : Prop := (∀ h < 48, g.role h ≠ 3) ∧ ∀ r < 8,
  g.pwmMode r ≠ 3 ∧ Within 512 8192 (g.period r) ∧ g.angrate r ≠ 0 ∧ 8 ≤ g.tonmin r ∧
  g.rktrip r ≤ g.rkwin r ∧ g.rktrip r ≠ 0 ∧ g.shdwell r ≠ 0 ∧ g.iavgx r ≤ 8 ∧ g.plcnt r ≠ 0 ∧
  g.lossdec r ≠ 0 ∧ g.hton r ≠ 0 ∧ g.hblank r ≠ 0 ∧ g.hoff r ≠ 0 ∧ Within 1 200 (g.hlo r) ∧
  Within 1 200 (g.hhi r) ∧ g.blind r ≠ 0 ∧ g.rgcnt r ≠ 0 ∧ g.plim r ≠ 0 ∧ g.dcmin r ≠ 0 ∧ g.curpp r ≠ 3

theorem PlanRanges.period_ne_zero {g : Setup} (h : PlanRanges g) : ∀ r < 8, g.period r ≠ 0 := fun r hr => by
  obtain ⟨-, ⟨hlo, -⟩, -⟩ := h.2 r hr
  omega

/-- The rows of a phase plan alone, the order of R144 first, and then those of the rules it shares. -/
def planRows (old g : Setup) (runs admits : Rail → Prop) : List (Prop × Nat) := [
  (PlanRanges g, 0x0102),
  (∀ r < 8, (∀ k < (planned g r).length, ∃ h ∈ planned g r, g.order h.val = k) ∧
    (∀ h ∈ planned g r, g.order h.val < activeOf g r → g.role h.val = 1) ∧
    (planned g r).length - activeOf g r ≤ 4 ∧ (activeOf g r = 0 → (planned g r).length = 0), 0x0103),
  (∀ r < 8, g.tonmin r ≤ g.tonmax r ∧ 2 * (g.tonmin r + g.toffmin r) ≤ g.period r, 0x0103),
  (∀ r < 8, g.pwmMode r = 1 ∨ g.pwmMode r = 2 →
    g.ished r < g.iadd r ∧ g.iscale r ≠ 0 ∧ g.nmin r ≠ 0 ∧ g.nmin r ≤ activeOf g r, 0x0103),
  (∀ r < 8, g.pwmMode r = 2 → g.ilight r ≠ 0 ∧ 2 * g.ilight r ≤ g.iadd r, 0x0103),
  (∀ r < 8, g.nfloor r ≤ activeOf g r, 0x0103),
  (LevelsFit g ∧ WindowsFit g ∧ PhasesLimited g ∧ RailsServed g, 0x0103),
  (LaneFits g, 0x0103), (BudgetFits g, 0x010D), (∀ p < 4, PairFits g p, 0x0112),
  (∀ r : Rail, runs r → PlanStands old g r.val, 0x0105),
  (∀ r : Rail, admits r → PlanHeld old g r.val, 0x0104)]

theorem checkPwm_tests (old g : Setup) {off admitting : Nat → Bool} {runs admits : Rail → Prop}
    (hruns : ∀ r : Rail, off r.val = false ↔ runs r) (hadmits : ∀ r : Rail, admitting r.val = true ↔ admits r) :
    Tests (planRows old g runs admits) (checkPwm old off admitting g) := by
  unfold checkPwm checkPwmBase planRows
  refine Eq.subst (motive := Tests _) (firstBad_append _ _).symm ?_
  refine Tests.cons ?_ fun hrange => Tests.cons ?_ fun _ => Tests.cons ?_ fun _ => Tests.cons ?_ fun _ =>
    Tests.cons ?_ fun _ => Tests.cons ?_ fun _ => Tests.cons ?_ fun _ => Tests.cons (loopLaneBad_false_iff g) fun _ =>
    Tests.cons (overLane_false_iff hrange.period_ne_zero) fun _ =>
    Tests.cons (engineBad_false_iff hrange.period_ne_zero) fun _ => Tests.cons ?_ fun _ => Tests.last ?_
  · simp only [PlanRanges, Bool.or_eq_false_iff, any_range_false_iff, anyRail_false_iff, outside_false_iff,
      decide_eq_false_iff_not, not_lt, ne_eq, and_assoc]
  · simp only [anyRail_false_iff, orderBad_false_iff]
  · simp only [anyRail_false_iff, Bool.or_eq_false_iff, decide_eq_false_iff_not, not_lt]
  · simp only [anyRail_false_iff, Bool.and_eq_false_imp, Bool.or_eq_true, Bool.or_eq_false_iff, decide_eq_true_eq,
      decide_eq_false_iff_not, not_lt, not_le, ne_eq, nActPlan_eq, and_assoc]
  · simp only [anyRail_false_iff, Bool.and_eq_false_imp, Bool.or_eq_false_iff, decide_eq_true_eq,
      decide_eq_false_iff_not, not_lt, ne_eq]
  · simp only [anyRail_false_iff, decide_eq_false_iff_not, not_lt, nActPlan_eq]
  · simp only [Bool.or_eq_false_iff, bad220_false_iff, bad232_false_iff, bad236_false_iff, usedUnserved_false_iff,
      and_assoc]
  · simp only [anyRail_false_iff_fin, Bool.and_eq_false_imp, Bool.not_eq_true', plannedMoves_false_iff, hruns]
  · simp only [anyRail_false_iff_fin, Bool.and_eq_false_imp, planChanges_false_iff, hadmits]

/-- Settles O57: the bank's check and each block's by the rows of their own lemmas. -/
theorem setupChecks : Obligations.SetupChecks := by
  unfold Obligations.SetupChecks
  refine ⟨bankCheck_tests, fun s g => ?_⟩
  intro old used within levels windows phases active served steps absolute input regular energy outputs lane load budget
    engine
  refine ⟨checkTw_tests _ _ g, checkNvm_tests g, checkFlt_tests g, checkCmp_tests g, checkPrn_tests s g, ?_,
    ⟨checkSeq_tests old (railState s) g, fun i j hi hj hij hji => onCycle_of_mutual hi hj hij hji⟩, fun hper => ⟨checkAdc_tests hper, ?_⟩, ?_⟩
  · have hinput : (s.ldg.src == .input) = true ↔ s.ldg.src = .input := beq_iff_eq
    rw [← hinput]
    exact checkLdg_tests old (s.ldg.src == .input) g
  · intro banks ranges
    exact ⟨fun h hb => checkEng_bank h hb, fun h hb => checkEng_tests hper h hb, fun h => checkEng_outside h⟩
  · exact checkPwm_tests old g (runs := fun r => railOff s r = false)
      (admits := fun r => s.pwm.rails[r].admission ≠ none)
      (fun r => by rw [Fin.ofNat_val_eq_self]) (fun r => by rw [getElem_ofNat_val, Option.isSome_iff_ne_none])

end Sys2Proof.Machine
end

section
/-!
The law's arithmetic (O58, O29): gain words as rounded and saturated products, sums that saturate at each addition,
and the bounds of the head, the tail and the on-time commands.
-/

namespace Sys2Proof.Machine

/-! ## Saturation (R97, R99) -/

/-- A field of a word read as two's complement is the field's own value (R5). -/
theorem signed_toNat {n : Nat} (hn : 0 < n) (x : BitVec n) : signed n x.toNat = x.toInt := by
  have hpow : 2 * 2 ^ (n - 1) = 2 ^ n := by rw [← pow_succ', Nat.sub_add_cancel hn]
  rw [signed, BitVec.toInt_eq_toNat_cond]
  simp only [← hpow, Nat.mul_lt_mul_left Nat.two_pos]

theorem sbitsOf_eq (w : Word) (lo : Nat) {len : Nat} (hlen : 0 < len) :
    sbitsOf w lo len = (w.extractLsb' lo len).toInt := by
  rw [sbitsOf, bitsOf_eq, signed_toNat hlen]

theorem sat32_val (x : Int) : (sat32 x).val = max (-(2 ^ 31)) (min (2 ^ 31 - 1) x) := clampInt_eq (by decide) x

theorem sat32_ovf (x : Int) : (sat32 x).ovf = true ↔ x < -(2 ^ 31) ∨ 2 ^ 31 - 1 < x := by
  rw [sat32, bne_iff_ne]
  exact clampInt_ne_iff (by decide) x

theorem sat32_exact {x : Int} (h : (sat32 x).ovf = false) : (sat32 x).val = x := by
  rw [sat32, bne_eq_false_iff_eq] at h
  exact h

/-! ## Gain words (R98) -/

/-- The product of a gain word and a signal, rounded to its scale and not yet saturated. -/
def scaledProduct (w : Word) (x : Int) : Int :=
  if bitsOf w 0 5 = 0 then x * sbitsOf w 5 27
  else (x * sbitsOf w 5 27 + (2 ^ (bitsOf w 0 5 - 1) : Nat)) / (2 ^ bitsOf w 0 5 : Nat)

theorem gain_eq (w : Word) (x : Int) : gain w x = sat32 (scaledProduct w x) := rfl

/-- The addition of half a unit before the shift rounds to the nearest multiple, a tie upward. -/
theorem scaledProduct_nearest (w : Word) (x : Int) :
    2 * (sbitsOf w 5 27 * x) < (2 * scaledProduct w x + 1) * 2 ^ bitsOf w 0 5 ∧
      (2 * scaledProduct w x - 1) * 2 ^ bitsOf w 0 5 ≤ 2 * (sbitsOf w 5 27 * x) := by
  unfold scaledProduct
  rw [mul_comm (sbitsOf w 5 27) x]
  generalize x * sbitsOf w 5 27 = p
  by_cases hs : bitsOf w 0 5 = 0
  · rw [if_pos hs, hs]
    omega
  · rw [if_neg hs]
    obtain ⟨k, hk⟩ := Nat.exists_eq_succ_of_ne_zero hs
    rw [hk, Nat.succ_sub_one, pow_succ', Nat.cast_mul, Nat.cast_pow, Nat.cast_ofNat, pow_succ']
    have hpos : (0 : Int) < 2 ^ k := by positivity
    generalize (2 : Int) ^ k = half at hpos
    have hlow := Int.ediv_mul_le (p + half) (show 2 * half ≠ 0 by omega)
    have hhigh := Int.lt_ediv_add_one_mul_self (p + half) (show 0 < 2 * half by omega)
    generalize (p + half) / (2 * half) = v at *
    constructor <;> linarith

/-- Settles O58: a gain word's shift is its floor division, and both it and a sum saturate through `sat32`. -/
theorem gainWords : Obligations.GainWords := by
  unfold Obligations.GainWords
  intro clamp
  refine ⟨fun w x _ _ => ?_, fun a b => sat32_val _, fun a b xs => ?_⟩
  · intro c n p
    have hp : scaledProduct w x = p := by
      unfold scaledProduct
      rw [sbitsOf_eq w 5 (by decide), bitsOf_eq]
      simp only [p, c, n, Int.shiftRight_eq_div_pow, Nat.cast_pow, Nat.cast_ofNat]
    rw [gain_eq, sat32_val, hp]
  · have hsum : Sat.sum (a :: xs ++ [b]) = Sat.add (Sat.sum (a :: xs)) b := List.foldl_concat ..
    rw [hsum]
    exact sat32_val _

/-- A gain word's result within its range, its rounding and its saturation (R98, R99). -/
theorem gain_rounds (w : Word) (x : Int) :
    ((gain w x).val < 2 ^ 31 ∧ -(2 ^ 31) ≤ (gain w x).val) ∧
      ((gain w x).ovf = false →
        2 * (sbitsOf w 5 27 * x) < (2 * (gain w x).val + 1) * 2 ^ bitsOf w 0 5 ∧
          (2 * (gain w x).val - 1) * 2 ^ bitsOf w 0 5 ≤ 2 * (sbitsOf w 5 27 * x)) ∧
      ((gain w x).ovf = true →
        ((gain w x).val = 2 ^ 31 - 1 ∧ (2 ^ 32 - 1) * 2 ^ bitsOf w 0 5 ≤ 2 * (sbitsOf w 5 27 * x)) ∨
          ((gain w x).val = -(2 ^ 31) ∧ 2 * (sbitsOf w 5 27 * x) < (-(2 ^ 32) - 1) * 2 ^ bitsOf w 0 5)) := by
  obtain ⟨hup, hlow⟩ := scaledProduct_nearest w x
  have hulp : (0 : Int) < 2 ^ bitsOf w 0 5 := by positivity
  rw [gain_eq]
  refine ⟨by rw [sat32_val]; omega, fun ho => ?_, fun ho => ?_⟩
  · rw [sat32_exact ho]
    exact ⟨hup, hlow⟩
  · rw [sat32_val]
    rcases (sat32_ovf _).mp ho with hneg | hpos
    · refine .inr ⟨by omega, hup.trans_le ?_⟩
      exact mul_le_mul_of_nonneg_right (by omega) hulp.le
    · refine .inl ⟨by omega, le_trans ?_ hlow⟩
      exact mul_le_mul_of_nonneg_right (by omega) hulp.le

/-! ## The head and the tail (R100, R103, R104) -/

theorem onTime_le (g : Setup) (r : Nat) (d : Int) : onTime g r d ≤ 0xFFFD := min_le_left ..

theorem clampInt_mem {lo hi : Int} (h : lo ≤ hi) (x : Int) : lo ≤ clampInt lo hi x ∧ clampInt lo hi x ≤ hi := by
  rw [clampInt_eq h]
  omega

theorem clampInt_inside {lo hi x : Int} (hlo : lo ≤ x) (hhi : x ≤ hi) : clampInt lo hi x = x := by
  rw [clampInt, if_neg hlo.not_gt, if_neg hhi.not_gt]

/-- The duty that the boost band leaves of a wanted one. -/
def bandDuty (e : EngRail) (b : Boost) (du : Int) : Int :=
  match b with
  | .activeOn => (e.word 27).toInt
  | .activeOff => (e.word 28).toInt
  | _ => clampInt (e.word 28).toInt (e.word 27).toInt du

theorem runHead_d (g : Setup) (r : Nat) (e : EngRail) (value : Int) (pos : Nat) (ref dith : Int) :
    (runHead g r e value pos ref dith).d =
      bandDuty e (runHead g r e value pos ref dith).boost (runHead g r e value pos ref dith).du := by
  simp only [runHead]
  generalize (boostHead e _ _).1 = b
  cases b <;> rfl

theorem bandDuty_mem {e : EngRail} (h : (e.word 28).toInt ≤ (e.word 27).toInt) (b : Boost) (du : Int) :
    (e.word 28).toInt ≤ bandDuty e b du ∧ bandDuty e b du ≤ (e.word 27).toInt := by
  cases b with
  | activeOn => exact ⟨h, le_rfl⟩
  | activeOff => exact ⟨le_rfl, h⟩
  | armed => exact clampInt_mem h du
  | rearm => exact clampInt_mem h du

theorem bandDuty_passive {e : EngRail} {b : Boost} {du : Int} (hb : b = .armed ∨ b = .rearm)
    (hlo : (e.word 28).toInt ≤ du) (hhi : du ≤ (e.word 27).toInt) : bandDuty e b du = du := by
  rcases hb with rfl | rfl <;> exact clampInt_inside hlo hhi

theorem runTail_integ (e : EngRail) (h : Head) : ∃ x, (runTail e h).1.integ =
    if h.boost.isActive = true then e.integ else clampInt (e.word 14).toInt (e.word 13).toInt x := ⟨_, rfl⟩

/-- The limits of a head whose duty is the band's, and of its tail (R100, R103, R104). -/
theorem head_limits {e : EngRail} {h : Head} (hd : h.d = bandDuty e h.boost h.du) :
    ((e.word 28).toInt ≤ (e.word 27).toInt → (e.word 28).toInt ≤ h.d ∧ h.d ≤ (e.word 27).toInt) ∧
      (h.boost = .activeOn → h.d = (e.word 27).toInt) ∧ (h.boost = .activeOff → h.d = (e.word 28).toInt) ∧
      (h.boost = .armed ∨ h.boost = .rearm → (e.word 28).toInt ≤ h.du → h.du ≤ (e.word 27).toInt → h.d = h.du) ∧
      (h.boost.isActive = true → (runTail e h).1.integ = e.integ) ∧
      (h.boost.isActive = false → (e.word 14).toInt ≤ (e.word 13).toInt →
        (e.word 14).toInt ≤ (runTail e h).1.integ ∧ (runTail e h).1.integ ≤ (e.word 13).toInt) := by
  obtain ⟨x, hinteg⟩ := runTail_integ e h
  rw [hd, hinteg]
  refine ⟨fun hlim => bandDuty_mem hlim _ _, fun hb => by rw [hb]; rfl, fun hb => by rw [hb]; rfl,
    bandDuty_passive, fun ha => if_pos ha, fun ha hlim => ?_⟩
  rw [if_neg (by rw [ha]; decide)]
  exact clampInt_mem hlim x

end Sys2Proof.Machine
end

section
/-!
The law on an active-path record (O29): the DUTY packets and the places of the commands in them, and what one run
of the law changes.
-/

namespace Sys2Proof.Machine

/-! ## The words of a DUTY packet (R17) -/

/-- A payload word gives back its two halves. -/
theorem packWord_half {a b : Nat} (ha : a < 2 ^ 16) (hb : b < 2 ^ 16) (k : Nat) :
    bitsOf (packWord [(0, 16, a), (16, 16, b)]) (16 * (k % 2)) 16 = if k % 2 = 0 then a else b := by
  have hword : (packWord [(0, 16, a), (16, 16, b)]).toNat = a + b * 2 ^ 16 := by
    simp only [packWord, List.foldl_cons, List.foldl_nil, BitVec.toNat_ofNat]
    omega
  rw [bitsOf, hword]
  rcases Nat.mod_two_eq_zero_or_one k with hk | hk <;> rw [hk]
  · rw [if_pos rfl]
    omega
  · rw [if_neg (by decide)]
    omega

/-- The code that stands at a position of a DUTY packet. -/
def codeOf (codes : List (Nat × Nat)) (k : Nat) : Nat := ((codes.find? fun c => c.1 = k).map (·.2)).getD 0

theorem codeOf_lt {codes : List (Nat × Nat)} (hc : ∀ c ∈ codes, c.2 < 2 ^ 16) (k : Nat) : codeOf codes k < 2 ^ 16 := by
  unfold codeOf
  cases hf : codes.find? fun c => c.1 = k with
  | none => decide
  | some c => exact hc c (List.mem_of_find?_eq_some hf)

/-- A position that one command alone takes holds its code. -/
theorem codeOf_eq {codes : List (Nat × Nat)} {c : Nat × Nat} (hc : c ∈ codes)
    (hone : ∀ d ∈ codes, d.1 = c.1 → d.2 = c.2) : codeOf codes c.1 = c.2 := by
  unfold codeOf
  cases hf : codes.find? fun d => d.1 = c.1 with
  | none => simpa using List.find?_eq_none.mp hf c hc
  | some d => exact hone d (List.mem_of_find?_eq_some hf) (by simpa using List.find?_some hf)

theorem dutyWords_length (codes : List (Nat × Nat)) (n : Nat) : (dutyWords codes n).length = (n + 1) / 2 := by
  rw [dutyWords, List.length_map, List.length_range]

theorem dutyWords_get {codes : List (Nat × Nat)} {n k : Nat} (hk : k < n) :
    (dutyWords codes n)[k / 2]? =
      some (packWord [(0, 16, codeOf codes (2 * (k / 2))), (16, 16, codeOf codes (2 * (k / 2) + 1))]) := by
  rw [dutyWords, List.getElem?_map, List.getElem?_range (by omega)]
  rfl

/-- The word of a position holds its code in the position's half. -/
theorem dutyWords_code {codes : List (Nat × Nat)} (hc : ∀ c ∈ codes, c.2 < 2 ^ 16) {n k : Nat} (hk : k < n) :
    ∃ w ∈ (dutyWords codes n)[k / 2]?, bitsOf w (16 * (k % 2)) 16 = codeOf codes k := by
  refine ⟨_, dutyWords_get hk, ?_⟩
  rw [packWord_half (codeOf_lt hc _) (codeOf_lt hc _)]
  split
  · congr 1
    omega
  · congr 1
    omega

/-! ## The packets of one sample (R17) -/

section Packets
variable (s : State) (r : Rail) (slot : Nat) (cmds : List (Phase × Cmd))

/-- The codes of the commands, each at its position. -/
def dutyCodes : List (Nat × Nat) := cmds.map fun c => (dutyPlace s c.1, c.2.code)

/-- The number of positions of a rail's DUTY packets. -/
def dutyCount : Nat := (dutyCodes s cmds).foldl (fun n c => max n (c.1 + 1)) (nActPlan s.cfg r.val)

/-- One DUTY packet of the rail. -/
def dutyPacket (second : Bool) (ws : List Word) : DutyPkt :=
  { rail := r, stamp := slot, second := second, words := ws, lost := false }

theorem dutyPackets_eq : dutyPackets s r slot cmds =
    if dutyCount s r cmds ≤ 30 then [dutyPacket r slot false (dutyWords (dutyCodes s cmds) (dutyCount s r cmds))]
    else [dutyPacket r slot false ((dutyWords (dutyCodes s cmds) (dutyCount s r cmds)).take 15),
      dutyPacket r slot true ((dutyWords (dutyCodes s cmds) (dutyCount s r cmds)).drop 15)] := rfl

theorem lt_foldl_max {xs : List (Nat × Nat)} (n : Nat) :
    n ≤ xs.foldl (fun n c => max n (c.1 + 1)) n ∧ ∀ c ∈ xs, c.1 < xs.foldl (fun n c => max n (c.1 + 1)) n := by
  induction xs generalizing n with
  | nil => exact ⟨le_rfl, fun c hc => absurd hc List.not_mem_nil⟩
  | cons x xs ih =>
    obtain ⟨hstart, hall⟩ := ih (max n (x.1 + 1))
    rw [List.foldl_cons]
    refine ⟨(le_max_left ..).trans hstart, fun c hc => ?_⟩
    rcases List.mem_cons.mp hc with rfl | hc
    · exact (le_max_right ..).trans hstart
    · exact hall c hc

theorem lt_dutyCount {c : Nat × Nat} (hc : c ∈ dutyCodes s cmds) : c.1 < dutyCount s r cmds := (lt_foldl_max _).2 c hc

theorem dutyPackets_count : (dutyPackets s r slot cmds).length = 1 ∨ ((dutyPackets s r slot cmds).length = 2 ∧
    30 < (dutyPackets s r slot cmds).foldl (fun n m => n + 2 * m.words.length) 0) := by
  rw [dutyPackets_eq]
  split
  · exact .inl rfl
  · next hn =>
    refine .inr ⟨rfl, ?_⟩
    simp only [List.foldl_cons, List.foldl_nil, dutyPacket, List.length_take, List.length_drop, dutyWords_length]
    omega

theorem dutyPackets_of_rail {m : DutyPkt} (hm : m ∈ dutyPackets s r slot cmds) :
    m.rail = r ∧ m.stamp = slot ∧ m.lost = false := by
  rw [dutyPackets_eq] at hm
  split at hm
  · rw [List.mem_singleton.mp hm]
    exact ⟨rfl, rfl, rfl⟩
  · rcases List.mem_pair.mp hm with rfl | rfl <;> exact ⟨rfl, rfl, rfl⟩

/-- A position that one command alone takes carries its code, in the second packet from position 30 on (R17). -/
theorem dutyPackets_carry {h : Phase} {c : Cmd} (hc : (h, c) ∈ cmds) (hcodes : ∀ x ∈ cmds, x.2.code < 2 ^ 16)
    (hone : ∀ x ∈ cmds, dutyPlace s x.1 = dutyPlace s h → x.2 = c) :
    ∃ m ∈ dutyPackets s r slot cmds, ∃ w ∈ m.words[dutyPlace s h / 2 - (if m.second = true then 15 else 0)]?,
      (m.second = true ↔ (dutyPackets s r slot cmds).length = 2 ∧ 30 ≤ dutyPlace s h) ∧
      bitsOf w (16 * (dutyPlace s h % 2)) 16 = c.code := by
  have hmem : (dutyPlace s h, c.code) ∈ dutyCodes s cmds := List.mem_map_of_mem hc
  have hlt := lt_dutyCount s r cmds hmem
  have hcode : codeOf (dutyCodes s cmds) (dutyPlace s h) = c.code := codeOf_eq hmem fun d hd hplace => by
    obtain ⟨x, hx, rfl⟩ := List.mem_map.mp hd
    rw [hone x hx hplace]
  obtain ⟨w, hw, hbits⟩ := dutyWords_code (codes := dutyCodes s cmds)
    (fun d hd => by obtain ⟨x, hx, rfl⟩ := List.mem_map.mp hd; exact hcodes x hx) hlt
  rw [hcode] at hbits
  rw [dutyPackets_eq]
  split
  · next hn =>
    refine ⟨_, List.mem_singleton_self _, w, hw, ?_, hbits⟩
    simp [dutyPacket]
  · next hn =>
    by_cases hp : 30 ≤ dutyPlace s h
    · refine ⟨_, List.mem_pair.mpr (.inr rfl), w, ?_, by simp [dutyPacket, hp], hbits⟩
      simp only [dutyPacket, if_true, List.getElem?_drop]
      rwa [Nat.add_sub_cancel' (by omega)]
    · refine ⟨_, List.mem_pair.mpr (.inl rfl), w, ?_, by simp [dutyPacket, hp], hbits⟩
      simp only [dutyPacket, Bool.false_eq_true, if_false, Nat.sub_zero]
      rwa [List.getElem?_take_of_lt (by omega)]

end Packets

/-! ## One run of the law (R100, R210) -/

section Law
variable (s : State) (r : Rail) (value : Int) (slot : Nat)

/-- The head that the law runs for a record, with the dither of its draw. -/
def lawHead : Head :=
  runHead s.cfg r.val s.eng.rails[r] value (refPos s r.val slot) (deliveredRef s r)
    (if s.cfg.dithen r.val = true then (ditherHead r s).fb[r].d * (deliveredRef s r / 2000) else 0)

/-- The commands that the head gives the phases of the active set. -/
def lawCmds : List (Phase × Cmd) :=
  (((fins 48).filter fun h => hasBit (engActive s r) h.val).map fun h =>
    (h, phaseCmd s r s.eng.rails[r] (lawHead s r value slot) slot h)).map fun c => (c.1, c.2.1)

/-- The rail as the head and the tail leave it, with its feed-forward sum. -/
def lawRail : EngRail :=
  let e := s.eng.rails[r]
  let hd := lawHead s r value slot
  let e1 := { (runTail e hd).1 with
    boost := hd.boost
    boostCount := if hd.boost = e.boost then e.boostCount else 0
    bcnt := if hd.ended then e.bcnt + 1 else e.bcnt
    dref := match e.refPrev with | some p => deliveredRef s r - p | none => 0
    refPrev := some (deliveredRef s r)
    lastE := some (hd.e, slot)
    lastD := hd.d }
  { e1 with ff := (feedForward s.cfg r.val e1 (nextSampleSlot (ditherHead r s) r.val slot)).val }

/-- The dither of a head, kept beside its slot. -/
def lawDither (s : State) (r : Rail) (slot : Nat) (f : FbRail) : FbRail :=
  { f with
    recent := ((slot, if s.cfg.dithen r.val && deliveredRef s r / 2000 != 0 then f.d else 0) :: f.recent).take 8 }

/-- What a run of the law that drives the PWM subsystem leaves, before it notes a saturation. -/
def driven : State :=
  { s with
    eng := { s.eng with
      rails := vmod s.eng.rails r fun _ => lawRail s r value slot
      dutyQ := s.eng.dutyQ ++ dutyPackets s r slot (lawCmds s r value slot) }
    fb := vmod (ditherHead r s).fb r (lawDither s r slot) }

theorem runLaw_driven : ∃ ovf, runLaw r value slot true s = noteOverflow r ovf (driven s r value slot) := ⟨_, rfl⟩

theorem driven_rail : (driven s r value slot).eng.rails[r] = lawRail s r value slot := vmod_same ..

theorem driven_fb : (driven s r value slot).fb[r] = lawDither s r slot (ditherHead r s).fb[r] := vmod_same ..

theorem driven_other {k : Rail} (hk : k ≠ r) :
    (driven s r value slot).eng.rails[k] = s.eng.rails[k] ∧ (driven s r value slot).fb[k] = s.fb[k] :=
  ⟨vmod_other _ _ hk.symm, (vmod_other _ _ hk.symm).trans (vmod_other _ _ hk.symm)⟩

/-- Every head counts, and one in eight draws while DITHEN is 1 (R210). -/
theorem ditherHead_fb : (ditherHead r s).fb[r].heads = s.fb[r].heads + 1 ∧
    (ditherHead r s).fb[r].lfsr =
      if s.cfg.dithen r.val = true ∧ s.fb[r].heads % 8 = 0 then (ditherDraw s.fb[r].lfsr).1 else s.fb[r].lfsr := by
  unfold ditherHead
  rw [State.upFb_fb, vmod_same]
  simp only [Bool.and_eq_true, decide_eq_true_eq]
  split <;> exact ⟨rfl, rfl⟩

/-- An on-time command stays below the two codes of the boost band (R17). -/
theorem phaseCmd_time_le {e : EngRail} {hd : Head} {h : Phase} {n : Nat} (hn : (phaseCmd s r e hd slot h).1 = .time n) :
    n ≤ 0xFFFD := by
  unfold phaseCmd at hn
  dsimp only at hn
  split at hn
  · cases hn
  · cases hn
  · cases hn
    exact onTime_le ..

theorem phaseCmd_code_lt (e : EngRail) (hd : Head) (h : Phase) : (phaseCmd s r e hd slot h).1.code < 2 ^ 16 := by
  cases hc : (phaseCmd s r e hd slot h).1 with
  | time n => exact (phaseCmd_time_le s r slot hc).trans_lt (by decide)
  | mid => decide
  | on => decide

theorem mem_lawCmds {x : Phase × Cmd} : x ∈ lawCmds s r value slot ↔ hasBit (engActive s r) x.1.val = true ∧
    x.2 = (phaseCmd s r s.eng.rails[r] (lawHead s r value slot) slot x.1).1 := by
  unfold lawCmds
  simp only [List.map_map, List.mem_map, mem_filter_fins]
  constructor
  · rintro ⟨h, hh, rfl⟩
    exact ⟨hh, rfl⟩
  · rintro ⟨hh, hx⟩
    exact ⟨x.1, hh, Prod.ext rfl hx.symm⟩

theorem lawHead_limits (h : (s.eng.rails[r].word 28).toInt ≤ (s.eng.rails[r].word 27).toInt) :
    (s.eng.rails[r].word 28).toInt ≤ (lawHead s r value slot).d ∧
      (lawHead s r value slot).d ≤ (s.eng.rails[r].word 27).toInt := by
  have hd := runHead_d s.cfg r.val s.eng.rails[r] value (refPos s r.val slot) (deliveredRef s r)
    (if s.cfg.dithen r.val = true then (ditherHead r s).fb[r].d * (deliveredRef s r / 2000) else 0)
  exact (head_limits hd).1 h

end Law

/-- Settles O29: a gain word by its rounding, the head by its band, and a run of the law by the packets that it sends
and the rail that it leaves. -/
theorem controlLaw : Obligations.ControlLaw := by
  unfold Obligations.ControlLaw
  refine ⟨⟨gain_rounds, onTime_le, fun g r e value pos ref dith => head_limits (runHead_d ..)⟩,
    fun s r value slot => ⟨driven s r value slot, dutyPackets s r slot (lawCmds s r value slot), ?_⟩⟩
  intro on draws e ref hd
  have hhd : hd = lawHead s r value slot := by
    simp only [hd, driven_fb]
    rfl
  obtain ⟨hheads, hlfsr⟩ := ditherHead_fb s r
  rw [hhd, driven_rail, driven_fb]
  refine ⟨rfl, dutyPackets_count .., fun m hm => dutyPackets_of_rail _ _ _ _ hm, fun h hh hone => ?_,
    fun h n hn => phaseCmd_time_le s r slot hn, fun k hk => driven_other s r value slot hk,
    ⟨⟨rfl, rfl, rfl, rfl, rfl, rfl, rfl, rfl⟩, rfl, rfl, rfl, rfl, rfl, rfl, lawHead_limits s r value slot⟩,
    hlfsr, hheads, ?_⟩
  · refine dutyPackets_carry s r slot _ ((mem_lawCmds s r value slot).mpr ⟨hh, rfl⟩) (fun x hx => ?_) fun x hx hp => ?_
    · rw [((mem_lawCmds s r value slot).mp hx).2]
      exact phaseCmd_code_lt ..
    · obtain ⟨hx, hcmd⟩ := (mem_lawCmds s r value slot).mp hx
      rw [hcmd, hone x.1 hx hp]
  · obtain ⟨ovf, hrun⟩ := runLaw_driven s r value slot
    have hovf : (driven s r value slot).eng.rails[r].ovf = s.eng.rails[r].ovf := by
      rw [driven_rail]
      rfl
    rw [hrun, ← hovf]
    exact noteOverflow_cases ..

end Sys2Proof.Machine
end

section
/-!
VBUS and forecasts (O32): when VBUS_STALE raises its event, how a forecast's miss check ends, and which ports a
suspension alerts.
-/

namespace Sys2Proof.Machine

/-! ## Alerts (R182, R201) -/

/-- The ports that an alert reaches: those named that are not DISABLED. -/
def alerted (p : Port → Bool) (s : State) : List Port :=
  (fins 4).filter fun n => p n && s.prn.ports[n].state != .disabled

theorem each_upPort (ps : List Port) (f : Port → PrnPort → PrnPort) (s : State) :
    State.each ps (fun n => State.upPort n (f n)) s = s.upPrn fun b => { b with ports := modEach ps f b.ports } := by
  induction ps generalizing s with
  | nil => rfl
  | cons p ps ih => exact ih (s.upPort p (f p))

theorem alerted_nodup (p : Port → Bool) (s : State) : (alerted p s).Nodup := (nodup_fins 4).filter _

theorem alertPorts_eq (p : Port → Bool) (cause : Nat) (s : State) : alertPorts p cause s = { s with prn := { s.prn with
    ports := modEach (alerted p s) (fun _ q => { q with alert := putBit q.alert cause true }) s.prn.ports } } :=
  each_upPort ..

theorem alertPorts_port (p : Port → Bool) (cause : Nat) (s : State) (n : Port) :
    (alertPorts p cause s).prn.ports[n] = if p n = true ∧ s.prn.ports[n].state ≠ .disabled then
      { s.prn.ports[n] with alert := putBit s.prn.ports[n].alert cause true } else s.prn.ports[n] := by
  rw [alertPorts_eq]
  refine (modEach_get (alerted_nodup p s) ..).trans (if_congr ?_ rfl rfl)
  rw [alerted, mem_filter_fins, Bool.and_eq_true, bne_iff_ne]

/-! ## VBUS_STALE (R105) -/

section Vbus
variable {s : State} {r : Rail}

theorem exec_vbusStale_eq : exec (.vbusStale r) s = .next (
    if !s.cfg.ffv r.val || railOff s r || s.eng.rails[r].vbold ||
        decide (s.clk.slot < max s.eng.rails[r].vbusAt s.eng.rails[r].enabledAt + msSlots) then s
    else raise 0x65 (pairSrc s r 0 0) 0 (s.upEngRail r fun e => { e with vbold := true })) := rfl

theorem exec_vbusStale_idle (h : s.cfg.ffv r.val = false ∨ railOff s r = true ∨ s.eng.rails[r].vbold = true ∨
    ¬ (s.eng.rails[r].vbusAt + 256000 ≤ s.clk.slot ∧ s.eng.rails[r].enabledAt + 256000 ≤ s.clk.slot)) :
    exec (.vbusStale r) s = .next s := by
  rw [exec_vbusStale_eq, if_pos]
  simp only [Bool.or_eq_true, Bool.not_eq_true', decide_eq_true_eq, or_assoc]
  refine h.imp_right fun h => h.imp_right fun h => h.imp_right fun h => ?_
  unfold msSlots
  omega

theorem exec_vbusStale (hffv : s.cfg.ffv r.val = true) (hon : railOff s r = false)
    (hnew : s.eng.rails[r].vbold = false) (hlate : s.eng.rails[r].vbusAt + 256000 ≤ s.clk.slot ∧
      s.eng.rails[r].enabledAt + 256000 ≤ s.clk.slot) :
    exec (.vbusStale r) s =
      .next (raise 0x65 (pairSrc s r 0 0) 0 (s.upEngRail r fun e => { e with vbold := true })) := by
  rw [exec_vbusStale_eq, if_neg]
  simp only [hffv, hon, hnew, Bool.not_true, Bool.or_self, Bool.false_or, decide_eq_true_eq]
  unfold msSlots
  omega

end Vbus

/-! ## FORECAST_MISS_CHECK (R122) -/

section Miss
variable {s : State} {r : Rail}

/-- The forecast came true: the current moved the way it said, by at least half of it. -/
def forecastHit (s : State) (r : Rail) (f : Forecast) : Bool :=
  decide (0 < (railCurrent s r - f.sumAt) * f.dI) && decide (f.dI.natAbs ≤ 2 * (railCurrent s r - f.sumAt).natAbs)

/-- A miss, counted. -/
def missCounted (s : State) (r : Rail) (f : Forecast) : State :=
  s.upEngRail r fun e =>
    { e with fcs := e.fcs.erase f, fcConsec := e.fcConsec + 1
             fcMissc := if e.fcMissc = 0xFF then 0xFF else e.fcMissc + 1 }

/-- A miss, counted and told. -/
def missRaised (s : State) (r : Rail) (f : Forecast) : State := raise 0x63 (pairSrc s r 0 0) 0 (missCounted s r f)

/-- The forecasts of a rail are suspended, and its owner is told. -/
def suspended (r : Rail) (u : State) : State :=
  alertPorts (fun p => owns u p r) alFcsusp (u.upEngRail r fun e => { e with fcsusp := true })

theorem missRaised_raised (f : Forecast) : Raised 0x63 (missCounted s r f) (missRaised s r f) :=
  raise_raised _ _ _ _ (by decide)

theorem missRaised_cfg (f : Forecast) : (missRaised s r f).cfg = s.cfg :=
  cfg_of_quiet (s := missCounted s r f) (raise_quiet ..)

theorem exec_forecastMissCheck_idle (h : ∀ f ∈ s.eng.rails[r].fcs, missDue s r f = false) :
    exec (.forecastMissCheck r) s = .next s := by
  have hnone : s.eng.rails[r].fcs.find? (missDue s r) = none :=
    List.find?_eq_none.mpr fun f hf => by rw [h f hf]; decide
  show Host.Outcome.next (match s.eng.rails[r].fcs.find? (missDue s r) with | none => _ | some f => _) = _
  rw [hnone]

theorem exec_forecastMissCheck_due {f : Forecast} (hf : s.eng.rails[r].fcs.find? (missDue s r) = some f) :
    exec (.forecastMissCheck r) s = .next (
      if forecastHit s r f = true then s.upEngRail r fun e => { e with fcs := e.fcs.erase f, fcConsec := 0 }
      else if s.cfg.fcmiss ≤ s.eng.rails[r].fcConsec + 1 ∧ (missRaised s r f).eng.rails[r].fcsusp = false then
        suspended r (missRaised s r f)
      else missRaised s r f) := by
  have hn : (s.upEngRail r fun e => { e with fcs := e.fcs.erase f }).eng.rails[r].fcConsec =
      s.eng.rails[r].fcConsec := by
    rw [upEngRail_same]
  have hmiss : (s.upEngRail r fun e => { e with fcs := e.fcs.erase f }).upEngRail r (fun e =>
      { e with fcMissc := incSat e.fcMissc, fcConsec := s.eng.rails[r].fcConsec + 1 }) = missCounted s r f := by
    simp only [incSat_byte]
    exact upEngRail_upEngRail ..
  show Host.Outcome.next (match s.eng.rails[r].fcs.find? (missDue s r) with | none => _ | some f => _) = _
  rw [hf]
  dsimp only
  rw [hn, hmiss, upEngRail_upEngRail]
  show Host.Outcome.next (if forecastHit s r f = true then _ else
    if (decide ((missRaised s r f).cfg.fcmiss ≤ _) && !(missRaised s r f).eng.rails[r].fcsusp) = true then
      suspended r (missRaised s r f) else missRaised s r f) = _
  simp only [missRaised_cfg, Bool.and_eq_true, decide_eq_true_eq, Bool.not_eq_true']

/-- The ports that a suspension alerts, and nothing else but the suspension (R122, R201). -/
theorem suspended_alerts (u : State) :
    suspended r u = { (u.upEngRail r fun e => { e with fcsusp := true }) with prn := (suspended r u).prn } ∧
      (suspended r u).prn = { u.prn with ports := (suspended r u).prn.ports } ∧
      ∀ n : Port, (suspended r u).prn.ports[n] =
        if owns u n r = true ∧ u.prn.ports[n].state ≠ .disabled then
          { u.prn.ports[n] with alert := putBit u.prn.ports[n].alert 7 true }
        else u.prn.ports[n] := by
  have heq : suspended r u = _ := alertPorts_eq ..
  refine ⟨?_, ?_, fun n => alertPorts_port ..⟩
  · rw [heq]
  · rw [heq]
    rfl

end Miss

/-! ## FORECAST_SUSPEND_END (R122) -/

theorem exec_forecastSuspendEnd {s : State} {r : Rail} (h : s.eng.rails[r].fcsusp = true) :
    exec (.forecastSuspendEnd r) s = .next (s.upEngRail r fun e => { e with fcsusp := false, fcConsec := 0 }) :=
  congrArg Host.Outcome.next (upEngRail_congr (if_pos h))

theorem exec_forecastSuspendEnd_idle {s : State} {r : Rail} (h : s.eng.rails[r].fcsusp = false) :
    exec (.forecastSuspendEnd r) s = .next s := by
  have hsame : (s.upEngRail r fun e => if e.fcsusp = true then { e with fcsusp := false, fcConsec := 0 } else e) = s :=
    congrArg (fun v => { s with eng := { s.eng with rails := v } }) (vmod_id (by rw [h]; rfl))
  exact congrArg Host.Outcome.next hsame

/-- Settles O32: VBUS_STALE by the condition that it tests, a miss check by the forecast that is due. -/
theorem forecastChecks : Obligations.ForecastChecks := by
  unfold Obligations.ForecastChecks
  intro s r e late due
  refine ⟨fun hffv hon hnew hlate => ⟨_, exec_vbusStale hffv hon hnew hlate, raise_raised _ _ _ _ (by decide)⟩,
    exec_vbusStale_idle, fun h => exec_forecastMissCheck_idle fun f hf => decide_eq_false (h f hf), fun f hf => ?_,
    exec_forecastSuspendEnd, exec_forecastSuspendEnd_idle⟩
  intro change hit
  have hexec := exec_forecastMissCheck_due (s := s) (r := r) hf
  have hhit : forecastHit s r f = true ↔ hit := by
    rw [forecastHit, Bool.and_eq_true, decide_eq_true_eq, decide_eq_true_eq]
  have howns (n : Port) : owns (missRaised s r f) n r = owns s n r := by
    rw [owns, owns, missRaised_cfg]
  refine ⟨fun h => by rw [hexec, if_pos (hhit.mpr h)], fun h => ?_⟩
  rw [if_neg (mt hhit.mp h)] at hexec
  refine ⟨_, _, hexec, missRaised_raised f, fun hend => if_neg ?_, fun hmany hopen => ?_⟩
  · rintro ⟨hmany, hopen⟩
    rcases hend with hfew | hsusp
    · exact Nat.not_le_of_lt hfew hmany
    · rw [hopen] at hsusp
      cases hsusp
  · rw [if_pos ⟨hmany, hopen⟩]
    obtain ⟨hstate, hprn, hports⟩ := suspended_alerts (r := r) (missRaised s r f)
    exact ⟨hstate, hprn, fun n => by rw [hports, howns]⟩

end Sys2Proof.Machine
end

section
/-!
The engine's set-up (O11), first part: the loads of banks and last tables, and the swaps.
-/

namespace Sys2Proof.Machine

/-! ## Loads (R112, R117) -/

theorem toVec_toList {n : Nat} (w : Vector Word n) : toVec n w.toList = w := by
  refine Vector.ext fun i hi => ?_
  rw [toVec, Vector.getElem_ofFn, List.getD_eq_getElem _ _ (by simpa using hi), Vector.getElem_toList]

section Load
variable {s : State} {q : Ring} {d : Desc} {r : Rail}

/-- What a load of a rail's inactive bank or load copies does, by the length that its content should have and by
whether a swap of its kind is pending. -/
def loadEnds (q : Ring) (fits pending : Bool) (put : State → State) (s : State) : State :=
  if fits = false then complete q codeRange 0 s
  else if pending = true then complete q codeBusy 0 s
  else complete q 0 0 (put s)

theorem exec_engBankLoad (buf : List Word) (h : ready s q 0x20 = some d) (hr : r.val = d.pf 0 3) :
    exec (.engBankLoad q buf) s = .next (loadEnds q (decide (buf.length = 32)) (swPend s r) (putBank r buf) s) := by
  show Host.Outcome.next (match ready s q 0x20 with | none => _ | some d => _) = _
  rw [h]
  dsimp only
  rw [← hr, Fin.ofNat_val_eq_self]
  simp only [loadEnds, decide_eq_false_iff_not]

/-- Words into the load copies of a rail's last tables. -/
def putLast (r : Rail) (ws : List Word) (s : State) : State :=
  s.upEngRail r fun e =>
    if e.table then { e with ripple0 := toVec 32 (ws.take 32), dead0 := toVec 32 (ws.drop 32) }
    else { e with ripple1 := toVec 32 (ws.take 32), dead1 := toVec 32 (ws.drop 32) }

theorem exec_engLastLoad (buf : List Word) (h : ready s q 0x22 = some d) (hr : r.val = d.pf 0 3) :
    exec (.engLastLoad q buf) s = .next (loadEnds q (decide (buf.length = 64)) (ltPend s r) (putLast r buf) s) := by
  show Host.Outcome.next (match ready s q 0x22 with | none => _ | some d => _) = _
  rw [h]
  dsimp only
  rw [← hr, Fin.ofNat_val_eq_self]
  simp only [loadEnds, decide_eq_false_iff_not]
  rfl

theorem loadEnds_misfit {e : Exec} {pending : Bool} (put : State → State) (h : s.hif.sq[q].exec = some e) :
    Ends q 0x0102 0 s (loadEnds q false pending put s) := complete_ends codeRange 0 h

theorem loadEnds_pending {e : Exec} (put : State → State) (h : s.hif.sq[q].exec = some e) :
    Ends q 0x0104 0 s (loadEnds q true true put s) := complete_ends codeBusy 0 h

theorem loadEnds_put {e : Exec} {put : State → State} (h : (put s).hif.sq[q].exec = some e) :
    Ends q 0 0 (put s) (loadEnds q true false put s) := complete_ends 0 0 h

end Load

/-! ## Swaps (R113, R117, R368) -/

section Swap
variable (s : State) (b t : BitVec 8)

/-- What stands in the way of a swap of the banks of the rails of b and the last tables of those of t: a swap of the
same kind that is pending, and then the check of an inactive bank. -/
def swapBad : Option Nat := swapCheck s (maskRails b.toNat) (maskRails t.toNat)

theorem maskRails_any (p : Rail → Bool) :
    (maskRails b.toNat).any p = true ↔ ∃ r : Rail, hasBit b r.val = true ∧ p r = true := by
  simp only [List.any_eq_true, maskRails, mem_filter_fins]
  exact Iff.rfl

theorem findSome?_filter {α β : Type} (xs : List α) (p : α → Bool) (f : α → Option β) :
    (xs.filter p).findSome? f = xs.findSome? fun x => if p x = true then f x else none := by
  induction xs with
  | nil => rfl
  | cons x xs ih => by_cases hx : p x = true <;> simp [List.findSome?_cons, hx, ih]

theorem swapBad_pending (h : (∃ r : Rail, hasBit b r.val = true ∧ swPend s r = true) ∨
    ∃ r : Rail, hasBit t r.val = true ∧ ltPend s r = true) : swapBad s b t = some 0x0104 := by
  rw [← maskRails_any b (swPend s), ← maskRails_any t (ltPend s), ← Bool.or_eq_true] at h
  exact if_pos h

theorem swapBad_checks (h : ¬ ((∃ r : Rail, hasBit b r.val = true ∧ swPend s r = true) ∨
    ∃ r : Rail, hasBit t r.val = true ∧ ltPend s r = true)) :
    swapBad s b t = (fins 8).findSome? fun r =>
      if hasBit b r.val = true then bankCheck s.eng.rails[r].inactive else none := by
  rw [← maskRails_any b (swPend s), ← maskRails_any t (ltPend s), ← Bool.or_eq_true] at h
  exact (if_neg h).trans (findSome?_filter ..)

/-- The markers of a swap (R368): for the banks, then for the last tables. -/
def swapsOf (b t : BitVec 8) (tag : BitVec 16) (o : Origin) : List Marker :=
  (if b = 0 then [] else
    [{ markerOf .bankSwap tag o none ((maskRails b.toNat).map .rail) [.swapBanks] with rails := b }]) ++
  (if t = 0 then [] else
    [{ markerOf .lastTable tag o none ((maskRails t.toNat).map .rail) [.swapTables] with rails := t }])

theorem swapMarkers_eq (tag : BitVec 16) (o : Origin) : swapMarkers tag o b.toNat t.toNat = swapsOf b t tag o := by
  have hzero : ∀ x : BitVec 8, x.toNat = 0 ↔ x = 0 := fun x => BitVec.toNat_inj (y := 0)
  simp only [swapMarkers, swapsOf, hzero, BitVec.ofNat_toNat, BitVec.setWidth_eq]

variable {s b t}

theorem exec_engBankSwap {q : Ring} {d : Desc} (h : ready s q 0x21 = some d) (hany : b ≠ 0 ∨ t ≠ 0)
    (hb : b = if d.pf 8 1 = 1 then BitVec.ofNat 8 (d.pf 0 8) else 0)
    (ht : t = if d.pf 9 1 = 1 then BitVec.ofNat 8 (d.pf 0 8) else 0) :
    exec (.engBankSwap q) s = .next (
      (if s.flt.classA = true then some 0x0105 else swapBad s b t).elim
        (pushMarkers (swapsOf b t d.tag (.desc q)) (act_ q s)) fun c => complete q c 0 s) := by
  have hmask (c : Prop) [Decidable c] :
      (if c then d.pf 0 8 else 0) = (if c then BitVec.ofNat 8 (d.pf 0 8) else 0).toNat := by
    have hlt : d.pf 0 8 < 2 ^ 8 := Nat.mod_lt _ (by decide)
    split
    · rw [BitVec.toNat_ofNat, Nat.mod_eq_of_lt hlt]
    · rfl
  show Host.Outcome.next (match ready s q 0x21 with | none => _ | some d => _) = _
  rw [h]
  dsimp only
  rw [hmask, hmask, ← hb, ← ht, swapMarkers_eq, if_neg]
  · by_cases hc : s.flt.classA = true
    · rw [if_pos hc, if_pos hc]
      rfl
    · rw [if_neg hc, if_neg hc, swapBad]
      cases swapCheck s (maskRails b.toNat) (maskRails t.toNat) <;> rfl
  · rintro ⟨hb0, ht0⟩
    exact hany.elim (fun hne => hne (BitVec.eq_of_toNat_eq hb0)) fun hne => hne (BitVec.eq_of_toNat_eq ht0)

theorem writeSwap_eq {m : Master} {v : Word} (hp : WritesPass m s) (hl : s.regs.lock = false)
    (hv : v.toNat = b.toNat + 256 * t.toNat) : writeSwap m v s =
      (swapBad s b t).elim (pushMarkers (swapsOf b t 0xFFFD .swapWrite) s) fun c => rejectWrite m 0x4010 c s := by
  have hb := b.isLt
  have ht := t.isLt
  have hlow : bitsOf v 0 8 = b.toNat := by
    rw [bitsOf, hv]
    omega
  have hhigh : bitsOf v 8 8 = t.toNat := by
    rw [bitsOf, hv]
    omega
  have hclear : v &&& 0xFFFF0000 = 0 := by
    rw [and_highHalf_eq_zero_iff]
    apply BitVec.eq_of_toNat_eq
    rw [BitVec.extractLsb'_toNat, hv, Nat.shiftRight_eq_div_pow]
    show _ = 0
    omega
  unfold writeSwap
  rw [regWrite_pass _ _ hp (fun _ => hl) hclear]
  dsimp only
  rw [hlow, hhigh, swapMarkers_eq, swapBad]
  cases swapCheck s (maskRails b.toNat) (maskRails t.toNat) <;> rfl

end Swap

end Sys2Proof.Machine
end

section
/-!
The engine's set-up (O11), second part: register writes of bank words and load copies, ENG_ASSIGN, and the settlement.
-/

namespace Sys2Proof.Machine

/-! ## Bank words (R4, R110, R112) -/

/-- The offset of word k of a rail's bank A or B. -/
def bankOff (isB : Bool) (r : Rail) (k : Fin 32) : Nat := (if isB then 0x4800 else 0x4400) + 0x80 * r.val + 4 * k.val

theorem bankOff_parts (isB : Bool) (r : Rail) (k : Fin 32) :
    isBankOff (bankOff isB r k) = true ∧ bankOff isB r k % 4 = 0 ∧ bankOff isB r k % 0x80 / 4 = k.val ∧
      bankOff isB r k % 0x400 / 0x80 = r.val ∧ decide (0x4800 ≤ bankOff isB r k) = isB := by
  have hr := r.isLt
  have hk := k.isLt
  unfold bankOff isBankOff
  cases isB
  · simp only [Bool.false_eq_true, if_false, Bool.and_eq_true, decide_eq_true_eq, decide_eq_false_iff_not]
    omega
  · simp only [if_true, Bool.and_eq_true, decide_eq_true_eq]
    omega

/-- The write sets a reserved bit of word k of a bank. -/
theorem bankReserved_hit (v : Word) (k : Fin 32) : v &&& bankReserved k.val ≠ 0 ↔
    ((k = 17 ∨ k = 29) ∧ v &&& 0xFFFF0000 ≠ 0) ∨ (k = 31 ∧ v ≠ 0) := by
  have hval (n : Fin 32) : k.val = n.val ↔ k = n := Fin.ext_iff.symm
  have h17 : k.val = 17 ↔ k = 17 := hval 17
  have h29 : k.val = 29 ↔ k = 29 := hval 29
  have h31 : k.val = 31 ↔ k = 31 := hval 31
  simp only [bankReserved, h17, h29, h31]
  by_cases hk : k = 17 ∨ k = 29
  · have hne : k ≠ 31 := by rcases hk with rfl | rfl <;> decide
    rw [if_pos hk]
    exact ⟨fun h => .inl ⟨hk, h⟩, fun h => h.elim (·.2) fun h => absurd h.1 hne⟩
  · rw [if_neg hk]
    by_cases hlast : k = 31
    · rw [if_pos hlast]
      have hall : v &&& 0xFFFFFFFF = v := BitVec.and_allOnes
      rw [hall]
      exact ⟨fun h => .inr ⟨hlast, h⟩, fun h => h.elim (fun h => absurd h.1 hk) (·.2)⟩
    · rw [if_neg hlast]
      exact ⟨fun h => absurd BitVec.and_zero h, fun h => h.elim (fun h => absurd h.1 hk) fun h => absurd h.1 hlast⟩

section Words
variable {m : Master} {s : State}

theorem exec_engBankWordWrite (hp : WritesPass m s) (hl : s.regs.lock = false) (v : Word) (r : Rail) (k : Fin 32)
    (isB : Bool) : exec (.engBankWordWrite m (bankOff isB r k) v) s = .next (
      if v &&& bankReserved k.val ≠ 0 then rejectWrite m (bankOff isB r k) codeRange s
      else if (s.eng.rails[r].bank == isB) = true then rejectWrite m (bankOff isB r k) codeState s
      else if swPend s r = true then rejectWrite m (bankOff isB r k) codeBusy s
      else s.upEngRail r fun e =>
        if isB = true then { e with bankB := vput e.bankB k v } else { e with bankA := vput e.bankA k v }) := by
  obtain ⟨hbank, hal, hword, hrail, hside⟩ := bankOff_parts isB r k
  show Host.Outcome.next (if (isBankOff (bankOff isB r k) && decide (bankOff isB r k % 4 = 0)) = true then
    writeBankWord m (bankOff isB r k) v s else s) = _
  rw [if_pos (by rw [hbank, hal]; rfl), writeBankWord, regWrite_of_pass _ _ _ _ _ hp,
    if_neg (by rw [hl]; exact fun h => Bool.noConfusion h.1)]
  simp only [hword, hrail, hside, Fin.ofNat_val_eq_self]

/-! ## Load copies (R117) -/

/-- The offset of a word of the load-copy window: ripple below, dead time above. -/
def ltldOff (dead : Bool) (k : Fin 32) : Nat := (if dead then 0x4C80 else 0x4C00) + 4 * k.val

theorem ltldOff_parts (dead : Bool) (k : Fin 32) :
    isLtldOff (ltldOff dead k) = true ∧ ltldOff dead k % 4 = 0 ∧ ltldOff dead k % 0x80 / 4 = k.val ∧
      decide (ltldOff dead k < 0x4C80) = !dead := by
  have hk := k.isLt
  unfold ltldOff isLtldOff
  cases dead
  · simp only [Bool.false_eq_true, if_false, Bool.and_eq_true, decide_eq_true_eq, Bool.not_false]
    omega
  · simp only [if_true, Bool.and_eq_true, decide_eq_true_eq, Bool.not_true, decide_eq_false_iff_not]
    omega

/-- One word into a load copy of a rail. -/
def putCopy (dead : Bool) (k : Fin 32) (v : Word) (e : EngRail) : EngRail :=
  match dead, e.table with
  | false, true => { e with ripple0 := vput e.ripple0 k v }
  | false, false => { e with ripple1 := vput e.ripple1 k v }
  | true, true => { e with dead0 := vput e.dead0 k v }
  | true, false => { e with dead1 := vput e.dead1 k v }

theorem exec_engLtldWrite (hp : WritesPass m s) (hl : s.regs.lock = false) (v : Word) {r : Rail} (k : Fin 32)
    (hr : s.eng.wsel.toNat = r.val) (dead : Bool) : exec (.engLtldWrite m (ltldOff dead k) v) s = .next (
      if ltPend s r = true then rejectWrite m (ltldOff dead k) codeBusy s
      else s.upEngRail r (putCopy dead k v)) := by
  obtain ⟨hcopy, hal, hword, hside⟩ := ltldOff_parts dead k
  have hclear : v &&& (0 : Word) = 0 := BitVec.and_zero
  show Host.Outcome.next (if (isLtldOff (ltldOff dead k) && decide (ltldOff dead k % 4 = 0)) = true then
    writeLtld m (ltldOff dead k) v s else s) = _
  rw [if_pos (by rw [hcopy, hal]; rfl), writeLtld, regWrite_pass _ _ hp (fun _ => hl) hclear]
  simp only [hword, hside, hr, Fin.ofNat_val_eq_self]
  congr 2
  refine congrArg (fun f => s.upEngRail r f) (funext fun e => ?_)
  cases dead <;> cases he : e.table <;> simp only [putCopy, he, Bool.not_false, Bool.not_true]

end Words

/-! ## ENG_ASSIGN (R129) -/

section Assign
variable {s : State} {q : Ring} {d : Desc} {r : Rail} {p : PairNo}

/-- The move of a rail that ENG_ASSIGN begins. -/
def moveBegun (q : Ring) (r : Rail) (p : PairNo) (w : Word) (s : State) : State :=
  (InForce [(0x4020 + 4 * r.val, w)] s).upEngRail r fun e =>
    { e with assign := some { ring := some q, pair := p, left := if e.enabled = true then 64 else 0 }, track := 0 }

/-- The marker by which a rail moves. -/
def moveMarker (q : Ring) (r : Rail) (p : PairNo) (tag : BitVec 16) : Marker :=
  { markerOf .setup tag (.desc q) none [.rail r] [.assign r p] with rails := BitVec.ofNat 8 (2 ^ r.val) }

theorem exec_engAssign {w : Word} (h : ready s q 0x23 = some d) (hr : r.val = d.pf 0 3) (hp : p.val = d.pf 4 2)
    (hw : w = (s.accSetup.get (0x4020 + 4 * r.val) &&& 0xFF3FFFFF) ||| BitVec.ofNat 32 (p.val * 0x400000)) :
    exec (.engAssign q) s = .next (
      if s.flt.classA = true then complete q codeState 0 s
      else if s.eng.rails[r].assign.isSome = true then complete q codeBusy 0 s
      else if (pairOff (domOn s) (s.accSetup.over [(0x4020 + 4 * r.val, w)]) || s.eng.pairs[p].failed) = true then
        complete q codeState 0 s
      else if engineBad (s.accSetup.over [(0x4020 + 4 * r.val, w)]) = true then complete q codeEngine 0 s
      else if s.eng.rails[r].enabled = true then act_ q (moveBegun q r p w s)
      else pushMarkers [moveMarker q r p d.tag] (act_ q (moveBegun q r p w s))) := by
  have hrail : Fin.ofNat 8 (d.pf 0 3) = r := by rw [← hr, Fin.ofNat_val_eq_self]
  have hto : Fin.ofNat 4 (d.pf 4 2) = p := by rw [← hp, Fin.ofNat_val_eq_self]
  have hpair : withPair (s.accSetup.get (0x4020 + 4 * r.val)) p = w := hw.symm
  have hbegun : beginMove r { ring := some q, pair := p, left := if s.eng.rails[r].enabled = true then 64 else 0 }
      (s.upRegs fun k => { k with acc := setWord k.acc (0x4020 + 4 * r.val) w }) = moveBegun q r p w s :=
    upEngRail_congr rfl
  rw [← hbegun]
  subst hrail hto hpair
  show Host.Outcome.next (match ready s q 0x23 with | none => _ | some d => _) = _
  rw [h]
  rfl

theorem moveBegun_waits {e : Exec} {w : Word} (h : s.hif.sq[q].exec = some e) :
    Waits q true (moveBegun q r p w s) (act_ q (moveBegun q r p w s)) := act_waits h

end Assign

/-! ## The settlement -/

theorem bankWord_answers {m : Master} {s : State} (hp : WritesPass m s) (hl : s.regs.lock = false) (v : Word)
    (r : Rail) (k : Fin 32) (isB bad : Bool)
    (hbad : bad = decide (((k = 17 ∨ k = 29) ∧ v &&& 0xFFFF0000 ≠ 0) ∨ (k = 31 ∧ v ≠ 0))) :
    ∃ t, exec (.engBankWordWrite m (bankOff isB r k) v) s = .next t ∧
      (bad = true → Rejected m (bankOff isB r k) 0x0102 s t) ∧
      (bad = false → s.eng.rails[r].bank = isB → Rejected m (bankOff isB r k) 0x0105 s t) ∧
      (bad = false → s.eng.rails[r].bank ≠ isB → swPend s r = true → Rejected m (bankOff isB r k) 0x0104 s t) ∧
      (bad = false → s.eng.rails[r].bank ≠ isB → swPend s r = false →
        t = s.upEngRail r fun e =>
          if isB = true then { e with bankB := vput e.bankB k v } else { e with bankA := vput e.bankA k v }) := by
  have hset : v &&& bankReserved k.val ≠ 0 ↔ bad = true := by rw [hbad, decide_eq_true_eq, bankReserved_hit]
  refine ⟨_, exec_engBankWordWrite hp hl v r k isB, ?_⟩
  simp only [hset, beq_iff_eq]
  refine ⟨fun h => ?_, fun h hact => ?_, fun h hact hsw => ?_, fun h hact hsw => ?_⟩
  · rw [if_pos h]
    exact reject_rejected ..
  · rw [if_neg (by rw [h]; decide), if_pos hact]
    exact reject_rejected ..
  · rw [if_neg (by rw [h]; decide), if_neg hact, if_pos hsw]
    exact reject_rejected ..
  · rw [if_neg (by rw [h]; decide), if_neg hact, if_neg (by rw [hsw]; decide)]

theorem ltld_answers {m : Master} {s : State} (hp : WritesPass m s) (hl : s.regs.lock = false) (v : Word)
    {r : Rail} (k : Fin 32) (hr : s.eng.wsel.toNat = r.val) (dead : Bool) :
    ∃ t, exec (.engLtldWrite m (ltldOff dead k) v) s = .next t ∧
      (ltPend s r = true → Rejected m (ltldOff dead k) 0x0104 s t) ∧
      (ltPend s r = false → t = s.upEngRail r (putCopy dead k v)) := by
  refine ⟨_, exec_engLtldWrite hp hl v k hr dead, fun h => ?_, fun h => ?_⟩
  · rw [if_pos h]
    exact reject_rejected ..
  · rw [if_neg (by rw [h]; decide)]

/-- Settles O11: loads and swaps of the engine by the check that each makes first, register writes by their offset,
and ENG_ASSIGN by its checks in order. -/
theorem engineSetUp : Obligations.EngineSetUp := by
  unfold Obligations.EngineSetUp
  refine ⟨fun q s buf d r hr => ⟨fun h => ?_, fun h => ?_⟩, fun s b t => ?_, fun m v r k s hp hl =>
    ⟨bankWord_answers hp hl v r k, fun hw dead => ltld_answers hp hl v k hw dead⟩, fun q s d r p w h hr hto hw => ?_⟩
  · obtain ⟨e, he, -⟩ := ready_some h
    refine ⟨_, exec_engBankLoad buf h hr, fun hlen => ?_, fun hlen hsw => ?_, fun hlen hsw x hx => ?_⟩
    · rw [decide_eq_false hlen]
      exact loadEnds_misfit _ he
    · rw [decide_eq_true hlen, hsw]
      exact loadEnds_pending _ he
    · have hput : putBank r buf s = s.upEngRail r fun e =>
          if e.bank = true then { e with bankA := x } else { e with bankB := x } := by
        rw [← hx, putBank, toVec_toList]
      rw [decide_eq_true hlen, hsw, ← hput]
      exact loadEnds_put he
  · obtain ⟨e, he, -⟩ := ready_some h
    refine ⟨_, exec_engLastLoad buf h hr, fun hlen => ?_, fun hlen hlt => ?_, fun hlt x y hxy => ?_⟩
    · rw [decide_eq_false hlen]
      exact loadEnds_misfit _ he
    · rw [decide_eq_true hlen, hlt]
      exact loadEnds_pending _ he
    · have hlen : buf.length = 64 := by rw [← hxy, List.length_append, Vector.length_toList, Vector.length_toList]
      have hput : putLast r buf s = s.upEngRail r fun e =>
          if e.table = true then { e with ripple0 := x, dead0 := y } else { e with ripple1 := x, dead1 := y } := by
        rw [← hxy, putLast, List.take_left' (Vector.length_toList ..), List.drop_left' (Vector.length_toList ..),
          toVec_toList, toVec_toList]
      rw [decide_eq_true hlen, hlt, ← hput]
      exact loadEnds_put he
  · intro swaps bad
    have hbad : bad = swapBad s b t := by
      by_cases hpend : (∃ r : Rail, hasBit b r.val = true ∧ swPend s r = true) ∨
          ∃ r : Rail, hasBit t r.val = true ∧ ltPend s r = true
      · exact (if_pos hpend).trans (swapBad_pending s b t hpend).symm
      · exact (if_neg hpend).trans (swapBad_checks s b t hpend).symm
    rw [hbad]
    refine ⟨fun q d h hany hb ht => ⟨_, exec_engBankSwap h hany hb ht, ?_⟩, fun m v hp hl hv c hc => ?_⟩
    · obtain ⟨e, he, -⟩ := ready_some h
      cases (if s.flt.classA = true then some 0x0105 else swapBad s b t) with
      | some c => exact complete_ends c 0 he
      | none => exact ⟨_, act_waits he, push_joined ..⟩
    · have hexec : exec c s = .next (writeSwap m v s) := by
        rcases hc with rfl | rfl <;> rfl
      rw [writeSwap_eq hp hl hv] at hexec
      refine ⟨_, hexec, ?_⟩
      cases swapBad s b t with
      | some c => exact reject_rejected ..
      | none => exact push_joined ..
  · obtain ⟨e, he, -⟩ := ready_some h
    refine ⟨_, exec_engAssign h hr hto hw, fun hA => ?_, fun hA hmove => ?_, fun hA hmove hoff => ?_,
      fun hA hmove hoff hfail hbad => ?_, fun hA hmove hoff hfail hbad => ?_⟩
    · rw [if_pos hA]
      exact complete_ends _ _ he
    · rw [if_neg (by rw [hA]; decide), if_pos (Option.isSome_iff_ne_none.mpr hmove)]
      exact complete_ends _ _ he
    · rw [if_neg (by rw [hA]; decide), if_neg (by rw [hmove]; decide), if_pos (Bool.or_eq_true_iff.mpr hoff)]
      exact complete_ends _ _ he
    · rw [if_neg (by rw [hA]; decide), if_neg (by rw [hmove]; decide), if_neg (by rw [hoff, hfail]; decide),
        if_pos hbad]
      exact complete_ends _ _ he
    · rw [if_neg (by rw [hA]; decide), if_neg (by rw [hmove]; decide), if_neg (by rw [hoff, hfail]; decide),
        if_neg (by rw [hbad]; decide)]
      refine ⟨_, moveBegun_waits he, ?_⟩
      by_cases hon : s.eng.rails[r].enabled = true
      · rw [if_pos hon, if_pos hon]
      · rw [if_neg hon, if_neg hon]
        exact push_joined ..

end Sys2Proof.Machine
end

section
/-!
Requests at the Pourn ports (O40), first part: the word of a response, the frame that its port expects, and the
answer to it.
-/

namespace Sys2Proof.Machine

/-! ## Responses (R177 to R181) -/

/-- The fields of a response above its CRC, as a number. -/
def responseFields (s : State) (p : Port) (r : Rail) (seq status grant : Nat) : Nat :=
  seq % 64 * 2 ^ 26 + status % 32 * 2 ^ 21 + bit s.prn.rails[r].mrg * 2 ^ 20 +
    bit (s.prn.ports[p].alert != 0) * 2 ^ 19 + grant % 2048 * 2 ^ 8

theorem bit_lt (b : Bool) : bit b < 2 := by cases b <;> decide

section Word
variable (s : State) (p : Port) (r : Rail) (seq status grant : Nat)

theorem packWord_response : (packWord [(26, 6, seq), (21, 5, status), (20, 1, bit s.prn.rails[r].mrg),
    (19, 1, bit (s.prn.ports[p].alert != 0)), (8, 11, grant)]).toNat = responseFields s p r seq status grant := by
  have hmrg := bit_lt s.prn.rails[r].mrg
  have halert := bit_lt (s.prn.ports[p].alert != 0)
  simp only [packWord, List.foldl_cons, List.foldl_nil, BitVec.toNat_ofNat, responseFields]
  omega

theorem or_lowByte {a c : Nat} (ha : a % 2 ^ 8 = 0) (hc : c < 2 ^ 8) : a ||| c = a + c := by
  have hshift : a = (a / 2 ^ 8) <<< 8 := by
    rw [Nat.shiftLeft_eq]
    omega
  rw [hshift]
  exact (Nat.shiftLeft_add_eq_or_of_lt hc _).symm

theorem responseFields_lowByte : responseFields s p r seq status grant % 2 ^ 8 = 0 := by
  unfold responseFields
  omega

/-- The CRC stands in the low byte, which the other fields leave free. -/
theorem responseWord_toNat : (responseWord s p r seq status grant).toNat = responseFields s p r seq status grant +
    (crc8 (bitsHighFirst 24 (responseFields s p r seq status grant / 256))).toNat := by
  unfold responseWord
  have hcrc := (crc8 (bitsHighFirst 24 (responseFields s p r seq status grant / 256))).isLt
  rw [BitVec.toNat_or, packWord_response, BitVec.toNat_setWidth, Nat.mod_eq_of_lt (by omega),
    or_lowByte (responseFields_lowByte ..) hcrc]

/-- The fields of a response are found where R178 puts them. -/
theorem responseWord_fields : let n := (responseWord s p r seq status grant).toNat
    n / 2 ^ 26 % 2 ^ 6 = seq % 64 ∧ n / 2 ^ 21 % 2 ^ 5 = status % 32 ∧ n / 2 ^ 20 % 2 = bit s.prn.rails[r].mrg ∧
      n / 2 ^ 19 % 2 = bit (s.prn.ports[p].alert != 0) ∧ n / 2 ^ 8 % 2 ^ 11 = grant % 2048 ∧
      n % 2 ^ 8 = (crc8 (bitsHighFirst 24 (n / 256))).toNat := by
  intro n
  have hn : n = _ := responseWord_toNat s p r seq status grant
  have hcrc := (crc8 (bitsHighFirst 24 (responseFields s p r seq status grant / 256))).isLt
  have hmrg := bit_lt s.prn.rails[r].mrg
  have halert := bit_lt (s.prn.ports[p].alert != 0)
  have hfree := responseFields_lowByte s p r seq status grant
  have hhigh : n / 256 = responseFields s p r seq status grant / 256 := by omega
  rw [hhigh, hn]
  generalize crc8 (bitsHighFirst 24 (responseFields s p r seq status grant / 256)) = crc at hcrc
  unfold responseFields
  omega

theorem getLsbD_of_bit {w : Word} {i : Nat} {b : Bool} (h : w.toNat / 2 ^ i % 2 = bit b) : w.getLsbD i = b := by
  rw [BitVec.getLsbD, Nat.testBit_eq_decide_div_mod_eq, h]
  cases b <;> rfl

end Word

theorem respond_answered (p : Port) (f : BitVec 64) (status grant : Nat) (s : State) :
    Answered p f status grant s (respond p (frmRail f) (frmSeq f) status grant s) := by
  obtain ⟨hseq, hstatus, hmrg, halert, hgrant, hcrc⟩ :=
    responseWord_fields s p (frmRail f) (frmSeq f) status grant
  have hlt : frmSeq f < 64 := Nat.mod_lt _ (by decide)
  refine ⟨responseWord s p (frmRail f) (frmSeq f) status grant, rfl, ?_, ?_, getLsbD_of_bit hmrg, ?_, ?_, ?_⟩
  · rw [BitVec.extractLsb'_toNat, Nat.shiftRight_eq_div_pow, hseq, Nat.mod_eq_of_lt hlt]
  · rw [BitVec.extractLsb'_toNat, Nat.shiftRight_eq_div_pow, hstatus]
  · rw [getLsbD_of_bit halert, Bool.eq_iff_iff, bne_iff_ne, decide_eq_true_eq]
  · rw [BitVec.extractLsb'_toNat, Nat.shiftRight_eq_div_pow, hgrant]
  · apply BitVec.eq_of_toNat_eq
    rw [BitVec.extractLsb'_toNat, Nat.shiftRight_zero, hcrc]

/-! ## The frame that a port expects (R182 to R186) -/

/-- How a request that has acted is answered: with its GRANT, or with its code, after the event of a rejection with
PRI 1. -/
def AnsweredWith (p : Port) (f : BitVec 64) (code grant : Nat) (a t : State) : Prop :=
  if code = 0 ∨ code = 0x010F then
    Answered p f (if code = 0 then 0 else 0x0F) grant (Consumed p f (if code = 0 then 0 else 0x0F) grant a) t
  else ∃ b, (frmPri f = false → b = Consumed p f (code - 0x100) 0 a) ∧
    (frmPri f = true → RaisedOnce (0x70 + p.val) 4 p.val (Consumed p f (code - 0x100) 0 a) b) ∧
    Answered p f (code - 0x100) 0 b t

theorem statusOf_reject {code : Nat} (h : ¬ (code = 0 ∨ code = 0x010F)) : statusOf code = code - 0x100 :=
  if_neg fun h0 => h (.inl h0)

theorem statusOf_done {code : Nat} (h : code = 0 ∨ code = 0x010F) : statusOf code = if code = 0 then 0 else 0x0F := by
  rcases h with rfl | rfl <;> rfl

theorem consume_done {code : Nat} (p : Port) (f : BitVec 64) (grant : Nat) (s : State) (h : code = 0 ∨ code = 0x010F) :
    consume p f ⟨code, grant⟩ s = respond p (frmRail f) (frmSeq f) (if code = 0 then 0 else 0x0F) grant
      (Consumed p f (if code = 0 then 0 else 0x0F) grant s) := by
  have hok : (decide (code = 0) || decide (code = codeClamped)) = true := by
    rw [Bool.or_eq_true, decide_eq_true_eq, decide_eq_true_eq]
    exact h
  rw [← statusOf_done h]
  unfold consume
  simp only [hok, if_true]
  rfl

theorem consume_rejected {code : Nat} (p : Port) (f : BitVec 64) (grant : Nat) (s : State)
    (h : ¬ (code = 0 ∨ code = 0x010F)) :
    consume p f ⟨code, grant⟩ s = reject p f code (Consumed p f (code - 0x100) 0 s) := by
  have hok : (decide (code = 0) || decide (code = codeClamped)) = false := by
    rw [← Bool.not_eq_true, Bool.or_eq_true, decide_eq_true_eq, decide_eq_true_eq]
    exact h
  rw [← statusOf_reject h]
  unfold consume
  simp only [hok, Bool.false_eq_true, if_false]
  rfl

theorem consume_answeredWith (p : Port) (f : BitVec 64) (code grant : Nat) (s : State) :
    AnsweredWith p f code grant s (consume p f ⟨code, grant⟩ s) := by
  unfold AnsweredWith
  by_cases h : code = 0 ∨ code = 0x010F
  · rw [if_pos h, consume_done p f grant s h]
    exact respond_answered ..
  · rw [if_neg h, consume_rejected p f grant s h, reject, statusOf_reject h]
    refine ⟨_, fun hpri => ?_, fun hpri => ?_, respond_answered ..⟩
    · rw [if_neg (by rw [hpri]; decide)]
    · rw [if_pos hpri]
      exact raiseLimited_raised _ _ _ _ _ _ _ (by omega)

/-- The frame that port p expects: the port is LIVE and on, and the frame passes checks 1 to 4 of R186, is no replay
and has the expected SEQ. -/
structure Expects (s : State) (p : Port) (f : BitVec 64) : Prop where
  on : domOn s pdPrn = true
  live : s.prn.ports[p].state = .live
  good : frmGood f = true
  formed : formCheck f = none
  fresh : ∀ l, s.prn.ports[p].last = some l → l.seq.toNat ≠ frmSeq f ∨ l.content ≠ frmBody f
  next : s.prn.ports[p].eseq.toNat = frmSeq f

namespace Expects
variable {s : State} {p : Port} {f : BitVec 64}

theorem portOpen_eq (h : Expects s p f) : portOpen s p = true := by
  rw [portOpen, h.on, h.live]
  rfl

/-- An expected frame is no replay (R184). -/
theorem last_not_replayed (h : Expects s p f) : (s.prn.ports[p].last.any fun l =>
    decide (l.seq.toNat = frmSeq f) && decide (l.content = frmBody f)) = false := by
  rw [Option.any_eq_false]
  intro l hl
  rw [← Bool.not_eq_true, Bool.and_eq_true, decide_eq_true_eq, decide_eq_true_eq, not_and_or]
  exact h.fresh l hl

theorem sequenced_eq (h : Expects s p f) (act : State → State × Answer) :
    sequenced p f act s = consume p f (act s).2 (act s).1 := by
  have hlive : ¬ (s.prn.ports[p].state != .live) = true := by
    rw [h.live]
    decide
  unfold sequenced
  dsimp only
  rw [if_neg hlive]
  cases hl : s.prn.ports[p].last with
  | none => exact if_pos h.next
  | some l =>
    have hreplay := h.last_not_replayed
    rw [hl] at hreplay
    dsimp only
    rw [if_neg (by rw [Option.any_some] at hreplay; rw [hreplay]; decide), if_pos h.next]

/-- An expected frame of a rail of the port acts (R186). -/
theorem receive_eq (h : Expects s p f) {type : Nat} (htype : frmType f = type) (hhas : portHas s (frmRail f) p = true)
    {owned : Bool} (howned : owned = true → owns s p (frmRail f) = true) (act : State → State × Answer) :
    receive type owned p f act s = consume p f (act s).2 (act s).1 := by
  have hpass : ¬ (!portOpen s p || !frmGood f || frmType f != type) = true := by
    rw [h.portOpen_eq, h.good, htype, bne_self_eq_false]
    decide
  have hrail : ¬ (!portHas s (frmRail f) p || owned && !owns s p (frmRail f)) = true := by
    rw [hhas]
    cases owned with
    | false => exact Bool.false_ne_true
    | true =>
      rw [howned rfl]
      decide
  unfold receive
  rw [if_neg hpass, h.sequenced_eq]
  simp only [h.formed, if_neg hrail]

end Expects

end Sys2Proof.Machine
end

section
/-!
Requests at the Pourn ports (O40), second part: what each of the five requests does, and the settlement.
-/

namespace Sys2Proof.Machine

theorem frmPay_lt (f : BitVec 64) (lo len : Nat) : frmPay f lo len < 2 ^ len := Nat.mod_lt _ (by positivity)

/-! ## SETPOINT (R188 to R192) -/

section Setpoint
variable {s : State} {f : BitVec 64}

theorem actSetpoint_state (h : s.eng.rails[frmRail f].mode ≠ .digital ∨ s.prn.rails[frmRail f].seqown = true) :
    actSetpoint f s = (s, ⟨0x0105, 0⟩) := by
  refine if_pos ?_
  rw [Bool.or_eq_true, bne_iff_ne]
  exact h

/-- A rail in DIGITAL whose target the sequencer does not own takes one (R188). -/
theorem takes_target (hmode : s.eng.rails[frmRail f].mode = .digital) (hown : s.prn.rails[frmRail f].seqown = false) :
    ¬ (s.eng.rails[frmRail f].mode != .digital || s.prn.rails[frmRail f].seqown) = true := by
  rw [hmode, hown]
  decide

theorem actSetpoint_window (hmode : s.eng.rails[frmRail f].mode = .digital)
    (hown : s.prn.rails[frmRail f].seqown = false)
    (hout : frmPay f 24 16 < s.cfg.vmin (frmRail f).val ∨ s.cfg.vmax (frmRail f).val < frmPay f 24 16) :
    actSetpoint f s = (s, ⟨0x0114, 0⟩) :=
  (if_neg (takes_target hmode hown)).trans (if_pos hout)

/-- A target that is not reached already, or that asks for no NOTIFY, is set without an alert (R189, R192). -/
theorem setTarget_quiet {r : Rail} {code : BitVec 16} {notify : Bool} (cls : Nat)
    (h : notify = false ∨ s.prn.rails[r].ref ≠ code.toNat * 65536) :
    setTarget r code cls notify s = s.upPrnRail r fun p =>
      { p with tgt := code, gcls := BitVec.ofNat 3 cls, notify := notify, safe := none } := by
  refine if_neg ?_
  rw [Bool.and_eq_true, decide_eq_true_eq]
  rintro ⟨hn, href⟩
  rcases h with h | h
  · rw [h] at hn
    cases hn
  · have hsame := congrArg PrnRail.ref (vmod_same s.prn.rails r fun p =>
      { p with tgt := code, gcls := BitVec.ofNat 3 cls, notify := notify, safe := none })
    exact h (hsame.symm.trans href)

theorem actSetpoint_target (hmode : s.eng.rails[frmRail f].mode = .digital)
    (hown : s.prn.rails[frmRail f].seqown = false) (hmin : s.cfg.vmin (frmRail f).val ≤ frmPay f 24 16)
    (hmax : frmPay f 24 16 ≤ s.cfg.vmax (frmRail f).val)
    (hquiet : frmNotify f = false ∨ s.prn.rails[frmRail f].ref ≠ frmPay f 24 16 * 65536) :
    actSetpoint f s =
      (s.upPrnRail (frmRail f) fun p =>
        { p with tgt := BitVec.ofNat 16 (frmPay f 24 16)
                 gcls := BitVec.ofNat 3 (min (frmPay f 21 3) (s.cfg.slewcap (frmRail f).val))
                 notify := frmNotify f, safe := none },
        ⟨if min (frmPay f 21 3) (s.cfg.slewcap (frmRail f).val) < frmPay f 21 3 then 0x010F else 0,
          min (frmPay f 21 3) (s.cfg.slewcap (frmRail f).val) * 256 +
            timeField (rampTicks (frmPay f 24 16) s.prn.rails[frmRail f].ref
              (min (frmPay f 21 3) (s.cfg.slewcap (frmRail f).val)))⟩) := by
  have hin : ¬ (frmPay f 24 16 < s.cfg.vmin (frmRail f).val ∨ s.cfg.vmax (frmRail f).val < frmPay f 24 16) :=
    not_or.mpr ⟨hmin.not_gt, hmax.not_gt⟩
  have hcode : (BitVec.ofNat 16 (frmPay f 24 16)).toNat = frmPay f 24 16 :=
    (BitVec.toNat_ofNat ..).trans (Nat.mod_eq_of_lt (frmPay_lt f 24 16))
  unfold actSetpoint
  dsimp only
  rw [if_neg (takes_target hmode hown), if_neg hin, setTarget_quiet _ (by rw [hcode]; exact hquiet)]
  rfl

end Setpoint

/-! ## FORECAST (R118 to R123, R197) -/

section Forecast
variable (s : State) (r : Rail)

/-- The engine and the clocks. -/
def engineTime (s : State) : Eng × Clk := (s.eng, s.clk)

theorem holdPositions_engineTime (slot : Nat) : engineTime (holdPositions r slot s) = engineTime s := rfl

theorem addPositions_engineTime (n m : Nat) : engineTime (addPositions r n m s) = engineTime s := by
  unfold addPositions
  dsimp only
  split <;> rfl

theorem stopShedding_engineTime : engineTime (stopShedding r s) = engineTime s := by
  unfold stopShedding
  split <;> rfl

theorem leaveLight_engineTime (extra : Int) : engineTime (leaveLight r extra s) = engineTime s := by
  unfold leaveLight
  dsimp only
  split <;> rfl

/-- The positions that join for a forecast leave the engine as it is (R119). -/
theorem joinFor_engineTime (dI : Int) (tF : Nat) : engineTime (joinFor r dI tF s).1 = engineTime s := by
  unfold joinFor
  dsimp only
  split
  · rw [holdPositions_engineTime, leaveLight_engineTime]
  · split
    · rw [holdPositions_engineTime, addPositions_engineTime, stopShedding_engineTime]
    · rfl

/-- The step of a forecast under FCLIM (R119). -/
def plannedStep (step : Int) : Int := clampInt (-(s.eng.rails[r].word 21).toInt) (s.eng.rails[r].word 21).toInt step

/-- The positions that the planner makes join or stay, and the number that then run. -/
def plannedJoin (step : Int) (lead : Nat) : State × Nat :=
  if (decide (0 < plannedStep s r step) && s.cfg.pwmMode r.val != 0) = true then
    joinFor r (plannedStep s r step) (instantNow s + 64000 * lead) s
  else (if plannedStep s r step < 0 then holdPositions r (ceilDiv (instantNow s + 64000 * lead) 15625) s else s,
    activeCount s r)

/-- The state in which the planner enters a forecast: a ramp without a stated slope has taken a free value. -/
def plannedIn (step : Int) (lead : Nat) : State :=
  if (plannedJoin s r step lead).2 = 0 ∨ lead = 0 then (takeFree (plannedJoin s r step lead).1).2
  else (plannedJoin s r step lead).1

theorem plannedIn_engineTime (step : Int) (lead : Nat) : engineTime (plannedIn s r step lead) = engineTime s := by
  have hjoin : engineTime (plannedJoin s r step lead).1 = engineTime s := by
    unfold plannedJoin
    split
    · exact joinFor_engineTime ..
    · dsimp only
      split <;> rfl
  unfold plannedIn
  split
  · exact hjoin
  · exact hjoin

/-- The rail's books with one more forecast. -/
def forecastEntered (s : State) (r : Rail) (step : Int) (lead : Nat) (fc : Forecast) (clamped : Bool) : State :=
  (plannedIn s r step lead).upEngRail r fun e =>
    { e with fcs := e.fcs ++ [fc], fcAcc := e.fcAcc + 1
             fcClmp := if clamped = true then incSat e.fcClmp else e.fcClmp }

/-- What the planner makes of a forecast (R119): an entry of the rail's list, with its step under FCLIM. -/
theorem planForecast_adds (step : Int) (lead : Nat) : ∃ (ovf clamped : Bool) (fc : Forecast),
    (planForecast r step lead s).1 = noteOverflow r ovf (forecastEntered s r step lead fc clamped) ∧
    (planForecast r step lead s).2.code = (if clamped = true then codeClamped else 0) ∧
    fc.tF = instantNow s + 64000 * lead ∧ fc.tAcc = instantNow (plannedIn s r step lead) ∧
    fc.dI = plannedStep s r step :=
  ⟨_, _, _, rfl, rfl, rfl, rfl, rfl⟩

theorem actForecast_busy {p : Port} {f : BitVec 64} (h : 2 ≤ (pendingFcs s (frmRail f)).length) :
    actForecast p f s = (s, ⟨0x0104, 0⟩) := if_pos h

theorem ignoresForecast_iff : ignoresForecast s r = true ↔ s.cfg.fff r.val = false ∨
    s.eng.rails[r].mode ≠ .digital ∨ s.prn.rails[r].seqown = true ∨ s.eng.rails[r].fcsusp = true := by
  simp only [ignoresForecast, Bool.or_eq_true, Bool.not_eq_true', bne_iff_ne, ne_eq, or_assoc]

theorem actForecast_free {p : Port} {f : BitVec 64} (h : ¬ 2 ≤ (pendingFcs s (frmRail f)).length)
    (hpnm : s.cfg.pnm.testBit p.val = false) : actForecast p f s =
      if ignoresForecast s (frmRail f) = true then (s, ⟨0, 8 * (activeCount s (frmRail f) % 64) + 4⟩)
      else planForecast (frmRail f) (500 * signed 16 (frmPay f 24 16)) (frmPay f 8 16) s := by
  have hskip : (if s.cfg.pnm.testBit p.val = true then triggerInjected 1 s else s) = s :=
    if_neg (by rw [hpnm]; decide)
  unfold actForecast
  dsimp only
  rw [if_neg h, hskip]

end Forecast

/-! ## STATE (R198, R199) -/

section PortState
variable {s : State} {p : Port} {f : BitVec 64}

/-- The port's state and cost, and its booking, as a STATE sets them. -/
def stateSet (p : Port) (f : BitVec 64) (s : State) : State :=
  { s with
    prn := { s.prn with ports := vmod s.prn.ports p fun q =>
      { q with pstate := BitVec.ofNat 4 (frmPay f 36 4), cost := BitVec.ofNat 16 (frmPay f 20 16)
               costRail := frmRail f } }
    ldg := { s.ldg with books :=
      (if frmPay f 20 16 = 0 ∨ domOn s pdGau = false then [] else [{ for_ := .port p, mJ := frmPay f 20 16 }]) ++
        s.ldg.books.filter fun b => b.for_ != .port p } }

theorem actState_stored (hsrc : s.ldg.src ≠ .input) (hst : s.cfg.hpst p.val ≤ frmPay f 36 4) :
    actState p f s = (s, ⟨0x0106, 0⟩) := by
  refine if_pos ?_
  rw [Bool.and_eq_true, bne_iff_ne, decide_eq_true_eq]
  exact ⟨hsrc, hst⟩

/-- The stored energy does not bar the state. -/
theorem not_stored (h : s.ldg.src = .input ∨ frmPay f 36 4 < s.cfg.hpst p.val) :
    ¬ (s.ldg.src != .input && decide (s.cfg.hpst p.val ≤ frmPay f 36 4)) = true := by
  rw [Bool.and_eq_true, bne_iff_ne, decide_eq_true_eq]
  rintro ⟨hsrc, hst⟩
  exact h.elim hsrc hst.not_gt

theorem actState_refused (hsrc : s.ldg.src = .input ∨ frmPay f 36 4 < s.cfg.hpst p.val)
    (hmore : s.prn.ports[p].cost.toNat < frmPay f 20 16)
    (hfull : mayAdmit s (frmPay f 20 16 - s.prn.ports[p].cost.toNat) true = false) :
    actState p f s = (countRefusal s, ⟨0x0106, 0⟩) := by
  unfold actState
  dsimp only
  rw [if_neg (not_stored hsrc), if_pos (by rw [hfull, decide_eq_true hmore]; rfl)]
  rfl

theorem book_off {x : BookFor} {mJ : Nat} {u : State} (h : domOn u pdGau = false) : book x mJ u = u :=
  if_pos (by rw [h]; rfl)

theorem book_on {x : BookFor} {mJ : Nat} {u : State} (h : domOn u pdGau = true) :
    book x mJ u = u.upLdg fun l => { l with books := { for_ := x, mJ := mJ } :: l.books } :=
  if_neg (by rw [h]; decide)

/-- The booking of a STATE replaces the port's booking before. -/
theorem stateSet_eq : (if frmPay f 20 16 = 0 then dropBook (.port p) (s.upPort p fun q =>
      { q with pstate := BitVec.ofNat 4 (frmPay f 36 4), cost := BitVec.ofNat 16 (frmPay f 20 16)
               costRail := frmRail f })
    else book (.port p) (frmPay f 20 16) (dropBook (.port p) (s.upPort p fun q =>
      { q with pstate := BitVec.ofNat 4 (frmPay f 36 4), cost := BitVec.ofNat 16 (frmPay f 20 16)
               costRail := frmRail f }))) = stateSet p f s := by
  unfold stateSet
  by_cases hzero : frmPay f 20 16 = 0
  · rw [if_pos hzero, if_pos (.inl hzero)]
    rfl
  · rw [if_neg hzero]
    cases hgau : domOn s pdGau with
    | false =>
      rw [if_pos (.inr rfl)]
      exact book_off hgau
    | true =>
      rw [if_neg (not_or.mpr ⟨hzero, by decide⟩)]
      exact book_on hgau

theorem actState_set (hsrc : s.ldg.src = .input ∨ frmPay f 36 4 < s.cfg.hpst p.val)
    (hfits : frmPay f 20 16 ≤ s.prn.ports[p].cost.toNat ∨
      mayAdmit s (frmPay f 20 16 - s.prn.ports[p].cost.toNat) true = true) :
    actState p f s = (releaseIdle (stateSet p f s), ⟨0, 128 * frmPay f 36 4⟩) := by
  have hadmit : ¬ (decide (s.prn.ports[p].cost.toNat < frmPay f 20 16) &&
      !mayAdmit s (frmPay f 20 16 - s.prn.ports[p].cost.toNat) true) = true := by
    rw [Bool.and_eq_true, decide_eq_true_eq, Bool.not_eq_true']
    rintro ⟨hmore, hfull⟩
    rcases hfits with hless | hroom
    · exact hless.not_gt hmore
    · rw [hfull] at hroom
      cases hroom
  rw [← stateSet_eq]
  exact (if_neg (not_stored hsrc)).trans (if_neg hadmit)

end PortState

/-! ## QUERY (R200) -/

section Query
variable {s : State} {p : Port} {f : BitVec 64}

theorem queryError_some {r : Rail} {x : Int} (h : latestError s r = some x) : queryError r s = (s, x) := by
  rw [queryError, h]

theorem queryError_none {r : Rail} (h : latestError s r = none) :
    (queryError r s).1 = { s with freeCount := s.freeCount + 1 } := by
  rw [queryError, h]
  rfl

theorem actQuery_volt (h : frmPay f 36 4 = 0) : actQuery p f s = ((queryError (frmRail f) s).1,
    ⟨0, voltItem (1000 * deliveredRef s (frmRail f) + 4578 * (queryError (frmRail f) s).2)⟩) := by
  rw [actQuery, h]
  rfl

theorem actQuery_verr (h : frmPay f 36 4 = 1) : actQuery p f s = ((queryError (frmRail f) s).1,
    ⟨0, verrItem (4578 * (queryError (frmRail f) s).2)⟩) := by
  rw [actQuery, h]
  rfl

theorem actQuery_free (hitem : frmPay f 36 4 ≤ 1) (h : latestError s (frmRail f) = none) :
    ∃ g, actQuery p f s = ({ s with freeCount := s.freeCount + 1 }, ⟨0, g⟩) := by
  rw [← queryError_none h]
  rcases Nat.le_one_iff_eq_zero_or_eq_one.mp hitem with h0 | h1
  · exact ⟨_, actQuery_volt h0⟩
  · exact ⟨_, actQuery_verr h1⟩

theorem actQuery_cur (h : frmPay f 36 4 = 2) : actQuery p f s = (s, ⟨0, curItem s.pwm.rails[frmRail f].iAvg⟩) := by
  rw [actQuery, h]
  rfl

theorem actQuery_ride (h : frmPay f 36 4 = 3) : actQuery p f s = (s, ⟨0, rideItem s⟩) := by
  rw [actQuery, h]
  rfl

theorem actQuery_alert (h : frmPay f 36 4 = 4) : actQuery p f s =
    (s.upPort p fun q => { q with alert := 0 }, ⟨0, s.prn.ports[p].alert.toNat⟩) := by
  rw [actQuery, h]
  rfl

theorem actQuery_pstate (h : frmPay f 36 4 = 5) : actQuery p f s = (s, ⟨0, 128 * s.prn.ports[p].pstate.toNat⟩) := by
  rw [actQuery, h]
  rfl

end Query

/-! ## HEARTBEAT (R182, R185) -/

section Heartbeat
variable {s : State} {p : Port} {f : BitVec 64}

/-- How a HEARTBEAT that its port expects is taken (R182). -/
theorem exec_heartbeat_expected (h : Expects s p f) (htype : frmType f = 5) : exec (.heartbeat p f) s = .next (
    if frmSync f = true then synchronise p f s else consume p f ⟨0, 0⟩ s) := by
  have hpass : ¬ (!portOpen s p || !frmGood f || frmType f != tyHeartbeat) = true := by
    rw [h.portOpen_eq, h.good, htype]
    decide
  have hreplay : (s.prn.ports[p].state == .live && s.prn.ports[p].last.any fun l =>
      decide (l.seq.toNat = frmSeq f) && decide (l.content = frmBody f)) = false := by
    rw [h.last_not_replayed, Bool.and_false]
  show execHeartbeat p f s = _
  unfold execHeartbeat
  dsimp only
  rw [if_neg hpass, hreplay, h.formed, h.sequenced_eq]
  simp only [Option.isNone_none, Bool.and_true, Bool.not_false, Option.getD_none]

theorem each_fixed {α : Type} {xs : List α} {g : α → State → State} (h : ∀ x, g x s = s) : State.each xs g s = s := by
  unfold State.each
  induction xs with
  | nil => rfl
  | cons x xs ih => rw [List.foldl_cons, h, ih]

/-- A SYNC of a port that is LIVE, and for which no SAFE action waits, changes nothing before its answer. -/
theorem synchronise_live (hlive : s.prn.ports[p].state = .live) (hsafe : ∀ k : Rail, s.prn.rails[k].safe ≠ some p) :
    synchronise p f s = consume p f ⟨0, 0⟩ s := by
  have hport : (s.upPort p fun q => { q with state := .live }) = s :=
    congrArg (fun v => { s with prn := { s.prn with ports := v } }) (vmod_id (by rw [← hlive]))
  have hlost : ¬ (s.prn.ports[p].state == .lost) = true := by
    rw [hlive]
    decide
  unfold synchronise
  dsimp only
  rw [hport, if_neg hlost]
  exact congrArg (consume p f ⟨0, 0⟩) (each_fixed fun k => if_neg (hsafe k))

theorem exec_heartbeat (h : Expects s p f) (htype : frmType f = 5) (hsync : frmSync f = false) :
    exec (.heartbeat p f) s = .next (consume p f ⟨0, 0⟩ s) := by
  rw [exec_heartbeat_expected h htype, if_neg (by rw [hsync]; decide)]

theorem exec_heartbeat_sync (h : Expects s p f) (htype : frmType f = 5) (hsync : frmSync f = true)
    (hsafe : ∀ k : Rail, s.prn.rails[k].safe ≠ some p) :
    exec (.heartbeat p f) s = .next (consume p f ⟨0, 0⟩ s) := by
  rw [exec_heartbeat_expected h htype, if_pos hsync, synchronise_live h.live hsafe]

end Heartbeat

/-! ## The settlement -/

/-- An expected request is answered with what it acts. -/
theorem Expects.answers {s a : State} {p : Port} {f : BitVec 64} (h : Expects s p f) {type : Nat}
    (htype : frmType f = type) (hhas : portHas s (frmRail f) p = true) {owned : Bool}
    (howned : owned = true → owns s p (frmRail f) = true) {act : State → State × Answer} {code grant : Nat}
    (hact : act s = (a, ⟨code, grant⟩)) : AnsweredWith p f code grant a (receive type owned p f act s) := by
  rw [h.receive_eq htype hhas howned, hact]
  exact consume_answeredWith ..

/-- A forecast that the planner takes (R119, R122): its entry, the clamp of its step, and the saturation that event
0x61 tells. -/
theorem planForecast_entry (s : State) (r : Rail) (step : Int) (lead : Nat) :
    ((planForecast r step lead s).2.code = 0 ∨ (planForecast r step lead s).2.code = 0x010F) ∧
    ∃ b : State, ((planForecast r step lead s).1 = b ∨ (b.eng.rails[r].ovf = false ∧
        Raised 0x61 (b.upEngRail r fun e => { e with ovf := true }) (planForecast r step lead s).1)) ∧
      ∃ fc, b.eng.rails[r].fcs = s.eng.rails[r].fcs ++ [fc] ∧ b.eng.rails[r].fcAcc = s.eng.rails[r].fcAcc + 1 ∧
        fc.tF = instantNow s + 64000 * lead ∧ fc.tAcc = instantNow s ∧
        (0 ≤ (s.eng.rails[r].word 21).toInt → (fc.dI.natAbs : Int) ≤ (s.eng.rails[r].word 21).toInt) := by
  obtain ⟨ovf, clamped, fc, hstate, hcode, htF, htAcc, hdI⟩ := planForecast_adds s r step lead
  obtain ⟨heng, hclk⟩ := Prod.mk.inj (plannedIn_engineTime s r step lead)
  refine ⟨?_, forecastEntered s r step lead fc clamped, ?_, fc, ?_, ?_, htF, ?_, fun hlim => ?_⟩
  · rw [hcode]
    cases clamped
    · exact .inl rfl
    · exact .inr rfl
  · rw [hstate]
    exact noteOverflow_cases ..
  · rw [forecastEntered, upEngRail_same, heng]
  · rw [forecastEntered, upEngRail_same, heng]
  · rw [htAcc, instantNow, hclk, instantNow]
  · obtain ⟨hlo, hhi⟩ := clampInt_bounds hlim step
    rw [hdI, plannedStep]
    omega

/-- Settles O40: each request is what its act answers, on a frame that the port expects. -/
theorem portRequests : Obligations.PortRequests := by
  unfold Obligations.PortRequests
  intro s p f q r answered hon hlive hgood hform hfresh hnext
  have h : Expects s p f := ⟨hon, hlive, hgood, hform, hfresh, hnext⟩
  refine ⟨fun htype hhas howns => ?_, fun htype hhas howns => ?_, fun htype hhas => ?_, fun htype hhas => ?_,
    fun htype hsync => ⟨_, exec_heartbeat h htype hsync, consume_answeredWith ..⟩,
    fun htype hsync hsafe => ⟨_, exec_heartbeat_sync h htype hsync hsafe, consume_answeredWith ..⟩⟩
  · intro e code cls
    refine ⟨_, rfl, fun hst => ?_, fun hmode hown => ⟨fun hout => ?_, fun hmin hmax hquiet => ?_⟩⟩
    · exact h.answers htype hhas (fun _ => howns) (actSetpoint_state hst)
    · exact h.answers htype hhas (fun _ => howns) (actSetpoint_window hmode hown hout)
    · exact h.answers htype hhas (fun _ => howns) (actSetpoint_target hmode hown hmin hmax hquiet)
  · intro e waiting
    refine ⟨_, rfl, fun hbusy => ?_, fun hfew hpnm => ⟨fun hign => ?_, fun hfff hmode hown hsusp => ?_⟩⟩
    · exact h.answers htype hhas (fun _ => howns) (actForecast_busy s hbusy)
    · refine h.answers htype hhas (fun _ => howns) ((actForecast_free s hfew.not_ge hpnm).trans (if_pos ?_))
      exact (ignoresForecast_iff s r).mpr hign
    · have hheed : ¬ ignoresForecast s r = true := by
        rw [ignoresForecast_iff, hfff, hown, hmode, show s.eng.rails[r].fcsusp = false from hsusp]
        decide
      obtain ⟨hcode, b, hb, hentry⟩ := planForecast_entry s r (500 * signed 16 (frmPay f 24 16)) (frmPay f 8 16)
      refine ⟨_, b, rfl, ?_, hcode, hb, hentry⟩
      exact h.answers htype hhas (fun _ => howns) ((actForecast_free s hfew.not_ge hpnm).trans (if_neg hheed))
  · intro st cost
    refine ⟨_, rfl, fun hsrc hst => ?_, fun hsrc => ⟨fun hmore hfull => ?_, fun hfits => ?_⟩⟩
    · exact h.answers htype hhas (fun ho => by cases ho) (actState_stored hsrc hst)
    · exact h.answers htype hhas (fun ho => by cases ho) (actState_refused hsrc hmore hfull)
    · exact ⟨stateSet p f s, h.answers htype hhas (fun ho => by cases ho) (actState_set hsrc hfits), rfl, rfl⟩
  · intro item
    have answers {a : State} {grant : Nat} (hact : actQuery p f s = (a, ⟨0, grant⟩)) :
        answered 0 grant a (receive tyQuery false p f (actQuery p f) s) :=
      h.answers htype hhas (fun ho => by cases ho) hact
    refine ⟨_, rfl, fun hitem x hx => answers ?_, fun hitem x hx => answers ?_, fun hitem hnone => ?_,
      fun hitem => answers (actQuery_cur hitem), fun hitem => answers (actQuery_ride hitem),
      fun hitem => answers (actQuery_alert hitem), fun hitem => answers (actQuery_pstate hitem)⟩
    · rw [actQuery_volt hitem, queryError_some hx]
    · rw [actQuery_verr hitem, queryError_some hx]
    · obtain ⟨g, hg⟩ := actQuery_free (p := p) hitem hnone
      exact ⟨g, answers hg⟩

end Sys2Proof.Machine
end

section
/-!
Stage faults and pitching (O36), first part: what a racking makes of its phase, of the held positions and of the
descriptor that pitches the phase.
-/

namespace Sys2Proof.Machine

/-! ## The phase as its racking leaves it (R159) -/

section Rack
variable {s : State} {h : Phase} {cause : Nat}

/-- A phase that has been racked, but for its level and its pulse. -/
def Phasor.rackedFor (cause : Nat) (p : Phasor) : Phasor :=
  { p with
    state := .racked, rkcause := BitVec.ofNat 3 cause, ramp := false, weight := 64, wStep := 0, trim := 0, trimI := 0 }

/-- A phase racked in the first half of its period, or out of the active set, is at MID at once. -/
def rackedEarly (h : Phase) (cause : Nat) (s : State) : State :=
  (s.upPhase h fun p => { (p.level (rcNow s) .mid).rackedFor cause with midNext := false }).upFb (railOf s.cfg h)
    fun f => { f with firing := f.firing.filter (· != h) }

/-- A phase racked in the second half of its period ends its pulse and is at MID from the next one on. -/
def rackedLate (h : Phase) (cause : Nat) (s : State) : State :=
  s.upPhase h fun p => { (p.single (rcNow s)).rackedFor cause with
    midNext := true, pulse := (p.single (rcNow s)).pulse.filter fun u => decide (u.onAt ≤ rcNow s) }

/-- An active phase that has been racked, by the half of its period (R159). -/
def rackedOut (h : Phase) (cause : Nat) (s : State) : State :=
  if firstHalf s h = true then rackedEarly h cause s else rackedLate h cause s

/-- The identifier of a racking's event (R165). -/
def rackSrc (h : Phase) (cause : Nat) : Word := srcId 0x5 0x0 h.val (if cause = 3 then 3 else 1) cause

/-- The event, the count and the record of a racking (R164, R165, R439). -/
def rackNoted (h : Phase) (cause : Nat) (u : State) : State :=
  saveHealth (countUp 4 (raise h.val (rackSrc h cause) 0 u))

/-- The end of a racking: its PHASE_ADMIT, and the held positions against NFLOOR (R161, R163). -/
def rackEnds (s : State) (h : Phase) (x : State) : State :=
  floorCheck (railOf s.cfg h) (held s (railOf s.cfg h).val).length (endAdmit (railOf s.cfg h) h 0x0113 x)

theorem rack_active (ha : s.pwm.phases[h].state = .active) :
    rack h cause s = rackEnds s h (rackActive (railOf s.cfg h) h
      (phaseMilliamps s.cfg (railOf s.cfg h).val s.pwm.phases[h]) (rackNoted h cause (rackedOut h cause s))) := by
  unfold rack rackedOut
  dsimp only
  rw [ha, if_neg (by decide)]
  cases firstHalf s h <;> rfl

theorem rack_waiting (hw : s.pwm.phases[h].state = .idle ∨ s.pwm.phases[h].state = .steep) :
    rack h cause s = rackEnds s h (rackWaiting (railOf s.cfg h) h
      ((rackNoted h cause (rackedEarly h cause s)).upPhase h fun p => { p with subfor := none })) := by
  unfold rack
  dsimp only
  rcases hw with hw | hw <;> rw [hw, if_neg (by decide)] <;> cases firstHalf s h <;> rfl

theorem rack_racked (hr : s.pwm.phases[h].state = .racked) : rack h cause s = s := by
  unfold rack
  dsimp only
  rw [hr]
  rfl

/-- A racking that leaves i_lost as the lane pair has it needs no new feed-forward term (rule 5 of R159). -/
theorem rackPhase_same (hl : (rack h cause s).eng.rails[railOf s.cfg h].iLost = s.eng.rails[railOf s.cfg h].iLost) :
    rackPhase h cause s = rack h cause s :=
  if_neg (by rw [hl, bne_self_eq_false]; decide)

theorem rackPhase_other (hl : (rack h cause s).eng.rails[railOf s.cfg h].iLost ≠ s.eng.rails[railOf s.cfg h].iLost) :
    rackPhase h cause s = updateFeedForward (railOf s.cfg h) (rack h cause s) :=
  if_pos (bne_iff_ne.mpr hl)

/-- The phase that is racked at once, by what its pulses have become. -/
theorem rackedEarly_frame (h : Phase) (cause : Nat) (s : State) :
    rackedEarly h cause s = (s.upPhase h fun p => { p.rackedFor cause with
      midNext := false, drive := .mid, pulse := none, past := (rackedEarly h cause s).pwm.phases[h].past }).upFb
        (railOf s.cfg h) fun f => { f with firing := f.firing.filter (· != h) } := by
  have hp : (rackedEarly h cause s).pwm.phases[h] = _ := upPhase_same (s := s) _
  rw [hp]
  exact congrArg (State.upFb _ _) (upPhase_congr rfl)

/-- The phase that is racked in the second half of its period, by what its pulses have become. -/
theorem rackedLate_frame (h : Phase) (cause : Nat) (s : State) :
    rackedLate h cause s = s.upPhase h fun p => { p.rackedFor cause with
      midNext := true
      pulse := (rackedLate h cause s).pwm.phases[h].pulse, past := (rackedLate h cause s).pwm.phases[h].past } := by
  have hp : (rackedLate h cause s).pwm.phases[h] = _ := upPhase_same _
  rw [hp]
  refine upPhase_congr ?_
  rw [Phasor.single_frame]
  rfl

/-- A pulse that stands alone and is on ends at its off-edge, and one that is still to come is dropped. -/
theorem rackedLate_pulse (cause : Nat) (hp : ∀ a ∈ s.pwm.phases[h].pulse, a.again = none) :
    (rackedLate h cause s).pwm.phases[h].pulse =
      s.pwm.phases[h].pulse.filter fun a => decide (a.onAt ≤ s.clk.rc * 64) := by
  rw [rackedLate, upPhase_same, Phasor.single_of_single _ hp]
  rfl

theorem rackedOut_early (he : firstHalf s h = true) : rackedOut h cause s = rackedEarly h cause s := if_pos he

theorem rackedOut_late (he : firstHalf s h = false) : rackedOut h cause s = rackedLate h cause s :=
  if_neg (ne_true_of_eq_false he)

theorem rackNoted_raised (h : Phase) (cause : Nat) (u : State) : Raised h.val u (raise h.val (rackSrc h cause) 0 u) :=
  raise_raised _ _ _ _ (by omega)

theorem rackNoted_quiet (h : Phase) (cause : Nat) (u : State) : quiet (rackNoted h cause u) = quiet u := by
  rw [rackNoted, saveHealth_quiet, countUp_quiet, raise_quiet]

end Rack

/-! ## The held positions against NFLOOR (R161) -/

section Floor
variable {s : State} {r : Rail} {before : Nat}

theorem floorCheck_falls (hn : (held s r.val).length < before) (hf : (held s r.val).length < s.cfg.nfloor r.val)
    (hb : s.cfg.nfloor r.val ≤ before) :
    floorCheck r before s = runningFault (idxOf r) 4 0 false
      (raise (0x30 + r.val) (srcId 0x5 0x0 (railUnit s r) 0 1) 0 s) := by
  unfold floorCheck
  rw [if_pos (by simp [hn, hf, hb])]

theorem floorCheck_stays (hn : before ≤ (held s r.val).length ∨ s.cfg.nfloor r.val ≤ (held s r.val).length ∨
    before < s.cfg.nfloor r.val) : floorCheck r before s = s := by
  unfold floorCheck
  rw [if_neg]
  simp only [Bool.and_eq_true, decide_eq_true_eq]
  omega

end Floor

/-! ## The active set on its way (R148) -/

/-- The marker of the phase subsystem that gives a rail an active set. -/
def activeMarker (r : Rail) (act : BitVec 48) (light : Bool) : Marker :=
  { markerOf .phasePlan 0xFFFE .internal none [.rail r, .pwm] [.activeSet r act light] with
    rails := BitVec.ofNat 8 (2 ^ r.val) }

theorem sendActive_joined (r : Rail) (act : BitVec 48) (s : State) :
    Joined [activeMarker r act s.pwm.rails[r].lightNext] (s.upPwmRail r fun w => { w with actNext := act })
      (sendActive r act s) := by
  have hlight : (s.upPwmRail r fun w => { w with actNext := act }).pwm.rails[r].lightNext =
      s.pwm.rails[r].lightNext := by
    rw [upPwmRail_get, if_pos rfl]
  rw [← hlight]
  exact push_joined ..

theorem sendActive_pwm (r : Rail) (act : BitVec 48) (s : State) :
    (sendActive r act s).pwm = (s.upPwmRail r fun w => { w with actNext := act }).pwm := rfl

theorem upPwmRail_same (r : Rail) (f : PwmRail → PwmRail) (s : State) :
    (s.upPwmRail r f).pwm.rails[r] = f s.pwm.rails[r] := vmod_same ..

theorem upPwmRail_phases (r : Rail) (f : PwmRail → PwmRail) (s : State) :
    (s.upPwmRail r f).pwm.phases = s.pwm.phases := rfl

theorem upPwmRail_congr {r : Rail} {s : State} {f g : PwmRail → PwmRail} (hfg : f s.pwm.rails[r] = g s.pwm.rails[r]) :
    s.upPwmRail r f = s.upPwmRail r g := by
  simp only [State.upPwmRail, State.upPwm, vmod_congr hfg]

theorem upPwmRail_upPwmRail (r : Rail) (f g : PwmRail → PwmRail) (s : State) :
    (s.upPwmRail r f).upPwmRail r g = s.upPwmRail r fun w => g (f w) := by
  simp only [State.upPwmRail, State.upPwm, vmod_vmod]

/-! ## Who holds the positions, and the carriers' targets (R145, R149) -/

/-- What the positions of a rail turn on: the state of each phase and the phase that it stands in for. -/
def seats (s : State) : Phase → PhState × Option Phase := fun k => (s.pwm.phases[k].state, s.pwm.phases[k].subfor)

theorem upPhase_seats {k : Phase} {f : Phasor → Phasor} {s : State}
    (hf : ∀ p, (f p).state = p.state ∧ (f p).subfor = p.subfor) : seats (s.upPhase k f) = seats s := by
  funext n
  unfold seats
  rw [upPhase_get]
  split
  · rw [(hf _).1, (hf _).2]
  · rfl

theorem retarget_seats (r : Rail) (fresh : BitVec 48) (s : State) : seats (retarget r fresh s) = seats s := by
  refine each_keeps _ seats _ fun e _ u => ?_
  have htake (k : Phase) (u : State) (t p a : Nat) : seats (u.upPhase k fun q =>
      if hasBit fresh k.val then { q with target := t, offset := t, carrAt := a, carrLen := p, prevLen := p }
      else { q with target := t }) = seats u :=
    upPhase_seats fun q => by split <;> exact ⟨rfl, rfl⟩
  dsimp only
  split
  · split
    · rw [htake, htake]
    · rw [htake]
  · rw [htake]

theorem substituteOf_of_seats {s t : State} (hs : seats t = seats s) (h : Phase) :
    substituteOf t h = substituteOf s h := by
  have hsub (k : Phase) : t.pwm.phases[k].subfor = s.pwm.phases[k].subfor := congrArg (fun q => (q k).2) hs
  simp only [substituteOf, hsub]

theorem holder_of_seats {s t : State} (hc : t.cfg = s.cfg) (hs : seats t = seats s) (r k : Nat) :
    holder t r k = holder s r k := by
  unfold holder
  rw [hc]
  split
  · rfl
  · next h _ =>
    have hstate : t.pwm.phases[h].state = s.pwm.phases[h].state := congrArg (fun q => (q h).1) hs
    rw [outOfService, hstate, substituteOf_of_seats hs]
    rfl

theorem held_of_seats {s t : State} (hc : t.cfg = s.cfg) (hs : seats t = seats s) (r : Nat) : held t r = held s r := by
  unfold held
  rw [hc]
  exact congrArg (List.filterMap · _) (funext fun k => holder_of_seats hc hs r k)

/-! ## Substitutes (R145, R161) -/

section Substitutes
variable {s : State} {h : Phase}

theorem substituteOf_none_iff : substituteOf s h = none ↔ ∀ n : Phase, s.pwm.phases[n].subfor ≠ some h := by
  rw [substituteOf, List.find?_eq_none]
  simp only [beq_iff_eq, mem_fins, forall_const]

/-- A phase has the one substitute that stands in for it. -/
theorem substituteOf_eq {n : Phase} (hn : ∀ k : Phase, s.pwm.phases[k].subfor = some h ↔ k = n) :
    substituteOf s h = some n := by
  cases hf : substituteOf s h with
  | none => exact absurd ((hn n).mpr rfl) (substituteOf_none_iff.mp hf n)
  | some k => rw [(hn k).mp (by simpa using List.find?_some hf)]

/-- An update that leaves the phases that stand in for h leaves its substitute. -/
theorem substituteOf_upPhase {k : Phase} {f : Phasor → Phasor}
    (hf : (f s.pwm.phases[k]).subfor = some h ↔ s.pwm.phases[k].subfor = some h) :
    substituteOf (s.upPhase k f) h = substituteOf s h := by
  unfold substituteOf
  congr 1
  funext n
  rw [upPhase_get, Bool.eq_iff_iff, beq_iff_eq, beq_iff_eq]
  split
  · next hn => rw [hn, hf]
  · rfl

theorem outOfService_racked {p : Phasor} (hp : p.state = .racked) : outOfService p = true := by
  simp [outOfService, hp]

/-- A phase that is freed of its place leaves the phases that stand in for another. -/
theorem freeSub_substituteOf {k : Phase} (hk : k ≠ h) : substituteOf (freeSub k s) h = substituteOf s h := by
  unfold freeSub
  split
  · next n hn =>
    have hsub : s.pwm.phases[n].subfor = some k := by simpa using List.find?_some hn
    exact substituteOf_upPhase (by simp [-Fin.getElem_fin, hsub, hk])
  · rfl

theorem freeSub_state (k n : Phase) : (freeSub k s).pwm.phases[n].state = s.pwm.phases[n].state := by
  unfold freeSub
  split
  · rw [upPhase_get]
    split <;> rfl
  · rfl

/-- The substitute of a phase that is out of service keeps its place. -/
theorem freeSubs_substituteOf (r : Rail) (hh : outOfService s.pwm.phases[h] = true) :
    substituteOf (freeSubs r s) h = substituteOf s h := by
  have hkeeps : outOfService (freeSubs r s).pwm.phases[h] = true ∧
      substituteOf (freeSubs r s) h = substituteOf s h := by
    refine List.foldlRecOn (motive := fun u : State =>
      outOfService u.pwm.phases[h] = true ∧ substituteOf u h = substituteOf s h) _ _ ⟨hh, rfl⟩
      fun u ⟨hout, hsub⟩ k _ => ?_
    dsimp only
    split
    · split
      · exact ⟨hout, hsub⟩
      · next hserved =>
        have hk : k ≠ h := fun hk => hserved (by rw [hk, hout]; rfl)
        exact ⟨by rw [outOfService, freeSub_state]; exact hout, (freeSub_substituteOf hk).trans hsub⟩
    · exact ⟨hout, hsub⟩
  exact hkeeps.2

theorem levelUnless_subfor {c : Prop} [Decidable c] (now : Nat) (d : Drive) (p : Phasor) :
    (if c then p else p.level now d).subfor = p.subfor := by
  split <;> rfl

theorem showStates_substituteOf (r : Rail) : substituteOf (showStates r s) h = substituteOf s h :=
  each_keeps _ (substituteOf · h) _ fun k _ u => substituteOf_upPhase (by
    dsimp only
    split
    · rfl
    · split
      · split <;> rfl
      · exact iff_of_eq (congrArg (· = some h) (levelUnless_subfor ..)))

theorem setActive_substituteOf (r : Rail) (act : BitVec 48) (hh : outOfService s.pwm.phases[h] = true) :
    substituteOf (setActive r act s) h = substituteOf s h := by
  unfold setActive
  dsimp only
  rw [substituteOf_of_seats (retarget_seats ..), showStates_substituteOf]
  exact freeSubs_substituteOf (s := s.upPwmRail r _) r hh

end Substitutes

end Sys2Proof.Machine
end

section
/-!
Stage faults and pitching (O36), second part: a racked phase leaves its active position to a substitute, or empty.
-/

namespace Sys2Proof.Machine

/-! ## A phase that holds its own position (R159, R161) -/

/-- A racked phase that held the position of its own ORDER, with nobody in its place, the first of its rail's period. -/
structure RackedAlone (s : State) (h : Phase) : Prop where
  racked : s.pwm.phases[h].state = .racked
  standsIn : s.pwm.phases[h].subfor = none
  alone : substituteOf s h = none
  role : s.cfg.role h.val = 1
  place : phaseAt s.cfg (railOf s.cfg h).val (s.cfg.order h.val) = some h
  order : s.cfg.order h.val < 48
  first : s.pwm.rails[railOf s.cfg h].rackedNow = []
  apart : ∀ l ∈ s.pwm.rails[railOf s.cfg h].loss, l.pos ≠ h

/-- The part of i_lost of a racked phase. -/
def lossPart (s : State) (h : Phase) (mA : Int) (wait : Option Nat) : Loss :=
  { start := mA, pos := h, wait := wait, dec := s.cfg.lossdec (railOf s.cfg h).val
    left := s.cfg.lossdec (railOf s.cfg h).val, sent := !inHeel s (railOf s.cfg h) }

/-- A rail with a part of i_lost more, for a position racked in this period and no longer shed. -/
def PwmRail.losing (h : Phase) (l : Loss) (w : PwmRail) : PwmRail :=
  { w with loss := w.loss ++ [l], shedding := w.shedding.filter fun e => e.1 != h, rackedNow := [h] }

/-- A phase stands in for a position at full share. -/
def Phasor.standingFor (h : Phase) (p : Phasor) : Phasor := { p with subfor := some h, weight := 64, wStep := 0 }

/-- The rail with the part of i_lost of a position, before a substitute takes that. -/
def positionOpen (h : Phase) (mA : Int) (wait : Option Nat) (s : State) : State :=
  s.upPwmRail (railOf s.cfg h) (PwmRail.losing h (lossPart s h mA wait))

/-- The position's part of i_lost, with its substitute where there is one. -/
def positionLost (h : Phase) (mA : Int) (s : State) : State :=
  match freeSteep s (railOf s.cfg h).val with
  | [] => positionOpen h mA (some 2) s
  | n :: _ => (positionOpen h mA none s).upPhase n (Phasor.standingFor h)

/-- The active set that a racking asks for. -/
def setBehind (r : Rail) (h : Phase) (x : State) : BitVec 48 :=
  if x.pwm.rails[r].lightNext then lowest x r.val 1
  else putBit x.pwm.rails[r].actNext h.val false ||| phaseSet (x.pwm.rails[r].rackedNow.filterMap (substituteOf x))

/-- A rail without a phase in its active sets. -/
def PwmRail.without (h : Phase) (w : PwmRail) : PwmRail :=
  { w with act := putBit w.act h.val false, actNext := putBit w.actNext h.val false }

/-- The racked phase out of the active sets of a rail at its law: where nobody takes its position the carriers move. -/
def setsLeft (r : Rail) (h pos : Phase) (twin : Option Phase) (x : State) : State :=
  let v := x.upPwmRail r (PwmRail.without h)
  if twin.isSome || (substituteOf v pos).isSome then v else retarget r 0 v

/-- The active set behind the loss of a position on a rail at its law (rule 6 of R159). -/
def setsFollow (r : Rail) (h pos : Phase) (twin : Option Phase) (x : State) : State :=
  if setBehind r h x = (setsLeft r h pos twin x).pwm.rails[r].actNext && !x.pwm.rails[r].lightNext then
    setsLeft r h pos twin x
  else sendActive r (setBehind r h x) (setsLeft r h pos twin x)

/-- The loss of a position, with its part of i_lost on the rail. -/
def lossNoted (r : Rail) (h pos : Phase) (twin : Option Phase) (l : Loss) (s : State) : State :=
  let v := s.upPwmRail r fun w => { w with loss := w.loss ++ [l], shedding := w.shedding.filter fun e => e.1 != h }
  match twin with
  | some n => leaveToTwin r pos n v
  | none => losePosition r pos v

theorem inHeel_iff {s : State} {r : Rail} :
    inHeel s r = true ↔ s.eng.rails[r].mode = .heel ∨ s.eng.rails[r].mode = .track := by
  simp [-Fin.getElem_fin, inHeel]

theorem lossPart_carried {s : State} {h : Phase} (mA : Int) (wait : Option Nat) :
    ({ start := mA, pos := h, wait := wait, dec := s.cfg.lossdec (railOf s.cfg h).val
       left := s.cfg.lossdec (railOf s.cfg h).val
       sent := decide (¬ (s.eng.rails[railOf s.cfg h].mode = .heel ∨ s.eng.rails[railOf s.cfg h].mode = .track)) } :
      Loss) = lossPart s h mA wait := by
  have hsent : decide (¬ (s.eng.rails[railOf s.cfg h].mode = .heel ∨ s.eng.rails[railOf s.cfg h].mode = .track)) =
      !inHeel s (railOf s.cfg h) := by
    rw [Bool.eq_iff_iff, decide_eq_true_eq, Bool.not_eq_true', ← Bool.not_eq_true, inHeel_iff]
  rw [hsent]
  rfl

section Order
variable {g : Setup} {r : Nat}

/-- Each phase stands once in the order of its rail. -/
theorem nodup_inOrder : (inOrder g r).Nodup :=
  List.nodup_range.filterMap fun _ _ _ ha hb => (phaseAt_some ha).2.symm.trans (phaseAt_some hb).2

theorem mem_inOrder {h : Phase} (hp : phaseAt g r (g.order h.val) = some h) (ho : g.order h.val < 48) :
    h ∈ inOrder g r :=
  List.mem_filterMap.mpr ⟨_, List.mem_range.mpr ho, hp⟩

theorem inOrder_filter_one {h : Phase} (hp : phaseAt g r (g.order h.val) = some h) (ho : g.order h.val < 48)
    (hrole : g.role h.val = 1) : ((inOrder g r).filter fun k => g.role k.val = 1 && [h].contains k) = [h] := by
  refine List.perm_singleton.mp
    ((List.perm_ext_iff_of_nodup (nodup_inOrder.filter _) (List.nodup_singleton h)).mpr fun k => ?_)
  rw [List.mem_filter, List.mem_singleton]
  refine ⟨fun hk => ?_, fun hk => ?_⟩
  · simpa using ((Bool.and_eq_true ..).mp hk.2).2
  · rw [hk]
    exact ⟨mem_inOrder hp ho, by simp [hrole]⟩

end Order

theorem substitute_nil {s : State} {r : Rail} {h : Phase} (hf : freeSteep s r.val = []) : substitute r h s = s := by
  rw [substitute, hf]

theorem substitute_cons {s : State} {r : Rail} {h n : Phase} {ns : List Phase} (hf : freeSteep s r.val = n :: ns) :
    substitute r h s = s.upPhase n (Phasor.standingFor h) := by
  rw [substitute, hf]
  rfl

theorem upPhase_rails (k : Phase) (f : Phasor → Phasor) (s : State) : (s.upPhase k f).pwm.rails = s.pwm.rails := rfl

/-- The only position racked in the period gets the first free steep phase. -/
theorem assignSubstitutes_one {s : State} {r : Rail} {h : Phase} (hnow : s.pwm.rails[r].rackedNow = [h])
    (hracked : s.pwm.phases[h].state = .racked) (halone : substituteOf s h = none) (hrole : s.cfg.role h.val = 1)
    (hplace : phaseAt s.cfg r.val (s.cfg.order h.val) = some h) (horder : s.cfg.order h.val < 48) :
    assignSubstitutes r s = substitute r h s := by
  unfold assignSubstitutes
  dsimp only
  rw [hnow]
  simp only [State.each, List.foldl_cons, List.foldl_nil, halone]
  unfold substituteFor
  rw [inOrder_filter_one hplace horder hrole]
  simp only [State.each, List.foldl_cons, List.foldl_nil, halone, hracked]
  rfl

/-- What follows from the loss of a position, by whether the heel loop carries the rail or it is tracked. -/
theorem rackActive_cases {s : State} {r : Rail} {h pos : Phase} {mA : Int} {twin : Option Phase}
    (hpos : s.pwm.phases[h].subfor.getD h = pos)
    (htwin : (if pos = h then substituteOf s h else if outOfService s.pwm.phases[pos] then none else some pos) = twin) :
    let x := lossNoted r h pos twin
      { start := mA, pos := pos, wait := some 2, dec := s.cfg.lossdec r.val, left := s.cfg.lossdec r.val
        sent := !inHeel s r } (s.upPhase h fun p => { p with subfor := none })
    (inHeel s r = true → rackActive r h mA s = setActive r (setBehind r h x) x) ∧
      (inHeel s r = false → rackActive r h mA s = setsFollow r h pos twin (sendLoss r x)) := by
  subst hpos htwin
  refine ⟨fun hc => ?_, fun hc => ?_⟩
  · unfold rackActive
    dsimp only
    rw [hc]
    rfl
  · unfold rackActive
    dsimp only
    rw [hc]
    rfl

section Lost
variable {s : State} {h : Phase} {mA : Int} (H : RackedAlone s h)
include H

theorem RackedAlone.freeSteep_ne {n : Phase} {ns : List Phase} (hf : freeSteep s (railOf s.cfg h).val = n :: ns) :
    n ≠ h := by
  intro hn
  have hmem : n ∈ freeSteep s (railOf s.cfg h).val := hf ▸ List.mem_cons_self
  have hrole := (List.mem_filter.mp hmem).2
  rw [hn, H.role] at hrole
  simp at hrole

/-- The part of i_lost of the lost position waits as its substitute asks for, and the others go on as they are. -/
theorem RackedAlone.loss_wants (sub : Phase → Bool) :
    (s.pwm.rails[railOf s.cfg h].loss ++ [lossPart s h mA (some 2)]).map
        (fun l => if [h].contains l.pos then l.wants (sub l.pos) else l) =
      s.pwm.rails[railOf s.cfg h].loss ++ [lossPart s h mA (if sub h then none else some 2)] := by
  rw [List.map_append]
  congr 1
  · refine (List.map_congr_left fun l hl => ?_).trans (List.map_id _)
    rw [if_neg (by simpa using H.apart l hl)]
    rfl
  · simp [lossPart, Loss.wants]

theorem RackedAlone.positionOpen_settled (sub : Phase → Bool) :
    ((positionOpen h mA (some 2) s).upPwmRail (railOf s.cfg h) fun w => { w with
      loss := w.loss.map fun l => if [h].contains l.pos then l.wants (sub l.pos) else l }) =
      positionOpen h mA (if sub h then none else some 2) s := by
  unfold positionOpen
  rw [upPwmRail_upPwmRail]
  refine upPwmRail_congr ?_
  rw [PwmRail.losing, PwmRail.losing, ← H.loss_wants]

omit H in
theorem positionOpen_racked (wait : Option Nat) :
    (positionOpen h mA wait s).pwm.rails[railOf s.cfg h].rackedNow = [h] := by
  rw [positionOpen, upPwmRail_same]
  rfl

/-- A phase that begins to stand in for the position is its substitute. -/
theorem RackedAlone.substituteOf_standing (n : Phase) (wait : Option Nat) :
    substituteOf ((positionOpen h mA wait s).upPhase n (Phasor.standingFor h)) h = some n := by
  refine substituteOf_eq fun k => ?_
  rw [upPhase_get]
  split
  · next hk => exact iff_of_true rfl hk
  · next hk => exact iff_of_false (substituteOf_none_iff.mp H.alone k) hk

theorem RackedAlone.losePosition_eq :
    losePosition (railOf s.cfg h) h (s.upPwmRail (railOf s.cfg h) fun w => { w with
      loss := w.loss ++ [lossPart s h mA (some 2)], shedding := w.shedding.filter fun e => e.1 != h }) =
      positionLost h mA s := by
  have hopen : ((s.upPwmRail (railOf s.cfg h) fun w => { w with
      loss := w.loss ++ [lossPart s h mA (some 2)], shedding := w.shedding.filter fun e => e.1 != h }).upPwmRail
        (railOf s.cfg h) fun w => { w with rackedNow := w.rackedNow ++ [h] }) = positionOpen h mA (some 2) s := by
    rw [upPwmRail_upPwmRail]
    refine upPwmRail_congr ?_
    rw [H.first]
    rfl
  unfold losePosition positionLost
  dsimp only
  rw [hopen, assignSubstitutes_one (s := positionOpen h mA (some 2) s) (positionOpen_racked _) H.racked H.alone H.role
    H.place H.order]
  cases hf : freeSteep s (railOf s.cfg h).val with
  | nil =>
    rw [substitute_nil (s := positionOpen h mA (some 2) s) hf, positionOpen_racked]
    refine (H.positionOpen_settled fun k => (substituteOf _ k).isSome).trans ?_
    rw [show substituteOf (positionOpen h mA (some 2) s) h = none from H.alone]
    rfl
  | cons n ns =>
    rw [substitute_cons (s := positionOpen h mA (some 2) s) hf, upPhase_rails, positionOpen_racked]
    refine (congrArg (State.upPhase n (Phasor.standingFor h)) (H.positionOpen_settled fun k =>
      (substituteOf ((positionOpen h mA (some 2) s).upPhase n (Phasor.standingFor h)) k).isSome)).trans ?_
    rw [H.substituteOf_standing]
    rfl

theorem RackedAlone.positionLost_substituteOf :
    substituteOf (positionLost h mA s) h = (freeSteep s (railOf s.cfg h).val).head? := by
  unfold positionLost
  split
  · next hnone => rw [hnone]; exact H.alone
  · next n ns hsome => rw [hsome]; exact H.substituteOf_standing ..

theorem RackedAlone.rackActive_eq :
    (inHeel s (railOf s.cfg h) = true → rackActive (railOf s.cfg h) h mA s =
      setActive (railOf s.cfg h) (setBehind (railOf s.cfg h) h (positionLost h mA s)) (positionLost h mA s)) ∧
    (inHeel s (railOf s.cfg h) = false → rackActive (railOf s.cfg h) h mA s =
      setsFollow (railOf s.cfg h) h h none (sendLoss (railOf s.cfg h) (positionLost h mA s))) := by
  have hid : (s.upPhase h fun p => { p with subfor := none }) = s := by
    have : vmod s.pwm.phases h (fun p => { p with subfor := none }) = s.pwm.phases := vmod_id (by
      have := H.standsIn
      generalize s.pwm.phases[h] = p at this
      cases p
      cases this
      rfl)
    rw [State.upPhase, State.upPwm, this]
  have hcases := rackActive_cases (s := s) (r := railOf s.cfg h) (h := h) (mA := mA) (pos := h) (twin := none)
    (by rw [H.standsIn]; rfl) ((if_pos rfl).trans H.alone)
  rw [hid] at hcases
  rw [← H.losePosition_eq]
  exact hcases

end Lost
end Sys2Proof.Machine
end

section
/-!
Stage faults and pitching (O36), third part: the rail behind the racking of a phase that held its own position.
-/

namespace Sys2Proof.Machine

/-! ## The active sets of a rail at its law -/

section Follow
variable {r : Rail} {h pos : Phase} {twin : Option Phase} {x : State}

theorem setsLeft_apart : apartPhases (setsLeft r h pos twin x) = apartPhases (x.upPwmRail r (PwmRail.without h)) := by
  unfold setsLeft
  dsimp only
  rw [apartPhases_ite, retarget_apart, ite_self]

theorem setsLeft_rail : (setsLeft r h pos twin x).pwm.rails[r] = x.pwm.rails[r].without h := by
  rw [(of_apartPhases setsLeft_apart).2.2.1, upPwmRail_same]

theorem setsLeft_seats : seats (setsLeft r h pos twin x) = seats x := by
  unfold setsLeft
  dsimp only
  split
  · rfl
  · exact retarget_seats ..

theorem setsLeft_quiet : quiet (setsLeft r h pos twin x) = quiet x := by
  unfold setsLeft
  dsimp only
  split
  · rfl
  · exact retarget_quiet ..

theorem sendLoss_pwm (r : Rail) (s : State) : (sendLoss r s).pwm = s.pwm := rfl

theorem setsFollow_eng : (setsFollow r h pos twin x).eng = x.eng := by
  have heng : (setsLeft r h pos twin x).eng = x.eng := (of_apartPhases setsLeft_apart).1
  unfold setsFollow
  split
  · exact heng
  · exact heng

theorem setsFollow_seats : seats (setsFollow r h pos twin x) = seats x := by
  unfold setsFollow
  split
  · exact setsLeft_seats
  · exact setsLeft_seats

theorem setsFollow_cfg : (setsFollow r h pos twin x).cfg = x.cfg := by
  have hcfg : (setsLeft r h pos twin x).cfg = x.cfg := cfg_of_quiet setsLeft_quiet
  unfold setsFollow
  split
  · exact hcfg
  · exact hcfg

theorem sendActive_rail (act : BitVec 48) (s : State) :
    (sendActive r act s).pwm.rails[r] = { s.pwm.rails[r] with actNext := act } := by
  rw [sendActive_pwm, upPwmRail_same]

theorem setsFollow_loss : (setsFollow r h pos twin x).pwm.rails[r].loss = x.pwm.rails[r].loss := by
  unfold setsFollow
  split
  · rw [setsLeft_rail]
    rfl
  · rw [sendActive_rail, setsLeft_rail]
    rfl

/-- A new active set leaves by its marker. -/
theorem setsFollow_sends
    (hnew : setBehind r h x ≠ putBit x.pwm.rails[r].actNext h.val false ∨ x.pwm.rails[r].lightNext = true) :
    setsFollow r h pos twin x = sendActive r (setBehind r h x) (setsLeft r h pos twin x) := by
  unfold setsFollow
  rw [if_neg]
  rw [setsLeft_rail]
  rcases hnew with hnew | hlight
  · simp only [Bool.and_eq_true, decide_eq_true_eq]
    exact fun hc => hnew hc.1
  · rw [hlight, Bool.not_true, Bool.and_false]
    decide

/-- An active set that the racking has left already needs no marker. -/
theorem setsFollow_stays (hsame : setBehind r h x = putBit x.pwm.rails[r].actNext h.val false)
    (hlight : x.pwm.rails[r].lightNext = false) : setsFollow r h pos twin x = setsLeft r h pos twin x := by
  unfold setsFollow
  rw [if_pos]
  rw [setsLeft_rail, hlight, hsame]
  exact (Bool.and_true _).trans (decide_eq_true rfl)

/-- In LIGHT the next held position becomes the LIGHT phase (R161). -/
theorem setsFollow_light (hlight : x.pwm.rails[r].lightNext = true) :
    (setsFollow r h pos twin x).pwm.rails[r].actNext = lowest (setsFollow r h pos twin x) r.val 1 := by
  rw [lowest, held_of_seats setsFollow_cfg setsFollow_seats, setsFollow_sends (.inr hlight), sendActive_rail]
  exact if_pos hlight

end Follow

/-- A set with a phase more. -/
theorem phaseSet_singleton (b : BitVec 48) (n : Phase) : b ||| phaseSet [n] = putBit b n.val true := by
  simp [phaseSet, putBit]

/-! ## The lost position (R159, R161) -/

section Lost
variable {s : State} {h : Phase} {mA : Int}

/-- What the part of i_lost of a lost position waits for. -/
def lossWait (s : State) (h : Phase) : Option Nat :=
  if (freeSteep s (railOf s.cfg h).val).head?.isSome then none else some 2

theorem positionOpen_rail (wait : Option Nat) :
    (positionOpen h mA wait s).pwm.rails[railOf s.cfg h] =
      s.pwm.rails[railOf s.cfg h].losing h (lossPart s h mA wait) := by
  rw [positionOpen, upPwmRail_same]

theorem positionLost_rail : (positionLost h mA s).pwm.rails[railOf s.cfg h] =
    s.pwm.rails[railOf s.cfg h].losing h (lossPart s h mA (lossWait s h)) := by
  unfold positionLost lossWait
  split
  · next hf => rw [hf, positionOpen_rail]; rfl
  · next n ns hf => rw [hf, upPhase_rails, positionOpen_rail]; rfl

theorem positionLost_eng : (positionLost h mA s).eng = s.eng := by
  unfold positionLost
  split <;> rfl

theorem positionLost_fab : (positionLost h mA s).fab = s.fab := by
  unfold positionLost
  split <;> rfl

theorem positionLost_racked (hr : s.pwm.phases[h].state = .racked) :
    (positionLost h mA s).pwm.phases[h].state = .racked := by
  unfold positionLost
  split
  · exact hr
  · rw [upPhase_get]
    split
    · exact hr
    · exact hr

/-- The sum of i_lost that goes to the lane pair (R161). -/
theorem positionLost_lossSum (hc : inHeel s (railOf s.cfg h) = false) (hd : s.cfg.lossdec (railOf s.cfg h).val ≠ 0) :
    lossSum (positionLost h mA s).pwm.rails[railOf s.cfg h] = mA +
      (s.pwm.rails[railOf s.cfg h].loss.filter (·.sent)).foldl
        (fun a l => a + l.start * (l.left : Int) / (l.dec : Int)) 0 := by
  have hpart : (lossPart s h mA (lossWait s h)).value = mA :=
    Int.mul_ediv_cancel mA (by exact_mod_cast hd)
  have hsent : [lossPart s h mA (lossWait s h)].filter (·.sent) = [lossPart s h mA (lossWait s h)] := by
    simp [lossPart, hc]
  rw [positionLost_rail, lossSum, PwmRail.losing]
  dsimp only
  rw [List.filter_append, List.foldl_append, hsent, List.foldl_cons, List.foldl_nil, hpart, Int.add_comm]
  rfl

variable (H : RackedAlone s h)
include H

theorem RackedAlone.setBehind_eq (hlight : s.pwm.rails[railOf s.cfg h].lightNext = false) :
    setBehind (railOf s.cfg h) h (positionLost h mA s) = putBit s.pwm.rails[railOf s.cfg h].actNext h.val false |||
      phaseSet (freeSteep s (railOf s.cfg h).val).head?.toList := by
  unfold setBehind
  rw [positionLost_rail]
  refine (if_neg (by rw [PwmRail.losing, hlight]; decide)).trans ?_
  dsimp only [PwmRail.losing]
  congr 2
  rw [List.filterMap_cons, H.positionLost_substituteOf]
  cases (freeSteep s (railOf s.cfg h).val).head? <;> rfl

/-- The free steep phase of the lowest ORDER joins the active set. -/
theorem RackedAlone.setBehind_cons (hlight : s.pwm.rails[railOf s.cfg h].lightNext = false) {n : Phase}
    {ns : List Phase} (hf : freeSteep s (railOf s.cfg h).val = n :: ns) : setBehind (railOf s.cfg h) h (positionLost h mA s) =
      putBit (putBit s.pwm.rails[railOf s.cfg h].actNext h.val false) n.val true := by
  rw [H.setBehind_eq hlight, hf]
  exact phaseSet_singleton ..

theorem RackedAlone.setBehind_nil (hlight : s.pwm.rails[railOf s.cfg h].lightNext = false)
    (hf : freeSteep s (railOf s.cfg h).val = []) : setBehind (railOf s.cfg h) h (positionLost h mA s) =
      putBit s.pwm.rails[railOf s.cfg h].actNext h.val false := by
  rw [H.setBehind_eq hlight, hf]
  exact BitVec.or_zero

section Law
variable (hc : inHeel s (railOf s.cfg h) = false)
include hc

theorem RackedAlone.law_eng : (rackActive (railOf s.cfg h) h mA s).eng =
    (sendLoss (railOf s.cfg h) (positionLost h mA s)).eng := by
  rw [H.rackActive_eq.2 hc, setsFollow_eng]

theorem RackedAlone.law_iLost : (rackActive (railOf s.cfg h) h mA s).eng.rails[railOf s.cfg h].iLost =
    lossSum (positionLost h mA s).pwm.rails[railOf s.cfg h] := by
  rw [H.law_eng hc, sendLoss, upEngRail_same]

theorem RackedAlone.law_light (hlight : s.pwm.rails[railOf s.cfg h].lightNext = true) :
    (rackActive (railOf s.cfg h) h mA s).pwm.rails[railOf s.cfg h].actNext =
      lowest (rackActive (railOf s.cfg h) h mA s) (railOf s.cfg h).val 1 := by
  rw [H.rackActive_eq.2 hc]
  refine setsFollow_light ?_
  rw [sendLoss_pwm, positionLost_rail]
  exact hlight

end Law

theorem RackedAlone.rackActive_loss : (rackActive (railOf s.cfg h) h mA s).pwm.rails[railOf s.cfg h].loss =
    s.pwm.rails[railOf s.cfg h].loss ++ [lossPart s h mA (lossWait s h)] := by
  have hlost : (positionLost h mA s).pwm.rails[railOf s.cfg h].loss =
      s.pwm.rails[railOf s.cfg h].loss ++ [lossPart s h mA (lossWait s h)] := by
    rw [positionLost_rail]
    rfl
  cases hc : inHeel s (railOf s.cfg h) with
  | false =>
    rw [H.rackActive_eq.2 hc, setsFollow_loss]
    exact hlost
  | true =>
    rw [H.rackActive_eq.1 hc, (of_apartPhases (setActive_apart ..)).2.2.1, upPwmRail_same]
    exact hlost

theorem RackedAlone.rackActive_substituteOf : substituteOf (rackActive (railOf s.cfg h) h mA s) h =
    (freeSteep s (railOf s.cfg h).val).head? := by
  cases hc : inHeel s (railOf s.cfg h) with
  | false =>
    rw [H.rackActive_eq.2 hc, substituteOf_of_seats setsFollow_seats]
    exact H.positionLost_substituteOf
  | true =>
    rw [H.rackActive_eq.1 hc, setActive_substituteOf _ _ (outOfService_racked (positionLost_racked H.racked)),
      H.positionLost_substituteOf]

theorem RackedAlone.loss_cons {n : Phase} {ns : List Phase} (hf : freeSteep s (railOf s.cfg h).val = n :: ns) :
    (rackActive (railOf s.cfg h) h mA s).pwm.rails[railOf s.cfg h].loss =
        s.pwm.rails[railOf s.cfg h].loss ++ [lossPart s h mA none] ∧
      substituteOf (rackActive (railOf s.cfg h) h mA s) h = some n := by
  rw [H.rackActive_loss, H.rackActive_substituteOf, lossWait, hf]
  exact ⟨rfl, rfl⟩

theorem RackedAlone.loss_nil (hf : freeSteep s (railOf s.cfg h).val = []) :
    (rackActive (railOf s.cfg h) h mA s).pwm.rails[railOf s.cfg h].loss =
        s.pwm.rails[railOf s.cfg h].loss ++ [lossPart s h mA (some 2)] ∧
      substituteOf (rackActive (railOf s.cfg h) h mA s) h = none := by
  rw [H.rackActive_loss, H.rackActive_substituteOf, lossWait, hf]
  exact ⟨rfl, rfl⟩

/-- While the heel loop carries the rail, i_lost waits for the first DIGITAL head (R161). -/
theorem RackedAlone.heel_waits (hc : inHeel s (railOf s.cfg h) = true) :
    (rackActive (railOf s.cfg h) h mA s).eng = s.eng ∧ (rackActive (railOf s.cfg h) h mA s).fab = s.fab := by
  rw [H.rackActive_eq.1 hc]
  exact ⟨(of_apartPhases (setActive_apart ..)).1.trans positionLost_eng,
    (fab_of_quiet (setActive_quiet ..)).trans positionLost_fab⟩

/-- The substitute joins at once while the heel loop carries the rail. -/
theorem RackedAlone.heel_joins (hc : inHeel s (railOf s.cfg h) = true) :
    (rackActive (railOf s.cfg h) h mA s).pwm.rails[railOf s.cfg h] =
      { s.pwm.rails[railOf s.cfg h].losing h (lossPart s h mA (lossWait s h)) with
        act := setBehind (railOf s.cfg h) h (positionLost h mA s)
        actNext := setBehind (railOf s.cfg h) h (positionLost h mA s) } := by
  rw [H.rackActive_eq.1 hc, (of_apartPhases (setActive_apart ..)).2.2.1, upPwmRail_same, positionLost_rail]

/-- A rail at its law with the loss of a position, before that leaves the active sets. -/
def lawLost (h : Phase) (mA : Int) (s : State) : State := sendLoss (railOf s.cfg h) (positionLost h mA s)

omit H in
theorem lawLost_rail : (lawLost h mA s).pwm.rails[railOf s.cfg h] =
    s.pwm.rails[railOf s.cfg h].losing h (lossPart s h mA (lossWait s h)) := positionLost_rail

theorem RackedAlone.lawLost_substituteOf : substituteOf (lawLost h mA s) h =
    (freeSteep s (railOf s.cfg h).val).head? := H.positionLost_substituteOf

omit H in
/-- The racked phase out of the active sets, with its substitute in the set on its way. -/
theorem lawLost_joins {n : Phase} {ns : List Phase} (hf : freeSteep s (railOf s.cfg h).val = n :: ns)
    (act : BitVec 48) :
    (((lawLost h mA s).upPwmRail (railOf s.cfg h) (PwmRail.without h)).upPwmRail (railOf s.cfg h) fun w =>
        { w with actNext := act }) = { s with
      eng := { s.eng with rails := vmod s.eng.rails (railOf s.cfg h) fun e =>
        { e with iLost := lossSum (positionLost h mA s).pwm.rails[railOf s.cfg h] } }
      pwm := { s.pwm with
        phases := vmod s.pwm.phases n fun p => { p with subfor := some h, weight := 64, wStep := 0 }
        rails := vmod s.pwm.rails (railOf s.cfg h) fun w => { w with
          act := putBit w.act h.val false, actNext := act, loss := w.loss ++ [lossPart s h mA none], rackedNow := [h]
          shedding := w.shedding.filter fun e => e.1 != h } } } := by
  have hlost : positionLost h mA s = (positionOpen h mA none s).upPhase n (Phasor.standingFor h) := by
    rw [positionLost, hf]
  have hrails : vmod (vmod s.pwm.rails (railOf s.cfg h) (PwmRail.losing h (lossPart s h mA none))) (railOf s.cfg h)
      (fun w => { w.without h with actNext := act }) = vmod s.pwm.rails (railOf s.cfg h) fun w => { w with
        act := putBit w.act h.val false, actNext := act, loss := w.loss ++ [lossPart s h mA none], rackedNow := [h]
        shedding := w.shedding.filter fun e => e.1 != h } := vmod_vmod ..
  rw [upPwmRail_upPwmRail, lawLost, sendLoss]
  generalize lossSum (positionLost h mA s).pwm.rails[railOf s.cfg h] = v
  rw [hlost, ← hrails]
  rfl

section Law
variable (hc : inHeel s (railOf s.cfg h) = false) (hlight : s.pwm.rails[railOf s.cfg h].lightNext = false)
include hc hlight

/-- The free steep phase of the lowest ORDER joins by a marker (rule 6 of R159). -/
theorem RackedAlone.law_joins {n : Phase} {ns : List Phase} (hf : freeSteep s (railOf s.cfg h).val = n :: ns)
    (hbit : hasBit s.pwm.rails[railOf s.cfg h].actNext n.val = false) :
    Joined [activeMarker (railOf s.cfg h)
        (putBit (putBit s.pwm.rails[railOf s.cfg h].actNext h.val false) n.val true) false]
      (((lawLost h mA s).upPwmRail (railOf s.cfg h) (PwmRail.without h)).upPwmRail (railOf s.cfg h) fun w =>
        { w with actNext := putBit (putBit s.pwm.rails[railOf s.cfg h].actNext h.val false) n.val true })
      (rackActive (railOf s.cfg h) h mA s) := by
  have hset : setBehind (railOf s.cfg h) h (lawLost h mA s) =
      putBit (putBit s.pwm.rails[railOf s.cfg h].actNext h.val false) n.val true := H.setBehind_cons hlight hf
  have hnew : setBehind (railOf s.cfg h) h (lawLost h mA s) ≠
      putBit (lawLost h mA s).pwm.rails[railOf s.cfg h].actNext h.val false := by
    rw [hset, lawLost_rail]
    intro heq
    have hon : hasBit _ n.val = hasBit _ n.val := congrArg (hasBit · n.val) heq
    rw [hasBit_putBit_same _ _ (by omega), hasBit_putBit_other _ _ fun hn => H.freeSteep_ne hf (Fin.ext hn)] at hon
    exact absurd (hon.trans hbit) (by decide)
  have hleft : setsLeft (railOf s.cfg h) h h none (lawLost h mA s) =
      (lawLost h mA s).upPwmRail (railOf s.cfg h) (PwmRail.without h) := by
    have hsub : substituteOf (lawLost h mA s) h = some n := by rw [H.lawLost_substituteOf, hf]; rfl
    exact if_pos (by rw [show substituteOf ((lawLost h mA s).upPwmRail _ _) h = some n from hsub]; rfl)
  have hoff : ((lawLost h mA s).upPwmRail (railOf s.cfg h)
      (PwmRail.without h)).pwm.rails[railOf s.cfg h].lightNext = false := by
    rw [upPwmRail_same, lawLost_rail]
    exact hlight
  rw [H.rackActive_eq.2 hc]
  show Joined _ _ (setsFollow (railOf s.cfg h) h h none (lawLost h mA s))
  rw [setsFollow_sends (.inl hnew), hleft, hset, ← hoff]
  exact sendActive_joined ..

/-- Without a free steep phase the position stays empty. -/
theorem RackedAlone.law_empty (hf : freeSteep s (railOf s.cfg h).val = []) :
    rackActive (railOf s.cfg h) h mA s = setsLeft (railOf s.cfg h) h h none (lawLost h mA s) := by
  have hrail : (sendLoss (railOf s.cfg h) (positionLost h mA s)).pwm.rails[railOf s.cfg h] = _ := lawLost_rail
  refine (H.rackActive_eq.2 hc).trans (setsFollow_stays ((H.setBehind_nil hlight hf).trans ?_) ?_)
  · rw [hrail]
    rfl
  · rw [hrail]
    exact hlight

/-- The empty position leaves both active sets, without a marker. -/
theorem RackedAlone.law_emptied (hf : freeSteep s (railOf s.cfg h).val = []) :
    (rackActive (railOf s.cfg h) h mA s).fab = s.fab ∧
      (rackActive (railOf s.cfg h) h mA s).pwm.rails[railOf s.cfg h].actNext =
        putBit s.pwm.rails[railOf s.cfg h].actNext h.val false ∧
      (rackActive (railOf s.cfg h) h mA s).pwm.rails[railOf s.cfg h].act =
        putBit s.pwm.rails[railOf s.cfg h].act h.val false := by
  rw [H.law_empty hc hlight hf, setsLeft_rail, lawLost_rail]
  exact ⟨(fab_of_quiet setsLeft_quiet).trans positionLost_fab, rfl, rfl⟩

end Law

end Lost
end Sys2Proof.Machine
end

section
/-!
Stage faults and pitching (O36), fourth part: a pitching from its request to the end of its ramp.
-/

namespace Sys2Proof.Machine

/-! ## The request (R162, R163, R327) -/

section Request
variable {s : State} {q : Ring} {d : Desc} {h : Phase} {high : Bool}

/-- A phase is being pitched for a ring's descriptor. -/
def pitchBegun (q : Ring) (h : Phase) (s : State) : State :=
  ((act_ q s).upPwmRail (railOf s.cfg h) fun w => { w with
    admission := some { ring := q, phase := h, ramping := false } }).upPhase h fun p =>
      { p.level (rcNow s) .mid with state := .pitching, zCount := 0, zSum := 0, zFault := false }

/-- What PHASE_ADMIT makes of a phase. -/
def admitPhase (q : Ring) (high : Bool) (h : Phase) (s : State) : State :=
  if s.flt.classA || s.pwm.phases[h].state != .racked || s.eng.rails[railOf s.cfg h].mode == .heel ||
      s.eng.rails[railOf s.cfg h].mode == .track then complete q 0x0105 0 s
  else if s.pwm.rails[railOf s.cfg h].admission.isSome then complete q 0x0104 0 s
  else if high || !(s.eng.rails[railOf s.cfg h].mode == .digital || railOff s (railOf s.cfg h)) then
    complete q 0x0105 0 s
  else pitchBegun q h s

theorem exec_phaseAdmit_range (hd : ready s q 0x29 = some d) (hn : 48 ≤ d.pf 0 6) :
    exec (.phaseAdmit q high) s = .next (complete q 0x0102 0 s) := by
  show Host.Outcome.next (match ready s q 0x29 with | none => _ | some d => _) = _
  rw [hd]
  exact congrArg _ (dif_neg (Nat.not_lt.mpr hn))

theorem exec_phaseAdmit_phase (hd : ready s q 0x29 = some d) (hn : d.pf 0 6 = h.val) :
    exec (.phaseAdmit q high) s = .next (admitPhase q high h s) := by
  show Host.Outcome.next (match ready s q 0x29 with | none => _ | some d => _) = _
  rw [hd]
  have hlt : d.pf 0 6 < 48 := hn ▸ h.isLt
  obtain rfl : h = ⟨d.pf 0 6, hlt⟩ := Fin.ext hn.symm
  exact congrArg _ (dif_pos hlt)

theorem admitPhase_refused (hs : s.flt.classA = true ∨ s.pwm.phases[h].state ≠ .racked ∨
    s.eng.rails[railOf s.cfg h].mode = .heel ∨ s.eng.rails[railOf s.cfg h].mode = .track) :
    admitPhase q high h s = complete q 0x0105 0 s :=
  if_pos (by simpa [-Fin.getElem_fin, or_assoc] using hs)

/-- The rail of a racked phase, outside a class A condition, can take it. -/
structure Admits (s : State) (h : Phase) : Prop where
  calm : s.flt.classA = false
  racked : s.pwm.phases[h].state = .racked
  mode : s.eng.rails[railOf s.cfg h].mode = .digital ∨ s.eng.rails[railOf s.cfg h].mode = .off

theorem Admits.passes (H : Admits s h) : ¬ (s.flt.classA || s.pwm.phases[h].state != .racked ||
    s.eng.rails[railOf s.cfg h].mode == .heel || s.eng.rails[railOf s.cfg h].mode == .track) = true := by
  rw [H.calm, H.racked]
  rcases H.mode with hm | hm <;> rw [hm] <;> decide

theorem Admits.admitPhase_busy (H : Admits s h) (ha : s.pwm.rails[railOf s.cfg h].admission ≠ none) :
    admitPhase q high h s = complete q 0x0104 0 s :=
  (if_neg H.passes).trans (if_pos (Option.isSome_iff_ne_none.mpr ha))

theorem admitPhase_closed (ha : s.pwm.rails[railOf s.cfg h].admission = none)
    (hc : high = true ∨ (s.eng.rails[railOf s.cfg h].mode ≠ .digital ∧ railOff s (railOf s.cfg h) = false)) :
    admitPhase q high h s = complete q 0x0105 0 s := by
  unfold admitPhase
  split
  · rfl
  · rw [ha]
    exact (if_neg Bool.false_ne_true).trans (if_pos (by simpa [-Fin.getElem_fin] using hc))

theorem Admits.admitPhase_begins (H : Admits s h) (ha : s.pwm.rails[railOf s.cfg h].admission = none)
    (hr : s.eng.rails[railOf s.cfg h].mode = .digital ∨ railOff s (railOf s.cfg h) = true) (hh : high = false) :
    admitPhase q high h s = pitchBegun q h s := by
  refine (if_neg H.passes).trans ?_
  rw [ha, hh]
  exact (if_neg Bool.false_ne_true).trans (if_neg (by simpa [-Fin.getElem_fin, or_iff_not_imp_left] using hr))

theorem railOff_mode {r : Rail} (ho : railOff s r = true) : s.eng.rails[r].mode = .off :=
  beq_iff_eq.mp ((Bool.and_eq_true ..).mp ho).1

theorem pitchBegun_eq (q : Ring) (h : Phase) (s : State) :
    pitchBegun q h s = { act_ q s with pwm := { s.pwm with
      phases := vmod s.pwm.phases h fun p => { p with
        state := .pitching, drive := .mid, pulse := none, zCount := 0, zSum := 0, zFault := false
        past := (pitchBegun q h s).pwm.phases[h].past }
      rails := vmod s.pwm.rails (railOf s.cfg h) fun w =>
        { w with admission := some { ring := q, phase := h, ramping := false } } } } := by
  have hpast : (pitchBegun q h s).pwm.phases[h].past = (s.pwm.phases[h].retire (rcNow s)).past := by
    rw [pitchBegun, upPhase_same]
    rfl
  rw [hpast]
  refine (upPhase_congr (g := fun p => { p with
    state := .pitching, drive := .mid, pulse := none, zCount := 0, zSum := 0, zFault := false
    past := (s.pwm.phases[h].retire (rcNow s)).past }) rfl).trans rfl

end Request

/-! ## The offset (R162) -/

section Offset
variable {s : State} {h : Phase} {a : Admission}

theorem exec_phaseAdmitOffsetDone (hp : s.pwm.phases[h].state = .pitching) (hz : 256 ≤ s.pwm.phases[h].zCount) :
    exec (.phaseAdmitOffsetDone h) s = .next
      (if s.pwm.phases[h].zFault || decide ((s.cfg.pzmax : Int) < (offsetMean s.pwm.phases[h]).natAbs) then
        offsetBad (railOf s.cfg h) h s else offsetGood (railOf s.cfg h) h (offsetMean s.pwm.phases[h]) s) := by
  show Host.Outcome.next _ = _
  rw [if_neg (by rw [hp, decide_eq_false (Nat.not_lt.mpr hz)]; decide)]

/-- The offset lies within PZMAX, and no stage fault was seen. -/
def offsetFits (s : State) (h : Phase) : Prop :=
  s.pwm.phases[h].zFault = false ∧ ((offsetMean s.pwm.phases[h]).natAbs : Int) ≤ (s.cfg.pzmax : Int)

theorem offsetFits_iff : offsetFits s h ↔
    ¬ (s.pwm.phases[h].zFault || decide ((s.cfg.pzmax : Int) < (offsetMean s.pwm.phases[h]).natAbs)) = true := by
  simp [-Fin.getElem_fin, offsetFits]

theorem exec_phaseAdmitOffsetDone_bad (hp : s.pwm.phases[h].state = .pitching) (hz : 256 ≤ s.pwm.phases[h].zCount)
    (hg : ¬ offsetFits s h) : exec (.phaseAdmitOffsetDone h) s = .next (offsetBad (railOf s.cfg h) h s) := by
  rw [exec_phaseAdmitOffsetDone hp hz, if_pos (not_not.mp (offsetFits_iff.not.mp hg))]

theorem exec_phaseAdmitOffsetDone_good (hp : s.pwm.phases[h].state = .pitching) (hz : 256 ≤ s.pwm.phases[h].zCount)
    (hg : offsetFits s h) : exec (.phaseAdmitOffsetDone h) s =
      .next (offsetGood (railOf s.cfg h) h (offsetMean s.pwm.phases[h]) s) := by
  rw [exec_phaseAdmitOffsetDone hp hz, if_neg (offsetFits_iff.mp hg)]

/-- A phase with its offset. -/
def offsetTaken (h : Phase) (s : State) : State :=
  s.upPhase h fun p => { p with
    state := if s.cfg.role h.val = 2 then .steep else .idle, zofs := toBits 16 (offsetMean s.pwm.phases[h]) }

theorem offsetGood_eq (hpersist : s.cfg.rkpersist = false) :
    offsetGood (railOf s.cfg h) h (offsetMean s.pwm.phases[h]) s =
      if s.cfg.role h.val = 2 || s.eng.rails[railOf s.cfg h].mode != .digital then
        admitDone (railOf s.cfg h) h (freeSub h (offsetTaken h s))
      else match admittedSet (offsetTaken h s) (railOf s.cfg h) h with
        | some act => beginRamp (railOf s.cfg h) h act (offsetTaken h s)
        | none => admitDone (railOf s.cfg h) h (freeSub h (offsetTaken h s)) := by
  have hsave : saveHealth (offsetTaken h s) = offsetTaken h s :=
    if_neg (by rw [show (offsetTaken h s).cfg = s.cfg from rfl, hpersist]; decide)
  unfold offsetGood
  dsimp only
  rw [show saveHealth (s.upPhase h fun p => { p with
    state := if s.cfg.role h.val = 2 then .steep else .idle, zofs := toBits 16 (offsetMean s.pwm.phases[h]) }) =
      offsetTaken h s from hsave]
  rfl

theorem admitDone_eq {r : Rail} (ha : s.pwm.rails[r].admission = some a) :
    admitDone r h s = complete a.ring 0 s.pwm.phases[h].zofs.toNat
      (s.upPwmRail r fun w => { w with admission := none }) := by
  unfold admitDone
  rw [ha]

theorem offsetTaken_substituteOf (h k : Phase) (s : State) : substituteOf (offsetTaken h s) k = substituteOf s k :=
  substituteOf_upPhase Iff.rfl

/-- A phase's substitute is free again, and no other phase changes. -/
theorem freeSub_get (h n : Phase) (s : State) : (freeSub h s).pwm.phases[n] =
    if substituteOf s h = some n then { s.pwm.phases[n] with subfor := none, weight := 64, wStep := 0 }
    else s.pwm.phases[n] := by
  unfold freeSub
  split
  · next k hk =>
    rw [upPhase_get, hk]
    simp only [Option.some.injEq, eq_comm]
  · next hk => rw [hk]; rfl

theorem freeSub_frame (h : Phase) (s : State) :
    freeSub h s = { s with pwm := { s.pwm with phases := (freeSub h s).pwm.phases } } := by
  unfold freeSub
  split <;> rfl

theorem freeSub_zofs (h k : Phase) (s : State) : (freeSub h s).pwm.phases[k].zofs = s.pwm.phases[k].zofs := by
  rw [freeSub_get]
  split <;> rfl

/-- A phase that has its offset and is back in its role, and its substitute free again. -/
def offsetReturned (h : Phase) (s : State) : State :=
  (freeSub h (offsetTaken h s)).upPwmRail (railOf s.cfg h) fun w => { w with admission := none }

theorem offsetReturned_frame (h : Phase) (s : State) : offsetReturned h s = { s with pwm := { s.pwm with
    phases := (offsetReturned h s).pwm.phases
    rails := vmod s.pwm.rails (railOf s.cfg h) fun w => { w with admission := none } } } := by
  unfold offsetReturned
  rw [freeSub_frame]
  rfl

theorem offsetReturned_get (h n : Phase) (s : State) : (offsetReturned h s).pwm.phases[n] =
    if n = h then { s.pwm.phases[h] with
      state := if s.cfg.role h.val = 2 then .steep else .idle, zofs := toBits 16 (offsetMean s.pwm.phases[h])
      subfor := (offsetReturned h s).pwm.phases[h].subfor, weight := (offsetReturned h s).pwm.phases[h].weight
      wStep := (offsetReturned h s).pwm.phases[h].wStep }
    else if substituteOf s h = some n then { s.pwm.phases[n] with subfor := none, weight := 64, wStep := 0 }
    else s.pwm.phases[n] := by
  have hget (k : Phase) : (offsetReturned h s).pwm.phases[k] =
      if substituteOf s h = some k then
        { (offsetTaken h s).pwm.phases[k] with subfor := none, weight := 64, wStep := 0 }
      else (offsetTaken h s).pwm.phases[k] := by
    rw [offsetReturned, upPwmRail_phases, freeSub_get, offsetTaken_substituteOf]
  by_cases hn : n = h
  · subst hn
    rw [if_pos rfl, hget, offsetTaken, upPhase_same]
    split <;> rfl
  · rw [if_neg hn, hget, offsetTaken, upPhase_get, if_neg hn]

/-- A phase whose role asks for no ramp, or whose rail is off, returns to its role at once (R162). -/
theorem offsetGood_returns (ha : s.pwm.rails[railOf s.cfg h].admission = some a) (hpersist : s.cfg.rkpersist = false)
    (hrole : s.cfg.role h.val = 2 ∨ s.eng.rails[railOf s.cfg h].mode ≠ .digital) :
    offsetGood (railOf s.cfg h) h (offsetMean s.pwm.phases[h]) s =
      complete a.ring 0 (toBits 16 (offsetMean s.pwm.phases[h])).toNat (offsetReturned h s) := by
  rw [offsetGood_eq hpersist, if_pos (by simpa [-Fin.getElem_fin] using hrole)]
  have hadm : (freeSub h (offsetTaken h s)).pwm.rails[railOf s.cfg h].admission = some a := by
    rw [freeSub_frame]
    exact ha
  rw [admitDone_eq hadm, freeSub_zofs, offsetTaken, upPhase_same]
  rfl

end Offset

/-! ## The ramp (R162) -/

section Ramp
variable {s : State} {h n : Phase} {a : Admission}

/-- The phase and its substitute as a ramp begins, with the active set on its way. -/
def rampBegun (h n : Phase) (s : State) : State :=
  (((s.upPhase h fun p => { p with state := .steep, weight := 0, wStep := 1, ramp := true }).upPhase n fun p =>
    { p with weight := 64, wStep := -1 }).upPwmRail (railOf s.cfg h) fun w =>
      { w with admission := w.admission.map fun a => { a with ramping := true } })

theorem beginRamp_eq (hn : substituteOf s h = some n) (act : BitVec 48) :
    beginRamp (railOf s.cfg h) h act s = sendActive (railOf s.cfg h) act (rampBegun h n s) := by
  unfold beginRamp
  dsimp only
  rw [show substituteOf (s.upPhase h _) h = some n from (substituteOf_upPhase Iff.rfl).trans hn]
  rfl

/-- A phase on a regulating rail ramps in beside its active substitute (R148, R162). -/
theorem offsetGood_ramps (hpersist : s.cfg.rkpersist = false) (hrole : s.cfg.role h.val ≠ 2)
    (hmode : s.eng.rails[railOf s.cfg h].mode = .digital) (hn : substituteOf s h = some n)
    (hbit : hasBit s.pwm.rails[railOf s.cfg h].actNext n.val = true) :
    offsetGood (railOf s.cfg h) h (offsetMean s.pwm.phases[h]) s =
      sendActive (railOf s.cfg h) (putBit s.pwm.rails[railOf s.cfg h].actNext h.val true)
        (rampBegun h n (offsetTaken h s)) := by
  have hset : admittedSet (offsetTaken h s) (railOf s.cfg h) h =
      some (putBit s.pwm.rails[railOf s.cfg h].actNext h.val true) := by
    unfold admittedSet
    rw [offsetTaken_substituteOf, hn]
    exact if_pos hbit
  rw [offsetGood_eq hpersist, if_neg (by simp [-Fin.getElem_fin, hrole, hmode]), hset]
  exact beginRamp_eq ((offsetTaken_substituteOf ..).trans hn) _

/-- A phase that has its offset begins its ramp, with the active set on its way. -/
theorem rampBegun_frame (ha : s.pwm.rails[railOf s.cfg h].admission = some a) (act : BitVec 48) :
    ((rampBegun h n (offsetTaken h s)).upPwmRail (railOf s.cfg h) fun w => { w with actNext := act }) = { s with
      pwm := { s.pwm with
        phases := vmod (vmod s.pwm.phases h fun p => { p with
            state := .steep, zofs := toBits 16 (offsetMean s.pwm.phases[h]), weight := 0, wStep := 1, ramp := true })
          n fun p => { p with weight := 64, wStep := -1 }
        rails := vmod s.pwm.rails (railOf s.cfg h) fun w => { w with
          actNext := act, admission := some { a with ramping := true } } } } := by
  have hrails : vmod (vmod s.pwm.rails (railOf s.cfg h) fun w => { w with
        admission := w.admission.map fun a => { a with ramping := true } }) (railOf s.cfg h)
        (fun w => { w with actNext := act }) =
      vmod s.pwm.rails (railOf s.cfg h) fun w =>
        { w with actNext := act, admission := some { a with ramping := true } } := by
    rw [vmod_vmod]
    refine vmod_congr ?_
    rw [ha]
    rfl
  have hphases : vmod (vmod s.pwm.phases h fun p => { p with
        state := if s.cfg.role h.val = 2 then .steep else .idle, zofs := toBits 16 (offsetMean s.pwm.phases[h]) }) h
        (fun p => { p with state := .steep, weight := 0, wStep := 1, ramp := true }) =
      vmod s.pwm.phases h fun p => { p with
        state := .steep, zofs := toBits 16 (offsetMean s.pwm.phases[h]), weight := 0, wStep := 1, ramp := true } :=
    vmod_vmod ..
  rw [← hrails, ← hphases, rampBegun, offsetTaken]
  simp only [State.upPwmRail, State.upPhase, State.upPwm]
  rfl

theorem rampBegun_light :
    (rampBegun h n s).pwm.rails[railOf s.cfg h].lightNext = s.pwm.rails[railOf s.cfg h].lightNext := by
  rw [rampBegun, upPwmRail_same]
  rfl

theorem rampBegun_joined (act : BitVec 48) :
    Joined [activeMarker (railOf s.cfg h) act s.pwm.rails[railOf s.cfg h].lightNext]
      ((rampBegun h n (offsetTaken h s)).upPwmRail (railOf s.cfg h) fun w => { w with actNext := act })
      (sendActive (railOf s.cfg h) act (rampBegun h n (offsetTaken h s))) := by
  have hlight : (rampBegun h n (offsetTaken h s)).pwm.rails[railOf s.cfg h].lightNext =
      s.pwm.rails[railOf s.cfg h].lightNext :=
    rampBegun_light (s := offsetTaken h s)
  rw [← hlight]
  exact sendActive_joined ..

/-- A phase at full share, with its ramp behind it. -/
def rampOver (h : Phase) (s : State) : State :=
  s.upPhase h fun p => { p with
    state := if p.state == .steep then .idle else p.state, ramp := false, weight := 64, wStep := 0 }

theorem rampOver_eq (h : Phase) (s : State) : rampOver h s = s.upPhase h fun p => { p with
    state := if s.pwm.phases[h].state = .steep then .idle else s.pwm.phases[h].state
    ramp := false, weight := 64, wStep := 0 } := by
  refine upPhase_congr ?_
  simp only [beq_iff_eq]

theorem rampOver_zofs (h : Phase) (s : State) : (rampOver h s).pwm.phases[h].zofs = s.pwm.phases[h].zofs := by
  rw [rampOver, upPhase_same]

theorem rampOver_substituteOf (h : Phase) (s : State) : substituteOf (rampOver h s) h = substituteOf s h :=
  substituteOf_upPhase Iff.rfl

/-- The sets behind the end of a ramp: the substitute leaves at the next marker. -/
def twinLeaves (h : Phase) (s : State) : State :=
  match substituteOf s h with
  | some n => sendActive (railOf s.cfg h) (putBit s.pwm.rails[railOf s.cfg h].actNext n.val false) s
  | none => s

theorem rampRuns_over (hact : s.pwm.phases[h].state = .active → 64 ≤ s.pwm.phases[h].periods)
    (hoff : s.pwm.phases[h].state ≠ .active → hasBit s.pwm.rails[railOf s.cfg h].act h.val = false ∧
      hasBit s.pwm.rails[railOf s.cfg h].actNext h.val = false) : rampRuns s (railOf s.cfg h) h = false := by
  unfold rampRuns
  dsimp only
  split
  · next hs => exact decide_eq_false (Nat.not_lt.mpr (hact (beq_iff_eq.mp hs)))
  · next hs =>
    obtain ⟨hnow, hnext⟩ := hoff fun hs' => hs (beq_iff_eq.mpr hs')
    rw [hnow, hnext]
    rfl

theorem exec_phaseAdmitRampEnd (ha : s.pwm.rails[railOf s.cfg h].admission = some a) (hh : a.phase = h)
    (hr : a.ramping = true) (hx : s.pwm.phases[h].ramp = true) (hruns : rampRuns s (railOf s.cfg h) h = false) :
    exec (.phaseAdmitRampEnd h) s = .next (admitDone (railOf s.cfg h) h (twinLeaves h (rampOver h s))) := by
  show Host.Outcome.next _ = _
  rw [if_neg (by rw [ha, hruns, hx]; simp [hr, hh])]
  rfl

theorem twinLeaves_none (hn : substituteOf s h = none) : twinLeaves h (rampOver h s) = rampOver h s := by
  rw [twinLeaves, rampOver_substituteOf, hn]

theorem twinLeaves_some (hn : substituteOf s h = some n) : twinLeaves h (rampOver h s) =
    sendActive (railOf s.cfg h) (putBit s.pwm.rails[railOf s.cfg h].actNext n.val false) (rampOver h s) := by
  rw [twinLeaves, rampOver_substituteOf, hn]
  rfl

/-- The end of a ramp, by what its substitute has become. -/
theorem rampDone_eq {w : State} (ha : s.pwm.rails[railOf s.cfg h].admission = some a)
    (hw : w = rampOver h s ∨ ∃ act, w = sendActive (railOf s.cfg h) act (rampOver h s)) :
    admitDone (railOf s.cfg h) h w = complete a.ring 0 s.pwm.phases[h].zofs.toNat
      (w.upPwmRail (railOf s.cfg h) fun w => { w with admission := none }) := by
  rcases hw with rfl | ⟨act, rfl⟩
  · rw [admitDone_eq (s := rampOver h s) ha, rampOver_zofs]
  · rw [admitDone_eq (a := a) (by rw [sendActive_rail]; exact ha), sendActive_pwm, upPwmRail_phases, rampOver_zofs]


end Ramp
end Sys2Proof.Machine
end

section
/-!
Stage faults and pitching (O36), fifth part: a stage fault, and the obligation.
-/

namespace Sys2Proof.Machine

/-! ## A stage fault (R138, R158, R162) -/

section StageFault
variable {s : State} {h : Phase}

theorem exec_stageFault_off (hen : s.cfg.stfen h.val = false) : exec (.stageFault h) s = .next s := by
  show Host.Outcome.next _ = _
  rw [if_pos (by simp [hen])]

variable (hdom : domOn s pdPwm = true) (hrole : s.cfg.role h.val ≠ 0) (hen : s.cfg.stfen h.val = true)
include hdom hrole hen

theorem exec_stageFault_pitching (hp : s.pwm.phases[h].state = .pitching) :
    exec (.stageFault h) s = .next (s.upPhase h fun p => { p with zFault := true }) := by
  show Host.Outcome.next _ = _
  rw [if_neg (by simp [hdom, hrole, hen]), hp]
  rfl

theorem exec_stageFault_racks (hp : s.pwm.phases[h].state ≠ .pitching) :
    exec (.stageFault h) s = .next (rackPhase h 3 s) := by
  show Host.Outcome.next _ = _
  rw [if_neg (by simp [hdom, hrole, hen]), if_neg (by simpa [-Fin.getElem_fin] using hp)]

end StageFault

/-! ## The racking of a phase that holds no active position (R159, R163) -/

section Waiting
variable {s : State} {h : Phase} {cause : Nat}

/-- The substitute beside a racked phase is at full share again. -/
def twinRestored (h : Phase) (y : State) : State :=
  match substituteOf y h with
  | some n => setWeight n 64 y
  | none => y

theorem twinRestored_none {y : State} (hn : substituteOf y h = none) : twinRestored h y = y := by
  rw [twinRestored, hn]

theorem twinRestored_some {y : State} {n : Phase} (hn : substituteOf y h = some n) :
    twinRestored h y = y.upPhase n fun p => { p with weight := 64, wStep := 0 } := by
  rw [twinRestored, hn]
  rfl

theorem twinRestored_quiet (h : Phase) (y : State) : quiet (twinRestored h y) = quiet y := by
  unfold twinRestored
  split
  · exact setWeight_quiet ..
  · rfl

/-- A racked phase out of the set on its way and of a pitching. -/
def waitingLeft (r : Rail) (h : Phase) (y : State) : State :=
  endAdmit r h 0x0113 ((twinRestored h y).upPwmRail r fun w => { w with actNext := putBit w.actNext h.val false })

/-- A racked phase that stands in for nobody. -/
def standsDown (h : Phase) (v : State) : State := v.upPhase h fun p => { p with subfor := none }

theorem waitingLeft_cfg : (waitingLeft (railOf s.cfg h) h
    (standsDown h (rackNoted h cause (rackedEarly h cause s)))).cfg = s.cfg := by
  refine cfg_of_quiet ?_
  rw [waitingLeft, endAdmit_quiet, State.upPwmRail_quiet, twinRestored_quiet, standsDown, State.upPhase_quiet,
    rackNoted_quiet, rackedEarly, State.upFb_quiet, State.upPhase_quiet]

/-- Where the held positions stand and i_lost does, nothing more follows. -/
theorem rackPhase_waiting (hw : s.pwm.phases[h].state = .idle ∨ s.pwm.phases[h].state = .steep) :
    let w := waitingLeft (railOf s.cfg h) h (standsDown h (rackNoted h cause (rackedEarly h cause s)))
    (held s (railOf s.cfg h).val).length ≤ (held w (railOf s.cfg h).val).length ∨
      s.cfg.nfloor (railOf s.cfg h).val ≤ (held w (railOf s.cfg h).val).length →
    w.eng.rails[railOf s.cfg h].iLost = s.eng.rails[railOf s.cfg h].iLost → rackPhase h cause s = w := by
  intro w hheld hl
  have hrack : rack h cause s = w := by
    refine (rack_waiting hw).trans (floorCheck_stays ?_)
    rcases hheld with hn | hn
    · exact .inl hn
    · exact .inr (.inl (le_of_eq_of_le (congrArg (fun g : Setup => g.nfloor (railOf s.cfg h).val) waitingLeft_cfg) hn))
  exact (rackPhase_same (by rw [hrack]; exact hl)).trans hrack

end Waiting

/-- Settles O36: a stage fault by the state of its phase, a racking by the half of the period and by the free steep
phases, and a pitching by its checks in their order, its offset and its ramp. -/
theorem stageFaultsAndPitching : Obligations.StageFaultsAndPitching := by
  unfold Obligations.StageFaultsAndPitching
  refine ⟨fun s h hdom hrole => ⟨exec_stageFault_off, fun hen => exec_stageFault_pitching hdom hrole hen,
      fun hen hr => ?_, fun hen hw => ?_, fun hen ha => exec_stageFault_racks hdom hrole hen (by rw [ha]; decide)⟩,
    fun s h => ⟨fun cause ha => ?_, fun mA hr hsub halone hrole hplace horder hdec hfirst hapart => ?_,
      fun r before => ⟨fun hn hf hb => ⟨_, raise_raised _ _ _ _ (by omega), floorCheck_falls hn hf hb⟩,
        floorCheck_stays⟩⟩,
    fun s q d high hd => ?_, fun s h a ha hh => ⟨fun hp hz => ?_, fun hr hx hact hoff => ?_⟩⟩
  · rw [exec_stageFault_racks hdom hrole hen (by rw [hr]; decide), rackPhase_same (by rw [rack_racked hr]),
      rack_racked hr]
  · have hp : s.pwm.phases[h].state ≠ .pitching := by rcases hw with hw | hw <;> rw [hw] <;> decide
    exact ⟨rackedEarly h 3 s, _, rackPhase h 3 s, exec_stageFault_racks hdom hrole hen hp, rackedEarly_frame ..,
      rackNoted_raised h 3 _, rfl, standsDown h (rackNoted h 3 (rackedEarly h 3 s)), twinRestored h _,
      waitingLeft (railOf s.cfg h) h _, rfl, twinRestored_none, fun n => twinRestored_some, rfl, rackPhase_waiting hw⟩
  · have hrack := rack_active (cause := cause.val) ha
    refine ⟨rackedOut h cause.val s, _, fun he => ?_, fun he => ?_, fun he hp => ?_, rackNoted_raised .., rfl, hrack,
      fun hl => ?_, fun hl => ?_⟩
    · rw [rackedOut_early he]
      exact rackedEarly_frame ..
    · rw [rackedOut_late he]
      exact rackedLate_frame ..
    · rw [rackedOut_late he]
      exact rackedLate_pulse _ hp
    · exact (rackPhase_same (by rw [hrack]; exact hl)).trans hrack
    · exact (rackPhase_other (by rw [hrack]; exact hl)).trans (congrArg _ hrack)
  · have H : RackedAlone s h := ⟨hr, hsub, halone, hrole, hplace, horder, hfirst, hapart⟩
    intro t carried part next
    have hpart (wait : Option Nat) : part wait = lossPart s h mA wait := lossPart_carried mA wait
    have hlaw (hc : ¬ carried) : inHeel s (railOf s.cfg h) = false := Bool.eq_false_iff.mpr (hc ∘ inHeel_iff.mp)
    simp only [hpart]
    refine ⟨fun hc => (H.law_iLost (hlaw hc)).trans (positionLost_lossSum (hlaw hc) hdec),
      fun hc => H.heel_waits (inHeel_iff.mpr hc), fun hl hc => H.law_light (hlaw hc) hl,
      fun n ns hf hbit => ⟨(H.loss_cons hf).1, (H.loss_cons hf).2,
        fun hl hc => ⟨_, H.law_joins (hlaw hc) hl hf hbit, ?_⟩, fun hl hc => ?_⟩,
      fun hf => ⟨(H.loss_nil hf).1, (H.loss_nil hf).2, fun hl hc => H.law_emptied (hlaw hc) hl hf⟩⟩
    · exact (lawLost_joins hf _).trans (by rw [← H.law_iLost (hlaw hc)])
    · have hjoins := H.heel_joins (mA := mA) (inHeel_iff.mpr hc)
      rw [H.setBehind_cons hl hf] at hjoins
      exact ⟨congrArg PwmRail.act hjoins, congrArg PwmRail.actNext hjoins⟩
  · obtain ⟨e, he, -⟩ := ready_some hd
    by_cases hn : 48 ≤ d.pf 0 6
    · exact ⟨_, exec_phaseAdmit_range hd hn, fun _ => complete_ends _ _ he, fun h hh => absurd h.isLt (by omega)⟩
    · refine ⟨admitPhase q high ⟨d.pf 0 6, by omega⟩ s, exec_phaseAdmit_phase hd rfl, fun hlow => absurd hlow hn,
        fun h hh => ?_⟩
      rw [show (⟨d.pf 0 6, by omega⟩ : Phase) = h from Fin.ext hh]
      refine ⟨fun hs => ?_, fun hc hr hm ha => ?_, fun hr ha hc => ?_, fun hc hr hm ha hhigh => ?_⟩
      · rw [admitPhase_refused hs]
        exact complete_ends _ _ he
      · rw [Admits.admitPhase_busy ⟨hc, hr, hm⟩ ha]
        exact complete_ends _ _ he
      · rw [admitPhase_closed ha hc]
        exact complete_ends _ _ he
      · rw [Admits.admitPhase_begins ⟨hc, hr, hm.imp_right railOff_mode⟩ ha hm hhigh]
        exact ⟨_, act_waits he, pitchBegun_eq ..⟩
  · subst hh
    refine ⟨fun hg => ?_, fun hg hpersist hrole => ?_, fun hg hpersist hrole hmode n hn _ hbit => ?_⟩
    · exact ⟨_, _, exec_phaseAdmitOffsetDone_bad hp hz hg, raise_raised _ _ _ _ (by omega), rfl⟩
    · exact ⟨offsetReturned a.phase s, _, exec_phaseAdmitOffsetDone_good hp hz hg, fun n => offsetReturned_get ..,
        offsetReturned_frame .., offsetGood_returns ha hpersist hrole⟩
    · exact ⟨_, _, (exec_phaseAdmitOffsetDone_good hp hz hg).trans
        (congrArg _ (offsetGood_ramps hpersist hrole hmode hn hbit)), rampBegun_joined _, rampBegun_frame ha _⟩
  · have hexec := exec_phaseAdmitRampEnd ha hh hr hx (rampRuns_over hact hoff)
    intro v done
    have hv : v = rampOver h s := (rampOver_eq h s).symm
    refine ⟨fun hn => ?_, fun n hn => ⟨twinLeaves h (rampOver h s), ?_, ?_⟩⟩
    · rw [hexec, twinLeaves_none hn, hv]
      exact congrArg _ (rampDone_eq ha (.inl rfl))
    · rw [hexec]
      exact congrArg _ (rampDone_eq ha (.inr ⟨_, twinLeaves_some hn⟩))
    · rw [hv, twinLeaves_some hn]
      exact sendActive_joined ..

end Sys2Proof.Machine
end

section
/-!
How a Pourn port takes a frame (O39): where a frame stands in the sequence of its port, the rejections, and the
commands that bring a frame.
-/

namespace Sys2Proof.Machine

/-! ## A port that takes frames (R182) -/

section Frame
variable {s : State} {p : Port} {f : BitVec 64}

theorem portOpen_true (hon : domOn s pdPrn = true) (hst : s.prn.ports[p].state ≠ .disabled) : portOpen s p = true := by
  rw [portOpen, hon, Bool.true_and, bne_iff_ne]
  exact hst

theorem portOpen_false (h : domOn s pdPrn = false ∨ s.prn.ports[p].state = .disabled) : portOpen s p = false := by
  rcases h with hoff | hst
  · rw [portOpen, hoff, Bool.false_and]
  · rw [portOpen, hst]
    exact Bool.and_false _

/-! ## The sequence of frames (R182 to R184) -/

theorem sequenced_offLive (h : s.prn.ports[p].state ≠ .live) (act : State → State × Answer) :
    sequenced p f act s = reject p f 0x0115 s :=
  if_pos (bne_iff_ne.mpr h)

theorem sequenced_replay (hlive : s.prn.ports[p].state = .live) {l : LastFrame} (hl : s.prn.ports[p].last = some l)
    (hseq : l.seq.toNat = frmSeq f) (hcontent : l.content = frmBody f) (act : State → State × Answer) :
    sequenced p f act s = respond p (frmRail f) (frmSeq f) l.status.toNat l.grant.toNat s := by
  unfold sequenced
  dsimp only
  rw [if_neg (by rw [hlive]; decide), hl]
  dsimp only
  rw [if_pos (by rw [decide_eq_true hseq, decide_eq_true hcontent]; rfl)]

/-- A frame that is no replay acts where its SEQ is the expected one, and is rejected otherwise. -/
theorem sequenced_fresh (hlive : s.prn.ports[p].state = .live)
    (hfresh : ∀ l, s.prn.ports[p].last = some l → l.seq.toNat ≠ frmSeq f ∨ l.content ≠ frmBody f)
    (act : State → State × Answer) : sequenced p f act s =
      if s.prn.ports[p].eseq.toNat = frmSeq f then consume p f (act s).2 (act s).1 else reject p f 0x0115 s := by
  unfold sequenced
  dsimp only
  rw [if_neg (by rw [hlive]; decide)]
  cases hl : s.prn.ports[p].last with
  | none => rfl
  | some l =>
    refine if_neg ?_
    rw [Bool.and_eq_true, decide_eq_true_eq, decide_eq_true_eq, not_and_or]
    exact hfresh l hl

/-! ## Rejections (R175, R179) -/

/-- A frame that is turned away: its event where it has PRI 1, then its answer. -/
def TurnedAway (p : Port) (f : BitVec 64) (code : Nat) (a t : State) : Prop :=
  ∃ b, (frmPri f = false → b = a) ∧ (frmPri f = true → RaisedOnce (0x70 + p.val) 4 p.val a b) ∧
    Answered p f (code - 0x100) 0 b t

theorem reject_turnedAway {code : Nat} (hcode : code ≠ 0) (a : State) : TurnedAway p f code a (reject p f code a) := by
  rw [reject, statusOf, if_neg hcode]
  refine ⟨_, fun hpri => ?_, fun hpri => ?_, respond_answered ..⟩
  · exact if_neg (by rw [hpri]; decide)
  · rw [if_pos hpri]
    exact raiseLimited_raised _ _ _ _ _ _ _ (by omega)

/-- A frame that is consumed and turned away with an error code (R183). -/
theorem consume_turnedAway {code : Nat} (hcode : ¬ (code = 0 ∨ code = 0x010F)) :
    TurnedAway p f code (Consumed p f (code - 0x100) 0 s) (consume p f ⟨code, 0⟩ s) := by
  rw [consume_rejected p f 0 s hcode]
  exact reject_turnedAway (fun h => hcode (.inl h)) _

/-- Checks 3 and 4 of R186 answer 0x0101 or 0x0102. -/
theorem formCheck_code {c : Nat} (h : formCheck f = some c) : c = 0x0101 ∨ c = 0x0102 := by
  revert h
  unfold formCheck
  dsimp only
  split
  · exact fun h => .inl (Option.some.inj h).symm
  split
  · exact fun h => .inr (Option.some.inj h).symm
  · exact fun h => by cases h

/-! ## The commands that bring a frame (R176) -/

/-- The command of a frame's type, a HEARTBEAT's with SYNC 0, takes the frame to state t. -/
def Takes (p : Port) (f : BitVec 64) (s t : State) : Prop :=
  (frmType f = 1 → exec (.setpoint p f) s = .next t) ∧ (frmType f = 2 → exec (.forecast p f) s = .next t) ∧
    (frmType f = 3 → exec (.state p f) s = .next t) ∧ (frmType f = 4 → exec (.query p f) s = .next t) ∧
    (frmType f = 5 → frmSync f = false → exec (.heartbeat p f) s = .next t)

theorem receive_closed (h : portOpen s p = false) (type : Nat) (owned : Bool) (act : State → State × Answer) :
    receive type owned p f act s = s :=
  if_pos (by rw [h]; rfl)

theorem takes_closed (h : portOpen s p = false) : Takes p f s s :=
  ⟨fun _ => congrArg _ (receive_closed h ..), fun _ => congrArg _ (receive_closed h ..),
    fun _ => congrArg _ (receive_closed h ..), fun _ => congrArg _ (receive_closed h ..),
    fun _ _ => congrArg _ (if_pos (by rw [h]; rfl))⟩

/-- A frame with a good CRC, of the type that its command brings, passes to the sequence of its port. -/
theorem frame_passes (hopen : portOpen s p = true) (hgood : frmGood f = true) {type : Nat} (htype : frmType f = type) :
    ¬ (!portOpen s p || !frmGood f || frmType f != type) = true := by
  rw [hopen, hgood, htype, bne_self_eq_false]
  decide

/-- A HEARTBEAT without SYNC goes through the sequence of its port (R182). -/
theorem exec_heartbeat_plain (hopen : portOpen s p = true) (hgood : frmGood f = true) (htype : frmType f = 5)
    (hsync : frmSync f = false) : exec (.heartbeat p f) s = .next
      (sequenced p f (fun s => (s, ⟨(formCheck f).getD 0, 0⟩)) s) :=
  congrArg _ ((if_neg (frame_passes hopen hgood htype)).trans (if_neg (by rw [hsync]; exact Bool.false_ne_true)))

/-- Where the sequence decides, whatever the frame asks for, its answer is the command's. -/
theorem takes_sequenced (hopen : portOpen s p = true) (hgood : frmGood f = true) {t : State}
    (hseq : ∀ act, sequenced p f act s = t) : Takes p f s t := by
  have hreceive {type : Nat} (owned : Bool) (act : State → State × Answer) (htype : frmType f = type) :
      receive type owned p f act s = t :=
    (if_neg (frame_passes hopen hgood htype)).trans (hseq _)
  exact ⟨fun h => congrArg _ (hreceive _ _ h), fun h => congrArg _ (hreceive _ _ h),
    fun h => congrArg _ (hreceive _ _ h), fun h => congrArg _ (hreceive _ _ h),
    fun h hsync => (exec_heartbeat_plain hopen hgood h hsync).trans (congrArg _ (hseq _))⟩

/-- A frame whose turn it is and which checks 3 and 4 of R186 reject is consumed with their code. -/
theorem takes_malformed (hopen : portOpen s p = true) (hgood : frmGood f = true)
    (hseq : ∀ act, sequenced p f act s = consume p f (act s).2 (act s).1) {c : Nat} (hform : formCheck f = some c) :
    Takes p f s (consume p f ⟨c, 0⟩ s) := by
  have hreceive {type : Nat} (owned : Bool) (act : State → State × Answer) (htype : frmType f = type) :
      receive type owned p f act s = consume p f ⟨c, 0⟩ s := by
    unfold receive
    rw [if_neg (frame_passes hopen hgood htype), hseq, hform]
  refine ⟨fun h => congrArg _ (hreceive _ _ h), fun h => congrArg _ (hreceive _ _ h),
    fun h => congrArg _ (hreceive _ _ h), fun h => congrArg _ (hreceive _ _ h), fun h hsync => ?_⟩
  rw [exec_heartbeat_plain hopen hgood h hsync, hseq, hform]
  rfl

/-- The rail of a request is none of its port, or the request needs an owner and the port is not it (check 5 of
R186). -/
def NotItsRail (s : State) (p : Port) (f : BitVec 64) : Prop :=
  s.cfg.portRails p.val / 2 ^ (frmRail f).val % 2 = 0 ∨ (frmType f ≤ 2 ∧ owns s p (frmRail f) = false)

/-- The check of a request's rail fails. -/
theorem NotItsRail.barred (h : NotItsRail s p f) {owned : Bool} (howned : frmType f ≤ 2 → owned = true) :
    (!portHas s (frmRail f) p || owned && !owns s p (frmRail f)) = true := by
  rcases h with hrail | ⟨htype, howns⟩
  · have hhas : portHas s (frmRail f) p = false := by
      rw [portHas, Nat.testBit_eq_decide_div_mod_eq, hrail]
      rfl
    rw [hhas]
    rfl
  · rw [howned htype, howns]
    exact Bool.or_true _

/-- A frame whose turn it is, for a rail that its port may not ask for, is consumed with 0x0107. -/
theorem takes_barred (hopen : portOpen s p = true) (hgood : frmGood f = true)
    (hseq : ∀ act, sequenced p f act s = consume p f (act s).2 (act s).1) (hform : formCheck f = none)
    (htype : frmType f ≤ 4) (hbar : NotItsRail s p f) : Takes p f s (consume p f ⟨0x0107, 0⟩ s) := by
  have hreceive {type : Nat} {owned : Bool} (act : State → State × Answer) (hty : frmType f = type)
      (howned : type ≤ 2 → owned = true) : receive type owned p f act s = consume p f ⟨0x0107, 0⟩ s := by
    unfold receive
    rw [if_neg (frame_passes hopen hgood hty), hseq]
    simp only [hform, if_pos (hbar.barred fun hle => howned (hty ▸ hle))]
    rfl
  exact ⟨fun h => congrArg _ (hreceive _ h fun _ => rfl), fun h => congrArg _ (hreceive _ h fun _ => rfl),
    fun h => congrArg _ (hreceive _ h fun hle => absurd hle (by decide)),
    fun h => congrArg _ (hreceive _ h fun hle => absurd hle (by decide)), fun h _ => absurd htype (by omega)⟩

end Frame

/-! ## The settlement -/

/-- Settles O39: the sequence of the port decides, and where the frame's turn has come its checks do. -/
theorem frameSequence : Obligations.FrameSequence := by
  unfold Obligations.FrameSequence
  intro s p f q is run turnedAway
  refine ⟨fun hclosed => takes_closed (portOpen_false hclosed), fun hon hst hgood => ?_⟩
  have hopen : portOpen s p = true := portOpen_true hon hst
  refine ⟨fun hoff => ?_, fun hlive => ⟨fun l hl hseq hcontent => ?_, fun hfresh => ⟨fun hne => ?_, fun hnext => ?_⟩⟩⟩
  · exact ⟨_, takes_sequenced hopen hgood (sequenced_offLive hoff), reject_turnedAway (by decide) s⟩
  · exact ⟨_, takes_sequenced hopen hgood (sequenced_replay hlive hl hseq hcontent), respond_answered ..⟩
  · exact ⟨_, takes_sequenced hopen hgood fun act => (sequenced_fresh hlive hfresh act).trans (if_neg hne),
      reject_turnedAway (by decide) s⟩
  · have hturn (act : State → State × Answer) : sequenced p f act s = consume p f (act s).2 (act s).1 :=
      (sequenced_fresh hlive hfresh act).trans (if_pos hnext)
    refine ⟨fun c hform => ⟨_, takes_malformed hopen hgood hturn hform, consume_turnedAway ?_⟩,
      fun hform htype hbar =>
        ⟨_, takes_barred hopen hgood hturn hform htype hbar, consume_turnedAway (code := 0x0107) (by decide)⟩⟩
    rcases formCheck_code hform with rfl | rfl <;> decide

end Sys2Proof.Machine
end

section
/-!
What else reaches a Pourn port (O41), first part: frames whose CRC fails and stalls, a HEARTBEAT with SYNC, a port
reset, and the loss of a heartbeat.
-/

namespace Sys2Proof.Machine

/-! ## Failed frames and stalls (R173, R186) -/

section Port
variable {s : State} {p : Port} {f : BitVec 64}

theorem raisePort_raised (p : Port) (cause elem high : Nat) (s : State) :
    RaisedOnce (0x70 + p.val) cause p.val s (raisePort p cause elem high s) :=
  raiseLimited_raised _ _ _ _ _ _ _ (by omega)

/-- Port p has counted a frame whose CRC fails. -/
def frameMiscounted (p : Port) (s : State) : State :=
  s.upPort p fun q => { q with crcerr := if q.crcerr = 0xFF then 0xFF else q.crcerr + 1 }

theorem exec_frameCheckFailed_bad (hopen : portOpen s p = true) (hgood : frmGood f = false) :
    exec (.frameCheckFailed p f) s = .next
      (respond p (frmRail f) (frmSeq f) 0x16 0 (raisePort p 3 0 0 (frameMiscounted p s))) := by
  show execFrameCheckFailed p f s = _
  unfold execFrameCheckFailed frameMiscounted
  dsimp only
  rw [if_neg (by rw [hopen]; decide), if_pos (by rw [hgood]; rfl)]
  simp only [incSat_byte]
  rfl

/-- Port p has counted a stall, which abandons the response from clock 65 on. -/
def stallCounted (p : Port) (clock : Nat) (s : State) : State :=
  s.upPort p fun q => { q with
    stalls := if q.stalls = 0xFF then 0xFF else q.stalls + 1
    resp := if 65 ≤ clock then none else q.resp }

theorem exec_frameStall_counts {clock : Nat} (hopen : portOpen s p = true) (hlo : 1 ≤ clock) (hhi : clock ≤ 105) :
    exec (.frameStall p clock) s = .next (raisePort p 2 0 (min clock 255) (stallCounted p clock s)) := by
  have hin : ¬ (!portOpen s p || decide (clock = 0) || decide (105 < clock)) = true := by
    rw [hopen, decide_eq_false (by omega), decide_eq_false (by omega)]
    decide
  show execFrameStall p clock s = _
  unfold execFrameStall stallCounted
  rw [if_neg hin]
  simp only [incSat_byte]

/-! ## A HEARTBEAT with SYNC (R182, R185) -/

theorem alertPorts_one (cause : Nat) (h : s.prn.ports[p].state ≠ .disabled) : alertPorts (· == p) cause s =
    s.upPort p fun q => { q with alert := putBit q.alert cause true } := by
  have hport (n : Port) : (alertPorts (· == p) cause s).prn.ports[n] =
      (vmod s.prn.ports p fun q => { q with alert := putBit q.alert cause true })[n] := by
    rw [alertPorts_port]
    by_cases hp : p = n
    · subst hp
      rw [vmod_same]
      exact if_pos ⟨beq_self_eq_true _, h⟩
    · rw [vmod_other _ _ hp]
      exact if_neg fun hn => hp (beq_iff_eq.mp hn.1).symm
  have hports := Vector.ext fun i hi => hport ⟨i, hi⟩
  rw [alertPorts_eq] at hports ⊢
  exact congrArg (fun v => { s with prn := { s.prn with ports := v } }) hports

/-- Port p has come to LIVE, from LOST with the alert HBLOST. -/
def portJoined (p : Port) (s : State) : State :=
  s.upPort p fun q => { q with
    state := .live, alert := if q.state = .lost then putBit q.alert 5 true else q.alert }

theorem upPort_congr {g h : PrnPort → PrnPort} (hgh : g s.prn.ports[p] = h s.prn.ports[p]) :
    s.upPort p g = s.upPort p h := by
  simp only [State.upPort, State.upPrn, vmod_congr hgh]

theorem upPort_upPort (g h : PrnPort → PrnPort) : (s.upPort p g).upPort p h = s.upPort p fun q => h (g q) := by
  simp only [State.upPort, State.upPrn, vmod_vmod]

/-- A port that comes to LIVE is alerted where it was LOST (R185). -/
theorem portJoined_eq (p : Port) (s : State) : (if (s.prn.ports[p].state == .lost) = true then
      alertPorts (· == p) alHblost (s.upPort p fun q => { q with state := .live })
    else s.upPort p fun q => { q with state := .live }) = portJoined p s := by
  have hlive : (s.upPort p fun q => { q with state := .live }).prn.ports[p].state = .live :=
    congrArg PrnPort.state (vmod_same s.prn.ports p _)
  by_cases hlost : s.prn.ports[p].state = .lost
  · rw [if_pos (beq_iff_eq.mpr hlost), alertPorts_one _ (by rw [hlive]; decide), upPort_upPort]
    refine upPort_congr ?_
    dsimp only
    rw [if_pos hlost]
    rfl
  · rw [if_neg (hlost ∘ beq_iff_eq.mp)]
    refine upPort_congr ?_
    rw [if_neg hlost]

/-- A HEARTBEAT with SYNC of a port for which no SAFE action waits. -/
theorem synchronise_joins (hsafe : ∀ k : Rail, s.prn.rails[k].safe ≠ some p) :
    synchronise p f s = consume p f ⟨0, 0⟩ (portJoined p s) := by
  unfold synchronise
  dsimp only
  rw [portJoined_eq]
  exact congrArg (consume p f ⟨0, 0⟩) (each_fixed fun k => if_neg (hsafe k))

theorem exec_heartbeat_joins (hopen : portOpen s p = true) (hout : s.prn.ports[p].state ≠ .live)
    (hgood : frmGood f = true) (htype : frmType f = 5) (hsync : frmSync f = true) (hform : formCheck f = none) :
    exec (.heartbeat p f) s = .next (synchronise p f s) := by
  show execHeartbeat p f s = _
  unfold execHeartbeat
  dsimp only
  rw [if_neg (frame_passes (type := tyHeartbeat) hopen hgood htype), hsync, hform, beq_eq_false_iff_ne.mpr hout]
  rfl

/-! ## A port reset (R203, R26) -/

/-- A port reset has taken its request. -/
def portReset (p : Port) (s : State) : State :=
  { s.upPort p (fun q => { q with
      state := if q.state = .disabled then .disabled else .unsync, eseq := 0, last := none, resp := none }) with
    flt := { s.flt with brReq := s.flt.brReq.filter (· != resetKey (srcId 0x8 0 p.val 0 0)) }
    fab := (restampAt (· == .prn) s).fab }

theorem exec_prnPortReset_asked (h : resetKey (srcId 0x8 0 p.val 0 0) ∈ s.flt.brReq) :
    exec (.prnPortReset p) s = .next (portReset p s) := by
  show execPrnPortReset p s = _
  unfold execPrnPortReset portReset
  dsimp only
  rw [if_neg (by rw [resetAsked, List.contains_iff_mem.mpr h]; decide)]
  simp only [beq_iff_eq]
  rfl

theorem exec_prnPortReset_idle (h : resetKey (srcId 0x8 0 p.val 0 0) ∉ s.flt.brReq) :
    exec (.prnPortReset p) s = .next s := by
  refine congrArg _ (if_pos ?_)
  rw [resetAsked, Bool.not_eq_true', ← Bool.not_eq_true, List.contains_iff_mem]
  exact h

end Port

/-! ## The loss action (R185) -/

section Loss
variable {s : State} {p : Port} {r : Rail}

/-- The set-up gives rail r to port p (R187). -/
def ownedBy (g : Setup) (p : Port) (r : Rail) : Bool := g.ownen r.val && g.owner r.val = p.val

/-- A rail's record at the engine after the loss of port p: where it regulates and the port owns it, its pending
forecasts are cleared. -/
def lossEngine (g : Setup) (now : Nat) (p : Port) (r : Rail) (e : EngRail) : EngRail :=
  if e.mode ≠ .off ∧ ownedBy g p r = true then { e with fcs := e.fcs.filter fun f => decide (f.tF ≤ now) } else e

/-- A rail's record at the ports after the loss of port p. The SAFE action, where LOSSACT asks for one and the
sequencer does not own the target, waits while the heel loop carries the rail, and else sets the target. -/
def lossTarget (g : Setup) (mode : EngMode) (p : Port) (r : Rail) (e : PrnRail) : PrnRail :=
  if (mode ≠ .off ∧ ownedBy g p r = true) ∧ g.lossact r.val = true ∧ e.seqown = false then
    if mode = .heel ∨ mode = .track then { e with safe := some p }
    else { e with
      tgt := BitVec.ofNat 16 (g.vsafe r.val), notify := false, safe := none
      gcls := BitVec.ofNat 3 (min (g.safecls r.val) (g.slewcap r.val)) }
  else e

/-- What the loss of port p makes of rail r, as the two records that it changes. -/
def railLost (p : Port) (r : Rail) (s : State) : State :=
  (s.upEngRail r (lossEngine s.cfg (instantNow s) p r)).upPrnRail r (lossTarget s.cfg s.eng.rails[r].mode p r)

theorem upPrnRail_congr {g h : PrnRail → PrnRail} (hgh : g s.prn.rails[r] = h s.prn.rails[r]) :
    s.upPrnRail r g = s.upPrnRail r h := by
  simp only [State.upPrnRail, State.upPrn, vmod_congr hgh]

theorem upPrnRail_id {g : PrnRail → PrnRail} (hg : g s.prn.rails[r] = s.prn.rails[r]) : s.upPrnRail r g = s := by
  simp only [State.upPrnRail, State.upPrn, vmod_id hg]

theorem upEngRail_id {g : EngRail → EngRail} (hg : g s.eng.rails[r] = s.eng.rails[r]) : s.upEngRail r g = s := by
  simp only [State.upEngRail, State.upEng, vmod_id hg]

theorem applySafe_eq (r : Rail) (s : State) : applySafe r s = s.upPrnRail r fun e => { e with
    tgt := BitVec.ofNat 16 (s.cfg.vsafe r.val)
    gcls := BitVec.ofNat 3 (min (s.cfg.safecls r.val) (s.cfg.slewcap r.val)), notify := false, safe := none } :=
  setTarget_quiet _ (.inl rfl)

theorem inHeel_clearForecasts (r : Rail) (s : State) : inHeel (clearForecasts r s) r = inHeel s r := by
  have hrail : (clearForecasts r s).eng.rails[r] =
      { s.eng.rails[r] with fcs := s.eng.rails[r].fcs.filter fun f => decide (f.tF ≤ instantNow s) } :=
    upEngRail_same r (fun e => { e with fcs := e.fcs.filter fun f => decide (f.tF ≤ instantNow s) }) s
  rw [inHeel, hrail, inHeel]

theorem lossAction_unreached (h : ¬ (s.eng.rails[r].mode ≠ .off ∧ ownedBy s.cfg p r = true)) :
    lossAction p r s = s := by
  refine if_pos ?_
  rw [regulating, Bool.or_eq_true, Bool.not_eq_true', Bool.not_eq_true', bne_eq_false_iff_eq, ← Bool.not_eq_true]
  exact (not_and_or.mp h).imp_left not_not.mp

/-- The SAFE action of a rail that the loss reaches. -/
theorem lossAction_reached (h : s.eng.rails[r].mode ≠ .off ∧ ownedBy s.cfg p r = true) : lossAction p r s =
    (clearForecasts r s).upPrnRail r (lossTarget s.cfg s.eng.rails[r].mode p r) := by
  have hreach : ¬ (!regulating s r || !owns s p r) = true := by
    rw [regulating, bne_iff_ne.mpr h.1, show owns s p r = true from h.2]
    decide
  refine (if_neg hreach).trans ?_
  dsimp only
  by_cases hruns : s.cfg.lossact r.val = true ∧ s.prn.rails[r].seqown = false
  · have hgo : ¬ (!(clearForecasts r s).cfg.lossact r.val || (clearForecasts r s).prn.rails[r].seqown) = true := by
      rw [show (clearForecasts r s).cfg.lossact r.val = true from hruns.1,
        show (clearForecasts r s).prn.rails[r].seqown = false from hruns.2]
      decide
    rw [if_neg hgo, inHeel_clearForecasts, applySafe_eq]
    by_cases hheel : s.eng.rails[r].mode = .heel ∨ s.eng.rails[r].mode = .track
    · rw [if_pos (inHeel_iff.mpr hheel)]
      exact upPrnRail_congr ((if_pos ⟨h, hruns⟩).trans (if_pos hheel)).symm
    · rw [if_neg (hheel ∘ inHeel_iff.mp)]
      exact upPrnRail_congr ((if_pos ⟨h, hruns⟩).trans (if_neg hheel)).symm
  · refine (if_pos ?_).trans (upPrnRail_id (if_neg fun hall => hruns hall.2)).symm
    rw [Bool.or_eq_true, Bool.not_eq_true']
    rcases not_and_or.mp hruns with hact | hown
    · exact .inl (Bool.eq_false_iff.mpr hact)
    · exact .inr (Bool.eq_true_of_not_eq_false hown)

theorem lossAction_eq (p : Port) (r : Rail) (s : State) : lossAction p r s = railLost p r s := by
  unfold railLost
  by_cases h : s.eng.rails[r].mode ≠ .off ∧ ownedBy s.cfg p r = true
  · rw [lossAction_reached h, clearForecasts, upEngRail_congr (if_pos h).symm]
    rfl
  · have heng : s.upEngRail r (lossEngine s.cfg (instantNow s) p r) = s := upEngRail_id (if_neg h)
    rw [lossAction_unreached h, heng]
    exact (upPrnRail_id (if_neg fun hall => h hall.1)).symm

/-! ## The loss of a heartbeat (R185) -/

/-- The loss action on every rail. -/
def lossActions (p : Port) (s : State) : State := State.each (fins 8) (railLost p) s

/-- What the loss action of rail r looks at and changes. -/
def lossView (r : Rail) (s : State) : EngRail × PrnRail × Setup × Nat :=
  (s.eng.rails[r], s.prn.rails[r], s.cfg, instantNow s)

theorem railLost_view_other {i : Rail} (h : i ≠ r) (s : State) : lossView r (railLost p i s) = lossView r s :=
  congrArg₂ (fun e n => (e, n, s.cfg, instantNow s)) (vmod_other s.eng.rails _ h) (vmod_other s.prn.rails _ h)

theorem lossActions_rail (p : Port) (r : Rail) (s : State) :
    (lossActions p s).eng.rails[r] = lossEngine s.cfg (instantNow s) p r s.eng.rails[r] ∧
      (lossActions p s).prn.rails[r] = lossTarget s.cfg s.eng.rails[r].mode p r s.prn.rails[r] := by
  obtain ⟨u, hu, hg⟩ := each_at (railLost p) (lossView r) s (nodup_fins 8) (mem_fins r)
    fun i u hi => railLost_view_other hi u
  simp only [lossView, Prod.mk.injEq] at hu hg
  obtain ⟨heng, hprn, hcfg, hnow⟩ := hu
  obtain ⟨htEng, htPrn, -⟩ := hg
  rw [← heng, ← hprn, ← hcfg, ← hnow]
  exact ⟨htEng.trans (vmod_same ..), htPrn.trans (vmod_same ..)⟩

/-- A state with other records of the rails at the engine and the ports. -/
def withRails (es : Vector EngRail 8) (ps : Vector PrnRail 8) (s : State) : State :=
  { s with eng := { s.eng with rails := es }, prn := { s.prn with rails := ps } }

theorem withRails_self (s : State) : withRails s.eng.rails s.prn.rails s = s := rfl

theorem lossActions_frame (p : Port) (s : State) :
    lossActions p s = withRails (lossActions p s).eng.rails (lossActions p s).prn.rails s :=
  (withRails_self _).symm.trans (each_keeps (railLost p) (withRails _ _) s fun _ _ _ => rfl)

/-- Port p is LOST, and its event raised. -/
def portLost (p : Port) (s : State) : State := raisePort p 1 1 0 (s.upPort p fun q => { q with state := .lost })

theorem portLost_quiet (p : Port) (s : State) :
    quiet (portLost p s) = quiet (s.upPort p fun q => { q with state := .lost }) := raiseLimited_quiet ..

theorem portLost_cfg : (portLost p s).cfg = s.cfg := cfg_of_quiet (portLost_quiet p s)

theorem portLost_now : instantNow (portLost p s) = instantNow s := by
  obtain ⟨-, -, hclk, -⟩ := Quiet.of_quiet (portLost_quiet p s)
  rw [instantNow, hclk]
  rfl

theorem exec_heartbeatLost_live (hlive : s.prn.ports[p].state = .live) (hhb : s.cfg.hbto p.val ≠ 0) :
    exec (.heartbeatLost p) s = .next (lossActions p (portLost p s)) := by
  have hlost : ¬ (!portLive s p || decide (s.cfg.hbto p.val = 0)) = true := by
    rw [portLive, hlive, decide_eq_false hhb]
    decide
  have hrails : lossAction p = railLost p := funext fun r => funext fun u => lossAction_eq p r u
  show execHeartbeatLost p s = _
  unfold execHeartbeatLost
  rw [if_neg hlost, hrails]
  rfl

theorem exec_heartbeatLost_idle (h : s.prn.ports[p].state ≠ .live ∨ s.cfg.hbto p.val = 0) :
    exec (.heartbeatLost p) s = .next s := by
  refine congrArg _ (if_pos ?_)
  rw [Bool.or_eq_true, decide_eq_true_eq, Bool.not_eq_true', portLive, beq_eq_false_iff_ne]
  exact h

end Loss

end Sys2Proof.Machine
end

section
/-!
What else reaches a Pourn port (O41), second part: one tick of the slew limiter, and the settlement.
-/

namespace Sys2Proof.Machine

/-! ## One tick of REF (R191, R192, R256) -/

/-- The step of a rail's REF: the sequencer's while it owns the target, and else that of the class granted. -/
def refStep (g : Setup) (r : Rail) (e : PrnRail) : Nat :=
  if e.seqown = true then seqStep g r.val else classStep e.gcls.toNat * 65536

/-- A rail's REF after a tick. -/
def refNext (g : Setup) (r : Rail) (e : PrnRail) : Nat :=
  (approach e.ref (e.tgt.toNat * 65536 : Nat) (refStep g r e)).toNat

/-- A rail's record after a tick of its REF. -/
def refTicked (g : Setup) (r : Rail) (e : PrnRail) : PrnRail :=
  { e with ref := refNext g r e, notify := e.notify && !decide (refNext g r e = e.tgt.toNat * 65536) }

theorem approach_nonneg {x aim step : Int} (hx : 0 ≤ x) (haim : 0 ≤ aim) (hstep : 0 ≤ step) :
    0 ≤ approach x aim step := by
  unfold approach
  split
  · exact le_min haim (by omega)
  · exact le_max_of_le_left haim

theorem refNext_cast (g : Setup) (r : Rail) (e : PrnRail) :
    (refNext g r e : Int) = approach e.ref (e.tgt.toNat * 65536) (refStep g r e) := by
  rw [refNext, Int.toNat_of_nonneg (approach_nonneg (by omega) (by omega) (by omega))]
  push_cast
  rfl

theorem refStep_cast (g : Setup) (r : Rail) (e : PrnRail) : (refStep g r e : Int) =
    if e.seqown = true then (seqStep g r.val : Int) else classStep e.gcls.toNat * 65536 := by
  rw [refStep]
  split
  · rfl
  · push_cast
    rfl

/-- A NOTIFY request stands until REF has arrived (R192). -/
theorem refTicked_notify (g : Setup) (r : Rail) (e : PrnRail) :
    (refTicked g r e).notify = (e.notify && decide ((refNext g r e : Int) ≠ e.tgt.toNat * 65536)) := by
  have harrived : decide ((refNext g r e : Int) = e.tgt.toNat * 65536) =
      decide (refNext g r e = e.tgt.toNat * 65536) := decide_eq_decide.mpr (by norm_cast)
  rw [decide_not, harrived]
  rfl

theorem and_not_of_and {a b : Bool} (h : (a && b) = true) : (a && !b) = false := by
  revert a b
  decide

theorem and_not_of_not_and {a b : Bool} (h : ¬ (a && b) = true) : (a && !b) = a := by
  revert a b
  decide

section Tick
variable (r : Rail) (s : State)

theorem upPrnRail_upPrnRail (g h : PrnRail → PrnRail) :
    (s.upPrnRail r g).upPrnRail r h = s.upPrnRail r fun e => h (g e) := by
  simp only [State.upPrnRail, State.upPrn, vmod_vmod]

/-- A tick of REF changes the rail's record, and alerts of the ports where a NOTIFY request ends. -/
theorem tickRef_eq : ∃ ports, tickRef r s = { s with prn := { s.prn with
    ports := ports, rails := vmod s.prn.rails r (refTicked s.cfg r) } } := by
  have hrail (b : Bool) (hb : b = (refTicked s.cfg r s.prn.rails[r]).notify) :
      { s.prn.rails[r] with ref := refNext s.cfg r s.prn.rails[r], notify := b } =
        refTicked s.cfg r s.prn.rails[r] := by
    rw [hb]
    rfl
  by_cases hdone : (s.prn.rails[r].notify &&
      decide (refNext s.cfg r s.prn.rails[r] = s.prn.rails[r].tgt.toNat * 65536)) = true
  · have hrec := (upPrnRail_upPrnRail r s (fun e => { e with ref := refNext s.cfg r s.prn.rails[r] })
      fun e => { e with notify := false }).trans (upPrnRail_congr (hrail _ (and_not_of_and hdone).symm))
    exact ⟨_, (if_pos hdone).trans ((congrArg (alertPorts _ _) hrec).trans (alertPorts_eq ..))⟩
  · exact ⟨s.prn.ports, (if_neg hdone).trans (upPrnRail_congr (hrail _ (and_not_of_not_and hdone).symm))⟩

/-! ## One tick of the margin offset (R272) -/

/-- The aim of a margin offset under a selection, from REF. -/
def marginFor (g : Setup) (msel : BitVec 2) (r : Rail) (ref : Nat) : Int :=
  if msel = 1 then ((ref / 65536 * g.mhi r.val + 500) / 1000 : Nat)
  else if msel = 2 then -((ref / 65536 * g.mlo r.val + 500) / 1000 : Nat) else 0

theorem marginAim_eq : marginAim s r = marginFor s.cfg s.seq.rails[idxOf r].msel r s.prn.rails[r].ref := by
  unfold marginAim marginFor
  dsimp only
  generalize s.seq.rails[idxOf r].msel = b
  have hb : b = 0 ∨ b = 1 ∨ b = 2 ∨ b = 3 := by
    revert b
    decide
  rcases hb with rfl | rfl | rfl | rfl <;> rfl

/-- A rail's margin offset after a tick. -/
def marginNext (g : Setup) (msel : BitVec 2) (r : Rail) (e : PrnRail) : Int :=
  approach e.m (marginFor g msel r e.ref) (classStep (g.slewcap r.val))

/-- A rail's record after a tick of its margin offset. -/
def marginTicked (g : Setup) (msel : BitVec 2) (r : Rail) (e : PrnRail) : PrnRail :=
  { e with m := marginNext g msel r e, mrg := e.mrg && !(decide (marginNext g msel r e = 0) && decide (msel = 0)) }

/-- A tick of the margin offset changes the rail's record, and where the margin ends its booking and alerts. -/
theorem tickMargin_eq : ∃ ports books, tickMargin r s = { s with
    prn := { s.prn with
      ports := ports, rails := vmod s.prn.rails r (marginTicked s.cfg s.seq.rails[idxOf r].msel r) }
    ldg := { s.ldg with books := books } } := by
  have hrail (b : Bool) (hb : b = (marginTicked s.cfg s.seq.rails[idxOf r].msel r s.prn.rails[r]).mrg) :
      { s.prn.rails[r] with m := marginNext s.cfg s.seq.rails[idxOf r].msel r s.prn.rails[r], mrg := b } =
        marginTicked s.cfg s.seq.rails[idxOf r].msel r s.prn.rails[r] := by
    rw [hb]
    rfl
  unfold tickMargin
  dsimp only
  rw [marginAim_eq, Bool.and_assoc]
  by_cases hdone : (s.prn.rails[r].mrg && (decide (marginNext s.cfg s.seq.rails[idxOf r].msel r s.prn.rails[r] = 0) &&
      decide (s.seq.rails[idxOf r].msel = 0))) = true
  · have hrec := (upPrnRail_upPrnRail r s
      (fun e => { e with m := marginNext s.cfg s.seq.rails[idxOf r].msel r s.prn.rails[r] })
      fun e => { e with mrg := false }).trans (upPrnRail_congr (hrail _ (and_not_of_and hdone).symm))
    exact ⟨_, _, (if_pos hdone).trans
      ((congrArg (fun u => alertPorts _ _ (dropBook _ u)) hrec).trans (alertPorts_eq ..))⟩
  · exact ⟨s.prn.ports, s.ldg.books,
      (if_neg hdone).trans (upPrnRail_congr (hrail _ (and_not_of_not_and hdone).symm))⟩

/-! ## One tick of every rail (R191) -/

/-- One tick of a rail: REF, the margin offset, and the codes in force that follow them. -/
def railTicked (r : Rail) (s : State) : State := refreshCodes r (tickMargin r (tickRef r s))

/-- A rail's record after one tick. -/
def recordTicked (g : Setup) (q : Seq) (r : Rail) (e : PrnRail) : PrnRail :=
  marginTicked g q.rails[idxOf r].msel r (refTicked g r e)

theorem putCodes_eq (w : Window) (c : BitVec 10 × BitVec 10) :
    putCodes w c s = { s with cmp := (putCodes w c s).cmp } := by
  unfold putCodes
  dsimp only
  split <;> rfl

theorem refreshCodes_eq : refreshCodes r s = { s with cmp := (refreshCodes r s).cmp } := by
  unfold refreshCodes
  rw [putCodes_eq _ (localWin r), putCodes_eq s]

/-- A tick of a rail changes its record, the ports' alerts, the comparators' codes and the bookings. -/
theorem railTicked_eq : ∃ ports books cmp, railTicked r s = { s with
    prn := { s.prn with ports := ports, rails := vmod s.prn.rails r (recordTicked s.cfg s.seq r) }
    ldg := { s.ldg with books := books }, cmp := cmp } := by
  obtain ⟨ports, href⟩ := tickRef_eq r s
  obtain ⟨ports', books, hmargin⟩ := tickMargin_eq r (tickRef r s)
  have hrails : vmod s.prn.rails r (recordTicked s.cfg s.seq r) = vmod (vmod s.prn.rails r (refTicked s.cfg r)) r
      (marginTicked s.cfg s.seq.rails[idxOf r].msel r) :=
    (vmod_vmod s.prn.rails r (refTicked s.cfg r) (marginTicked s.cfg s.seq.rails[idxOf r].msel r)).symm
  refine ⟨ports', books, (refreshCodes r (tickMargin r (tickRef r s))).cmp, ?_⟩
  rw [railTicked, refreshCodes_eq, hrails]
  generalize (refreshCodes r (tickMargin r (tickRef r s))).cmp = cmp
  rw [hmargin, href]
  rfl

/-- The limiter's tick on every rail. -/
def limiterTicked (s : State) : State := State.each (fins 8) railTicked s

/-- What the tick of rail r looks at and changes. -/
def limiterView (r : Rail) (s : State) : PrnRail × Setup × Seq := (s.prn.rails[r], s.cfg, s.seq)

theorem railTicked_view_other {i r : Rail} (h : i ≠ r) (s : State) :
    limiterView r (railTicked i s) = limiterView r s := by
  obtain ⟨ports, books, cmp, htick⟩ := railTicked_eq i s
  rw [htick]
  exact congrArg (fun e => (e, s.cfg, s.seq)) (vmod_other s.prn.rails _ h)

theorem limiterTicked_rail : (limiterTicked s).prn.rails[r] = recordTicked s.cfg s.seq r s.prn.rails[r] := by
  obtain ⟨u, hu, hg⟩ := each_at railTicked (limiterView r) s (nodup_fins 8) (mem_fins r)
    fun i u hi => railTicked_view_other hi u
  obtain ⟨ports, books, cmp, htick⟩ := railTicked_eq r u
  simp only [limiterView, Prod.mk.injEq] at hu hg
  obtain ⟨hrail, hcfg, hseq⟩ := hu
  rw [limiterTicked, hg.1, htick, ← hrail, ← hcfg, ← hseq]
  exact vmod_same ..

/-- A state with another setpoint path, other comparators and another ledger. -/
def withLimited (prn : Prn) (cmp : Cmp) (ldg : Ldg) (s : State) : State := { s with prn := prn, cmp := cmp, ldg := ldg }

theorem withLimited_self : withLimited s.prn s.cmp s.ldg s = s := rfl

theorem limiterTicked_frame : limiterTicked s =
    withLimited (limiterTicked s).prn (limiterTicked s).cmp (limiterTicked s).ldg s := by
  have hkeeps (prn : Prn) (cmp : Cmp) (ldg : Ldg) :
      withLimited prn cmp ldg (limiterTicked s) = withLimited prn cmp ldg s := by
    unfold limiterTicked
    refine each_keeps railTicked (withLimited prn cmp ldg) s fun r _ u => ?_
    obtain ⟨ports, books, cmp, htick⟩ := railTicked_eq r u
    rw [htick]
    rfl
  exact (withLimited_self (limiterTicked s)).symm.trans (hkeeps ..)

end Tick

theorem exec_slewLimiterTick_idle {s : State} (h : domOn s pdFab = false ∨ s.clk.slot % 32 ≠ 0) :
    exec .slewLimiterTick s = .next s := by
  refine congrArg _ (if_pos ?_)
  rw [Bool.or_eq_true, Bool.not_eq_true', decide_eq_true_eq]
  exact h

theorem exec_slewLimiterTick_ticks {s : State} (hon : domOn s pdFab = true) (hslot : s.clk.slot % 32 = 0) :
    exec .slewLimiterTick s = .next (settle (limiterTicked s)) := by
  have hticks : ¬ (!domOn s pdFab || decide (s.clk.slot % 32 ≠ 0)) = true := by
    rw [hon, decide_eq_false (not_not.mpr hslot)]
    decide
  show execSlewLimiterTick s = _
  unfold execSlewLimiterTick
  rw [if_neg hticks]
  rfl

/-! ## The settlement -/

/-- Settles O41: each command at a port by what it finds there, the loss action and the limiter rail by rail. -/
theorem portSupervision : Obligations.PortSupervision := by
  unfold Obligations.PortSupervision
  refine ⟨fun s p => ?_, fun s => ⟨exec_slewLimiterTick_idle, fun hon hslot => ?_⟩⟩
  · intro q
    refine ⟨fun f hon hst hgood => ?_, fun clock hon hst hlo hhi => ?_,
      fun f hon hst hgood htype hsync hform hsafe => ?_, fun hlive hhb => ?_, exec_heartbeatLost_idle, ?_⟩
    · exact ⟨_, _, exec_frameCheckFailed_bad (portOpen_true hon hst) hgood, raisePort_raised .., respond_answered ..⟩
    · exact ⟨_, exec_frameStall_counts (portOpen_true hon hst) hlo hhi, raisePort_raised ..⟩
    · have hopen : portOpen s p = true := portOpen_true hon (by rcases hst with h | h <;> rw [h] <;> decide)
      have hout : s.prn.ports[p].state ≠ .live := by rcases hst with h | h <;> rw [h] <;> decide
      refine ⟨_, exec_heartbeat_joins hopen hout hgood htype hsync hform, ?_⟩
      rw [synchronise_joins hsafe, consume_done p f 0 _ (.inl rfl)]
      exact respond_answered ..
    · refine ⟨portLost p s, lossActions p (portLost p s), exec_heartbeatLost_live hlive hhb, raisePort_raised ..,
        lossActions_frame .., fun r => ?_⟩
      have hrail := lossActions_rail p r (portLost p s)
      rw [portLost_cfg, portLost_now] at hrail
      exact hrail
    · exact ⟨exec_prnPortReset_asked, fun _ => rfl, exec_prnPortReset_idle⟩
  · refine ⟨limiterTicked s, exec_slewLimiterTick_ticks hon hslot, limiterTicked_frame s, fun r => ?_⟩
    intro e n aim step msel margin most
    have hn : n = recordTicked s.cfg s.seq r e := limiterTicked_rail r s
    have hmargin : marginFor s.cfg msel r n.ref = margin := rfl
    have hstays : n.tgt = e.tgt ∧ n.gcls = e.gcls ∧ n.seqown = e.seqown ∧ n.safe = e.safe := by
      rw [hn]
      exact ⟨rfl, rfl, rfl, rfl⟩
    refine ⟨?_, ?_, ?_, ?_, hstays⟩
    · rw [hn]
      exact (refNext_cast ..).trans (by rw [refStep_cast]; rfl)
    · rw [← hmargin, hn]
      rfl
    · rw [hn]
      exact refTicked_notify ..
    · rw [hn]
      exact congrArg (fun b => e.mrg && !b) (Bool.decide_and ..).symm

end Sys2Proof.Machine
end

section
/-!
The heel loop (O34): what follows the event of a failed heel loop leaves the converter array alone where the sequencer
has no rail in use, and a part where the end of an adjudication ends a proof test as well.
-/

namespace Sys2Proof.Machine

/-! ## The end of a rail's feedback -/

theorem settleRounds_unused {s : State} (n : Nat) (h : usedRails s.cfg = []) : settleRounds n s = s := by
  cases n with
  | zero => rfl
  | succ n => simp [settleRounds, h, State.each]

theorem releaseIdle_adc (s : State) : (releaseIdle s).adc = s.adc := by
  obtain ⟨-, -, -, -, hadc, -⟩ := of_apartPhases (t := releaseIdle s) (apartPhases_each _ _ s fun _ _ => rfl)
  exact hadc

/-- With no rail in use the sequencer's rest gives up reservations and nothing else (R198, R254). -/
theorem settle_adc_unused {s : State} (h : usedRails s.cfg = []) : (settle s).adc = s.adc := by
  unfold settle
  rw [releaseIdle_adc, settleRounds_unused 64 h, ite_self]

/-- Only a rail that is ON has running faults (R259). -/
theorem runningFault_notOn {i : SeqIdx} {s : State} (h : railState s i ≠ .on) (cause elem : Nat) (atLeast : Bool) :
    runningFault i cause elem atLeast s = s :=
  if_pos (bne_iff_ne.mpr h)

/-- What follows the event where a rail's feedback moves to NONE (R216). -/
def afterNone (r : Rail) (s : State) : State :=
  settle (runningFault (idxOf r) 4 0 true (refreshPhases r (refreshCodes r s)))

theorem refreshed_apart (r : Rail) (s : State) : apartPhases (refreshPhases r (refreshCodes r s)) = apartPhases s :=
  (refreshPhases_apart ..).trans (refreshCodes_apart ..)

/-- The registers, the clocks and the powered domains are as before the event. -/
theorem afterNone_wholeBench (r : Rail) (s : State) : wholeBench (afterNone r s) = wholeBench s := by
  unfold afterNone
  refine wholeBench_of ?_ ?_ ?_
  · rw [settle_quiet, runningFault_quiet, refreshPhases_quiet, refreshCodes_quiet]
  · rw [settle_steady, runningFault_steady, refreshPhases_steady, refreshCodes_steady]
  · rw [settle_kept, runningFault_kept, refreshPhases_kept, refreshCodes_kept]

theorem afterNone_domOn (r : Rail) (s : State) (d : Nat) : domOn (afterNone r s) d = domOn s d :=
  domOn_of_bench (Prod.mk.inj (afterNone_wholeBench r s)).1 d

theorem afterNone_adc_unused {r : Rail} {s : State} (hoff : railState s (idxOf r) ≠ .on)
    (hunused : usedRails s.cfg = []) : (afterNone r s).adc = s.adc := by
  obtain ⟨-, -, -, hseq, hadc, -, hregs, -⟩ := of_apartPhases (refreshed_apart r s)
  have hfault : afterNone r s = settle (refreshPhases r (refreshCodes r s)) :=
    congrArg settle (runningFault_notOn (by rwa [railState, hseq]) ..)
  rw [hfault, settle_adc_unused (by rwa [State.cfg, hregs]), hadc]

/-- Without PD_FAB no event is collected (R31), and what follows it leaves the converter array alone. -/
theorem afterNone_adc_unraised {e : Nat} {r : Rail} {a b : State} (hraised : Raised e a b)
    (hfab : domOn (afterNone r b) pdFab = false) (hbench : wholeBench b = wholeBench a)
    (hoff : railState a (idxOf r) ≠ .on) (hunused : usedRails a.cfg = []) : (afterNone r b).adc = a.adc := by
  have hdark : domOn a pdFab = false :=
    (domOn_of_bench (Prod.mk.inj hbench).1 pdFab).symm.trans ((afterNone_domOn r b pdFab).symm.trans hfab)
  have hba : b = a := by rwa [Raised, hdark, if_neg Bool.false_ne_true] at hraised
  rw [hba, afterNone_adc_unused hoff hunused]

/-! ## A proof test that yields to a waiting adjudication -/

/-- A slice on tour whose absolute calibration has the test DAC from slot 0 on. -/
def calibratingTour : Tour :=
  { slice := 0, calDone := false, windows := 0, missed := 0, startSlot := 0, lastOn := none, claimed := none }

/-- Rail 0 carried by its heel loop, its valley tripped, without PD_FAB. Rails 2 to 4 have a steep window each for their
adjudications; the fourth is in a proof test's self-check, which has the test DAC, rail 1 waits for one, and a slice on
tour waits for the test DAC. -/
def testedState : State :=
  { State.reset with
    clk := { Clk.reset with slot := 1 }
    fb := vmod State.reset.fb 0 fun f => { f with hact := true }
    cmp := { Cmp.reset with
      steep := #v[.free, .adjudicates 2, .adjudicates 3, .adjudicates 4]
      proof := some { win := 0, steep := 0, stage := 0, since := 0 }, adjWait := [1] }
    adc := { Adc.reset with tour := some calibratingTour } }

/-- The stall of its loop gives rail 1 the window of the proof test, and the calibration of the slice goes on from a
later slot (R83, R240, R241). -/
theorem testedState_stalls : ∃ t, exec (.heelStall 0 false) testedState = .next t ∧ domOn t pdFab = false ∧
    t.adc.tour ≠ testedState.adc.tour :=
  ⟨heelFailed 0 1 3 testedState, rfl, by decide +kernel⟩

/-- Refutes O34: a heel loop that fails ends its rail's adjudication, which serves the adjudications that wait, and one
of them can end a proof test that holds the test DAC; the calibration that the test has held up then goes on, a change
of the converter array that the statement rules out. -/
theorem not_heel : ¬ Obligations.Heel := by
  unfold Obligations.Heel
  intro h
  obtain ⟨-, -, -, -, -, -, -, hstall, -⟩ := h.1 testedState 0
  obtain ⟨t, ht, hfailed⟩ := hstall rfl (by decide)
  obtain ⟨a, b, -, -, -, -, -, hregs, hadc, hseq, -, -, -, hb, hraised, hend⟩ := hfailed (.inl rfl)
  obtain ⟨u, hu, hfab, htour⟩ := testedState_stalls
  have hafter : u = afterNone 0 b := (Host.Outcome.next.inj (hu.symm.trans ht)).trans hend
  subst hafter
  have hkeeps : (afterNone 0 b).adc = a.adc :=
    afterNone_adc_unraised hraised hfab (hb ▸ raise_wholeBench ..) (by rw [railState, hseq]; decide)
      (by rw [State.cfg, hregs]; decide +kernel)
  exact htour (congrArg Adc.tour (hkeeps.trans hadc))

end Sys2Proof.Machine
end

section
/-!
Proof tests and adjudications (O38): how a proof cycle begins, what ends a stage of a test, and what an adjudication
leaves.
-/

namespace Sys2Proof.Machine

/-! ## A proof cycle (R237, R242, R245) -/

/-- A proof cycle stands at its beginning: every window that has inputs of its own is left. -/
def cycleBegun (s : State) : State :=
  s.upCmp fun c => { c with cycle := true, left := (fins 80).filter fun w => w.val < 76, steepRaised := false }

theorem mem_cycleBegun_left (s : State) (w : Window) : w ∈ (cycleBegun s).cmp.left ↔ w.val < 76 :=
  (mem_filter_fins ..).trans decide_eq_true_iff

theorem cycleBegun_left_ordered (s : State) : (cycleBegun s).cmp.left.Pairwise (fun a b => a.val < b.val) :=
  have hfins : (fins 80).Pairwise fun a b => a.val < b.val := List.pairwise_ofFn.mpr fun _ _ h => h
  List.Pairwise.filter (fun w : Window => decide (w.val < 76)) hfins

theorem exec_proofCycleStart_idle {s : State}
    (h : domOn s pdCmp = false ∨ s.cfg.proofen = false ∨ s.cmp.cycle = true) :
    exec .proofCycleStart s = .next s := by
  show Host.Outcome.next _ = _
  rw [if_pos (by rcases h with h | h | h <;> simp [h])]

theorem exec_proofCycleStart {s : State} (hcmp : domOn s pdCmp = true) (hen : s.cfg.proofen = true)
    (hcycle : s.cmp.cycle = false) : exec .proofCycleStart s = .next (nextProof (cycleBegun s)) := by
  show Host.Outcome.next _ = _
  rw [if_neg (by simp [hcmp, hen, hcycle])]
  rfl

section Next

variable {s : State} (hcycle : s.cmp.cycle = true) (hproof : s.cmp.proof = none)
include hcycle hproof

/-- A cycle without a steep window stops, with the event that it raises once (R242, R245). -/
theorem nextProof_noSteep (hsteep : steepLeft s = []) (hfirst : s.cmp.steepRaised = false) :
    Raised 0x58 (s.upCmp fun c => { c with cycle := false, left := [], steepRaised := true }) (nextProof s) := by
  unfold nextProof raiseNoSteep
  rw [if_pos (by simp [hcycle, hproof, hsteep]), if_neg (by simp [hfirst])]
  exact raise_raised _ _ _ _ (by decide)

omit hcycle hproof in
theorem nextProof_begins (hsteep : steepLeft s ≠ []) : nextProof s = beginProof s := by
  unfold nextProof
  rw [if_neg (by simp [hsteep])]

/-- The first window that the cycle does not skip goes under test on the first free steep window (R237, R238). -/
theorem nextProof_tests {w : Window} {ws : List Window} {n : Fin 4}
    (hleft : s.cmp.left.dropWhile (proofSkips s) = w :: ws)
    (hfree : (steepLeft s).find? (fun n => s.cmp.steep[n] == .free) = some n) :
    nextProof s = s.upCmp fun c =>
      { c with left := ws, proof := some { win := w, steep := n, stage := 0, since := s.clk.slot } } := by
  have hsteep : steepLeft s ≠ [] := List.ne_nil_of_mem (List.mem_of_find?_eq_some hfree)
  rw [nextProof_begins hsteep]
  unfold beginProof
  rw [if_neg (by simp [hcycle, hproof, hsteep]), hleft, hfree]

/-- A cycle that skips every window left is over (R237). -/
theorem nextProof_over (hsteep : steepLeft s ≠ []) (hskips : ∀ w ∈ s.cmp.left, proofSkips s w = true) :
    nextProof s = s.upCmp fun c => { c with cycle := false, left := [] } := by
  rw [nextProof_begins hsteep]
  unfold beginProof
  rw [if_neg (by simp [hcycle, hproof, hsteep]), List.dropWhile_eq_nil_iff.mpr hskips]

end Next

/-! ## The waits of a stage (R238, R240) -/

theorem changesHands_false_iff (p : Proof) (s : State) : changesHands p s = false ↔
    (48 ≤ p.win.val → s.cmp.win[p.win].live ≠ s.cmp.win[steepWin p.steep].live) ∧
      ∀ h : Phase, p.win.val = h.val → periodStarts s h = false := by
  unfold changesHands
  by_cases hphase : p.win.val < 48
  · rw [dif_pos hphase]
    refine ⟨fun hs => ⟨fun _ => absurd hphase (by omega), fun h hw => ?_⟩, fun hs => hs.2 ⟨p.win.val, hphase⟩ rfl⟩
    rwa [show h = ⟨p.win.val, hphase⟩ from Fin.ext hw.symm]
  · rw [dif_neg hphase]
    refine ⟨fun hs => ⟨fun _ => beq_eq_false_iff_ne.mp hs, fun h hw => absurd h.isLt (by omega)⟩, fun hs => ?_⟩
    exact beq_eq_false_iff_ne.mpr (hs.1 (by omega))

theorem stageWaits_iff (p : Proof) (s : State) : stageWaits p s = true ↔
    ((p.stage.val = 0 ∨ p.stage.val = 4) ∧ s.adc.ptest ≠ none) ∨
      ((p.stage.val = 3 ∨ p.stage.val = 8) ∧
        ((48 ≤ p.win.val → s.cmp.win[p.win].live ≠ s.cmp.win[steepWin p.steep].live) ∧
          ∀ h : Phase, p.win.val = h.val → periodStarts s h = false)) := by
  rw [← changesHands_false_iff]
  simp only [stageWaits, Bool.or_eq_true, Bool.and_eq_true, decide_eq_true_eq, Bool.not_eq_true',
    Option.isSome_iff_ne_none]

/-- The slot of a running carrier's period (R236). -/
theorem periodStarts_running {s : State} {h : Phase} (hmode : s.pwm.rails[railOf s.cfg h].opmode ≠ .off) :
    periodStarts s h = true ↔
      s.pwm.phases[h].carrAt < stepNow s + 64 ∧ stepNow s < s.pwm.phases[h].carrAt + 64 := by
  unfold periodStarts
  dsimp only
  rw [if_pos (bne_iff_ne.mpr hmode), Bool.and_eq_true, decide_eq_true_eq, decide_eq_true_eq]

/-! ## The test DAC at the end of a stage (R83, R240) -/

/-- The calibrations after a stage's end: they go on where the test had the test DAC until then. -/
def dacAfter (p : Proof) (s v : State) : State :=
  if (p.stage.val = 0 ∨ p.stage.val = 4 ∨ p.stage.val = 5) ∧ s.adc.ptest = none then resumeCal p.since v else v

theorem freeDac_dacAfter {p : Proof} {s v : State} (h : v.adc.ptest = s.adc.ptest) :
    freeDac p v = dacAfter p s v := by
  unfold freeDac dacAfter Proof.usesDac
  rw [h]
  refine if_congr ?_ rfl rfl
  simp only [Bool.and_eq_true, Bool.or_eq_true, decide_eq_true_eq, Option.isNone_iff_eq_none, or_assoc]

theorem freeDac_clk (p : Proof) (s : State) : (freeDac p s).clk = s.clk := by
  unfold freeDac
  split <;> rfl

/-- What a stage's end does to the comparators and what it does to the calibrations are apart. -/
theorem freeDac_upCmp {p : Proof} {s v : State} (f : Cmp → Cmp) (h : v.adc.ptest = s.adc.ptest) :
    (freeDac p v).upCmp f = { dacAfter p s v with cmp := f v.cmp } := by
  rw [freeDac_dacAfter h]
  unfold dacAfter
  split <;> rfl

theorem freeDac_upCmp_upCmp {p : Proof} {s v : State} (f g : Cmp → Cmp) (h : v.adc.ptest = s.adc.ptest) :
    (freeDac p (v.upCmp g)).upCmp f = { dacAfter p s v with cmp := f (g v.cmp) } := by
  rw [freeDac_upCmp f (v := v.upCmp g) h]
  unfold dacAfter
  split <;> rfl

/-! ## A stage that passes (R238) -/

section Leaves

variable {p : Proof} (s : State)

theorem stageLeaves_same (h : p.stage.val = 0 ∨ p.stage.val = 2 ∨ p.stage.val = 7) : stageLeaves p s = s := by
  rcases h with h | h | h <;> simp only [stageLeaves, h]

theorem stageLeaves_load (h : p.stage.val = 1) : stageLeaves p s = loadSteep p s := by
  simp only [stageLeaves, h]

theorem stageLeaves_takeOver (h : p.stage.val = 3) : stageLeaves p s = passLatch p s := by
  simp only [stageLeaves, h]

theorem stageLeaves_swap (h : p.stage.val = 4) :
    stageLeaves p s = s.upWin p.win fun x => { x with low := true, high := true, latch := true } := by
  simp only [stageLeaves, h]

theorem stageLeaves_levels (h : p.stage.val = 5) :
    stageLeaves p s = s.upWin p.win fun x => { x with low := false, high := false, latch := true } := by
  simp only [stageLeaves, h]

theorem stageLeaves_reconnect (h : p.stage.val = 6) : stageLeaves p s = s.upWin p.win fun x =>
    { x with low := s.cmp.win[steepWin p.steep].low, high := s.cmp.win[steepWin p.steep].high } := by
  simp only [stageLeaves, h]

theorem stageLeaves_handBack (h : p.stage.val = 8) : stageLeaves p s = handBack p s := by
  simp only [stageLeaves, h]

/-- A window under test from its swap on is handed back by the steep window that has its wires. -/
theorem handBack_swapped (h : 4 ≤ p.stage.val) :
    handBack p s = (s.upWin p.win fun v => { v with
        low := s.cmp.win[steepWin p.steep].low, high := s.cmp.win[steepWin p.steep].high
        latch := s.cmp.win[steepWin p.steep].latch }).upWin (steepWin p.steep) fun v => { v with latch := false } :=
  if_neg (by omega)

end Leaves

theorem handBack_frame (p : Proof) (s : State) : handBack p s = { s with cmp := (handBack p s).cmp } := by
  unfold handBack
  split <;> rfl

/-- A stage that passes changes the comparators alone. -/
theorem stageLeaves_frame (p : Proof) (s : State) : stageLeaves p s = { s with cmp := (stageLeaves p s).cmp } := by
  unfold stageLeaves
  split
  case h_6 => exact handBack_frame p s
  all_goals rfl

/-- A test that has passed to its next stage. -/
def stageNext (p : Proof) (s v : State) : State :=
  { dacAfter p s v with cmp := { v.cmp with proof := some { p with stage := p.stage + 1, since := s.clk.slot } } }

theorem stagePassed_next {p : Proof} (s : State) (h : p.stage.val ≠ 8) :
    stagePassed p s = stageNext p s (stageLeaves p s) := by
  have hptest : (stageLeaves p s).adc.ptest = s.adc.ptest := by rw [stageLeaves_frame]
  have hclk : (freeDac p (stageLeaves p s)).clk = s.clk := (freeDac_clk ..).trans (by rw [stageLeaves_frame])
  unfold stagePassed
  dsimp only
  rw [if_neg h, hclk, freeDac_upCmp _ hptest]
  rfl

section Stage

variable {s : State} {p : Proof} (hproof : s.cmp.proof = some p) (hwaits : stageWaits p s = false)
include hproof

theorem exec_stage_waits (hw : stageWaits p s = true) (seen : ProofSeen) :
    exec (.proofTestStageEnd seen) s = .next s := by
  show Host.Outcome.next _ = _
  rw [hproof]
  exact congrArg _ (if_pos hw)

include hwaits

theorem exec_stage_pass : exec (.proofTestStageEnd .pass) s = .next (stagePassed p s) := by
  show Host.Outcome.next _ = _
  rw [hproof]
  exact congrArg _ (if_neg (by simp [hwaits]))

theorem exec_stage_fail (e : Fin 5) : exec (.proofTestStageEnd (.fail e)) s = .next
    (if p.stage.val = 0 then steepFails p s
      else (stageFailure p.stage e).elim s fun f => windowFails p f.1 f.2 s) := by
  show Host.Outcome.next _ = _
  rw [hproof]
  refine congrArg _ ((if_neg (by simp [hwaits])).trans (if_congr Iff.rfl rfl ?_))
  cases stageFailure p.stage e <;> rfl

/-- A stage but the last passes: v is what it leaves in the windows. -/
theorem exec_stage_passes (hlast : p.stage.val ≠ 8) {v : State} (hv : stageLeaves p s = v) :
    exec (.proofTestStageEnd .pass) s = .next (stageNext p s v) := by
  rw [exec_stage_pass hproof hwaits, stagePassed_next s hlast, hv]

/-- The last stage hands the window back, and the cycle goes on. -/
theorem exec_stage_handsBack (hlast : p.stage.val = 8) : exec (.proofTestStageEnd .pass) s =
    .next (nextProof ((handBack p s).upCmp fun c => { c with proof := none })) := by
  have hdac : freeDac p (handBack p s) = handBack p s := by
    unfold freeDac Proof.usesDac
    rw [hlast]
    rfl
  rw [exec_stage_pass hproof hwaits]
  unfold stagePassed
  rw [if_pos hlast, stageLeaves_handBack s hlast, hdac]

end Stage

/-! ## A stage that fails (R239) -/

theorem stageFailure_stage : ∀ {stage : Fin 9} {e : Fin 5}, stageFailure stage e ≠ none →
    stage.val = 2 ∨ 4 ≤ stage.val := by decide

/-- A failed self-check gives the steep window up, with event 0x56 (R239). -/
theorem steepFails_raised {p : Proof} (s : State) :
    ∃ u, steepFails p s = nextProof
        { dacAfter p s u with cmp := { u.cmp with proof := none, left := p.win :: u.cmp.left } } ∧
      Raised 0x56 (s.upWin (steepWin p.steep) fun x => { x with failed := true }) u := by
  have hraised := raise_raised 0x56 (winSrc (76 + p.steep.val) 0 1) 0
    (s.upWin (steepWin p.steep) fun x => { x with failed := true }) (by decide)
  exact ⟨_, congrArg nextProof (freeDac_upCmp _ hraised.ptest), hraised⟩

/-- The windows where a later stage fails: a steep window that only shadows has yet to take the latch (R238, R239). -/
def steepTakes (p : Proof) (s : State) : State :=
  if p.stage.val = 2 then passLatch p s else s

theorem steepTakes_frame (p : Proof) (s : State) :
    steepTakes p s = { s with cmp := { s.cmp with win := (steepTakes p s).cmp.win } } := by
  unfold steepTakes
  split <;> rfl

/-- A failed window's place is the steep window's, with event 0x56 (R239). -/
theorem windowFails_raised {p : Proof} (s : State) (elem cell : Nat) (h : p.stage.val = 2 ∨ 4 ≤ p.stage.val) :
    let v := steepTakes p s
    ∃ u, windowFails p elem cell s = nextProof u ∧
      Raised 0x56 { dacAfter p s v with cmp := { v.cmp with
        win := vmod v.cmp.win p.win fun x => { x with failed := true }
        steep := vput s.cmp.steep p.steep (.standsIn p.win), proof := none } } u := by
  intro v
  have htakes : (if p.stage.val < 4 then passLatch p s else s) = v :=
    if_congr (by omega) rfl rfl
  have hv : v = { s with cmp := { s.cmp with win := v.cmp.win } } := steepTakes_frame p s
  have hptest : v.adc.ptest = s.adc.ptest := by rw [hv]
  have hsteep : v.cmp.steep = s.cmp.steep := by rw [hv]
  refine ⟨raise 0x56 (winSrc p.win.val elem cell) 0 _, ?_, raise_raised _ _ _ _ (by decide)⟩
  unfold windowFails
  dsimp only
  rw [if_neg (show ¬ p.stage.val < 2 by omega), htakes, State.upWin_eq, freeDac_upCmp_upCmp _ _ hptest, hsteep]

/-! ## The end of an adjudication (R212, R214, R241) -/

theorem exec_adjudicationDone_early {s : State} {r : Rail} {remote locl : Int}
    (h : (∀ n : Fin 4, s.cmp.steep[n] ≠ .adjudicates r) ∨ s.clk.slot < s.fb[r].adjAt + 8192) :
    exec (.adjudicationDone r remote locl) s = .next s := by
  show Host.Outcome.next _ = _
  rw [if_pos]
  rw [Bool.or_eq_true, Bool.not_eq_true', decide_eq_true_eq, any_false_iff]
  exact h.imp_left fun hn n _ => beq_eq_false_iff_ne.mpr (hn n)

/-- What follows from the two verdicts, with the path that the rail had (R212, R214). -/
def adjudged (r : Rail) (m l : Bool) (path : FbPath) (s : State) : State :=
  let t := if m then markLost r true 3 s else s
  let t := if l then markLost r false 3 t else t
  if m || l then switchPath r t else raisePath r (if path == .local_ then 1 else 0) 5 t

theorem exec_adjudicationDone {s : State} {r : Rail} {n : Fin 4} {m l : Bool} {remote locl : Int}
    (hn : s.cmp.steep[n] = .adjudicates r) (hdone : s.fb[r].adjAt + 8192 ≤ s.clk.slot)
    (hm : frontFault s r (ballError s r s.fb[r].remote remote) = m)
    (hl : frontFault s r (ballError s r s.fb[r].local_ locl) = l) :
    exec (.adjudicationDone r remote locl) s = .next (adjudged r m l s.fb[r].path (freeAdjudication r s)) := by
  show Host.Outcome.next _ = _
  have htaken : (fins 4).any (fun n => s.cmp.steep[n] == .adjudicates r) = true :=
    List.any_eq_true.mpr ⟨n, mem_fins n, beq_iff_eq.mpr hn⟩
  rw [if_neg (by
    rw [htaken, Bool.not_true, Bool.false_or, decide_eq_true_eq]
    exact Nat.not_lt.mpr hdone), hm, hl]
  rfl

theorem markLost_raised (r : Rail) (remote : Bool) (s : State) :
    Raised (0x38 + r.val) (freeAdjudication r (s.upFb r fun f =>
      if remote then { f with rlost := true, lcause := 3 } else { f with llost := true, lcause := 3 }))
      (markLost r remote 3 s) :=
  raise_raised _ _ _ _ (by omega)

/-! ## The settlement -/

/-- Settles O38: a clause is one case of the cycle's next test, of the end of a stage or of an adjudication's end. -/
theorem proofsAndAdjudications : Obligations.ProofsAndAdjudications := by
  unfold Obligations.ProofsAndAdjudications
  refine ⟨⟨fun s => ⟨exec_proofCycleStart_idle, fun hcmp hen hcycle hproof =>
      ⟨cycleBegun s, _, exec_proofCycleStart hcmp hen hcycle, rfl, mem_cycleBegun_left s, cycleBegun_left_ordered s,
        fun hsteep => nextProof_noSteep (s := cycleBegun s) rfl hproof hsteep rfl,
        fun w ws n => nextProof_tests (s := cycleBegun s) rfl hproof,
        fun hsteep => nextProof_over (s := cycleBegun s) rfl hproof hsteep⟩⟩,
    fun s p e hproof => ⟨fun h => periodStarts_running, fun k => ⟨_, _, rfl, rfl, rfl⟩,
      fun hw => exec_stage_waits hproof ((stageWaits_iff p s).mpr hw), fun hw => ?_⟩⟩, fun s r remote locl =>
    ⟨fun c ball => rfl, rfl, exec_adjudicationDone_early, fun n hn hdone =>
      ⟨fun hm hl => ⟨_, exec_adjudicationDone hn hdone hm hl, raise_raised _ _ _ _ (by omega)⟩,
        fun hm hl => ⟨_, markLost_raised r true _, exec_adjudicationDone hn hdone hm hl⟩,
        fun hm hl => ⟨_, markLost_raised r false _, exec_adjudicationDone hn hdone hm hl⟩,
        fun hm hl => ⟨_, _, markLost_raised r true _, markLost_raised r false _,
          exec_adjudicationDone hn hdone hm hl⟩⟩⟩⟩
  have hends : stageWaits p s = false := Bool.eq_false_iff.mpr fun h => hw ((stageWaits_iff p s).mp h)
  have hpasses := @exec_stage_passes s p hproof hends
  refine ⟨fun h => hpasses (by omega) (stageLeaves_same s h), fun h => hpasses (by omega) (stageLeaves_load s h),
    fun h => hpasses (by omega) (stageLeaves_takeOver s h), fun h => hpasses (by omega) (stageLeaves_swap s h),
    fun h => hpasses (by omega) (stageLeaves_levels s h), fun h => hpasses (by omega) (stageLeaves_reconnect s h),
    fun h => ⟨_, exec_stage_handsBack hproof hends h, handBack_swapped s (by omega)⟩, fun h => ?_,
    fun elem cell hfails h => ?_, fun hfails h => ?_⟩
  · obtain ⟨u, hu, hraised⟩ := steepFails_raised (p := p) s
    exact ⟨u, by rw [exec_stage_fail hproof hends, if_pos h, hu]; rfl, hraised⟩
  · have hlater : p.stage.val = 2 ∨ 4 ≤ p.stage.val := stageFailure_stage (hfails.trans_ne (Option.some_ne_none _))
    obtain ⟨u, hu, hraised⟩ := windowFails_raised s elem cell hlater
    exact ⟨u, by rw [exec_stage_fail hproof hends, if_neg h, hfails, ← hu]; rfl, hraised⟩
  · rw [exec_stage_fail hproof hends, if_neg h, hfails]
    rfl

end Sys2Proof.Machine
end

section
/-!
What the sequencer's operations leave alone: the end of a rail's loop and its parts keep the sequencer, the collector,
the set-up and the clocks, and an operation on one rail keeps the others.
-/

namespace Sys2Proof.Machine

/-! ## The sequencer, the collector, the power, the set-up and the clocks -/

/-- What the loops, the phases, the windows and the ports of a rail have no part in. -/
def seqSide (s : State) : Seq × Flt × Pwr × Regs × Clk := (s.seq, s.flt, s.pwr, s.regs, s.clk)

theorem of_seqSide {s t : State} (h : seqSide t = seqSide s) :
    t.seq = s.seq ∧ t.flt = s.flt ∧ t.pwr = s.pwr ∧ t.regs = s.regs ∧ t.clk = s.clk := by
  simpa only [seqSide, Prod.mk.injEq] using h

theorem seqSide_of_apart {s t : State} (h : apartPhases t = apartPhases s) : seqSide t = seqSide s := by
  have hclk : t.clk = s.clk := congrArg Prod.fst h
  obtain ⟨-, -, -, hseq, -, hflt, hregs, -, hpwr⟩ := of_apartPhases h
  rw [seqSide, seqSide, hseq, hflt, hpwr, hregs, hclk]

theorem seqSide_ite {c : Prop} [Decidable c] (a b : State) :
    seqSide (if c then a else b) = if c then seqSide a else seqSide b := apply_ite seqSide c a b

theorem seqSide_upSeqRail_congr {s t : State} (h : seqSide t = seqSide s) (i : SeqIdx) (f : SeqRail → SeqRail) :
    seqSide (t.upSeqRail i f) = seqSide (s.upSeqRail i f) := by
  obtain ⟨hseq, hflt, hpwr, hregs, hclk⟩ := of_seqSide h
  simp only [seqSide, State.upSeqRail, State.upSeq, hseq, hflt, hpwr, hregs, hclk]

theorem driveHeld_side (r : Rail) (d : Drive) (s : State) : seqSide (driveHeld r d s) = seqSide s :=
  seqSide_of_apart (apartPhases_each _ _ s fun _ _ => rfl)

theorem complete_side (q : Ring) (status result : Nat) (s : State) :
    seqSide (complete q status result s) = seqSide s := by
  unfold complete completeData
  split <;> rfl

theorem saveHealth_side (s : State) : seqSide (saveHealth s) = seqSide s := by
  unfold saveHealth recordCommit nvAsk
  split
  · split <;> rfl
  · rfl

theorem disableAdmit_side (r : Rail) (s : State) : seqSide (disableAdmit r s) = seqSide s := by
  unfold disableAdmit
  split
  · rfl
  · rw [complete_side, saveHealth_side, seqSide_of_apart (freeSub_apart _ _)]
    rfl

theorem disablePhases_side (r : Rail) (s : State) : seqSide (disablePhases r s) = seqSide s := by
  have hhalf (u : State) : seqSide (endHalf r u) = seqSide u :=
    seqSide_of_apart (apartPhases_each _ _ u fun _ _ => rfl)
  unfold disablePhases
  rw [driveHeld_side, seqSide_of_apart (showStates_apart _ _), disableAdmit_side, hhalf]
  rfl

theorem upCmp_side (f : Cmp → Cmp) (s : State) : seqSide (s.upCmp f) = seqSide s := rfl

theorem upFb_side (r : Rail) (f : FbRail → FbRail) (s : State) : seqSide (s.upFb r f) = seqSide s := rfl

theorem handBack_side (p : Proof) (s : State) : seqSide (handBack p s) = seqSide s := by
  unfold handBack
  split <;> rfl

theorem freeDac_side (p : Proof) (s : State) : seqSide (freeDac p s) = seqSide s := by
  unfold freeDac
  split <;> rfl

theorem takeSteep_side (r : Rail) (s : State) : seqSide (takeSteep r s) = seqSide s := by
  unfold takeSteep
  split
  · rfl
  dsimp only
  rw [upCmp_side, upFb_side]
  split
  · rw [upCmp_side, freeDac_side, handBack_side]
  · rfl

theorem beginProof_side (s : State) : seqSide (beginProof s) = seqSide s := by
  unfold beginProof
  dsimp only
  split
  · rfl
  · split <;> rfl

theorem freeAdjudication_side (r : Rail) (s : State) : seqSide (freeAdjudication r s) = seqSide s := by
  unfold freeAdjudication serveSteep
  rw [beginProof_side]
  exact each_keeps _ seqSide _ fun r _ u => by rw [seqSide_ite, takeSteep_side, ite_self]

theorem disableLoop_side (r : Rail) (s : State) : seqSide (disableLoop r s) = seqSide s := by
  unfold disableLoop
  rw [seqSide_of_apart (refreshPhases_apart _ _), seqSide_of_apart (refreshCodes_apart _ _), disablePhases_side,
    freeAdjudication_side]
  rfl

theorem alertShdn_side (r : Rail) (s : State) : seqSide (alertShdn r s) = seqSide s :=
  seqSide_of_apart (alertPorts_apart _ _ s)

theorem followDiscode_side (i : SeqIdx) (s : State) : seqSide (followDiscode i s) = seqSide s := by
  unfold followDiscode
  split
  · exact seqSide_of_apart (refreshCodes_apart _ _)
  · exact seqSide_of_apart (putCodes_apart _ _ _)

theorem restRail_side (r : Rail) (s : State) : seqSide (restRail r s) = seqSide s := driveHeld_side _ _ _

/-! ## What becomes of the rail in question -/

theorem enterDischarge_side (i : SeqIdx) (s : State) : seqSide (enterDischarge i s) =
    seqSide (s.upSeqRail i fun k => { k with state := .discharge, discode := true, xen := false }) := by
  unfold enterDischarge
  dsimp only
  split
  · exact disableLoop_side _ _
  · exact followDiscode_side _ _

theorem enterStop_side (i : SeqIdx) (r : Rail) (s : State) :
    seqSide (enterStop i r s) = seqSide (setRailState i .stop s) := alertShdn_side _ _

theorem reachOff_side (i : SeqIdx) (s : State) :
    seqSide (reachOff i s) = seqSide (s.upSeqRail i fun k => { k with state := .off, faultDown := false }) := by
  unfold reachOff
  refine seqSide_upSeqRail_congr ?_ i _
  split
  · exact restRail_side _ _
  · rfl

theorem regRail_some {i : SeqIdx} {r : Rail} (h : regRail i = some r) : r.val = i.val ∧ idxOf r = i := by
  unfold regRail at h
  split at h
  · cases h
    exact ⟨rfl, rfl⟩
  · cases h

theorem regRail_of_val {i : SeqIdx} {r : Rail} (h : r.val = i.val) : regRail i = some r := by
  unfold regRail
  rw [dif_pos (by omega)]
  exact congrArg some (Fin.ext h.symm)

theorem regRail_eq_none {i : SeqIdx} (h : 8 ≤ i.val) : regRail i = none := dif_neg (by omega)

theorem marginNone_side (r : Rail) (s : State) :
    seqSide (marginNone r s) = seqSide (s.upSeqRail (idxOf r) fun k => { k with msel := 0 }) := by
  unfold marginNone dropBook
  dsimp only
  split
  · rw [seqSide_of_apart (alertPorts_apart _ _ _)]
    split <;> rfl
  · split <;> rfl

/-- A rail that leaves ON has no margin selected (R273). -/
theorem leaveOn_side (i : SeqIdx) (s : State) :
    seqSide (leaveOn i s) = seqSide s ∨
      seqSide (leaveOn i s) = seqSide (s.upSeqRail i fun k => { k with msel := 0 }) := by
  unfold leaveOn
  split
  · rename_i r hr
    rw [← (regRail_some hr).2]
    split
    · exact .inl rfl
    · exact .inr (marginNone_side r s)
  · exact .inl rfl

/-! ## One rail moves -/

/-- Between s and t rail i has come to a record that `may` admits; no other rail, no group, and nothing of the
collector, the power, the set-up and the clocks has changed. -/
def RailMoves (i : SeqIdx) (s t : State) (may : SeqRail → Prop) : Prop :=
  ∃ k : SeqRail, seqSide t = seqSide (s.upSeq fun q => { q with rails := vput q.rails i k }) ∧ may k

theorem vput_self {α : Type} {n : Nat} (v : Vector α n) (i : Fin n) : vput v i v[i] = v :=
  Vector.set_getElem_self i.isLt

theorem vput_vput {α : Type} {n : Nat} (v : Vector α n) (i : Fin n) (x y : α) : vput (vput v i x) i y = vput v i y := by
  simp [vput]

section Moves
variable {i : SeqIdx} {s t : State} {may : SeqRail → Prop}

theorem railMoves_of_same (ht : seqSide t = seqSide s) (h : may s.seq.rails[i]) : RailMoves i s t may := by
  refine ⟨s.seq.rails[i], ?_, h⟩
  rw [ht, State.upSeq, vput_self]

theorem railMoves_stays (h : may s.seq.rails[i]) : RailMoves i s s may := railMoves_of_same rfl h

theorem railMoves_of_side {f : SeqRail → SeqRail} (ht : seqSide t = seqSide (s.upSeqRail i f))
    (h : may (f s.seq.rails[i])) : RailMoves i s t may := ⟨f s.seq.rails[i], ht, h⟩

theorem railMoves_upSeqRail {f : SeqRail → SeqRail} (h : may (f s.seq.rails[i])) :
    RailMoves i s (s.upSeqRail i f) may := railMoves_of_side rfl h

theorem RailMoves.trans {u : State} {most : SeqRail → Prop} (ht : RailMoves i s t may) (hu : RailMoves i t u most) :
    RailMoves i s u most := by
  obtain ⟨k, hside, -⟩ := ht
  obtain ⟨l, hside', hl⟩ := hu
  obtain ⟨hseq, hflt, hpwr, hregs, hclk⟩ := of_seqSide hside
  refine ⟨l, ?_, hl⟩
  rw [hside']
  simp only [seqSide, State.upSeq, hseq, hflt, hpwr, hregs, hclk, vput_vput]

/-- What follows without a part in the sequencer moves no rail. -/
theorem RailMoves.side {u : State} (ht : RailMoves i s t may) (hu : seqSide u = seqSide t) : RailMoves i s u may := by
  obtain ⟨k, hside, hk⟩ := ht
  exact ⟨k, hu.trans hside, hk⟩

theorem RailMoves.rail (h : RailMoves i s t may) : may t.seq.rails[i] := by
  obtain ⟨k, hside, hk⟩ := h
  rw [(of_seqSide hside).1]
  exact (vput_same s.seq.rails i k).symm ▸ hk

theorem RailMoves.other (h : RailMoves i s t may) {j : SeqIdx} (hj : j ≠ i) : t.seq.rails[j] = s.seq.rails[j] := by
  obtain ⟨k, hside, -⟩ := h
  rw [(of_seqSide hside).1]
  exact vput_other _ _ (Ne.symm hj)

theorem RailMoves.frame (h : RailMoves i s t may) : t.seq = { s.seq with rails := t.seq.rails } ∧ t.flt = s.flt ∧
    t.pwr = s.pwr ∧ t.regs = s.regs ∧ t.clk = s.clk := by
  obtain ⟨k, hside, -⟩ := h
  obtain ⟨hseq, hrest⟩ := of_seqSide hside
  exact ⟨by rw [hseq]; rfl, hrest⟩

theorem leaveOn_moves : RailMoves i s (leaveOn i s) fun _ => True :=
  (leaveOn_side i s).elim (fun h => railMoves_of_same h trivial) fun h => railMoves_of_side h trivial

theorem enterDischarge_moves (h : ∀ k : SeqRail, may { k with state := .discharge, discode := true, xen := false }) :
    RailMoves i s (enterDischarge i s) may :=
  railMoves_of_side (enterDischarge_side i s) (h _)

theorem enterStop_moves (r : Rail) (h : ∀ k : SeqRail, may { k with state := .stop }) :
    RailMoves i s (enterStop i r s) may :=
  railMoves_of_side (enterStop_side i r s) (h _)

end Moves

end Sys2Proof.Machine
end

section
/-!
The transitions of a rail (O18), and O19, which fails: the sequencer's rest can clear a bit of the gauge.
-/

namespace Sys2Proof.Machine

/-! ## The transitions of R254 -/

/-- Rail i, due to fall, takes the first step of its take-down: STOP where it is regulated, DISCHARGE otherwise. -/
def fallsTo (s : State) (i : SeqIdx) (b : RailState) : Prop :=
  dueToFall s i = true ∧ b = if i.val < 8 then .stop else .discharge

/-- The state in which one transition may leave rail i, with the conditions that R254 sets. -/
def mayBecome (s : State) (i : SeqIdx) : RailState → RailState → Prop
  | .off, b => b ∈ [.off, .wait, .failed, .blocked]
  | .wait, b => b = .wait ∨ b = .off ∨ (b = .delay ∧ freeToRise s i = true)
  | .delay, b => b ∈ [.delay, .wait, .off]
  | .ramp, b => b = .ramp ∨ b = .pgwait ∨ fallsTo s i b
  | .pgwait, b => b = .pgwait ∨ fallsTo s i b
  | .on, b => b = .on ∨ fallsTo s i b
  | .stop, b => b ∈ [.stop, .ramp, .discharge]
  | .discharge, b => b = .discharge
  | .hold, b => b = .hold
  | .failed, b => b = .failed ∨ (b = .off ∧ groupReq s i = false)
  | .blocked, b => b = .blocked ∨ (b = .off ∧ groupReq s i = false)

section Transitions
variable {i : SeqIdx} {s : State}

/-- The state that rail i stands in is one that it may keep. -/
theorem mayBecome_same : mayBecome s i s.seq.rails[i].state s.seq.rails[i].state := by
  cases s.seq.rails[i].state <;> simp [mayBecome]

theorem regRail_cases (i : SeqIdx) : (∃ r, regRail i = some r ∧ i.val < 8) ∨ (regRail i = none ∧ 8 ≤ i.val) := by
  unfold regRail
  split
  · exact .inl ⟨_, rfl, ‹_›⟩
  · exact .inr ⟨rfl, by omega⟩

/-- Rail i falls where it is not wanted and due to fall, and otherwise does as `rest`. -/
theorem fallOr_moves {t rest : State} {want : Bool} {may : SeqRail → Prop} (ht : RailMoves i s t fun _ => True)
    (hmay : ∀ k : SeqRail, fallsTo s i k.state → may k) (hrest : RailMoves i s rest may) :
    RailMoves i s (if !want && dueToFall s i then match regRail i with
      | some r => enterStop i r t
      | none => enterDischarge i s else rest) may := by
  split
  · rename_i hfall
    have hdue : dueToFall s i = true := (Bool.and_eq_true_iff.mp hfall).2
    rcases regRail_cases i with ⟨r, hr, hi⟩ | ⟨hr, hi⟩ <;> rw [hr]
    · exact ht.trans (enterStop_moves r fun _ => hmay _ ⟨hdue, (if_pos hi).symm⟩)
    · exact enterDischarge_moves fun _ => hmay _ ⟨hdue, (if_neg (by omega)).symm⟩
  · exact hrest

theorem railStep_moves (i : SeqIdx) (s : State) :
    RailMoves i s (railStep i s) fun k => mayBecome s i s.seq.rails[i].state k.state := by
  have hsame := railMoves_stays (may := fun k => mayBecome s i s.seq.rails[i].state k.state) mayBecome_same
  unfold railStep
  dsimp only
  generalize hq : s.seq.rails[i].state = q at hsame ⊢
  have hstay (f : SeqRail → SeqRail) (hf : (f s.seq.rails[i]).state = s.seq.rails[i].state) :
      RailMoves i s (s.upSeqRail i f) fun k => mayBecome s i q k.state :=
    railMoves_upSeqRail (by rw [hf, ← hq]; exact mayBecome_same)
  have hmove (f : SeqRail → SeqRail) (b : RailState) (hf : (f s.seq.rails[i]).state = b) (hb : mayBecome s i q b) :
      RailMoves i s (s.upSeqRail i f) fun k => mayBecome s i q k.state := railMoves_upSeqRail (by rwa [hf])
  cases q with
  | off =>
    dsimp only
    split
    · cases staysRequested s i
      · exact hstay _ rfl
      · exact hmove _ .wait rfl (by simp [mayBecome])
    split
    · exact hmove _ .failed rfl (by simp [mayBecome])
    · exact hmove _ .blocked rfl (by simp [mayBecome])
    split
    · exact hstay _ rfl
    split
    · exact hmove _ .wait rfl (by simp [mayBecome])
    · exact hsame
  | wait =>
    dsimp only
    split
    · split
      · split
        · exact hstay _ rfl
        · exact hsame
      · exact hstay _ rfl
    split
    · exact hmove _ .off rfl (by simp [mayBecome])
    split
    · exact railMoves_of_side (followDiscode_side i _) (.inr (.inr ⟨rfl, ‹_›⟩))
    · exact hsame
  | delay =>
    dsimp only
    split
    · exact hmove _ _ rfl (by split <;> simp [mayBecome])
    split
    · exact hmove _ .wait rfl (by simp [mayBecome])
    · exact hsame
  | ramp =>
    refine fallOr_moves (railMoves_stays trivial) (fun b hb => .inr (.inr hb)) ?_
    split
    · split
      · exact hmove _ .pgwait rfl (by simp [mayBecome])
      · exact hsame
    · exact hsame
  | pgwait => exact fallOr_moves (railMoves_stays trivial) (fun b hb => .inr hb) hsame
  | on => exact fallOr_moves leaveOn_moves (fun b hb => .inr hb) hsame
  | stop =>
    dsimp only
    split
    · split
      · exact railMoves_of_side (f := fun k => { k with state := .ramp }) rfl (by simp [mayBecome])
      · exact hsame
    split
    · split
      · exact enterDischarge_moves fun _ => by simp [mayBecome]
      · exact hsame
    · exact hsame
  | discharge => exact hsame
  | hold => exact hsame
  | failed =>
    dsimp only
    split
    · exact hsame
    · exact hmove _ .off rfl (.inr ⟨rfl, Bool.eq_false_iff.mpr ‹_›⟩)
  | blocked =>
    dsimp only
    split
    · exact hsame
    · exact hmove _ .off rfl (.inr ⟨rfl, Bool.eq_false_iff.mpr ‹_›⟩)

theorem freeToRise_iff : freeToRise s i = true ↔
    ∀ p ∈ s.cfg.deps i.val, s.seq.rails[(Fin.ofNat 16 p : SeqIdx)].state = .on := by
  simp only [freeToRise, List.all_eq_true, railState, beq_iff_eq]

section Table
variable {a b : RailState} (h : mayBecome s i a b)
include h

/-- The rows of R254's table. -/
theorem mayBecome_table : a = b ∨ (a, b) ∈ [(RailState.off, RailState.wait), (.off, .failed), (.off, .blocked),
    (.wait, .delay), (.wait, .off), (.delay, .wait), (.delay, .off), (.ramp, .pgwait), (.ramp, .stop),
    (.ramp, .discharge), (.pgwait, .stop), (.pgwait, .discharge), (.on, .stop), (.on, .discharge), (.stop, .ramp),
    (.stop, .discharge), (.failed, .off), (.blocked, .off)] := by
  have hfall (hb : fallsTo s i b) : b = .stop ∨ b = .discharge := by
    rw [hb.2]
    split
    · exact .inl rfl
    · exact .inr rfl
  cases a <;> simp [mayBecome, eq_comm (b := b)] at h ⊢ <;> tauto

theorem mayBecome_rises (ha : a = .wait) (hb : b = .delay) : freeToRise s i = true := by
  subst ha hb
  simpa [mayBecome] using h

theorem mayBecome_falls (ha : a = .ramp ∨ a = .pgwait ∨ a = .on) (hb : b = .stop ∨ b = .discharge) :
    fallsTo s i b := by
  rcases ha with rfl | rfl | rfl <;> rcases hb with rfl | rfl <;> simpa [mayBecome] using h

theorem mayBecome_ends (ha : a = .failed ∨ a = .blocked) (hb : b = .off) : groupReq s i = false := by
  subst hb
  rcases ha with rfl | rfl <;> simpa [mayBecome] using h

end Table

end Transitions

/-- Settles O18: whatever one transition does to a rail, it is one of those of `mayBecome`. -/
theorem railTransitions : Obligations.RailTransitions := by
  unfold Obligations.RailTransitions
  intro s i
  have hmoves := railStep_moves i s
  obtain ⟨hseq, -, -, hregs, -⟩ := hmoves.frame
  have hmay := hmoves.rail
  refine ⟨fun j => hmoves.other, by rw [hseq], hregs, mayBecome_table hmay,
    fun ha hb => freeToRise_iff.mp (mayBecome_rises hmay ha hb), fun ha hb => ?_, mayBecome_ends hmay⟩
  · obtain ⟨hdue, hfirst⟩ := mayBecome_falls hmay ha hb
    refine ⟨hdue, ?_⟩
    rw [hfirst]
    by_cases hi : i.val < 8 <;> simp [hi]

/-! ## The sequencer's rest reaches the gauge (R293, R313) -/

/-- A power-fail take-down that is over, with a gauge that has seen a new pack since its last record. -/
def spentWithNewPack : State :=
  { State.reset with
    pwr := { State.reset.pwr with on := 0x3FFF, phase := .run }
    ldg := { State.reset.ldg with src := .down }
    gau := { State.reset.gau with newPack := true } }

/-- The end of the take-down commits the gauge's record, and with it the gauge's note of the new pack is cleared. -/
theorem seqRest_spentWithNewPack : (seqRest spentWithNewPack).gau.newPack = false := by decide +kernel

/-- Refutes O19: the sequencer's rest is said to leave the gauge, but where it ends a power-fail take-down it commits
the gauge's record (R293, R313), which clears the note of a new pack. -/
theorem not_sequencerRest : ¬ Obligations.SequencerRest := by
  unfold Obligations.SequencerRest
  rintro ⟨-, hrest⟩
  obtain ⟨-, -, -, -, -, -, -, -, -, -, -, -, -, -, -, hgau, -⟩ := hrest spentWithNewPack
  have hcleared := seqRest_spentWithNewPack
  rw [hgau] at hcleared
  exact absurd hcleared (by decide)

end Sys2Proof.Machine
end

section
/-!
Requests of groups (O16, O17): what SEQ_GROUP, SEQ_GCMD, START and the EN ball do to the groups and to the rails of a
group before the sequencer comes to rest.
-/

namespace Sys2Proof.Machine

/-! ## Masks -/

/-- The sum behind a mask: it stays below the next power and has the bits that p names. -/
theorem maskSum_testBit (n : Nat) (p : Fin n → Bool) :
    let x := (fins n).foldl (fun acc i => if p i then acc + 2 ^ i.val else acc) 0
    x < 2 ^ n ∧ ∀ j : Fin n, x.testBit j.val = p j := by
  induction n with
  | zero => exact ⟨Nat.one_pos, fun j => j.elim0⟩
  | succ n ih =>
    have hfins : fins (n + 1) = (fins n).map Fin.castSucc ++ [Fin.last n] := by
      rw [fins, List.ofFn_succ_last, fins, List.map_ofFn]
      rfl
    obtain ⟨hlt, hbits⟩ := ih (p ∘ Fin.castSucc)
    simp only [hfins, List.foldl_append, List.foldl_map, List.foldl_cons, List.foldl_nil, Fin.val_last,
      Fin.val_castSucc]
    simp only [Function.comp_apply] at hlt hbits
    generalize (fins n).foldl (fun acc i => if p i.castSucc then acc + 2 ^ i.val else acc) 0 = x at hlt hbits ⊢
    have htop : x.testBit n = false := Nat.testBit_lt_two_pow hlt
    refine ⟨?_, fun j => ?_⟩
    · rw [Nat.pow_succ]
      split <;> omega
    · induction j using Fin.lastCases with
      | last =>
        cases hp : p (Fin.last n)
        · simpa using htop
        · simp [Nat.add_comm x, Nat.testBit_two_pow_add_eq, htop]
      | cast j =>
        cases p (Fin.last n)
        · exact hbits j
        · simpa [Nat.add_comm x, Nat.testBit_two_pow_add_gt j.isLt] using hbits j

theorem hasBit_maskOf {n : Nat} (p : Fin n → Bool) (j : Fin n) : hasBit (maskOf n p) j.val = p j := by
  obtain ⟨hlt, hbits⟩ := maskSum_testBit n p
  rw [hasBit, maskOf, BitVec.getLsbD_ofNat, hbits]
  simp

theorem ne_zero_iff_hasBit {n : Nat} (x : BitVec n) : x ≠ 0 ↔ ∃ j : Fin n, hasBit x j.val = true := by
  refine ⟨fun h => ?_, fun ⟨j, hj⟩ h => by simp [h, hasBit] at hj⟩
  by_contra hnone
  refine h (BitVec.eq_of_getLsbD_eq fun i hi => ?_)
  exact (Bool.eq_false_iff.mpr fun hbit => hnone ⟨⟨i, hi⟩, hbit⟩).trans BitVec.getLsbD_zero.symm

/-! ## Runs over several groups or rails -/

theorem each_upSeqRail (is : List SeqIdx) (f : SeqIdx → SeqRail → SeqRail) (s : State) :
    State.each is (fun i => State.upSeqRail i (f i)) s = s.upSeq fun q => { q with rails := modEach is f q.rails } := by
  induction is generalizing s with
  | nil => rfl
  | cons i is ih => exact ih (s.upSeqRail i (f i))

theorem each_filter {α : Type} (xs : List α) (p : α → Bool) (f : α → State → State) (s : State) :
    State.each xs (fun x u => if p x = true then f x u else u) s = State.each (xs.filter p) f s :=
  List.foldl_filter.symm

/-- A property that each step keeps, a run keeps. -/
theorem each_preserves {α : Type} (xs : List α) (f : α → State → State) (P : State → Prop) {s : State} (hs : P s)
    (h : ∀ x u, P u → P (f x u)) : P (State.each xs f s) := by
  unfold State.each
  induction xs generalizing s with
  | nil => exact hs
  | cons x xs ih => exact ih (h x s hs)

/-- Steps that each change one group change all of theirs in a run. -/
theorem each_groups (js : List Group) {f : Group → State → State} {g : SeqGroup → SeqGroup}
    (h : ∀ j u, (f j u).seq.groups = vmod u.seq.groups j g) (s : State) :
    (State.each js f s).seq.groups = modEach js (fun _ => g) s.seq.groups := by
  unfold State.each modEach
  induction js generalizing s with
  | nil => rfl
  | cons j js ih => rw [List.foldl_cons, List.foldl_cons, ih, h]

/-! ## Requests of one group (R252, R254, R258, R267) -/

/-- A group that is requested off: its retries end (R258). -/
def SeqGroup.askedOff (k : SeqGroup) : SeqGroup :=
  if k.req = true then { k with req := false, retrying := false, retryc := 0 } else k

/-- A group that is requested on: it has failed no longer (R254). -/
def SeqGroup.askedOn (k : SeqGroup) : SeqGroup :=
  if k.req = true then k else { k with req := true, failed := false }

theorem SeqGroup.askedOff_on {k : SeqGroup} (h : k.req = true) :
    k.askedOff = { k with req := false, retrying := false, retryc := 0 } := if_pos h

theorem SeqGroup.askedOff_off {k : SeqGroup} (h : ¬ k.req = true) : k.askedOff = k := if_neg h

theorem SeqGroup.askedOn_on {k : SeqGroup} (h : k.req = true) : k.askedOn = k := if_pos h

theorem SeqGroup.askedOn_off {k : SeqGroup} (h : ¬ k.req = true) :
    k.askedOn = { k with req := true, failed := false } := if_neg h

@[simp] theorem SeqGroup.askedOff_req (k : SeqGroup) : k.askedOff.req = false := by
  unfold SeqGroup.askedOff
  split
  · rfl
  · exact Bool.eq_false_iff.mpr ‹_›

@[simp] theorem SeqGroup.askedOn_req (k : SeqGroup) : k.askedOn.req = true := by
  unfold SeqGroup.askedOn
  split
  · assumption
  · rfl

/-- Requests have been taken between s and t: only groups and rails have changed, and no rail's state, retries or enable
pin. -/
def Requested (s t : State) : Prop :=
  t = { s with seq := { s.seq with groups := t.seq.groups, rails := t.seq.rails } } ∧
    ∀ i : SeqIdx, t.seq.rails[i].state = s.seq.rails[i].state ∧ t.seq.rails[i].retryc = s.seq.rails[i].retryc ∧
      t.seq.rails[i].xen = s.seq.rails[i].xen

theorem Requested.refl (s : State) : Requested s s := ⟨rfl, fun _ => ⟨rfl, rfl, rfl⟩⟩

theorem Requested.trans {s t u : State} (h : Requested s t) (k : Requested t u) : Requested s u := by
  obtain ⟨ht, hrails⟩ := h
  obtain ⟨hu, krails⟩ := k
  refine ⟨by rw [hu, ht], fun i => ?_⟩
  obtain ⟨h1, h2, h3⟩ := hrails i
  obtain ⟨k1, k2, k3⟩ := krails i
  exact ⟨k1.trans h1, k2.trans h2, k3.trans h3⟩

theorem each_requested (js : List Group) {f : Group → State → State} (h : ∀ j u, Requested u (f j u)) (s : State) :
    Requested s (State.each js f s) :=
  each_preserves js f (Requested s) (Requested.refl s) fun j u hu => hu.trans (h j u)

section One
variable (j : Group) (s : State)

theorem requestOff_eq : requestOff j s = if s.seq.groups[j].req = true then
      s.upSeq fun q => { q with
        groups := vmod q.groups j fun k => { k with req := false, retrying := false, retryc := 0 }
        rails := modEach (fins 16) (endHold s.cfg j) q.rails }
    else s := by
  unfold requestOff
  cases s.seq.groups[j].req
  · rfl
  · exact each_upSeqRail (fins 16) (endHold s.cfg j) _

/-- A rail of group j turns (R267). -/
def SeqRail.lifted (k : SeqRail) : SeqRail := { k with down := false, faultDown := false }

theorem requestOn_eq : requestOn j s = if s.seq.groups[j].req = true then s
    else s.upSeq fun q => { q with groups := vmod q.groups j fun k => { k with req := true, failed := false }
                                   rails := modEach ((fins 16).filter fun i => groupOf s.cfg i = j)
                                     (fun _ => SeqRail.lifted) q.rails } := by
  unfold requestOn
  split
  · rfl
  · exact each_upSeqRail _ (fun _ => SeqRail.lifted) _

theorem requestOff_groups : (requestOff j s).seq.groups = vmod s.seq.groups j SeqGroup.askedOff := by
  rw [requestOff_eq]
  split
  · exact vmod_congr (f := fun k => { k with req := false, retrying := false, retryc := 0 }) (g := SeqGroup.askedOff)
      (SeqGroup.askedOff_on ‹_›).symm
  · exact (vmod_id (SeqGroup.askedOff_off ‹_›)).symm

theorem requestOn_groups : (requestOn j s).seq.groups = vmod s.seq.groups j SeqGroup.askedOn := by
  rw [requestOn_eq]
  split
  · exact (vmod_id (SeqGroup.askedOn_on ‹_›)).symm
  · exact vmod_congr (f := fun k => { k with req := true, failed := false }) (g := SeqGroup.askedOn)
      (SeqGroup.askedOn_off ‹_›).symm

theorem endHold_keeps (g : Setup) (i : SeqIdx) (k : SeqRail) : (endHold g j i k).state = k.state ∧
    (endHold g j i k).retryc = k.retryc ∧ (endHold g j i k).xen = k.xen := by
  unfold endHold
  split <;> split <;> exact ⟨rfl, rfl, rfl⟩

theorem requestOff_requested : Requested s (requestOff j s) := by
  rw [requestOff_eq]
  split
  · refine ⟨rfl, fun i => ?_⟩
    show SeqRail.state (modEach _ _ _)[i] = _ ∧ SeqRail.retryc (modEach _ _ _)[i] = _ ∧
      SeqRail.xen (modEach _ _ _)[i] = _
    rw [modEach_get (nodup_fins 16), if_pos (mem_fins i)]
    exact endHold_keeps j s.cfg i _
  · exact Requested.refl s

/-- What an on request makes of each rail: those of the group turn (R267). -/
theorem requestOn_rail (i : SeqIdx) : (requestOn j s).seq.rails[i] =
    if s.seq.groups[j].req = false ∧ groupOf s.cfg i = j then s.seq.rails[i].lifted else s.seq.rails[i] := by
  rw [requestOn_eq]
  cases s.seq.groups[j].req
  · exact (modEach_get ((nodup_fins 16).filter _) _ _ i).trans (by simp [mem_fins])
  · rfl

theorem requestOn_requested : Requested s (requestOn j s) := by
  refine ⟨?_, fun i => ?_⟩
  · rw [requestOn_eq]
    split <;> rfl
  · rw [requestOn_rail]
    split <;> exact ⟨rfl, rfl, rfl⟩

end One

/-! ## Requests of several groups -/

section Several
variable {js : List Group} (hjs : js.Nodup) (s : State)
include hjs

theorem each_requestOff_group (j : Group) : (State.each js requestOff s).seq.groups[j] =
    if j ∈ js then s.seq.groups[j].askedOff else s.seq.groups[j] := by
  rw [each_groups js requestOff_groups, modEach_get hjs]

theorem each_requestOn_group (j : Group) : (State.each js requestOn s).seq.groups[j] =
    if j ∈ js then s.seq.groups[j].askedOn else s.seq.groups[j] := by
  rw [each_groups js requestOn_groups, modEach_get hjs]

end Several

/-- Rail i is not marked for a take-down. -/
def notFalling (i : SeqIdx) (s : State) : Prop := s.seq.rails[i].down = false ∧ s.seq.rails[i].faultDown = false

theorem cfg_of_requested {s t : State} (h : Requested s t) : t.cfg = s.cfg := by rw [h.1]; rfl

theorem requestOn_notFalling {i : SeqIdx} (j : Group) {s : State} (h : notFalling i s) :
    notFalling i (requestOn j s) := by
  rw [notFalling, requestOn_rail]
  split
  · exact ⟨rfl, rfl⟩
  · exact h

/-- The rails of a group that comes to be requested turn (R267). -/
theorem each_requestOn_notFalling {i : SeqIdx} {js : List Group} {s : State} (hmem : groupOf s.cfg i ∈ js)
    (hreq : s.seq.groups[groupOf s.cfg i].req = false) : notFalling i (State.each js requestOn s) := by
  unfold State.each
  induction js generalizing s with
  | nil => exact absurd hmem List.not_mem_nil
  | cons j js ih =>
    rw [List.foldl_cons]
    by_cases hj : groupOf s.cfg i = j
    · refine each_preserves js requestOn (notFalling i) ?_ fun j u => requestOn_notFalling j
      rw [notFalling, requestOn_rail, if_pos ⟨hj ▸ hreq, hj⟩]
      exact ⟨rfl, rfl⟩
    · have hcfg : (requestOn j s).cfg = s.cfg := cfg_of_requested (requestOn_requested j s)
      refine ih ?_ ?_
      · rw [hcfg]
        exact (List.mem_cons.mp hmem).resolve_left hj
      · simp only [hcfg]
        rw [requestOn_groups, vmod_other _ _ (Ne.symm hj), hreq]

/-! ## SEQ_GROUP and SEQ_GCMD (R253) -/

/-- An accepted request before the sequencer comes to rest: the off requests, then the on requests. -/
def requestsTaken (on off : BitVec 8) (s : State) : State :=
  State.each ((fins 8).filter fun j => hasBit on j.val) requestOn
    (State.each ((fins 8).filter fun j => hasBit off j.val) requestOff s)

section Taken
variable (on off : BitVec 8) (s : State)

theorem applyRequests_eq : applyRequests on off s = seqRest (requestsTaken on off s) := rfl

theorem requestsTaken_requested : Requested s (requestsTaken on off s) :=
  (each_requested _ requestOff_requested s).trans (each_requested _ requestOn_requested _)

theorem requestsTaken_group (j : Group) : (requestsTaken on off s).seq.groups[j] =
    (fun k : SeqGroup => if hasBit on j.val = true then k.askedOn else k)
      (if hasBit off j.val = true then s.seq.groups[j].askedOff else s.seq.groups[j]) := by
  rw [requestsTaken, each_requestOn_group ((nodup_fins 8).filter _), each_requestOff_group ((nodup_fins 8).filter _)]
  simp only [mem_filter_fins]

theorem requestsTaken_group_apart {j : Group} (h : on &&& off = 0) : (requestsTaken on off s).seq.groups[j] =
    if hasBit off j.val = true ∧ s.seq.groups[j].req = true then
      { s.seq.groups[j] with req := false, retrying := false, retryc := 0 }
    else if hasBit on j.val = true ∧ s.seq.groups[j].req = false then
      { s.seq.groups[j] with req := true, failed := false }
    else s.seq.groups[j] := by
  have hapart : hasBit on j.val = true → hasBit off j.val = false := by
    intro hon
    have hand : hasBit (on &&& off) j.val = false := by rw [h]; simp [hasBit]
    rw [hasBit, BitVec.getLsbD_and] at hand
    exact (Bool.and_eq_false_imp.mp hand) hon
  rw [requestsTaken_group]
  generalize s.seq.groups[j] = k
  cases hon : hasBit on j.val <;> cases hoff : hasBit off j.val <;> cases hreq : k.req <;>
    simp_all [SeqGroup.askedOn, SeqGroup.askedOff]

theorem requestsTaken_notFalling {i : SeqIdx} (hon : hasBit on (groupOf s.cfg i).val = true)
    (hreq : s.seq.groups[groupOf s.cfg i].req = false) : notFalling i (requestsTaken on off s) := by
  have hcfg : (State.each ((fins 8).filter fun j => hasBit off j.val) requestOff s).cfg = s.cfg :=
    cfg_of_requested (each_requested _ requestOff_requested s)
  refine each_requestOn_notFalling ?_ ?_
  · rw [hcfg]
    exact (mem_filter_fins _ _).mpr hon
  · simp only [hcfg]
    rw [each_requestOff_group ((nodup_fins 8).filter _)]
    split
    · exact SeqGroup.askedOff_req _
    · exact hreq

/-- The checks of a group request (R253). -/
theorem groupCheck_eq : groupCheck s on off =
    if on &&& off ≠ 0 then some 0x0103
    else if (∃ j : Group, s.cfg.enpin j.val = true ∧ hasBit (on ||| off) j.val = true) then some 0x0105
    else if on ≠ 0 ∧ (s.seq.shutoff = true ∨ s.flt.classA = true) then some 0x0105
    else if on &&& s.seq.pfmem ≠ 0 then some 0x0106
    else none := by
  have hpins : ((on ||| off) &&& (maskOf 8 fun j => s.cfg.enpin j.val) != 0) = true ↔
      ∃ j : Group, s.cfg.enpin j.val = true ∧ hasBit (on ||| off) j.val = true := by
    rw [bne_iff_ne, ne_zero_iff_hasBit]
    refine exists_congr fun j => ?_
    rw [hasBit, BitVec.getLsbD_and, Bool.and_eq_true, ← hasBit, ← hasBit, hasBit_maskOf, and_comm]
  have hclosed : (on != 0 && (s.seq.shutoff || s.flt.classA)) = true ↔
      on ≠ 0 ∧ (s.seq.shutoff = true ∨ s.flt.classA = true) := by
    rw [Bool.and_eq_true, Bool.or_eq_true, bne_iff_ne]
  exact if_congr bne_iff_ne rfl (if_congr hpins rfl (if_congr hclosed rfl (if_congr bne_iff_ne rfl rfl)))

end Taken

section Requests
variable {on off : BitVec 8} {s : State}

theorem exec_seqGroup {q : Ring} {d : Desc} (hr : ready s q 0x39 = some d) (hon : d.pf 0 8 = on.toNat)
    (hoff : d.pf 8 8 = off.toNat) : exec (.seqGroup q) s = .next ((groupCheck s on off).elim
      (complete q 0 0 (seqRest (requestsTaken on off s))) fun c => complete q c 0 s) := by
  rw [exec_of_ready rfl hr]
  dsimp only
  rw [hon, hoff, BitVec.ofNat_toNat, BitVec.ofNat_toNat, BitVec.setWidth_eq, BitVec.setWidth_eq, applyRequests_eq]
  cases groupCheck s on off <;> dsimp only [Option.elim]

/-- The two bytes of a request word. -/
theorem requestWord_fields {w : Word} (hw : w.toNat = on.toNat + 256 * off.toNat) :
    BitVec.ofNat 8 (bitsOf w 0 8) = on ∧ BitVec.ofNat 8 (bitsOf w 8 8) = off ∧ w &&& 0xFFFF0000 = 0 := by
  have hon := on.isLt
  have hoff := off.isLt
  refine ⟨BitVec.eq_of_toNat_eq ?_, BitVec.eq_of_toNat_eq ?_,
    (and_highHalf_eq_zero_iff w).mpr (BitVec.eq_of_toNat_eq ?_)⟩
  · rw [BitVec.toNat_ofNat, bitsOf, hw]
    omega
  · rw [BitVec.toNat_ofNat, bitsOf, hw]
    omega
  · rw [BitVec.extractLsb'_toNat, hw, Nat.shiftRight_eq_div_pow]
    show _ = 0
    omega

theorem exec_seqGcmd {m : Master} {w : Word} (hp : WritesPass m s) (hl : s.regs.lock = false)
    (hw : w.toNat = on.toNat + 256 * off.toNat) : exec (.seqGcmd m w) s = .next ((groupCheck s on off).elim
      (seqRest (requestsTaken on off s)) fun c => rejectWrite m 0x7010 c s) := by
  obtain ⟨hon, hoff, hclear⟩ := requestWord_fields hw
  show Host.Outcome.next (writeGcmd m w s) = _
  rw [writeGcmd, regWrite_pass _ _ hp (fun _ => hl) hclear]
  dsimp only
  rw [hon, hoff, applyRequests_eq]
  cases groupCheck s on off <;> dsimp only [Option.elim]

end Requests

/-- Settles O16: the request's checks are those of `groupCheck`, and an accepted one takes its off and its on requests
in turn, which have no group in common. -/
theorem groupRequests : Obligations.GroupRequests := by
  unfold Obligations.GroupRequests
  intro s on off code done
  have hcode : groupCheck s on off = code := groupCheck_eq on off s
  have hdone (hnone : code = none) : done (requestsTaken on off s) := by
    obtain ⟨hframe, hrails⟩ := requestsTaken_requested on off s
    have hapart : on &&& off = 0 := by
      by_contra hne
      rw [show code = some 0x0103 from if_pos hne] at hnone
      cases hnone
    refine ⟨hframe, fun j => requestsTaken_group_apart on off s hapart, fun i => ?_⟩
    obtain ⟨hstate, hretryc, hxen⟩ := hrails i
    exact ⟨hstate, hretryc, hxen, requestsTaken_notFalling on off s⟩
  clear_value code done
  refine ⟨fun q d hr hon hoff => ⟨_, exec_seqGroup hr hon hoff, ?_⟩, fun m w hp hl hw => ⟨_, exec_seqGcmd hp hl hw, ?_⟩⟩
  · rw [hcode]
    cases code with
    | some c =>
      obtain ⟨e, he, -⟩ := ready_some hr
      exact complete_ends c 0 he
    | none => exact ⟨requestsTaken on off s, hdone rfl, Option.elim_none ..⟩
  · rw [hcode]
    cases code with
    | some c => exact reject_rejected m 0x7010 c s
    | none => exact ⟨requestsTaken on off s, hdone rfl, Option.elim_none ..⟩

end Sys2Proof.Machine
end

section
/-!
START and the EN ball (O17): which groups they request, as runs of plain requests.
-/

namespace Sys2Proof.Machine

/-! ## Runs of requests that are open -/

theorem mayRequestOn_requested {s t : State} (h : Requested s t) (j : Group) : mayRequestOn t j = mayRequestOn s j := by
  rw [h.1]
  rfl

/-- A run that requests on the groups that may be, requests on those that may be at its start: no request closes
another. -/
theorem each_mayRequestOn (js : List Group) (s : State) :
    State.each js (fun j u => if mayRequestOn u j = true then requestOn j u else u) s =
      State.each (js.filter (mayRequestOn s)) requestOn s := by
  rw [← each_filter]
  refine each_congr (P := Requested s) (fun j u hu => by rw [mayRequestOn_requested hu]) (fun j u hu => ?_) js s
    (.refl s)
  split
  · exact hu.trans (requestOn_requested j u)
  · exact hu

/-- START requests the groups that stand to it and may be requested (R252). -/
theorem startGroups_eq (s : State) : startGroups s = State.each (((fins 8).filter fun j => !s.cfg.enpin j.val &&
    (usedRails s.cfg).any fun i => groupOf s.cfg i = j).filter (mayRequestOn s)) requestOn s :=
  each_mayRequestOn _ s

theorem followEn_high {s : State} (which : Group → Bool) (h : s.seq.en = true) : followEn which s =
    State.each (((fins 8).filter which).filter (mayRequestOn s)) requestOn s := by
  rw [← each_mayRequestOn]
  refine each_congr (P := fun u => u.seq.en = true) (fun j u hu => if_pos hu) (fun j u hu => ?_) _ s h
  split
  · rw [(requestOn_requested j u).1]
    exact hu
  · exact hu

theorem followEn_low {s : State} (which : Group → Bool) (h : s.seq.en = false) : followEn which s =
    State.each ((fins 8).filter which) requestOff s := by
  refine each_congr (P := fun u => u.seq.en = false) (fun j u hu => ?_) (fun j u hu => ?_) _ s h
  · rw [hu]
    rfl
  · rw [(requestOff_requested j u).1]
    exact hu

theorem each_requestOn_req {js : List Group} (hjs : js.Nodup) (s : State) (j : Group) :
    (State.each js requestOn s).seq.groups[j].req = (s.seq.groups[j].req || decide (j ∈ js)) := by
  rw [each_requestOn_group hjs]
  by_cases hj : j ∈ js <;> simp [hj]

theorem startGroups_req {s : State} (hopen : ¬ (s.seq.shutoff = true ∨ s.flt.classA = true)) (j : Group) :
    (startGroups s).seq.groups[j].req = (s.seq.groups[j].req || (!s.cfg.enpin j.val && !hasBit s.seq.pfmem j.val &&
      decide (∃ i : SeqIdx, s.cfg.use i.val = true ∧ groupOf s.cfg i = j))) := by
  obtain ⟨hshut, hclassA⟩ : s.seq.shutoff = false ∧ s.flt.classA = false := by simpa using hopen
  rw [startGroups_eq, each_requestOn_req (((nodup_fins 8).filter _).filter _)]
  congr 1
  rw [Bool.eq_iff_iff]
  simp only [List.mem_filter, mem_fins, mayRequestOn, hshut, hclassA, usedRails, Bool.and_eq_true, List.any_eq_true,
    decide_eq_true_eq, true_and, Bool.not_false]
  tauto

theorem endWait_eq (s : State) : endWait s = { s with
    pwr := { s.pwr with phase := if s.pwr.phase = .waiting then .sequencing else s.pwr.phase } } := by
  unfold endWait
  by_cases h : s.pwr.phase = .waiting
  · simp [h, State.upPwr]
  · simp [h]

/-! ## START (R252, R485) -/

/-- The wait of step 9 has begun, and START and the EN ball act. -/
def requestsAct (s : State) : Prop := s.pwr.phase = .waiting ∨ s.pwr.phase = .sequencing ∨ s.pwr.phase = .run

/-- No group may be requested on. -/
def requestsClosed (s : State) : Prop := s.seq.shutoff = true ∨ s.flt.classA = true

section Start
variable {s : State} {q : Ring} {d : Desc} (hr : ready s q 0x01 = some d)

theorem actStart_closed (hclosed : requestsClosed s) : actStart q s = complete q 0x0105 0 s :=
  if_pos (Bool.or_eq_true_iff.mpr hclosed)

theorem actStart_open (hopen : ¬ requestsClosed s) :
    actStart q s = complete q 0 0 (seqRest (endWait (startGroups s))) :=
  if_neg fun h => hopen (Bool.or_eq_true_iff.mp h)

include hr

theorem exec_start_halted (hp : s.pwr.phase = .halted) : exec (.start q) s = .next (complete q 0x0105 0 s) := by
  rw [exec_of_ready rfl hr, hp]
  rfl

theorem exec_start_acts (hacts : requestsAct s) : exec (.start q) s = .next (actStart q s) := by
  rw [exec_of_ready rfl hr]
  rcases hacts with hp | hp | hp <;> rw [hp]

theorem exec_start_early (hacts : ¬ requestsAct s) (hhalt : s.pwr.phase ≠ .halted) : exec (.start q) s = .next (
    if s.pwr.startHeld.isSome then s else if s.seq.shutoff || s.flt.classA then complete q 0x0105 0 s
      else { s with pwr := { s.pwr with startHeld := some q } }) := by
  obtain ⟨hwaiting, hsequencing, hrun⟩ : s.pwr.phase ≠ .waiting ∧ s.pwr.phase ≠ .sequencing ∧ s.pwr.phase ≠ .run := by
    simpa [requestsAct] using hacts
  rw [exec_of_ready rfl hr]
  dsimp only
  split
  · exact absurd ‹_› hhalt
  · exact absurd ‹_› hwaiting
  · exact absurd ‹_› hsequencing
  · exact absurd ‹_› hrun
  · rfl

end Start

/-- What a START that acts leaves for the sequencer to come to rest from (R252, R485). -/
theorem started_state (s : State) : ∃ v, endWait (startGroups s) = v ∧ v = { s with
    pwr := { s.pwr with phase := if s.pwr.phase = .waiting then .sequencing else s.pwr.phase }
    seq := { s.seq with groups := v.seq.groups, rails := v.seq.rails } } ∧ v.seq = (startGroups s).seq := by
  have hreq : Requested s (startGroups s) := by
    rw [startGroups_eq]
    exact each_requested _ requestOn_requested s
  refine ⟨_, rfl, ?_, ?_⟩
  · rw [endWait_eq, hreq.1]
  · rw [endWait_eq]

/-! ## The EN ball (R252) -/

section Ball
variable {s : State}

/-- The level of the EN ball is kept. -/
def enKept (level : Bool) (s : State) : State := s.upSeq fun q => { q with en := level }

theorem exec_enPinChange_kept (level : Bool)
    (h : domOn s pdSeq = false ∨ s.pwr.enIgnored = true ∨ ¬ requestsAct s) :
    exec (.enPinChange level) s = .next (enKept level s) := by
  show Host.Outcome.next (if !domOn s pdSeq || s.pwr.enIgnored then enKept level s else
    match s.pwr.phase with
    | .waiting => _ | .sequencing => _ | .run => _ | _ => enKept level s) = _
  rcases h with h | h | h
  · rw [h]
    rfl
  · rw [h, Bool.or_true]
    rfl
  · obtain ⟨hwaiting, hsequencing, hrun⟩ : s.pwr.phase ≠ .waiting ∧ s.pwr.phase ≠ .sequencing ∧ s.pwr.phase ≠ .run := by
      simpa [requestsAct] using h
    split
    · rfl
    split
    · exact absurd ‹_› hwaiting
    · exact absurd ‹_› hsequencing
    · exact absurd ‹_› hrun
    · rfl

/-- What the ball's groups follow from: a high level has ended the wait (R485). -/
def enHeard (level : Bool) (s : State) : State := if level = true then endWait (enKept level s) else enKept level s

theorem enHeard_eq (level : Bool) (s : State) : enHeard level s = { s with
    pwr := { s.pwr with phase := if s.pwr.phase = .waiting ∧ level = true then .sequencing else s.pwr.phase }
    seq := { s.seq with en := level } } := by
  unfold enHeard
  cases level
  · rw [if_neg Bool.false_ne_true, if_neg fun h => Bool.false_ne_true h.2]
    rfl
  · rw [if_pos rfl, endWait_eq, if_congr (and_iff_left rfl) rfl rfl]
    rfl

theorem exec_enPinChange_acts (level : Bool) (hdom : domOn s pdSeq = true) (hen : s.pwr.enIgnored = false)
    (hacts : requestsAct s) :
    exec (.enPinChange level) s = .next (seqRest (followEn (enGroups (enKept level s)) (enHeard level s))) := by
  have hrunning (hp : s.pwr.phase ≠ .waiting) : enHeard level s = enKept level s := by
    rw [enHeard_eq, if_neg fun h => hp h.1]
    rfl
  show Host.Outcome.next (if !domOn s pdSeq || s.pwr.enIgnored then enKept level s else
    match s.pwr.phase with
    | .waiting => seqRest (followEn (enGroups (enKept level s)) (enHeard level s))
    | .sequencing => seqRest (followEn (enGroups (enKept level s)) (enKept level s))
    | .run => seqRest (followEn (enGroups (enKept level s)) (enKept level s))
    | _ => enKept level s) = _
  rw [hdom, hen, if_neg (by simp)]
  rcases hacts with hp | hp | hp
  · rw [hp]
  · rw [hrunning (by simp [hp]), hp]
  · rw [hrunning (by simp [hp]), hp]

end Ball

section Follow
variable (which : Group → Bool) (s : State)

theorem followEn_requested : Requested s (followEn which s) := by
  cases hen : s.seq.en
  · rw [followEn_low which hen]
    exact each_requested _ requestOff_requested s
  · rw [followEn_high which hen]
    exact each_requested _ requestOn_requested s

/-- A group that follows the ball is requested off at its low level, and on at its high level where it may be. -/
theorem followEn_req (j : Group) : (followEn which s).seq.groups[j].req =
    if which j = true then if s.seq.en = true then s.seq.groups[j].req || mayRequestOn s j else false
    else s.seq.groups[j].req := by
  cases hen : s.seq.en
  · rw [followEn_low which hen, each_requestOff_group ((nodup_fins 8).filter _)]
    cases hw : which j <;> simp [mem_fins, hw]
  · rw [followEn_high which hen, each_requestOn_req (((nodup_fins 8).filter _).filter _)]
    cases hw : which j <;> simp [mem_fins, hw]

end Follow

section Clauses
variable (s : State) (q : Ring) (d : Desc) (level : Bool)

theorem start_clause (hr : ready s q 0x01 = some d) : ∃ t, exec (.start q) s = .next t ∧
    (s.pwr.phase = .halted ∨ (requestsAct s ∧ requestsClosed s) → Ends q 0x0105 0 s t) ∧
    (¬ requestsAct s → s.pwr.phase ≠ .halted → s.pwr.startHeld = none → ¬ requestsClosed s →
      t = { s with pwr := { s.pwr with startHeld := some q } }) ∧
    (requestsAct s → ¬ requestsClosed s → t = complete q 0 0 (seqRest (endWait (startGroups s)))) := by
  obtain ⟨e, he, -⟩ := ready_some hr
  by_cases hhalt : s.pwr.phase = .halted
  · refine ⟨_, exec_start_halted hr hhalt, fun _ => complete_ends _ 0 he, fun _ h => absurd hhalt h, fun hacts => ?_⟩
    simp [requestsAct, hhalt] at hacts
  by_cases hacts : requestsAct s
  · refine ⟨_, exec_start_acts hr hacts, fun h => ?_, fun h => absurd hacts h, fun _ => actStart_open⟩
    rw [actStart_closed (h.resolve_left hhalt).2]
    exact complete_ends _ 0 he
  · refine ⟨_, exec_start_early hr hacts hhalt, fun h => absurd (h.resolve_left hhalt).1 hacts,
      fun _ _ hheld hopen => ?_, fun h => absurd h hacts⟩
    rw [hheld]
    exact if_neg fun h => hopen (Bool.or_eq_true_iff.mp h)

theorem enPinChange_clause : ∃ t, exec (.enPinChange level) s = .next t ∧
    (domOn s pdSeq = false ∨ s.pwr.enIgnored = true ∨ ¬ requestsAct s → t = enKept level s) ∧
    (domOn s pdSeq = true → s.pwr.enIgnored = false → requestsAct s →
      t = seqRest (followEn (enGroups (enKept level s)) (enHeard level s))) := by
  by_cases hkept : domOn s pdSeq = false ∨ s.pwr.enIgnored = true ∨ ¬ requestsAct s
  · refine ⟨_, exec_enPinChange_kept level hkept, fun _ => rfl, fun hdom hen hacts => ?_⟩
    simp [hdom, hen, hacts] at hkept
  · obtain ⟨hdom, hen, hacts⟩ : domOn s pdSeq = true ∧ s.pwr.enIgnored = false ∧ requestsAct s := by
      simpa only [not_or, Bool.not_eq_false, Bool.not_eq_true, not_not] using hkept
    exact ⟨_, exec_enPinChange_acts level hdom hen hacts, fun h => absurd h hkept, fun _ _ _ => rfl⟩

end Clauses

/-- Settles O17: a START that acts and a change of EN that is heard are runs of requests of the groups that may be
requested. -/
theorem startAndEnable : Obligations.StartAndEnable := by
  unfold Obligations.StartAndEnable
  intro s q d level acts closed
  refine ⟨fun hr => ?_, ?_⟩
  · obtain ⟨t, hexec, hends, hheld, hstarts⟩ := start_clause s q d hr
    refine ⟨t, hexec, hends, hheld, fun hacts hopen => ?_⟩
    obtain ⟨v, hv, hframe, hseq⟩ := started_state s
    exact ⟨v, hv ▸ hstarts hacts hopen, hframe, fun j => hseq ▸ startGroups_req hopen j⟩
  · obtain ⟨t, hexec, hkept, hfollows⟩ := enPinChange_clause s level
    refine ⟨t, hexec, hkept, fun hdom hen hacts => ⟨_, hfollows hdom hen hacts, ?_, fun j => ?_⟩⟩
    · rw [(followEn_requested _ _).1, enHeard_eq]
    · rw [followEn_req, enHeard_eq]
      exact if_congr Iff.rfl (if_congr Iff.rfl rfl rfl) rfl

end Sys2Proof.Machine
end

section
/-!
Retries and margins (O21): the ends of retries, the reset of retry counts, and the selection of margins.
-/

namespace Sys2Proof.Machine

/-! ## Retries (R258, R259) -/

section Retries
variable (s : State) (i : SeqIdx) (j : Group)

/-- The used rails of a group. -/
def groupRails (s : State) (j : Group) : List SeqIdx := (usedRails s.cfg).filter fun i => groupOf s.cfg i = j

theorem mem_groupRails {s : State} {j : Group} {k : SeqIdx} :
    k ∈ groupRails s j ↔ s.cfg.use k.val = true ∧ groupOf s.cfg k = j := by
  simp only [groupRails, usedRails, List.mem_filter, mem_fins, true_and, decide_eq_true_eq]

theorem nodup_groupRails : (groupRails s j).Nodup := ((nodup_fins 16).filter _).filter _

/-- A rail that waited for its group's retry is held no longer. -/
def SeqRail.groupFreed (k : SeqRail) : SeqRail := if k.held == .groupRetry then { k with held := .none } else k

/-- A rail that waited for a rail's retry is held no longer. -/
def SeqRail.freed (k : SeqRail) : SeqRail := { k with held := .none }

/-- The state in which a group's retry ends (R258). -/
def groupRetried (s : State) (j : Group) : State := s.upSeq fun q =>
  { q with groups := vmod q.groups j fun g => { g with retrying := false, retryc := g.retryc + 1 }
           rails := modEach (groupRails s j) (fun _ => SeqRail.groupFreed) q.rails }

theorem exec_retryDelayEnd_group {s : State} {j : Group} (hdom : domOn s pdSeq = true)
    (hretry : s.seq.groups[j].retrying = true)
    (hdown : ∀ k : SeqIdx, s.cfg.use k.val = true → groupOf s.cfg k = j → isDown s.seq.rails[k].state = true) :
    exec (.retryDelayEnd (.group j)) s = .next (seqRest (groupRetried s j)) := by
  have hall : (groupRails s j).all (fun i => isDown (railState s i)) = true := by
    rw [List.all_eq_true]
    intro k hk
    obtain ⟨huse, hgroup⟩ := mem_groupRails.mp hk
    exact hdown k huse hgroup
  show Host.Outcome.next (if !domOn s pdSeq then s else
    if s.seq.groups[j].retrying && (groupRails s j).all (fun i => isDown (railState s i)) then _ else s) = _
  rw [hdom, hretry, hall, if_neg (by simp), if_pos (by rfl)]
  exact congrArg (fun u => Host.Outcome.next (seqRest u))
    (each_upSeqRail (groupRails s j) (fun _ => SeqRail.groupFreed) _)

theorem groupFreed_clause (k : SeqIdx) : (if k ∈ groupRails s j then s.seq.rails[k].groupFreed else s.seq.rails[k]) =
    if s.cfg.use k.val = true ∧ groupOf s.cfg k = j ∧ s.seq.rails[k].held = .groupRetry then
      { s.seq.rails[k] with held := .none }
    else s.seq.rails[k] := by
  simp only [mem_groupRails, SeqRail.groupFreed, beq_iff_eq, ← ite_and, and_assoc]

/-- The state in which a rail's own retry ends (R259). -/
def railRetried (s : State) (i : SeqIdx) : State := s.upSeq fun q =>
  { q with rails := modEach (retryWaiters s i) (fun _ => SeqRail.freed) q.rails }

theorem mem_retryWaiters {s : State} {i k : SeqIdx} : k ∈ retryWaiters s i ↔ s.seq.rails[k].held = .railRetry i := by
  simp only [retryWaiters, mem_filter_fins, beq_iff_eq]

theorem exec_retryDelayEnd_rail {s : State} {i : SeqIdx} (hdom : domOn s pdSeq = true)
    (hwaits : ∃ k : SeqIdx, s.seq.rails[k].held = .railRetry i)
    (hdown : ∀ k : SeqIdx, s.seq.rails[k].held = .railRetry i → isDown s.seq.rails[k].state = true) :
    exec (.retryDelayEnd (.rail i)) s = .next (seqRest (railRetried s i)) := by
  obtain ⟨k, hk⟩ := hwaits
  have hsome : (retryWaiters s i).isEmpty = false :=
    List.isEmpty_eq_false_iff.mpr (List.ne_nil_of_mem (mem_retryWaiters.mpr hk))
  have hall : (retryWaiters s i).all (fun k => isDown (railState s k)) = true := by
    rw [List.all_eq_true]
    exact fun k hk => hdown k (mem_retryWaiters.mp hk)
  show Host.Outcome.next (if !domOn s pdSeq then s else
    if !(retryWaiters s i).isEmpty && (retryWaiters s i).all (fun k => isDown (railState s k)) then _ else s) = _
  rw [hdom, hsome, hall, if_neg (by simp), if_pos (by rfl)]
  exact congrArg (fun u => Host.Outcome.next (seqRest u)) (each_upSeqRail (retryWaiters s i) (fun _ => SeqRail.freed) _)

theorem exec_retryCountReset_group {s : State} {j : Group}
    (hsome : ∃ k : SeqIdx, s.cfg.use k.val = true ∧ groupOf s.cfg k = j)
    (hon : ∀ k : SeqIdx, s.cfg.use k.val = true → groupOf s.cfg k = j → s.seq.rails[k].state = .on) :
    exec (.retryCountReset (.group j)) s = .next (s.upGroup j fun g => { g with retryc := 0 }) := by
  obtain ⟨k, hk⟩ := hsome
  have hempty : (groupRails s j).isEmpty = false :=
    List.isEmpty_eq_false_iff.mpr (List.ne_nil_of_mem (mem_groupRails.mpr hk))
  have hall : (groupRails s j).all (fun i => railState s i == .on) = true := by
    rw [List.all_eq_true]
    intro k hk
    obtain ⟨huse, hgroup⟩ := mem_groupRails.mp hk
    exact beq_iff_eq.mpr (hon k huse hgroup)
  show Host.Outcome.next (if !(groupRails s j).isEmpty && (groupRails s j).all (fun i => railState s i == .on) then _
    else s) = _
  rw [hempty, hall]
  rfl

theorem exec_retryCountReset_rail {s : State} {i : SeqIdx} (hon : s.seq.rails[i].state = .on) :
    exec (.retryCountReset (.rail i)) s = .next (s.upSeqRail i fun k => { k with retryc := 0 }) := by
  show Host.Outcome.next (if railState s i == .on then _ else s) = _
  exact congrArg Host.Outcome.next (if_pos (beq_iff_eq.mpr hon))

end Retries

/-! ## Margins (R271 to R273, R288, R291) -/

section Margins

/-- A rail's target record under a margin selection (R272). -/
def PrnRail.selected (sel : Nat) (p : PrnRail) : PrnRail :=
  if sel = 0 then { p with mrg := p.mrg && decide (p.m ≠ 0) } else { p with mrg := true }

/-- A margin selection between s and t for the rails rs: their selections and records, and what the ledger and the ports
take from them. -/
def MarginsTaken (sel : Nat) (rs : List Rail) (s t : State) : Prop :=
  t = { s with seq := { s.seq with rails := t.seq.rails }, prn := t.prn, ldg := t.ldg } ∧
    t.prn.rails = modEach rs (fun _ => PrnRail.selected sel) s.prn.rails ∧
    t.seq.rails = modEach (rs.map idxOf) (fun _ k => { k with msel := BitVec.ofNat 2 sel }) s.seq.rails

theorem PrnRail.selected_none (p : PrnRail) : p.selected 0 = { p with mrg := p.mrg && decide (p.m ≠ 0) } := rfl

/-- A selection of NONE that leaves MRG as it is: MRG is clear already, or M is still on its way (R272). -/
theorem PrnRail.selected_none_keeps {p : PrnRail} (h : ¬ (p.mrg && decide (p.m = 0)) = true) : p.selected 0 = p := by
  have hmrg : (p.mrg && decide (p.m ≠ 0)) = p.mrg := by
    by_cases hm : p.m = 0 <;> simp_all
  rw [PrnRail.selected_none, hmrg]

theorem PrnRail.selected_none_clears {p : PrnRail} (h : p.m = 0) : { p with mrg := false } = p.selected 0 := by
  rw [PrnRail.selected_none, decide_eq_false (fun hm => hm h), Bool.and_false]

theorem marginNone_taken (r : Rail) (s : State) : MarginsTaken 0 [r] s (marginNone r s) := by
  unfold marginNone dropBook
  dsimp only
  split
  · rename_i hends
    have hm : s.prn.rails[r].m = 0 := of_decide_eq_true (Bool.and_eq_true_iff.mp hends).2
    rw [alertPorts_eq, if_pos hm]
    exact ⟨rfl, vmod_congr (v := s.prn.rails) (f := fun p => { p with mrg := false })
      (PrnRail.selected_none_clears hm), rfl⟩
  · have hkeeps : s.prn.rails = vmod s.prn.rails r (PrnRail.selected 0) :=
      (vmod_id (PrnRail.selected_none_keeps ‹_›)).symm
    split <;> exact ⟨rfl, hkeeps, rfl⟩

theorem selectMargin_taken (sel : Nat) (r : Rail) (s : State) : MarginsTaken sel [r] s (selectMargin sel r s) := by
  unfold selectMargin
  by_cases hsel : sel = 0
  · rw [if_pos hsel, hsel]
    exact marginNone_taken r s
  · have hselected : PrnRail.selected sel = fun p => { p with mrg := true } := funext fun p => if_neg hsel
    rw [if_neg hsel, MarginsTaken, hselected]
    dsimp only
    rw [alertPorts_eq]
    unfold book
    split
    · exact ⟨rfl, rfl, rfl⟩
    · split <;> exact ⟨rfl, rfl, rfl⟩

theorem each_selectMargin (sel : Nat) (rs : List Rail) (s : State) :
    MarginsTaken sel rs s (State.each rs (selectMargin sel) s) := by
  unfold State.each
  induction rs generalizing s with
  | nil => exact ⟨rfl, rfl, rfl⟩
  | cons r rs ih =>
    obtain ⟨hframe, hprn, hseq⟩ := selectMargin_taken sel r s
    obtain ⟨hframe', hprn', hseq'⟩ := ih (selectMargin sel r s)
    rw [List.foldl_cons]
    refine ⟨?_, ?_, ?_⟩
    · rw [hframe', hframe]
    · rw [hprn', hprn]
      rfl
    · rw [hseq', hseq]
      rfl

variable {s : State} (rails : BitVec 8) (sel : Nat)

/-- The rails of a request in the words of the statement. -/
theorem maskRails_eq : maskRails rails.toNat = (fins 8).filter fun r => hasBit rails r.val := rfl

/-- What stands in the way of a margin request (R271, R291). -/
def marginBad (s : State) (rails : BitVec 8) (sel : Nat) : Option Nat :=
  if sel = 3 then some codeRange else marginCheck s (maskRails rails.toNat) sel

theorem marginBad_eq : marginBad s rails sel =
    if sel = 3 then some 0x0102
    else if sel = 0 then none
    else if s.flt.classA = true ∨ (∃ r : Rail, hasBit rails r.val = true ∧
        s.seq.rails[idxOf r].state ≠ .on) then some 0x0105
    else if mayAdmit s (s.cfg.costmrg *
        (((fins 8).filter fun r => hasBit rails r.val).filter fun r => !s.prn.rails[r].mrg).length) false = false then
      some 0x0106
    else none := by
  have hclosed : (s.flt.classA || (maskRails rails.toNat).any fun r => railState s (idxOf r) != .on) = true ↔
      s.flt.classA = true ∨ (∃ r : Rail, hasBit rails r.val = true ∧ s.seq.rails[idxOf r].state ≠ .on) := by
    rw [Bool.or_eq_true, maskRails_any]
    simp only [bne_iff_ne, railState]
  refine if_congr Iff.rfl rfl (if_congr Iff.rfl rfl (if_congr hclosed rfl ?_))
  dsimp only
  rw [← maskRails_eq]
  cases mayAdmit s _ false <;> rfl

/-- A rejection by the ledger counts in LDG_NREF. -/
theorem noteRefusal_eq (c : Nat) (s : State) : noteRefusal c s = s.upLdg fun l =>
    { l with nref := if some c = some 0x0106 then l.nref + 1 else l.nref } := by
  by_cases hc : c = 0x0106
  · rw [hc]
    rfl
  · simp only [Option.some.injEq, if_neg hc]
    exact if_neg hc

theorem exec_seqMargin {q : Ring} {d : Desc} (hr : ready s q 0x3A = some d) (hrails : d.pf 0 8 = rails.toNat)
    (hsel : d.pf 8 2 = sel) : exec (.seqMargin q) s = .next ((marginBad s rails sel).elim
      (complete q 0 0 (State.each (maskRails rails.toNat) (selectMargin sel) s))
      fun c => complete q c 0 (noteRefusal c s)) := by
  rw [exec_of_ready rfl hr]
  dsimp only
  rw [hrails, hsel, marginRails, marginBad]
  by_cases h3 : sel = 3
  · rw [if_pos h3, if_pos h3]
    rfl
  · rw [if_neg h3, if_neg h3]
    cases marginCheck s (maskRails rails.toNat) sel <;> dsimp only [Option.elim]

/-- A word below a power of two has no bit of a mask that the power divides. -/
theorem and_eq_zero_of_dvd {n : Nat} {w mask : BitVec n} (k : Nat) (hw : w.toNat < 2 ^ k) (hmask : 2 ^ k ∣ mask.toNat) :
    w &&& mask = 0 := by
  obtain ⟨c, hc⟩ := hmask
  refine BitVec.eq_of_toNat_eq (Nat.eq_of_testBit_eq fun i => ?_)
  rw [BitVec.toNat_and, Nat.testBit_and, hc, Nat.testBit_two_pow_mul, Bool.and_left_comm]
  by_cases hi : k ≤ i
  · rw [Nat.testBit_lt_two_pow (hw.trans_le (Nat.pow_le_pow_right Nat.two_pos hi))]
    simp
  · simp [hi]

/-- The fields of a write of SEQ_MCMD. -/
theorem marginWord_fields {rails : BitVec 8} {sel : Nat} {w : Word} (hsel : sel < 4)
    (hw : w.toNat = rails.toNat + 256 * sel) :
    bitsOf w 0 8 = rails.toNat ∧ bitsOf w 8 2 = sel ∧ w &&& 0xFFFFFC00 = 0 := by
  have hrails := rails.isLt
  refine ⟨?_, ?_, ?_⟩
  · rw [bitsOf, hw]
    omega
  · rw [bitsOf, hw]
    omega
  · exact and_eq_zero_of_dvd 10 (by omega) (by decide)

theorem exec_seqMcmd {m : Master} {w : Word} (hp : WritesPass m s) (hl : s.regs.lock = false) (hsel : sel < 4)
    (hw : w.toNat = rails.toNat + 256 * sel) : exec (.seqMcmd m w) s = .next ((marginBad s rails sel).elim
      (State.each (maskRails rails.toNat) (selectMargin sel) s)
      fun c => rejectWrite m 0x7014 c (noteRefusal c s)) := by
  obtain ⟨hrails, hfield, hclear⟩ := marginWord_fields hsel hw
  show Host.Outcome.next (writeMcmd m w s) = _
  rw [writeMcmd, regWrite_pass _ _ hp (fun _ => hl) hclear]
  dsimp only
  rw [hrails, hfield, marginRails, marginBad]
  by_cases h3 : sel = 3
  · rw [if_pos h3, if_pos h3]
    rfl
  · rw [if_neg h3, if_neg h3]
    cases marginCheck s (maskRails rails.toNat) sel <;> dsimp only [Option.elim]

theorem mem_marginIdx {i : SeqIdx} :
    i ∈ (maskRails rails.toNat).map idxOf ↔ i.val < 8 ∧ hasBit rails i.val = true := by
  rw [maskRails_eq, List.mem_map]
  refine ⟨fun ⟨r, hr, hi⟩ => hi ▸ ⟨r.isLt, (mem_filter_fins _ _).mp hr⟩, fun ⟨hlt, hbit⟩ => ?_⟩
  exact ⟨⟨i.val, hlt⟩, (mem_filter_fins _ _).mpr hbit, rfl⟩

theorem nodup_marginIdx : ((maskRails rails.toNat).map idxOf).Nodup :=
  ((nodup_fins 8).filter _).map fun _ _ hab => Fin.ext (congrArg (fun i : SeqIdx => i.val) hab)

/-- What an accepted selection makes of the state. -/
theorem marginsTaken_clause {t : State} (h : MarginsTaken sel (maskRails rails.toNat) s t) :
    t = { s with seq := { s.seq with rails := t.seq.rails }, prn := t.prn, ldg := t.ldg } ∧
    (∀ r : Rail, t.prn.rails[r] =
      if hasBit rails r.val = false then s.prn.rails[r]
      else if sel = 0 then
        { s.prn.rails[r] with mrg := s.prn.rails[r].mrg && decide (s.prn.rails[r].m ≠ 0) }
      else { s.prn.rails[r] with mrg := true }) ∧
    ∀ i : SeqIdx, t.seq.rails[i] =
      if i.val < 8 ∧ hasBit rails i.val = true then { s.seq.rails[i] with msel := BitVec.ofNat 2 sel }
      else s.seq.rails[i] := by
  obtain ⟨hframe, hprn, hseq⟩ := h
  refine ⟨hframe, fun r => ?_, fun i => ?_⟩
  · rw [hprn, maskRails_eq, modEach_get ((nodup_fins 8).filter _)]
    cases hbit : hasBit rails r.val <;> simp [mem_fins, hbit, PrnRail.selected]
  · rw [hseq, modEach_get (nodup_marginIdx rails)]
    exact if_congr (mem_marginIdx rails) rfl rfl

end Margins

/-- Settles O21: the end of a retry frees those that waited for it, and a margin selection is taken rail by rail. -/
theorem retriesAndMargins : Obligations.RetriesAndMargins := by
  unfold Obligations.RetriesAndMargins
  refine ⟨fun s i j => ⟨fun hdom hretry hdown => ?_, fun hdom hwaits hdown => ?_, exec_retryCountReset_group,
    exec_retryCountReset_rail⟩, ?_⟩
  · refine ⟨groupRetried s j, exec_retryDelayEnd_group hdom hretry hdown, rfl, rfl, fun k => ?_⟩
    exact (modEach_get (nodup_groupRails s j) _ _ k).trans (groupFreed_clause s j k)
  · refine ⟨railRetried s i, exec_retryDelayEnd_rail hdom hwaits hdown, rfl, fun k => ?_⟩
    exact (modEach_get ((nodup_fins 16).filter _) _ _ k).trans (if_congr mem_retryWaiters rfl rfl)
  · intro s rails sel hsel rs code counted done
    have hcode : marginBad s rails sel = code := marginBad_eq rails sel
    have hcounted (c : Nat) (hc : code = some c) : noteRefusal c s = counted := by
      rw [noteRefusal_eq, ← hc]
    have hdone : done (State.each (maskRails rails.toNat) (selectMargin sel) s) :=
      marginsTaken_clause rails sel (each_selectMargin sel _ s)
    have hhif : (State.each (maskRails rails.toNat) (selectMargin sel) s).hif = s.hif := by
      rw [hdone.1]
    have hkept : counted.hif = s.hif := rfl
    clear_value code counted done
    refine ⟨fun q d hr hrails hfield => ⟨_, exec_seqMargin rails sel hr hrails hfield, ?_⟩,
      fun m w hp hl hw => ⟨_, exec_seqMcmd rails sel hp hl hsel hw, ?_⟩⟩
    · obtain ⟨e, he, -⟩ := ready_some hr
      rw [hcode]
      cases code with
      | some c =>
        dsimp only [Option.elim]
        rw [hcounted c rfl]
        exact complete_ends c 0 (hkept ▸ he)
      | none => exact ⟨_, hdone, complete_ends 0 0 (hhif ▸ he)⟩
    · rw [hcode]
      cases code with
      | some c =>
        dsimp only [Option.elim]
        rw [hcounted c rfl]
        exact reject_rejected m 0x7014 c counted
      | none => exact hdone

end Sys2Proof.Machine
end

section
/-!
The rails' intervals (O20): the end of the on-delay, power-good, discharge, release, the timeouts and the immediate
shut-off.
-/

namespace Sys2Proof.Machine

/-! ## What only the phases' record takes -/

/-- The state without its phases. -/
def apartPwm (s : State) : State := { s with pwm := Pwm.reset }

theorem eq_of_apartPwm {s t : State} (h : apartPwm t = apartPwm s) : t = { s with pwm := t.pwm } := by
  have hback : { apartPwm t with pwm := t.pwm } = { apartPwm s with pwm := t.pwm } := by rw [h]
  exact hback

theorem apartPwm_ite {c : Prop} [Decidable c] (a b : State) :
    apartPwm (if c then a else b) = if c then apartPwm a else apartPwm b := apply_ite apartPwm c a b

theorem driveHeld_apartPwm (r : Rail) (d : Drive) (s : State) : apartPwm (driveHeld r d s) = apartPwm s :=
  each_keeps _ apartPwm s fun _ _ _ => rfl

theorem freeSub_apartPwm (h : Phase) (s : State) : apartPwm (freeSub h s) = apartPwm s := by
  unfold freeSub
  split <;> rfl

theorem setActive_apartPwm (r : Rail) (act : BitVec 48) (s : State) : apartPwm (setActive r act s) = apartPwm s := by
  have hretarget (fresh : BitVec 48) (u : State) : apartPwm (retarget r fresh u) = apartPwm u :=
    each_keeps _ apartPwm u fun e _ u => by
      split
      · rw [apartPwm_ite]
        exact ite_self _
      · rfl
  have hshow (u : State) : apartPwm (showStates r u) = apartPwm u := each_keeps _ apartPwm u fun _ _ _ => rfl
  have hfree (u : State) : apartPwm (freeSubs r u) = apartPwm u := each_keeps _ apartPwm u fun h _ u => by
    split
    · rw [apartPwm_ite, freeSub_apartPwm, ite_self]
    · rfl
  unfold setActive
  rw [hretarget, hshow, hfree]
  rfl

theorem enablePhases_apartPwm (r : Rail) (s : State) : apartPwm (enablePhases r s) = apartPwm s := by
  have hsub (u : State) : apartPwm (substituteAll r u) = apartPwm u := each_keeps _ apartPwm u fun h _ u => by
    unfold substitute
    split
    · split <;> rfl
    · rfl
  have hanchor (u : State) : apartPwm (anchorCarrier r u) = apartPwm u := by
    unfold anchorCarrier
    split <;> rfl
  unfold enablePhases
  rw [setActive_apartPwm, ← hsub s, ← hanchor (substituteAll r s)]
  rfl

theorem vmod_get {α : Type} {n : Nat} (v : Vector α n) (i k : Fin n) (f : α → α) :
    (vmod v i f)[k] = if k = i then f v[k] else v[k] := by
  by_cases hk : k = i
  · rw [hk, if_pos rfl, vmod_same]
  · rw [if_neg hk, vmod_other _ _ (Ne.symm hk)]

/-! ## The on-delay (R253 to R257) -/

section Ramp
variable {s : State} {i : SeqIdx}

theorem exec_onDelayEnd (hdom : domOn s pdSeq = true) (hstate : s.seq.rails[i].state = .delay)
    (hwant : wantOn s i = true) (hfree : freeToRise s i = true) :
    exec (.onDelayEnd i) s = .next (seqRest (enterRamp i s)) := by
  refine congrArg Host.Outcome.next (if_pos ?_)
  rw [hdom, hwant, hfree, railState, hstate]
  rfl

theorem enterRamp_external (hi : 8 ≤ i.val) :
    enterRamp i s = s.upSeqRail i fun k => { k with state := .ramp, xen := true } := by
  unfold enterRamp
  dsimp only
  rw [regRail_eq_none hi]
  simp only [setRailState, State.upSeqRail, State.upSeq, vmod_vmod]

theorem enterRamp_regulated {r : Rail} (hr : r.val = i.val) :
    enterRamp i s = enableLoop r (setRailState i .ramp s) := by
  unfold enterRamp
  rw [regRail_of_val hr]

/-- The records of a rail whose loop is enabled (R109, R207, R256). -/
theorem enableLoop_records (r : Rail) (u : State) : let t := enableLoop r u
    t.seq = u.seq ∧ t.eng.rails[r].enabled = true ∧ t.prn.rails[r].ref = 0 ∧ t.prn.rails[r].seqown = true ∧
      t.prn.rails[r].tgt = BitVec.ofNat 16 (u.cfg.vboot r.val) ∧ t.fb[r].hact = false ∧
      t.fb[r].path = (if u.cfg.path0 r.val then .local_ else .remote) ∧
      ∀ k : Rail, k ≠ r → t.eng.rails[k] = u.eng.rails[k] ∧ t.prn.rails[k] = u.prn.rails[k] := by
  have hphases : apartPwm (enableLoop r u) = _ := enablePhases_apartPwm r _
  dsimp only
  rw [eq_of_apartPwm hphases]
  refine ⟨rfl, congrArg EngRail.enabled (vmod_same ..), congrArg PrnRail.ref (vmod_same ..),
    congrArg PrnRail.seqown (vmod_same ..), congrArg PrnRail.tgt (vmod_same ..), congrArg FbRail.hact (vmod_same ..),
    congrArg FbRail.path (vmod_same ..), fun k hk => ⟨vmod_other _ _ (Ne.symm hk), vmod_other _ _ (Ne.symm hk)⟩⟩

theorem enterRamp_state (i : SeqIdx) (s : State) : (enterRamp i s).seq.rails[i].state = .ramp := by
  rcases regRail_cases i with ⟨r, hr, -⟩ | ⟨-, hi⟩
  · rw [enterRamp_regulated (regRail_some hr).1, (enableLoop_records r _).1]
    exact congrArg SeqRail.state (vmod_same ..)
  · rw [enterRamp_external hi]
    exact congrArg SeqRail.state (vmod_same ..)

theorem enterRamp_records {r : Rail} (hr : r.val = i.val) : let t := enterRamp i s
    t.eng.rails[r].enabled = true ∧ t.prn.rails[r].ref = 0 ∧ t.prn.rails[r].seqown = true ∧
      t.prn.rails[r].tgt = BitVec.ofNat 16 (s.cfg.vboot r.val) ∧ t.fb[r].hact = false ∧
      t.fb[r].path = (if s.cfg.path0 r.val then .local_ else .remote) ∧
      ∀ k : Rail, k ≠ r → t.eng.rails[k] = s.eng.rails[k] ∧ t.prn.rails[k] = s.prn.rails[k] := by
  dsimp only
  rw [enterRamp_regulated hr]
  exact (enableLoop_records r (setRailState i .ramp s)).2

end Ramp

/-! ## RAMP_TIME_END and power-good (R254, R257) -/

section Good
variable {s : State} {i : SeqIdx}

theorem exec_rampTimeEnd (hdom : domOn s pdSeq = true) (hstate : s.seq.rails[i].state = .ramp) (hi : 8 ≤ i.val) :
    exec (.rampTimeEnd i) s =
      .next (seqRest (s.upSeqRail i fun k => { k with state := .pgwait, pgood := false })) := by
  refine congrArg Host.Outcome.next (if_pos ?_)
  rw [hdom, regRail_eq_none hi, railState, hstate]
  rfl

theorem exec_powerGoodChange_good (hdom : domOn s pdSeq = true) (hstate : s.seq.rails[i].state = .pgwait)
    (huse : s.cfg.use i.val = true) (hpgood : s.seq.rails[i].pgood = false)
    (hlive : (wires s (pgWindow i)).live = false) :
    exec (.powerGoodChange i true) s = .next (seqRest (enterOn i s)) := by
  refine congrArg Host.Outcome.next ((if_neg ?_).trans (if_pos ?_))
  · rw [hdom, huse, hpgood, hlive]
    decide
  · rw [railState, hstate]
    rfl

theorem enterOn_external (hi : 8 ≤ i.val) :
    enterOn i s = s.upSeqRail i fun k => { k with state := .on, pgood := true } := by
  unfold enterOn
  rw [regRail_eq_none hi]

theorem enterOn_regulated {r : Rail} (hr : r.val = i.val) : enterOn i s =
    (s.upSeqRail i fun k => { k with state := .on, pgood := true }).upPrnRail r fun p =>
      { p with seqown := false, gcls := 0, notify := false } := by
  unfold enterOn
  rw [regRail_of_val hr]

theorem enterOn_clause : let u := enterOn i s
    u = { s.upSeqRail i fun k => { k with state := .on, pgood := true } with prn := u.prn } ∧
      (8 ≤ i.val → u.prn = s.prn) ∧
      (∀ r : Rail, r.val = i.val → u.prn.rails = vmod s.prn.rails r fun p =>
        { p with seqown := false, gcls := 0, notify := false }) := by
  refine ⟨?_, fun hi => ?_, fun r hr => ?_⟩
  · rcases regRail_cases i with ⟨r, hr, -⟩ | ⟨-, hi⟩
    · rw [enterOn_regulated (regRail_some hr).1]
      rfl
    · rw [enterOn_external hi]
  · rw [enterOn_external hi]
    rfl
  · rw [enterOn_regulated hr]
    rfl

end Good

/-! ## OFF at the end of a take-down (R254, R266) -/

section Off
variable {s : State} {i : SeqIdx}

/-- The target's owner once rail i is at rest: a regulated rail's target is the sequencer's no longer (R189). -/
def AtRest (i : SeqIdx) (s : State) (x : Prn) : Prop :=
  (8 ≤ i.val → x = s.prn) ∧
  (∀ r : Rail, r.val = i.val → x = { s.prn with rails := vmod s.prn.rails r fun p => { p with seqown := false } })

/-- Rail i has come to OFF between s and u. -/
def ReachedOff (i : SeqIdx) (s u : State) : Prop :=
  u = { s with seq := u.seq, pwm := u.pwm, prn := u.prn } ∧ AtRest i s u.prn ∧
    u.seq = { s.seq with rails := u.seq.rails } ∧
    u.seq.rails = vmod s.seq.rails i fun k => { k with state := .off, faultDown := false }

theorem restRail_eq (r : Rail) (s : State) : ∃ pwm, restRail r s =
    { s with pwm := pwm, prn := { s.prn with rails := vmod s.prn.rails r fun p => { p with seqown := false } } } :=
  ⟨_, eq_of_apartPwm (driveHeld_apartPwm r .mid _)⟩

theorem reachOff_reached (i : SeqIdx) (s : State) : ReachedOff i s (reachOff i s) := by
  unfold reachOff
  rcases regRail_cases i with ⟨r, hr, hlt⟩ | ⟨hnone, hi⟩
  · obtain ⟨pwm, hrest⟩ := restRail_eq r s
    rw [hr]
    dsimp only
    rw [hrest]
    refine ⟨rfl, ⟨fun hi => by omega, fun k hk => ?_⟩, rfl, rfl⟩
    rw [show k = r from Fin.ext (hk.trans (regRail_some hr).1.symm)]
    rfl
  · rw [hnone]
    exact ⟨rfl, ⟨fun _ => rfl, fun r hr => by omega⟩, rfl, rfl⟩

theorem exec_discharged (hdom : domOn s pdSeq = true)
    (hstate : s.seq.rails[i].state = .discharge ∨ s.seq.rails[i].state = .hold)
    (hlow : (wires s (pgWindow i)).low = true) : exec (.discharged i) s = .next (seqRest (reachOff i s)) := by
  refine congrArg Host.Outcome.next (if_pos ?_)
  rw [hdom, hlow, railState]
  rcases hstate with h | h <;> rw [h] <;> rfl

theorem exec_seqRelease {q : Ring} {d : Desc} (hr : ready s q 0x3B = some d) (hi : d.pf 0 4 = i.val) :
    exec (.seqRelease q) s = .next (
      if s.seq.rails[i].state = .hold then complete q 0 0 (seqRest (reachOff i s)) else complete q 0x0105 0 s) := by
  have hidx : (Fin.ofNat 16 i.val : SeqIdx) = i := Fin.ext (Nat.mod_eq_of_lt i.isLt)
  rw [exec_of_ready rfl hr]
  dsimp only
  rw [hi, hidx, railState]
  by_cases hhold : s.seq.rails[i].state = .hold
  · rw [if_pos hhold, if_neg fun h => bne_iff_ne.mp h hhold]
  · rw [if_neg hhold, if_pos (bne_iff_ne.mpr hhold)]
    rfl

end Off

/-! ## The power-good timeout (R258) -/

/-- Rail i's cause is noted, as its event is raised (R274). -/
def causeNoted (i : SeqIdx) (cause : Nat) (s : State) : State :=
  s.upSeqRail i fun k => { k with lcause := BitVec.ofNat 4 cause }

/-- The sequencer's events (R274), where R519's window is closed. -/
theorem raiseSeq_raised {i : SeqIdx} {cause : Nat} (elem : Nat) {s : State}
    (hw : windowClosed (0x40 + i.val) cause i.val s = true) :
    Raised (0x40 + i.val) (causeNoted i cause s) (raiseSeq i cause elem s) := by
  have honce := raiseLimited_raised (0x40 + i.val) cause i.val (srcId 0x7 0x0 i.val elem cause) 0 noAccess
    (causeNoted i cause s) (by omega)
  have hwin : windowClosed (0x40 + i.val) cause i.val (causeNoted i cause s) = true := hw
  rwa [RaisedOnce, if_pos hwin] at honce

theorem raiseSeq_cfg (i : SeqIdx) (cause elem : Nat) (s : State) : (raiseSeq i cause elem s).cfg = s.cfg :=
  cfg_of_quiet (raiseSeq_quiet i cause elem s)

section Policy
variable {s : State} {i : SeqIdx} {j : Group}

theorem markDown_holds (fault : Bool) (d k : SeqIdx) (s : State) :
    ((markDown fault d s).seq.groups, (markDown fault d s).seq.rails[k].held) =
      (s.seq.groups, s.seq.rails[k].held) := by
  unfold markDown
  split
  · rfl
  · refine Prod.ext rfl ?_
    show SeqRail.held (vmod _ _ _)[k] = _
    rw [vmod_get]
    split <;> rfl

/-- Marks for a take-down leave the groups and what the rails are to become. -/
theorem each_markDown_holds (ds : List SeqIdx) (fault : Bool) (s : State) (k : SeqIdx) :
    (State.each ds (markDown fault) s).seq.groups = s.seq.groups ∧
      (State.each ds (markDown fault) s).seq.rails[k].held = s.seq.rails[k].held := by
  have h := each_keeps (xs := ds) (markDown fault) (fun u => (u.seq.groups, u.seq.rails[k].held)) s
    fun d _ u => markDown_holds fault d k u
  exact ⟨congrArg Prod.fst h, congrArg Prod.snd h⟩

/-- A rail that waits for its group's retry, unless what it becomes is settled (R258). -/
def SeqRail.groupHeld (k : SeqRail) : SeqRail := if k.held.lasts then k else { k with held := .groupRetry }

theorem SeqRail.groupHeld_held (k : SeqRail) : k.groupHeld.held =
    if k.held = .toFailed ∨ k.held = .toBlocked then k.held else .groupRetry := by
  have hlasts : k.held.lasts = true ↔ k.held = .toFailed ∨ k.held = .toBlocked := by
    rw [Held.lasts, Bool.or_eq_true, beq_iff_eq, beq_iff_eq]
  rw [SeqRail.groupHeld, apply_ite SeqRail.held, if_congr hlasts rfl rfl]

theorem groupRetry_eq (j : Group) (s : State) : groupRetry j s = State.each (outerDependants s j) (markDown false)
    (s.upSeq fun q => { q with groups := vmod q.groups j fun g => { g with retrying := true }
                               rails := modEach (groupRails s j) (fun _ => SeqRail.groupHeld) q.rails }) :=
  congrArg (State.each (outerDependants s j) (markDown false))
    (each_upSeqRail (groupRails s j) (fun _ => SeqRail.groupHeld) _)

/-- RETRY_ALL with a retry left (R258). -/
theorem groupRetry_held (hmem : i ∈ groupRails s j) : (groupRetry j s).seq.rails[i].held =
    if s.seq.rails[i].held = .toFailed ∨ s.seq.rails[i].held = .toBlocked then s.seq.rails[i].held
    else .groupRetry := by
  rw [groupRetry_eq, (each_markDown_holds _ _ _ i).2]
  refine (congrArg SeqRail.held (modEach_get (nodup_groupRails s _) _ _ i)).trans ?_
  rw [if_pos hmem]
  exact s.seq.rails[i].groupHeld_held

theorem groupRetry_group : (groupRetry j s).seq.groups[j] = { s.seq.groups[j] with retrying := true } := by
  rw [groupRetry_eq, (each_markDown_holds _ _ _ 0).1]
  exact vmod_same ..

/-- RETRY_ALL with no retry left (R258). -/
theorem groupFails_clause (i : SeqIdx) (j : Group) (s : State) : ∃ w, groupFails i j s = raiseSeq i 5 0 w ∧
    w.seq.groups[j].req = false ∧ w.seq.groups[j].failed = true := by
  refine ⟨_, rfl, ?_⟩
  rw [(each_markDown_holds _ _ _ 0).1]
  show SeqGroup.req (vmod _ _ _)[j] = false ∧ SeqGroup.failed (vmod _ _ _)[j] = true
  rw [vmod_same, requestOff_groups, vmod_same]
  exact ⟨SeqGroup.askedOff_req _, rfl⟩

/-- DEPENDANTS_ONLY (R258): the rail goes to FAILED, and no dependant's mark replaces that. -/
theorem railFails_held (i : SeqIdx) (s : State) : (railFails i s).seq.rails[i].held = .toFailed := by
  refine each_preserves _ _ (fun u => u.seq.rails[i].held = .toFailed) ?_ fun d u hu => ?_
  · exact congrArg SeqRail.held (vmod_same ..)
  · show SeqRail.held (vmod _ _ _)[i] = _
    rw [vmod_get]
    split
    · rw [if_pos (beq_iff_eq.mpr hu), hu]
    · exact hu

/-- What the policy of its group, j, makes of a rail whose power-good has not come (R258). -/
def pgTimedOut (i : SeqIdx) (j : Group) (s : State) : State :=
  if s.cfg.policy j.val = true then railFails i s
  else if s.cfg.nretry j.val ≤ s.seq.groups[j].retryc.val then groupFails i j s else groupRetry j s

theorem exec_powerGoodTimeout (hdom : domOn s pdSeq = true) (hstate : s.seq.rails[i].state = .pgwait) :
    exec (.powerGoodTimeout i) s = .next (seqRest (pgTimedOut i (groupOf s.cfg i) (raiseSeq i 1 1 s))) := by
  have hgo : ¬ (!domOn s pdSeq || railState s i != .pgwait) = true := by
    rw [hdom, railState, hstate]
    decide
  exact congrArg Host.Outcome.next (if_neg hgo)

end Policy

/-! ## The discharge timeout (R254, R262) -/

section Discharge
variable {s : State} {i : SeqIdx}

/-- A rail in HOLD drives its phases at MID. -/
def midDriven (i : SeqIdx) (s : State) : State :=
  match regRail i with
  | some r => driveHeld r .mid s
  | none => s

theorem midDriven_eq (i : SeqIdx) (s : State) : ∃ pwm, midDriven i s = { s with pwm := pwm } := by
  unfold midDriven
  split
  · exact ⟨_, eq_of_apartPwm (driveHeld_apartPwm _ .mid s)⟩
  · exact ⟨s.pwm, rfl⟩

/-- What becomes of a rail whose discharge has not ended in time. -/
def dischargeEnds (i : SeqIdx) (s : State) : State :=
  if s.cfg.dact i.val && !s.seq.shutoff then setRailState i .hold (midDriven i s) else reachOff i s

theorem exec_dischargeTimeout (hdom : domOn s pdSeq = true) (hstate : s.seq.rails[i].state = .discharge) :
    exec (.dischargeTimeout i) s = .next (seqRest (dischargeEnds i (raiseSeq i 3 2 s))) := by
  have hgo : ¬ (!domOn s pdSeq || railState s i != .discharge) = true := by
    rw [hdom, railState, hstate]
    decide
  refine (congrArg Host.Outcome.next (if_neg hgo)).trans (congrArg Host.Outcome.next ?_)
  dsimp only [dischargeEnds]
  split <;> rfl

theorem dischargeEnds_clause (i : SeqIdx) (s : State) : let v := dischargeEnds i s
    v.seq.rails[i].state = (if s.cfg.dact i.val = true ∧ s.seq.shutoff = false then .hold else .off) ∧
      v = { s with seq := v.seq, pwm := v.pwm, prn := v.prn } := by
  by_cases hhold : s.cfg.dact i.val = true ∧ s.seq.shutoff = false
  · have hv : dischargeEnds i s = setRailState i .hold (midDriven i s) := if_pos (by simp [hhold])
    obtain ⟨pwm, hmid⟩ := midDriven_eq i s
    rw [hv, if_pos hhold, hmid]
    exact ⟨congrArg SeqRail.state (vmod_same ..), rfl⟩
  · have hv : dischargeEnds i s = reachOff i s := if_neg (by simpa using hhold)
    obtain ⟨hframe, -, -, hrails⟩ := reachOff_reached i s
    rw [hv, if_neg hhold]
    refine ⟨?_, hframe⟩
    rw [hrails]
    exact congrArg SeqRail.state (vmod_same ..)

end Discharge

/-! ## The immediate shut-off (R262) -/

/-- A group under the shut-off: its request and its retries end. -/
def SeqGroup.shut (k : SeqGroup) : SeqGroup := { k with req := false, retrying := false, retryc := 0 }

/-- A rail under the shut-off, before its state follows. -/
def railShut (i : SeqIdx) (s : State) : State :=
  s.upSeqRail i fun k => { k with held := .none, down := false, faultDown := false, xen := false }

/-- One rail's part of the shut-off. -/
def shutRail (i : SeqIdx) (s : State) : State :=
  let s := railShut i s
  match railState s i with
  | .wait => setRailState i .off s
  | .delay => setRailState i .off s
  | .ramp => match regRail i with
    | some r => alertShdn r (enterDischarge i s)
    | none => enterDischarge i s
  | .pgwait => match regRail i with
    | some r => alertShdn r (enterDischarge i s)
    | none => enterDischarge i s
  | .on => match regRail i with
    | some r => alertShdn r (enterDischarge i (leaveOn i s))
    | none => enterDischarge i s
  | .stop => enterDischarge i s
  | .hold => reachOff i s
  | .failed => setRailState i .off s
  | .blocked => setRailState i .off s
  | _ => s

theorem each_upGroup (js : List Group) (f : SeqGroup → SeqGroup) (s : State) :
    State.each js (fun j => State.upGroup j f) s =
      s.upSeq fun q => { q with groups := modEach js (fun _ => f) q.groups } := by
  induction js generalizing s with
  | nil => rfl
  | cons j js ih => exact ih (s.upGroup j f)

/-- The shut-off's part on the groups. -/
def shutGroups (s : State) : State :=
  s.upSeq fun q => { q with groups := modEach (fins 8) (fun _ => SeqGroup.shut) q.groups }

theorem shutOff_eq (s : State) :
    shutOff s = (State.each (fins 16) shutRail (shutGroups s)).upSeq fun q => { q with shutoff := true } := by
  rw [shutGroups, ← each_upGroup]
  rfl

/-- The enable pin of the rail is low. -/
def SeqRail.pinLow (k : SeqRail) : Prop := k.xen = false

theorem shutRail_moves (i : SeqIdx) (s : State) : RailMoves i s (shutRail i s) SeqRail.pinLow := by
  have hlow : RailMoves i s (railShut i s) SeqRail.pinLow := railMoves_upSeqRail rfl
  have hpin : (railShut i s).seq.rails[i].pinLow := hlow.rail
  have hstate (q : RailState) : RailMoves i s (setRailState i q (railShut i s)) SeqRail.pinLow :=
    hlow.trans (railMoves_upSeqRail hpin)
  have hfalls : RailMoves i s (enterDischarge i (railShut i s)) SeqRail.pinLow :=
    hlow.trans (enterDischarge_moves fun _ => rfl)
  have hleaves : RailMoves i s (enterDischarge i (leaveOn i (railShut i s))) SeqRail.pinLow :=
    (hlow.trans leaveOn_moves).trans (enterDischarge_moves fun _ => rfl)
  unfold shutRail
  dsimp only
  split
  · exact hstate .off
  · exact hstate .off
  · split
    · exact hfalls.side (alertShdn_side _ _)
    · exact hfalls
  · split
    · exact hfalls.side (alertShdn_side _ _)
    · exact hfalls
  · split
    · exact hleaves.side (alertShdn_side _ _)
    · exact hfalls
  · exact hfalls
  · exact hlow.trans (railMoves_of_side (reachOff_side i _) hpin)
  · exact hstate .off
  · exact hstate .off
  · exact hlow

/-- What the shut-off leaves alone beside the groups' requests and the rails. -/
def besideRails (s : State) : Vector SeqGroup 8 × Flt × Pwr × Regs × Clk := (s.seq.groups, s.flt, s.pwr, s.regs, s.clk)

theorem shutRail_beside (i : SeqIdx) (s : State) : besideRails (shutRail i s) = besideRails s := by
  obtain ⟨hseq, hflt, hpwr, hregs, hclk⟩ := (shutRail_moves i s).frame
  rw [besideRails, besideRails, hseq, hflt, hpwr, hregs, hclk]

/-- After the shut-off no group is requested and no enable pin is high, and the collector, the power, the set-up and the
clocks are as they were. -/
theorem shutOff_shut (s : State) :
    (shutOff s).seq.shutoff = true ∧
      (∀ g : Group, (shutOff s).seq.groups[g].req = false ∧ (shutOff s).seq.groups[g].retryc = 0) ∧
      (∀ k : SeqIdx, (shutOff s).seq.rails[k].xen = false) ∧
      ((shutOff s).flt, (shutOff s).pwr, (shutOff s).regs, (shutOff s).clk) = (s.flt, s.pwr, s.regs, s.clk) := by
  have hbeside : besideRails (State.each (fins 16) shutRail (shutGroups s)) = besideRails (shutGroups s) :=
    each_keeps _ besideRails _ fun i _ u => shutRail_beside i u
  have hpins (k : SeqIdx) : (State.each (fins 16) shutRail (shutGroups s)).seq.rails[k].xen = false := by
    obtain ⟨u, -, hu⟩ := each_at shutRail (fun u => u.seq.rails[k]) (shutGroups s) (nodup_fins 16) (mem_fins k)
      fun i u hi => (shutRail_moves i u).other (Ne.symm hi)
    rw [hu]
    exact (shutRail_moves k u).rail
  rw [shutOff_eq]
  generalize State.each (fins 16) shutRail (shutGroups s) = w at hbeside hpins ⊢
  simp only [besideRails, Prod.mk.injEq] at hbeside
  obtain ⟨hgroups, hrest⟩ := hbeside
  refine ⟨rfl, fun g => ?_, hpins, Prod.ext hrest.1 (Prod.ext hrest.2.1 (Prod.ext hrest.2.2.1 hrest.2.2.2))⟩
  rw [State.upSeq_seq]
  dsimp only
  rw [hgroups]
  have hshut : (modEach (fins 8) (fun _ => SeqGroup.shut) s.seq.groups)[g] = s.seq.groups[g].shut :=
    (modEach_get (nodup_fins 8) _ _ g).trans (if_pos (mem_fins g))
  exact ⟨congrArg SeqGroup.req hshut, congrArg SeqGroup.retryc hshut⟩

/-! ## The end of a take-down that runs too long, and of a core (R261, R263) -/

section Shut
variable {s : State}

/-- The rails whose fault-driven take-down has not come to its end. -/
def lateRails (s : State) : List SeqIdx :=
  (usedRails s.cfg).filter fun i => s.seq.rails[i].faultDown && !isDown (railState s i)

theorem exec_reactionTimeout (hdom : domOn s pdSeq = true)
    (hlate : ∃ k : SeqIdx, s.cfg.use k.val = true ∧ s.seq.rails[k].faultDown = true ∧
      isDown s.seq.rails[k].state = false) : exec .reactionTimeout s =
      .next (seqRest (shutOff (State.each (lateRails s) (fun i => raiseSeq i 7 0) s))) := by
  obtain ⟨k, huse, hfault, hdown⟩ := hlate
  have hmem : k ∈ lateRails s :=
    List.mem_filter.mpr ⟨(mem_filter_fins _ _).mpr huse, by rw [hfault, railState, hdown]; rfl⟩
  have hsome : (lateRails s).isEmpty = false := List.isEmpty_eq_false_iff.mpr (List.ne_nil_of_mem hmem)
  refine congrArg Host.Outcome.next (if_neg ?_)
  show ¬ (!domOn s pdSeq || (lateRails s).isEmpty) = true
  rw [hdom, hsome]
  decide

/-- The shut-off that a reaction beyond RXTO ends in (R261). -/
theorem reactionEnds_clause (s : State) : let v := shutOff (State.each (lateRails s) (fun i => raiseSeq i 7 0) s)
    v.seq.shutoff = true ∧ (∀ g : Group, v.seq.groups[g].req = false ∧ v.seq.groups[g].retryc = 0) ∧
      (∀ k : SeqIdx, v.seq.rails[k].xen = false) ∧ v.regs = s.regs ∧ v.clk = s.clk := by
  have hquiet : quiet (State.each (lateRails s) (fun i => raiseSeq i 7 0) s) = quiet s :=
    quiet_each _ _ _ fun i u => raiseSeq_quiet i 7 0 u
  obtain ⟨-, -, hclk, -, hregs, -⟩ := Quiet.of_quiet ((shutOff_quiet _).trans hquiet)
  obtain ⟨hshut, hgroups, hpins, -⟩ := shutOff_shut (State.each (lateRails s) (fun i => raiseSeq i 7 0) s)
  exact ⟨hshut, hgroups, hpins, hregs, hclk⟩

/-- The sequencer as its core's reset leaves it (R263): the set-up is kept, and of each rail its cause and DISCODE. -/
def Seq.coreReset (q : Seq) : Seq :=
  { q with core := true, retqual := false, pfs := false, pfmem := 0
           groups := Vector.replicate 8 SeqGroup.reset
           rails := q.rails.map fun k => { SeqRail.reset with discode := k.discode, lcause := k.lcause } }

/-- The immediate shut-off and the reset of the core (R263). -/
def coreReset (s : State) : State :=
  (State.each (fins 8) restRail (restampAt (· == .seq) (shutOff s))).upSeq Seq.coreReset

theorem exec_seqCoreMismatch (hdom : domOn s pdSeq = true) :
    exec .seqCoreMismatch s = .next (seqRest (raiseSeq 0 0xF 0xF (coreReset s))) :=
  congrArg Host.Outcome.next (if_neg (by rw [hdom]; decide))

/-- The blocks that a core's reset has no part in. -/
def besideCore (s : State) : Flt × Pwr × Regs × Clk × List Host.Cell × Tw × Gau :=
  (s.flt, s.pwr, s.regs, s.clk, s.nvm.mem, s.tw, s.gau)

theorem shutOff_besideCore (s : State) : besideCore (shutOff s) = besideCore s := by
  obtain ⟨-, -, -, hrest⟩ := shutOff_shut s
  obtain ⟨-, -, -, -, -, -, -, -, -, hgau, htw, -, hmem, -⟩ := Quiet.of_quiet (shutOff_quiet s)
  simp only [Prod.mk.injEq] at hrest
  obtain ⟨hflt, hpwr, hregs, hclk⟩ := hrest
  rw [besideCore, besideCore, hflt, hpwr, hregs, hclk, hmem, htw, hgau]

theorem upSeq_besideCore (f : Seq → Seq) (s : State) : besideCore (s.upSeq f) = besideCore s := rfl

theorem restampAt_besideCore (p : MarkerAt → Bool) (s : State) : besideCore (restampAt p s) = besideCore s := rfl

theorem restRail_besideCore (r : Rail) (s : State) : besideCore (restRail r s) = besideCore s := by
  obtain ⟨pwm, hrest⟩ := restRail_eq r s
  rw [hrest]
  rfl

theorem coreReset_besideCore (s : State) : besideCore (coreReset s) = besideCore s := by
  rw [coreReset, upSeq_besideCore, each_keeps restRail besideCore _ fun r _ u => restRail_besideCore r u,
    restampAt_besideCore, shutOff_besideCore]

theorem coreReset_seq (s : State) : (coreReset s).seq = (shutOff s).seq.coreReset := by
  have hrests : (State.each (fins 8) restRail (restampAt (· == .seq) (shutOff s))).seq = _ :=
    each_keeps restRail State.seq _ fun r _ u => (of_seqSide (restRail_side r u)).1
  rw [coreReset, State.upSeq_seq, hrests]
  rfl

/-- The window of an event opens and closes by the collector's and the clocks' records alone (R519). -/
theorem windowClosed_coreReset (e cause unit : Nat) (s : State) :
    windowClosed e cause unit (coreReset s) = windowClosed e cause unit s := by
  have hbeside := coreReset_besideCore s
  simp only [besideCore, Prod.mk.injEq] at hbeside
  obtain ⟨hflt, hpwr, -, hclk, -⟩ := hbeside
  unfold windowClosed domOn perNow
  rw [hflt, hpwr, hclk]

theorem coreReset_rail (q : Seq) (k : SeqIdx) : q.coreReset.rails[k] =
    { SeqRail.reset with discode := q.rails[k].discode, lcause := q.rails[k].lcause } := by
  simp [Seq.coreReset]

theorem coreReset_group (q : Seq) (g : Group) : q.coreReset.groups[g] = SeqGroup.reset := by
  simp [Seq.coreReset]

/-- The core's mismatch is noted as rail 0's cause, as event 0x40 is raised (R263). -/
theorem coreReset_clause (s : State) : let w := causeNoted 0 0xF (coreReset s)
    w.seq.shutoff = true ∧ w.seq.core = true ∧ w.seq.rails[(0 : SeqIdx)].lcause = 0xF ∧
      (∀ k : SeqIdx, w.seq.rails[k].state = .off ∧ w.seq.rails[k].xen = false) ∧
      (∀ g : Group, w.seq.groups[g].req = false ∧ w.seq.groups[g].retryc = 0) ∧ w.regs = s.regs ∧ w.clk = s.clk ∧
      w.nvm.mem = s.nvm.mem ∧ w.tw = s.tw ∧ w.gau = s.gau := by
  have hbeside : besideCore (causeNoted 0 0xF (coreReset s)) = besideCore s := by
    rw [causeNoted, State.upSeqRail, upSeq_besideCore, coreReset_besideCore]
  have hshut := (shutOff_shut s).1
  simp only [besideCore, Prod.mk.injEq] at hbeside
  obtain ⟨-, -, hrest⟩ := hbeside
  have hw : (causeNoted 0 0xF (coreReset s)).seq = { (shutOff s).seq.coreReset with
      rails := vmod (shutOff s).seq.coreReset.rails 0 fun k => { k with lcause := 0xF } } := by
    rw [← coreReset_seq]
    rfl
  refine ⟨?_, ?_, ?_, fun k => ?_, fun g => ?_, hrest⟩
  · rw [hw]
    exact hshut
  · rw [hw]
    rfl
  · rw [hw]
    exact congrArg SeqRail.lcause (vmod_same ..)
  · rw [hw]
    dsimp only
    rw [vmod_get, coreReset_rail]
    split <;> exact ⟨rfl, rfl⟩
  · rw [hw]
    dsimp only
    rw [coreReset_group]
    exact ⟨rfl, rfl⟩

end Shut

/-! ## The settlement -/

section Clauses
variable {s : State} {i : SeqIdx}

theorem powerGoodTimeout_clause (hdom : domOn s pdSeq = true) (hstate : s.seq.rails[i].state = .pgwait)
    (hw : windowClosed (0x40 + i.val) 1 i.val s = true) : let j := groupOf s.cfg i
    ∃ u v, exec (.powerGoodTimeout i) s = .next (seqRest v) ∧
      Raised (0x40 + i.val) (s.upSeqRail i fun k => { k with lcause := 1 }) u ∧
      (u.seq.rails[i].state = .pgwait → u.seq.groups = s.seq.groups →
        (s.cfg.policy j.val = true → v.seq.rails[i].held = .toFailed) ∧
        (s.cfg.policy j.val = false → s.seq.groups[j].retryc.val < s.cfg.nretry j.val →
          v.seq.groups[j] = { u.seq.groups[j] with retrying := true } ∧
          (s.cfg.use i.val = true → v.seq.rails[i].held =
            if u.seq.rails[i].held = .toFailed ∨ u.seq.rails[i].held = .toBlocked then u.seq.rails[i].held
            else .groupRetry)) ∧
        (s.cfg.policy j.val = false → s.cfg.nretry j.val ≤ s.seq.groups[j].retryc.val →
          ∃ w, v = raiseSeq i 5 0 w ∧ w.seq.groups[j].req = false ∧ w.seq.groups[j].failed = true)) := by
  intro j
  have hcfg : (raiseSeq i 1 1 s).cfg = s.cfg := raiseSeq_cfg i 1 1 s
  refine ⟨raiseSeq i 1 1 s, pgTimedOut i j (raiseSeq i 1 1 s), exec_powerGoodTimeout hdom hstate, raiseSeq_raised 1 hw,
    fun _ hgroups => ⟨fun hpol => ?_, fun hpol hleft => ?_, fun hpol hnone => ?_⟩⟩
  · rw [pgTimedOut, hcfg, if_pos hpol]
    exact railFails_held i _
  · rw [pgTimedOut, hcfg, if_neg (by rw [hpol]; decide), if_neg (by rw [hgroups]; exact Nat.not_le.mpr hleft)]
    exact ⟨groupRetry_group, fun huse => groupRetry_held (mem_groupRails.mpr (by rw [hcfg]; exact ⟨huse, rfl⟩))⟩
  · rw [pgTimedOut, hcfg, if_neg (by rw [hpol]; decide), if_pos (by rw [hgroups]; exact hnone)]
    exact groupFails_clause i j _

end Clauses

/-- Settles O20: each interval's command is the operation that its name says, and each operation changes the records of
its own rail; the shut-off and the core's reset change every rail's. -/
theorem railIntervals : Obligations.RailIntervals := by
  unfold Obligations.RailIntervals
  refine ⟨fun s i hdom => ?_, fun s i hdom => ?_⟩
  · intro atRest
    refine ⟨fun hstate hwant hfree => ⟨_, exec_onDelayEnd hdom hstate hwant hfree, enterRamp_state i s,
        enterRamp_external, fun r => enterRamp_records⟩,
      exec_rampTimeEnd hdom,
      fun hstate huse hpgood hlive => ⟨_, exec_powerGoodChange_good hdom hstate huse hpgood hlive, enterOn_clause⟩,
      fun hstate hlow => ⟨_, exec_discharged hdom hstate hlow, reachOff_reached i s⟩,
      fun q d hr hi => ⟨_, exec_seqRelease hr hi, ?_⟩⟩
    by_cases hhold : s.seq.rails[i].state = .hold
    · obtain ⟨hframe, hrest, -, hrails⟩ := reachOff_reached i s
      rw [if_pos hhold, if_pos hhold]
      exact ⟨_, rfl, hframe, hrest, hrails⟩
    · obtain ⟨e, he, -⟩ := ready_some hr
      rw [if_neg hhold, if_neg hhold]
      exact complete_ends _ 0 he
  · refine ⟨powerGoodTimeout_clause hdom, fun hstate hw => ?_, fun hlate => ?_, fun hw => ?_⟩
    · have hends := dischargeEnds_clause i (raiseSeq i 3 2 s)
      rw [raiseSeq_cfg] at hends
      exact ⟨_, _, exec_dischargeTimeout hdom hstate, raiseSeq_raised 2 hw, hends⟩
    · exact ⟨_, exec_reactionTimeout hdom hlate, reactionEnds_clause s⟩
    · have hwin : windowClosed (0x40 + (0 : SeqIdx).val) 0xF (0 : SeqIdx).val (coreReset s) = true :=
        (windowClosed_coreReset _ _ _ s).trans hw
      exact ⟨_, _, exec_seqCoreMismatch hdom, raiseSeq_raised 0xF hwin, coreReset_clause s⟩

end Sys2Proof.Machine
end
